-- ==== Sys2Proof/Word.lean ====
section
/-! DEFINITION. The word types, the sparse map type, and the records that commands carry as operands:
the contents of frames, messages and accesses that reach the block from outside. -/

namespace Sys2Proof

/-- A byte, a sector-independent unit of memory (R8). -/
abbrev Byte := BitVec 8
/-- A 32-bit word. -/
abbrev W32 := BitVec 32
/-- A 64-bit word. -/
abbrev W64 := BitVec 64
/-- The bits of an IEEE 754 binary32 value (R225). -/
abbrev F32 := BitVec 32
/-- The bits of a BF16 value (R36). -/
abbrev BF16 := BitVec 16

/-- A finite map by number: pairs in strictly rising order of the number (see `Sys2Proof.Machine.mset`). -/
abbrev FMap (α : Type) := List (Nat × α)

/-- A write of `MB_CMD` on a mailbox channel (R488): the opcode is the row's own. -/
structure MbWrite where
  ch : Fin 16
  /-- true: over the management port; false: over BAR0 -/
  mgmt : Bool
  ien : Bool
  phys : Bool
  token : BitVec 16
  deriving DecidableEq, Repr

/-- A write of `QDB` over BAR0 (R449, R450): the value, and the value that the chip port writes to the same doorbell in the
same ACLK, if any. -/
structure DbWrite where
  value : W64
  other : Option W32
  deriving DecidableEq, Repr

/-- A write of `SEM_VAL` over BAR0 (R455, R588): the value, and whether the last SET of the semaphore, from another source,
falls in the same ACLK (log entry 87). -/
structure SemWrite where
  value : W64
  same : Bool
  deriving DecidableEq, Repr

/-- A semaphore message of the chip port (R22, R455): the attachment that sends it, the value, and whether the last SET of the
semaphore falls in the same ACLK (log entry 87). -/
structure SemMsg where
  att : Fin 8
  value : W32
  same : Bool
  deriving DecidableEq, Repr

/-- A SEM_SIGNAL that takes effect (R457): the command, and whether the last SET of its semaphore falls in the same ACLK (log
entry 87). -/
structure SignalAt where
  cid : Nat
  same : Bool
  deriving DecidableEq, Repr

/-- HEALTH to a companion (R313, R323): the port, and the repairs of its own DRAM rows since it was last asked. -/
structure HealthAsk where
  port : Fin 8
  repairs : Nat
  deriving DecidableEq, Repr

/-- The two answers of the rail-alert input (R530). -/
inductive RailEvent where
  | asserted | released
  /-- 16,384 ACLK have passed since the release -/
  | holdOver
  deriving DecidableEq, Repr

/-- How one Transit link trained (R440, R442): the width reached (0 for none), what the partner reported,
and what the link map names (none: no partner, the link is not trained). -/
structure LinkTrain where
  width : Nat
  chip : BitVec 12
  link : BitVec 6
  want : Option (BitVec 12 × BitVec 6)
  deriving DecidableEq, Repr

/-- What Meridian reads through a stack's IEEE 1500 port and its training finds (R295, R324, R327, R328): whether the
identity is that of R295, the lanes that failed in each pseudo-channel and the spare lanes each has, the junction
temperature, and the hard and soft repair resources remaining, by pseudo-channel × 16 + bank group. -/
structure StackTrain where
  identity : Bool
  failed : List Nat
  spare : Nat
  temp : Nat
  hard : FMap Nat
  soft : FMap Nat
  deriving DecidableEq, Repr

/-- What a hang check looks at (R477). -/
inductive HangTarget where
  | queue (q : Fin 64)
  | tile (t : Fin 48)
  deriving DecidableEq, Repr

/-- The lists of a LOOKUP or of a supplied-map SCATTER as they travel in the index fan-out class
(R95, R175): index positions, bag offsets, weights, winners, each with a poison mark where its line was poisoned. -/
structure FanLists where
  idx : List (Int × Bool)
  off : List Nat
  wgt : List (F32 × Bool)
  win : List (W32 × Bool)
  deriving DecidableEq, Repr

/-- A fanned-out LOOKUP as a rank receives it (R95, R96, R106). -/
structure FanLookup where
  owner : BitVec 12
  tag : Nat
  table : BitVec 12
  tver : BitVec 16
  pmode : BitVec 2
  weighted : Bool
  keepMap : Bool
  nospec : Bool
  lc : Bool
  mapId : BitVec 16
  /-- 32-column blocks of the table's slices, less one: the columns of the answer where this chip lacks the version -/
  nblkM1 : BitVec 5
  lists : FanLists
  deriving DecidableEq, Repr

/-- A pooled-slice fan-in record (R97, R111). -/
structure FanRec where
  bag : Nat
  nvalid : Nat
  npos : Nat
  empty : Bool
  poison : Bool
  dropped : Bool
  vals : List F32
  deriving DecidableEq, Repr

/-- A scatter request as a rank receives it (R175 step 5, R176): the lists are given for a supplied map. -/
structure ScatReq where
  owner : BitVec 12
  tag : Nat
  table : BitVec 12
  tver : BitVec 16
  nbags : Nat
  mapsrc : Bool
  mapId : BitVec 16
  pmode : BitVec 2
  weighted : Bool
  release : Bool
  lc : Bool
  lists : FanLists
  deriving DecidableEq, Repr

/-- A rank's commit report (R199 to R201, R237). -/
structure CommitRep where
  rows : Nat
  records : Nat
  excluded : Nat
  digest : W64
  drops : Bool
  poison : Bool
  deriving DecidableEq, Repr

/-- One pair of a commit log or a recent-commit list (R237, R245). -/
structure RowStep where
  desc : Nat
  row : Nat
  step : Nat
  deriving DecidableEq, Repr

/-- The delivery message of R196: header and body bytes after the header. -/
structure UpdMsg where
  desc : Nat
  row : Nat
  ncontrib : Nat
  gfmt : BitVec 2
  ubatch : Nat
  nblkM1 : Nat
  body : List Byte
  deriving DecidableEq, Repr

/-- UPD_ACK of R218. -/
structure AckMsg where
  desc : Nat
  row : Nat
  ubatch : Nat
  step : Nat
  result : BitVec 4
  deriving DecidableEq, Repr

/-- SET_SERVE of R242. -/
structure ServeMsg where
  desc : Nat
  row : Nat
  prom : Bool
  pclass : Nat
  pversion : Nat
  deriving DecidableEq, Repr

/-- A table context of a Lyush (R207). -/
structure LyCtx where
  widest : Nat
  nblkM1 : Nat
  qp8 : BitVec 27
  qp4 : BitVec 27
  qp2 : BitVec 27
  prog : Nat
  pset : Nat
  homeOff : Nat
  stateOff : Nat
  stateSz : Nat
  cb8 : BitVec 16
  cb4 : BitVec 16
  cb2 : BitVec 16
  deriving DecidableEq, Repr

/-- One instruction of an update program (R222). -/
structure UInstr where
  opc : Nat
  dst : Nat
  sa : Nat
  sb : Nat
  sc : Nat
  deriving DecidableEq, Repr

/-- An update program (R221). -/
structure Prog where
  gfmt : Nat
  nsv : Nat
  divb : Nat
  epsreg : Nat
  ins : List UInstr
  deriving DecidableEq, Repr

/-- A parameter set as a chip stores it (R231): eight parameters and the frozen slice columns. -/
structure PSet where
  p : List F32
  frozen : List Bool
  deriving DecidableEq, Repr

/-- A codebook (R40 to R42): kind 0 CB2, 1 CB4, 2 CB8, and its entries. -/
structure Codebook where
  kind : Nat
  entries : List Int
  deriving DecidableEq, Repr

/-- A plain tier-S frame that carries data (R313): sectors of 32 bytes with poison bits. -/
structure SectorData where
  addr : Nat
  sectors : List (List Byte × Bool)
  deriving DecidableEq, Repr

/-- The outcome of one DRAM sector read (R318). -/
inductive DramOutcome where
  | clean | corrected | uncorrectable | poisoned | onDie
  deriving DecidableEq, Repr

/-- What the link and the arrays make of one sector that a companion reads (R321): a link error that link ECC corrects,
one that persists after its retries, or an array error that reaches the block unmarked as these bytes. -/
inductive LyOutcome where
  | clean | linkCe | linkUe
  | array (data : List Byte)
  deriving DecidableEq, Repr

/-- A read or a write that reaches a home slice (R335): the hint is that of R340. -/
structure LineAccess where
  addr : Nat
  write : Bool
  hint : BitVec 2
  /-- for a write: the bytes from `addr` on, within the line -/
  data : List Byte
  poison : Bool
  /-- the access came from the host over CXL.mem -/
  host : Bool
  deriving DecidableEq, Repr

/-- An error that an access finds (R349): in the data of the line that it hits, or in one or both tag copies of any way
of its set. -/
inductive LineErr where
  | none | correctable | uncorrectable
  | tagCopy (way : Fin 16)
  | tagLost (way : Fin 16)
  deriving DecidableEq, Repr

/-- Whether a request of the host is a plain access, an AtomicOp, or carries a translated address (R392). -/
inductive HostForm where
  | plain | atomic | translated
  deriving DecidableEq, Repr

/-- A host or adapter access at an offset of BAR2 or BAR4 (R396, R401). -/
structure HostAccess where
  form : HostForm
  off : Nat
  len : Nat
  write : Bool
  data : List Byte
  poison : Bool
  requester : BitVec 16
  deriving DecidableEq, Repr

/-- Who missed in a translation cache (R362). -/
inductive Requester where
  | tile (t : Fin 48)
  | chipPort
  deriving DecidableEq, Repr

/-- A dense-engine request at the chip port (R25, R388). -/
structure CpRequest where
  id : Nat
  va : BitVec 52
  len : Nat
  /-- 0 read, 1 write, 2 fetch-and-add, 3 compare-and-swap -/
  op : BitVec 2
  data : List Byte
  poison : Bool
  deriving DecidableEq, Repr

/-- What a host line event or host read brings back. -/
structure HostReply where
  id : Nat
  data : List Byte
  poison : Bool
  deriving DecidableEq, Repr

/-- The snoops of R408. -/
inductive Snoop where
  | data | inv | cur
  deriving DecidableEq, Repr

/-- Why the host path was lost (R413). -/
inductive PathLoss where
  | dataLinkDown | hotReset | conventionalReset | functionReset
  deriving DecidableEq, Repr

/-- A Transit message header with its payload (R429, R437). -/
structure TMsg where
  cls : Nat
  leg : Nat
  dst : BitVec 12
  src : BitVec 12
  mtype : BitVec 4
  len : Nat
  tag : Nat
  arg : W64
  payload : List Byte
  /-- poison bits of the payload's sectors -/
  poison : List Bool
  deriving DecidableEq, Repr

/-- A Transit flit as received (R427): the message, if any, that ends in it. -/
structure TFlit where
  seq : Nat
  ackseq : Nat
  nak : Bool
  idle : Bool
  cred : List (Nat × Nat × Nat)
  /-- corrections that its forward error correction made (R441) -/
  fec : Nat
  msgs : List TMsg
  deriving DecidableEq, Repr

/-- Tile state in which a parity error is found (R545). -/
inductive TilePart where
  | hint (set way : Nat)
  | xlate (slot : Nat)
  | dedup (uid ent : Nat)
  | other (uid : Nat)
  /-- the run buffer or the merge entries of a SCATTER's job, a stream's context in the engine -/
  | scat (jid : Nat)
  | stream (n : Nat)
  | idle
  deriving DecidableEq, Repr

/-- Sources of an internal error (R548), a mesh packet with an error that was corrected in a destination quadrant (R546),
and a corrected error in Meridian's SRAM (R547), whose uncorrectable errors have a row of their own. -/
inductive IntSource where
  | mesh | orrery | almanac | xlate | semfile
  | meshCorrected (quad : Fin 4)
  | meridianCorrected
  deriving DecidableEq, Repr

/-- The events of FRZ_CTRL that freeze the block (R557). -/
inductive FreezeEvent where
  | internal | meridian | thermal
  | hangQueue (q : Fin 64)
  | hangTile (t : Fin 48)
  | memUe (set : BitVec 8)
  deriving DecidableEq, Repr

/-- The home header and state of one row as another rank reports it over Transit (R238). -/
structure RankStep where
  rank : Nat
  step : Nat
  deriving DecidableEq, Repr

end Sys2Proof
end

