-- ==== Sys2Proof/Syntax.lean ====
section
/-! DEFINITION. The commands: one constructor for each row of spec/opcode_table.json, in the table's order.
Internal data comes from State; an operand names the unit an event concerns, or carries what reaches the block from outside. -/

namespace Sys2Proof

/-- The commands of the block, one for each row of the table of operations and events. -/
inductive Instr where
  /-- POWER_ON_RESET (R532). -/
  | powerOnReset
  /-- PLL_LOCK (R514). -/
  | pllLock
  /-- PLL_LOCK_LOSS (R516). -/
  | pllLockLoss
  /-- RESET_LINE_FULL (R533). -/
  | resetLineFull (reservedMode : Bool)
  /-- RESET_LINE_FULL_SR (R533). -/
  | resetLineFullSr
  /-- RESET_LINE_RESTART (R533). -/
  | resetLineRestart
  /-- FIRMWARE_LOAD (R482). -/
  | firmwareLoad (image : List Byte)
  /-- MER_HEART_TICK (R484). -/
  | merHeartTick
  /-- SL1_ENTRY (R540). -/
  | sl1Entry (lanes : List Nat) (links : List LinkTrain)
  /-- STACK_JOIN (R331). -/
  | stackJoin (k : Fin 6) (t : StackTrain)
  /-- SL3_TRANSITION (R541). -/
  | sl3Transition
  /-- IDENTIFY (R505). -/
  | identify (m : MbWrite)
  /-- EVENT_READ (R505). -/
  | eventRead (m : MbWrite)
  /-- COUNTER_READ (R550). -/
  | counterRead (m : MbWrite)
  /-- BIND_CHANNEL (R486). -/
  | bindChannel (m : MbWrite)
  /-- LOCK_BINDINGS (R486). -/
  | lockBindings (m : MbWrite)
  /-- LOAD_CODEBOOK (R44). -/
  | loadCodebook (m : MbWrite)
  /-- DEFINE_TABLE (R71). -/
  | defineTable (m : MbWrite)
  /-- LOAD_IMAGE (R63). -/
  | loadImage (m : MbWrite)
  /-- DUMP_TABLE (R506). -/
  | dumpTable (m : MbWrite)
  /-- BIND_TABLE (R506). -/
  | bindTable (m : MbWrite)
  /-- DROP_TABLE (R506). -/
  | dropTable (m : MbWrite)
  /-- TABLE_PARAMS (R232). -/
  | tableParams (m : MbWrite)
  /-- LOAD_PROG (R229). -/
  | loadProg (m : MbWrite)
  /-- LOAD_PSET (R231). -/
  | loadPset (m : MbWrite)
  /-- FREEZE_ROW (R506). -/
  | freezeRow (m : MbWrite)
  /-- SET_SKEW_POLICY (R239). -/
  | setSkewPolicy (m : MbWrite)
  /-- LEVEL_ROW (R239). -/
  | levelRow (m : MbWrite)
  /-- RELEASE_MAP (R174). -/
  | releaseMap (m : MbWrite)
  /-- SET_SPLIT_GROUP (R67). -/
  | setSplitGroup (m : MbWrite)
  /-- SET_SCRUB_POLICY (R238). -/
  | setScrubPolicy (m : MbWrite)
  /-- SET_LAYOUT (R511). -/
  | setLayout (m : MbWrite)
  /-- SET_MEM_SPLIT (R306). -/
  | setMemSplit (m : MbWrite)
  /-- SET_MEM_POLICY (R507). -/
  | setMemPolicy (m : MbWrite)
  /-- SET_STRIPE (R301). -/
  | setStripe (m : MbWrite)
  /-- MEM_HEALTH (R328). -/
  | memHealth (m : MbWrite)
  /-- CACHE_MAINT (R346). -/
  | cacheMaint (m : MbWrite)
  /-- CACHE_DISABLE (R351). -/
  | cacheDisable (m : MbWrite)
  /-- CACHE_DISABLE_DONE (R351). -/
  | cacheDisableDone
  /-- CACHE_ENABLE (R351). -/
  | cacheEnable (m : MbWrite)
  /-- SET_RANGE (R358). -/
  | setRange (m : MbWrite)
  /-- INVALIDATE_RANGE (R364). -/
  | invalidateRange (m : MbWrite)
  /-- ARM_STREAM (R369). -/
  | armStream (m : MbWrite)
  /-- STREAM_REARM_TAKE (R375). -/
  | streamRearmTake (st : Fin 256)
  /-- DISARM_STREAM (R376). -/
  | disarmStream (m : MbWrite)
  /-- STREAM_QUERY (R374). -/
  | streamQuery (m : MbWrite)
  /-- SET_STREAM_POLICY (R380). -/
  | setStreamPolicy (m : MbWrite)
  /-- FAULT_READ (R385). -/
  | faultRead (m : MbWrite)
  /-- FAULT_RESOLVE (R387). -/
  | faultResolve (m : MbWrite)
  /-- OPEN_APERTURE (R400). -/
  | openAperture (m : MbWrite)
  /-- CLOSE_APERTURE (R400). -/
  | closeAperture (m : MbWrite)
  /-- SET_PLACE_REGION (R401). -/
  | setPlaceRegion (m : MbWrite)
  /-- SET_HOST_PATH (R406). -/
  | setHostPath (m : MbWrite)
  /-- HOST_ATTACH (R418). -/
  | hostAttach (m : MbWrite)
  /-- READ_HOST_LOG (R417). -/
  | readHostLog (m : MbWrite)
  /-- SET_FABRIC_ID (R422). -/
  | setFabricId (m : MbWrite)
  /-- SET_ROUTE (R423). -/
  | setRoute (m : MbWrite)
  /-- SET_TRANSIT_POLICY (R432). -/
  | setTransitPolicy (m : MbWrite)
  /-- SET_REMOTE_SLOT (R435). -/
  | setRemoteSlot (m : MbWrite)
  /-- SET_REMOTE_WINDOW (R436). -/
  | setRemoteWindow (m : MbWrite)
  /-- QUEUE_CONFIG (R447). -/
  | queueConfig (m : MbWrite)
  /-- QUEUE_ABORT (R478). -/
  | queueAbort (m : MbWrite)
  /-- PLAN_STORE (R463). -/
  | planStore (m : MbWrite)
  /-- PLAN_PATCH (R464). -/
  | planPatch (m : MbWrite)
  /-- PLAN_DROP (R510). -/
  | planDrop (m : MbWrite)
  /-- TASK_CONFIG (R466). -/
  | taskConfig (m : MbWrite)
  /-- SET_MIG_POLICY (R288). -/
  | setMigPolicy (m : MbWrite)
  /-- PARK (R519). -/
  | park (m : MbWrite)
  /-- PARK_ENTRY_END (R520). -/
  | parkEntryEnd
  /-- WAKE_LINE (R522). -/
  | wakeLine
  /-- WAKE_COMPLETE (R523). -/
  | wakeComplete
  /-- SET_POWER_CAP (R527). -/
  | setPowerCap (m : MbWrite)
  /-- POWER_CONTROL_INTERVAL (R528). -/
  | powerControlInterval (estimate : Nat)
  /-- RAIL_ALERT (R530). -/
  | railAlert (e : RailEvent)
  /-- SENSOR_TEMPERATURE (R530). -/
  | sensorTemperature (i : Fin 8) (celsius : BitVec 8)
  /-- BLOCK_RESTART (R479). -/
  | blockRestart (m : MbWrite)
  /-- BLOCK_RESTART_END (R480). -/
  | blockRestartEnd (trains : List StackTrain) (lanes : List Nat) (micros : BitVec 32)
  /-- MAILBOX_RESERVED_OPCODE (R492). -/
  | mailboxReservedOpcode (m : MbWrite) (opc : BitVec 8)
  /-- MAILBOX_OVERRUN (R490). -/
  | mailboxOverrun (m : MbWrite) (opc : BitVec 8)
  /-- DOORBELL (R450). -/
  | doorbell (q : Fin 64) (d : DbWrite)
  /-- CHIP_PORT_DOORBELL (R449). -/
  | chipPortDoorbell (q : Fin 64) (v : W32)
  /-- QUEUE_WAKE (R454). -/
  | queueWake (q : Fin 64)
  /-- QCACK_WRITE (R586). -/
  | qcackWrite (q : Fin 64) (v : W64)
  /-- SEM_VAL_WRITE (R588). -/
  | semValWrite (i : Fin 1024) (w : SemWrite)
  /-- SEM_ADD_WRITE (R588). -/
  | semAddWrite (i : Fin 1024) (vs : List W64)
  /-- CHIP_PORT_SEMAPHORE (R455). -/
  | chipPortSemaphore (i : Fin 1024) (add : Bool) (m : SemMsg)
  /-- HW_WIN_WRITE (R399). -/
  | hwWinWrite (v : W64)
  /-- MSIX_VECTOR_UNMASK (R589). -/
  | msixVectorUnmask (v : Fin 81)
  /-- REGISTER_WRITE (R572). -/
  | registerWrite (mgmt : Bool) (off : Nat) (words : List W64)
  /-- QUEUE_FETCH (R451). -/
  | queueFetch (q : Fin 64)
  /-- QUEUE_RESERVED_OPCODE (R456). -/
  | queueReservedOpcode (cid : Nat)
  /-- COMMAND_COMPLETION (R459). -/
  | commandCompletion (cid : Nat)
  /-- INTERRUPT_DELAY_EXPIRY (R462). -/
  | interruptDelayExpiry (q : Fin 64)
  /-- SEM_WAIT (R456). -/
  | semWait (cid : Nat)
  /-- SEM_WAIT_RELEASE (R457). -/
  | semWaitRelease (cid : Nat)
  /-- SEM_SIGNAL (R457). -/
  | semSignal (g : SignalAt)
  /-- FENCE (R456). -/
  | fence (cid : Nat)
  /-- LAUNCH (R465). -/
  | launch (cid : Nat)
  /-- PLAN_NODE_DISPATCH (R465). -/
  | planNodeDispatch (cid node : Nat)
  /-- TASK_TRIGGER (R466). -/
  | taskTrigger (t : Fin 64)
  /-- WORK_UNIT_DISPATCH (R467). -/
  | workUnitDispatch (quad : Fin 4)
  /-- TIME_SLICE_EXPIRY (R469). -/
  | timeSliceExpiry (q : Fin 64)
  /-- PREEMPT_L2 (R474). -/
  | preemptL2 (uid : Nat)
  /-- UNIT_RESTORE (R475). -/
  | unitRestore (uid : Nat) (tile : Fin 48)
  /-- HANG_CHECK (R477). -/
  | hangCheck (target : HangTarget)
  /-- LOOKUP (R113). -/
  | lookup (cid : Nat)
  /-- LOOKUP_FAN_OUT (R96). -/
  | lookupFanOut (f : FanLookup)
  /-- POSITION_INTAKE (R117). -/
  | positionIntake (uid : Nat)
  /-- GCQ_GRANT (R126). -/
  | gcqGrant (tile : Fin 48)
  /-- PROBE_RETURN (R81). -/
  | probeReturn (uid ent : Nat)
  /-- ROW_DATA_ARRIVAL (R130). -/
  | rowDataArrival (uid ent : Nat)
  /-- GROUP_CLOSE (R150). -/
  | groupClose (uid bag grp : Nat)
  /-- BAG_RELEASE (R153). -/
  | bagRelease (uid bag : Nat)
  /-- SEGMENT_FOLD (R158). -/
  | segmentFold (uid : Nat)
  /-- FAN_IN_RECORD (R98). -/
  | fanInRecord (cid rank : Nat) (r : FanRec)
  /-- SCATTER (R175). -/
  | scatter (cid : Nat)
  /-- SCATTER_REQUEST (R176). -/
  | scatterRequest (r : ScatReq)
  /-- SCATTER_POOL_RESERVE (R177). -/
  | scatterPoolReserve
  /-- READY (R175). -/
  | ready (cid rank : Nat)
  /-- REFUSE (R175). -/
  | refuse (cid rank : Nat)
  /-- CANCEL (R175). -/
  | cancel (owner : BitVec 12) (tag : Nat)
  /-- GRADIENT_INTAKE (R179). -/
  | gradientIntake (cid : Nat)
  /-- GRADIENT_SLICE (R180). -/
  | gradientSlice (owner : BitVec 12) (tag bag : Nat) (excluded : Bool) (vals : List F32)
  /-- EXPANSION_UNIT (R181). -/
  | expansionUnit (uid : Nat)
  /-- CONTRIBUTION_RECORD (R185). -/
  | contributionRecord (tile : Fin 48) (jid : Nat)
  /-- RUN_SORT (R185). -/
  | runSort (tile : Fin 48) (jid : Nat)
  /-- MERGE_ENTRY_GRANT (R188). -/
  | mergeEntryGrant (tile : Fin 48) (jid : Nat)
  /-- DELIVERY_SEND (R197). -/
  | deliverySend (tile : Fin 48) (jid : Nat)
  /-- COMMIT_HOLD_RELEASE (R472). -/
  | commitHoldRelease
  /-- COMMIT_REPORT (R200). -/
  | commitReport (cid rank : Nat) (r : CommitRep)
  /-- SKEW_LOG_HANDOFF (R237). -/
  | skewLogHandoff (desc : Fin 4096) (logs : List (List RowStep)) (heads : List (Nat × List RankStep))
  /-- SCRUB_ROW (R238). -/
  | scrubRow (desc : Fin 4096) (row : Nat) (others : List RankStep)
  /-- UPDATE (R217). -/
  | update (p : Fin 8) (u : UpdMsg)
  /-- UPDATE_ENGINE_TAKE (R217). -/
  | updateEngineTake (p : Fin 8)
  /-- BATCH_END (R209). -/
  | batchEnd (p : Fin 8) (ubatch : BitVec 16)
  /-- SET_SERVE (R242). -/
  | setServe (p : Fin 8) (f : ServeMsg)
  /-- RESEED (R243). -/
  | reseed (p : Fin 8) (desc : Fin 4096) (row : Nat) (slice : List Byte)
  /-- REQUANT (R244). -/
  | requant (p : Fin 8) (desc : Fin 4096) (row : Nat)
  /-- LEVEL_STEP (R239). -/
  | levelStep (p : Fin 8) (desc : Fin 4096) (row : Nat) (target : BitVec 24)
  /-- LOAD_CTX (R232). -/
  | loadCtx (p : Fin 8) (desc : Fin 4096) (c : LyCtx)
  /-- LOAD_PROG_FRAME (R230). -/
  | loadProgFrame (p : Fin 8) (id : Fin 256) (g : Prog)
  /-- LOAD_PSET_FRAME (R232). -/
  | loadPsetFrame (p : Fin 8) (id : Fin 256) (f : PSet)
  /-- LOAD_CB (R207). -/
  | loadCb (p : Fin 8) (id : Fin 1024) (c : Codebook)
  /-- COMPANION_RD (R313). -/
  | companionRd (p : Fin 8) (addr : Nat) (found : List LyOutcome)
  /-- SLOT_RD (R211). -/
  | slotRd (p : Fin 8) (desc : Fin 4096) (row : Nat)
  /-- COMPANION_WR (R322). -/
  | companionWr (p : Fin 8) (d : SectorData)
  /-- WR_MASK (R322). -/
  | wrMask (p : Fin 8) (addr : Nat) (mask : W32) (data : List Byte) (poison : Bool)
  /-- SR_ENTER (R330). -/
  | srEnter (p : Fin 8)
  /-- SR_EXIT (R331). -/
  | srExit (p : Fin 8)
  /-- HEALTH (R313). -/
  | health (h : HealthAsk)
  /-- UPD_ACK (R219). -/
  | updAck (p : Fin 8) (a : AckMsg)
  /-- COPY (R241). -/
  | copy (p : Fin 8) (desc : Fin 4096) (row : Nat) (slice : List Byte)
  /-- BATCH_DONE (R209). -/
  | batchDone (p : Fin 8) (ubatch : BitVec 16)
  /-- COMMIT_LOG (R245). -/
  | commitLog (p : Fin 8) (l : List RowStep)
  /-- RD_DATA (R313). -/
  | rdData (p : Fin 8) (d : SectorData)
  /-- WR_ACK (R313). -/
  | wrAck (p : Fin 8)
  /-- SR_DONE (R313). -/
  | srDone (p : Fin 8)
  /-- HEALTH_DATA (R313). -/
  | healthData (p : Fin 8) (v : List W64)
  /-- COMPANION_RESERVED_FRAME (R208). -/
  | companionReservedFrame (p : Fin 8) (toBlock : Bool) (ty : BitVec 8) (result : Option (BitVec 4))
  /-- COMPANION_FLIT_NAK (R314). -/
  | companionFlitNak (p : Fin 8)
  /-- COMPANION_PORT_RETRAIN (R315). -/
  | companionPortRetrain (p : Fin 8) (lanes : Nat)
  /-- REPLACE (R273). -/
  | replace (cid : Nat)
  /-- REPLACE_RUN (R274). -/
  | replaceRun (cid : Nat)
  /-- SWAP_VERSION (R277). -/
  | swapVersion (cid : Nat)
  /-- SWAP_COMMIT (R278). -/
  | swapCommit (cid : Nat)
  /-- TOMBSTONE_RETIRING (R281). -/
  | tombstoneRetiring (desc : Fin 4096)
  /-- TOMBSTONE_CLEAR (R85). -/
  | tombstoneClear (desc : Fin 4096)
  /-- INSTALL (R253). -/
  | install (desc : Fin 4096) (row : Nat)
  /-- PROMOTE (R268). -/
  | promote (desc : Fin 4096) (row : Nat) (cls : Fin 4)
  /-- DEMOTE (R268). -/
  | demote (desc : Fin 4096) (row : Nat) (cls : Fin 4)
  /-- MOVE (R268). -/
  | move (desc : Fin 4096) (row : Nat) (pch : Fin 384)
  /-- RECLASS (R268). -/
  | reclass (desc : Fin 4096) (row : Nat) (cls : Fin 4)
  /-- PIN (R268). -/
  | pin (desc : Fin 4096) (row : Nat) (keep : Bool)
  /-- EPOCH_CLOSE (R259). -/
  | epochClose
  /-- QP_FORCED_DRAIN (R260). -/
  | qpForcedDrain (part : Fin 52)
  /-- MW_ROLLOVER (R283). -/
  | mwRollover
  /-- HOME_SLICE_ACCESS (R335). -/
  | homeSliceAccess (a : LineAccess) (e : LineErr)
  /-- BACK_INVALIDATE_ANSWER (R353). -/
  | backInvalidateAnswer (line : Nat) (data : Option (List Byte × Bool))
  /-- DRAM_READ_RETURN (R318). -/
  | dramReadReturn (addr : Nat) (r : DramOutcome)
  /-- ROW_REMAP (R326). -/
  | rowRemap (stack : Fin 6) (pch : Fin 64) (bank : BitVec 6) (row : BitVec 20) (mclk : Fin 12801)
  /-- PATROL_READ (R320). -/
  | patrolRead (stack : Fin 6) (r : DramOutcome)
  /-- REFRESH (R329). -/
  | refresh (stack : Fin 6)
  /-- TRANSLATION_FILL (R362). -/
  | translationFill (r : Requester) (stream : Option (Fin 256)) (va : BitVec 52) (right : Fin 3)
  /-- FAULT_ENTRY_GRANT (R384). -/
  | faultEntryGrant
  /-- STREAM_ENTRY (R379). -/
  | streamEntry (st : Fin 256)
  /-- LINK_WAIT_RELEASE (R372). -/
  | linkWaitRelease (st : Fin 256)
  /-- WAIT_GROUP_CHECK (R380). -/
  | waitGroupCheck (g : Fin 16)
  /-- PREFETCH (R389). -/
  | prefetch (cid : Nat)
  /-- ADVISE (R390). -/
  | advise (cid : Nat)
  /-- CHIP_PORT_REQUEST (R25). -/
  | chipPortRequest (r : CpRequest)
  /-- CHIP_PORT_DATA (R372). -/
  | chipPortData (ch : Fin 64) (lines : List (List Byte × Bool))
  /-- WINDOW_ACCESS (R396). -/
  | windowAccess (a : HostAccess)
  /-- BAR4_ACCESS (R401). -/
  | bar4Access (a : HostAccess)
  /-- CXL_MEM_READ (R353). -/
  | cxlMemRead (addr : Nat)
  /-- CXL_MEM_OWN (R353). -/
  | cxlMemOwn (addr : Nat)
  /-- CXL_MEM_WRITE (R403). -/
  | cxlMemWrite (addr : Nat) (data : List Byte) (poison : Bool)
  /-- HDM_COMMIT (R395). -/
  | hdmCommit
  /-- HOST_SNOOP (R408). -/
  | hostSnoop (k : Snoop) (addr : Nat)
  /-- HOST_READ_COMPLETION (R599). -/
  | hostReadCompletion (r : HostReply)
  /-- HOST_PATH_LOSS (R415). -/
  | hostPathLoss (why : PathLoss)
  /-- HOST_PATH_CLEANED (R415). -/
  | hostPathCleaned
  /-- HOST_LINK_RECOVERY (R413). -/
  | hostLinkRecovery
  /-- TRANSIT_FLIT (R427). -/
  | transitFlit (l : Fin 48) (f : TFlit)
  /-- TRANSIT_NAK (R441). -/
  | transitNak (l : Fin 48) (sent : Bool)
  /-- TRANSIT_RETRAIN (R443). -/
  | transitRetrain (l : Fin 48) (width : Nat)
  /-- LOSS_REPORT (R444). -/
  | lossReport (chip : BitVec 12) (tag : Option Nat)
  /-- TRANSIT_RESERVED_MESSAGE (R429). -/
  | transitReservedMessage (f : TMsg)
  /-- FO_REQ (R433). -/
  | foReq (owner : BitVec 12) (tag bytes : Nat)
  /-- FO_GRANT (R433). -/
  | foGrant (cid rank : Nat)
  /-- FO_DENY (R433). -/
  | foDeny (cid rank : Nat)
  /-- FAN_IN_WINDOW_RESERVE (R434). -/
  | fanInWindowReserve (cid : Nat)
  /-- WINDOW (R434). -/
  | window (owner : BitVec 12) (tag base : Nat)
  /-- REMOTE_RD (R438). -/
  | remoteRd (f : TMsg)
  /-- REMOTE_WR (R438). -/
  | remoteWr (f : TMsg)
  /-- REMOTE_AT (R438). -/
  | remoteAt (f : TMsg)
  /-- REMOTE_DATA (R437). -/
  | remoteData (f : TMsg)
  /-- REMOTE_ACK (R439). -/
  | remoteAck (f : TMsg)
  /-- REMOTE_ERR (R438). -/
  | remoteErr (f : TMsg)
  /-- TILE_PARITY_ERROR (R545). -/
  | tileParityError (t : Fin 48) (w : TilePart)
  /-- INTERNAL_ERROR (R546). -/
  | internalError (e : IntSource)
  /-- MERIDIAN_SRAM_ERROR (R547). -/
  | meridianSramError
  /-- FREEZE_LINE (R557). -/
  | freezeLine
  /-- FREEZE_ON_EVENT (R557). -/
  | freezeOnEvent (e : FreezeEvent)
  /-- FREEZE_SETTLED (R559). -/
  | freezeSettled
  /-- STACK_ABSENT (R542). -/
  | stackAbsent (k : Fin 6)
  /-- LINK_RECOVERY_END (R413). -/
  | linkRecoveryEnd
  /-- CXL_CACHE_WRITE_COMPLETION (R411). -/
  | cxlCacheWriteCompletion (id : Nat)
  /-- ALMANAC_SCAN (R289). -/
  | almanacScan (desc : Fin 4096)
  /-- POOL_AUDIT (R292). -/
  | poolAudit
  deriving DecidableEq, Repr

end Sys2Proof
end

