-- ==== Sys2Proof/Machine/Map.lean ====
section
/-! DEFINITION. Finite maps by number, kept in strictly rising order of the number, and small list helpers. -/

namespace Sys2Proof.Machine

/-- The value at a number. -/
def mget? {α : Type} : FMap α → Nat → Option α
  | [], _ => none
  | (k, v) :: m, n => if k = n then some v else mget? m n

/-- The value at a number, or a default. -/
def mget {α : Type} (m : FMap α) (n : Nat) (d : α) : α := (mget? m n).getD d

/-- Sets a value, keeping the order of the numbers. -/
def mset {α : Type} : FMap α → Nat → α → FMap α
  | [], n, v => [(n, v)]
  | (k, w) :: m, n, v =>
    if k = n then (n, v) :: m else if n < k then (n, v) :: (k, w) :: m else (k, w) :: mset m n v

/-- Removes a number. -/
def mdel {α : Type} : FMap α → Nat → FMap α
  | [], _ => []
  | (k, w) :: m, n => if k = n then m else (k, w) :: mdel m n

/-- Changes the value at a number that is present. -/
def mupd {α : Type} (m : FMap α) (n : Nat) (f : α → α) : FMap α :=
  match mget? m n with
  | some v => mset m n (f v)
  | none => m

/-- Applies a function to every value. -/
def mmap {α : Type} (m : FMap α) (f : Nat → α → α) : FMap α := m.map (fun x => (x.1, f x.1 x.2))

/-- The map is in its canonical order: numbers strictly rising. -/
def mwf {α : Type} : FMap α → Bool
  | [] => true
  | [_] => true
  | (k, _) :: (k', v) :: m => decide (k < k') && mwf ((k', v) :: m)

/-- `n` copies of work on a value, numbered from 0. -/
def iter {σ : Type} : Nat → (Nat → σ → σ) → σ → σ
  | 0, _, s => s
  | n + 1, f, s => f n (iter n f s)

/-- Sets element `i` of a list, if it is there. -/
def lset {α : Type} (l : List α) (i : Nat) (v : α) : List α := l.set i v

/-- Element `i` of a list, or a default. -/
def lget {α : Type} (l : List α) (i : Nat) (d : α) : α := l.getD i d

/-- Inserts a number into a strictly rising list. -/
def sins : List Nat → Nat → List Nat
  | [], n => [n]
  | k :: l, n => if k = n then k :: l else if n < k then n :: k :: l else k :: sins l n

/-- Removes a number from a list. -/
def sdel (l : List Nat) (n : Nat) : List Nat := l.filter (fun k => k != n)

/-- The lowest number below `bound` that is not in the list. -/
def lowestFree (l : List Nat) (bound : Nat) : Option Nat :=
  (List.range bound).find? (fun k => !(l.contains k))

/-- Bits [lo + w - 1 : lo] of a 64-bit word (R7), as a number. -/
def fld (x : W64) (lo w : Nat) : Nat := (x.toNat >>> lo) % 2 ^ w

/-- Bit n of a 64-bit word. -/
def bit (x : W64) (n : Nat) : Bool := x.getLsbD n

/-- A Bool as a number, for building words. -/
def b2n (b : Bool) : Nat := if b then 1 else 0

/-- Little-endian bytes of a number (R8). -/
def toBytes : Nat → Nat → List Byte
  | 0, _ => []
  | n + 1, v => BitVec.ofNat 8 v :: toBytes n (v / 256)

/-- The number whose little-endian bytes these are (R8). -/
def ofBytes : List Byte → Nat
  | [] => 0
  | b :: l => b.toNat + 256 * ofBytes l

/-- `n` bytes of a list from `off`, zero beyond its end. -/
def bytesAt (l : List Byte) (off n : Nat) : List Byte :=
  let x := (l.drop off).take n
  x ++ List.replicate (n - x.length) 0

/-- A little-endian field of a byte list. -/
def numAt (l : List Byte) (off n : Nat) : Nat := ofBytes (bytesAt l off n)

/-- Cuts a list into pieces of `n` elements; the fuel bounds the pieces. -/
def chunks {α : Type} (n : Nat) : Nat → List α → List (List α)
  | 0, _ => []
  | fuel + 1, l => if l.isEmpty then [] else l.take n :: chunks n fuel (l.drop n)

/-- Rounds up to a multiple. -/
def roundUp (n m : Nat) : Nat := (n + m - 1) / m * m

end Sys2Proof.Machine
end

