-- ==== Sys2Proof/Config.lean ====
section
/-! DEFINITION. What an implementation fixes, and the free values: constants without a body, so that no
proof can lean on a value of theirs (log entries 3, 6, 23, 26, 28, 111 and 131). -/

namespace Sys2Proof.Config

/-- Meridian's random source: the n-th draw (R79, R301, R332). Free value. -/
opaque random : Nat → W64

/-- The firmware build number that IDENTIFY returns (R505): the spec gives no value. Free value. -/
opaque fwBuild : W32

/-- A value the spec leaves open, used once for each number. Free value. -/
opaque free : Nat → W64

/-- Bytes the spec leaves open, by the number of the use and the place in it: the data under the poison mark of a read
that reached no memory (R304, R316). Free value. -/
opaque freeByte : Nat → Nat → Byte

/-- How the MEM_HEALTH output lays out a stack's report, whose contents R328 lists: the spec gives no layout, and no length.
Free values: how many bytes (fewer than 65,536, so that a buffer can take them), and each byte. -/
opaque stackReportLen : List Nat → Fin 65536
opaque stackReportByte : List Nat → Nat → Byte
/-- The report of a stack's contents. -/
def stackReport (l : List Nat) : List Byte := (List.range (stackReportLen l).val).map (stackReportByte l)

/-- The DRAM row of a run of sixteen granules of a pseudo-channel, the bank bits below its bank group, and the fold of
the row that is XORed into the bank group: R303 fixes what they must achieve and places none of these bits. Free values. -/
opaque dramRow : Nat → BitVec 20
opaque dramLowBank : Nat → BitVec 2
opaque dramRowFold : Nat → BitVec 3

/-- How a replacement engine's journal record lays out its descriptor, row, shadow slot, retired slot, stage and epoch
(R252): the spec gives its contents and its size, and no layout. Free value. -/
opaque journalByte : List Nat → Nat → Byte

/-- The 64 bytes of a journal record. -/
def journalRecord (l : List Nat) : List Byte := (List.range 64).map (journalByte l)

/-- Slots of a size, in bytes, that Meridian cuts from a quadrant's part of the promoted-slot pool (R250), before its
bound: the spec gives no division. Free value. -/
opaque poolShare : Nat → Nat → Nat

/-- Whether the queue behind a waiting counter is full in an ACLK (R307, R337): timing. Free value. -/
opaque queueFull : Nat → Nat → Bool

/-- The entries that a queue holds at an ACLK, before its bound (R307, R337): timing. Free value. -/
opaque queueHolds : Nat → Nat → Nat

/-- `AIH_ID` (R577). -/
def aihId : W64 := 0x0000308630E04821#64

/-- Command-set level 1.4 (R3). -/
def level : W32 := 0x0401#32

end Sys2Proof.Config
end

