-- ==== Sys2Proof/Machine/State.lean ====
section
/-! DEFINITION. The state of the block: every piece of state the spec gives it, as plain data, the queue of
waiting commands, the reasons a step can stop, and the state right after power-on reset. -/

namespace Sys2Proof.Machine

/-- No step of this model ends in a fault: the block reports errors in its state (R544). -/
inductive Fault where
  /-- Never raised. Safe. -/
  | none
  deriving DecidableEq, Repr

/-- Why a command has no meaning. -/
inductive Refusal where
  /-- Raised only by the dispatch, for a row that has no meaning yet. Safe. -/
  | notModelled (mnemonic : String)
  deriving DecidableEq, Repr

/-! ### Power, clocks, reset, errors (16, 17) -/

/-- Park (R520 to R523). -/
inductive ParkPhase where
  | running | entering | parked | waking
  deriving DecidableEq, Repr

/-- A block restart (R479): none, in progress, or ordered while parked and waiting for the wake (R524). -/
inductive RestartPhase where
  | none | running | afterWake
  /-- ordered, and the command of class F or S that Meridian has begun completes first (R500) -/
  | ordered
  deriving DecidableEq, Repr

structure RWindow where
  v : Bool
  rd : Bool
  wr : Bool
  at' : Bool
  hint : BitVec 2
  src : BitVec 12
  lbase : Nat
  len : Nat
  deriving DecidableEq, Repr

/-- Where an access of BAR2 or BAR4 goes, as it stood when the access arrived (R398, R400): tier memory with a cache
hint, the remote windows, nowhere since the window is off, or nowhere since the offset is not open. -/
inductive PortDst where
  | tier (pa : Nat) (hint : BitVec 2)
  | remote
  | winOff
  | refused
  deriving DecidableEq, Repr

/-- Where a mailbox command that Meridian has taken stands: it has not begun; it has begun and waits for bytes from outside or
for a back-invalidate; it has begun and waits for its turn on a row. -/
inductive MbTurn where
  | queued | begun | atRow
  deriving DecidableEq, Repr

/-- An access held for the end of a wake, for a back-invalidate, or behind one that is (R353, R410, R521, R524). -/
inductive Held where
  | fetch (q : Nat)
  /-- a window access that arrived behind a held write to BAR0, which may move the window (R398) -/
  | window (a : HostAccess)
  | port (dst : PortDst) (a : HostAccess)
  /-- CXL.mem requests at a device physical address; a write with the aperture's state at its arrival (R400) -/
  | memRead (addr : Nat)
  | memOwn (addr : Nat)
  | memWrite (addr : Nat) (data : List Byte) (poison aper : Bool)
  /-- words written to BAR0 (R410) -/
  | reg (off : Nat) (words : List W64)
  | snoop (k : Snoop) (addr : Nat)
  /-- a mailbox command taken with these arguments -/
  | mailbox (ch : Nat) (opc : Nat) (phys : Bool) (args : List W64) (turn : MbTurn)
  /-- a request of the dense engines -/
  | chipPort (r : CpRequest)
  /-- a remote request, with the window that permitted it when it came (R436, R438) -/
  | remote (f : TMsg) (w : Option RWindow)
  deriving DecidableEq, Repr

/-- Who reads or writes host or remote memory: a mailbox channel, a queue command or stream, or a request of the dense
engines. -/
inductive Who where
  | chan (ch : Nat)
  | cmd (cid : Nat)
  | cp (id : Nat)
  deriving DecidableEq, Repr

/-- Bytes that came back from host memory or from another chip for a reader. -/
structure Got where
  who : Who
  host : Bool
  addr : Nat
  /-- each byte with the poison mark it came with -/
  data : List (Byte × Bool)
  deriving DecidableEq, Repr

structure Pwr where
  pllLock : Bool
  pllLost : Bool
  sl : BitVec 2
  park : ParkPhase
  /-- a wake event arrived during entry -/
  wakeHeld : Bool
  held : List Held
  cap : Nat
  /-- the throttle controller's own level (R528) -/
  ctl : Nat
  railAlert : Bool
  /-- the rail alert's minimum still holds (R530) -/
  railHold : Bool
  temps : List Nat
  trip : Bool
  restart : RestartPhase
  /-- the block reset in force was in FULL_SR mode (R537, R543) -/
  fullSr : Bool
  /-- completion line and event line of the management port (R491, R501) -/
  complLine : Bool
  evtLine : Bool
  deriving DecidableEq, Repr

structure Err where
  merUe : Bool
  intUe : Bool
  intSrc : BitVec 8
  frzCtrl : BitVec 5
  frozen : Bool
  cause : BitVec 3
  settled : Bool
  cunit : BitVec 8
  /-- H_PARKED and H_RESTART of the freeze header (R560, R562) -/
  frzPark : Bool
  frzRestart : Bool
  deriving DecidableEq, Repr

/-! ### Meridian, mailboxes, events (15) -/

structure Chan where
  master : BitVec 2
  groups : BitVec 8
  cmd : W64
  busy : Bool
  ack : Bool
  done : Bool
  ovr : Bool
  rc : BitVec 8
  token : BitVec 16
  ien : Bool
  args : List W64
  rets : List W64
  deriving DecidableEq, Repr

/-- A class-L command that is still running (R494), with what it waits for. -/
inductive LRun where
  | disarm (ch : Nat) (st : Nat)
  /-- the entries of an extent `lo` to `hi`, marked when XGEN became `gen` -/
  | invalidate (ch : Nat) (entries : List Nat) (gen : W32) (lo hi : Nat)
  | cacheDisable (ch : Nat)
  | park (ch : Nat)
  | restart (ch : Nat)
  | params (ch : Nat) (desc : Nat) (mask : BitVec 4) (qp8 qp4 qp2 : BitVec 27) (pset : Nat)
  deriving DecidableEq, Repr

/-- Area sizes of R511, in bytes, and L. -/
structure Layout where
  l : Nat
  pool : Nat
  maps : Nat
  scat : Nat
  stage : Nat
  fanout : Nat
  fanin : Nat
  skew : Nat
  plans : Nat
  deriving DecidableEq, Repr

/-- A stripe of tier F (R297, R300). -/
structure Stripe where
  mode : BitVec 2
  seed : W64
  deriving DecidableEq, Repr

/-- The copy Meridian keeps in the management controller's non-volatile storage (R543). -/
structure Nvm where
  layout : Option Layout
  stripes : FMap Stripe
  seed : W64
  deriving DecidableEq, Repr

structure Mer where
  running : Bool
  halted : Bool
  heart : W32
  locked : Bool
  fabric : BitVec 12
  layout : Option Layout
  split : List Nat
  rowCeMax : Nat
  scrubPeriod : Nat
  scrubRate : Nat
  earlyScrub : List Nat
  /-- descriptors whose ranks reported different digests, with this rank's commit logs (R237) -/
  skewDue : FMap (List (List RowStep))
  nvm : Option Nvm
  lruns : List LRun
  /-- class-L commands beyond the eight that may run at once: channel, opcode, PHYS -/
  lheld : List (Nat × Nat × Bool)
  deriving DecidableEq, Repr

/-- An event record (R502). -/
structure Event where
  eseq : Nat
  code : BitVec 16
  unit : Nat
  ea : W64
  eb : W64
  deriving DecidableEq, Repr

structure Evt where
  eseq : Nat
  host : List Event
  mgmt : List Event
  lostHost : Nat
  lostMgmt : Nat
  deriving DecidableEq, Repr

structure Msix where
  /-- words of the MSI-X table that differ from reset, two for each entry -/
  table : FMap W64
  pba : List Nat
  sent : List Nat
  deriving DecidableEq, Repr

/-- A migration policy record (R288, R512). -/
structure MigPolicy where
  en : Bool
  mwLen : Nat
  hot : Nat
  cold : Nat
  t16 : Nat
  t8 : Nat
  t4 : Nat
  migMax : Nat
  almFill : Nat
  keepThresh : Nat
  keepMax : Nat
  chHot : Nat
  skewRatio : Nat
  skewWin : Nat
  skewMin : Nat
  epochMin : Nat
  qpGrace : Nat
  deriving DecidableEq, Repr

/-! ### Tables (02, 03, 07) -/

/-- A split-group record (R67). -/
structure Group where
  log2s : Nat
  rank : Nat
  chips : List (BitVec 12)
  deriving DecidableEq, Repr

/-- A table descriptor (R71); `dstate` as in R72. -/
structure Desc where
  table : Nat
  widest : Nat
  log2s : Nat
  rank : Nat
  group : Nat
  nblkM1 : Nat
  gsize : Nat
  resident : Bool
  dstate : Nat
  rows : Nat
  tver : BitVec 16
  cb8 : BitVec 16
  cb4 : BitVec 16
  cb2 : BitVec 16
  qp8 : BitVec 27
  qp4 : BitVec 27
  qp2 : BitVec 27
  prog : Nat
  pset : Nat
  tseed : W64
  homeOff : Nat
  stateOff : Nat
  stateSz : Nat
  resBase : Nat
  resStride : Nat
  deriving DecidableEq, Repr

structure Tabs where
  groups : FMap Group
  descs : FMap Desc
  binding : FMap Nat
  cbs : FMap Codebook
  progs : FMap Prog
  psets : FMap PSet
  /-- descriptors whose last load failed (R63), and 4,096 + those whose state file did (R513) -/
  loadFailed : List Nat
  manual : List Nat
  deriving DecidableEq, Repr

/-! ### Memory tiers (09) -/

structure Mem where
  cells : List Host.Cell
  /-- sectors with the poison syndrome, and sectors whose DRAM cells are uncorrectable (R317, R318) -/
  poisF : List Nat
  ueF : List Nat
  /-- the companions' poison directories (R322) -/
  poisS : List Nat
  /-- sectors whose reads over the companion link fail after every retry (R321) -/
  linkS : List Nat
  deriving DecidableEq, Repr

structure Stack where
  inService : Bool
  temp : Nat
  /-- spare lanes used, by pseudo-channel (R327) -/
  lanes : List Nat
  /-- hard and soft repair resources remaining, by pseudo-channel × 16 + bank group (R324, R328) -/
  hard : FMap Nat
  soft : FMap Nat
  /-- rows under soft repair since the last block reset: pseudo-channel, bank, row (R324, R326) -/
  softRows : List (Nat × Nat × Nat)
  refreshes : Nat
  /-- corrected events of DRAM rows in this window (R325): pseudo-channel and row, count -/
  tracker : FMap Nat
  patrolAt : Nat
  deriving DecidableEq, Repr

/-- An entry of the repair log (R324). -/
structure Repair where
  stack : Nat
  pch : Nat
  bank : Nat
  row : Nat
  /-- hard-repaired -/
  hard : Bool
  deriving DecidableEq, Repr

structure MemCtl where
  stripes : FMap Stripe
  stk : FMap Stack
  repairLog : List Repair
  /-- lane mappings that Meridian has logged: stack, spare lanes used by pseudo-channel (R327) -/
  laneLog : List (Nat × List Nat)
  /-- candidates for which no resource remained (R326) -/
  noResource : List (Nat × Nat × Nat)
  patrol : Bool
  selfRef : Bool
  /-- stacks whose bring-up has been tried since the block reset (R331) -/
  tried : List Nat
  /-- repair candidates: pseudo-channel, bank, DRAM row (R325) -/
  cands : List (Nat × Nat × Nat)
  deriving DecidableEq, Repr

/-! ### Row cache (10) -/

/-- One way of one set (R334): `x` is the line address a[47:6]. -/
structure CLine where
  x : Nat
  dirty : Bool
  keep : Bool
  poison : Bool
  touched : Bool
  data : List Byte
  deriving DecidableEq, Repr

/-- A read waiting on a DRAM fill (R336), or an access waiting for the host (R353). -/
structure Waiting where
  x : Nat
  acc : LineAccess
  deriving DecidableEq, Repr

structure Cache where
  seed : W64
  /-- by slice × 65,536 + set × 16 + way -/
  lines : FMap CLine
  /-- by slice × 4,096 + set -/
  trees : FMap Nat
  /-- disabled ways by slice, as a bit mask, and how many the slice disabled itself (R350) -/
  off : FMap Nat
  autoOff : FMap Nat
  /-- by 16 × slice + way -/
  ceWin : FMap Nat
  mshr : List Waiting
  /-- sectors of lines with an open miss that have come back from DRAM (R318) -/
  mret : List Nat
  biWait : List Waiting
  enabled : Bool
  cleaning : Bool
  done : Bool
  /-- snoop filters: line address, owned; oldest record first (R353) -/
  snoop : List (Nat × Bool)
  /-- lines whose back-invalidate snoop is out (R353) -/
  biSent : List Nat
  /-- lines whose back-invalidate the event under way needs; empty between steps -/
  need : List Nat
  deriving DecidableEq, Repr

/-- A stride detector (R344): stream, last line, last stride, run of equal strides, lines prefetched. -/
structure Detector where
  stream : Nat
  last : Nat
  stride : Int
  trained : Bool
  seen : Bool
  ahead : List Nat
  deriving DecidableEq, Repr

/-! ### Almanac and replacement (03, 08) -/

structure Hint where
  desc : Nat
  row : Nat
  slot : Nat
  version : Nat
  wclass : Nat
  deriving DecidableEq, Repr

/-- Journal stages (R252). -/
inductive Stage where
  | alloc | written | flipped | retired
  deriving DecidableEq, Repr

structure JRec where
  quad : Nat
  /-- its place among the engine's 4,096 records -/
  idx : Nat
  desc : Nat
  row : Nat
  shadow : Nat
  old : Option Nat
  stage : Stage
  epoch : Nat
  /-- taken for an install of a SCATTER's commit phase (R252) -/
  commit : Bool
  deriving DecidableEq, Repr

/-- A slot awaiting reclamation (R253 step 4). -/
structure Retired where
  addr : Nat
  size : Nat
  epoch : Nat
  desc : Nat
  deriving DecidableEq, Repr

structure Alm where
  /-- the pool's slots (R250), by quadrant × 128 + size in 32-byte units: first address and number -/
  cut : FMap (Nat × Nat)
  /-- by tile × 32,768 + set × 8 + way -/
  hints : FMap Hint
  /-- by tile × 4,096 + set -/
  hintTrees : FMap Nat
  /-- slots given out of the pool: address, size -/
  used : List (Nat × Nat)
  retire : List Retired
  journal : List JRec
  /-- COPY installs waiting at an engine: desc, row, slice -/
  copies : List (Nat × Nat × List Byte)
  epoch : W32
  passed : List Nat
  draining : List Nat
  count : Nat
  deriving DecidableEq, Repr

/-! ### Translation and streams (11) -/

/-- A range entry (R356). -/
structure Range where
  start : Nat
  length : Nat
  pbase : Nat
  p : Bool
  pin : Bool
  rd : Bool
  wr : Bool
  at' : Bool
  smode : Bool
  hint : BitVec 2
  host : Bool
  inval : Bool
  deriving DecidableEq, Repr

structure Xlt where
  ranges : FMap Range
  xgen : W32
  /-- entry numbers, most recently used first: by tile, and 48 for the chip port -/
  caches : FMap (List Nat)
  deriving DecidableEq, Repr

/-- A piece of an extent: host bus or device physical address, length, hint of its entry, virtual address. -/
structure Piece where
  host : Bool
  pa : Nat
  len : Nat
  hint : BitVec 2
  va : Nat
  ent : Nat
  deriving DecidableEq, Repr

/-- A stream descriptor (R367). -/
structure SDesc where
  kind : Nat
  queue : Nat
  tile : Nat
  hint : BitVec 2
  wgroup : Nat
  lrole : Nat
  bl : Nat
  count : Nat
  credits : Nat
  semP : Nat
  semC : Nat
  cpch : Nat
  linkcap : Nat
  deriving DecidableEq, Repr

/-- Stream states (R374). -/
inductive SState where
  | disarmed | running | waiting | faultParked | faultSwitched | idle
  deriving DecidableEq, Repr

/-- A block-list entry under way (R368): source, destination, length; kinds 1 and 2 have one address. -/
structure BlEntry where
  src : Nat
  dst : Nat
  len : Nat
  deriving DecidableEq, Repr

structure Strm where
  d : SDesc
  st : SState
  seq : Nat
  /-- next block-list entry, bytes of it already moved, bytes moved in all, lines moved in all -/
  entry : Nat
  moved : Nat
  total : Nat
  lines : Nat
  /-- lines transferred, those discarded on a CLOSED link left out -/
  xfer : Nat
  cur : Option BlEntry
  /-- lines already counted into the producer semaphore, and lines since discarded, which are not (R373, R381) -/
  added : Nat
  skip : Nat
  poisoned : Nat
  /-- the line under way holds a poisoned byte -/
  lineBad : Bool
  discarded : Bool
  rearm : Option SDesc
  /-- bytes read and not yet written or sent (kinds 0 and 1), each with its poison mark -/
  buf : List (Byte × Bool)
  /-- bytes of the block-list entry that is being fetched (R368) -/
  blBuf : List (Byte × Bool)
  /-- the read that the host port or Transit has accepted, with its translation (R364) -/
  pend : Option Piece
  /-- lines held for the chip port (kinds 2 to 4): up to 64 bytes and a poison bit -/
  staged : List (List Byte × Bool)
  bound : Option Nat
  /-- lines moved at the last wait-group check, and ticks unchanged -/
  seen : Nat
  quiet : Nat
  deriving DecidableEq, Repr

/-- A request held by a fault (R382): a stream, or a chip-port request by its id. -/
inductive FReq where
  | stream (s : Nat)
  | cp (r : CpRequest)
  deriving DecidableEq, Repr

/-- A fault entry (R385). -/
structure FaultEnt where
  fid : Nat
  addr : Nat
  acc : BitVec 3
  lc : Bool
  waiters : List Nat
  stream : Nat
  queue : Nat
  nwait : Nat
  reqs : List FReq
  deriving DecidableEq, Repr

/-- A fault stalled on a full fault queue (R384). -/
structure Stalled where
  addr : Nat
  right : Nat
  lc : Bool
  engine : Nat
  req : FReq
  deriving DecidableEq, Repr

/-- A CLOSED link, by its semaphores, and which of them have been rewritten since (R381). -/
structure ClosedLink where
  p : Nat
  c : Nat
  pSet : Bool
  cSet : Bool
  deriving DecidableEq, Repr

structure Streams where
  streams : FMap Strm
  closedLinks : List ClosedLink
  wcLimit : Nat
  reportOnly : Bool
  faults : List FaultEnt
  stalled : List Stalled
  fid : Nat
  /-- stream or chip-port requests that a RETRY released, so a new miss counts FAULT_REFAULT (R387) -/
  retried : List FReq
  groupRep : List Nat
  /-- by tile -/
  detectors : FMap (List Detector)
  /-- by tile: lines prefetched that no stream has read yet (R345) -/
  prefetched : FMap (List Nat)
  /-- dense-engine requests of which a part, with its translation, has gone over Transit or the host port (R364); of a
  read, `data` holds what its earlier parts have brought -/
  cpWait : List (CpRequest × Piece)
  /-- answers given to the dense engines: id, data, poison -/
  cpOut : List (Nat × List Byte × Bool)
  /-- lines sent on a chip-port channel -/
  cpLines : List (Nat × List Byte × Bool)
  /-- by tile: the stream that its engine served last (R379) -/
  turn : FMap Nat
  deriving DecidableEq, Repr

/-! ### Host port (12) -/

structure PlaceRegion where
  base : Nat
  len : Nat
  rd : Bool
  wr : Bool
  requester : BitVec 16
  deriving DecidableEq, Repr

structure HostPath where
  base : Nat
  len : Nat
  cache : Bool
  deriving DecidableEq, Repr

/-- MESI states of the host line cache (R407); Invalid lines are not listed. -/
inductive Mesi where
  | modified | exclusive | shared
  deriving DecidableEq, Repr

structure HLine where
  /-- the line address: bus address / 64 -/
  addr : Nat
  st : Mesi
  poison : Bool
  data : List Byte
  /-- commands that left the line M (R411) -/
  cids : List Nat
  deriving DecidableEq, Repr

/-- Bytes to merge into a line once the block owns it (R407). -/
structure Merge where
  off : Nat
  data : List Byte
  poison : Bool
  cid : Option Nat
  deriving DecidableEq, Repr

/-- What an outstanding host read is for. -/
inductive HostFor where
  | fetch (q : Nat)
  | flush (cid : Nat)
  | buf (w : Who)
  /-- RdCurr of the line at which a reader's bytes lie (R408) -/
  | cur (w : Who) (pa len : Nat)
  /-- a line of the host line cache, by RdShared or RdOwn, and the writes that came while it was out (R407) -/
  | line (x : Nat) (own : Bool) (merges : List Merge)
  deriving DecidableEq, Repr

structure HostRead where
  id : Nat
  addr : Nat
  len : Nat
  what : HostFor
  deriving DecidableEq, Repr

/-- A host-bound write not yet visible (R411). -/
structure HostWrite where
  id : Nat
  addr : Nat
  data : List Byte
  poison : Bool
  /-- true: ItoMWr or DirtyEvict on CXL.cache; false: posted on CXL.io -/
  cxl : Bool
  cids : List Nat
  deriving DecidableEq, Repr

/-- What the block sends on CXL.cache (R408). -/
inductive CxlOp where
  | rdCurr | rdShared | rdOwn | itoMWr | dirtyEvict | cleanEvictNoData
  deriving DecidableEq, Repr

/-- Answers to snoops of CXL.cache (R408; log entry 44): what the line was and what it is after. -/
inductive SnpRsp where
  | rspIHitI | rspVHitV | rspIHitSE | rspSHitSE | rspSFwdM | rspIFwdM | rspVFwdV
  deriving DecidableEq, Repr

structure HostPort where
  win : W64
  state : Nat
  aper : Bool
  aperMgmt : Bool
  placeEn : Bool
  logOver : Bool
  /-- HPA base of each HDM decoder that the host has programmed (R395); the table has no row for the programming, so that it
  is set from outside, as the queue is (log entry 16) -/
  hdmProg : FMap Nat
  /-- HPA base of each committed HDM decoder (R395) -/
  hdm : FMap Nat
  place : FMap PlaceRegion
  paths : FMap HostPath
  /-- host-path entries in force for the commands below a number (R406), lowest first -/
  oldPaths : List (Nat × FMap HostPath)
  /-- by set × 16 + way -/
  lines : FMap HLine
  trees : FMap Nat
  reads : List HostRead
  writes : List HostWrite
  /-- the same host-bound traffic, in the order sent -/
  sent : List (Nat × List Byte × Bool)
  /-- requests sent on CXL.cache with their line addresses, and answers to snoops, oldest first (R408) -/
  cxl : List (CxlOp × Nat)
  snp : List (Nat × SnpRsp)
  /-- answers to host reads, and the data of snoop answers, oldest first -/
  answers : List (List Byte × Bool)
  urs : Nat
  nextId : Nat
  log : List (Nat × List Byte)
  recov : Bool
  deriving DecidableEq, Repr

/-! ### Transit (13) -/

structure Route where
  nlink : Nat
  hops : Bool
  links : List Nat
  deriving DecidableEq, Repr

structure Slot where
  v : Bool
  dchip : BitVec 12
  rwin : Nat
  deriving DecidableEq, Repr

structure Link where
  up : Bool
  down : Bool
  width : Nat
  partner : BitVec 12
  /-- next sequence number to send, last flit received in order -/
  seq : Nat
  rcvd : Nat
  /-- flits sent and not acknowledged -/
  replay : List (Nat × TMsg)
  naks : Nat
  replays : Nat
  /-- send queues in order of arrival -/
  sendq : List TMsg
  /-- credits held by class × 2 + leg, in 16-byte units -/
  credits : FMap Nat
  /-- deficits of the six classes below CTL, the class whose turn it is, flits of theirs that CTL still lets pass (R432) -/
  deficits : List Nat
  turn : Nat
  ctlWait : Nat
  /-- a replay asked of the partner by NAK and not yet begun, and units of credit given back to it by class × 2 + leg (R427,
  R428, R441) -/
  nak : Bool
  returned : FMap Nat
  /-- receive-buffer shares now in force, KiB by class × 2 + leg (R428) -/
  shares : List Nat
  deriving DecidableEq, Repr

/-- A remote access or list that awaits an answer: tag, what for. -/
inductive RemoteFor where
  | buf (w : Who) (addr : Nat)
  | write (w : Who)
  deriving DecidableEq, Repr

/-- A fan-out reservation at a rank (R433). -/
structure FoRes where
  owner : BitVec 12
  tag : Nat
  bytes : Nat
  deriving DecidableEq, Repr

structure Transit where
  routes : FMap Route
  slots : FMap Slot
  windows : FMap RWindow
  links : FMap Link
  weights : List Nat
  shares : List Nat
  /-- messages handed to the link layer, oldest first -/
  out : List TMsg
  /-- messages lost with a link, or without a link to go by, whose loss has not been acted on (R444) -/
  lost : List TMsg
  wait : List (Nat × RemoteFor)
  nextTag : Nat
  foRes : List FoRes
  foWait : List FoRes
  /-- fan-in windows: cid, bytes; and LOOKUPs waiting for one -/
  fiRes : List (Nat × Nat)
  fiWait : List Nat
  unreachable : List Nat
  deriving DecidableEq, Repr

/-! ### Orrery (14) -/

structure QConf where
  ring : Nat
  log2n : Nat
  cring : Nat
  log2cn : Nat
  cseqAddr : Nat
  lc : Bool
  switch : Bool
  tiles : BitVec 48
  depth : Nat
  slice : Nat
  ien : Bool
  ivec : Nat
  icount : Nat
  itime : Nat
  hang : Nat
  hostRes : Bool
  deriving DecidableEq, Repr

/-- Queue states (R452). -/
inductive QState where
  | stopped | running | idle | blocked | switched | hung
  deriving DecidableEq, Repr

structure Queue where
  conf : Option QConf
  tail : W32
  fetch : W32
  cack : W64
  st : QState
  pendingDb : Bool
  dbErr : Bool
  cfull : Bool
  nextSeq : Nat
  cseq : Nat
  /-- sequence numbers whose record is written, above `cseq` -/
  written : List Nat
  /-- Q_CSEQ at the last interrupt -/
  signalled : Nat
  intPend : Bool
  /-- ACLK of slice owed (R471) -/
  owed : Nat
  /-- Q_PROG and the T_PROG of the tiles of its work at the last hang check -/
  seenProg : List Nat
  deriving DecidableEq, Repr

/-- Where a command in flight stands. -/
inductive Phase where
  /-- fetched, not yet started -/
  | fetched
  /-- held below SL3 (R537) or by a swap of its table (R278) -/
  | held
  /-- waits for a resource named by its kind (fan-in space, gate, semaphore, predecessors) -/
  | waiting
  | running
  /-- every effect made: the completion record is due -/
  | done
  deriving DecidableEq, Repr

/-- Who a command belongs to. -/
inductive Owner where
  | queue
  | stream (s : Nat)
  | task (t : Nat)
  | node (launch : Nat) (n : Nat)
  deriving DecidableEq, Repr

structure Cmd where
  cid : Nat
  q : Nat
  seq : Nat
  own : Owner
  words : List W64
  badLine : Bool
  stamp : W32
  phase : Phase
  bound : Option Nat
  drops : Bool
  poison : Bool
  fail : Option (BitVec 8)
  cnt0 : Nat
  cnt1 : Nat
  cnt2 : Nat
  rankLost : Bool
  promoted : Bool
  notPromoted : Bool
  wclass : Nat
  version : Nat
  /-- opcode reported in the record (0x80 + KIND for a stream) -/
  opc : Nat
  /-- ranks: k answered READY or granted a LOOKUP's fan-out, 64 + k granted a SCATTER's, 128 + k reported commit -/
  ranks : List Nat
  /-- LAUNCH: plan, version, nodes completed, skipped; SCATTER: the descriptor it resolved to -/
  plan : Nat
  pver : Nat
  /-- SCATTER: its place in the order of dispatch (R178); REPLACE: its place in the order of arrival at its row (R251); 0
  before it -/
  ord : Nat
  /-- REPLACE: the source that was read in full from a host (R275) -/
  src : Option (List Byte)
  /-- SWAP_VERSION: rows of the warm set still to be promoted, with their classes (R279) -/
  warm : Option (List (Nat × Nat))
  nodesDone : List Nat
  nodesSkipped : List Nat
  usesHost : Bool
  /-- a queue abort or the like has ended it; no more work may start -/
  ended : Bool
  deriving DecidableEq, Repr

/-- Where a row read of a window comes from (R121, R128, R131): `kept` holds data of a promoted copy whose address the
tile has given up (R258, R260, R262). -/
inductive RowSrc where
  | none
  | spec (slot version wclass epoch : Nat)
  | slot (addr version wclass : Nat) (keep : Bool)
  | home
  | resident
  | kept (wclass : Nat)
  deriving DecidableEq, Repr

/-- An Almanac probe (R81). -/
inductive ProbeSt where
  | noProbe | pending | found | absent
  deriving DecidableEq, Repr

/-- One row read of a window: a dedup entry, or a read without one (R120, R121). -/
structure RowEnt where
  row : Nat
  dedup : Bool
  /-- bytes that a dedup entry takes of the data store -/
  size : Nat
  src : RowSrc
  probe : ProbeSt
  data : Option (List Byte × Bool)
  conf : Bool
  /-- waits in the gather credit queue (R126) -/
  queued : Bool
  unpop : Bool
  poisoned : Bool
  /-- the measurement window in which its probe completed (R284) -/
  win : W32
  /-- what each read made before confirmation has still to count (R129, R284): key and number -/
  defer : List (List (Nat × Nat))
  /-- a speculative read that its probe has discarded and whose data are still under way, with the window of that probe
  (R124, R131) -/
  late : Option (RowSrc × W32)
  deriving DecidableEq, Repr

/-- One position taken (R117 to R122): `ent` is none when it is dropped. -/
structure PosRec where
  pos : Nat
  bag : Nat
  row : Nat
  ent : Option Nat
  /-- BF16 weight after R142, 1.0 when unweighted -/
  w : BF16
  /-- the quantised weight is non-zero -/
  wOk : Bool
  /-- the weight was flushed, was not finite, lay in a poisoned line (R119, R142): these take effect with the row -/
  flush : Bool
  nonfin : Bool
  wbad : Bool
  /-- its unconfirmed data were cleared from the lanes, which it joins again when confirmed (R131) -/
  held : Bool
  /-- it has raised a provisional top (R146) -/
  raised : Bool
  entered : Bool
  deriving DecidableEq, Repr

/-- A group that fills (R139, R141, R146): provisional tops by block, lanes by column. -/
structure Grp where
  bag : Nat
  k : Nat
  tops : List (Option Int)
  lanes : List Int
  deriving DecidableEq, Repr

/-- A bag or a segment of one on a tile: the accumulator, or values and winners. -/
structure BagAcc where
  bag : Nat
  nextGrp : Nat
  acc : Option (List F32)
  wins : List W32
  nvalid : Nat
  poison : Bool
  released : Bool
  deriving DecidableEq, Repr

/-- Work unit states. -/
inductive UState where
  | ready | running | saved | done
  deriving DecidableEq, Repr

structure Unit' where
  uid : Nat
  jid : Nat
  expand : Bool
  bag0 : Nat
  nbags : Nat
  seg : Option Nat
  p0 : Nat
  p1 : Nat
  cursor : Nat
  st : UState
  tile : Nat
  scratch : Option Nat
  save : Option Nat
  pos : List PosRec
  ents : List RowEnt
  grps : List Grp
  bags : List BagAcc
  deriving DecidableEq, Repr

/-- A LOOKUP on this rank: its own command, or one fanned out by another owner (R95 to R101). -/
structure LkJob where
  jid : Nat
  /-- the command, on the owner -/
  cid : Option Nat
  /-- the queue, 64 for a fanned-out request, and the tiles it may use -/
  q : Nat
  tiles : BitVec 48
  owner : BitVec 12
  tag : Nat
  desc : Nat
  pmode : BitVec 2
  weighted : Bool
  stats : Bool
  nospec : Bool
  keepMap : Bool
  mapId : BitVec 16
  lc : Bool
  noProbe : Bool
  lists : FanLists
  outk : Bool
  outAddr : Nat
  outStride : Nat
  drops : Nat
  poisoned : Nat
  nextOut : Nat
  /-- fan-in records present, by rank and bag -/
  recs : List (Nat × FanRec)
  lost : List Nat
  rankDrops : List Nat
  /-- window base raised by the owner (R434) -/
  base : Nat
  heldRecs : List FanRec
  /-- by long bag: the fold pointer, the tile that folded last, and the running fold; a completed segment's unit stays
  until it is folded -/
  folds : FMap (Nat × Nat × BagAcc)
  released : List Nat
  /-- by bag whose own record is there and has not left: the tile that gave it, whose pooling unit writes the output -/
  outTile : FMap Nat
  /-- members recorded for a kept map: position, row, weight; winners and NVALID by bag -/
  members : List (Nat × Nat × BF16)
  winners : FMap (List W32)
  nvalids : FMap Nat
  deriving DecidableEq, Repr

/-- A plan node (R463). -/
structure Node where
  words : List W64
  deps : List Nat
  deriving DecidableEq, Repr

structure PlanVer where
  ver : BitVec 16
  nodes : List Node
  pins : Nat
  deriving DecidableEq, Repr

structure Plan where
  /-- newest last; the last one is current unless the plan was dropped -/
  vers : List PlanVer
  next : BitVec 16
  dropped : Bool
  deriving DecidableEq, Repr

structure Task where
  en : Bool
  plan : Nat
  queue : Nat
  sem : Nat
  t : W32
  step : W32
  flight : Option Nat
  /-- the trigger that waits for the launch to complete has been counted (R466) -/
  late : Bool
  deriving DecidableEq, Repr

structure Orrery where
  queues : FMap Queue
  sems : FMap W32
  /-- the source of the last SET of a semaphore, by its place in the order of R455 -/
  semSets : FMap (List Nat)
  cmds : List Cmd
  nextCid : Nat
  units : List Unit'
  nextUid : Nat
  jobs : List LkJob
  /-- round-robin pointers: LC, BE -/
  rrLc : Nat
  rrBe : Nat
  plans : FMap Plan
  tasks : FMap Task
  saves : List Nat
  scratch : List Nat
  /-- tile whose T_PROG was seen at the last hang check -/
  seenTile : FMap Nat
  /-- units served from each tile: most recent start last -/
  started : List Nat
  /-- LC queues whose slice has ended while another LC queue waits (R469) -/
  sliced : List Nat
  /-- queues whose slice has ended inside a SCATTER's commit phase that still lasts (R471) -/
  overrun : List Nat
  /-- RETIRING descriptors whose entries have been written TOMBSTONE -/
  retiring : List Nat
  deriving DecidableEq, Repr

/-! ### Tiles (02, 04) -/

structure Tile where
  /-- codebook cache, most recently used first: number, units -/
  cb : List (Nat × Nat)
  lcUsed : Nat
  beUsed : Nat
  /-- requests in the gather credit queue: LC, unit, entry, credits -/
  gcq : List (Bool × Nat × Nat × Nat)
  deriving DecidableEq, Repr

/-! ### Scatter (06) -/

/-- A kept bag map (R170): per position row, member, weight; per bag offsets and NVALID; winners. -/
structure BagMap where
  id : BitVec 16
  cid : Nat
  /-- the LOOKUP that keeps it, as its owner's messages name it -/
  owner : BitVec 12
  tag : Nat
  usable : Bool
  relAsked : Bool
  readers : Nat
  desc : Nat
  tver : BitVec 16
  pmode : BitVec 2
  weighted : Bool
  nbags : Nat
  nidx : Nat
  off : List Nat
  members : List (Nat × Nat × BF16)
  nvalid : List Nat
  wins : List (List W32)
  bytes : Nat
  deriving DecidableEq, Repr

/-- A contribution record (R183). -/
structure Contrib where
  row : Nat
  pos : Nat
  bag : Nat
  wmask : Bool
  w : BF16
  deriving DecidableEq, Repr

/-- A merge entry (R188, R189). -/
structure MergeEnt where
  tile : Nat
  row : Nat
  hi : List F32
  lo : List F32
  count : Nat
  lc : Bool
  deriving DecidableEq, Repr

structure ScJob where
  jid : Nat
  /-- its place in the order of dispatch on this chip (R178) -/
  ord : Nat
  cid : Option Nat
  owner : BitVec 12
  tag : Nat
  desc : Nat
  lc : Bool
  nbags : Nat
  pmode : BitVec 2
  weighted : Bool
  mapId : Option (BitVec 16)
  release : Bool
  /-- a supplied map's lists; the winners of this rank's own columns -/
  lists : FanLists
  members : List (Nat × Nat × BF16)
  off : List Nat
  nv : List Nat
  wins : List (List W32)
  bytes : Nat
  ready : Bool
  /-- slab slices by bag; excluded bags -/
  slab : FMap (List F32)
  excluded : List Nat
  nextBag : Nat
  /-- contribution records sent to a tile and not yet accepted, by tile -/
  flying : FMap (List Contrib)
  runBuf : FMap (List Contrib)
  runs : FMap (List (List Contrib))
  /-- tiles whose last run has been made, with the extra passes over more than 64 (R186) -/
  passed : List Nat
  expanded : Bool
  ubatch : Option Nat
  sent : Nat
  acked : Nat
  toInstall : Nat
  ports : List Nat
  ended : List Nat
  held : Bool
  lastGo : Bool
  reported : Bool
  digest : W64
  /-- digests that the ranks have reported to the owner (R237) -/
  digests : List W64
  log : List RowStep
  drops : Bool
  poison : Bool
  records : Nat
  deriving DecidableEq, Repr

structure Scatter where
  maps : List BagMap
  jobs : List ScJob
  nextJid : Nat
  nextOrd : Nat
  ubatch : Nat
  entries : List MergeEnt
  entriesJob : List Nat
  /-- the merge queues (R188): tile and job of each row that waits, oldest first -/
  mq : List (Nat × Nat)
  /-- tiles whose BE scatter state is in the save record of a pre-empted unit (R204, R474): tile, unit -/
  saved : List (Nat × Nat)
  deriving DecidableEq, Repr

/-! ### Companions (07, 09) -/

structure Lyush where
  /-- lanes in use: 0 not trained or down, 8 or 16 -/
  lanes : Nat
  downEvt : Bool
  replays : Nat
  selfRef : Bool
  ctx : FMap LyCtx
  pendCtx : List (Nat × LyCtx)
  progs : FMap Prog
  psets : FMap PSet
  pendPset : List (Nat × PSet)
  cbs : FMap Codebook
  updq : List UpdMsg
  /-- open batches: descriptor, batch, updates not yet acknowledged -/
  batches : List (Nat × Nat)
  recent : List RowStep
  outstanding : Nat
  /-- bytes of the deliveries sent on the port, oldest first (R196) -/
  sent : List (List Byte)
  flying : List UpdMsg
  acks : List AckMsg
  /-- acknowledgements of RESEED, REQUANT and LEVEL_STEP, outside any batch (R219) -/
  racks : List AckMsg
  copies : List (Nat × Nat × List Byte)
  dones : List Nat
  /-- answers to RD, WR, SR_ENTER and SR_EXIT, and HEALTH on the link (R313) -/
  answers : List SectorData
  wrAcks : Nat
  srDones : Nat
  healths : List (List W64)
  deriving DecidableEq, Repr

/-! ### Load measurement (08) -/

structure Cand where
  desc : Nat
  row : Nat
  est : Nat
  promoted : Bool
  deriving DecidableEq, Repr

/-- An operation Meridian has derived (R289). -/
inductive MigOp where
  | demote (desc row : Nat)
  | promote (desc row cls : Nat)
  | reclass (desc row cls : Nat)
  | move (desc row : Nat)
  | pin (desc row : Nat) (keep : Bool)
  deriving DecidableEq, Repr

structure Load where
  mwNum : W32
  mwAclk : BitVec 48
  /-- sketch counters by quadrant × 65,536 + row × 16,384 + index; latched bank -/
  sketch : FMap Nat
  latched : FMap Nat
  cands : FMap (List Cand)
  lcands : FMap (List Cand)
  /-- HASH_SKEW runs by tier: windows above, windows at or below, raised -/
  runF : Nat × Nat × Bool
  runS : Nat × Nat × Bool
  ops : List MigOp
  /-- promoted rows that the Almanac scan has met since the last rollover (R289) -/
  scanned : List (Nat × Nat)
  mig : MigPolicy
  migD : FMap MigPolicy
  deriving DecidableEq, Repr

/-- The state of the block. -/
structure State where
  pending : List Instr
  pwr : Pwr
  err : Err
  mer : Mer
  chans : FMap Chan
  evt : Evt
  msix : Msix
  scratchHost : W64
  scratchMgmt : W64
  /-- every counter of R552, by `ctrKey` set unit word -/
  ctrs : FMap Nat
  /-- the model's own: the ACLK of the last block reset, and by key that of the last clearing read of a counter of full
  queues (R307, R337, R550) -/
  aclk0 : Nat
  ctrBase : FMap Nat
  tabs : Tabs
  mem : Mem
  mc : MemCtl
  rc : Cache
  alm : Alm
  xlt : Xlt
  str : Streams
  hp : HostPort
  tr : Transit
  orr : Orrery
  tiles : FMap Tile
  got : List Got
  sc : Scatter
  ly : FMap Lyush
  load : Load
  /-- the model's own counters: draws of Meridian's random source, free values used, ticks -/
  draws : Nat
  frees : Nat
  aclk : Nat
  deriving DecidableEq, Repr

/-! ### Reset values -/

def Pwr.reset : Pwr :=
  { pllLock := false, pllLost := false, sl := 0, park := .running, wakeHeld := false, held := [], cap := 340,
    ctl := 0, railAlert := false, railHold := false, temps := [0, 0, 0, 0, 0, 0, 0, 0], trip := false,
    restart := .none, fullSr := false, complLine := false, evtLine := false }

def Err.reset : Err :=
  { merUe := false, intUe := false, intSrc := 0, frzCtrl := 0, frozen := false, cause := 0, settled := false,
    cunit := 0, frzPark := false, frzRestart := false }

def Mer.reset : Mer :=
  { running := false, halted := false, heart := 0, locked := false, fabric := 0xFFF, layout := none,
    split := [14, 4, 2], rowCeMax := 4, scrubPeriod := 24, scrubRate := 2000000, earlyScrub := [], skewDue := [],
    nvm := none, lruns := [], lheld := [] }

/-- A mailbox channel after block reset (R485, R488, R489, R582). -/
def Chan.reset (c : Nat) : Chan :=
  { master := if c < 12 then 1 else 2, groups := 0xFF, cmd := 0, busy := false, ack := false, done := false,
    ovr := false, rc := 0, token := 0, ien := false, args := List.replicate 8 0, rets := List.replicate 8 0 }

def Evt.reset : Evt := { eseq := 0, host := [], mgmt := [], lostHost := 0, lostMgmt := 0 }

def Msix.reset : Msix := { table := [], pba := [], sent := [] }

/-- A FREE descriptor (R71, column Reset). -/
def Desc.reset : Desc :=
  { table := 0, widest := 0, log2s := 0, rank := 0, group := 0, nblkM1 := 0, gsize := 0, resident := false,
    dstate := 0, rows := 0, tver := 0, cb8 := 0xFFFF, cb4 := 0xFFFF, cb2 := 0xFFFF, qp8 := 0, qp4 := 0, qp2 := 0,
    prog := 0, pset := 0, tseed := 0, homeOff := 0, stateOff := 0, stateSz := 0, resBase := 0, resStride := 0 }

def Tabs.reset : Tabs :=
  { groups := [], descs := [], binding := [], cbs := [], progs := [], psets := [], loadFailed := [], manual := [] }

def Mem.reset : Mem := { cells := [], poisF := [], ueF := [], poisS := [], linkS := [] }

def Stack.reset : Stack := { inService := false, temp := 0, lanes := [], hard := [], soft := [], softRows := [], refreshes := 0, tracker := [], patrolAt := 0 }

def MemCtl.reset : MemCtl := { stripes := [], stk := [], repairLog := [], laneLog := [], noResource := [], patrol := false, selfRef := false, tried := [], cands := [] }

/-- The row cache after block reset; the seed is a draw of Meridian's random source (R332). -/
def Cache.reset (seed : W64) : Cache :=
  { seed := seed, lines := [], trees := [], off := [], autoOff := [], ceWin := [], mshr := [], mret := [], biWait := [],
    enabled := true, cleaning := false, done := false, snoop := [], biSent := [], need := [] }

def Alm.reset : Alm :=
  { cut := [], hints := [], hintTrees := [], used := [], retire := [], journal := [], copies := [], epoch := 0, passed := [],
    draining := [], count := 0 }

def Xlt.reset : Xlt := { ranges := [], xgen := 0, caches := [] }

def SDesc.reset : SDesc :=
  { kind := 0, queue := 0, tile := 0, hint := 0, wgroup := 0, lrole := 0, bl := 0, count := 0, credits := 0,
    semP := 0, semC := 0, cpch := 0, linkcap := 0 }

def Strm.reset : Strm :=
  { d := SDesc.reset, st := .disarmed, seq := 0, entry := 0, moved := 0, total := 0, lines := 0, xfer := 0, cur := none, added := 0,
    skip := 0, poisoned := 0, lineBad := false, discarded := false, rearm := none, buf := [], blBuf := [], pend := none,
    staged := [], bound := none, seen := 0, quiet := 0 }

def Streams.reset : Streams :=
  { streams := [], closedLinks := [], wcLimit := 1024, reportOnly := false, faults := [], stalled := [], fid := 0, retried := [],
    groupRep := [], detectors := [], prefetched := [], cpWait := [], cpOut := [], cpLines := [], turn := [] }

def HostPort.reset : HostPort :=
  { win := 0, state := 2, aper := false, aperMgmt := false, placeEn := false, logOver := false, hdmProg := [(0, 0), (1, 0x100000000000)], hdm := [],
    place := [], paths := [], oldPaths := [], lines := [], trees := [], reads := [], writes := [], sent := [], cxl := [], snp := [], answers := [],
    urs := 0, nextId := 0, log := [], recov := false }

def Transit.reset : Transit :=
  { routes := [], slots := [], windows := [], links := [], weights := [2, 4, 1, 3, 2, 4],
    shares := List.replicate 14 16, out := [], lost := [], wait := [], nextTag := 0, foRes := [], foWait := [], fiRes := [],
    fiWait := [], unreachable := [] }

def Link.reset : Link :=
  { up := false, down := false, width := 0, partner := 0, seq := 0, rcvd := 4095, replay := [], naks := 0,
    replays := 0, sendq := [], credits := [], deficits := [0, 0, 0, 0, 0, 0], turn := 0, ctlWait := 0, nak := false,
    returned := [], shares := List.replicate 14 16 }

def Queue.reset : Queue :=
  { conf := none, tail := 0, fetch := 0, cack := 0, st := .stopped, pendingDb := false, dbErr := false, cfull := false,
    nextSeq := 1, cseq := 0, written := [], signalled := 0, intPend := false, owed := 0, seenProg := [] }

def Task.reset : Task := { en := false, plan := 0, queue := 0, sem := 0, t := 0, step := 0, flight := none, late := false }

def Orrery.reset : Orrery :=
  { queues := [], sems := [], semSets := [], cmds := [], nextCid := 1, units := [], nextUid := 1, jobs := [], rrLc := 0, rrBe := 0,
    plans := [], tasks := [], saves := [], scratch := [], seenTile := [], started := [], sliced := [], overrun := [], retiring := [] }

def Tile.reset : Tile := { cb := [], lcUsed := 0, beUsed := 0, gcq := [] }

def Scatter.reset : Scatter :=
  { maps := [], jobs := [], nextJid := 1, nextOrd := 1, ubatch := 0, entries := [], entriesJob := [], mq := [], saved := [] }

def Lyush.reset : Lyush :=
  { lanes := 0, downEvt := false, replays := 0, selfRef := false, ctx := [], pendCtx := [], progs := [], psets := [],
    pendPset := [], cbs := [], updq := [], batches := [], recent := [], outstanding := 0, sent := [], flying := [], acks := [], racks := [],
    copies := [], dones := [], answers := [], wrAcks := 0, srDones := 0, healths := [] }

/-- The chip migration policy record's defaults (R288). -/
def MigPolicy.reset : MigPolicy :=
  { en := true, mwLen := 15625, hot := 64, cold := 8, t16 := 16384, t8 := 1024, t4 := 128, migMax := 65536,
    almFill := 218, keepThresh := 4096, keepMax := 16384, chHot := 48, skewRatio := 64, skewWin := 100,
    skewMin := 1000000, epochMin := 8192, qpGrace := 16384 }

def Load.reset : Load :=
  { mwNum := 0, mwAclk := 0, sketch := [], latched := [], cands := [], lcands := [], runF := (0, 0, false),
    runS := (0, 0, false), ops := [], scanned := [], mig := MigPolicy.reset, migD := [] }

/-- The block right after power-on reset: rails up, PLL not locked, nothing pending (R532, R535). The row cache's
seed is the first draw of Meridian's random source. -/
def State.reset : State :=
  { pending := [], pwr := Pwr.reset, err := Err.reset, mer := Mer.reset, chans := [], evt := Evt.reset,
    msix := Msix.reset, scratchHost := 0, scratchMgmt := 0, ctrs := [], aclk0 := 0, ctrBase := [], tabs := Tabs.reset, mem := Mem.reset,
    mc := MemCtl.reset, rc := Cache.reset (Config.random 0), alm := Alm.reset, xlt := Xlt.reset, str := Streams.reset,
    hp := HostPort.reset, tr := Transit.reset, orr := Orrery.reset, tiles := [], got := [], sc := Scatter.reset, ly := [],
    load := Load.reset, draws := 1, frees := 0, aclk := 0 }

end Sys2Proof.Machine
end

