-- ==== Sys2Proof/Machine/Counters.lean ====
section
/-! DEFINITION. The counters (R549 to R552): the key of each counter, in the order of the records, and counting. -/

namespace Sys2Proof.Machine

/-- The key of word `w` of unit `u` of set `n` (R552, R590). -/
def ctrKey (n u w : Nat) : Nat := n * 2 ^ 24 + u * 64 + w

/-- Units of each set (R552). -/
def ctrUnits : List Nat := [48, 4096, 4, 384, 6, 8, 48, 768, 64, 256, 48, 64, 1, 16]

/-- Words of each set's records (R590). -/
def ctrWords : List Nat := [34, 59, 4, 14, 1, 15, 12, 4, 7, 4, 33, 1, 53, 1]

/-! ### Set 0x00, TILE (R552) -/

abbrev ctrTileCbMiss (u : Nat) : Nat := ctrKey 0 u 0
abbrev ctrTileDedupHit (u : Nat) : Nat := ctrKey 0 u 1
abbrev ctrTileDedupFull (u : Nat) : Nat := ctrKey 0 u 2
abbrev ctrTileGcqLcOcc (u : Nat) : Nat := ctrKey 0 u 3
abbrev ctrTileGcqBeOcc (u : Nat) : Nat := ctrKey 0 u 4
abbrev ctrTileGcrLcUsed (u : Nat) : Nat := ctrKey 0 u 5
abbrev ctrTileGcrBeUsed (u : Nat) : Nat := ctrKey 0 u 6
abbrev ctrTileGcqWait (u : Nat) : Nat := ctrKey 0 u 7
abbrev ctrTileSpecIssued (u : Nat) : Nat := ctrKey 0 u 8
abbrev ctrTileSpecConfirmed (u : Nat) : Nat := ctrKey 0 u 9
abbrev ctrTileSpecMismatch (u : Nat) : Nat := ctrKey 0 u 10
abbrev ctrTileSpecRecomp (u : Nat) : Nat := ctrKey 0 u 11
abbrev ctrTileSpecSkip (u : Nat) : Nat := ctrKey 0 u 12
abbrev ctrTileSpecDropFault (u : Nat) : Nat := ctrKey 0 u 13
abbrev ctrTileAlignLoss (u : Nat) : Nat := ctrKey 0 u 14
abbrev ctrTileGrpSplit (u : Nat) : Nat := ctrKey 0 u 15
abbrev ctrTilePoolRescale (u : Nat) : Nat := ctrKey 0 u 16
abbrev ctrTileSegFold (u : Nat) : Nat := ctrKey 0 u 17
abbrev ctrTileScatRec (u : Nat) : Nat := ctrKey 0 u 18
abbrev ctrTileSortPass (u : Nat) : Nat := ctrKey 0 u 19
abbrev ctrTileMqWait (u : Nat) : Nat := ctrKey 0 u 20
abbrev ctrTileQpForced (u : Nat) : Nat := ctrKey 0 u 21
abbrev ctrTileQpStall (u : Nat) : Nat := ctrKey 0 u 22
abbrev ctrTilePfIssued (u : Nat) : Nat := ctrKey 0 u 23
abbrev ctrTilePfUsed (u : Nat) : Nat := ctrKey 0 u 24
abbrev ctrTilePfDrop (u : Nat) : Nat := ctrKey 0 u 25
abbrev ctrTileXltMiss (u : Nat) : Nat := ctrKey 0 u 26
abbrev ctrTileAdvSkip (u : Nat) : Nat := ctrKey 0 u 27
abbrev ctrTileTProg (u : Nat) : Nat := ctrKey 0 u 28
abbrev ctrTileTileHung (u : Nat) : Nat := ctrKey 0 u 29
abbrev ctrTileThrottleAclk (u : Nat) : Nat := ctrKey 0 u 30
abbrev ctrTileTileCe (u : Nat) : Nat := ctrKey 0 u 31
abbrev ctrTileTilePe (u : Nat) : Nat := ctrKey 0 u 32
abbrev ctrTileFiWinStall (u : Nat) : Nat := ctrKey 0 u 33

/-! ### Set 0x01, TABLE (R552) -/

abbrev ctrTableDropNeg (u : Nat) : Nat := ctrKey 1 u 0
abbrev ctrTableDropOor (u : Nat) : Nat := ctrKey 1 u 1
abbrev ctrTableDropPoison (u : Nat) : Nat := ctrKey 1 u 2
abbrev ctrTableDropUnpop (u : Nat) : Nat := ctrKey 1 u 3
abbrev ctrTableStoredPoison (u : Nat) : Nat := ctrKey 1 u 4
abbrev ctrTableRowPoisonRd (u : Nat) : Nat := ctrKey 1 u 5
abbrev ctrTableFmtErr (u : Nat) : Nat := ctrKey 1 u 6
abbrev ctrTableEncPromote (u : Nat) : Nat := ctrKey 1 u 7
abbrev ctrTableEncQerrOver (u : Nat) : Nat := ctrKey 1 u 8
abbrev ctrTableEncNonfinite (u : Nat) : Nat := ctrKey 1 u 9
abbrev ctrTableAlignLoss (u : Nat) : Nat := ctrKey 1 u 10
abbrev ctrTableGrpSplit (u : Nat) : Nat := ctrKey 1 u 11
abbrev ctrTableWgtFlush (u : Nat) : Nat := ctrKey 1 u 12
abbrev ctrTableWgtNonfinite (u : Nat) : Nat := ctrKey 1 u 13
abbrev ctrTablePoolNonfinite (u : Nat) : Nat := ctrKey 1 u 14
abbrev ctrTableSplitPopSkew (u : Nat) : Nat := ctrKey 1 u 15
abbrev ctrTableSplitLost (u : Nat) : Nat := ctrKey 1 u 16
abbrev ctrTableScatBadGrad (u : Nat) : Nat := ctrKey 1 u 17
abbrev ctrTableSdrop (u : Nat) : Nat := ctrKey 1 u 18
abbrev ctrTableScatNonfinite (u : Nat) : Nat := ctrKey 1 u 19
abbrev ctrTableSdeliv (u : Nat) : Nat := ctrKey 1 u 20
abbrev ctrTableLyCommit (u : Nat) : Nat := ctrKey 1 u 21
abbrev ctrTableLyFrozen (u : Nat) : Nat := ctrKey 1 u 22
abbrev ctrTableLyHold (u : Nat) : Nat := ctrKey 1 u 23
abbrev ctrTableLyGuard (u : Nat) : Nat := ctrKey 1 u 24
abbrev ctrTableLySat (u : Nat) : Nat := ctrKey 1 u 25
abbrev ctrTableLyNonfinite (u : Nat) : Nat := ctrKey 1 u 26
abbrev ctrTableLyUnpop (u : Nat) : Nat := ctrKey 1 u 27
abbrev ctrTableLyPoison (u : Nat) : Nat := ctrKey 1 u 28
abbrev ctrTableLyFormat (u : Nat) : Nat := ctrKey 1 u 29
abbrev ctrTableLyStepSat (u : Nat) : Nat := ctrKey 1 u 30
abbrev ctrTableStepSkew (u : Nat) : Nat := ctrKey 1 u 31
abbrev ctrTableMigPromote (u : Nat) : Nat := ctrKey 1 u 32
abbrev ctrTableMigDemote (u : Nat) : Nat := ctrKey 1 u 33
abbrev ctrTableMigReclass (u : Nat) : Nat := ctrKey 1 u 34
abbrev ctrTableMigMove (u : Nat) : Nat := ctrKey 1 u 35
abbrev ctrTableMigPin (u : Nat) : Nat := ctrKey 1 u 36
abbrev ctrTableWarmRows (u : Nat) : Nat := ctrKey 1 u 37
abbrev ctrTableWarmSkip (u : Nat) : Nat := ctrKey 1 u 38
abbrev ctrTableTblFRd (u : Nat) : Nat := ctrKey 1 u 39
abbrev ctrTableTblSRd (u : Nat) : Nat := ctrKey 1 u 41
abbrev ctrTableShardRd (u k : Nat) : Nat := ctrKey 1 u (43 + 2 * k)

/-! ### Set 0x02, QUADRANT (R552) -/

abbrev ctrQuadSegWait (u : Nat) : Nat := ctrKey 2 u 0
abbrev ctrQuadRowOpWait (u : Nat) : Nat := ctrKey 2 u 1
abbrev ctrQuadMeshCe (u : Nat) : Nat := ctrKey 2 u 2
abbrev ctrQuadQpForced (u : Nat) : Nat := ctrKey 2 u 3

/-! ### Set 0x03, PCH (R552) -/

abbrev ctrPchPchRd (u : Nat) : Nat := ctrKey 3 u 0
abbrev ctrPchMcqRdOcc (u : Nat) : Nat := ctrKey 3 u 2
abbrev ctrPchMcqWrOcc (u : Nat) : Nat := ctrKey 3 u 3
abbrev ctrPchMcqFull (u : Nat) : Nat := ctrKey 3 u 4
abbrev ctrPchFCe (u : Nat) : Nat := ctrKey 3 u 5
abbrev ctrPchFCeWb (u : Nat) : Nat := ctrKey 3 u 6
abbrev ctrPchFUe (u : Nat) : Nat := ctrKey 3 u 7
abbrev ctrPchFPoisonRd (u : Nat) : Nat := ctrKey 3 u 8
abbrev ctrPchFOdecc (u : Nat) : Nat := ctrKey 3 u 9
abbrev ctrPchFScrubCe (u : Nat) : Nat := ctrKey 3 u 10
abbrev ctrPchFScrubUe (u : Nat) : Nat := ctrKey 3 u 11
abbrev ctrPchRowRemap (u : Nat) : Nat := ctrKey 3 u 12
abbrev ctrPchRemapWait (u : Nat) : Nat := ctrKey 3 u 13

/-! ### Set 0x04, STACK (R552) -/

abbrev ctrStackMemAbsent (u : Nat) : Nat := ctrKey 4 u 0

/-! ### Set 0x05, COMPANION (R552) -/

abbrev ctrCompCmpRd (u : Nat) : Nat := ctrKey 5 u 0
abbrev ctrCompCpqOcc (u : Nat) : Nat := ctrKey 5 u 2
abbrev ctrCompCpqFull (u : Nat) : Nat := ctrKey 5 u 3
abbrev ctrCompClReplay (u : Nat) : Nat := ctrKey 5 u 4
abbrev ctrCompCmpDown (u : Nat) : Nat := ctrKey 5 u 5
abbrev ctrCompLyProtoErr (u : Nat) : Nat := ctrKey 5 u 6
abbrev ctrCompSdelivWait (u : Nat) : Nat := ctrKey 5 u 7
abbrev ctrCompLyLockWait (u : Nat) : Nat := ctrKey 5 u 8
abbrev ctrCompSLinkCe (u : Nat) : Nat := ctrKey 5 u 9
abbrev ctrCompSLinkUe (u : Nat) : Nat := ctrKey 5 u 10
abbrev ctrCompSPoisonRd (u : Nat) : Nat := ctrKey 5 u 11
abbrev ctrCompSPoisonLost (u : Nat) : Nat := ctrKey 5 u 12
abbrev ctrCompSRepair (u : Nat) : Nat := ctrKey 5 u 13
abbrev ctrCompLyEngWait (u : Nat) : Nat := ctrKey 5 u 14

/-! ### Set 0x06, SLICE (R552) -/

abbrev ctrSliceRcqOcc (u : Nat) : Nat := ctrKey 6 u 0
abbrev ctrSliceRcMshrOcc (u : Nat) : Nat := ctrKey 6 u 1
abbrev ctrSliceRcWbOcc (u : Nat) : Nat := ctrKey 6 u 2
abbrev ctrSliceRcStall (u : Nat) : Nat := ctrKey 6 u 3
abbrev ctrSliceRcHit (u : Nat) : Nat := ctrKey 6 u 4
abbrev ctrSliceRcMiss (u : Nat) : Nat := ctrKey 6 u 5
abbrev ctrSliceKeepOver (u : Nat) : Nat := ctrKey 6 u 6
abbrev ctrSliceRcInvDirty (u : Nat) : Nat := ctrKey 6 u 7
abbrev ctrSliceRcWayOff (u : Nat) : Nat := ctrKey 6 u 8
abbrev ctrSliceBiWait (u : Nat) : Nat := ctrKey 6 u 9
abbrev ctrSliceBiSnoop (u : Nat) : Nat := ctrKey 6 u 10
abbrev ctrSliceSfEvict (u : Nat) : Nat := ctrKey 6 u 11

/-! ### Set 0x07, WAY (R552) -/

abbrev ctrWayRcCe (u : Nat) : Nat := ctrKey 7 u 0
abbrev ctrWayRcUeClean (u : Nat) : Nat := ctrKey 7 u 1
abbrev ctrWayRcUeDirty (u : Nat) : Nat := ctrKey 7 u 2
abbrev ctrWayRcTagLost (u : Nat) : Nat := ctrKey 7 u 3

/-! ### Set 0x08, QUEUE (R552) -/

abbrev ctrQueueDbRefused (u : Nat) : Nat := ctrKey 8 u 0
abbrev ctrQueueQProg (u : Nat) : Nat := ctrKey 8 u 1
abbrev ctrQueueSliceOvr (u : Nat) : Nat := ctrKey 8 u 2
abbrev ctrQueueSliceOvrAclk (u : Nat) : Nat := ctrKey 8 u 3
abbrev ctrQueuePreemptL1 (u : Nat) : Nat := ctrKey 8 u 4
abbrev ctrQueuePreemptL2 (u : Nat) : Nat := ctrKey 8 u 5
abbrev ctrQueueQueueHung (u : Nat) : Nat := ctrKey 8 u 6

/-! ### Set 0x09, STREAM (R552) -/

abbrev ctrStreamStrLines (u : Nat) : Nat := ctrKey 9 u 0
abbrev ctrStreamStrWait (u : Nat) : Nat := ctrKey 9 u 1
abbrev ctrStreamLinkDiscard (u : Nat) : Nat := ctrKey 9 u 2
abbrev ctrStreamStrCredWait (u : Nat) : Nat := ctrKey 9 u 3

/-! ### Set 0x0A, LINK (R552) -/

abbrev ctrLinkTrReplay (u : Nat) : Nat := ctrKey 10 u 0
abbrev ctrLinkTrFecCe (u : Nat) : Nat := ctrKey 10 u 1
abbrev ctrLinkTrRbFull (u : Nat) : Nat := ctrKey 10 u 2
abbrev ctrLinkTrDegraded (u : Nat) : Nat := ctrKey 10 u 3
abbrev ctrLinkTrDown (u : Nat) : Nat := ctrKey 10 u 4
/-- TQ_CRED_WAIT of pair k (R552). -/
abbrev ctrLinkTqCredWait (u k : Nat) : Nat := ctrKey 10 u (6 + 2 * k)

/-! ### Set 0x0B, TASK (R552) -/

abbrev ctrTaskTaskLate (u : Nat) : Nat := ctrKey 11 u 0

/-! ### Set 0x0C, CHIP (R552) -/

abbrev ctrChipMapRefused : Nat := ctrKey 12 0 0
abbrev ctrChipScatRefused : Nat := ctrKey 12 0 1
abbrev ctrChipSpoolWait : Nat := ctrKey 12 0 2
abbrev ctrChipSkewLogFull : Nat := ctrKey 12 0 3
abbrev ctrChipSplitVerMiss : Nat := ctrKey 12 0 4
abbrev ctrChipAlmFull : Nat := ctrKey 12 0 5
abbrev ctrChipAlmPoison : Nat := ctrKey 12 0 6
abbrev ctrChipAlmFmtErr : Nat := ctrKey 12 0 7
abbrev ctrChipEpochClose : Nat := ctrKey 12 0 8
abbrev ctrChipSlotReclaim : Nat := ctrKey 12 0 9
abbrev ctrChipPoolEmpty : Nat := ctrKey 12 0 10
abbrev ctrChipReplGateWait : Nat := ctrKey 12 0 11
abbrev ctrChipHashSkew : Nat := ctrKey 12 0 12
abbrev ctrChipXinvWait : Nat := ctrKey 12 0 13
abbrev ctrChipXinvPinWait : Nat := ctrKey 12 0 14
abbrev ctrChipStrBindWait : Nat := ctrKey 12 0 15
abbrev ctrChipWaitCycle : Nat := ctrKey 12 0 16
abbrev ctrChipFqOcc : Nat := ctrKey 12 0 17
abbrev ctrChipFqOverflow : Nat := ctrKey 12 0 18
abbrev ctrChipFaultNew : Nat := ctrKey 12 0 19
abbrev ctrChipFaultCoalesced : Nat := ctrKey 12 0 20
abbrev ctrChipFaultRefault : Nat := ctrKey 12 0 21
abbrev ctrChipCpXltMiss : Nat := ctrKey 12 0 22
abbrev ctrChipCpFaultAbort : Nat := ctrKey 12 0 23
abbrev ctrChipCpRemoteErr : Nat := ctrKey 12 0 24
abbrev ctrChipHwWinRefuse : Nat := ctrKey 12 0 25
abbrev ctrChipHwWinOff : Nat := ctrKey 12 0 26
abbrev ctrChipHpPlaceRej : Nat := ctrKey 12 0 27
abbrev ctrChipHpMemRej : Nat := ctrKey 12 0 28
abbrev ctrChipHpFlushWait : Nat := ctrKey 12 0 29
abbrev ctrChipHpRetrain : Nat := ctrKey 12 0 30
abbrev ctrChipHpWrDrop : Nat := ctrKey 12 0 31
abbrev ctrChipHpRdLost : Nat := ctrKey 12 0 32
abbrev ctrChipHpDirtyLost : Nat := ctrKey 12 0 33
abbrev ctrChipHpOwnedLost : Nat := ctrKey 12 0 34
abbrev ctrChipHlogOver : Nat := ctrKey 12 0 35
abbrev ctrChipHpRestartRej : Nat := ctrKey 12 0 36
abbrev ctrChipTrMisroute : Nat := ctrKey 12 0 37
abbrev ctrChipTrProtoErr : Nat := ctrKey 12 0 38
abbrev ctrChipTrRwRej : Nat := ctrKey 12 0 39
abbrev ctrChipTrWrLost : Nat := ctrKey 12 0 40
abbrev ctrChipFoWait : Nat := ctrKey 12 0 41
abbrev ctrChipFiWait : Nat := ctrKey 12 0 42
abbrev ctrChipSemSetLost : Nat := ctrKey 12 0 43
abbrev ctrChipCommitHold : Nat := ctrKey 12 0 44
abbrev ctrChipSaveFull : Nat := ctrKey 12 0 45
abbrev ctrChipRestart : Nat := ctrKey 12 0 46
abbrev ctrChipIntUe : Nat := ctrKey 12 0 47
abbrev ctrChipMerCe : Nat := ctrKey 12 0 48
abbrev ctrChipMbDeny : Nat := ctrKey 12 0 49
abbrev ctrChipEvtLostHost : Nat := ctrKey 12 0 50
abbrev ctrChipEvtLostMgmt : Nat := ctrKey 12 0 51
abbrev ctrChipFrzHostRej : Nat := ctrKey 12 0 52

/-! ### Set 0x0D, MAILBOX (R552) -/

abbrev ctrMbMbOvr (u : Nat) : Nat := ctrKey 13 u 0

/-- Adds to an event counter, mod 2^64 (R549). -/
def addCtr (m : FMap Nat) (k n : Nat) : FMap Nat :=
  if n = 0 then m else mset m k ((mget m k 0 + n) % 2 ^ 64)

/-- Counts `n` events. -/
def bump (s : State) (k n : Nat) : State := { s with ctrs := addCtr s.ctrs k n }

/-- Counts one event. -/
def bump1 (s : State) (k : Nat) : State := bump s k 1

/-- Counts one event when a condition holds. -/
def bumpIf (s : State) (b : Bool) (k : Nat) : State := if b then bump s k 1 else s

/-- Adds to a progress counter, mod 2^32 (R549). -/
def bumpProg (s : State) (k n : Nat) : State := { s with ctrs := mset s.ctrs k ((mget s.ctrs k 0 + n) % 2 ^ 32) }

/-- A stored counter. -/
def ctr (s : State) (k : Nat) : Nat := mget s.ctrs k 0

/-- Sets the counters of one unit to 0. -/
def clearUnit (m : FMap Nat) (n u : Nat) : FMap Nat :=
  m.filter (fun x => x.1 < ctrKey n u 0 || ctrKey n u 63 < x.1)

/-- The key of a live window counter: `PCH_RD`, `CMP_RD`, `TBL_F_RD`, `TBL_S_RD`, `SHARD_RD` (R285). -/
def isWindowCtr (k : Nat) : Bool :=
  let n := k / 2 ^ 24
  let w := k % 64
  (n == 3 && w == 0) || (n == 5 && w == 0) || (n == 1 && decide (39 ≤ w) && w % 2 == 1)

/-- Latches a window counter: the live value moves up one word, and counts from 0 (R283, R549). -/
def latchCtr (m : FMap Nat) (k : Nat) : FMap Nat := mset (mset m (k + 1) (mget m k 0)) k 0

end Sys2Proof.Machine
end

