-- ==== Sys2Proof/Machine/Float.lean ====
section
/-! DEFINITION. Binary32 and BF16 arithmetic under `rne()` (R15): exact integers first, one rounding at the end. -/

namespace Sys2Proof.Machine

/-- A finite value, ±m × 2^e, or a value that is not finite. -/
inductive FVal where
  | fin (neg : Bool) (m : Nat) (e : Int)
  | inf (neg : Bool)
  | nan
  deriving DecidableEq, Repr

/-- The quiet NaN that the block and the Lyush write (R152, R225). -/
def f32NaN : F32 := 0x7FC00000#32

/-- Infinity with a sign. -/
def f32Inf (neg : Bool) : F32 := if neg then 0xFF800000#32 else 0x7F800000#32

/-- Zero with a sign. -/
def f32Zero (neg : Bool) : F32 := if neg then 0x80000000#32 else 0#32

/-- The value that a binary32 pattern stands for. -/
def f32Val (x : F32) : FVal :=
  let n : Nat := x.toNat
  let ef : Nat := n / 2 ^ 23 % 256
  let mant : Nat := n % 2 ^ 23
  let neg := decide (2 ^ 31 ≤ n)
  if ef = 255 then (if mant = 0 then .inf neg else .nan)
  else if ef = 0 then .fin neg mant (-149)
  else .fin neg (2 ^ 23 + mant) ((ef : Int) - 150)

/-- Drops `sh` low bits of `m` to nearest, ties to even; `sticky` says that something lies below bit 0. -/
def rneShift (m sh : Nat) (sticky : Bool) : Nat :=
  if sh = 0 then m else
  let k := m >>> sh
  let r := m % 2 ^ sh
  let half := 2 ^ (sh - 1)
  if half < r || (r == half && (sticky || k % 2 == 1)) then k + 1 else k

/-- `rne` of ±m × 2^e to binary32, subnormals kept; `sticky` says that the value lies strictly above m × 2^e in
magnitude, within one unit of m. With `sticky`, m must hold at least 26 bits. -/
def f32Round (neg : Bool) (m : Nat) (e : Int) (sticky : Bool) : F32 :=
  if m = 0 then f32Zero neg else
  let q : Int := max ((m.log2 : Int) + e - 23) (-149)
  let d := q - e
  let k := if d ≤ 0 then m <<< (-d).toNat else rneShift m d.toNat sticky
  let bits := if k < 2 ^ 23 then k else (q + 149).toNat * 2 ^ 23 + k
  if 0x7F800000 ≤ bits then f32Inf neg
  else BitVec.ofNat 32 (bits + if neg then 2 ^ 31 else 0)

/-- `rne` of an exact dyadic value. -/
def f32OfInt (m : Int) (e : Int) : F32 := f32Round (decide (m < 0)) m.natAbs e false

/-- Is a binary32 pattern finite? -/
def f32Finite (x : F32) : Bool := x.toNat / 2 ^ 23 % 256 != 255

/-- Is a binary32 pattern a NaN? -/
def f32IsNaN (x : F32) : Bool := !f32Finite x && x.toNat % 2 ^ 23 != 0

/-- Binary32 addition under `rne` (R151). -/
def f32Add (a b : F32) : F32 :=
  match f32Val a, f32Val b with
  | .nan, _ => f32NaN
  | _, .nan => f32NaN
  | .inf x, .inf y => if x = y then f32Inf x else f32NaN
  | .inf x, _ => f32Inf x
  | _, .inf y => f32Inf y
  | .fin x m e, .fin y n f =>
    let q := min e f
    let s1 : Int := (m <<< (e - q).toNat : Nat)
    let s2 : Int := (n <<< (f - q).toNat : Nat)
    let t := (if x then -s1 else s1) + (if y then -s2 else s2)
    if t = 0 then f32Zero (x && y) else f32OfInt t q

/-- The opposite of a binary32 value. -/
def f32Neg (a : F32) : F32 := a ^^^ 0x80000000#32

/-- Binary32 subtraction under `rne`. -/
def f32Sub (a b : F32) : F32 := if f32IsNaN b then f32NaN else f32Add a (f32Neg b)

/-- Binary32 multiplication under `rne`. -/
def f32Mul (a b : F32) : F32 :=
  match f32Val a, f32Val b with
  | .nan, _ => f32NaN
  | _, .nan => f32NaN
  | .inf x, .inf y => f32Inf (x != y)
  | .inf x, .fin y n _ => if n = 0 then f32NaN else f32Inf (x != y)
  | .fin x m _, .inf y => if m = 0 then f32NaN else f32Inf (x != y)
  | .fin x m e, .fin y n f => f32Round (x != y) (m * n) (e + f) false

/-- `rne` of the exact quotient of a finite value and a positive integer (R153). -/
def f32DivNat (a : F32) (n : Nat) : F32 :=
  match f32Val a with
  | .nan => f32NaN
  | .inf x => f32Inf x
  | .fin x m e =>
    let w := m <<< (64 + n.log2)
    f32Round x (w / n) (e - 64 - n.log2) (w % n != 0)

/-- Binary32 division under `rne`. -/
def f32Div (a b : F32) : F32 :=
  match f32Val a, f32Val b with
  | .nan, _ => f32NaN
  | _, .nan => f32NaN
  | .inf x, .inf _ => let _ := x; f32NaN
  | .inf x, .fin y _ _ => f32Inf (x != y)
  | .fin x _ _, .inf y => f32Zero (x != y)
  | .fin x m e, .fin y n f =>
    if n = 0 then (if m = 0 then f32NaN else f32Inf (x != y)) else
    let w := m <<< 64
    f32Round (x != y) (w / n) (e - f - 64) (w % n != 0)

/-- Binary32 fused multiply and add under one `rne`. -/
def f32Fma (a b c : F32) : F32 :=
  match f32Val a, f32Val b, f32Val c with
  | .nan, _, _ => f32NaN
  | _, .nan, _ => f32NaN
  | _, _, .nan => f32NaN
  | .fin x m e, .fin y n f, .fin z l g =>
    let q := min (e + f) g
    let s1 : Int := ((m * n) <<< (e + f - q).toNat : Nat)
    let s2 : Int := (l <<< (g - q).toNat : Nat)
    let t := (if x != y then -s1 else s1) + (if z then -s2 else s2)
    if t = 0 then f32Zero ((x != y) && z) else f32OfInt t q
  | .fin _ _ _, .fin _ _ _, .inf z => f32Inf z
  | _, _, _ => f32Add (f32Mul a b) c

/-- Integer square root by bits: `k` more bits to try. -/
def isqrtGo (n : Nat) : Nat → Nat → Nat
  | 0, r => r
  | k + 1, r => isqrtGo n k (let t := r + 2 ^ k; if t * t ≤ n then t else r)

/-- Integer square root, rounded down. -/
def isqrt (n : Nat) : Nat := isqrtGo n (n.log2 / 2 + 1) 0

/-- Binary32 square root under `rne`; NaN below zero. -/
def f32Sqrt (a : F32) : F32 :=
  match f32Val a with
  | .nan => f32NaN
  | .inf x => if x then f32NaN else f32Inf false
  | .fin x m e =>
    if m = 0 then f32Zero x else if x then f32NaN else
    -- an even exponent, and 64 more bits of root
    let odd := (e % 2 != 0)
    let w := m <<< (if odd then 129 else 128)
    let f := (if odd then e - 1 else e) / 2 - 64
    let r := isqrt w
    f32Round false r f (r * r != w)

/-- 1 / √a for a positive finite value, computed exactly and rounded once (R224). -/
def f32Rsq (a : F32) : F32 :=
  match f32Val a with
  | .fin _ m e =>
    if m = 0 then f32Inf false else
    -- an even exponent, and 2^70 / √w with its remainder
    let odd := (e % 2 != 0)
    let w := if odd then 2 * m else m
    let f := (if odd then e - 1 else e) / 2
    let n := isqrt (2 ^ 140 / w)
    f32Round false n (-70 - f) (n * n * w != 2 ^ 140)
  | _ => f32NaN

/-- The order of two binary32 values that are no NaN: -1, 0 or 1; the zeros are equal. -/
def f32Cmp (a b : F32) : Int :=
  let key (x : F32) : Int := let n := x.toNat; if 2 ^ 31 ≤ n then -((n - 2 ^ 31 : Nat) : Int) else n
  if key a < key b then -1 else if key b < key a then 1 else 0

/-- `rne` of a binary32 value to BF16 (R50, R142); a NaN stays a NaN. -/
def bf16OfF32 (x : F32) : BF16 :=
  if f32IsNaN x then 0x7FC0#16
  else BitVec.ofNat 16 ((x.toNat + 0x7FFF + x.toNat / 2 ^ 16 % 2) / 2 ^ 16)

/-- A BF16 value as binary32, exactly. -/
def f32OfBf16 (x : BF16) : F32 := BitVec.ofNat 32 (x.toNat * 2 ^ 16)

/-- Fields of a BF16 value: sign, exponent field, mantissa. -/
def bfNeg (x : BF16) : Bool := decide (2 ^ 15 ≤ x.toNat)
def bfExp (x : BF16) : Nat := x.toNat / 128 % 256
def bfMant (x : BF16) : Nat := x.toNat % 128
/-- Finite? -/
def bfFinite (x : BF16) : Bool := bfExp x != 255
/-- ±0? -/
def bfZero (x : BF16) : Bool := x.toNat % 2 ^ 15 == 0
/-- The effective exponent field (R39). -/
def bfEff (x : BF16) : Nat := max (bfExp x) 1
/-- `sig` of R53. -/
def bfSig (x : BF16) : Nat := if bfExp x = 0 then bfMant x else 128 + bfMant x

end Sys2Proof.Machine
end

