-- ==== Sys2Proof/Machine/Slice.lean ====
section
/-! DEFINITION. Row slices, codebooks and the Vernier codec (chapter 2): layout, checks, decoding, encoding. -/

namespace Sys2Proof.Machine

/-! ### Layout -/

/-- Bits of one code in a class (R36). -/
def codeBits (wclass : Nat) : Nat := 16 / 2 ^ wclass

/-- Slot size SZ of a class for C columns (R31). -/
def slotSize (wclass c : Nat) : Nat :=
  let body := 8 + c / 32 + c * codeBits wclass / 8
  roundUp (if wclass = 0 then body else body + 28) 32

/-- Header fields of a slice (R33). -/
def slHdr (sl : List Byte) : Nat := numAt sl 0 8
def slVersion (sl : List Byte) : Nat := slHdr sl % 4096
def slStep (sl : List Byte) : Nat := slHdr sl / 2 ^ 12 % 2 ^ 24
def slClass (sl : List Byte) : Nat := slHdr sl / 2 ^ 36 % 4
def slEsc (sl : List Byte) : Nat := slHdr sl / 2 ^ 38 % 8
def slFreeze (sl : List Byte) : Bool := (slHdr sl).testBit 41
def slPop (sl : List Byte) : Bool := (slHdr sl).testBit 42
def slPoison (sl : List Byte) : Bool := (slHdr sl).testBit 43
def slQerr (sl : List Byte) : Bool := (slHdr sl).testBit 44
def slNblk (sl : List Byte) : Nat := slHdr sl / 2 ^ 45 % 32 + 1

/-- The eight bytes of a header (R33). -/
def mkHdr (version step wclass esc : Nat) (freeze pop poison qerr : Bool) (nblkM1 : Nat) : List Byte :=
  toBytes 8 (version % 4096 + step % 2 ^ 24 * 2 ^ 12 + wclass % 4 * 2 ^ 36 + esc % 8 * 2 ^ 38 + b2n freeze * 2 ^ 41 +
    b2n pop * 2 ^ 42 + b2n poison * 2 ^ 43 + b2n qerr * 2 ^ 44 + nblkM1 % 32 * 2 ^ 45)

/-- Block exponent byte b (R32). -/
def slBlk (sl : List Byte) (b : Nat) : Nat := numAt sl (8 + b) 1

/-- The codes of all C columns of a class (R36), column 0 first. -/
def slCodes (sl : List Byte) (wclass c : Nat) : List Nat :=
  let nb := c / 32
  let w := codeBits wclass
  let body := (sl.drop (8 + nb)).take (c * w / 8)
  if w = 16 then (List.range c).map (fun j => numAt body (2 * j) 2)
  else body.flatMap (fun b => (List.range (8 / w)).map (fun i => b.toNat / 2 ^ (w * i) % 2 ^ w))

/-- The escape code of a class (R29). -/
def escCode (wclass : Nat) : Nat := 2 ^ codeBits wclass - 1

/-- Trailer entry i: COL and VALUE (R37). -/
def slTrailer (sl : List Byte) (wclass c i : Nat) : Nat × BF16 :=
  let off := 8 + c / 32 + c * codeBits wclass / 8 + 4 * i
  let v := numAt sl off 4
  (v % 1024, BitVec.ofNat 16 (v / 2 ^ 16))

/-! ### Codebooks -/

/-- Kind a class needs: W8 CB8, W4 CB4, W2 CB2 (R40). -/
def cbKindOf (wclass : Nat) : Nat := 3 - wclass

/-- Entries of a kind (R40). -/
def cbLen (kind : Nat) : Nat := if kind = 2 then 256 else 16

/-- The last code a kind uses (R40, R54). -/
def cbLast (kind : Nat) : Nat := if kind = 2 then 254 else if kind = 1 then 14 else 2

/-- A list of integers strictly rises. -/
def risingInt : List Int → Bool
  | a :: b :: l => decide (a < b) && risingInt (b :: l)
  | _ => true

/-- The entries satisfy R40 and R41. -/
def cbOk (c : Codebook) : Bool :=
  decide (c.kind < 3) && decide (c.entries.length = cbLen c.kind) &&
    c.entries.all (fun x => decide (-2047 ≤ x) && decide (x ≤ 2047)) &&
    risingInt (c.entries.take (cbLast c.kind + 1)) && (c.entries.drop (cbLast c.kind + 1)).all (fun x => x == 0)

/-- A 16-bit two's complement number. -/
def sInt16 (n : Nat) : Int := if n % 65536 < 32768 then (n % 65536 : Nat) else ((n % 65536 : Nat) : Int) - 65536

/-- One CRC-32 step over a bit. -/
def crcBit (c : Nat) : Nat := if c % 2 = 1 then (c / 2) ^^^ 0xEDB88320 else c / 2

/-- One CRC-32 step over a byte. -/
def crcByte (c : Nat) (b : Byte) : Nat := iter 8 (fun _ x => crcBit x) (c ^^^ b.toNat)

/-- The CRC-32 of R43. -/
def crc32 (l : List Byte) : Nat := (l.foldl crcByte 0xFFFFFFFF) ^^^ 0xFFFFFFFF

/-- The codebook of a record's entry bytes. -/
def cbOfBytes (kind : Nat) (l : List Byte) : Codebook :=
  { kind := kind, entries := (List.range (cbLen kind)).map (fun i => sInt16 (numAt l (2 * i) 2)) }

/-- The record bytes of a codebook (R42). -/
def cbRecord (id : Nat) (c : Codebook) : List Byte :=
  let ent := c.entries.flatMap (fun x => toBytes 2 (x % 65536).toNat)
  toBytes 4 (id % 1024 + c.kind * 1024) ++ toBytes 4 (crc32 ent) ++ List.replicate 24 0 ++ ent

/-! ### Decoding -/

/-- A decoded column: the exact value m × 2^ux of R143, and its binary32 pattern. -/
structure DecCol where
  m : Int
  ux : Int
  f : F32
  deriving DecidableEq, Repr

/-- A BF16 value as a decoded column (R143). -/
def decBf16 (x : BF16) : DecCol :=
  { m := if bfNeg x then -(bfSig x : Int) else bfSig x, ux := (bfEff x : Int) - 134, f := f32OfBf16 x }

/-- A codebook entry under a block exponent as a decoded column (R143). -/
def decEntry (q : Int) (e : Nat) : DecCol :=
  { m := q, ux := (e : Int) - 137, f := f32OfInt q ((e : Int) - 137) }

/-- Decodes the codes of a class from column `j` on; `i` escapes have been met. -/
def decodeGo (sl : List Byte) (cb : Codebook) (wclass c : Nat) : List Nat → Nat → Nat → List DecCol
  | [], _, _ => []
  | k :: ks, j, i =>
    if wclass = 0 then decBf16 (BitVec.ofNat 16 k) :: decodeGo sl cb wclass c ks (j + 1) i
    else if k = escCode wclass then
      decBf16 (slTrailer sl wclass c i).2 :: decodeGo sl cb wclass c ks (j + 1) (i + 1)
    else decEntry (cb.entries.getD k 0) (slBlk sl (j / 32)) :: decodeGo sl cb wclass c ks (j + 1) i

/-- The decoded columns of a slice. -/
def decodeSlice (sl : List Byte) (cb : Codebook) (c : Nat) : List DecCol :=
  decodeGo sl cb (slClass sl) c (slCodes sl (slClass sl) c) 0 0

/-- Columns that hold the escape code. -/
def escCols (sl : List Byte) (c : Nat) : List Nat :=
  if slClass sl = 0 then []
  else ((slCodes sl (slClass sl) c).zipIdx.filter (fun x => x.1 == escCode (slClass sl))).map (fun x => x.2)

/-- A non-zero BF16 value exceeds its block byte (R47, R144). -/
def bfOver (x : BF16) (e : Nat) : Bool := !bfZero x && decide (e < bfEff x)

/-- The values of a slice that are stored as BF16, with their columns. -/
def bfCols (sl : List Byte) (c : Nat) : List (Nat × BF16) :=
  if slClass sl = 0 then ((slCodes sl 0 c).map (BitVec.ofNat 16)).zipIdx.map (fun x => (x.2, x.1))
  else (List.range (slEsc sl)).map (fun i => slTrailer sl (slClass sl) c i)

/-- The format errors of R47 but for the class of an Almanac entry: `cbs` holds the codebook of each class, none where
the table names none. -/
def sliceFmtErr (sl : List Byte) (c widest : Nat) (cbs : Nat → Option Codebook) : Bool :=
  let w := slClass sl
  slNblk sl != c / 32 || decide (w < widest) || (decide (1 ≤ w) && (cbs w).isNone) ||
    (w == 0 && slEsc sl != 0) ||
    (decide (1 ≤ w) && (escCols sl c != (List.range (slEsc sl)).map (fun i => (slTrailer sl w c i).1))) ||
    (List.range (c / 32)).any (fun b => slBlk sl b == 255) ||
    (bfCols sl c).any (fun x => !bfFinite x.2 || (w == 0 && bfOver x.2 (slBlk sl (x.1 / 32))))

/-- What the pooling unit alone treats as a format error (R144): a trailer value above its block's exponent, or a
codebook entry beyond 2,047. -/
def poolFmtErr (sl : List Byte) (c : Nat) (cbs : Nat → Option Codebook) : Bool :=
  let w := slClass sl
  (w != 0 && (bfCols sl c).any (fun x => bfOver x.2 (slBlk sl (x.1 / 32)))) ||
    (match cbs w with
     | some cb => cb.entries.any (fun x => decide (2047 < x.natAbs))
     | none => false)

/-- Non-zero reserved bits, trailer entries beyond ESC_COUNT or padding, which image load refuses (R35, R37). -/
def slicePadErr (sl : List Byte) (c : Nat) : Bool :=
  let w := slClass sl
  let t0 := 8 + c / 32 + c * codeBits w / 8
  decide (2 ^ 50 ≤ slHdr sl) ||
    (if w = 0 then (sl.drop t0).any (fun b => b != 0)
     else (List.range (slEsc sl)).any (fun i => numAt sl (t0 + 4 * i) 4 / 2 ^ 10 % 64 != 0) ||
       (sl.drop (t0 + 4 * slEsc sl)).any (fun b => b != 0))

/-! ### Encoding -/

/-- What an encode may use of a table (R30, R55). -/
structure EncParams where
  c : Nat
  widest : Nat
  cb : Nat → Option Codebook
  qp : Nat → BitVec 27

/-- ESC_THRESH, ESC_LIMIT and QERR_MAX of a class's parameters (R71). -/
def qpThresh (q : BitVec 27) : Nat := q.toNat % 4096
def qpLimit (q : BitVec 27) : Nat := q.toNat / 2 ^ 12 % 8
def qpMax (q : BitVec 27) : Nat := q.toNat / 2 ^ 15

/-- The block exponents of an input (R52). -/
def blockExps (v : List BF16) : List Nat :=
  (chunks 32 v.length v).map (fun b =>
    b.foldl (fun e x => if bfFinite x && !bfZero x then max e (bfEff x) else e) 0)

/-- The normalised value of R53 with its sticky bit. -/
def normFx (x : BF16) (e : Nat) : Int × Bool :=
  let sig := bfSig x
  let sh : Int := (bfEff x : Int) - e + 11
  let (mag, st) : Nat × Bool :=
    if 0 ≤ sh then (sig <<< sh.toNat, false)
    else if -8 < sh then (sig >>> (-sh).toNat, sig % 2 ^ (-sh).toNat != 0)
    else (0, sig != 0)
  (if bfNeg x then -(mag : Int) else mag, st)

/-- The nearest code, from code `c` on (R54): `prev` is the entry before, `k` the code so far. -/
def nearestGo (n : Int) (sticky neg : Bool) : List Int → Nat → Int → Nat → Nat
  | [], _, _, k => k
  | q :: qs, c, prev, k =>
    let m := (prev + q) * 128
    let k' := if decide (m < n) || (decide (n = m) && sticky && !neg) then c
      else if decide (n = m) && !sticky && c % 2 == 0 then c else k
    nearestGo n sticky neg qs (c + 1) q k'

/-- The code of R54 and its error in units of 2^-8 of a step. -/
def nearestCode (cb : Codebook) (x : BF16) (e : Nat) : Nat × Nat :=
  let es := cb.entries.take (cbLast cb.kind + 1)
  let nf := normFx x e
  let k := nearestGo nf.1 nf.2 (bfNeg x) (es.drop 1) 1 (es.getD 0 0) 0
  (k, (nf.1 - es.getD k 0 * 256).natAbs)

/-- The code whose entry is nearest zero, ties to the even code (R51). -/
def zeroCode (cb : Codebook) : Nat :=
  let es := cb.entries.take (cbLast cb.kind + 1)
  (es.zipIdx.foldl (fun (best : Nat × Nat) x =>
    let a := x.1.natAbs
    if a < best.1 || (a == best.1 && x.2 % 2 == 0) then (a, x.2) else best) (4096, 0)).2

/-- Inserts an escape candidate (column, error) by falling error, lower column first (R56). -/
def candIns (x : Nat × Nat) : List (Nat × Nat) → List (Nat × Nat)
  | [] => [x]
  | y :: l => if y.2 < x.2 then x :: y :: l else y :: candIns x l

/-- Packs codes of w bits into bytes (R36). -/
def packCodes (w : Nat) (codes : List Nat) : List Byte :=
  if w = 16 then codes.flatMap (toBytes 2)
  else (chunks (8 / w) codes.length codes).map (fun g =>
    BitVec.ofNat 8 ((g.zipIdx.foldl (fun a x => a + x.1 * 2 ^ (w * x.2)) 0)))

/-- The body of a slice from its codes and escapes, padded to the slot (R32, R37). -/
def sliceBody (wclass c : Nat) (exps codes : List Nat) (esc : List (Nat × BF16)) : List Byte :=
  let b := exps.map (BitVec.ofNat 8) ++ packCodes (codeBits wclass) codes ++
    esc.flatMap (fun x => toBytes 2 x.1 ++ toBytes 2 x.2.toNat)
  b ++ List.replicate (slotSize wclass c - 8 - b.length) 0

/-- One encode attempt at W8, W4 or W2 (R51 to R57): codes, escapes in column order, and whether it passes. -/
def encodeAttempt (p : EncParams) (wclass : Nat) (v : List BF16) : List Nat × List (Nat × BF16) × Bool :=
  let exps := blockExps v
  match p.cb wclass with
  | none => ([], [], false)
  | some cb =>
    let q := p.qp wclass
    let cols := v.zipIdx.map (fun x =>
      if bfFinite x.1 then (nearestCode cb x.1 (exps.getD (x.2 / 32) 0)) else (zeroCode cb, 0))
    let cands := (cols.zipIdx.filter (fun x => decide (qpThresh q * 256 < x.1.2))).map (fun x => (x.2, x.1.2))
    let ranked := cands.foldl (fun l x => candIns x l) []
    let esc := (ranked.take (qpLimit q)).map (fun x => x.1)
    let qerr := cols.zipIdx.foldl (fun m x => if esc.contains x.2 then m else max m x.1.2) 0
    let codes := cols.zipIdx.map (fun x => if esc.contains x.2 then escCode wclass else x.1.1)
    let trail := (List.range p.c).filter (fun j => esc.contains j) |>.map (fun j => (j, v.getD j 0))
    (codes, trail, decide (cands.length ≤ qpLimit q) && decide (qerr ≤ qpMax q * 256))

/-- What an encode did: the body after the header, the class, escapes, QERR_OVER, retries, non-finite columns. -/
structure Encoded where
  wclass : Nat
  body : List Byte
  esc : Nat
  qerr : Bool
  retries : Nat
  nonfinite : Nat
  deriving DecidableEq, Repr

/-- Encodes at the first class from `wclass` towards `widest` that passes, or at `widest` (R57). -/
def encodeGo (p : EncParams) (v : List BF16) (nf : Nat) : Nat → Nat → Encoded
  | 0, retries =>
    let v' := v.map (fun x => if bfFinite x then x else 0)
    { wclass := 0, body := sliceBody 0 p.c (blockExps v) (v'.map (fun x => x.toNat)) [], esc := 0, qerr := false,
      retries := retries, nonfinite := nf }
  | w + 1, retries =>
    let r := encodeAttempt p (w + 1) v
    if r.2.2 || decide (w + 1 ≤ p.widest) then
      { wclass := w + 1, body := sliceBody (w + 1) p.c (blockExps v) r.1 r.2.1, esc := r.2.1.length, qerr := !r.2.2,
        retries := retries, nonfinite := nf }
    else encodeGo p v nf w (retries + 1)

/-- Encodes an input at a class (R49 to R58). -/
def encode (p : EncParams) (wclass : Nat) (v : List BF16) : Encoded :=
  encodeGo p v ((v.filter (fun x => !bfFinite x)).length) (max wclass p.widest) 0

/-- The slice that an encode writes over an older one (R33, R34, R51): its VERSION is the next one. -/
def encodedSlice (p : EncParams) (x : Encoded) (version step : Nat) (freeze : Bool) : List Byte :=
  mkHdr version step x.wclass x.esc freeze true (decide (0 < x.nonfinite)) x.qerr (p.c / 32 - 1) ++ x.body

end Sys2Proof.Machine
end

