-- ==== Sys2Proof/Machine/Ops.lean ====
section
/-! DEFINITION. The named operations over the memory tiers and the row cache (chapters 9 and 10), events and
interrupts (chapter 15), and the form that every meaning takes. -/

namespace Sys2Proof.Machine

/-! ### When the block takes events -/

/-- Derived clocks are stopped (R516, R532) or the block is frozen (R558): no request moves. -/
def stopped (s : State) : Bool := s.err.frozen || !s.pwr.pllLock || s.pwr.pllLost

/-- Firmware runs (R482, R547). -/
def merUp (s : State) : Bool := s.mer.running && !s.mer.halted

/-- The host path is ATTACHED (R414). -/
def hostUp (s : State) : Bool := s.hp.state == 0

/-- A free value of 64 bits (log entry 3). -/
def freeWord (s : State) : State × W64 := ({ s with frees := s.frees + 1 }, Config.free s.frees)

/-- `n` free bytes (log entry 3). -/
def freeBytes (s : State) (n : Nat) : State × List Byte :=
  ({ s with frees := s.frees + 1 }, (List.range n).map (Config.freeByte s.frees))

/-- A draw of Meridian's random source (log entry 3). -/
def draw (s : State) : State × W64 := ({ s with draws := s.draws + 1 }, Config.random s.draws)

/-! ### Interrupts and events -/

/-- Word `w` of entry `v` of the MSI-X table; bit 32 of word 1 is the vector's mask, set at reset (R589). -/
def msixWord (s : State) (v w : Nat) : W64 :=
  mget s.msix.table (2 * v + w) (if w = 1 then 0x0000000100000000#64 else 0)

/-- Is vector `v` masked? -/
def msixMasked (s : State) (v : Nat) : Bool := bit (msixWord s v 1) 32

/-- A source fires vector `v`: the message goes out, or stays pending while masked or without a host path (R589). -/
def msixFire (s : State) (v : Nat) : State :=
  if msixMasked s v || !hostUp s then { s with msix := { s.msix with pba := sins s.msix.pba v } }
  else { s with msix := { s.msix with sent := s.msix.sent ++ [v] } }

/-- Sends a pending message that nothing holds any more. -/
def msixFlush (s : State) (v : Nat) : State :=
  if s.msix.pba.contains v && !msixMasked s v && hostUp s then
    { s with msix := { s.msix with pba := sdel s.msix.pba v, sent := s.msix.sent ++ [v] } }
  else s

/-- Sends every pending message that can go. -/
def msixFlushAll (s : State) : State := s.msix.pba.foldl msixFlush s

/-- Meridian records an event in both logs; a full log drops it and counts (R501, R502). -/
def raiseEvent (s : State) (code : Nat) (unit : Nat) (ea eb : W64) : State :=
  if !merUp s then s else
  let e : Event := { eseq := s.evt.eseq + 1, code := BitVec.ofNat 16 code, unit := unit, ea := ea, eb := eb }
  let fh := decide (4096 ≤ s.evt.host.length)
  let fm := decide (4096 ≤ s.evt.mgmt.length)
  let s1 := { s with
    evt := { eseq := s.evt.eseq + 1,
             host := if fh then s.evt.host else s.evt.host ++ [e],
             mgmt := if fm then s.evt.mgmt else s.evt.mgmt ++ [e],
             lostHost := s.evt.lostHost + b2n fh, lostMgmt := s.evt.lostMgmt + b2n fm },
    pwr := { s.pwr with evtLine := true } }
  msixFire (bumpIf (bumpIf s1 fh ctrChipEvtLostHost) fm ctrChipEvtLostMgmt) 80

/-! ### The map of R26 -/

def tierFEnd : Nat := 0x006000000000
def tierSBase : Nat := 0x100000000000
def tierSEnd : Nat := 0x120000000000
def compSpan : Nat := 0x4000000000
def remoteBase : Nat := 0x200000000000
def remoteEnd : Nat := 0x300000000000

/-- The extent lies wholly in tier F, or in tier S, or in the remote windows. -/
def inTierF (a n : Nat) : Bool := decide (a + n ≤ tierFEnd)
def inTierS (a n : Nat) : Bool := decide (tierSBase ≤ a) && decide (a + n ≤ tierSEnd)
def inTiers (a n : Nat) : Bool := inTierF a n || inTierS a n
def inRemote (a n : Nat) : Bool := decide (remoteBase ≤ a) && decide (a + n ≤ remoteEnd)

/-- Two extents overlap. -/
def overlap (a n b m : Nat) : Bool := decide (0 < n) && decide (0 < m) && decide (a < b + m) && decide (b < a + n)

/-- The companion of a tier-S address (R310). -/
def compOf (a : Nat) : Nat := (a - tierSBase) / compSpan

/-! ### Tiles, quadrants -/

/-- The quadrant of a tile (R20). -/
def quadOf (t : Nat) : Nat := (if 4 ≤ t % 8 then 1 else 0) + (if 3 ≤ t / 8 then 2 else 0)

/-- The k-th tile of a quadrant, in ascending tile number (R20). -/
def quadTile (q k : Nat) : Nat := ((q / 2) * 3 + k / 4) * 8 + (q % 2) * 4 + k % 4

/-- Hop count between two tiles (R21). -/
def hops (a b : Nat) : Nat := (((a % 8 : Nat) : Int) - (b % 8 : Nat)).natAbs + (((a / 8 : Nat) : Int) - (b / 8 : Nat)).natAbs

/-! ### Areas of R598 and R511 -/

/-- The layout in force: the defaults of R511 when none was given. -/
def Layout.default : Layout :=
  { l := 27, pool := 2048 * 2 ^ 26, maps := 64 * 2 ^ 26, scat := 128 * 2 ^ 26, stage := 32 * 2 ^ 26,
    fanout := 32 * 2 ^ 26, fanin := 16 * 2 ^ 26, skew := 2 ^ 26, plans := 4 * 2 ^ 26 }

def layoutOf (s : State) : Layout := s.mer.layout.getD Layout.default

/-- Bytes of the Almanac: 2^L buckets of 64 bytes (R77). -/
def almBytes (l : Layout) : Nat := 2 ^ l.l * 64

def fixedBase : Nat := 0x5FE0000000
/-- Base of the Almanac region (R598). -/
def almBase (s : State) : Nat := fixedBase - almBytes (layoutOf s)
/-- Base of the promoted-slot pool (R598). -/
def poolBase (s : State) : Nat := almBase s - (layoutOf s).pool
def mapsBase (s : State) : Nat := poolBase s - (layoutOf s).maps
def scatBase (s : State) : Nat := mapsBase s - (layoutOf s).scat
def stageBase (s : State) : Nat := scatBase s - (layoutOf s).stage
def fanoutBase (s : State) : Nat := stageBase s - (layoutOf s).fanout
def faninBase (s : State) : Nat := fanoutBase s - (layoutOf s).fanin
def skewBase (s : State) : Nat := faninBase s - (layoutOf s).skew
/-- Lowest address of the area block (R598). -/
def blockBase (s : State) : Nat := skewBase s - (layoutOf s).plans

/-- Base of the descriptor and codebook regions: tier F from SL3, the bring-up area below (R598, R539). The places
within the bring-up area are the model's (log entry 12). -/
def descBase (s : State) : Nat := if s.pwr.sl = 3 then fixedBase + 0x18000000 else tierSBase + 0x18000000
def cbBase (s : State) : Nat := if s.pwr.sl = 3 then fixedBase + 0x1C000000 else tierSBase + 0x1C000000

/-- The bring-up area of each companion: its first 4 GiB (R539). -/
def inBringup (a n : Nat) : Bool :=
  (List.range 8).any (fun k => overlap a n (tierSBase + k * compSpan) 0x100000000)

/-- The extent of a resident copy (R91), 0 bytes for a table that is not resident. -/
def resExtent (d : Desc) (q : Nat) : Nat × Nat :=
  ((d.resBase + q * d.resStride) * 2 ^ 21,
    if d.resident && d.dstate != 0 then d.rows * slotSize d.widest (32 * (d.nblkM1 + 1)) else 0)

/-- The extent touches a Meridian-owned area (R301). -/
def merOwned (s : State) (a n : Nat) : Bool :=
  overlap a n (blockBase s) (tierFEnd - blockBase s) || inBringup a n ||
    s.tabs.descs.any (fun x => (List.range 4).any (fun q =>
      overlap a n (resExtent x.2 q).1 (resExtent x.2 q).2))

/-- C of a descriptor. -/
def Desc.cols (d : Desc) : Nat := 32 * (d.nblkM1 + 1)

/-- Bytes of a descriptor's home and state areas on each companion (R74, R213). -/
def homeBytes (d : Desc) : Nat := (d.rows + 7) / 8 * slotSize d.widest d.cols
def stateBytes (d : Desc) : Nat := (d.rows + 7) / 8 * (d.stateSz * 32)

/-- The extent touches the home or state area of a descriptor on some companion. -/
def inDescArea (d : Desc) (a n : Nat) : Bool :=
  d.dstate != 0 && (List.range 8).any (fun k =>
    overlap a n (tierSBase + k * compSpan + d.homeOff * 4096) (homeBytes d) ||
    overlap a n (tierSBase + k * compSpan + d.stateOff * 4096) (stateBytes d))

/-- The extent touches a home or master-and-state area of a descriptor that is not FREE. -/
def inHomeState (s : State) (a n : Nat) : Bool := s.tabs.descs.any (fun x => inDescArea x.2 a n)

/-- Areas that the host may write only through the aperture (R400, R403). -/
def protectedArea (s : State) (a n : Nat) : Bool := merOwned s a n || inHomeState s a n

/-! ### Tier F decoding (R296 to R300) -/

/-- The mode of a stripe after block reset (R597). -/
def resetMode (i : Nat) : BitVec 2 := if i < 64 then 0 else if i < 128 then 1 else 2

def stripeOf (s : State) (i : Nat) : Stripe := mget s.mc.stripes i { mode := resetMode i, seed := 0 }

/-- `rot` of R300. -/
def stripeRot (i r : Nat) (seed : W64) : Nat :=
  let h0 := ((i * 2 ^ 13 + r) ^^^ seed.toNat) * 0xD6E8FEB86659FD93 % 2 ^ 64
  (h0 ^^^ (h0 >>> 32)) % 384

/-- Pseudo-channel and g_ch of a tier-F address (R296 to R300). -/
def decodeF (s : State) (a : Nat) : Nat × Nat :=
  let i := a / 0x30000000
  let o := a % 0x30000000
  let st := stripeOf s i
  if st.mode = 0 then
    let t := o % 0x1000000
    (8 * (o / 0x1000000) + (t >>> 8) % 8, t >>> 11)
  else if st.mode = 1 then
    let u := (o % 0xC000000) >>> 8
    let k := u % 96
    (8 * quadTile (o / 0xC000000) (k / 8) + k % 8, u / 96)
  else
    let g := o >>> 8
    ((g % 384 + stripeRot i (g / 384) st.seed) % 384, g / 384)

def pchOf (s : State) (a : Nat) : Nat := (decodeF s a).1

/-- Channel address of R296. -/
def chanAddr (s : State) (a : Nat) : Nat := a / 0x30000000 * 0x200000 + (decodeF s a).2 * 256 + a % 256

/-- The tier-F address of a channel address of a pseudo-channel, with stripe `i` as given: the inverse of R296 to R300. -/
def addrOfChan (st : Stripe) (p ca : Nat) : Nat :=
  let i := ca / 0x200000
  let g := ca % 0x200000 / 256
  let o := if st.mode = 0 then p / 8 * 0x1000000 + g * 2048 + p % 8 * 256
    else if st.mode = 1 then
      let q := quadOf (p / 8)
      let k := ((List.range 12).find? (fun j => quadTile q j == p / 8)).getD 0
      q * 0xC000000 + (g * 96 + 8 * k + p % 8) * 256
    else (g * 384 + (p + 384 - stripeRot i g st.seed) % 384) * 256
  i * 0x30000000 + o + ca % 256

/-- The DRAM row of a tier-F address (R303): pseudo-channel, bank, row. A granule lies in one page; the bank group is the
granule's number XORed with bits of the row, so that consecutive granules differ in it (log entry 28). -/
def dramRowOf (s : State) (a : Nat) : Nat × Nat × Nat :=
  let g := chanAddr s a / 256
  let row := (Config.dramRow (g / 16)).toNat
  let group := (g % 16) ^^^ (Config.dramRowFold row).toNat * 2
  (pchOf s a, group * 4 + (Config.dramLowBank (g / 16)).toNat, row)

def stackOf (s : State) (k : Nat) : Stack := mget s.mc.stk k Stack.reset

/-- The stack of a tier-F address is IN_SERVICE. -/
def stackUp (s : State) (a : Nat) : Bool := (stackOf s (pchOf s a / 64)).inService

/-! ### Home slices (R332) -/

/-- The hash of R332 on the line address x = a[47:6]. -/
def lineHash (s : State) (x : Nat) : Nat :=
  let h := (x ^^^ s.rc.seed.toNat) * 0x9E3779B97F4A7C15 % 2 ^ 64
  h ^^^ (h >>> 29)

/-- The home slice of the line x. -/
def homeSlice (s : State) (x : Nat) : Nat :=
  let h := (lineHash s x >>> 32) % 65536
  let a := x * 64
  let o := a % 0x30000000
  if a < tierFEnd then
    let m := (stripeOf s (a / 0x30000000)).mode
    if m = 0 then o / 0x1000000
    else if m = 1 then quadTile (o / 0xC000000) ((h * 12) >>> 16)
    else (h * 48) >>> 16
  else (h * 48) >>> 16

/-- The set of the line x. -/
def lineSet (s : State) (x : Nat) : Nat := lineHash s x % 4096

/-! ### Bytes of the tiers -/

/-- The byte at an address; an unlisted address reads 0 (log entry 4). -/
def cellGet : List Host.Cell → Nat → Byte
  | [], _ => 0
  | (k, v) :: m, a => if k = a then v else cellGet m a

/-- Writes a byte, keeping the addresses rising and no zero listed. -/
def cellSet : List Host.Cell → Nat → Byte → List Host.Cell
  | [], a, v => if v = 0 then [] else [(a, v)]
  | (k, w) :: m, a, v =>
    if k = a then (if v = 0 then m else (a, v) :: m)
    else if a < k then (if v = 0 then (k, w) :: m else (a, v) :: (k, w) :: m)
    else (k, w) :: cellSet m a v

/-- The form of a list of cells. -/
def cellsWf : List Host.Cell → Bool
  | [] => true
  | [(_, v)] => v != 0
  | (k, v) :: (k', w) :: m => v != 0 && decide (k < k') && cellsWf ((k', w) :: m)

/-- Strictly rising. -/
def risingNat : List Nat → Bool
  | a :: b :: l => decide (a < b) && risingNat (b :: l)
  | _ => true

/-- The canonical form of the memory. -/
def Memory.wf (m : Mem) : Bool :=
  cellsWf m.cells && risingNat m.poisF && risingNat m.ueF && risingNat m.poisS && risingNat m.linkS

/-- `n` bytes from an address. -/
def cellsRead (m : List Host.Cell) (a : Nat) : Nat → List Byte
  | 0 => []
  | n + 1 => cellGet m a :: cellsRead m (a + 1) n

/-- Writes bytes from an address on. -/
def cellsWrite (m : List Host.Cell) : Nat → List Byte → List Host.Cell
  | _, [] => m
  | a, b :: l => cellsWrite (cellSet m a b) (a + 1) l

/-- Zeroes an extent, its poison marks with it. -/
def Mem.zero (m : Mem) (a n : Nat) : Mem :=
  { m with
    cells := m.cells.filter (fun c => c.1 < a || a + n ≤ c.1),
    poisF := m.poisF.filter (fun x => x * 32 < a || a + n ≤ x * 32),
    ueF := m.ueF.filter (fun x => x * 32 < a || a + n ≤ x * 32),
    poisS := m.poisS.filter (fun x => x * 32 < a || a + n ≤ x * 32) }

/-- The sector carries the poison syndrome, or is in a poison directory (R317, R322). -/
def secPoison (m : Mem) (sec : Nat) : Bool := m.poisF.contains sec || m.poisS.contains sec

/-- A read of the sector returns poisoned (R318, R321, R322). -/
def secBad (m : Mem) (sec : Nat) : Bool := secPoison m sec || m.ueF.contains sec || m.linkS.contains sec

/-- Sectors of one companion in its poison directory (R322). -/
def dirCount (m : Mem) (k : Nat) : Nat := (m.poisS.filter (fun x => compOf (x * 32) == k)).length

/-- A stripe's map changes, and the DRAM cells stay: its bytes and marks appear at the addresses that the new map gives
their channel addresses (R296 to R301). -/
def restripe (s : State) (i : Nat) (st : Stripe) : State :=
  let place (a : Nat) : Nat := if a / 0x30000000 = i then addrOfChan st (pchOf s a) (chanAddr s a) else a
  let sec (l : List Nat) : List Nat := (l.map (fun x => place (x * 32) / 32)).foldl sins []
  { s with
    mem := { s.mem with
      cells := (s.mem.cells.filter (fun c => c.1 / 0x30000000 == i)).foldl (fun m c => cellSet m (place c.1) c.2)
        (s.mem.cells.filter (fun c => c.1 / 0x30000000 != i)),
      poisF := sec s.mem.poisF, ueF := sec s.mem.ueF },
    mc := { s.mc with stripes := mset s.mc.stripes i st } }

/-! ### DRAM accesses -/

/-- Companion k's port is up (R316). -/
def portUp (s : State) (k : Nat) : Bool := (mget s.ly k Lyush.reset).lanes != 0

/-- Memory behind an address answers (R304, R316); addresses outside the tiers do not. -/
def memUp (s : State) (a : Nat) : Bool :=
  if a < tierFEnd then stackUp s a else inTierS a 1 && portUp s (compOf a)

/-- Counts an access to an ABSENT stack or a down port (R304, R316). -/
def countDown (s : State) (a : Nat) : State :=
  if a < tierFEnd then bump1 s (ctrStackMemAbsent (pchOf s a / 64))
  else if inTierS a 1 then bump1 s (ctrCompCmpDown (compOf a)) else s

/-- The block stops with a cause (R557 to R559); what was under way is recorded for the freeze header. -/
def freeze (s : State) (cause : BitVec 3) (cunit : BitVec 8) : State :=
  { s with err := { s.err with
      frozen := true, cause := cause, cunit := cunit, settled := false,
      frzPark := s.pwr.park != .running, frzRestart := s.pwr.restart == .running } }

/-- An event that `FRZ_CTRL` enables freezes the block (R557). -/
def freezeOn (s : State) (b : Nat) (cause : BitVec 3) (cunit : BitVec 8) : State :=
  if s.err.frzCtrl.getLsbD b && !s.err.frozen then freeze s cause cunit else s

/-- Uncorrectable errors counted in a counter of the given set freeze the block where `FRZ_CTRL.ON_MEM_UE` says so (R557). -/
def freezeUe (s : State) (n : Nat) (cset : BitVec 8) : State := if n = 0 then s else freezeOn s 4 5 cset

/-- Reads `n` sectors of one granule from DRAM: bytes, and a poison mark for each sector (R304, R316, R318, R321, R322). -/
def dReadSecs (s : State) (a n : Nat) : State × List Byte × List Bool :=
  if !memUp s a then
    let (s1, l) := freeBytes (countDown s a) (32 * n)
    (s1, l, List.replicate n true)
  else
    let marks := (List.range n).map (fun i => secBad s.mem (a / 32 + i))
    let p := ((List.range n).filter (fun i => secPoison s.mem (a / 32 + i))).length
    let u := (marks.filter id).length - p
    let l := ((List.range n).filter (fun i => s.mem.linkS.contains (a / 32 + i))).length
    let s1 := if a < tierFEnd then
        freezeUe (bump (bump (bump s (ctrPchPchRd (pchOf s a)) n) (ctrPchFPoisonRd (pchOf s a)) p)
          (ctrPchFUe (pchOf s a)) u) u 3
      else freezeUe (bump (bump (bump s (ctrCompCmpRd (compOf a)) n) (ctrCompSPoisonRd (compOf a)) p)
          (ctrCompSLinkUe (compOf a)) l) l 5
    (s1, cellsRead s.mem.cells (a / 32 * 32) (32 * n), marks)

/-- Overlays the bytes that a write names on the sector's own. -/
def overlay (upd : List (Option Byte)) (old : List Byte) : List Byte :=
  old.zipIdx.map (fun x => (upd.getD x.2 none).getD x.1)

/-- Writes named bytes of one sector (R318, R319, R322): the update lists 32 places, none for a byte kept. A masked write
in tier F reads the sector first, which counts what it finds. -/
def dWriteSec (s : State) (sec : Nat) (upd : List (Option Byte)) (poison : Bool) : State :=
  let whole := upd.all (fun x => x.isSome)
  let put (s : State) (u : List (Option Byte)) : State :=
    { s with mem := { s.mem with
        cells := cellsWrite s.mem.cells (sec * 32) (overlay u (cellsRead s.mem.cells (sec * 32) 32)) } }
  if sec * 32 < tierFEnd then
    let p := pchOf s (sec * 32)
    let ue := !whole && !s.mem.poisF.contains sec && s.mem.ueF.contains sec
    let s1 := freezeUe (bumpIf (bumpIf (put s upd) (!whole && s.mem.poisF.contains sec) (ctrPchFPoisonRd p))
      ue (ctrPchFUe p)) (b2n ue) 3
    { s1 with mem := { s1.mem with
        poisF := if poison || (!whole && s1.mem.ueF.contains sec) then sins s1.mem.poisF sec
          else if whole then sdel s1.mem.poisF sec else s1.mem.poisF,
        ueF := sdel s1.mem.ueF sec } }
  else if !poison then
    let s1 := put s upd
    if whole then { s1 with mem := { s1.mem with poisS := sdel s1.mem.poisS sec } } else s1
  else if s.mem.poisS.contains sec || decide (dirCount s.mem (compOf (sec * 32)) < 16384) then
    let s1 := put s upd
    { s1 with mem := { s1.mem with poisS := sins s1.mem.poisS sec } }
  else
    let k := compOf (sec * 32)
    raiseEvent (bump1 (put s (upd.map (fun x => x.map (fun _ => 0)))) (ctrCompSPoisonLost k)) 0x22 k 0 0

/-- The part of a contiguous write that falls on one sector. -/
def secUpd (a : Nat) (data : List Byte) (sec : Nat) : List (Option Byte) :=
  (List.range 32).map (fun i =>
    let p := sec * 32 + i
    if a ≤ p then data[p - a]? else none)

/-- Writes bytes within one line (R304, R316, R319). -/
def dWrite (s : State) (a : Nat) (data : List Byte) (poison : Bool) : State :=
  if data.isEmpty then s
  else if !memUp s a then countDown s a
  else
    let s1 := dWriteSec s (a / 32) (secUpd a data (a / 32)) poison
    if (a + data.length - 1) / 32 = a / 32 then s1
    else dWriteSec s1 (a / 32 + 1) (secUpd a data (a / 32 + 1)) poison

/-! ### Pseudo-LRU trees (R338, R339) -/

/-- Points every node on the path from the root to leaf `n` away from it. -/
def treeTouch : Nat → Nat → Nat → Nat
  | 0, _, t => t
  | d + 1, n, t =>
    let p := n / 2
    let t' := if n % 2 = 0 then t ||| 2 ^ p else t &&& ((2 ^ 20 - 1) ^^^ (2 ^ p))
    treeTouch d p t'

/-- Some leaf below node `n`, at depth `d` above the leaves, is eligible. -/
def subEligible (elig : Nat → Bool) (base : Nat) : Nat → Nat → Bool
  | 0, n => elig (n - base)
  | d + 1, n => subEligible elig base d (2 * n) || subEligible elig base d (2 * n + 1)

/-- The walk of R339 from node `n`. -/
def treeWalk (elig : Nat → Bool) (base t : Nat) : Nat → Nat → Nat
  | 0, n => n - base
  | d + 1, n =>
    let c := 2 * n + b2n (t.testBit n)
    treeWalk elig base t d (if subEligible elig base d c then c else c ^^^ 1)

/-! ### The row cache -/

/-- Key of a way. -/
def wayKey (sl st w : Nat) : Nat := sl * 65536 + st * 16 + w

/-- Ways of a slice that are enabled (R350). -/
def wayOn (s : State) (sl w : Nat) : Bool := !(mget s.rc.off sl 0).testBit w

/-- The way that holds line x in its set, if any. -/
def findWay (s : State) (sl st x : Nat) : Option Nat :=
  (List.range 16).find? (fun w =>
    match mget? s.rc.lines (wayKey sl st w) with
    | some l => l.x == x
    | none => false)

/-- Sets a line. -/
def setLine (s : State) (k : Nat) (l : CLine) : State := { s with rc := { s.rc with lines := mset s.rc.lines k l } }

/-- Makes a way INVALID. -/
def dropLine (s : State) (k : Nat) : State := { s with rc := { s.rc with lines := mdel s.rc.lines k } }

/-- Updates the tree on an access to a way (R338). -/
def touchWay (s : State) (sl st w : Nat) : State :=
  let k := sl * 4096 + st
  { s with rc := { s.rc with trees := mset s.rc.trees k (treeTouch 4 (16 + w) (mget s.rc.trees k 0)) } }

/-- Writes a line back to its memory; a POISON line goes with the poison syndrome (R349). -/
def writeBack (s : State) (l : CLine) : State := dWrite s (l.x * 64) l.data l.poison

/-- KEEP lines of a set. -/
def keepCount (s : State) (sl st : Nat) : Nat :=
  ((List.range 16).filter (fun w =>
    match mget? s.rc.lines (wayKey sl st w) with
    | some l => l.keep
    | none => false)).length

/-- The limit of R342 permits one more KEEP line in the set. -/
def keepRoom (s : State) (sl st : Nat) : Bool :=
  decide (keepCount s sl st + 4 < ((List.range 16).filter (wayOn s sl)).length)

/-- The victim of R339, if the slice has an enabled way. -/
def victim (s : State) (sl st : Nat) : Option Nat :=
  let en := (List.range 16).filter (wayOn s sl)
  match en.find? (fun w => (mget? s.rc.lines (wayKey sl st w)).isNone) with
  | some w => some w
  | none =>
    if en.isEmpty then none else
    let elig := en.filter (fun w => !(mget s.rc.lines (wayKey sl st w)
      { x := 0, dirty := false, keep := false, poison := false, touched := false, data := [] }).keep)
    let es := if elig.isEmpty then en else elig
    some (treeWalk (fun w => es.contains w) 16 (mget s.rc.trees (sl * 4096 + st) 0) 4 1)

/-- Allocates a line, writing a DIRTY victim back (R334, R339, R340, R342). A KEEP access over the limit is NORMAL. -/
def allocLine (s : State) (sl st x : Nat) (hint : BitVec 2) (dirty poison : Bool) (data : List Byte) : State :=
  match victim s sl st with
  | none => if dirty then dWrite s (x * 64) data poison else s
  | some w =>
    let k := wayKey sl st w
    let s1 := match mget? s.rc.lines k with
      | some l => dropLine (if l.dirty then writeBack s l else s) k
      | none => s
    let room := keepRoom s1 sl st
    let keep := hint == 2 && room
    let s2 := bumpIf s1 (hint == 2 && !room) (ctrSliceKeepOver sl)
    let s3 := setLine s2 k { x := x, dirty := dirty, keep := keep, poison := poison, touched := keep, data := data }
    if hint = 1 then s3 else touchWay s3 sl st w

/-- Lines of a slice with an open miss entry (R336). -/
def openMisses (s : State) (sl : Nat) : Nat :=
  (((s.rc.mshr.map (fun x => x.x)).dedup).filter (fun x => homeSlice s x == sl)).length

/-- All 256 miss entries of a slice are open: it takes no request (R336). -/
def sliceFull (s : State) (sl : Nat) : Bool := decide (256 ≤ s.rc.mshr.length) && decide (256 ≤ openMisses s sl)

/-- What stands in `need` for a slice that takes no request: no line has this address. -/
def stallMark (sl : Nat) : Nat := 2 ^ 42 + sl

/-- Lines that pass through their home slices without allocation (R211, R333). -/
def passThrough (s : State) (x : Nat) : Bool := !inTiers (x * 64) 64 || inHomeState s (x * 64) 64

/-- What an access by the block waits for at the home slice: the host's copy of the line (R353), or a miss entry (R336).
Noted in `need`, see `settle`. -/
def snoopGate (s : State) (x : Nat) (write : Bool) : State :=
  if s.rc.snoop.any (fun e => e.1 == x && (write || e.2)) then
    { s with rc := { s.rc with need := s.rc.need ++ [x] } }
  else if inTiers (x * 64) 64 && sliceFull s (homeSlice s x) then
    { s with rc := { s.rc with need := s.rc.need ++ [stallMark (homeSlice s x)] } }
  else s

/-- As `snoopGate`, for every line of an extent that the host holds. -/
def snoopExt (s : State) (a n : Nat) (write : Bool) : State :=
  (s.rc.snoop.filter (fun e => overlap a n (e.1 * 64) 64)).foldl (fun t e => snoopGate t e.1 write) s

/-- The effect of a hint on a line that an access hits: KEEP, TOUCHED and the tree (R340 to R343). -/
def hitHint (s : State) (sl st w : Nat) (l : CLine) (hint : BitVec 2) : State :=
  let k := wayKey sl st w
  if hint = 0 then touchWay s sl st w
  else if hint = 2 then
    if l.keep || keepRoom s sl st then touchWay (setLine s k { l with keep := true, touched := true }) sl st w
    else touchWay (bump1 s (ctrSliceKeepOver sl)) sl st w
  else s

/-- Puts bytes into a line's data. -/
def mergeBytes (old : List Byte) (off : Nat) (data : List Byte) : List Byte :=
  old.take off ++ data ++ old.drop (off + data.length)

/-- A write at a line's home slice that no open miss precedes (R319, R334, R340, R343, R351). -/
def putLine (s : State) (a : Nat) (data : List Byte) (hint : BitVec 2) (poison : Bool) : State :=
  let x := a / 64
  let whole := decide (data.length = 64)
  let sl := homeSlice s x
  let st := lineSet s x
  match findWay s sl st x with
  | some w =>
    let k := wayKey sl st w
    let l := mget s.rc.lines k { x := x, dirty := false, keep := false, poison := false, touched := false, data := [] }
    let l' := { l with data := mergeBytes l.data (a % 64) data, dirty := !s.rc.cleaning,
                       poison := if whole then poison else l.poison || poison }
    let s1 := setLine s k l'
    let s2 := if s.rc.cleaning then writeBack s1 l' else s1
    hitHint s2 sl st w l' (if hint = 3 then 1 else hint)
  | none =>
    if whole && s.rc.enabled && hint != 3 then allocLine s sl st x hint true poison data
    else dWrite s a data poison

/-! ### Open misses (R336) -/

/-- A line has an open miss entry. -/
def missOpen (s : State) (x : Nat) : Bool := s.rc.mshr.any (fun m => m.x == x)

/-- A read misses: it opens a miss entry or joins the line's (R336). -/
def openMiss (s : State) (a : LineAccess) : State :=
  { s with rc := { s.rc with mshr := s.rc.mshr ++ [{ x := a.addr / 64, acc := a }] } }

/-- The accesses that joined a miss entry, after its fill: reads hit, writes follow in order (R336). -/
def afterFill (s : State) (w : Waiting) : State :=
  if w.acc.write then putLine s w.acc.addr w.acc.data w.acc.hint w.acc.poison
  else
    match findWay s (homeSlice s w.x) (lineSet s w.x) w.x with
    | some y =>
      hitHint s (homeSlice s w.x) (lineSet s w.x) y (mget s.rc.lines (wayKey (homeSlice s w.x) (lineSet s w.x) y)
        { x := w.x, dirty := false, keep := false, poison := false, touched := false, data := [] }) w.acc.hint
    | none => s

/-- The fill of a line with an open miss entry: allocated under the first access's hint, then the rest (R336, R340). -/
def fillLine (s : State) (x : Nat) (d : List Byte) (bad : Bool) : State :=
  match s.rc.mshr.filter (fun m => m.x == x) with
  | [] => s
  | m :: ms =>
    let s1 := { s with rc := { s.rc with
      mshr := s.rc.mshr.filter (fun m => m.x != x), mret := s.rc.mret.filter (fun y => y / 2 != x) } }
    let hint := if m.acc.write then 0 else m.acc.hint
    let s2 := if s1.rc.enabled && hint != 3 then allocLine s1 (homeSlice s1 x) (lineSet s1 x) x hint false bad d else s1
    (if m.acc.write then m :: ms else ms).foldl afterFill s2

/-- A sector of a line with an open miss: back already, in an answer on the companion link, or still to be read. -/
def missSector (s : State) (sec : Nat) : State × List Byte × Bool :=
  if s.rc.mret.contains sec then (s, cellsRead s.mem.cells (sec * 32) 32, secBad s.mem sec)
  else
    match (mget s.ly (compOf (sec * 32)) Lyush.reset).answers.findSome? (fun d =>
        if decide (tierSBase ≤ sec * 32) && decide (d.addr ≤ sec * 32) then d.sectors[(sec * 32 - d.addr) / 32]? else none) with
    | some x => (s, x.1, x.2)
    | none =>
      let (s1, d, p) := dReadSecs s (sec * 32) 1
      (s1, d, p.any id)

/-- The fill that a line's open miss waits for takes place, before an access that is ordered after it (R308, R336). -/
def takeFill (s : State) (x : Nat) : State :=
  let (s1, d, p) := missSector s (2 * x)
  let (s2, e, q) := missSector s1 (2 * x + 1)
  fillLine s2 x (d ++ e) (p || q)

/-- The fills that the open misses of lines which satisfy a test wait for take place. -/
def takeFills (s : State) (p : Nat → Bool) : State := (((s.rc.mshr.map (fun m => m.x)).dedup).filter p).foldl takeFill s

/-- Reads a line through its home slice (R333 to R343): 64 bytes and the line's POISON. A read of a line with an open miss
joins it. -/
def readLine (s : State) (x : Nat) (hint : BitVec 2) : State × List Byte × Bool :=
  let s0 := snoopGate s x false
  if passThrough s0 x then
    let (s1, d, p) := dReadSecs s0 (x * 64) 2
    (s1, d, p.any id)
  else if missOpen s0 x then
    let s1 := afterFill (bump1 (takeFill s0 x) (ctrSliceRcMiss (homeSlice s0 x)))
      { x := x, acc := { addr := x * 64, write := false, hint := hint, data := [], poison := false, host := false } }
    match findWay s1 (homeSlice s1 x) (lineSet s1 x) x with
    | some w =>
      let l := mget s1.rc.lines (wayKey (homeSlice s1 x) (lineSet s1 x) w)
        { x := x, dirty := false, keep := false, poison := false, touched := false, data := [] }
      (s1, l.data, l.poison)
    | none => (s1, cellsRead s1.mem.cells (x * 64) 64, secBad s1.mem (2 * x) || secBad s1.mem (2 * x + 1))
  else
    let sl := homeSlice s0 x
    let st := lineSet s0 x
    match findWay s0 sl st x with
    | some w =>
      let k := wayKey sl st w
      let l := mget s0.rc.lines k { x := x, dirty := false, keep := false, poison := false, touched := false, data := [] }
      let s1 := bump1 s0 (ctrSliceRcHit sl)
      let s2 := if hint = 3 then (if l.dirty || l.keep then s1 else dropLine s1 k) else hitHint s1 sl st w l hint
      (s2, l.data, l.poison)
    | none =>
      let (s1, d, p) := dReadSecs (bump1 s0 (ctrSliceRcMiss sl)) (x * 64) 2
      let bad := p.any id
      let s2 := if s1.rc.enabled && hint != 3 then allocLine s1 sl st x hint false bad d else s1
      (s2, d, bad)

/-- Writes bytes of one line through its home slice (R319, R333 to R343, R351), after a fill that the line waits for
(R336). -/
def writeLine (s : State) (a : Nat) (data : List Byte) (hint : BitVec 2) (poison : Bool) : State :=
  let s0 := snoopGate s (a / 64) true
  if passThrough s0 (a / 64) then dWrite s0 a data poison
  else putLine (if missOpen s0 (a / 64) then takeFill s0 (a / 64) else s0) a data hint poison

/-- Reads an extent line by line: bytes, and whether any line is poisoned; the first count bounds the lines. -/
def readExtGo (hint : BitVec 2) : Nat → State → Nat → Nat → State × List Byte × List Bool
  | 0, s, _, _ => (s, [], [])
  | k + 1, s, a, n =>
    if n = 0 then (s, [], []) else
    let m := min n (64 - a % 64)
    let (s1, d, p) := readLine s (a / 64) hint
    let (s2, ds, ps) := readExtGo hint k s1 (a + m) (n - m)
    (s2, bytesAt d (a % 64) m ++ ds, p :: ps)

/-- Reads `n` bytes at `a` through the home slices: bytes, and a poison mark for each line. -/
def readExt (s : State) (a n : Nat) (hint : BitVec 2) : State × List Byte × List Bool :=
  readExtGo hint (n / 64 + 2) s a n

/-- The bytes of a line as every reader would see them now, without any effect: the cached line first, and the writes
that wait for its fill on top (R308, R336). -/
def peekLine (s : State) (x : Nat) : List Byte :=
  let d := match findWay s (homeSlice s x) (lineSet s x) x with
    | some w => (mget s.rc.lines (wayKey (homeSlice s x) (lineSet s x) w)
        { x := x, dirty := false, keep := false, poison := false, touched := false, data := [] }).data
    | none => cellsRead s.mem.cells (x * 64) 64
  (s.rc.mshr.filter (fun m => m.x == x && m.acc.write)).foldl (fun b m => mergeBytes b (m.acc.addr % 64) m.acc.data) d

/-- Writes an extent line by line; the first count bounds the lines. -/
def writeExtGo (hint : BitVec 2) (poison : Bool) : Nat → State → Nat → List Byte → State
  | 0, s, _, _ => s
  | k + 1, s, a, l =>
    if l.isEmpty then s else
    let m := 64 - a % 64
    writeExtGo hint poison k (writeLine s a (l.take m) hint poison) (a + m) (l.drop m)

/-- Writes bytes at `a` through the home slices. -/
def writeExt (s : State) (a : Nat) (l : List Byte) (hint : BitVec 2) (poison : Bool) : State :=
  writeExtGo hint poison (l.length / 64 + 2) s a l

/-- Reads `n` whole sectors of a home slot or record in one access, without allocation (R211): bytes, any poison.
The lines pass their home slices, so a line that the host owns is recalled first (R353). -/
def readSlotGo : Nat → State → Nat → State × List Byte × Bool
  | 0, s, _ => (s, [], false)
  | k + 1, s, a =>
    let (s1, d, p) := dReadSecs (snoopGate s (a / 64) false) a 1
    let (s2, ds, ps) := readSlotGo k s1 (a + 32)
    (s2, d ++ ds, p.any id || ps)

/-- A read of `bytes` bytes of a home slot (R211); a down port counts once. -/
def readSlot (s : State) (a bytes : Nat) : State × List Byte × Bool :=
  if !memUp s a then
    let (s1, l) := freeBytes (countDown s a) bytes
    (s1, l, true)
  else readSlotGo (bytes / 32) s a

/-- Zeroes an extent of tier memory at its home slices, and drops every cached line of it (R24, R353). -/
def zeroExt (s : State) (a n : Nat) : State :=
  let t := takeFills (snoopExt s a n true) (fun x => overlap a n (x * 64) 64)
  { t with mem := t.mem.zero a n,
           rc := { t.rc with lines := t.rc.lines.filter (fun e => e.2.x * 64 < a || a + n ≤ e.2.x * 64) } }

/-! ### The form of a meaning -/

/-- A wake from Park starts, or is held until entry ends (R521, R522). -/
def wakeUp (s : State) : State :=
  match s.pwr.park with
  | .entering => { s with pwr := { s.pwr with wakeHeld := true } }
  | .parked => { s with pwr := { s.pwr with park := .waking } }
  | _ => s

/-- Keeps an access for the end of a wake, of a restart or of a back-invalidate. -/
def hold (s : State) (h : Held) : State := { s with pwr := { s.pwr with held := s.pwr.held ++ [h] } }

/-- Sends the back-invalidate snoops that are not out yet (R353, R354). -/
def sendSnoops (s : State) (need : List Nat) : State :=
  (need.dedup.filter (fun x => !(s.rc.biSent.contains x))).foldl (fun u x =>
    bump1 { u with rc := { u.rc with biSent := u.rc.biSent ++ [x] } } (ctrSliceBiSnoop (homeSlice u x))) s

/-- What stands in `need` for a row of companion k that an earlier UPDATE is ahead on (R209, R210). -/
def rowMark (k : Nat) : Nat := 2 ^ 43 + k

/-- The attempt of an access that waits for its row counts on the companion (R210; log entry 118). -/
def lockWaits (s : State) (need : List Nat) : State :=
  ((List.range 8).filter (fun k => need.contains (rowMark k))).foldl (fun t k => bump1 t (ctrCompLyLockWait k)) s

/-- An event that needs back-invalidates, miss entries or a row that an UPDATE is ahead on waits in `base`, and the snoops go to the host; with none it
takes place. -/
def settleIn (base t : State) : State :=
  if t.rc.need.isEmpty then t
  else sendSnoops (lockWaits base t.rc.need) (t.rc.need.filter (fun x => decide (x < 2 ^ 42)))

/-- An event that comes again waits in the state as it was. -/
def settle (s t : State) : State := settleIn s t

/-- A meaning: nothing moves while the block is stopped (R516, R558). -/
def act (s : State) (f : State → State) : Host.Outcome State Fault Refusal :=
  .next (if stopped s then s else settle s (f s))

/-- An access of a host, an adapter or a mailbox: discarded and counted while frozen (R558, R574). -/
def hostAct (s : State) (f : State → State) : Host.Outcome State Fault Refusal :=
  .next (if s.err.frozen then bump1 s ctrChipFrzHostRej
    else if stopped s then s else settle s (f s))

/-- The order key of R431: the command tag, with the bag for fan-in records; or the 256-byte granule of the remote
window. -/
def orderKey (f : TMsg) : Nat :=
  if f.cls = 1 then f.tag % 2 ^ 20 + numAt f.payload 0 4 % 2 ^ 20 * 2 ^ 20
  else if 2 ≤ f.cls && f.cls ≤ 5 then fld f.arg 16 28 + fld f.arg 0 8 * 2 ^ 28
  else f.tag % 2 ^ 20

/-- Lines of virtual memory that a request of the dense engines touches. -/
def cpLinesOf (r : CpRequest) : Nat × Nat := (r.va.toNat / 64, (r.va.toNat + r.len - 1) / 64)

/-- Two accesses that keep their order: remote requests of one chip and class with equal keys (R439), and requests of the
dense engines for one line (R388). -/
def heldKeyed (k h : Held) : Bool :=
  match k, h with
  | .remote f _, .remote g _ => f.src == g.src && f.cls == g.cls && orderKey f == orderKey g
  | .chipPort p, .chipPort q => decide ((cpLinesOf p).1 ≤ (cpLinesOf q).2) && decide ((cpLinesOf q).1 ≤ (cpLinesOf p).2)
  | _, _ => false

/-- A posted write of the host to memory (R410). -/
def heldPosted : Held → Bool
  | .port _ a => a.write
  | .window a => a.write
  | .memWrite _ _ _ _ => true
  | _ => false

/-- A write to BAR0. -/
def heldReg : Held → Bool
  | .reg _ _ => true
  | _ => false

/-- A window access whose place is not yet known. -/
def heldWin : Held → Bool
  | .window _ => true
  | _ => false

/-- The access waits behind one that is held: posted writes go in arrival order, a write to BAR0 goes behind every earlier
posted write and write to BAR0, a window access behind an earlier write to BAR0 is placed after it (R398, R410), and
accesses with one order key keep their order. A restart discards posted writes and serves BAR0 (R419). -/
def mustWait (s : State) (h : Held) : Bool :=
  s.pwr.restart != .running && s.pwr.held.any (fun k =>
    (heldPosted k && (heldPosted h || heldReg h)) || (heldReg k && (heldReg h || heldWin h)) || heldKeyed k h)

/-- A write to BAR0: discarded and counted while frozen (R558), kept while it must wait (R410). -/
def barAct (s : State) (off : Nat) (words : List W64) (f : State → State) : Host.Outcome State Fault Refusal :=
  .next (if s.err.frozen then bump1 s ctrChipFrzHostRej
    else if stopped s then s
    else if mustWait s (.reg off words) then hold s (.reg off words)
    else settleIn (hold s (.reg off words)) (f s))

/-- As `act`, for an access that comes once: the block keeps it while it waits. -/
def actKeep (s : State) (h : Held) (f : State → State) : Host.Outcome State Fault Refusal :=
  .next (if stopped s then s else settleIn (hold s h) (f s))

/-! ### Kept bag maps (R174) -/

/-- Releases a kept map, at once or when the SCATTERs that read it have completed (R174). -/
def releaseMap (s : State) (id : BitVec 16) : State :=
  { s with sc := { s.sc with
      maps := (s.sc.maps.filter (fun m => m.id != id || m.readers != 0)).map (fun m =>
        if m.id = id then { m with relAsked := true } else m) } }

end Sys2Proof.Machine
end

