-- ==== Sys2Proof/Machine/HostLines.lean ====
section
/-! DEFINITION. The block's traffic to host memory: reads, posted writes, and the host line cache (R392, R406 to R409,
R411). -/

namespace Sys2Proof.Machine

/-! ### Requests on the link -/

/-- A host read request (R392, R599). -/
def hostRead (s : State) (pa len : Nat) (w : HostFor) : State :=
  { s with hp := { s.hp with
      nextId := s.hp.nextId + 1,
      reads := s.hp.reads ++ [{ id := s.hp.nextId, addr := pa, len := len, what := w }] } }

/-- A request goes out on CXL.cache for a line (R408). -/
def cxlSend (s : State) (op : CxlOp) (x : Nat) : State := { s with hp := { s.hp with cxl := s.hp.cxl ++ [(op, x)] } }

/-- A host-bound write, posted on CXL.io or by a request of CXL.cache (R407, R411); without a host path it is dropped at the
port (R415). -/
def hostWrite (s : State) (pa : Nat) (data : List Byte) (poison : Bool) (op : Option CxlOp) (cids : List Nat) : State :=
  if !hostUp s then bump1 s ctrChipHpWrDrop
  else
    let s1 := (op.map (fun o => cxlSend s o (pa / 64))).getD s
    { s1 with hp := { s1.hp with
      nextId := s1.hp.nextId + 1,
      writes := s1.hp.writes ++ [{ id := s1.hp.nextId, addr := pa, data := data, poison := poison, cxl := op.isSome, cids := cids }],
      sent := s1.hp.sent ++ [(pa, data, poison)] } }

/-- The command among the readers and writers. -/
def whoCid : Who → Option Nat
  | .cmd c => some c
  | .chan _ => none
  | .cp _ => none

/-- The host-path entries in force for a reader or writer: a change reaches the commands stamped after it (R406). -/
def pathsFor (s : State) (w : Who) : FMap HostPath :=
  match (whoCid w).bind (fun c => s.hp.oldPaths.find? (fun e => decide (c < e.1))) with
  | some e => e.2
  | none => s.hp.paths

/-- Is a host bus address of a CACHE entry (R406)? -/
def hostCached (s : State) (w : Who) (pa : Nat) : Bool :=
  (pathsFor s w).any (fun e => e.2.cache && decide (e.2.base ≤ pa) && decide (pa < e.2.base + e.2.len))

/-! ### The host line cache (R407); its set index is the model's (log entry 35) -/

/-- The set of a host line. -/
def hcSet (x : Nat) : Nat := x % 1024

/-- The way that holds a host line, with the line. -/
def hcFind (s : State) (x : Nat) : Option (Nat × HLine) :=
  (List.range 16).findSome? (fun w =>
    match mget? s.hp.lines (hcSet x * 16 + w) with
    | some l => if l.addr = x then some (hcSet x * 16 + w, l) else none
    | none => none)

/-- Sets a line at its place. -/
def hcSetLine (s : State) (k : Nat) (l : HLine) : State := { s with hp := { s.hp with lines := mset s.hp.lines k l } }

/-- A place becomes Invalid. -/
def hcDrop (s : State) (k : Nat) : State := { s with hp := { s.hp with lines := mdel s.hp.lines k } }

/-- Updates the tree of a set on an access (R338). -/
def hcTouch (s : State) (k : Nat) : State :=
  { s with hp := { s.hp with trees := mset s.hp.trees (k / 16) (treeTouch 4 (16 + k % 16) (mget s.hp.trees (k / 16) 0)) } }

/-- A line in state M leaves by DirtyEvict (R407). -/
def dirtyEvict (s : State) (l : HLine) : State := hostWrite s (l.addr * 64) l.data l.poison (some .dirtyEvict) l.cids

/-- A victim leaves: by DirtyEvict in M, by CleanEvictNoData in E or S (R407). -/
def hcEvict (s : State) (l : HLine) : State :=
  if l.st = .modified then dirtyEvict s l else if hostUp s then cxlSend s .cleanEvictNoData l.addr else s

/-- Allocates a line in the place of the set's victim (R339, R407). -/
def hcAlloc (s : State) (l : HLine) : State :=
  let st := hcSet l.addr
  let w := match (List.range 16).find? (fun w => (mget? s.hp.lines (st * 16 + w)).isNone) with
    | some w => w
    | none => treeWalk (fun _ => true) 16 (mget s.hp.trees st 0) 4 1
  let k := st * 16 + w
  hcTouch (hcSetLine (((mget? s.hp.lines k).map (hcEvict s)).getD s) k l) k

/-- Merges bytes into a line, which is M afterwards. -/
def hcMerge (l : HLine) (m : Merge) : HLine :=
  { l with
    st := .modified, data := mergeBytes l.data m.off m.data, poison := l.poison || m.poison,
    cids := match m.cid with
      | some c => sins l.cids c
      | none => l.cids }

/-- A read of the line into the host line cache is out. -/
def hcAsked (s : State) (x : Nat) : Bool :=
  s.hp.reads.any (fun r => match r.what with | .line y _ _ => y == x | _ => false)

/-- A write waits for the line that is on its way. -/
def hcAddMerge (s : State) (x : Nat) (m : Merge) : State :=
  { s with hp := { s.hp with reads := s.hp.reads.map (fun r => match r.what with
      | .line y own ms => if y = x then { r with what := .line y own (ms ++ [m]) } else r
      | _ => r) } }

/-- Asks for a line: by RdOwn to merge bytes, else by RdShared (R407). -/
def hcRead (s : State) (x : Nat) (own : Bool) (ms : List Merge) : State :=
  hostRead (cxlSend s (if own then .rdOwn else .rdShared) x) (x * 64) 64 (.line x own ms)

/-- A write within one line of a CACHE entry (R407): behind a read of the line that is out; a whole line by ItoMWr, which
allocates nothing; a part of one into the line, once the block owns it. -/
def hcPut (s : State) (x : Nat) (m : Merge) : State :=
  if !hostUp s then bump1 s ctrChipHpWrDrop
  else if hcAsked s x then hcAddMerge s x m
  else match hcFind s x with
    | some (k, l) =>
      if m.data.length = 64 then
        hostWrite (hcDrop s k) (x * 64) m.data m.poison (some .itoMWr) (m.cid.toList.foldl sins l.cids)
      else if l.st != .shared then hcTouch (hcSetLine s k (hcMerge l m)) k
      else hcRead s x true [m]
    | none =>
      if m.data.length = 64 then hostWrite s (x * 64) m.data m.poison (some .itoMWr) m.cid.toList
      else hcRead s x true [m]

/-- A write of bytes within one line. -/
def hcWrite (s : State) (pa : Nat) (data : List Byte) (poison : Bool) (cid : Option Nat) : State :=
  hcPut s (pa / 64) { off := pa % 64, data := data, poison := poison, cid := cid }

/-- The line has come: Shared, or M with the bytes it was owned for; the writes behind them follow (R407). -/
def hcArrive (s : State) (x : Nat) (own : Bool) (ms : List Merge) (data : List Byte) (poison : Bool) : State :=
  let fresh : HLine := { addr := x, st := .shared, poison := poison, data := bytesAt data 0 64, cids := [] }
  let part (m : Merge) : Bool := m.data.length != 64
  let now := if own then ms.takeWhile part else []
  let s1 := match hcFind s x with
    | some (k, l) => hcTouch (hcSetLine s k (now.foldl hcMerge l)) k
    | none => hcAlloc s (now.foldl hcMerge fresh)
  (ms.drop now.length).foldl (fun t m => hcPut t x m) s1

/-- Writes marked bytes to host memory; the count bounds the requests. -/
def hostPutGo (w : Who) : Nat → State → Nat → List (Byte × Bool) → State
  | 0, s, _, _ => s
  | k + 1, s, pa, l =>
    if l.isEmpty then s else
    let c := hostCached s w pa
    let m := if c then 64 - pa % 64 else 512 - pa % 512
    let d := l.take m
    let bad := d.any (fun b => b.2)
    let bs := d.map (fun b => b.1)
    let s1 := if c then hcWrite s pa bs bad (whoCid w) else hostWrite s pa bs bad none (whoCid w).toList
    hostPutGo w k s1 (pa + m) (l.drop m)

/-- Writes marked bytes at a host bus address, in requests of at most 512 bytes (R392, R406, R409). -/
def hostPut (s : State) (pa : Nat) (l : List (Byte × Bool)) (w : Who) : State :=
  hostPutGo w (l.length + 1) s pa l

/-- A line that the reader finds in the host line cache, with no write waiting for it: the bytes asked for with its poison
(R407). -/
def hcGet (s : State) (w : Who) (pa len : Nat) : Option (State × List (Byte × Bool)) :=
  if !hostCached s w pa || hcAsked s (pa / 64) then none
  else (hcFind s (pa / 64)).map (fun e => (hcTouch s e.1, (bytesAt e.2.data (pa % 64) len).map (fun b => (b, e.2.poison))))

/-- Asks for host bytes: a CACHE line is read whole by RdShared and kept, under DISCARD_AFTER_LAST by RdCurr and not kept
(R406 to R408). -/
def hostAsk (s : State) (pa len : Nat) (hint : BitVec 2) (w : Who) : State :=
  let x := pa / 64
  if hostCached s w pa then
    if hcAsked s x || s.hp.reads.any (fun r => r.what == .cur w pa len) then s
    else if hint = 3 then hostRead (cxlSend s .rdCurr x) (x * 64) 64 (.cur w pa len)
    else hcRead s x false []
  else if s.hp.reads.any (fun r => r.what == .buf w && r.addr == pa && r.len == len) then s
  else hostRead s pa len (.buf w)

end Sys2Proof.Machine
end

