-- ==== Sys2Proof/Machine/LinkLayer.lean ====
section
/-! DEFINITION. Sending over Transit: the keyed hash, routes, the choice of a link, send queues, credits and the replay
buffer (R79, R423 to R432, R441). -/

namespace Sys2Proof.Machine

/-- The keyed hash H(d, x, dom, seed) of R79. -/
def hashH (d x dom : Nat) (seed : W64) : W64 :=
  let k : W64 := BitVec.ofNat 64 (x ||| (d <<< 40) ||| (dom <<< 52))
  let h1 := (k ^^^ seed) * 0x9E3779B97F4A7C15#64
  let h2 := (h1 ^^^ (h1 >>> 29)) * 0xBF58476D1CE4E5B9#64
  h2 ^^^ (h2 >>> 32)

def linkOf (s : State) (l : Nat) : Link := mget s.tr.links l Link.reset
def setLink (s : State) (l : Nat) (x : Link) : State := { s with tr := { s.tr with links := mset s.tr.links l x } }

/-- The (class, leg) pair of a message (R428). -/
def pairOf (f : TMsg) : Nat := 2 * f.cls + f.leg

/-- Links of a route entry that are trained (R423, R440). -/
def routeLinks (s : State) (dst : BitVec 12) : List Nat :=
  match mget? s.tr.routes dst.toNat with
  | none => []
  | some r => (r.links.take r.nlink).filter (fun l => (linkOf s l).up)

/-- The link that takes a message (R424), none when the destination cannot be reached. -/
def pickLink (s : State) (f : TMsg) : Option Nat :=
  let ls := routeLinks s f.dst
  if ls.isEmpty then none
  else ls[(hashH 0 (orderKey f) 2 0).toNat % 65536 * ls.length / 65536]?

/-- Flits that carry a message of `n` units (log entry 36). -/
def flitsOf (n : Nat) : Nat := (n + 13) / 14

/-- Flits in the replay buffer. -/
def replayFlits (x : Link) : Nat := x.replay.foldl (fun n f => n + flitsOf f.2.len) 0

/-- The first message of each pair that holds credits for all its units: what the sender may choose from (R428). -/
def sendable (x : Link) : List TMsg :=
  (List.range 14).filterMap (fun p =>
    match x.sendq.find? (fun f => pairOf f == p) with
    | some f => if f.len ≤ mget x.credits p 0 then some f else none
    | none => none)

/-- Rounds of the deficit round robin until a class may send its message. -/
def drrRounds (s : State) (x : Link) (f : TMsg) : Nat :=
  let w := max 1 (s.tr.weights.getD f.cls 1)
  (f.len - x.deficits.getD f.cls 0 + w - 1) / w

/-- Position of a class after the one whose turn it is. -/
def drrPlace (x : Link) (f : TMsg) : Nat := (f.cls + 6 - x.turn) % 6

/-- The next message of a link (R432). -/
def nextMsg (s : State) (x : Link) : Option TMsg :=
  let rs := sendable x
  let ctl := rs.filter (fun f => f.cls == 6)
  let oth := rs.filter (fun f => decide (f.cls < 6))
  -- within a class, leg 1 goes first
  let oth1 := oth.filter (fun f => f.leg == 1 || !oth.any (fun g => g.cls == f.cls && g.leg == 1))
  let key (f : TMsg) : Nat := drrRounds s x f * 8 + drrPlace x f
  match (ctl.find? (fun f => f.leg == 1)).orElse (fun _ => ctl.head?) with
  | some f => if x.ctlWait = 0 || oth.isEmpty then some f else oth1.foldl (fun b g =>
      match b with | none => some g | some y => if key g < key y then some g else b) none
  | none => oth1.foldl (fun b g =>
      match b with | none => some g | some y => if key g < key y then some g else b) none

/-- The scheduler's account after a message has been chosen (R432). -/
def drrTake (s : State) (x : Link) (f : TMsg) : Link :=
  if f.cls = 6 then { x with ctlWait := 15 * flitsOf f.len }
  else
    let k := drrRounds s x f
    let ready := sendable x
    { x with
      deficits := (List.range 6).map (fun c =>
        let d := x.deficits.getD c 0
        if c = f.cls then d + k * s.tr.weights.getD c 1 - f.len
        else if ready.any (fun g => g.cls == c) then d + k * s.tr.weights.getD c 1 else 0),
      turn := f.cls, ctlWait := x.ctlWait - flitsOf f.len }

/-- The 16-byte header of a message (R429). -/
def msgHeader (f : TMsg) : List Byte :=
  toBytes 8 (f.cls % 8 + f.leg % 2 * 2 ^ 3 + f.dst.toNat * 2 ^ 4 + f.src.toNat * 2 ^ 16 + f.mtype.toNat * 2 ^ 28 +
    f.len % 2 ^ 12 * 2 ^ 32 + f.tag % 2 ^ 20 * 2 ^ 44) ++ toBytes 8 f.arg.toNat

/-- Removes the first occurrence of a message. -/
def dropFirst (l : List TMsg) (f : TMsg) : List TMsg :=
  match l with
  | [] => []
  | g :: r => if g = f then r else g :: dropFirst r f

/-- Sends what credits and the replay buffer permit; the count bounds the messages. -/
def linkPump (l : Nat) : Nat → State → State
  | 0, s => s
  | k + 1, s =>
    let x := linkOf s l
    match nextMsg s x with
    | none => s
    | some f =>
      if !x.up || decide (512 < replayFlits x + flitsOf f.len) then s
      else
        let y := drrTake s x f
        let q := (y.seq + flitsOf f.len) % 4096
        linkPump l k (setLink s l { y with
          seq := q, sendq := dropFirst y.sendq f, replay := y.replay ++ [((q + 4095) % 4096, f)],
          credits := mset y.credits (pairOf f) (mget y.credits (pairOf f) 0 - f.len) })

/-- Sends what a link can send now. -/
def pumpLink (s : State) (l : Nat) : State := linkPump l (linkOf s l).sendq.length s

/-- A message takes its link; without one it is lost (R424, R444). -/
def routeMsg (s : State) (f : TMsg) : State :=
  match pickLink s f with
  | none => { s with tr := { s.tr with lost := s.tr.lost ++ [f] } }
  | some l => pumpLink (setLink s l { linkOf s l with sendq := (linkOf s l).sendq ++ [f] }) l

/-- Hands a message to the Transit link layer; one to this chip never leaves it (R423). -/
def transitSend (s : State) (f : TMsg) : State :=
  let s1 := { s with tr := { s.tr with out := s.tr.out ++ [f] } }
  if f.dst = s.mer.fabric then s1 else routeMsg s1 f

end Sys2Proof.Machine
end

