-- ==== Sys2Proof/Machine/Operands.lean ====
section
/-! DEFINITION. Operand forms: range translation, extents and their pieces, reading and writing operands of mailbox
and queue commands in device, remote and host memory (R356 to R362, R493). -/

namespace Sys2Proof.Machine

/-! ### Range entries -/

/-- The rights of R359: 0 read, 1 write, 2 atomic. -/
def hasRight (r : Range) (right : Nat) : Bool :=
  if right = 0 then r.rd else if right = 1 then r.wr else r.at'

/-- The virtual extent of an entry in bytes. -/
def rangeLo (r : Range) : Nat := r.start * 65536
def rangeHi (r : Range) : Nat := (r.start + r.length) * 65536

/-- The entry that translates a virtual address (R359 step 1), with its number. `held` says that the access belongs to a
command that validated its extents before an invalidation: entries being invalidated serve it until it completes (R360,
R363, R364). -/
def rangeAt (s : State) (held : Bool) (v : Nat) : Option (Nat × Range) :=
  s.xlt.ranges.find? (fun e => e.2.p && (held || !e.2.inval) && decide (rangeLo e.2 ≤ v) && decide (v < rangeHi e.2))

/-- The physical address of a virtual address of an entry (R359 step 4). -/
def rangePa (r : Range) (v : Nat) : Nat := r.pbase * 65536 + (v - rangeLo r)

/-! ### Translation caches (R362) -/

/-- Lines of a requester's cache: 64 for a tile, 128 for the chip port (cache 48). -/
def xltSize (k : Nat) : Nat := if k = 48 then 128 else 64

/-- The counter of its misses. -/
def xltMissCtr (k : Nat) : Nat := if k = 48 then ctrChipCpXltMiss else ctrTileXltMiss k

/-- A translation through an entry: a hit becomes the most recently used line, a miss counts and fills. An entry being
invalidated, which still serves a running command's lists and output, fills nothing (R364; log entry 126). -/
def xltUse (s : State) (k e : Nat) : State :=
  let l := mget s.xlt.caches k []
  let s1 := bumpIf s (!l.contains e) (xltMissCtr k)
  if (mget? s.xlt.ranges e).any (fun r => r.inval) then s1
  else { s1 with xlt := { s1.xlt with caches := mset s1.xlt.caches k ((e :: sdel l e).take (xltSize k)) } }

/-- A gather engine or pooling unit of a tile uses pieces of an extent. -/
def xltUses (s : State) (k : Nat) (ps : List Piece) : State := ps.foldl (fun t p => xltUse t k p.ent) s

/-- What stopped an extent: its first failing address, and whether the entry was missing or lacked the right. -/
structure ExtFail where
  va : Nat
  missing : Bool
  deriving DecidableEq, Repr

/-- Splits an extent at entry boundaries (R359 step 2); with `pin` an entry without PIN grants no right (R360). -/
def extGo (s : State) (held pin : Bool) (right : Nat) : Nat → Nat → Nat → Except ExtFail (List Piece)
  | 0, v, n => if n = 0 then .ok [] else .error { va := v, missing := true }
  | k + 1, v, n =>
    if n = 0 then .ok [] else
    match rangeAt s held v with
    | none => .error { va := v, missing := true }
    | some (i, r) =>
      if (pin && !r.pin) || !hasRight r right then .error { va := v, missing := false }
      else
        let m := min n (rangeHi r - v)
        match extGo s held pin right k (v + m) (n - m) with
        | .error e => .error e
        | .ok l => .ok ({ host := r.host, pa := rangePa r v, len := m, hint := r.hint, va := v, ent := i } :: l)

/-- The pieces of a virtual extent. -/
def extPieces (s : State) (pin : Bool) (right v n : Nat) : Except ExtFail (List Piece) :=
  extGo s false pin right (s.xlt.ranges.length + 1) v n

/-- The pieces of an extent that a running command validated (R360). -/
def extHeld (s : State) (right v n : Nat) : Except ExtFail (List Piece) :=
  extGo s true true right (s.xlt.ranges.length + 1) v n

/-- A requester translates the first part of an access, which lies in one entry (R359). A miss that finds no entry counts
and is not cached; one that finds an entry fills, whether or not it grants the right (R362). -/
def xltPart (s : State) (k right v n : Nat) : State × Except ExtFail Piece :=
  match rangeAt s false v with
  | none => (bump1 s (xltMissCtr k), .error { va := v, missing := true })
  | some (e, r) =>
    (xltUse s k e,
      if hasRight r right then
        .ok { host := r.host, pa := rangePa r v, len := min n (rangeHi r - v), hint := r.hint, va := v, ent := e }
      else .error { va := v, missing := false })

/-- The pieces of a mailbox buffer (R493): with PHYS, a device physical extent of the tiers. -/
def bufPieces (s : State) (phys : Bool) (right a n : Nat) : Except ExtFail (List Piece) :=
  if phys then
    if inTiers a n then .ok [{ host := false, pa := a, len := n, hint := 0, va := a, ent := 0 }]
    else .error { va := if inTiers a 1 then (if a < tierFEnd then tierFEnd else tierSEnd) else a, missing := true }
  else extPieces s true right a n

/-! ### Pieces as requests -/

/-- The slot of a remote-window address, and the offset in its 64 GiB (R435). -/
def remoteSlot (pa : Nat) : Nat := (pa - remoteBase) / 0x1000000000
def remoteOff (pa : Nat) : Nat := (pa - remoteBase) % 0x1000000000
def slotOf (s : State) (pa : Nat) : Slot := mget s.tr.slots (remoteSlot pa) { v := false, dchip := 0, rwin := 0 }

/-- Bytes up to the end of one request: 512 to the host, a line of a CACHE entry, 256 to another chip (R392, R437). -/
def cutLen (s : State) (w : Who) (p : Piece) : Nat :=
  if p.host then (if hostCached s w p.pa then 64 - p.pa % 64 else 512 - p.pa % 512) else 256 - p.pa % 256

/-- Cuts a piece that leaves the chip into requests; the count bounds them. -/
def reqGo (s : State) (w : Who) : Nat → Piece → List Piece
  | 0, p => [p]
  | k + 1, p =>
    let m := cutLen s w p
    if p.len ≤ m then [p]
    else { p with len := m } :: reqGo s w k { p with pa := p.pa + m, va := p.va + m, len := p.len - m }

/-- The requests of a piece; one to the tiers stays whole. -/
def cutPiece (s : State) (w : Who) (p : Piece) : List Piece :=
  if !p.host && inTiers p.pa p.len then [p] else reqGo s w p.len p

/-- Cuts every piece; an access through a slot that is not valid is a protection violation (R435). -/
def cutPieces (s : State) (w : Who) (ps : List Piece) : Except ExtFail (List Piece) :=
  let cs := ps.flatMap (cutPiece s w)
  match cs.find? (fun p => !p.host && !inTiers p.pa p.len && !(slotOf s p.pa).v) with
  | some p => .error { va := p.va, missing := false }
  | none => .ok cs

/-! ### Reading -/

/-- What a read of an extent gives: bytes with their poison marks, a request that must first be answered from outside
the chip, or a failing address. -/
inductive RdOut where
  | ok (s : State) (data : List (Byte × Bool))
  | outside (p : Piece)
  | fail (e : ExtFail)

/-- Bytes of the tiers, each with its line's poison. -/
def readTier (s : State) (p : Piece) : State × List (Byte × Bool) :=
  let (s1, d, marks) := readExt s p.pa p.len p.hint
  (s1, d.zipIdx.map (fun x => (x.1, marks.getD ((p.pa + x.2) / 64 - p.pa / 64) false)))

/-- What has been fetched for a reader. -/
def gotFor (s : State) (who : Who) (p : Piece) : Option (List (Byte × Bool)) :=
  (s.got.find? (fun g => g.who == who && g.host == p.host && g.addr == p.pa && g.data.length == p.len)).map (fun g => g.data)

/-- Reads requests one after another; those outside the chip come from the host line cache, or from what has been fetched
for the reader. -/
def readCuts (who : Who) : State → List Piece → RdOut
  | s, [] => .ok s []
  | s, p :: ps =>
    let rest (s1 : State) (d : List (Byte × Bool)) : RdOut :=
      match readCuts who s1 ps with
      | .ok s2 d2 => .ok s2 (d ++ d2)
      | x => x
    if !p.host && inTiers p.pa p.len then
      let (s1, d) := readTier s p
      rest s1 d
    else match gotFor s who p with
      | some d => rest s d
      | none =>
        if p.host then
          match hcGet s who p.pa p.len with
          | some (s1, d) => rest s1 d
          | none => .outside p
        else .outside p

/-- Reads the pieces of an extent. -/
def readPieces (who : Who) (s : State) (ps : List Piece) : RdOut :=
  match cutPieces s who ps with
  | .error e => .fail e
  | .ok cs => readCuts who s cs

/-- The address of the first poisoned byte of an extent that begins at `va`. -/
def firstPoison (va : Nat) (d : List (Byte × Bool)) : Option Nat :=
  (d.zipIdx.find? (fun x => x.1.2)).map (fun x => va + x.2)

/-- Drops what has been fetched for a reader. -/
def dropGot (s : State) (w : Who) : State := { s with got := s.got.filter (fun g => g.who != w) }

/-! ### Requests that leave the chip -/

/-- `ARG` of a request through a remote window (R437). -/
def remoteArg (s : State) (pa len opc : Nat) : Nat :=
  (slotOf s pa).rwin % 256 + remoteOff pa * 2 ^ 8 + (len - 1) % 256 * 2 ^ 44 + opc % 4 * 2 ^ 52

/-- The payload of a remote write: for each sector its byte mask, then the data (R437). -/
def remoteMasks (pa len : Nat) : List Byte :=
  (List.range ((pa % 32 + len + 31) / 32)).flatMap (fun i =>
    let lo := max (pa % 32) (32 * i) - 32 * i
    let hi := min (pa % 32 + len) (32 * i + 32) - 32 * i
    toBytes 4 ((2 ^ (hi - lo) - 1) * 2 ^ lo))

/-- Poison bits of the sectors that marked bytes at an address touch. -/
def sectorMarks (pa : Nat) (d : List (Byte × Bool)) : List Bool :=
  (List.range ((pa % 32 + d.length + 31) / 32)).map (fun i =>
    (d.zipIdx.any (fun x => x.1.2 && decide ((pa % 32 + x.2) / 32 = i))))

/-- A message through a remote window, of the request classes RREQ (2) and DREQ (4) (R431, R437). -/
def remoteReq (s : State) (cls mtype pa len opc : Nat) (data : List (Byte × Bool)) (w : RemoteFor) : State :=
  let bytes := if mtype = 1 then remoteMasks pa len ++ data.map (fun b => b.1) else data.map (fun b => b.1)
  let f : TMsg := {
    cls := cls, leg := 0, dst := (slotOf s pa).dchip, src := s.mer.fabric, mtype := BitVec.ofNat 4 mtype,
    len := 1 + (bytes.length + 15) / 16, tag := s.tr.nextTag, arg := BitVec.ofNat 64 (remoteArg s pa len opc),
    payload := bytes, poison := if mtype = 1 then sectorMarks pa data else [] }
  let s1 := { s with tr := { s.tr with nextTag := s.tr.nextTag + 1, wait := s.tr.wait ++ [(s.tr.nextTag, w)] } }
  transitSend s1 f

/-- The request class: DREQ for the dense engines, else RREQ (R431). -/
def whoClass : Who → Nat
  | .cp _ => 4
  | _ => 2

/-- Asks for a part of an operand that lies outside the chip, once. -/
def askOutside (s : State) (who : Who) (p : Piece) : State :=
  if p.host then hostAsk s p.pa p.len p.hint who
  else if s.tr.wait.any (fun w => w.2 == .buf who p.pa) then s
  else remoteReq s (whoClass who) 0 p.pa p.len 0 [] (.buf who p.pa)

/-- Asks for every part of a piece that lies outside the chip and has not come. -/
def askPiece (s : State) (who : Who) (p : Piece) : State :=
  (cutPiece s who p).foldl (fun t c =>
    if (gotFor t who c).isSome || (c.host && (hcGet t who c.pa c.len).isSome) then t else askOutside t who c) s

/-! ### Writing -/

/-- Writes marked bytes of one line: as one write, or by sectors where only one of the two is poisoned (R319, R377). -/
def writeMarkedLine (s : State) (a : Nat) (d : List (Byte × Bool)) (hint : BitVec 2) : State :=
  let bytes (l : List (Byte × Bool)) : List Byte := l.map (fun b => b.1)
  let bad (l : List (Byte × Bool)) : Bool := l.any (fun b => b.2)
  let k := 32 - a % 32
  if a % 64 < 32 && decide (k < d.length) && bad (d.take k) != bad (d.drop k) then
    writeLine (writeLine s a (bytes (d.take k)) hint (bad (d.take k))) (a + k) (bytes (d.drop k)) hint (bad (d.drop k))
  else writeLine s a (bytes d) hint (bad d)

/-- Writes marked bytes to the tiers line by line; the count bounds the lines. -/
def writeMarkedGo (hint : BitVec 2) : Nat → State → Nat → List (Byte × Bool) → State
  | 0, s, _, _ => s
  | k + 1, s, a, l =>
    if l.isEmpty then s else
    let m := 64 - a % 64
    writeMarkedGo hint k (writeMarkedLine s a (l.take m) hint) (a + m) (l.drop m)

/-- Writes one request: tier memory, host memory, or another chip's. -/
def writePiece (s : State) (who : Who) (p : Piece) (d : List (Byte × Bool)) : State :=
  if p.host then hostPut s p.pa d who
  else if inTiers p.pa p.len then writeMarkedGo p.hint (d.length / 64 + 2) s p.pa d
  else remoteReq s (whoClass who) 1 p.pa d.length 0 d (.write who)

/-- Writes marked bytes over requests. -/
def writeCuts (s : State) (who : Who) : List Piece → List (Byte × Bool) → State
  | [], _ => s
  | p :: ps, d => if d.isEmpty then s else writeCuts (writePiece s who p (d.take p.len)) who ps (d.drop p.len)

/-- Writes marked bytes over the pieces of an extent; a piece through a slot that is not valid takes nothing. -/
def writeMarked (s : State) (who : Who) (ps : List Piece) (d : List (Byte × Bool)) : State :=
  match cutPieces s who ps with
  | .ok cs => writeCuts s who cs d
  | .error _ => s

/-- Writes data over the pieces of an extent. -/
def writePieces (s : State) (who : Who) (ps : List Piece) (d : List Byte) : State :=
  writeMarked s who ps (d.map (fun b => (b, false)))

end Sys2Proof.Machine
end

