-- ==== Sys2Proof/Machine/Flags.lean ====
section
/-! DEFINITION. Flag computations: completion status, throttle level, status registers and lines (R16, R18, R352,
R421, R489, R531, R548, R559, R578 to R580). -/

namespace Sys2Proof.Machine

/-- The completion status of a command: a failure first, then POISON, then DROPS (R16, R18). -/
def statusOf (fail : Option (BitVec 8)) (poison drops : Bool) : BitVec 8 :=
  match fail with
  | some f => f
  | none => if poison then 0x02 else if drops then 0x01 else 0x00

/-- Highest sensor temperature. -/
def maxTemp (p : Pwr) : Nat := p.temps.foldl max 0

/-- The throttle level in force: the controller's, the rail alert's and the sensors' minima (R528, R530). -/
def throttle (p : Pwr) : Nat :=
  max p.ctl (max (if p.railAlert || p.railHold then 12 else 0)
    (if 115 ≤ maxTemp p then 15 else if 105 ≤ maxTemp p then 8 else 0))

/-- `PWR_STATUS` (R531). -/
def pwrStatus (s : State) : W64 :=
  let p := s.pwr
  BitVec.ofNat 64 (throttle p % 16 + b2n (decide (0 < p.ctl)) * 2 ^ 4 + b2n p.railAlert * 2 ^ 5 +
    b2n (decide (105 ≤ maxTemp p)) * 2 ^ 6 + b2n p.trip * 2 ^ 7 + b2n (p.park != .running) * 2 ^ 8 +
    p.sl.toNat * 2 ^ 9 + b2n p.pllLost * 2 ^ 11 + maxTemp p % 256 * 2 ^ 12)

/-- `ERR_STATUS` (R548). -/
def errStatus (s : State) : W64 :=
  BitVec.ofNat 64 (b2n s.pwr.pllLost + b2n s.pwr.trip * 2 + b2n s.err.merUe * 4 + b2n s.err.intUe * 8 +
    b2n s.err.frozen * 16 + s.err.intSrc.toNat * 2 ^ 8)

/-- The management port's error line (R548). -/
def errLine (s : State) : Bool := s.pwr.pllLost || s.pwr.trip || s.err.merUe || s.err.intUe

/-- `FRZ_STATUS` (R559). -/
def frzStatus (s : State) : W64 :=
  BitVec.ofNat 64 (b2n s.err.frozen + s.err.cause.toNat * 2 + b2n s.err.settled * 16 + s.err.cunit.toNat * 2 ^ 8)

/-- Disabled ways of a slice (R350). -/
def waysOff (s : State) (sl : Nat) : Nat := ((List.range 16).filter (fun w => !wayOn s sl w)).length

/-- `RC_STATUS` (R352). -/
def rcStatus (s : State) : W64 :=
  BitVec.ofNat 64 (b2n s.rc.enabled + b2n s.rc.cleaning * 2 + b2n s.rc.done * 4 +
    ((List.range 48).map (waysOff s)).foldl max 0 * 8)

/-- `HP_STATUS` (R421). -/
def hpStatus (s : State) : W64 :=
  BitVec.ofNat 64 (s.hp.state + b2n s.hp.aper * 4 + b2n s.hp.placeEn * 8 + b2n s.hp.logOver * 16)

/-- `GEN_STATUS` (R579). -/
def genStatus (s : State) : W64 := BitVec.ofNat 64 (s.xlt.xgen.toNat + s.alm.epoch.toNat * 2 ^ 32)

/-- `EVT_STATUS` (R580). -/
def evtStatus (s : State) : W64 := BitVec.ofNat 64 (s.evt.host.length + s.evt.mgmt.length * 2 ^ 16)

/-- `MB_STATUS` (R489). -/
def mbStatus (c : Chan) : W64 :=
  BitVec.ofNat 64 (b2n c.busy + b2n c.ack * 2 + b2n c.done * 4 + b2n c.ovr * 8 + c.rc.toNat * 2 ^ 8 +
    c.token.toNat * 2 ^ 16)

/-- State codes of a queue (R452). -/
def qStateCode : QState → Nat
  | .stopped => 0 | .running => 1 | .idle => 2 | .blocked => 3 | .switched => 4 | .hung => 5

/-- The freeze header's words W0 to W5 (R562). -/
def freezeHeader (s : State) : List W64 :=
  [if s.err.frozen then frzStatus s else 0, errStatus s, BitVec.ofNat 64 s.load.mwNum.toNat,
   BitVec.ofNat 64 s.load.mwAclk.toNat, genStatus s,
   BitVec.ofNat 64 (s.pwr.sl.toNat + b2n (if s.err.frozen then s.err.frzPark else s.pwr.park != .running) * 4 +
     b2n (if s.err.frozen then s.err.frzRestart else s.pwr.restart == .running) * 8 + throttle s.pwr * 16 + 0x21 * 256)]

end Sys2Proof.Machine
end

