-- ==== Sys2Proof/Machine/Mailbox.lean ====
section
/-! DEFINITION. The mailbox channels (R485 to R500): taking a command, its checks, its completion. -/

namespace Sys2Proof.Machine

/-- Return codes (R498). -/
def rcOk : Nat := 0x00
def rcUnknown : Nat := 0x10
def rcNotPermitted : Nat := 0x11
def rcLevel : Nat := 0x12
def rcInvalid : Nat := 0x13
def rcBadState : Nat := 0x14
def rcNotFound : Nat := 0x15
def rcInUse : Nat := 0x16
def rcNoSpace : Nat := 0x17
def rcOvercommit : Nat := 0x18
def rcArmBusy : Nat := 0x19
def rcPlanBusy : Nat := 0x1A
def rcCrc : Nat := 0x1B
def rcFormat : Nat := 0x1C
def rcBuffer : Nat := 0x1D
def rcPeer : Nat := 0x1E
def rcReset : Nat := 0x20

/-- A channel. -/
def chanOf (s : State) (c : Nat) : Chan := mget s.chans c (Chan.reset c)
def setChan (s : State) (c : Nat) (x : Chan) : State := { s with chans := mset s.chans c x }

/-- What a command's own part does: it completes with a code and return words, waits as a class-L command,
needs bytes from outside the chip first, or waits for its turn on a row (R251, R267) and starts again. -/
inductive MbOut where
  | done (s : State) (rc : Nat) (rets : List (Nat × W64))
  | wait (s : State) (r : LRun)
  | outside (s : State) (p : Piece)
  | retry (s : State)

/-- What a command's own part sees: its channel, PHYS, the master, and the arguments that Meridian copied. -/
structure MbCtx where
  ch : Nat
  phys : Bool
  mgmt : Bool
  args : List W64
  deriving DecidableEq, Repr

/-- Argument word n (R488). -/
def MbCtx.a (c : MbCtx) (n : Nat) : W64 := c.args.getD n 0
/-- A field of argument word n. -/
def MbCtx.f (c : MbCtx) (n lo w : Nat) : Nat := fld (c.a n) lo w
/-- The buffer pointer in argument word n: bits [51:0] (R504). -/
def MbCtx.p (c : MbCtx) (n : Nat) : Nat := fld (c.a n) 0 52

/-- Response classes (R496). -/
inductive MbClass where
  | F | S | L
  deriving DecidableEq, Repr

/-- A row of the command reference (R505 to R510): opcode, class, group, lowest and highest level, the bits used in
each argument word, and whether the management controller alone may send it. -/
structure MbRow where
  opc : Nat
  cls : MbClass
  group : Nat
  lo : Nat
  hi : Nat
  used : List Nat
  mgmtOnly : Bool
  deriving DecidableEq, Repr

/-- Writes the return words and completes a channel's command (R491). Words without a return read zero (log
entry 13). -/
def mbComplete (s : State) (c rc : Nat) (rets : List (Nat × W64)) : State :=
  let x := chanOf s c
  let s1 := setChan s c { x with
    ack := true, done := true, busy := false, rc := BitVec.ofNat 8 rc,
    rets := (List.range 8).map (fun i => ((rets.find? (fun r => r.1 == i)).map (fun r => r.2)).getD 0) }
  let s2 := dropGot s1 (.chan c)
  if !x.ien then s2
  else if x.master = 1 then msixFire s2 (64 + c)
  else { s2 with pwr := { s2.pwr with complLine := true } }

/-- The channel's command has been taken, its arguments copied. -/
def mbAck (s : State) (c : Nat) : State := setChan s c { chanOf s c with ack := true }

/-- The level admits the command (R504). Below SL3 after a FULL_SR reset, the commands that define, load, bind or
drop tables are refused (R543). -/
def levelOk (s : State) (r : MbRow) : Bool :=
  decide (r.lo ≤ s.pwr.sl.toNat) && decide (s.pwr.sl.toNat ≤ r.hi) &&
    !(s.pwr.fullSr && s.pwr.sl != 3 && [0x11, 0x12, 0x14, 0x15].contains r.opc)

/-- Every argument bit that the command does not use is zero (R492). -/
def argsOk (r : MbRow) (args : List W64) : Bool :=
  (List.range 8).all (fun i => (args.getD i 0).toNat &&& ((2 ^ 64 - 1) ^^^ (r.used.getD i 0)) == 0)

/-- The code of the checks that precede a command's own (R492, R498, R504), none when all pass. -/
def mbChecks (s : State) (r : MbRow) (x : Chan) (args : List W64) : Option Nat :=
  if !s.mer.running then some rcLevel
  else if !x.groups.getLsbD r.group || (r.mgmtOnly && x.master != 2) then some rcNotPermitted
  else if !levelOk s r then some rcLevel
  else if !argsOk r args then some rcInvalid
  else none

/-- Applies what a command's own part answered. -/
def mbApply (c : MbCtx) (r : MbRow) : MbOut → State
  | .done t rc rets => mbComplete t c.ch rc rets
  | .wait t l => { mbAck t c.ch with mer := { t.mer with lruns := t.mer.lruns ++ [l] } }
  | .outside t p =>
    -- the command starts again, with the arguments taken, when the bytes arrive
    hold (askOutside (mbAck t c.ch) (.chan c.ch) p) (.mailbox c.ch r.opc c.phys c.args .begun)
  | .retry t => hold (mbAck t c.ch) (.mailbox c.ch r.opc c.phys c.args .atRow)

/-- Runs a command whose arguments have been taken. -/
def mbRun (s : State) (c : MbCtx) (r : MbRow) (body : State → MbCtx → MbOut) : State :=
  match mbChecks s r (chanOf s c.ch) c.args with
  | some rc => mbComplete s c.ch rc []
  | none => mbApply c r (body s c)

/-- The register effects of a write of `MB_CMD` that finds the channel free (R490). -/
def mbTake (s : State) (m : MbWrite) (opc : Nat) : State :=
  setChan s m.ch { chanOf s m.ch with
    cmd := BitVec.ofNat 64 (opc + b2n m.ien * 2 ^ 8 + b2n m.phys * 2 ^ 9 + m.token.toNat * 2 ^ 16),
    busy := true, ack := false, done := false, token := m.token, ien := m.ien }

/-- The master may use the channel (R487). -/
def mbMaster (s : State) (m : MbWrite) : Bool := (chanOf s m.ch).master == (if m.mgmt then 2 else 1)

/-- A write of `MB_CMD` that does not start a command, and what it leaves (R487, R490): none when it starts one. -/
def mbRefuse (s : State) (m : MbWrite) : Option State :=
  if !mbMaster s m then some (bumpIf s (!m.mgmt) ctrChipMbDeny)
  else if (chanOf s m.ch).busy then
    some (bump1 (setChan s m.ch { chanOf s m.ch with ovr := true }) (ctrMbMbOvr m.ch))
  else none

/-- Class-F commands that touch only Meridian's own state and the links' tables, and are served in Park without a wake;
the others of class F need a unit in a gated domain (R518, R522; log entry 46). -/
def aonOps : List Nat :=
  [0x01, 0x04, 0x05, 0x1A, 0x1E, 0x22, 0x34, 0x35, 0x40, 0x41, 0x44, 0x50, 0x51, 0x52, 0x53, 0x54, 0x72]

/-- The command wakes a parked block (R522). -/
def mbWakes (r : MbRow) : Bool := !(r.cls == .F && aonOps.contains r.opc)

/-- Opcodes of class L (R505 to R510). -/
def classL (opc : Nat) : Bool := [0x11, 0x12, 0x13, 0x16, 0x25, 0x26, 0x31, 0x33, 0x61, 0x73].contains opc

/-- Class-L commands that have begun and are kept, of the given opcodes, whose arguments pass a test. -/
def keptL (s : State) (opcs : List Nat) (p : List W64 → Bool) : List Nat :=
  s.pwr.held.filterMap (fun h => match h with
    | .mailbox ch o _ args turn => if opcs.contains o && classL o && turn != .queued && p args then some ch else none
    | _ => none)

/-- Class-L commands that run (R494). -/
def lCount (s : State) : Nat :=
  (s.mer.lruns.filter (fun r => match r with | .park _ => false | _ => true)).length +
    (keptL s (List.range 256) (fun _ => true)).length

/-- A command of class F or S has been acknowledged and not completed: a later one waits (R494). -/
def fsBusy (s : State) : Bool :=
  s.pwr.held.any (fun h => match h with | .mailbox _ o _ _ _ => !classL o | _ => false)

/-- A command of class F or S has begun: it completes before a restart begins (R500). One that waits for its turn on a row
may wait for work that only the restart ends, and runs after it (log entry 129). -/
def fsBegun (s : State) : Bool :=
  s.pwr.held.any (fun h => match h with | .mailbox _ o _ _ turn => !classL o && turn == .begun | _ => false)

/-- A write of `MB_CMD` with a row's opcode (R490 to R500). A halted Meridian never answers. In Park a command that wakes the
block runs after the wake; during a restart it runs at its end (R496, R522). Commands of class F and S run one at a time,
in the order of their acknowledgement, and those of class L at most eight at once (R494). -/
def mboxF (r : MbRow) (body : State → MbCtx → MbOut) (m : MbWrite) (s : State) : State :=
  match mbRefuse s m with
  | some t => t
  | none =>
    let s1 := mbTake s m r.opc
    let args := (chanOf s1 m.ch).args
    if s1.mer.halted then s1
    else if s1.pwr.park != .running && mbWakes r then
      wakeUp (hold (mbAck s1 m.ch) (.mailbox m.ch r.opc m.phys args .queued))
    else if ((s1.pwr.restart == .running || s1.pwr.restart == .ordered) && r.opc != 0x73) || (r.cls != .L && fsBusy s1) then
      hold (mbAck s1 m.ch) (.mailbox m.ch r.opc m.phys args .queued)
    else if r.cls == .L && decide (8 ≤ lCount s1) then
      { s1 with mer := { s1.mer with lheld := s1.mer.lheld ++ [(m.ch.val, r.opc, m.phys)] } }
    else mbRun s1 { ch := m.ch, phys := m.phys, mgmt := m.mgmt, args := args } r body

/-- The command begun and kept, for one that waits for a back-invalidate. -/
def mbKept (r : MbRow) (m : MbWrite) (s : State) : State :=
  let s1 := mbAck (mbTake s m r.opc) m.ch
  hold s1 (.mailbox m.ch r.opc m.phys (chanOf s1 m.ch).args .begun)

/-- A write of `MB_CMD` as a write to BAR0 (R488, R582). -/
def mbReg (m : MbWrite) (opc : Nat) : Held :=
  .reg (0x10000 + 0x100 * m.ch.val)
    [BitVec.ofNat 64 (opc % 256 + b2n m.ien * 2 ^ 8 + b2n m.phys * 2 ^ 9 + m.token.toNat * 2 ^ 16)]

/-- The host's write of `MB_CMD` waits behind its earlier posted writes (R410). -/
def mbBehind (s : State) (m : MbWrite) (opc : Nat) : Bool := !m.mgmt && mustWait s (mbReg m opc)

/-- The meaning of a mailbox row. -/
def mbox (r : MbRow) (body : State → MbCtx → MbOut) (m : MbWrite) (s : State) : Host.Outcome State Fault Refusal :=
  .next (if s.err.frozen then bump1 s ctrChipFrzHostRej
    else if stopped s then s
    else if mbBehind s m r.opc then hold s (mbReg m r.opc)
    else settleIn (mbKept r m s) (mboxF r body m s))

/-! ### Buffers (R493) -/

/-- Reads an input buffer and goes on; a failure ends the command with BUFFER_FAULT and the address in D7. -/
def withBuf (s : State) (c : MbCtx) (a n : Nat) (k : State → List Byte → MbOut) : MbOut :=
  if c.phys && !c.mgmt then .done s rcBuffer [(7, BitVec.ofNat 64 a)] else
  match bufPieces s c.phys 0 a n with
  | .error e => .done s rcBuffer [(7, BitVec.ofNat 64 e.va)]
  | .ok ps =>
    match readPieces (.chan c.ch) s ps with
    | .fail e => .done s rcBuffer [(7, BitVec.ofNat 64 e.va)]
    | .outside p => if p.host && !hostUp s then .done s rcBuffer [(7, BitVec.ofNat 64 p.va)] else .outside s p
    | .ok s1 d =>
      match firstPoison a d with
      | some v => .done s rcBuffer [(7, BitVec.ofNat 64 v)]
      | none => k s1 (d.map (fun b => b.1))

/-- Checks an output buffer of `n` bytes and goes on with what writes it. -/
def withOut (s : State) (c : MbCtx) (a n : Nat) (k : (State → List Byte → State) → MbOut) : MbOut :=
  if c.phys && !c.mgmt then .done s rcBuffer [(7, BitVec.ofNat 64 a)] else
  match bufPieces s c.phys 1 a n with
  | .error e => .done s rcBuffer [(7, BitVec.ofNat 64 e.va)]
  | .ok ps =>
    match cutPieces s (.chan c.ch) ps with
    | .error e => .done s rcBuffer [(7, BitVec.ofNat 64 e.va)]
    | .ok cs => k (fun t d => writeCuts t (.chan c.ch) cs (d.map (fun b => (b, false))))

/-- A TABLE_PARAMS of the descriptor runs (R232). -/
def lDesc (s : State) (d : Nat) : Bool :=
  s.mer.lruns.any (fun r => match r with | .params _ x _ _ _ _ _ => x == d | _ => false)

/-- A kept class-L command of the given opcodes has this value in a field of an argument word. -/
def keptNames (s : State) (opcs : List Nat) (a lo w v : Nat) : Bool :=
  !(keptL s opcs (fun args => fld (args.getD a 0) lo w == v)).isEmpty

/-- A running class-L command names the descriptor, the stream, the row cache, the virtual extent or the queue: another
command that names it ends with IN_USE (R494). -/
def lUsed (s : State) (d : Nat) : Bool :=
  lDesc s d || keptNames s [0x11] 1 0 12 d || keptNames s [0x12, 0x13] 2 0 12 d || keptNames s [0x16] 0 0 12 d
def lStream (s : State) (n : Nat) : Bool :=
  s.mer.lruns.any (fun r => match r with | .disarm _ x => x == n | _ => false) || keptNames s [0x33] 0 0 8 n
def lCache (s : State) : Bool :=
  s.mer.lruns.any (fun r => match r with | .cacheDisable _ => true | _ => false) ||
    !(keptL s [0x25, 0x26] (fun _ => true)).isEmpty
def lExtent (s : State) (lo hi : Nat) : Bool :=
  s.mer.lruns.any (fun r => match r with
    | .invalidate _ _ _ l h => overlap lo (hi - lo) l (h - l)
    | _ => false) ||
  !(keptL s [0x31] (fun args =>
      overlap lo (hi - lo) (fld (args.getD 0 0) 0 36 * 65536) (fld (args.getD 1 0) 0 36 * 65536))).isEmpty
def lQueue (s : State) (q : Nat) : Bool := keptNames s [0x61] 0 0 6 q

/-- Ends the running class-L commands that satisfy a test, with a code and return words. -/
def endRuns (s : State) (p : LRun → Bool) (chan : LRun → Nat) (rc : Nat) (rets : List (Nat × W64)) : State :=
  let es := s.mer.lruns.filter p
  let s1 := { s with mer := { s.mer with lruns := s.mer.lruns.filter (fun r => !p r) } }
  es.foldl (fun t r => mbComplete t (chan r) rc rets) s1

/-- The channel of a running class-L command. -/
def lrunChan : LRun → Nat
  | .disarm c _ => c
  | .invalidate c _ _ _ _ => c
  | .cacheDisable c => c
  | .park c => c
  | .restart c => c
  | .params c _ _ _ _ _ _ => c

/-- The all-ones mask of `n` bits from bit `lo`, for the used bits of an argument word. -/
def mask (lo n : Nat) : Nat := (2 ^ n - 1) * 2 ^ lo

end Sys2Proof.Machine
end

