-- ==== Sys2Proof/Machine/Power.lean ====
section
/-! DEFINITION. Clocks, resets, firmware start, power and thermal inputs (chapter 16), and the errors and freeze of
chapter 17 that touch no other unit. -/

namespace Sys2Proof.Machine

/-! ### Reset (R532 to R534, R560) -/

/-- Writes every DIRTY line back, POISON lines with the poison syndrome (R355, R560). -/
def writeBackAll (s : State) : State :=
  s.rc.lines.foldl (fun t e => if e.2.dirty then writeBack t e.2 else t) s

/-- Device lines that the host owned are lost with its path: both sectors are written poisoned (R415). -/
def poisonOwned (s : State) : State :=
  let own := s.rc.snoop.filter (fun e => e.2)
  let s1 := own.foldl (fun t e =>
    match findWay t (homeSlice t e.1) (lineSet t e.1) e.1 with
    | some w =>
      let k := wayKey (homeSlice t e.1) (lineSet t e.1) w
      { t with rc := { t.rc with lines := mupd t.rc.lines k (fun l => { l with dirty := true, poison := true }) } }
    | none => dWrite t (e.1 * 64) (cellsRead t.mem.cells (e.1 * 64) 64) true) s
  let s2 := bump s1 ctrChipHpOwnedLost own.length
  { s2 with rc := { s2.rc with snoop := [], biSent := [] } }

/-- The block after a block reset that keeps no tier (R532): the management controller's storage, what stands in the
queue and the model's own counters remain; the PLL stays locked unless it had lost lock. -/
def resetFull (s : State) : State :=
  { State.reset with
    pending := s.pending,
    pwr := { Pwr.reset with pllLock := s.pwr.pllLock && !s.pwr.pllLost },
    mer := { Mer.reset with nvm := s.mer.nvm },
    mc := { MemCtl.reset with repairLog := s.mc.repairLog },
    rc := Cache.reset (Config.random s.draws),
    draws := s.draws + 1, frees := s.frees, aclk := s.aclk, aclk0 := s.aclk }

/-- Power-on reset: as a block reset, and the PLL has to lock again (R532). -/
def resetPowerOn (s : State) : State := { resetFull s with pwr := Pwr.reset }

/-- The Lyush state that survives a block reset in FULL_SR mode: everything it holds but the traffic under way
(R322, R533; log entry 15). -/
def Lyush.kept (l : Lyush) : Lyush :=
  { Lyush.reset with ctx := l.ctx, progs := l.progs, psets := l.psets, cbs := l.cbs, recent := l.recent, selfRef := true }

/-- A block reset in FULL_SR mode (R533, R543, R560): DIRTY lines are written back first, then the tiers, the
repairs and the poison directories are kept, and what lies in tier F of tables waits for validation. -/
def resetFullSr (s : State) : State :=
  let s1 := writeBackAll (poisonOwned s)
  let t := resetFull s1
  { t with
    draws := s.draws,
    pwr := { t.pwr with fullSr := true },
    mem := s1.mem,
    mc := { t.mc with selfRef := true },
    rc := Cache.reset 0,
    tabs := { s1.tabs with groups := [] },
    alm := { Alm.reset with cut := s1.alm.cut, journal := s1.alm.journal, used := s1.alm.used, retire := s1.alm.retire },
    ly := mmap s1.ly (fun _ l => l.kept) }

/-- POWER_ON_RESET (R532, R535). -/
def execPowerOnReset (s : State) : Host.Outcome State Fault Refusal := .next (resetPowerOn s)

/-- RESET_LINE_FULL (R533): mode FULL, and the reserved mode, which is treated as FULL. -/
def execResetLineFull (_reservedMode : Bool) (s : State) : Host.Outcome State Fault Refusal := .next (resetFull s)

/-- RESET_LINE_FULL_SR (R533); treated as FULL while the PLL has lost lock (R534). -/
def execResetLineFullSr (s : State) : Host.Outcome State Fault Refusal :=
  .next (if s.pwr.pllLost || !s.pwr.pllLock then resetFull s else resetFullSr s)

/-! ### Clocks (R514, R516) -/

/-- PLL_LOCK (R514): the clocks start. -/
def execPllLock (s : State) : Host.Outcome State Fault Refusal :=
  .next (if s.pwr.pllLost then s else { s with pwr := { s.pwr with pllLock := true } })

/-- PLL_LOCK_LOSS (R516): every derived clock stops, `PLL_LOST` sets, and with it the error line. -/
def execPllLockLoss (s : State) : Host.Outcome State Fault Refusal :=
  .next (if s.pwr.pllLock then { s with pwr := { s.pwr with pllLost := true } } else s)

/-! ### Firmware (R482, R484) -/

/-- The image's trailing CRC-32 matches (R43, R482), and it fits Meridian's 2 MiB of SRAM. -/
def imageOk (image : List Byte) : Bool :=
  let n := image.length
  decide (4 ≤ n) && decide (n ≤ 2 ^ 21) && crc32 (image.take (n - 4)) == numAt image (n - 4) 4

/-- The stripe map after block reset with drawn seeds (R301, R597), from draw number `d` on. -/
def drawnStripes (d : Nat) : FMap Stripe :=
  (List.range 512).map (fun i => (i, { mode := resetMode i, seed := Config.random (d + i) }))

/-- Meridian rewrites its copy of the stripe map, the seeds and the layout (R543). -/
def saveNvm (s : State) : State :=
  { s with mer := { s.mer with nvm := some { layout := s.mer.layout, stripes := s.mc.stripes, seed := s.rc.seed } } }

/-- Meridian starts: it draws the stripe seeds, or after FULL_SR takes its kept copy (R301, R543). -/
def merStart (s : State) : State :=
  let s1 := { s with mer := { s.mer with running := true, halted := false } }
  match s1.pwr.fullSr, s1.mer.nvm with
  | true, some n =>
    { s1 with
      mer := { s1.mer with layout := n.layout }, mc := { s1.mc with stripes := n.stripes },
      rc := { s1.rc with seed := n.seed } }
  | _, _ => saveNvm { s1 with mc := { s1.mc with stripes := drawnStripes s1.draws }, draws := s1.draws + 512 }

/-- FIRMWARE_LOAD (R482): only an image whose CRC matches starts. -/
def execFirmwareLoad (image : List Byte) (s : State) : Host.Outcome State Fault Refusal :=
  act s (fun s => if s.mer.running || !imageOk image then s else merStart s)

/-- MER_HEART_TICK (R484): running firmware increments `MER_HEART`. -/
def execMerHeartTick (s : State) : Host.Outcome State Fault Refusal :=
  act s (fun s => if merUp s then { s with mer := { s.mer with heart := s.mer.heart + 1 } } else s)

/-! ### Power and temperature (R527 to R530) -/

def rowSetPowerCap : MbRow :=
  { opc := 0x72, cls := .F, group := 7, lo := 0, hi := 3, used := [mask 0 9], mgmtOnly := false }

/-- SET_POWER_CAP (R527): 100 W to 340 W. -/
def bodySetPowerCap (s : State) (c : MbCtx) : MbOut :=
  let w := c.f 0 0 9
  if decide (w < 100) || decide (340 < w) then .done s rcInvalid []
  else .done { s with pwr := { s.pwr with cap := w } } rcOk []

/-- SET_POWER_CAP. -/
def execSetPowerCap (m : MbWrite) (s : State) : Host.Outcome State Fault Refusal :=
  mbox rowSetPowerCap bodySetPowerCap m s

/-- The controller's next level (R528). -/
def nextLevel (cap n estimate : Nat) : Nat :=
  if cap < estimate then min (n + 1) 15 else if 100 * estimate < 95 * cap then n - 1 else n

/-- POWER_CONTROL_INTERVAL (R528): the estimate, in watts, of the interval that ends. -/
def execPowerControlInterval (estimate : Nat) (s : State) : Host.Outcome State Fault Refusal :=
  act s (fun s => { s with pwr := { s.pwr with ctl := nextLevel s.pwr.cap s.pwr.ctl estimate } })

/-- RAIL_ALERT (R530): the minimum holds while the input is asserted and until 16,384 ACLK after its release. -/
def execRailAlert (e : RailEvent) (s : State) : Host.Outcome State Fault Refusal :=
  act s (fun s => match e with
    | .asserted => { s with pwr := { s.pwr with railAlert := true, railHold := true } }
    | .released => { s with pwr := { s.pwr with railAlert := false } }
    | .holdOver => { s with pwr := { s.pwr with railHold := s.pwr.railAlert && s.pwr.railHold } })

/-- SENSOR_TEMPERATURE (R530): at 120 °C or above, `TRIP` and with it the error line; a freeze where enabled (R557). -/
def execSensorTemperature (i : Fin 8) (celsius : BitVec 8) (s : State) : Host.Outcome State Fault Refusal :=
  act s (fun s =>
    let s1 := { s with pwr := { s.pwr with
      temps := s.pwr.temps.set i.val celsius.toNat,
      trip := s.pwr.trip || decide (120 ≤ celsius.toNat) } }
    if 120 ≤ celsius.toNat then freezeOn s1 2 3 0 else s1)

/-! ### Errors and freeze (R546, R547, R557 to R559) -/

/-- MERIDIAN_SRAM_ERROR (R547): an uncorrectable error sets `MER_UE` and halts Meridian; where `FRZ_CTRL` says so, the
block freezes (R557). -/
def execMeridianSramError (s : State) : Host.Outcome State Fault Refusal :=
  act s (fun s =>
    let s1 := { s with err := { s.err with merUe := true }, mer := { s.mer with halted := true } }
    freezeOn s1 1 2 0)

/-- FREEZE_LINE (R557). -/
def execFreezeLine (s : State) : Host.Outcome State Fault Refusal := act s (fun s => freeze s 0 0)

/-- FREEZE_ON_EVENT (R557, R559): an event that `FRZ_CTRL` enables. -/
def execFreezeOnEvent (e : FreezeEvent) (s : State) : Host.Outcome State Fault Refusal :=
  act s (fun s =>
    let on (b : Nat) := s.err.frzCtrl.getLsbD b
    match e with
    | .internal => if on 0 && s.err.intUe then freeze s 1 s.err.intSrc else s
    | .meridian => if on 1 && s.err.merUe then freeze s 2 0 else s
    | .thermal => if on 2 && decide (120 ≤ maxTemp s.pwr) then freeze s 3 0 else s
    | .hangQueue q => if on 3 then freeze s 4 (BitVec.ofNat 8 q.val) else s
    | .hangTile t => if on 3 then freeze s 4 (BitVec.ofNat 8 (0x80 + t.val)) else s
    | .memUe n => if on 4 then freeze s 5 n else s)

/-- FREEZE_SETTLED (R559): every DRAM return due at the freeze has landed. -/
def execFreezeSettled (s : State) : Host.Outcome State Fault Refusal :=
  .next (if s.err.frozen then { s with err := { s.err with settled := true } } else s)

end Sys2Proof.Machine
end

