-- ==== Sys2Proof/Machine/Placement.lean ====
section
/-! DEFINITION. Placement of slices (chapter 3): descriptors, home slots, codebooks and quantisation
parameters of a descriptor. -/

namespace Sys2Proof.Machine

/-! ### Descriptors -/

/-- Descriptor `d` (R71). -/
def descOf (s : State) (d : Nat) : Desc := mget s.tabs.descs d Desc.reset

/-- The 128 bytes of a descriptor (R71). -/
def descBytes (x : Desc) : List Byte :=
  toBytes 8 (x.table % 4096 + x.widest % 4 * 2 ^ 12 + x.log2s % 8 * 2 ^ 14 + x.rank % 64 * 2 ^ 17 + x.group % 64 * 2 ^ 23 +
    x.nblkM1 % 32 * 2 ^ 29 + x.gsize % 4 * 2 ^ 34 + b2n x.resident * 2 ^ 36 + x.dstate % 4 * 2 ^ 38) ++
  toBytes 8 (x.rows % 2 ^ 40 + x.tver.toNat * 2 ^ 40) ++
  toBytes 8 (x.cb8.toNat + x.cb4.toNat * 2 ^ 16 + x.cb2.toNat * 2 ^ 32) ++
  toBytes 8 (x.qp8.toNat + x.qp4.toNat * 2 ^ 27) ++
  toBytes 8 (x.qp2.toNat + x.prog % 256 * 2 ^ 32 + x.pset % 256 * 2 ^ 40) ++
  toBytes 8 x.tseed.toNat ++ toBytes 8 (x.homeOff % 2 ^ 26 + x.stateOff % 2 ^ 26 * 2 ^ 26) ++
  toBytes 8 (x.stateSz % 4096) ++ toBytes 8 (x.resBase % 2 ^ 18 + x.resStride % 2 ^ 18 * 2 ^ 18) ++
  List.replicate 56 0

/-- Writes a descriptor: the cached copy and its 128 bytes in the descriptor region. -/
def putDesc (s : State) (d : Nat) (x : Desc) : State :=
  let s1 := { s with tabs := { s.tabs with descs := mset s.tabs.descs d x } }
  writeExt s1 (descBase s1 + 128 * d) (descBytes x) 0 false

/-- The descriptor of a table that satisfies a test, with the lowest number. -/
def findDesc (s : State) (table : Nat) (p : Desc → Bool) : Option (Nat × Desc) :=
  s.tabs.descs.find? (fun e => e.2.dstate != 0 && e.2.table == table && p e.2)

/-- The LIVE descriptor of a table number (R70). -/
def liveDesc (s : State) (table : Nat) : Option (Nat × Desc) :=
  match mget? s.tabs.binding table with
  | some d => some (d, descOf s d)
  | none => none

/-! ### Home slots and records (R73, R74, R213) -/

/-- The companion of a row's home slot (R73). -/
def homeComp (d : Nat) (x : Desc) (row : Nat) : Nat :=
  (row % 8) ^^^ ((hashH d (row / 8) 1 x.tseed).toNat % 8)

/-- Bytes of a home slot. -/
def homeSz (x : Desc) : Nat := slotSize x.widest x.cols

/-- The address of a row's home slot (R74). -/
def homeAddr (d : Nat) (x : Desc) (row : Nat) : Nat :=
  tierSBase + homeComp d x row * compSpan + x.homeOff * 4096 + row / 8 * homeSz x

/-- The address of a row's master-and-state record (R213). -/
def recAddr (d : Nat) (x : Desc) (row : Nat) : Nat :=
  tierSBase + homeComp d x row * compSpan + x.stateOff * 4096 + row / 8 * (x.stateSz * 32)

/-- The address of a row in resident copy q (R91). -/
def resAddr (x : Desc) (q row : Nat) : Nat := (x.resBase + q * x.resStride) * 2 ^ 21 + row * homeSz x

/-- The hash of a row in domain 0. -/
def rowHash (d : Nat) (x : Desc) (row : Nat) : Nat := (hashH d row 0 x.tseed).toNat

/-- The owner tile of a row (R184), and the quadrant whose replacement engine serves it (R251). -/
def ownerTile (d : Nat) (x : Desc) (row : Nat) : Nat := rowHash d x row / 2 ^ 36 % 2 ^ 16 * 48 / 2 ^ 16
def ownerQuad (d : Nat) (x : Desc) (row : Nat) : Nat := quadOf (ownerTile d x row)

/-! ### Codebooks and parameters of a descriptor (R30, R55) -/

/-- The codebook number of a class, 0xFFFF for none. -/
def cbNum (x : Desc) (wclass : Nat) : BitVec 16 :=
  if wclass = 1 then x.cb8 else if wclass = 2 then x.cb4 else if wclass = 3 then x.cb2 else 0xFFFF

/-- The codebook of a class. -/
def cbFor (s : State) (x : Desc) (wclass : Nat) : Option Codebook :=
  if cbNum x wclass = 0xFFFF then none else mget? s.tabs.cbs (cbNum x wclass).toNat

/-- The codebook of a slice's class, or an empty one for W16. -/
def cbOrEmpty (c : Option Codebook) : Codebook := c.getD { kind := 0, entries := [] }

/-- The parameters that the Vernier codecs use for a descriptor. TABLE_PARAMS changes the descriptor only once every
companion has applied the change (R232). -/
def codecParams (s : State) (d : Nat) : EncParams :=
  let x := descOf s d
  { c := x.cols, widest := x.widest, cb := cbFor s x,
    qp := fun w => if w = 1 then x.qp8 else if w = 2 then x.qp4 else x.qp2 }

/-! ### Tiles -/

/-- Tile t. -/
def tileOf (s : State) (t : Nat) : Tile := mget s.tiles t Tile.reset
def setTile (s : State) (t : Nat) (x : Tile) : State := { s with tiles := mset s.tiles t x }

/-! ### The tile's codebook cache (R46) -/

/-- Units of 32 bytes that a codebook occupies. -/
def cbUnits (c : Codebook) : Nat := if c.kind = 2 then 16 else 1

/-- Keeps the most recently used codebooks within 2,048 units. -/
def cbTrim : Nat → List (Nat × Nat) → List (Nat × Nat)
  | _, [] => []
  | room, x :: l => if x.2 ≤ room then x :: cbTrim (room - x.2) l else []

/-- A codec of the tile uses a codebook: a miss reads its record through the home slices and counts. -/
def cbTouch (s : State) (t : Nat) (id : Nat) (c : Codebook) : State :=
  let x := tileOf s t
  let keep := (x.cb.filter (fun e => e.1 != id))
  let s1 := if keep.length < x.cb.length then s
    else (readExt (bump1 s (ctrTileCbMiss t)) (cbBase s + 1024 * id) (32 + 2 * cbLen c.kind) 0).1
  setTile s1 t { tileOf s1 t with cb := cbTrim 2048 ((id, cbUnits c) :: keep) }

/-- The decode of a slice uses the codebook of its class, if the table names one. -/
def cbDecode (s : State) (t : Nat) (x : Desc) (sl : List Byte) : State :=
  match cbFor s x (slClass sl) with
  | some c => cbTouch s t (cbNum x (slClass sl)).toNat c
  | none => s

/-! ### The Vernier codec -/

/-- Counts an encode (R51, R57). -/
def countEnc (s : State) (d : Nat) (e : Encoded) : State :=
  bump (bumpIf (bump s (ctrTableEncPromote d) e.retries) e.qerr (ctrTableEncQerrOver d)) (ctrTableEncNonfinite d)
    e.nonfinite

/-- The decoded values of a slice, rounded to BF16 (R50). -/
def sliceValues (sl : List Byte) (cb : Option Codebook) (c : Nat) : List BF16 :=
  (decodeSlice sl (cbOrEmpty cb) c).map (fun x => bf16OfF32 x.f)

/-- An encode uses the codebook of every class that it tries, from the first to the one it writes (R46, R57). -/
def cbEncode (s : State) (t : Nat) (x : Desc) (e : Encoded) : State :=
  (List.range (e.retries + 1)).foldl (fun u i =>
    let w := e.wclass + e.retries - i
    match cbFor u x w with
    | some c => cbTouch u t (cbNum x w).toNat c
    | none => u) s

/-- The Vernier codec encodes values of a row at a class, with the VERSION, STEP and FREEZE given (R34, R46, R49). The
replacement engine's codec is the one of the row's owner tile (log entry 117). -/
def codecEncode (s : State) (d row wclass : Nat) (v : List BF16) (version step : Nat) (freeze : Bool) : State × List Byte :=
  let p := codecParams s d
  let e := encode p wclass v
  (countEnc (cbEncode s (ownerTile d (descOf s d) row) (descOf s d) e) d e, encodedSlice p e version step freeze)

/-- The Vernier codec encodes a slice's decoded values anew (R46, R50): a row's slice at another class. -/
def codecRecode (s : State) (d row wclass : Nat) (sl : List Byte) (version : Nat) : State × List Byte :=
  let x := descOf s d
  codecEncode (cbDecode s (ownerTile d x row) x sl) d row wclass (sliceValues sl (cbFor s x (slClass sl)) x.cols)
    (version % 4096) (slStep sl) (slFreeze sl)

/-- The bytes of a slice that stands in a slot: those of its own class (R31). -/
def cutSlice (x : Desc) (bytes : List Byte) : List Byte := bytes.take (slotSize (slClass bytes) x.cols)

/-! ### Companion messages (R316) -/

/-- Counts a message to a port that is down (R316). -/
def countPort (s : State) (k : Nat) : State := bump1 s (ctrCompCmpDown k)

/-- Companion k. -/
def lyOf (s : State) (k : Nat) : Lyush := mget s.ly k Lyush.reset
def setLy (s : State) (k : Nat) (l : Lyush) : State := { s with ly := mset s.ly k l }

/-- Ports that are down, counted for a load command that would need them all (R316). -/
def downPorts (s : State) : List Nat := (List.range 8).filter (fun k => !portUp s k)
def countDownPorts (s : State) : State := (downPorts s).foldl countPort s

/-- Changes every companion. -/
def allLy (s : State) (f : Nat → Lyush → Lyush) : State :=
  (List.range 8).foldl (fun t k => setLy t k (f k (lyOf t k))) s

end Sys2Proof.Machine
end

