-- ==== Sys2Proof/Machine/UpdateProg.lean ====
section
/-! DEFINITION. Update programs (R221 to R228): their record, their checks, and one row's run. -/

namespace Sys2Proof.Machine

/-! ### Records (R221, R222, R229) -/

/-- The instruction of a word, with the reserved bits of R222. -/
def insOf (w : Nat) : UInstr × Nat :=
  ({ opc := w / 2 ^ 26 % 64, dst := w / 2 ^ 21 % 32, sa := w / 2 ^ 16 % 32, sb := w / 2 ^ 11 % 32, sc := w / 2 ^ 6 % 32 },
    w % 64)

/-- A program from its header and instruction bytes. -/
def progOf (hdr : Nat) (body : List Byte) : Prog :=
  { gfmt := hdr / 2 ^ 14 % 4, nsv := hdr / 2 ^ 16 % 4, divb := hdr / 2 ^ 18 % 4, epsreg := hdr / 2 ^ 20 % 8,
    ins := (List.range (hdr / 2 ^ 8 % 64 + 1)).map (fun i => (insOf (numAt body (4 * i) 4)).1) }

/-- Sources B and C that an opcode uses (R224); every opcode uses A. -/
def usesB (o : Nat) : Bool := [0x01, 0x02, 0x03, 0x04, 0x05, 0x06, 0x0E, 0x0F, 0x12].contains o
def usesC (o : Nat) : Bool := [0x04, 0x0E, 0x0F].contains o

/-- The operand is a vector (R223). -/
def isVec (n : Nat) : Bool := decide (n < 13)

/-- The operand exists for a program with `nsv` state vectors. -/
def opExists (nsv n : Nat) : Bool := n != 13 && !(decide (10 ≤ n) && decide (n ≤ 12) && decide (nsv ≤ n - 10))

/-- The operand may be written (R223). -/
def opWrites (n : Nat) : Bool := decide (n < 8) || (decide (9 ≤ n) && decide (n ≤ 12)) || (decide (24 ≤ n) && decide (n ≤ 29))

/-- The checks of step 5 of R229 for one instruction word. -/
def insOk (nsv w : Nat) : Bool :=
  let i := (insOf w).1
  let srcs := [i.sa] ++ (if usesB i.opc then [i.sb] else []) ++ (if usesC i.opc then [i.sc] else [])
  decide (1 ≤ i.opc) && decide (i.opc ≤ 0x12) && w % 64 == 0 && (usesB i.opc || i.sb == 0) &&
    (usesC i.opc || i.sc == 0) && opWrites i.dst && opExists nsv i.dst && srcs.all (opExists nsv) &&
    (i.opc == 0x11 || isVec i.dst || !srcs.any isVec) &&
    !([0x10, 0x11, 0x12].contains i.opc && isVec i.dst) &&
    !([0x10, 0x12].contains i.opc && srcs.any isVec) && !(i.opc == 0x11 && !isVec i.sa)

/-! ### Operations (R224 to R227) -/

/-- A NaN result is 0x7FC0_0000 (R225). -/
def quiet (x : F32) : F32 := if f32IsNaN x then f32NaN else x

/-- MAX and MIN (R224). -/
def f32Max (a b : F32) : F32 :=
  if f32IsNaN a || f32IsNaN b then f32NaN
  else if f32Cmp a b = 0 then (if a.toNat < 2 ^ 31 then a else b)
  else if f32Cmp a b < 0 then b else a
def f32Min (a b : F32) : F32 :=
  if f32IsNaN a || f32IsNaN b then f32NaN
  else if f32Cmp a b = 0 then (if a.toNat < 2 ^ 31 then b else a)
  else if f32Cmp a b < 0 then a else b

/-- 1.0. -/
def f32One : F32 := 0x3F800000#32

/-- ±0? -/
def f32IsZero (x : F32) : Bool := x.toNat % 2 ^ 31 == 0

/-- Above +0, and no NaN. -/
def f32Pos (x : F32) : Bool := !f32IsNaN x && !f32IsZero x && decide (x.toNat < 2 ^ 31)

/-- POWN (R226): the bits of `n` below the top bit, high to low. -/
def pownGo (a : F32) (n : Nat) : Nat → F32 → F32
  | 0, r => r
  | b + 1, r =>
    let r2 := f32Mul r r
    pownGo a n b (if n.testBit b then f32Mul r2 a else r2)
def f32Pown (a : F32) (n : Nat) : F32 := pownGo a n n.log2 a

/-- One level of the pairwise tree of R161. -/
def pairSum : List F32 → List F32
  | a :: b :: l => f32Add a b :: pairSum l
  | l => l

/-- The five levels over one block of 32 values. -/
def blockSum (l : List F32) : F32 := (iter 5 (fun _ x => pairSum x) l).headD 0

/-- Block sums added in block order from block 0's sum (R161, R226). -/
def treeSum (v : List F32) : F32 :=
  match (chunks 32 v.length v).map blockSum with
  | [] => 0
  | x :: xs => xs.foldl f32Add x

/-- NRM2 (R226). -/
def f32Nrm2 (v : List F32) : F32 := treeSum (v.map (fun x => f32Mul x x))

/-- The operations without special operands. -/
def uArith (opc : Nat) (a b c : F32) : F32 :=
  if opc = 0x01 then f32Add a b
  else if opc = 0x02 then f32Sub a b
  else if opc = 0x03 then f32Mul a b
  else if opc = 0x04 then f32Fma a b c
  else if opc = 0x05 then f32Max a b
  else if opc = 0x06 then f32Min a b
  else if opc = 0x07 then a &&& 0x7FFFFFFF#32
  else if opc = 0x08 then f32Neg a
  else if opc = 0x09 then
    if f32IsNaN a then f32NaN else if f32IsZero a then 0
    else if a.toNat < 2 ^ 31 then f32One else f32Neg f32One
  else if opc = 0x0A then a
  else if opc = 0x0B then (if f32IsZero a then a else f32Sqrt a)
  else if opc = 0x0E then (if f32Pos c then a else b)
  else if opc = 0x0F then f32Min (f32Max a b) c
  else if f32IsZero b then f32One else f32Div a b

/-- A special operand of RCP or RSQ (R227). -/
def uSpecial (opc : Nat) (a : F32) : Bool :=
  f32IsZero a || !f32Finite a || (opc == 0x0D && decide (2 ^ 31 ≤ a.toNat))

/-- RCP or RSQ of any operand by IEEE 754. -/
def uRecip (opc : Nat) (a : F32) : F32 :=
  if opc = 0x0C then f32Div f32One a
  else if f32IsNaN a then f32NaN
  else if f32IsZero a then f32Inf (decide (2 ^ 31 ≤ a.toNat))
  else if 2 ^ 31 ≤ a.toNat then f32NaN
  else if !f32Finite a then 0
  else f32Rsq a

/-- What a special operand did. -/
structure DivSeen where
  hold : Bool
  guard : Bool
  sat : Bool
  deriving DecidableEq, Repr

/-- RCP or RSQ under `DIVB` (R227); a frozen column follows GUARD and counts nothing. -/
def uDiv (g : Prog) (eps : F32) (frozen : Bool) (opc : Nat) (a : F32) : F32 × DivSeen :=
  if !uSpecial opc a then (uRecip opc a, ⟨false, false, false⟩)
  else if frozen then (uRecip opc eps, ⟨false, false, false⟩)
  else if g.divb = 0 then (0, ⟨true, false, false⟩)
  else if g.divb = 1 then (uRecip opc eps, ⟨false, true, false⟩)
  else
    let neg := opc == 0x0C && !f32IsNaN a && decide (2 ^ 31 ≤ a.toNat)
    (if neg then 0xFF7FFFFF#32 else 0x7F7FFFFF#32, ⟨false, false, true⟩)

/-! ### One row -/

/-- The registers of a run: vectors 0 to 12, scalars 14 to 31 at place n - 14. -/
structure URegs where
  vecs : List (List F32)
  scal : List F32
  seen : DivSeen
  deriving DecidableEq, Repr

/-- An operand at a column. -/
def uGet (r : URegs) (n j : Nat) : F32 := if n < 13 then (r.vecs.getD n []).getD j 0 else r.scal.getD (n - 14) 0

/-- Runs one instruction on C columns. -/
def uStep (g : Prog) (c nstep : Nat) (frozen : List Bool) (r : URegs) (i : UInstr) : URegs :=
  let eps := r.scal.getD (2 + g.epsreg) 0
  let one (j : Nat) (fz : Bool) : F32 × DivSeen :=
    if i.opc = 0x0C || i.opc = 0x0D then uDiv g eps fz i.opc (uGet r i.sa j)
    else if i.opc = 0x10 then (f32Pown (uGet r i.sa 0) nstep, ⟨false, false, false⟩)
    else if i.opc = 0x11 then (f32Nrm2 (r.vecs.getD i.sa []), ⟨false, false, false⟩)
    else (uArith i.opc (uGet r i.sa j) (uGet r i.sb j) (uGet r i.sc j), ⟨false, false, false⟩)
  let note (s d : DivSeen) : DivSeen := ⟨s.hold || d.hold, s.guard || d.guard, s.sat || d.sat⟩
  if i.dst < 13 then
    let xs := (List.range c).map (fun j => one j (frozen.getD j false))
    { r with vecs := lset r.vecs i.dst (xs.map (fun x => quiet x.1)), seen := xs.foldl (fun s x => note s x.2) r.seen }
  else
    let x := one 0 false
    { r with scal := lset r.scal (i.dst - 14) (quiet x.1), seen := note r.seen x.2 }

/-- The registers at the start of a row (R223). -/
def uInit (p : PSet) (c nstep ncon : Nat) (grad m : List F32) (us : List (List F32)) : URegs :=
  let z : List F32 := List.replicate c 0
  { vecs := List.replicate 8 z ++ [grad, m] ++ (List.range 3).map (fun i => us.getD i z),
    scal := [f32OfInt nstep 0, f32OfInt ncon 0] ++ p.p ++ List.replicate 6 0 ++ [f32One, 0],
    seen := ⟨false, false, false⟩ }

/-- A program's run over a row: the new master and state vectors, frozen columns restored (R233), what special
operands did, and whether the output check passes (R228). -/
structure URun where
  m : List F32
  us : List (List F32)
  seen : DivSeen
  ok : Bool
  deriving DecidableEq, Repr

def runProg (g : Prog) (p : PSet) (c nstep ncon : Nat) (grad m : List F32) (us : List (List F32)) : URun :=
  let r := g.ins.foldl (uStep g c nstep p.frozen) (uInit p c nstep ncon grad m us)
  let fin (old new : List F32) : List F32 :=
    (List.range c).map (fun j => if p.frozen.getD j false then old.getD j 0 else new.getD j 0)
  let m' := fin m (r.vecs.getD 9 [])
  let us' := us.zipIdx.map (fun x => fin x.1 (r.vecs.getD (10 + x.2) []))
  let good (v : List F32) : Bool := v.zipIdx.all (fun x => p.frozen.getD x.2 false || f32Finite x.1)
  { m := m', us := us', seen := r.seen, ok := good m' && us'.all good }

/-! ### Gradients of a delivery (R193 to R196, R217 step 5) -/

/-- Bytes of a delivery body before padding (R196). -/
def gradBytes (gfmt nblk : Nat) : Nat := if gfmt = 0 then 16 * ((nblk + 15) / 16) + 32 * nblk else 8 * nblk

/-- A scale byte of 0xFF or the reserved sign code (R217 step 1). -/
def gradBad (gfmt nblk : Nat) (body : List Byte) : Bool :=
  if gfmt = 0 then (List.range nblk).any (fun b => numAt body b 1 == 255)
  else (List.range (32 * nblk)).any (fun j => numAt body (j / 4) 1 / 4 ^ (j % 4) % 4 == 2)

/-- The decoded gradient (R217 step 5). -/
def gradDecode (gfmt nblk : Nat) (body : List Byte) : List F32 :=
  (List.range (32 * nblk)).map (fun j =>
    if gfmt = 0 then
      let q := numAt body (16 * ((nblk + 15) / 16) + j) 1
      f32OfInt (if q < 128 then (q : Int) else (q : Int) - 256) ((numAt body (j / 32) 1 : Int) - 133)
    else
      let k := numAt body (j / 4) 1 / 4 ^ (j % 4) % 4
      if k = 1 then f32One else if k = 3 then f32Neg f32One else 0)

/-- Encodes one block for MXINT8 (R194): its scale and elements. -/
def mxBlock (g : List F32) : Nat × List Int :=
  let a := g.foldl (fun (x : F32) y => let y' := y &&& 0x7FFFFFFF#32; if x.toNat < y'.toNat then y' else x) 0
  let e : Nat := match f32Val a with
    | .fin _ m ex => if m = 0 then 0 else (min (max ((m.log2 : Int) + ex + 127) 0) 254).toNat
    | _ => 254
  let q (x : F32) : Int :=
    match f32Val x with
    | .fin neg m ex =>
      -- rne of m × 2^(ex + 133 - E) to an integer
      let sh : Int := ex + 133 - e
      let k : Nat := if 0 ≤ sh then m <<< sh.toNat else rneShift m (-sh).toNat false
      if neg then -((min k 127 : Nat) : Int) else (min k 127 : Nat)
    | _ => 0
  (e, g.map q)

/-- The body of a delivery in a gradient format (R194 to R196). -/
def gradEncode (gfmt : Nat) (g : List F32) : List Byte :=
  let blks := chunks 32 g.length g
  if gfmt = 0 then
    let xs := blks.map mxBlock
    let sc := xs.map (fun x => BitVec.ofNat 8 x.1)
    sc ++ List.replicate (16 * ((blks.length + 15) / 16) - sc.length) 0 ++
      xs.flatMap (fun x => x.2.map (fun q => BitVec.ofInt 8 q))
  else
    blks.flatMap (fun b => packCodes 2 (b.map (fun x => if f32IsZero x then 0 else if x.toNat < 2 ^ 31 then 1 else 3)))

end Sys2Proof.Machine
end

