-- ==== Sys2Proof/Machine/Lyush.lean ====
section
/-! DEFINITION. What a Lyush companion does with the messages of R208: updates, promotion state, re-quantisation
(chapter 7). Each is one access under the row lock (R209, R210). -/

namespace Sys2Proof.Machine

/-! ### Rows as a companion sees them -/

/-- C of a context. -/
def lyCols (c : LyCtx) : Nat := 32 * (c.nblkM1 + 1)

/-- Addresses of a row's home slot and record on companion k (R74, R213). -/
def lyHome (k : Nat) (c : LyCtx) (row : Nat) : Nat :=
  tierSBase + k * compSpan + c.homeOff * 4096 + row / 8 * slotSize c.widest (lyCols c)
def lyRec (k : Nat) (c : LyCtx) (row : Nat) : Nat :=
  tierSBase + k * compSpan + c.stateOff * 4096 + row / 8 * (c.stateSz * 32)

/-- What a read pass brings: the home slot and the record, with poison of any line, and of the first sector. -/
structure LyRow where
  home : List Byte
  homeBad : Bool
  hdrBad : Bool
  mrec : List Byte
  recBad : Bool
  deriving DecidableEq, Repr

/-- The read pass (R217 step 2, R220), past the home slices of its lines (R24, R353). -/
def lyRead (s : State) (k : Nat) (c : LyCtx) (row : Nat) : State × LyRow :=
  let n := slotSize c.widest (lyCols c)
  let s0 := snoopExt (snoopExt s (lyHome k c row) n false) (lyRec k c row) (c.stateSz * 32) false
  let (s1, h, hp) := dReadSecs s0 (lyHome k c row) (n / 32)
  let (s2, r, rp) := dReadSecs s1 (lyRec k c row) c.stateSz
  (s2, { home := h, homeBad := hp.any id, hdrBad := hp.headD false, mrec := r, recBad := rp.any id })

/-- Fields of a record header (R215). -/
def recMvalid (r : List Byte) : Bool := numAt r 0 1 % 2 == 1
def recProm (r : List Byte) : Bool := numAt r 0 1 / 2 % 2 == 1
def recPclass (r : List Byte) : Nat := numAt r 0 1 / 4 % 4
def recPversion (r : List Byte) : Nat := numAt r 0 2 / 16

/-- The eight header bytes of a record. -/
def mkRecHdr (mvalid prom : Bool) (pclass pversion : Nat) : List Byte :=
  toBytes 8 (b2n mvalid + b2n prom * 2 + pclass % 4 * 4 + pversion % 4096 * 16)

/-- FP32 vector i of a record: 0 the master, 1 + i the state vector Ui (R214). -/
def recVec (r : List Byte) (c i : Nat) : List F32 :=
  (List.range c).map (fun j => BitVec.ofNat 32 (numAt r (32 + 4 * c * i + 4 * j) 4))

/-- The bytes of a record. -/
def mkRec (stateSz : Nat) (hdr : List Byte) (vs : List (List F32)) : List Byte :=
  let b := hdr ++ List.replicate 24 0 ++ vs.flatMap (fun v => v.flatMap (fun x => toBytes 4 x.toNat))
  b ++ List.replicate (stateSz * 32 - b.length) 0

/-- Writes bytes of tier S at the companion, line by line; the count bounds the lines. Every line passes its home slice
(R24, R353). -/
def lyWriteGo : Nat → State → Nat → List Byte → State
  | 0, s, _, _ => s
  | n + 1, s, a, l =>
    if l.isEmpty then s else
    let m := 64 - a % 64
    lyWriteGo n (dWrite s a (l.take m) false) (a + m) (l.drop m)
def lyWrite (s : State) (a : Nat) (l : List Byte) : State :=
  lyWriteGo (l.length / 64 + 2) (snoopExt s a l.length true) a l

/-- The codebook of a class in a companion. -/
def lyCb (l : Lyush) (c : LyCtx) (wclass : Nat) : Option Codebook :=
  let n := if wclass = 1 then c.cb8 else if wclass = 2 then c.cb4 else if wclass = 3 then c.cb2 else 0xFFFF
  if n = 0xFFFF then none else mget? l.cbs n.toNat

/-- The encode parameters of a context. -/
def lyParams (l : Lyush) (c : LyCtx) : EncParams :=
  { c := (lyCols c), widest := c.widest, cb := lyCb l c,
    qp := fun w => if w = 1 then c.qp8 else if w = 2 then c.qp4 else c.qp2 }

/-- Re-quantises values at a class (R240): the state with its counts, the class written and the slice. -/
def lyEncode (s : State) (k d : Nat) (c : LyCtx) (wclass : Nat) (v : List BF16) (version step : Nat) (freeze : Bool) :
    State × List Byte :=
  let p := lyParams (lyOf s k) c
  let e := encode p wclass v
  (countEnc s d e, encodedSlice p e version step freeze)

/-- The home slice fails a check of R47 other than the POP check. -/
def lyBadSlice (s : State) (k : Nat) (c : LyCtx) (home : List Byte) : Bool :=
  slPoison home || sliceFmtErr home (lyCols c) c.widest (lyCb (lyOf s k) c)

/-- The values of the home slot's slice (R216). -/
def lyHomeVals (s : State) (k : Nat) (c : LyCtx) (home : List Byte) : List F32 :=
  (decodeSlice home (cbOrEmpty (lyCb (lyOf s k) c (slClass home))) (lyCols c)).map (fun x => x.f)

/-- The header bytes of a slice with another STEP. -/
def withStep (home : List Byte) (step : Nat) : List Byte :=
  toBytes 8 (slHdr home - slStep home * 2 ^ 12 + step % 2 ^ 24 * 2 ^ 12)

/-! ### UPDATE (R217) -/

/-- UPD_ACK of an update (R218). -/
def mkAck (u : UpdMsg) (step : Nat) (result : BitVec 4) : AckMsg :=
  { desc := u.desc, row := u.row, ubatch := u.ubatch, step := step, result := result }

/-- The checks of step 1 of R217: the context, program and parameter set, or the result that ends the update. -/
def lyCheck (l : Lyush) (u : UpdMsg) : Except (BitVec 4) (LyCtx × Prog × PSet) :=
  match mget? l.ctx u.desc with
  | none => .error 7
  | some c =>
    match mget? l.progs c.prog, mget? l.psets c.pset with
    | some g, some p =>
      if u.nblkM1 != c.nblkM1 || u.gfmt.toNat != g.gfmt then .error 7
      else if c.stateSz * 32 < 32 + 4 * (lyCols c) * (1 + g.nsv) then .error 7
      else if gradBad g.gfmt (c.nblkM1 + 1) u.body then .error 7
      else .ok (c, g, p)
    | _, _ => .error 6

/-- What an update did: its acknowledgement, and the COPY of a promoted row. -/
structure UpdDone where
  ack : AckMsg
  copy : Option (List Byte)
  deriving DecidableEq, Repr

/-- Puts a commit on the recent-commit list, 256 at most (R245). -/
def lyRecent (l : Lyush) (x : RowStep) : Lyush :=
  let r := l.recent ++ [x]
  { l with recent := r.drop (r.length - 256) }

/-- Steps 8 and 9 of R217: re-quantisation from M and the write pass. `step` is the STEP to write. A home header that names
a class wider than WIDEST, which no loaded slice does, stands for WIDEST (log entry 119). -/
def lyCommit (s : State) (k d row : Nat) (c : LyCtx) (x : LyRow) (m : List F32) (us : List (List F32)) (step : Nat) :
    State × Option (List Byte) :=
  let prom := recProm x.mrec
  let cls := if prom then recPclass x.mrec else max (slClass x.home) c.widest
  let ver := (if prom then recPversion x.mrec else slVersion x.home) + 1
  let (s1, sl) := lyEncode s k d c cls (m.map bf16OfF32) (ver % 4096) step (slFreeze x.home)
  let hdr := if prom then mkRecHdr true true (slClass sl) ver else mkRecHdr true false (recPclass x.mrec) (recPversion x.mrec)
  let s2 := lyWrite s1 (lyRec k c row) (mkRec c.stateSz hdr (m :: us))
  if prom then (lyWrite s2 (lyHome k c row) (withStep x.home step), some sl)
  else (lyWrite s2 (lyHome k c row) sl, none)

/-- Steps 4 to 10 of R217, after the checks of steps 1 to 3. -/
def lyRun (s : State) (k : Nat) (u : UpdMsg) (c : LyCtx) (g : Prog) (p : PSet) (x : LyRow) : State × UpdDone :=
  let d := u.desc
  let n := (lyCols c)
  let mv := recMvalid x.mrec
  let m := if mv then recVec x.mrec n 0 else lyHomeVals s k c x.home
  let us := (List.range g.nsv).map (fun i => if mv then recVec x.mrec n (1 + i) else List.replicate n 0)
  let old := slStep x.home
  let nstep := min (old + 1) 0xFFFFFF
  let r := runProg g p n nstep u.ncontrib (gradDecode g.gfmt (c.nblkM1 + 1) u.body) m us
  if r.seen.hold then (s, { ack := mkAck u old 2, copy := none })
  else
    let s1 := bumpIf (bumpIf s r.seen.guard (ctrTableLyGuard d)) r.seen.sat (ctrTableLySat d)
    if !r.ok then (s1, { ack := mkAck u old 3, copy := none })
    else
      let s2 := bumpIf s1 (old == 0xFFFFFF) (ctrTableLyStepSat d)
      let (s3, cp) := lyCommit s2 k d u.row c x r.m r.us nstep
      let s4 := setLy s3 k (lyRecent (lyOf s3 k) { desc := d, row := u.row, step := nstep })
      (s4, { ack := mkAck u nstep 0, copy := cp })

/-- One UPDATE on companion k (R217). R217 checks the home slice at step 2 and its POP at step 3, and an unpopulated slot
with MVALID 0 fails both: the model makes the check of R47 only for a populated slot, so that such a row answers UNPOP (log
entry 119). -/
def lyUpdate (s : State) (k : Nat) (u : UpdMsg) : State × UpdDone :=
  match lyCheck (lyOf s k) u with
  | .error e => (s, { ack := mkAck u 0 e, copy := none })
  | .ok (c, g, p) =>
    let (s1, x) := lyRead s k c u.row
    let old := slStep x.home
    if x.homeBad || x.recBad || (!recMvalid x.mrec && slPop x.home && lyBadSlice s1 k c x.home) then
      (s1, { ack := mkAck u old 5, copy := none })
    else if !slPop x.home then (s1, { ack := mkAck u old 4, copy := none })
    else if slFreeze x.home then (s1, { ack := mkAck u old 1, copy := none })
    else lyRun s1 k u c g p x

/-! ### SET_SERVE, RESEED, REQUANT, LEVEL_STEP (R239, R242 to R244) -/

/-- SET_SERVE (R242). A companion without the context discards it (log entry 22). -/
def lySetServe (s : State) (k : Nat) (f : ServeMsg) : State :=
  match mget? (lyOf s k).ctx f.desc with
  | none => s
  | some c =>
    let (s1, x) := lyRead s k c f.row
    let mv := recMvalid x.mrec
    let s2 := lyWrite s1 (lyRec k c f.row) (mkRecHdr mv f.prom f.pclass f.pversion)
    let pop := slPop x.home
    if !f.prom && recProm x.mrec && mv && pop && !x.homeBad && !x.recBad then
      let (s3, sl) := lyEncode s2 k f.desc c f.pclass ((recVec x.mrec (lyCols c) 0).map bf16OfF32)
        ((recPversion x.mrec + 1) % 4096) (slStep x.home) (slFreeze x.home)
      lyWrite s3 (lyHome k c f.row) sl
    else if f.prom && !mv && pop && !x.homeBad && slClass x.home != f.pclass && !lyBadSlice s2 k c x.home then
      let (s3, sl) := lyEncode s2 k f.desc c f.pclass ((lyHomeVals s2 k c x.home).map bf16OfF32)
        (f.pversion % 4096) (slStep x.home) (slFreeze x.home)
      lyWrite s3 (lyHome k c f.row) sl
    else s2

/-- An acknowledgement outside any batch. -/
def rowAck (d row step : Nat) (result : BitVec 4) : AckMsg :=
  { desc := d, row := row, ubatch := 0, step := step, result := result }

/-- RESEED (R243): STEP and FREEZE of a readable, populated header are kept. -/
def lyReseed (s : State) (k d row : Nat) (slice : List Byte) : State × AckMsg :=
  match mget? (lyOf s k).ctx d with
  | none => (s, rowAck d row 0 7)
  | some c =>
    let (s1, x) := lyRead s k c row
    let had := slPop x.home && !x.hdrBad
    let step := if had then slStep x.home else 0
    let freeze := if had then slFreeze x.home else slFreeze slice
    let hdr := mkHdr (slVersion slice) step (slClass slice) (slEsc slice) freeze (slPop slice) (slPoison slice)
      (slQerr slice) (slNblk slice - 1)
    let s2 := lyWrite s1 (lyHome k c row) (hdr ++ slice.drop 8)
    let s3 := lyWrite s2 (lyRec k c row) (mkRecHdr false (recProm x.mrec) (recPclass x.mrec) (recPversion x.mrec))
    (s3, rowAck d row step 8)

/-- REQUANT (R244): no check of POP, which is step 3 of R217. -/
def lyRequant (s : State) (k d row : Nat) : State × UpdDone :=
  match mget? (lyOf s k).ctx d with
  | none => (s, { ack := rowAck d row 0 7, copy := none })
  | some c =>
    let (s1, x) := lyRead s k c row
    let old := slStep x.home
    if x.homeBad || x.recBad then (s1, { ack := rowAck d row old 5, copy := none })
    else if !recMvalid x.mrec then (s1, { ack := rowAck d row old 8, copy := none })
    else
      let nsv := (c.stateSz * 32 - 32) / (4 * (lyCols c)) - 1
      let us := (List.range nsv).map (fun i => recVec x.mrec (lyCols c) (1 + i))
      let (s2, cp) := lyCommit s1 k d row c x (recVec x.mrec (lyCols c) 0) us old
      (s2, { ack := rowAck d row old 8, copy := cp })

/-- LEVEL_STEP (R239). -/
def lyLevel (s : State) (k d row target : Nat) : State × AckMsg :=
  match mget? (lyOf s k).ctx d with
  | none => (s, rowAck d row 0 7)
  | some c =>
    let (s1, h, p) := dReadSecs (snoopExt s (lyHome k c row) 32 false) (lyHome k c row) 1
    if p.any id then (s1, rowAck d row 0 5)
    else
      let n := max (slStep h) (target % 2 ^ 24)
      (lyWrite s1 (lyHome k c row) (withStep h n), rowAck d row n 8)

/-! ### Pending changes (R232) -/

/-- A batch is open for a descriptor. -/
def lyOpenDesc (l : Lyush) (d : Nat) : Bool := l.batches.any (fun b => b.1 == d)

/-- A batch is open for a descriptor that uses a parameter set. -/
def lyOpenPset (l : Lyush) (id : Nat) : Bool :=
  l.batches.any (fun b => (mget? l.ctx b.1).any (fun c => c.pset == id))

/-- Applies every pending change that no open batch holds any more. -/
def lyApplyPending (l : Lyush) : Lyush :=
  let (hs, rs) := l.pendPset.partition (fun x => lyOpenPset l x.1)
  let l1 := rs.foldl (fun (m : Lyush) x => { m with psets := mset m.psets x.1 x.2 }) { l with pendPset := hs }
  let (hc, rc) := l1.pendCtx.partition (fun x => lyOpenDesc l1 x.1)
  rc.foldl (fun (m : Lyush) x => { m with ctx := mset m.ctx x.1 x.2 }) { l1 with pendCtx := hc }

/-- LOAD_CTX: a change of the parameters waits for open batches (R232). -/
def lyLoadCtx (l : Lyush) (d : Nat) (c : LyCtx) : Lyush :=
  match mget? l.ctx d with
  | some o =>
    if (o.qp8 != c.qp8 || o.qp4 != c.qp4 || o.qp2 != c.qp2 || o.pset != c.pset) && lyOpenDesc l d then
      { l with pendCtx := l.pendCtx.filter (fun x => x.1 != d) ++ [(d, c)] }
    else { l with ctx := mset l.ctx d c, pendCtx := l.pendCtx.filter (fun x => x.1 != d) }
  | none => { l with ctx := mset l.ctx d c }

/-- LOAD_PSET: pending while a batch uses the set (R232). -/
def lyLoadPset (l : Lyush) (id : Nat) (p : PSet) : Lyush :=
  if lyOpenPset l id then { l with pendPset := l.pendPset.filter (fun x => x.1 != id) ++ [(id, p)] }
  else { l with psets := mset l.psets id p, pendPset := l.pendPset.filter (fun x => x.1 != id) }

/-- The context of a descriptor (R207). -/
def ctxOfDesc (x : Desc) : LyCtx :=
  { widest := x.widest, nblkM1 := x.nblkM1, qp8 := x.qp8, qp4 := x.qp4, qp2 := x.qp2, prog := x.prog, pset := x.pset,
    homeOff := x.homeOff, stateOff := x.stateOff, stateSz := x.stateSz, cb8 := x.cb8, cb4 := x.cb4, cb2 := x.cb2 }

/-! ### Messages from the block, with the outcomes of R316 while the port is down -/

/-- An access to a row waits while an UPDATE that arrived before it is ahead in the companion's queue (R209, R210, R247);
noted in `need`, see `settleIn`. -/
def rowGate (s : State) (k d row : Nat) : State :=
  if (lyOf s k).updq.any (fun u => u.desc == d && u.row == row) then
    { s with rc := { s.rc with need := s.rc.need ++ [rowMark k] } }
  else s

/-- A row's companion, and the state at its turn on the row. -/
def rowTurn (s : State) (d row : Nat) : State := rowGate s (homeComp d (descOf s d) row) d row

/-- The counter of a result (R219, R249). -/
def resultCtr (d : Nat) (r : BitVec 4) : Nat :=
  if r = 0 then ctrTableLyCommit d
  else if r = 1 then ctrTableLyFrozen d
  else if r = 2 then ctrTableLyHold d
  else if r = 3 then ctrTableLyNonfinite d
  else if r = 4 then ctrTableLyUnpop d
  else if r = 7 then ctrTableLyFormat d
  else ctrTableLyPoison d

/-- The acknowledgement of RESEED, REQUANT or LEVEL_STEP reaches the block: APPLIED counts nowhere, and none concerns a
SCATTER (R219). -/
def ackRow (s : State) (a : AckMsg) : State := if a.result = 8 then s else bump1 s (resultCtr a.desc a.result)

/-- SET_SERVE to a row's companion. -/
def sendServe (s : State) (d row : Nat) (prom : Bool) (cls ver : Nat) : State :=
  let k := homeComp d (descOf s d) row
  if portUp s k then lySetServe (rowGate s k d row) k { desc := d, row := row, prom := prom, pclass := cls, pversion := ver }
  else countPort s k

/-- RESEED to a row's companion: its result; on a port that is down only CMP_DOWN counts (R316). -/
def sendReseed (s : State) (d row : Nat) (slice : List Byte) : State × AckMsg :=
  let k := homeComp d (descOf s d) row
  if portUp s k then
    let (t, a) := lyReseed (rowGate s k d row) k d row slice
    (ackRow t a, a)
  else (countPort s k, rowAck d row 0 5)

/-- REQUANT to a row's companion. -/
def sendRequant (s : State) (d row : Nat) : State × UpdDone :=
  let k := homeComp d (descOf s d) row
  if portUp s k then
    let (t, r) := lyRequant (rowGate s k d row) k d row
    (ackRow t r.ack, r)
  else (countPort s k, { ack := rowAck d row 0 5, copy := none })

/-- LEVEL_STEP to a row's companion. -/
def sendLevel (s : State) (d row target : Nat) : State × AckMsg :=
  let k := homeComp d (descOf s d) row
  if portUp s k then
    let (t, a) := lyLevel (rowGate s k d row) k d row target
    (ackRow t a, a)
  else (countPort s k, rowAck d row 0 5)

/-- A slot read of a row's home slot: the slice's bytes, poison (R211). -/
def readHome (s : State) (d row : Nat) : State × List Byte × Bool :=
  let x := descOf s d
  readSlot (rowTurn s d row) (homeAddr d x row) (homeSz x)

/-- A read of a row's home header under the row lock (R210, R211): the first sector, poison. -/
def readHdr (s : State) (d row : Nat) : State × List Byte × Bool :=
  readSlot (rowTurn s d row) (homeAddr d (descOf s d) row) 32

/-- A read of the first `n` sectors of a row's record under the row lock (R210): bytes, poison marks. -/
def readRec (s : State) (d row n : Nat) : State × List Byte × List Bool :=
  let a := recAddr d (descOf s d) row
  dReadSecs (snoopExt (rowTurn s d row) a (32 * n) false) a n

end Sys2Proof.Machine
end

