-- ==== Sys2Proof/Machine/Almanac.lean ====
section
/-! DEFINITION. The Almanac, the slot pool and the replacement engines' operations (R77 to R86, R250 to R270). -/

namespace Sys2Proof.Machine

/-! ### Entries and probes -/

/-- An Almanac entry (R78). -/
structure AEnt where
  row : Nat
  desc : Nat
  state : Nat
  wclass : Nat
  version : Nat
  slot : Nat
  keep : Bool
  epoch : Nat
  deriving DecidableEq, Repr

def AEnt.ofNat (n : Nat) : AEnt :=
  { row := n % 2 ^ 40, desc := n / 2 ^ 40 % 2 ^ 12, state := n / 2 ^ 52 % 4, wclass := n / 2 ^ 54 % 4,
    version := n / 2 ^ 56 % 4096, slot := n / 2 ^ 68 % 2 ^ 34, keep := n.testBit 102, epoch := n / 2 ^ 104 % 256 }

/-- The 16 bytes of an entry. -/
def AEnt.bytes (e : AEnt) : List Byte :=
  toBytes 16 (e.row % 2 ^ 40 + e.desc % 4096 * 2 ^ 40 + e.state % 4 * 2 ^ 52 + e.wclass % 4 * 2 ^ 54 +
    e.version % 4096 * 2 ^ 56 + e.slot % 2 ^ 34 * 2 ^ 68 + b2n e.keep * 2 ^ 102 + e.epoch % 256 * 2 ^ 104)

/-- The four entries of a bucket line. -/
def bucketEnts (line : List Byte) : List AEnt := (List.range 4).map (fun i => AEnt.ofNat (numAt line (16 * i) 16))

/-- Buckets of the Almanac, and the i-th bucket of a row's probe sequence (R81). -/
def almNb (s : State) : Nat := 2 ^ (layoutOf s).l
def almBucket (s : State) (d row i : Nat) : Nat := (rowHash d (descOf s d) row % almNb s + i) % almNb s
def bucketAddr (s : State) (b : Nat) : Nat := almBase s + b * 64

/-- Where an entry stands: bucket and place. -/
structure APlace where
  bucket : Nat
  idx : Nat
  ent : AEnt
  deriving DecidableEq, Repr

/-- The entry maps a row. -/
def AEnt.maps (e : AEnt) (d row : Nat) : Bool := e.state == 1 && e.desc == d && e.row == row

/-- Reads the probe sequence from bucket i on, `k` buckets more (R81, R86). -/
def probeGo (d row : Nat) : Nat → Nat → State → State × Option APlace
  | 0, _, s => (s, none)
  | k + 1, i, s =>
    let b := almBucket s d row i
    let (s1, line, bad) := readLine s (bucketAddr s b / 64) 0
    if bad then probeGo d row k (i + 1) (bump1 s1 ctrChipAlmPoison)
    else
      let es := bucketEnts line
      let s2 := bump s1 ctrChipAlmFmtErr ((es.filter (fun e => e.state == 3)).length)
      match es.zipIdx.find? (fun x => x.1.maps d row) with
      | some x => (s2, some { bucket := b, idx := x.2, ent := x.1 })
      | none => if es.any (fun e => e.state == 0) then (s2, none) else probeGo d row k (i + 1) s2

/-- A probe for a row (R81). -/
def probe (s : State) (d row : Nat) : State × Option APlace := probeGo d row 4 0 s

/-- Writes an entry in one masked write of 16 bytes (R83, R86). -/
def writeEnt (s : State) (b i : Nat) (e : AEnt) : State := writeExt s (bucketAddr s b + 16 * i) e.bytes 0 false

/-- The first EMPTY or TOMBSTONE place of a probe sequence, poisoned buckets passed over (R84, R86). -/
def insertGo (d row : Nat) : Nat → Nat → State → State × Option (Nat × Nat)
  | 0, _, s => (s, none)
  | k + 1, i, s =>
    let b := almBucket s d row i
    let (s1, line, bad) := readLine s (bucketAddr s b / 64) 0
    if bad then insertGo d row k (i + 1) s1
    else
      match (bucketEnts line).zipIdx.find? (fun x => x.1.state == 0 || x.1.state == 2) with
      | some x => (s1, some (b, x.2))
      | none => insertGo d row k (i + 1) s1

/-- One more VALID entry stays within the fill limit (R85). -/
def fillOk (s : State) : Bool := decide ((s.alm.count + 1) * 256 ≤ s.load.mig.almFill * (4 * almNb s))

/-! ### The slot pool (R250, R254) -/

/-- Bytes a slot takes of the pool: whole lines, since slots of 64 bytes or more are 64-byte aligned. -/
def poolSize (sz : Nat) : Nat := roundUp sz 64

/-- Every slot size of R31, in rising order. -/
def slotSizes : List Nat :=
  ((List.range 32).flatMap (fun n => (List.range 4).map (fun w => slotSize w (32 * (n + 1))))).foldl sins []

/-- Cuts the rest of a quadrant's part of the pool into slots of the sizes given: those of one size lie one after another,
as many as Meridian chooses and as fit (R250; log entry 23). -/
def poolCutGo (q : Nat) : List Nat → Nat → Nat → FMap (Nat × Nat) → FMap (Nat × Nat)
  | [], _, _, m => m
  | sz :: l, a, room, m =>
    let n := min (Config.poolShare q sz) (room / poolSize sz)
    poolCutGo q l (a + n * poolSize sz) (room - n * poolSize sz) (mset m (q * 128 + sz / 32) (a, n))

/-- The pool's division, made once at bring-up (R250). -/
def cutPool (s : State) : State :=
  let len := (layoutOf s).pool / 4
  { s with alm := { s.alm with
    cut := (List.range 4).foldl (fun m q => poolCutGo q slotSizes (poolBase s + q * len) len m) [] } }

/-- An extent of the pool is free. -/
def slotFree (s : State) (a n : Nat) : Bool := !s.alm.used.any (fun u => overlap a n u.1 u.2)

/-- The first free slot that satisfies a test among `k` slots of `n` bytes from `a` on. -/
def slotScan (s : State) (n : Nat) (ok : Nat → Bool) : Nat → Nat → Option Nat
  | 0, _ => none
  | k + 1, a => if slotFree s a n && ok a then some a else slotScan s n ok k (a + n)

/-- The lowest slot of a quadrant's free list for a size that satisfies a test (log entry 23). -/
def allocIn (s : State) (q sz : Nat) (ok : Nat → Bool) : Option Nat :=
  let c := mget s.alm.cut (q * 128 + sz / 32) (0, 0)
  slotScan s (poolSize sz) ok c.2 c.1

/-- A free slot from the engine's quadrant list, or else another's (R254). -/
def allocSlot (s : State) (q sz : Nat) : Option Nat :=
  [q, (q + 1) % 4, (q + 2) % 4, (q + 3) % 4].findSome? (fun r => allocIn s r sz (fun _ => true))

/-- A free slot whose first granule lies on a pseudo-channel (R268, MOVE). -/
def allocOn (s : State) (q sz pch : Nat) : Option Nat :=
  [q, (q + 1) % 4, (q + 2) % 4, (q + 3) % 4].findSome? (fun r => allocIn s r sz (fun a => pchOf s a == pch))

/-! ### Journal and retire lists (R252, R253) -/

/-- Journal records of an engine, in the share of commit installs or the other. -/
def journalUse (s : State) (q : Nat) (commit : Bool) : Nat :=
  (s.alm.journal.filter (fun j => j.quad == q && j.commit == commit)).length

/-- A record of the share is free (R252). -/
def journalRoom (s : State) (q : Nat) (commit : Bool) : Bool :=
  decide (journalUse s q commit < if commit then 64 else 4032)

/-- A stage as a number of its record. -/
def Stage.num : Stage → Nat
  | .alloc => 0
  | .written => 1
  | .flipped => 2
  | .retired => 3

/-- Writes a record to the engine's journal in tier F (R252, R598). -/
def journalWrite (s : State) (j : JRec) : State :=
  writeExt s (fixedBase + 0x10000000 + j.quad * 0x40000 + j.idx * 64)
    (Config.journalRecord [j.desc, j.row, j.shadow, j.old.getD 0, j.stage.num, j.epoch]) 0 false

/-- The record of an engine at a place. -/
def JRec.at' (j : JRec) (q i : Nat) : Bool := j.quad == q && j.idx == i

/-- An operation on a row takes a record of its engine, in stage ALLOC (R252): its place. -/
def journalTake (s : State) (d row shadow : Nat) (old : Option Nat) (commit : Bool) : State × Nat :=
  let q := ownerQuad d (descOf s d) row
  let i := (lowestFree ((s.alm.journal.filter (fun j => j.quad == q)).map (fun j => j.idx)) 4096).getD 0
  let j : JRec := { quad := q, idx := i, desc := d, row := row, shadow := shadow, old := old, stage := .alloc,
                    epoch := s.alm.epoch.toNat, commit := commit }
  (journalWrite { s with alm := { s.alm with journal := s.alm.journal ++ [j] } } j, i)

/-- The record goes to its next stage. -/
def journalStage (s : State) (q i : Nat) (st : Stage) : State :=
  let s1 := { s with alm := { s.alm with
    journal := s.alm.journal.map (fun j => if j.at' q i then { j with stage := st, epoch := s.alm.epoch.toNat } else j) } }
  match s1.alm.journal.find? (fun j => j.at' q i) with
  | some j => journalWrite s1 j
  | none => s1

/-- The record of an operation that retires no slot is free at the operation's end. -/
def journalFree (s : State) (q i : Nat) : State :=
  { s with alm := { s.alm with journal := s.alm.journal.filter (fun j => !j.at' q i) } }

/-- The slot that the old entry named goes on the current epoch's retire list; stage RETIRED (R253 step 4). -/
def retireSlot (s : State) (d old sz q i : Nat) : State :=
  journalStage { s with alm := { s.alm with
    retire := s.alm.retire ++ [{ addr := old, size := poolSize sz, epoch := s.alm.epoch.toNat, desc := d }] } } q i .retired

/-- Gives a slot back. -/
def freeSlot (s : State) (a : Nat) : State :=
  { s with alm := { s.alm with used := s.alm.used.filter (fun u => u.1 != a) } }

/-! ### Install (R253 to R255) -/

/-- How an install ended. -/
inductive InstallEnd where
  | ok | poolEmpty | refused
  deriving DecidableEq, Repr

/-- The insertion is refused: the shadow slot is free at once, and so is the journal record (R252, R255, R270). -/
def flipRefused (s : State) (a q i : Nat) : State × InstallEnd :=
  (journalFree (freeSlot (bump1 s ctrChipAlmFull) a) q i, .refused)

/-- The shadow slot has been written: the flip, and what follows from it (R253 steps 3 and 4), under record i of engine
q. -/
def flip (s : State) (found : Option APlace) (d row a : Nat) (slice : List Byte) (keep : Option Bool) (q i : Nat) :
    State × InstallEnd :=
  let c := (descOf s d).cols
  let e : AEnt := { row := row, desc := d, state := 1, wclass := slClass slice, version := slVersion slice,
                    slot := a / 32, keep := keep.getD false, epoch := s.alm.epoch.toNat % 256 }
  match found with
  | some p =>
    let s1 := journalStage (writeEnt s p.bucket p.idx { e with keep := keep.getD p.ent.keep }) q i .flipped
    (retireSlot s1 d (p.ent.slot * 32) (slotSize p.ent.wclass c) q i, .ok)
  | none =>
    if !fillOk s then flipRefused s a q i
    else
      match insertGo d row 4 0 s with
      | (s1, some (b, n)) =>
        let s2 := journalStage (writeEnt s1 b n e) q i .flipped
        (journalFree { s2 with alm := { s2.alm with count := s2.alm.count + 1 } } q i, .ok)
      | (s1, none) => flipRefused s1 a q i

/-- Installs a slice for a row in a slot of the pool, or in one on the given pseudo-channel (R252, R253). -/
def installSlice (s : State) (d row : Nat) (slice : List Byte) (keep : Option Bool) (commit : Bool) (pch : Option Nat) :
    State × InstallEnd :=
  let x := descOf s d
  let q := ownerQuad d x row
  let sz := slotSize (slClass slice) x.cols
  let (s1, found) := probe s d row
  let slot := match pch with
    | some p => allocOn s1 q sz p
    | none => allocSlot s1 q sz
  match slot with
  | none => (bump1 s1 ctrChipPoolEmpty, .poolEmpty)
  | some a =>
    let s2 := { s1 with alm := { s1.alm with used := s1.alm.used ++ [(a, poolSize sz)] } }
    let (s3, i) := journalTake s2 d row a (found.map (fun p => p.ent.slot * 32)) commit
    let b := bytesAt slice 0 sz
    let s4 := writeExt s3 a (b ++ List.replicate (poolSize sz - sz) 0) 0 false
    flip (journalStage s4 q i .written) found d row a slice keep q i

/-! ### Row operations (R268 to R270) -/

/-- The bytes of a promoted copy, and poison. -/
def readCopy (s : State) (d : Nat) (e : AEnt) : State × List Byte × Bool :=
  let (s1, b, p) := readExt s (e.slot * 32) (slotSize e.wclass (descOf s d).cols) (if e.keep then 2 else 0)
  (s1, b, p.any id)

/-- The master of a row is valid, as its record's header says; a poisoned or lost record counts as none. -/
def rowMvalid (s : State) (d row : Nat) : State × Bool :=
  let (s1, b, p) := readRec s d row 1
  (s1, recMvalid b && !p.any id)

/-- The slice may be re-encoded: it is readable and passes R47. -/
def sliceGood (s : State) (x : Desc) (sl : List Byte) (bad : Bool) : Bool :=
  !bad && slPop sl && !slPoison sl && !sliceFmtErr sl x.cols x.widest (cbFor s x)

/-- Writes an entry TOMBSTONE and retires its slot, under a journal record (R252, R268, R281). -/
def tombstone (s : State) (p : APlace) (commit : Bool) : State :=
  let d := p.ent.desc
  let q := ownerQuad d (descOf s d) p.ent.row
  let (s0, i) := journalTake s d p.ent.row 0 (some (p.ent.slot * 32)) commit
  let s1 := journalStage (writeEnt s0 p.bucket p.idx { p.ent with state := 2 }) q i .flipped
  let s2 := retireSlot s1 d (p.ent.slot * 32) (slotSize p.ent.wclass (descOf s d).cols) q i
  { s2 with alm := { s2.alm with count := s2.alm.count - 1 } }

/-- DEMOTE to a target class (R242, R268, R269). A row without an entry is not promoted: nothing happens. -/
def demoteRow (s : State) (d row cls : Nat) (commit : Bool) : State :=
  match probe s d row with
  | (s1, none) => s1
  | (s1, some p) =>
    let x := descOf s1 d
    let (s2, mv) := rowMvalid s1 d row
    let s3 := sendServe s2 d row false cls p.ent.version
    let (s4, h, bad) := readHome s3 d row
    let s5 := if !mv && slClass h != cls && sliceGood s4 x h bad then
        let (t, sl) := codecRecode s4 d row cls h (p.ent.version + 1)
        (readHome (sendReseed t d row sl).1 d row).1
      else s4
    tombstone s5 p commit

/-- PROMOTE in a target class (R268, R270): how the install ended, none for a home slice that cannot be read. -/
def promoteRow (s : State) (d row cls : Nat) (keep : Bool) : State × Option InstallEnd :=
  let x := descOf s d
  let (s1, h, bad) := readHome s d row
  if !sliceGood s1 x h bad then (s1, none)
  else
    let home := cutSlice x h
    let (s2, sl) := if slClass h = cls then (s1, home) else codecRecode s1 d row cls h (slVersion h + 1)
    let s3 := sendServe s2 d row true (slClass sl) (slVersion sl)
    match installSlice s3 d row sl (some keep) false none with
    | (s4, .ok) => (s4, some .ok)
    | (s4, e) =>
      -- the home slot's class now: the SET_SERVE above may have re-encoded it (R242, R270)
      let (s5, g, bad') := readHome s4 d row
      (sendServe s5 d row false (slClass (if bad' then h else g)) (slVersion sl), some e)

/-- Installs a COPY; a failed install demotes the row (R254, R255). -/
def installCopy (s : State) (d row : Nat) (sl : List Byte) (commit : Bool) : State :=
  match installSlice s d row sl none commit none with
  | (s1, .ok) => s1
  | (s1, _) => demoteRow s1 d row (slClass sl) commit

/-- MOVE to another pseudo-channel (R268): nothing moves when the slot lies on the one given. -/
def moveRow (s : State) (d row pch : Nat) : State :=
  match probe s d row with
  | (s1, none) => s1
  | (s1, some p) =>
    let (s2, b, bad) := readCopy s1 d p.ent
    if bad || pchOf s1 (p.ent.slot * 32) == pch then s2 else (installSlice s2 d row b none false (some pch)).1

/-- RECLASS to a class (R268). -/
def reclassRow (s : State) (d row cls : Nat) : State :=
  match probe s d row with
  | (s1, none) => s1
  | (s1, some p) =>
    let x := descOf s1 d
    let (s2, mv) := rowMvalid s1 d row
    if mv then
      let (s3, r) := sendRequant (sendServe s2 d row true cls p.ent.version) d row
      match r.copy with
      | some sl => installCopy s3 d row sl false
      | none => s3
    else
      let (s3, b, bad) := readCopy s2 d p.ent
      if !sliceGood s3 x b bad then s3
      else
        let (s4, sl) := codecRecode s3 d row cls b (slVersion b + 1)
        match installSlice s4 d row sl none false none with
        | (s5, .ok) => sendServe s5 d row true (slClass sl) (slVersion sl)
        | (s5, _) => s5

/-- PIN (R268). -/
def pinRow (s : State) (d row : Nat) (keep : Bool) : State :=
  match probe s d row with
  | (s1, none) => s1
  | (s1, some p) =>
    let q := ownerQuad d (descOf s1 d) row
    let (s2, i) := journalTake s1 d row 0 none false
    let s3 := writeEnt s2 p.bucket p.idx { p.ent with keep := keep, epoch := s1.alm.epoch.toNat % 256 }
    journalFree (journalStage s3 q i .flipped) q i

/-! ### Gates (R251, R267) -/

/-- A SCATTER on the descriptor is in its delivery or commit phase (R178, R199). -/
def scatterBusy (s : State) (d : Nat) : Bool := s.sc.jobs.any (fun j => j.desc == d && j.ubatch.isSome && !j.reported)

/-- A row operation on the descriptor may start now: TABLE_PARAMS holds none (R232), and no SCATTER on the
descriptor delivers (R267). -/
def rowOpFree (s : State) (d : Nat) : Bool := !lDesc s d && !scatterBusy s d

end Sys2Proof.Machine
end

