-- ==== Sys2Proof/Machine/Tables.lean ====
section
/-! DEFINITION. Command group 1: tables, codebooks, update programs and split groups (R506, with chapters 2, 3 and 7). -/

namespace Sys2Proof.Machine

/-! ### Checks shared by the group -/

/-- A descriptor that is not FREE uses a codebook number (R45), or a program number (R230). -/
def cbUsed (s : State) (id : Nat) : Bool :=
  s.tabs.descs.any (fun e => e.2.dstate != 0 && (e.2.cb8.toNat == id || e.2.cb4.toNat == id || e.2.cb2.toNat == id))
def progUsed (s : State) (id : Nat) : Bool := s.tabs.descs.any (fun e => e.2.dstate != 0 && e.2.prog == id)

/-- A load command that needs all eight companions: PEER_FAILED while a port is down (R316). -/
def withPeers (s : State) (k : State → MbOut) : MbOut :=
  if (downPorts s).isEmpty then k s else .done (countDownPorts s) rcPeer []

/-! ### LOAD_CODEBOOK (R44, R45) -/

/-- The header of a codebook record passes check 2 of R44. -/
def cbHdrOk (h : List Byte) : Bool :=
  numAt h 0 4 / 1024 % 4 != 3 && decide (numAt h 0 4 < 4096) && (h.drop 8).all (fun b => b == 0)

/-- The codebook under its number: stored in its place of the region, in the companions, and no longer cached as it
was (R45, R46, R595). -/
def storeCb (s : State) (id : Nat) (c : Codebook) : State :=
  let s1 := { s with tabs := { s.tabs with cbs := mset s.tabs.cbs id c },
                     tiles := mmap s.tiles (fun _ t => { t with cb := t.cb.filter (fun x => x.1 != id) }) }
  let s2 := writeExt s1 (cbBase s1 + 1024 * id) (cbRecord id c) 0 false
  allLy s2 (fun _ l => { l with cbs := mset l.cbs id c })

/-- Checks 4 to 6 of R44 on the entry bytes: the codebook, or the code that ends the command. -/
def cbCheck (s : State) (h ent : List Byte) : Except Nat (Nat × Codebook) :=
  let id := numAt h 0 4 % 1024
  let c := cbOfBytes (numAt h 0 4 / 1024 % 4) ent
  if crc32 ent != numAt h 4 4 then .error rcCrc
  else if !cbOk c then .error rcFormat
  else if cbUsed s id && mget? s.tabs.cbs id != some c then .error rcInUse
  else .ok (id, c)

def rowLoadCodebook : MbRow :=
  { opc := 0x10, cls := .S, group := 1, lo := 1, hi := 3, used := [mask 0 52], mgmtOnly := false }

/-- LOAD_CODEBOOK (R44). -/
def bodyLoadCodebook (s : State) (c : MbCtx) : MbOut :=
  withBuf s c (c.p 0) 32 (fun s1 h =>
    if !cbHdrOk h then .done s1 rcFormat [] else
    withBuf s1 c (c.p 0 + 32) (2 * cbLen (numAt h 0 4 / 1024 % 4)) (fun s2 ent =>
      match cbCheck s2 h ent with
      | .error e => .done s2 e []
      | .ok (id, cb) =>
        if mget? s2.tabs.cbs id = some cb then .done s2 rcOk []
        else withPeers s2 (fun t => .done (storeCb t id cb) rcOk [])))

/-- LOAD_CODEBOOK. -/
def execLoadCodebook (m : MbWrite) (s : State) : Host.Outcome State Fault Refusal :=
  mbox rowLoadCodebook bodyLoadCodebook m s

/-! ### DEFINE_TABLE (R71, R506) -/

/-- The descriptor of an image with the TVER given. -/
def descOfBytes (l : List Byte) (tver : Nat) : Desc :=
  let w (i : Nat) : W64 := BitVec.ofNat 64 (numAt l (8 * i) 8)
  { table := fld (w 0) 0 12, widest := fld (w 0) 12 2, log2s := fld (w 0) 14 3, rank := fld (w 0) 17 6,
    group := fld (w 0) 23 6, nblkM1 := fld (w 0) 29 5, gsize := fld (w 0) 34 2, resident := bit (w 0) 36,
    dstate := 1, rows := fld (w 1) 0 40, tver := BitVec.ofNat 16 tver,
    cb8 := BitVec.ofNat 16 (fld (w 2) 0 16), cb4 := BitVec.ofNat 16 (fld (w 2) 16 16),
    cb2 := BitVec.ofNat 16 (fld (w 2) 32 16),
    qp8 := BitVec.ofNat 27 (fld (w 3) 0 27), qp4 := BitVec.ofNat 27 (fld (w 3) 27 27),
    qp2 := BitVec.ofNat 27 (fld (w 4) 0 27), prog := fld (w 4) 32 8, pset := fld (w 4) 40 8, tseed := w 5,
    homeOff := fld (w 6) 0 26, stateOff := fld (w 6) 26 26, stateSz := fld (w 7) 0 12,
    resBase := fld (w 8) 0 18, resStride := fld (w 8) 18 18 }

/-- A codebook field value is reserved (R71). -/
def cbFieldBad (n : BitVec 16) : Bool := decide (0x400 ≤ n.toNat) && n != 0xFFFF

/-- A reserved value or a non-zero reserved field in a descriptor image (R71). -/
def descReserved (l : List Byte) (x : Desc) : Bool :=
  let z (i lo n : Nat) : Bool := fld (BitVec.ofNat 64 (numAt l (8 * i) 8)) lo n != 0
  z 0 37 1 || z 0 40 24 || z 1 56 8 || z 2 48 16 || z 3 54 10 || z 4 27 5 || z 4 48 16 || z 6 52 12 || z 7 12 52 ||
    z 8 36 28 || (l.drop 72).any (fun b => b != 0) || x.log2s == 7 || x.gsize == 3 || x.rows == 0 ||
    decide (2 ^ x.log2s ≤ x.rank) || cbFieldBad x.cb8 || cbFieldBad x.cb4 || cbFieldBad x.cb2

/-- The classes that a descriptor's codebooks serve. -/
def cbClasses : List Nat := [1, 2, 3]

/-- A resident copy breaks R91 or R302. -/
def residentBad (s : State) (x : Desc) : Bool :=
  let a := x.resBase * 2 ^ 21
  let n := x.rows * homeSz x
  x.resident && (decide (2 ^ 26 < n) || !inTierF a n || (stripeOf s (a / 0x30000000)).mode != 1 ||
    decide (0xC000000 < a % 0x30000000 + n) || x.resStride != 96)

/-- A range entry covers part of a device extent (R71, R358). -/
def rangeCovers (s : State) (a n : Nat) : Bool :=
  s.xlt.ranges.any (fun e => !e.2.host && overlap a n (e.2.pbase * 65536) (e.2.length * 65536))

/-- The home or state area of a descriptor collides with what R71 names. -/
def areaClash (s : State) (x : Desc) : Bool :=
  (List.range 8).any (fun k =>
    [(x.homeOff, homeBytes x), (x.stateOff, stateBytes x)].any (fun e =>
      let a := tierSBase + k * compSpan + e.1 * 4096
      inHomeState s a e.2 || inBringup a e.2 || rangeCovers s a e.2))

/-- The refusals of R71, the first in the table's order. -/
def descRefuse (s : State) (l : List Byte) (x : Desc) : Option Nat :=
  let named := cbClasses.filter (fun w => cbNum x w != 0xFFFF)
  if descReserved l x then some rcInvalid
  else if named.any (fun w => (cbFor s x w).isNone) then some rcNotFound
  else if named.any (fun w => (cbFor s x w).any (fun c => c.kind != cbKindOf w)) then some rcInvalid
  else if cbClasses.any (fun w => decide (x.widest ≤ w) && cbNum x w == 0xFFFF) then some rcInvalid
  else match mget? s.tabs.groups x.group with
    | none => some rcNotFound
    | some g =>
      if g.log2s != x.log2s then some rcInvalid
      else if decide (compSpan < x.homeOff * 4096 + homeBytes x) || decide (compSpan < x.stateOff * 4096 + stateBytes x) then
        some rcInvalid
      else if residentBad s x then some rcInvalid
      else if areaClash s x then some rcInUse
      else none

/-- Clears the areas of a new descriptor: the home and state areas, and the resident copies, whose rows load as
unpopulated (R62, R506). -/
def clearAreas (s : State) (x : Desc) : State :=
  let s1 := (List.range 8).foldl (fun t k =>
    let b := tierSBase + k * compSpan
    zeroExt (zeroExt t (b + x.homeOff * 4096) (homeBytes x)) (b + x.stateOff * 4096) (stateBytes x)) s
  if x.resident then (List.range 4).foldl (fun t q => zeroExt t (resExtent x q).1 (resExtent x q).2) s1 else s1

/-- Takes a descriptor from FREE to LOADING (R506, R549). -/
def defineDesc (s : State) (d : Nat) (x : Desc) : State :=
  let s1 := clearAreas s x
  let s2 := { s1 with ctrs := clearUnit s1.ctrs 1 d,
                      tabs := { s1.tabs with loadFailed := sdel (sdel s1.tabs.loadFailed d) (4096 + d) } }
  let s3 := putDesc s2 d x
  allLy s3 (fun _ l => { l with ctx := mset l.ctx d (ctxOfDesc x), pendCtx := l.pendCtx.filter (fun y => y.1 != d) })

def rowDefineTable : MbRow :=
  { opc := 0x11, cls := .L, group := 1, lo := 1, hi := 3, used := [mask 0 52, mask 0 12, mask 0 16], mgmtOnly := false }

/-- DEFINE_TABLE (R71, R506); a resident table only at SL3 (R537). -/
def bodyDefineTable (s : State) (c : MbCtx) : MbOut :=
  withBuf s c (c.p 0) 128 (fun s1 l =>
    let d := c.f 1 0 12
    let x := descOfBytes l (c.f 2 0 16)
    if x.resident && s1.pwr.sl != 3 then .done s1 rcLevel []
    else if (descOf s1 d).dstate != 0 then .done s1 rcBadState []
    else if (findDesc s1 x.table (fun y => y.tver == x.tver)).isSome then .done s1 rcInUse []
    else match descRefuse s1 l x with
      | some e => .done s1 e []
      | none =>
        withPeers s1 (fun t =>
          let (t1, seed) := if x.tseed = 0 then draw t else (t, x.tseed)
          .done (defineDesc t1 d { x with tseed := seed }) rcOk [(0, seed)]))

/-- DEFINE_TABLE. -/
def execDefineTable (m : MbWrite) (s : State) : Host.Outcome State Fault Refusal := mbox rowDefineTable bodyDefineTable m s

/-! ### LOAD_IMAGE (R60 to R64, R513) -/

/-- Where and how a load failed: code, offset, and whether the offset lies in the state file. -/
structure LoadFail where
  rc : Nat
  off : Nat
  inState : Bool
  deriving DecidableEq, Repr

/-- Fields of an image header (R60). -/
structure ImgHdr where
  ncb : Nat
  slCrc : Nat
  cbOff : Nat
  slOff : Nat
  nsl : Nat
  deriving DecidableEq, Repr

def imgHdr (l : List Byte) : ImgHdr :=
  { ncb := numAt l 32 2, slCrc := numAt l 36 4, cbOff := numAt l 40 8, slOff := numAt l 48 8, nsl := numAt l 56 8 }

/-- Step 1 of R63 for the image: the header against R60, R69 and the descriptor. -/
def imgHdrOk (l : List Byte) (x : Desc) : Bool :=
  let h := imgHdr l
  decide (64 ≤ l.length) && numAt l 0 4 == 0x54484941 && numAt l 4 2 == 1 && numAt l 6 2 == 64 &&
    numAt l 8 2 == x.table && numAt l 10 1 == x.log2s && numAt l 11 1 == x.rank && numAt l 12 2 == x.cols &&
    numAt l 14 2 == x.rank * x.cols % 65536 && numAt l 16 8 == x.rows && numAt l 24 2 == x.cb8.toNat &&
    numAt l 26 2 == x.cb4.toNat && numAt l 28 2 == x.cb2.toNat && numAt l 30 1 == x.widest && numAt l 31 1 == 0 &&
    numAt l 34 2 == 0 && decide (64 ≤ h.cbOff) && decide (h.cbOff ≤ h.slOff) && decide (h.slOff ≤ l.length)

/-- The header of a state file (R513). -/
def stHdrOk (l : List Byte) (x : Desc) : Bool :=
  decide (16 ≤ l.length) && numAt l 0 4 == 0x54534941 && numAt l 4 2 == 1 && numAt l 6 2 == x.stateSz

/-- Step 2 of R63: the codebook records from offset `off` on, `n` of them; `seen` lists the numbers met. Three points are
the model's choice (log entry 116): a codebook that a header field names and the section lacks ends the load with
FORMAT_ERROR and D0 = CB_OFF; a record that runs past SL_OFF, or whose KIND does not match the class whose field names it,
gives FORMAT_ERROR before its CRC is checked; a record that no field names is loaded like the others. -/
def loadCbs (x : Desc) (img : List Byte) (lim : Nat) : Nat → Nat → List Nat → State → State × Option LoadFail
  | 0, _, seen, s =>
    if cbClasses.all (fun w => cbNum x w == 0xFFFF || seen.contains (cbNum x w).toNat) then (s, none)
    else (s, some { rc := rcFormat, off := numAt img 40 8, inState := false })
  | n + 1, off, seen, s =>
    let h := bytesAt img off 32
    let kind := numAt h 0 4 / 1024 % 4
    let len := 2 * cbLen kind
    let id := numAt h 0 4 % 1024
    let bad (rc : Nat) : State × Option LoadFail := (s, some { rc := rc, off := off, inState := false })
    if decide (lim < off + 32) || !cbHdrOk h || decide (lim < off + 32 + len) then bad rcFormat
    else if cbClasses.any (fun w => (cbNum x w).toNat == id && kind != cbKindOf w) then bad rcFormat
    else match cbCheck s h (bytesAt img (off + 32) len) with
      | .error e => bad e
      | .ok (i, cb) =>
        if mget? s.tabs.cbs i = some cb then loadCbs x img lim n (off + 32 + len) (i :: seen) s
        else if !(downPorts s).isEmpty then (countDownPorts s, some { rc := rcPeer, off := off, inState := false })
        else loadCbs x img lim n (off + 32 + len) (i :: seen) (storeCb s i cb)

/-- Writes a loaded slice to its home slot and, for a resident table, to the four copies (R63, R94). -/
def writeSlice (s : State) (d : Nat) (x : Desc) (row : Nat) (sl : List Byte) : State :=
  let s1 := writeExt s (homeAddr d x row) sl 0 false
  if x.resident then (List.range 4).foldl (fun t q => writeExt t (resAddr x q row) sl 0 false) s1 else s1

/-- Step 3 of R63: the slice records from offset `off` on, `n` of them, rows from `lo` on; rows loaded, newest first. -/
def loadSlices (d : Nat) (x : Desc) (img : List Byte) : Nat → Nat → Nat → List Nat → State →
    State × Option LoadFail × List Nat × Nat
  | 0, off, _, rows, s => (s, none, rows, off)
  | n + 1, off, lo, rows, s =>
    let row := numAt img off 8
    let w := numAt img (off + 8 + 4) 1 / 16 % 4
    let sz := slotSize w x.cols
    let sl := bytesAt img (off + 8) sz
    if decide (img.length < off + 8 + sz) || decide (row < lo) || decide (x.rows ≤ row) || !slPop sl ||
        slicePadErr sl x.cols || sliceFmtErr sl x.cols x.widest (cbFor s x) then
      (s, some { rc := rcFormat, off := off, inState := false }, rows, off)
    else loadSlices d x img n (off + 8 + sz) (row + 1) (row :: rows) (writeSlice s d x row sl)

/-- Step 2 of R513: the state records from offset `off` on; their number so far. -/
def loadStates (d : Nat) (x : Desc) (file : List Byte) (rows : List Nat) : Nat → Nat → Nat → Nat → State →
    State × Option LoadFail × Nat
  | 0, _, _, k, s => (s, none, k)
  | n + 1, off, lo, k, s =>
    let row := numAt file off 8
    let sz := x.stateSz * 32
    let r := bytesAt file (off + 8) sz
    if decide (file.length < off + 8 + sz) || decide (row < lo) || !rows.contains row then
      (s, some { rc := rcFormat, off := off, inState := true }, k)
    else
      let r' := mkRecHdr (recMvalid r) false 0 0 ++ List.replicate 24 0 ++ r.drop 32
      loadStates d x file rows n (off + 8 + sz) (row + 1) (k + 1) (writeExt s (recAddr d x row) r' 0 false)

/-- The end of a load: its code and returns. -/
def loadDone (s : State) (f : Option LoadFail) (slices states : Nat) : MbOut :=
  match f with
  | none => .done s rcOk [(1, BitVec.ofNat 64 slices), (2, BitVec.ofNat 64 states)]
  | some e => .done s e.rc [(0, BitVec.ofNat 64 e.off), (1, BitVec.ofNat 64 slices), (2, BitVec.ofNat 64 states),
      (3, BitVec.ofNat 64 (b2n e.inState))]

/-- The version cannot be committed until a later load of it succeeds (R63); after a state file that failed at its
second step, a load with both files (R513), which is kept under 4,096 + d. -/
def markLoad (s : State) (d : Nat) (failed : Bool) : State :=
  { s with tabs := { s.tabs with loadFailed := if failed then sins s.tabs.loadFailed d else sdel s.tabs.loadFailed d } }
def markState (s : State) (d : Nat) (failed : Bool) : State := markLoad s (4096 + d) failed

/-- Validates and loads an image, and a state file when one is given (R63, R513). Rows without a record load as
unpopulated (R62), so what an earlier load of the version left is cleared before the first slice is written. -/
def loadImage (s : State) (d : Nat) (img : List Byte) (file : Option (List Byte)) : MbOut :=
  let x := descOf s d
  let h := imgHdr img
  if !imgHdrOk img x then loadDone s (some { rc := rcFormat, off := 0, inState := false }) 0 0
  else if file.any (fun f => !stHdrOk f x) then loadDone s (some { rc := rcFormat, off := 0, inState := true }) 0 0
  else
    match loadCbs x img h.slOff h.ncb h.cbOff [] s with
    | (s1, some e) => loadDone s1 (some e) 0 0
    | (s1, none) =>
      match loadSlices d x img h.nsl h.slOff 0 [] (clearAreas s1 x) with
      | (s2, some e, rows, _) => loadDone (markLoad s2 d true) (some e) rows.length 0
      | (s2, none, rows, stop) =>
        if crc32 (bytesAt img h.slOff (stop - h.slOff)) != h.slCrc then
          loadDone (markLoad s2 d true) (some { rc := rcCrc, off := stop, inState := false }) rows.length 0
        else
          match file with
          | none => loadDone (markLoad s2 d false) none rows.length 0
          | some f =>
            let (s3, e, k) := loadStates d x f rows (numAt f 8 8) 16 0 0 s2
            loadDone (markState (markLoad s3 d false) d e.isSome) e rows.length k

def rowLoadImage : MbRow :=
  { opc := 0x12, cls := .L, group := 1, lo := 1, hi := 3,
    used := [mask 0 52, mask 0 64, mask 0 12, mask 0 52, mask 0 64], mgmtOnly := false }

/-- LOAD_IMAGE (R63, R513). -/
def bodyLoadImage (s : State) (c : MbCtx) : MbOut :=
  let d := c.f 2 0 12
  if c.p 3 = 0 && c.f 4 0 64 != 0 then .done s rcInvalid []
  else if (descOf s d).dstate != 1 then .done s rcBadState []
  else if lUsed s d then .done s rcInUse []
  else
    withBuf s c (c.p 0) (c.f 1 0 64) (fun s1 img =>
      if c.p 3 = 0 then loadImage s1 d img none
      else withBuf s1 c (c.p 3) (c.f 4 0 64) (fun s2 f => loadImage s2 d img (some f)))

/-- LOAD_IMAGE. -/
def execLoadImage (m : MbWrite) (s : State) : Host.Outcome State Fault Refusal := mbox rowLoadImage bodyLoadImage m s

/-! ### DUMP_TABLE (R506) -/

/-- One row of a dump: its slice, and its record. A home slot that reads poisoned is emitted as no row, and a copy that
reads poisoned gives way to the home slice (log entry 24). -/
structure DumpRow where
  row : Nat
  slice : List Byte
  rec' : List Byte
  deriving DecidableEq, Repr

def dumpRow (s : State) (d row : Nat) : State × Option DumpRow :=
  let x := descOf s d
  let (s1, h, bad) := readHome s d row
  if bad || !slPop h then (s1, none)
  else
    let (s2, r, _) := readRec s1 d row x.stateSz
    let home := cutSlice x h
    match probe s2 d row with
    | (s3, none) => (s3, some { row := row, slice := home, rec' := r })
    | (s3, some p) =>
      let (s4, b, cbad) := readCopy s3 d p.ent
      let sl := if cbad then home else
        mkHdr (slVersion b) (slStep h) (slClass b) (slEsc b) (slFreeze h) (slPop b) (slPoison b) (slQerr b)
          (slNblk b - 1) ++ b.drop 8
      (s4, some { row := row, slice := sl, rec' := r })

/-- Every populated row, in ascending order. -/
def dumpRows (d : Nat) : Nat → Nat → State → State × List DumpRow
  | 0, _, s => (s, [])
  | n + 1, row, s =>
    let (s1, r) := dumpRow s d row
    let (s2, rs) := dumpRows d n (row + 1) s1
    (s2, r.toList ++ rs)

/-- The codebook records of a descriptor (R61). -/
def dumpCbs (s : State) (x : Desc) : List Byte :=
  cbClasses.flatMap (fun w => match cbFor s x w with
    | some c => cbRecord (cbNum x w).toNat c
    | none => [])

/-- The image of the rows (R60). -/
def dumpImage (s : State) (x : Desc) (rows : List DumpRow) : List Byte :=
  let cbs := dumpCbs s x
  let sls := rows.flatMap (fun r => toBytes 8 r.row ++ r.slice)
  toBytes 4 0x54484941 ++ toBytes 2 1 ++ toBytes 2 64 ++ toBytes 2 x.table ++ toBytes 1 x.log2s ++ toBytes 1 x.rank ++
    toBytes 2 x.cols ++ toBytes 2 (x.rank * x.cols) ++ toBytes 8 x.rows ++ toBytes 2 x.cb8.toNat ++
    toBytes 2 x.cb4.toNat ++ toBytes 2 x.cb2.toNat ++ toBytes 1 x.widest ++ toBytes 1 0 ++
    toBytes 2 ((cbClasses.filter (fun w => (cbFor s x w).isSome)).length) ++ toBytes 2 0 ++ toBytes 4 (crc32 sls) ++
    toBytes 8 64 ++ toBytes 8 (64 + cbs.length) ++ toBytes 8 rows.length ++ cbs ++ sls

/-- The state file of the rows (R513). -/
def dumpState (x : Desc) (rows : List DumpRow) : List Byte :=
  toBytes 4 0x54534941 ++ toBytes 2 1 ++ toBytes 2 x.stateSz ++ toBytes 8 rows.length ++
    rows.flatMap (fun r => toBytes 8 r.row ++ r.rec')

def rowDumpTable : MbRow :=
  { opc := 0x13, cls := .L, group := 1, lo := 2, hi := 3,
    used := [mask 0 52, mask 0 64, mask 0 12, mask 0 52, mask 0 64], mgmtOnly := false }

/-- DUMP_TABLE (R506). -/
def bodyDumpTable (s : State) (c : MbCtx) : MbOut :=
  let d := c.f 2 0 12
  let x := descOf s d
  let imgMax := 64 + (dumpCbs s x).length + x.rows * (8 + homeSz x)
  let stMax := 16 + x.rows * (8 + x.stateSz * 32)
  if c.p 3 = 0 && c.f 4 0 64 != 0 then .done s rcInvalid []
  else if decide (x.dstate < 2) then .done s rcBadState []
  else if lUsed s d then .done s rcInUse []
  else if decide (c.f 1 0 64 < imgMax) || (c.p 3 != 0 && decide (c.f 4 0 64 < stMax)) then .done s rcInvalid []
  else
    let finish (s1 : State) (rows : List DumpRow) (st : Nat) : MbOut :=
      withOut s1 c (c.p 0) (c.f 1 0 64) (fun write =>
        let img := dumpImage s1 x rows
        .done (write s1 img) rcOk
          [(0, BitVec.ofNat 64 img.length), (1, BitVec.ofNat 64 st), (2, BitVec.ofNat 64 rows.length)])
    if c.p 3 = 0 then
      let (s1, rows) := dumpRows d x.rows 0 s
      finish s1 rows 0
    else
      withOut s c (c.p 3) (c.f 4 0 64) (fun write =>
        let (s1, rows) := dumpRows d x.rows 0 s
        let st := dumpState x rows
        finish (write s1 st) rows st.length)

/-- DUMP_TABLE. -/
def execDumpTable (m : MbWrite) (s : State) : Host.Outcome State Fault Refusal := mbox rowDumpTable bodyDumpTable m s

/-! ### BIND_TABLE, DROP_TABLE (R72, R506) -/

/-- The conditions of R277 on a LOADING descriptor that is to become LIVE. -/
def versionReady (s : State) (d : Nat) (x : Desc) : Bool :=
  !s.tabs.loadFailed.contains d && !s.tabs.loadFailed.contains (4096 + d) && cbClasses.all (fun w => cbNum x w == 0xFFFF || (cbFor s x w).isSome) &&
    (mget? s.tabs.progs x.prog).isSome && (mget? s.tabs.psets x.pset).isSome

/-- Makes a descriptor LIVE under its table number. -/
def bindDesc (s : State) (d : Nat) : State :=
  let x := descOf s d
  let s1 := putDesc s d { x with dstate := 2 }
  { s1 with tabs := { s1.tabs with binding := mset s1.tabs.binding x.table d } }

/-- Makes a descriptor RETIRING; a LIVE one is unbound. -/
def retireDesc (s : State) (d : Nat) : State :=
  let x := descOf s d
  let s1 := putDesc s d { x with dstate := 3 }
  if x.dstate = 2 then { s1 with tabs := { s1.tabs with binding := mdel s1.tabs.binding x.table } } else s1

def rowBindTable : MbRow :=
  { opc := 0x14, cls := .F, group := 1, lo := 1, hi := 3, used := [mask 0 12 + mask 16 16], mgmtOnly := false }

/-- BIND_TABLE (R506). -/
def bodyBindTable (s : State) (c : MbCtx) : MbOut :=
  let t := c.f 0 0 12
  if (liveDesc s t).isSome then .done s rcBadState []
  else match findDesc s t (fun y => y.dstate == 1 && y.tver == BitVec.ofNat 16 (c.f 0 16 16)) with
    | none => .done s rcNotFound []
    | some (d, x) =>
      if lUsed s d then .done s rcInUse []
      else if !versionReady s d x then .done s rcBadState []
      else .done (bindDesc s d) rcOk []

/-- BIND_TABLE. -/
def execBindTable (m : MbWrite) (s : State) : Host.Outcome State Fault Refusal := mbox rowBindTable bodyBindTable m s

def rowDropTable : MbRow :=
  { opc := 0x15, cls := .F, group := 1, lo := 1, hi := 3, used := [mask 0 12 + mask 16 16], mgmtOnly := false }

/-- DROP_TABLE (R506). -/
def bodyDropTable (s : State) (c : MbCtx) : MbOut :=
  match findDesc s (c.f 0 0 12) (fun y => y.dstate != 3 && y.tver == BitVec.ofNat 16 (c.f 0 16 16)) with
  | none => .done s rcNotFound []
  | some (d, _) => if lUsed s d then .done s rcInUse [] else .done (retireDesc s d) rcOk []

/-- DROP_TABLE. -/
def execDropTable (m : MbWrite) (s : State) : Host.Outcome State Fault Refusal := mbox rowDropTable bodyDropTable m s

/-! ### TABLE_PARAMS (R232) -/

/-- A descriptor with the fields of a TABLE_PARAMS that its mask selects. -/
def withParams (x : Desc) (m : BitVec 4) (qp8 qp4 qp2 : BitVec 27) (pset : Nat) : Desc :=
  { x with qp8 := if m.getLsbD 0 then qp8 else x.qp8, qp4 := if m.getLsbD 1 then qp4 else x.qp4,
           qp2 := if m.getLsbD 2 then qp2 else x.qp2, pset := if m.getLsbD 3 then pset else x.pset }

/-- Every companion has applied the last change of a descriptor's context. -/
def paramsApplied (s : State) (d : Nat) : Bool :=
  (List.range 8).all (fun k => !(lyOf s k).pendCtx.any (fun x => x.1 == d))

/-- Ends every TABLE_PARAMS whose change all companions have applied: the codecs follow (R232 step 3). -/
def checkParams (s : State) : State :=
  s.mer.lruns.foldl (fun t r => match r with
    | .params ch d m q8 q4 q2 p =>
      if paramsApplied t d then
        let t1 := putDesc t d (withParams (descOf t d) m q8 q4 q2 p)
        mbComplete { t1 with mer := { t1.mer with lruns := t1.mer.lruns.filter (fun y => y != r) } } ch rcOk []
      else t
    | _ => t) s

def rowTableParams : MbRow :=
  { opc := 0x16, cls := .L, group := 1, lo := 1, hi := 3,
    used := [mask 0 16, mask 0 27, mask 0 27, mask 0 27, mask 0 8], mgmtOnly := false }

/-- TABLE_PARAMS (R232): the companions take the change now or when their open batches end. -/
def bodyTableParams (s : State) (c : MbCtx) : MbOut :=
  let d := c.f 0 0 12
  let x := descOf s d
  let m := BitVec.ofNat 4 (c.f 0 12 4)
  let q (i : Nat) := BitVec.ofNat 27 (c.f i 0 27)
  -- a word that the change mask leaves out is not used (R492)
  if (List.range 4).any (fun i => !m.getLsbD i && c.f (i + 1) 0 27 != 0) then .done s rcInvalid []
  else if x.dstate != 1 && x.dstate != 2 then .done s rcBadState []
  else if lUsed s d then .done s rcInUse []
  else
    withPeers s (fun s =>
      let y := withParams x m (q 1) (q 2) (q 3) (c.f 4 0 8)
      let s1 := allLy s (fun _ l => lyLoadCtx l d (ctxOfDesc y))
      if paramsApplied s1 d then .done (putDesc s1 d y) rcOk []
      else .wait s1 (.params c.ch d m (q 1) (q 2) (q 3) (c.f 4 0 8)))

/-- TABLE_PARAMS. -/
def execTableParams (m : MbWrite) (s : State) : Host.Outcome State Fault Refusal := mbox rowTableParams bodyTableParams m s

/-! ### LOAD_PROG, LOAD_PSET (R229 to R232) -/

def rowLoadProg : MbRow :=
  { opc := 0x17, cls := .S, group := 1, lo := 1, hi := 3, used := [mask 0 52], mgmtOnly := false }

/-- LOAD_PROG (R229). -/
def bodyLoadProg (s : State) (c : MbCtx) : MbOut :=
  withBuf s c (c.p 0) 16 (fun s1 h =>
    let hd := numAt h 0 4
    if decide (2 ≤ hd / 2 ^ 14 % 4) || hd / 2 ^ 18 % 4 == 3 || decide (2 ^ 23 ≤ hd) || numAt h 8 8 != 0 then
      .done s1 rcFormat []
    else
      let n := hd / 2 ^ 8 % 64 + 1
      withBuf s1 c (c.p 0 + 16) (4 * n) (fun s2 body =>
        let id := hd % 256
        let g := progOf hd body
        if crc32 body != numAt h 4 4 then .done s2 rcCrc []
        else if !(List.range n).all (fun i => insOk g.nsv (numAt body (4 * i) 4)) then .done s2 rcFormat []
        else if mget? s2.tabs.progs id = some g then .done s2 rcOk []
        else if progUsed s2 id && (mget? s2.tabs.progs id).isSome then .done s2 rcInUse []
        else withPeers s2 (fun t =>
          let t1 := { t with tabs := { t.tabs with progs := mset t.tabs.progs id g } }
          .done (allLy t1 (fun _ l => { l with progs := mset l.progs id g })) rcOk [])))

/-- LOAD_PROG. -/
def execLoadProg (m : MbWrite) (s : State) : Host.Outcome State Fault Refusal := mbox rowLoadProg bodyLoadProg m s

def rowLoadPset : MbRow :=
  { opc := 0x18, cls := .S, group := 1, lo := 1, hi := 3, used := [mask 0 52, mask 0 52, mask 0 29], mgmtOnly := false }

/-- LOAD_PSET (R231, R232): this chip's bits of the table-wide mask. -/
def bodyLoadPset (s : State) (c : MbCtx) : MbOut :=
  let d := c.f 2 0 12
  let x := descOf s d
  let w := c.f 2 12 17
  if x.dstate = 0 then .done s rcBadState []
  else if w != 2 ^ x.log2s * x.cols then .done s rcInvalid []
  else if lUsed s d then .done s rcInUse []
  else
    withBuf s c (c.p 0) 48 (fun s1 l =>
      if (bytesAt l 1 15).any (fun b => b != 0) then .done s1 rcInvalid [] else
      withBuf s1 c (c.p 1) ((w + 7) / 8) (fun s2 mk =>
        let p : Sys2Proof.PSet := {
          p := (List.range 8).map (fun i => BitVec.ofNat 32 (numAt l (16 + 4 * i) 4)),
          frozen := (List.range x.cols).map (fun j =>
            let b := x.rank * x.cols + j
            (numAt mk (b / 8) 1).testBit (b % 8)) }
        let id := numAt l 0 1
        withPeers s2 (fun t =>
          let t1 := { t with tabs := { t.tabs with psets := mset t.tabs.psets id p } }
          .done (allLy t1 (fun _ y => lyLoadPset y id p)) rcOk [])))

/-- LOAD_PSET. -/
def execLoadPset (m : MbWrite) (s : State) : Host.Outcome State Fault Refusal := mbox rowLoadPset bodyLoadPset m s

/-! ### FREEZE_ROW, SET_SKEW_POLICY, LEVEL_ROW -/

def rowFreezeRow : MbRow :=
  { opc := 0x19, cls := .F, group := 1, lo := 1, hi := 3, used := [mask 0 12, mask 0 40, mask 0 1], mgmtOnly := false }

/-- FREEZE_ROW (R234, R506): byte 5 of the home header, under R251 and R267. A header that reads poisoned counts as
unpopulated (R243). -/
def bodyFreezeRow (s : State) (c : MbCtx) : MbOut :=
  let d := c.f 0 0 12
  let row := c.f 1 0 40
  let x := descOf s d
  if x.dstate = 0 || x.resident then .done s rcBadState []
  else if decide (x.rows ≤ row) then .done s rcInvalid []
  else if lUsed s d then .done s rcInUse []
  else if scatterBusy s d then .retry s
  else if !portUp s (homeComp d x row) then .done (countPort s (homeComp d x row)) rcPeer []
  else
    let a := homeAddr d x row
    let (s1, h, bad) := readHdr s d row
    if bad || !slPop h then .done s1 rcBadState []
    else
      let b := numAt h 5 1
      let old := b / 2 % 2
      let new := b - old * 2 + c.f 2 0 1 * 2
      .done (writeExt s1 (a + 5) (toBytes 1 new) 0 false) rcOk [(0, BitVec.ofNat 64 old)]

/-- FREEZE_ROW. -/
def execFreezeRow (m : MbWrite) (s : State) : Host.Outcome State Fault Refusal := mbox rowFreezeRow bodyFreezeRow m s

def rowSetSkewPolicy : MbRow :=
  { opc := 0x1A, cls := .F, group := 1, lo := 1, hi := 3, used := [mask 0 13], mgmtOnly := false }

/-- SET_SKEW_POLICY (R239). -/
def bodySetSkewPolicy (s : State) (c : MbCtx) : MbOut :=
  let d := c.f 0 0 12
  if lUsed s d then .done s rcInUse []
  else .done { s with tabs := { s.tabs with
    manual := if bit (c.a 0) 12 then sins s.tabs.manual d else sdel s.tabs.manual d } } rcOk []

/-- SET_SKEW_POLICY. -/
def execSetSkewPolicy (m : MbWrite) (s : State) : Host.Outcome State Fault Refusal :=
  mbox rowSetSkewPolicy bodySetSkewPolicy m s

def rowLevelRow : MbRow :=
  { opc := 0x1B, cls := .F, group := 1, lo := 1, hi := 3, used := [mask 0 12, mask 0 40, mask 0 24], mgmtOnly := false }

/-- LEVEL_ROW (R239): PEER_FAILED with the port down (R316); BAD_STATE when the companion answers POISONED. -/
def bodyLevelRow (s : State) (c : MbCtx) : MbOut :=
  let d := c.f 0 0 12
  let row := c.f 1 0 40
  let x := descOf s d
  if x.dstate = 0 then .done s rcBadState []
  else if decide (x.rows ≤ row) then .done s rcInvalid []
  else if lUsed s d then .done s rcInUse []
  else
    let up := portUp s (homeComp d x row)
    let (s1, a) := sendLevel s d row (c.f 2 0 24)
    if !up then .done s1 rcPeer []
    else if a.result != 8 then .done s1 rcBadState []
    else .done s1 rcOk [(0, BitVec.ofNat 64 a.step)]

/-- LEVEL_ROW. -/
def execLevelRow (m : MbWrite) (s : State) : Host.Outcome State Fault Refusal := mbox rowLevelRow bodyLevelRow m s

/-! ### RELEASE_MAP, SET_SPLIT_GROUP, SET_SCRUB_POLICY -/

def rowReleaseMap : MbRow :=
  { opc := 0x1C, cls := .F, group := 1, lo := 1, hi := 3, used := [mask 0 16], mgmtOnly := false }

/-- RELEASE_MAP (R174). -/
def bodyReleaseMap (s : State) (c : MbCtx) : MbOut :=
  let id := BitVec.ofNat 16 (c.f 0 0 16)
  if s.sc.maps.any (fun m => m.id == id && !m.relAsked) then .done (releaseMap s id) rcOk []
  else .done s rcNotFound []

/-- RELEASE_MAP. -/
def execReleaseMap (m : MbWrite) (s : State) : Host.Outcome State Fault Refusal := mbox rowReleaseMap bodyReleaseMap m s

def rowSetSplitGroup : MbRow :=
  { opc := 0x1D, cls := .F, group := 1, lo := 0, hi := 3, used := [mask 0 15, mask 0 52], mgmtOnly := false }

/-- Stores a split-group record (R67, R506). -/
def setGroup (s : State) (g : Nat) (r : Group) : MbOut :=
  if r.chips.any (fun c => c == 4095) || r.chips.getD r.rank 0 != s.mer.fabric then .done s rcInvalid []
  else .done { s with tabs := { s.tabs with groups := mset s.tabs.groups g r } } rcOk []

/-- SET_SPLIT_GROUP (R67, R506). -/
def bodySetSplitGroup (s : State) (c : MbCtx) : MbOut :=
  let g := c.f 0 0 6
  let l := c.f 0 6 3
  let k := c.f 0 9 6
  if l = 7 || decide (2 ^ l ≤ k) then .done s rcInvalid []
  else if s.tabs.descs.any (fun e => e.2.dstate != 0 && e.2.group == g) then .done s rcInUse []
  else if l = 0 then
    if c.p 1 != 0 then .done s rcInvalid []
    else .done { s with tabs := { s.tabs with groups := mset s.tabs.groups g { log2s := 0, rank := 0, chips := [s.mer.fabric] } } }
      rcOk []
  else
    withBuf s c (c.p 1) (2 * 2 ^ l) (fun s1 b =>
      if (List.range (2 ^ l)).any (fun i => decide (4094 < numAt b (2 * i) 2)) then .done s1 rcInvalid []
      else setGroup s1 g { log2s := l, rank := k,
                           chips := (List.range (2 ^ l)).map (fun i => BitVec.ofNat 12 (numAt b (2 * i) 2)) })

/-- SET_SPLIT_GROUP. -/
def execSetSplitGroup (m : MbWrite) (s : State) : Host.Outcome State Fault Refusal :=
  mbox rowSetSplitGroup bodySetSplitGroup m s

def rowSetScrubPolicy : MbRow :=
  { opc := 0x1E, cls := .F, group := 1, lo := 1, hi := 3, used := [mask 0 32], mgmtOnly := false }

/-- SET_SCRUB_POLICY (R238, R506). -/
def bodySetScrubPolicy (s : State) (c : MbCtx) : MbOut :=
  if decide (50000000 < c.f 0 0 32) then .done s rcInvalid []
  else .done { s with mer := { s.mer with scrubRate := c.f 0 0 32 } } rcOk []

/-- SET_SCRUB_POLICY. -/
def execSetScrubPolicy (m : MbWrite) (s : State) : Host.Outcome State Fault Refusal :=
  mbox rowSetScrubPolicy bodySetScrubPolicy m s

end Sys2Proof.Machine
end

