-- ==== Sys2Proof/Machine/MemCmds.lean ====
section
/-! DEFINITION. Command group 2: memory and cache (R507). -/

namespace Sys2Proof.Machine

/-! ### SET_LAYOUT (R511, R597, R598) -/

def unit64 : Nat := 2 ^ 26

/-- The layout of the arguments; a zero field takes its default (R511). -/
def layoutArgs (c : MbCtx) : Layout :=
  let d (v dflt : Nat) : Nat := if v = 0 then dflt else v
  { l := d (c.f 0 0 5) 27, pool := d (c.f 1 0 16) 2048 * unit64, maps := d (c.f 1 16 16) 64 * unit64,
    scat := d (c.f 1 32 16) 128 * unit64, stage := d (c.f 1 48 16) 32 * unit64, fanout := d (c.f 2 0 16) 32 * unit64,
    fanin := d (c.f 2 16 16) 16 * unit64, skew := d (c.f 2 32 16) 1 * unit64, plans := d (c.f 2 48 16) 4 * unit64 }

/-- Every size reaches its minimum, and L its range. -/
def layoutMin (x : Layout) : Bool :=
  decide (20 ≤ x.l) && decide (x.l ≤ 30) && decide (64 * unit64 ≤ x.pool) && decide (16 * unit64 ≤ x.maps) &&
    decide (96 * unit64 ≤ x.scat) && decide (4 * unit64 ≤ x.stage) && decide (16 * unit64 ≤ x.fanout) &&
    decide (16 * unit64 ≤ x.fanin)

/-- Bytes of the nine areas. -/
def layoutSum (x : Layout) : Nat :=
  almBytes x + x.pool + x.maps + x.scat + x.stage + x.fanout + x.fanin + x.skew + x.plans

/-- Stripes that hold part of the area block are SPREAD; the others have their mode after reset (R597). -/
def layoutStripes (s : State) : State :=
  let b := blockBase s
  { s with mc := { s.mc with
      stripes := (List.range 512).map (fun i =>
        let st := stripeOf s i
        (i, { st with mode := if overlap (i * 0x30000000) 0x30000000 b (tierFEnd - b) then 2 else resetMode i })) } }

def rowSetLayout : MbRow :=
  { opc := 0x20, cls := .F, group := 2, lo := 0, hi := 0, used := [mask 0 5, mask 0 64, mask 0 64], mgmtOnly := false }

/-- SET_LAYOUT (R511). After a FULL_SR reset only the layout kept is accepted (R543). -/
def bodySetLayout (s : State) (c : MbCtx) : MbOut :=
  let x := layoutArgs c
  let kept := (s.mer.nvm.bind (fun n => n.layout)).getD Layout.default
  if !layoutMin x || (s.pwr.fullSr && x != kept) then .done s rcInvalid []
  else if tierFEnd < layoutSum x + 0x20000000 then .done s rcNoSpace []
  else
    let s1 := { s with mer := { s.mer with layout := some x } }
    let s2 := saveNvm (if s.pwr.fullSr then s1 else layoutStripes s1)
    .done s2 rcOk [(0, BitVec.ofNat 64 (blockBase s2))]

/-- SET_LAYOUT. -/
def execSetLayout (m : MbWrite) (s : State) : Host.Outcome State Fault Refusal := mbox rowSetLayout bodySetLayout m s

/-! ### SET_MEM_SPLIT, SET_MEM_POLICY, SET_STRIPE, MEM_HEALTH -/

def rowSetMemSplit : MbRow :=
  { opc := 0x21, cls := .F, group := 2, lo := 0, hi := 0, used := [mask 0 15], mgmtOnly := false }

/-- SET_MEM_SPLIT (R306): shares in units of 5 %. -/
def bodySetMemSplit (s : State) (c : MbCtx) : MbOut :=
  let l := [c.f 0 0 5, c.f 0 5 5, c.f 0 10 5]
  if l.any (fun x => x == 0) || l.sum != 20 then .done s rcInvalid []
  else .done { s with mer := { s.mer with split := l } } rcOk []

/-- SET_MEM_SPLIT. -/
def execSetMemSplit (m : MbWrite) (s : State) : Host.Outcome State Fault Refusal := mbox rowSetMemSplit bodySetMemSplit m s

def rowSetMemPolicy : MbRow :=
  { opc := 0x22, cls := .F, group := 2, lo := 0, hi := 3, used := [mask 0 8, mask 0 8], mgmtOnly := false }

/-- SET_MEM_POLICY (R507): zero fields keep the current value. -/
def bodySetMemPolicy (s : State) (c : MbCtx) : MbOut :=
  let ce := c.f 0 0 8
  let sp := c.f 1 0 8
  if 168 < sp then .done s rcInvalid []
  else .done { s with mer := { s.mer with
    rowCeMax := if ce = 0 then s.mer.rowCeMax else ce,
    scrubPeriod := if sp = 0 then s.mer.scrubPeriod else sp } } rcOk []

/-- SET_MEM_POLICY. -/
def execSetMemPolicy (m : MbWrite) (s : State) : Host.Outcome State Fault Refusal :=
  mbox rowSetMemPolicy bodySetMemPolicy m s

/-- A range entry maps part of a stripe, or a Meridian-owned area lies in it (R301). -/
def stripeUsed (s : State) (i : Nat) : Bool :=
  rangeCovers s (i * 0x30000000) 0x30000000 || merOwned s (i * 0x30000000) 0x30000000

/-- Writes back and drops the cached lines of an extent, those that wait for a fill among them. -/
def flushExt (s : State) (a n : Nat) : State :=
  let s1 := takeFills s (fun x => overlap a n (x * 64) 64)
  s1.rc.lines.foldl (fun t e =>
    if overlap a n (e.2.x * 64) 64 then dropLine (if e.2.dirty then writeBack t e.2 else t) e.1 else t) s1

def rowSetStripe : MbRow :=
  { opc := 0x23, cls := .F, group := 2, lo := 2, hi := 3, used := [mask 0 11], mgmtOnly := false }

/-- SET_STRIPE (R297, R301). The stripe's cached lines, whose home slices change, are written back first (log entry
25). -/
def bodySetStripe (s : State) (c : MbCtx) : MbOut :=
  let i := c.f 0 0 9
  let m := c.f 0 9 2
  if m = 3 then .done s rcInvalid []
  else if stripeUsed s i then .done s rcInUse []
  else
    let s0 := flushExt s (i * 0x30000000) 0x30000000
    let (s1, seed) := if m = 2 then draw s0 else (s0, (stripeOf s0 i).seed)
    .done (saveNvm (restripe s1 i { mode := BitVec.ofNat 2 m, seed := seed })) rcOk []

/-- SET_STRIPE. -/
def execSetStripe (m : MbWrite) (s : State) : Host.Outcome State Fault Refusal := mbox rowSetStripe bodySetStripe m s

/-- The counters of HEALTH_DATA, in the order of R323 and R249 (log entry 26). -/
def healthWords (s : State) (k : Nat) : List W64 :=
  [ctrCompSLinkCe k, ctrCompSLinkUe k, ctrCompSPoisonRd k, ctrCompSPoisonLost k, ctrCompSRepair k, ctrCompLyLockWait k,
    ctrCompLyEngWait k].map (fun x => BitVec.ofNat 64 (ctr s x))

def rowMemHealth : MbRow :=
  { opc := 0x24, cls := .S, group := 2, lo := 0, hi := 3, used := [mask 0 4, mask 0 52], mgmtOnly := false }

/-- What a stack's report holds (R328): spare lanes used by pseudo-channel, hard and soft repair resources remaining by
pseudo-channel and bank group, the temperature, and the stack's entries of the repair log. -/
def stackHealth (s : State) (k : Nat) : List Nat :=
  let x := stackOf s k
  let log := s.mc.repairLog.filter (fun r => r.stack == k)
  (List.range 64).map (fun p => x.lanes.getD p 0) ++ (List.range 1024).map (fun i => mget x.hard i 0) ++
    (List.range 1024).map (fun i => mget x.soft i 0) ++ [x.temp, log.length] ++
    log.flatMap (fun r => [r.pch, r.bank, r.row, b2n r.hard])

/-- MEM_HEALTH (R323, R328). How a stack's report is laid out is open: a free value of its contents (log entry 26). -/
def bodyMemHealth (s : State) (c : MbCtx) : MbOut :=
  let u := c.f 0 0 4
  if u = 6 || u = 7 then .done s rcInvalid []
  else if 8 ≤ u then
    if !portUp s (u - 8) then .done (countPort s (u - 8)) rcPeer []
    else
      let b := (healthWords s (u - 8)).flatMap (fun x => toBytes 8 x.toNat)
      withOut s c (c.p 1) b.length (fun write => .done (write s b) rcOk [(0, BitVec.ofNat 64 b.length)])
  else
    let b := Config.stackReport (stackHealth s u)
    withOut s c (c.p 1) b.length (fun write => .done (write s b) rcOk [(0, BitVec.ofNat 64 b.length)])

/-- MEM_HEALTH. -/
def execMemHealth (m : MbWrite) (s : State) : Host.Outcome State Fault Refusal := mbox rowMemHealth bodyMemHealth m s

/-! ### CACHE_MAINT (R346 to R348) -/

/-- One operation on one line: 0 CLEAN, 1 INVALIDATE, 2 CLEAN_INVALIDATE. -/
def maintLine (op : Nat) (s : State) (k : Nat) (l : CLine) : State :=
  let s1 := if l.dirty && op != 1 then writeBack s l else s
  if op = 0 then (if l.dirty then setLine s1 k { l with dirty := false } else s1)
  else dropLine (bumpIf s1 (op == 1 && l.dirty) (ctrSliceRcInvDirty (k / 65536))) k

/-- Applies an operation to every cached line that a test selects by its key and contents. Accesses accepted before it
come first: the fills that lines of the target wait for (R347). -/
def maintAll (op : Nat) (s : State) (q : Nat → Bool) (p : Nat → CLine → Bool) : State :=
  let s1 := takeFills s q
  s1.rc.lines.foldl (fun t e => if p e.1 e.2 then maintLine op t e.1 e.2 else t) s1

def rowCacheMaint : MbRow :=
  { opc := 0x25, cls := .L, group := 2, lo := 1, hi := 3, used := [mask 0 3, mask 0 48, mask 0 33, mask 0 16],
    mgmtOnly := false }

/-- CACHE_MAINT (R346, R507). -/
def bodyCacheMaint (s : State) (c : MbCtx) : MbOut :=
  let op := c.f 0 0 2
  if op = 3 then .done s rcInvalid []
  else if lCache s then .done s rcInUse []
  else if !bit (c.a 0) 2 then
    let a := c.f 1 0 48
    let n := c.f 2 0 33
    if a % 64 != 0 || n = 0 || decide (2 ^ 32 < n) || !inTiers a (64 * n) || c.a 3 != 0 then .done s rcInvalid []
    else .done (maintAll op s (fun x => decide (a ≤ x * 64) && decide (x * 64 < a + 64 * n)) (fun _ l => decide (a ≤ l.x * 64) && decide (l.x * 64 < a + 64 * n))) rcOk []
  else
    let sl := c.f 1 0 6
    let lo := c.f 2 0 12
    let hi := c.f 2 16 12
    if (decide (48 ≤ sl) && sl != 63) || decide (hi < lo) || decide (64 ≤ (c.a 1).toNat) ||
        (c.a 2).toNat &&& ((2 ^ 64 - 1) ^^^ (mask 0 12 + mask 16 12)) != 0 then .done s rcInvalid []
    else .done (maintAll op s (fun x => (sl == 63 || homeSlice s x == sl) && decide (lo ≤ lineSet s x) && decide (lineSet s x ≤ hi)) (fun k _ =>
      (sl == 63 || k / 65536 == sl) && decide (lo ≤ k / 16 % 4096) && decide (k / 16 % 4096 ≤ hi) &&
        bit (c.a 3) (k % 16))) rcOk []

/-- CACHE_MAINT. -/
def execCacheMaint (m : MbWrite) (s : State) : Host.Outcome State Fault Refusal := mbox rowCacheMaint bodyCacheMaint m s

/-! ### CACHE_DISABLE, CACHE_ENABLE (R351) -/

def rowCacheDisable : MbRow :=
  { opc := 0x26, cls := .L, group := 2, lo := 1, hi := 3, used := [], mgmtOnly := false }

/-- CACHE_DISABLE (R351): the walk starts; the command completes when it ends. -/
def bodyCacheDisable (s : State) (c : MbCtx) : MbOut :=
  if lCache s then .done s rcInUse []
  else .wait { s with rc := { s.rc with enabled := false, cleaning := true, done := false } } (.cacheDisable c.ch)

/-- CACHE_DISABLE. -/
def execCacheDisable (m : MbWrite) (s : State) : Host.Outcome State Fault Refusal :=
  mbox rowCacheDisable bodyCacheDisable m s

/-- Every line written back when DIRTY, and invalidated (R351, R355), after the accesses accepted before. -/
def cleanAll (s : State) : State :=
  let s1 := writeBackAll (takeFills s (fun _ => true))
  { s1 with rc := { s1.rc with lines := [] } }

/-- CACHE_DISABLE_DONE (R351): the walk has ended in every slice. -/
def execCacheDisableDone (s : State) : Host.Outcome State Fault Refusal :=
  act s (fun s =>
    if !s.rc.cleaning then s
    else
      let s1 := cleanAll s
      let s2 := { s1 with rc := { s1.rc with cleaning := false, done := true } }
      endRuns s2 (fun r => match r with | .cacheDisable _ => true | _ => false) lrunChan rcOk [])

def rowCacheEnable : MbRow :=
  { opc := 0x27, cls := .F, group := 2, lo := 1, hi := 3, used := [], mgmtOnly := false }

/-- CACHE_ENABLE (R351). -/
def bodyCacheEnable (s : State) (_ : MbCtx) : MbOut :=
  if s.rc.cleaning then .done s rcBadState []
  else .done { s with rc := { s.rc with enabled := true, done := false } } rcOk []

/-- CACHE_ENABLE. -/
def execCacheEnable (m : MbWrite) (s : State) : Host.Outcome State Fault Refusal := mbox rowCacheEnable bodyCacheEnable m s

end Sys2Proof.Machine
end

