-- ==== Sys2Proof/Machine/CacheEvents.lean ====
section
/-! DEFINITION. Events at the home slices and the memory controllers (chapters 9 and 10): accesses, fills,
back-invalidate answers, DRAM outcomes, row remapping, patrol and refresh. -/

namespace Sys2Proof.Machine

/-! ### Errors of a way (R349, R350) -/

/-- Takes a way of a slice out of use: DIRTY lines go back, every line of it becomes INVALID (R350 steps 1 and 2). -/
def wayDisable (s : State) (sl w : Nat) : State :=
  let mine (k : Nat) : Bool := k / 65536 == sl && k % 16 == w
  let s1 := s.rc.lines.foldl (fun t e => if mine e.1 && e.2.dirty then writeBack t e.2 else t) s
  { s1 with rc := { s1.rc with
      lines := s1.rc.lines.filter (fun e => !mine e.1),
      off := mset s1.rc.off sl (mget s1.rc.off sl 0 ||| 2 ^ w),
      autoOff := mset s1.rc.autoOff sl (mget s1.rc.autoOff sl 0 + 1) } }

/-- One `RC_CE` event of a way; the fourth of a window disables the way, or reports the limit of 8 (R349, R350). -/
def wayCe (s : State) (sl w : Nat) : State :=
  let k := 16 * sl + w
  let n := mget s.rc.ceWin k 0 + 1
  let s1 := bump1 { s with rc := { s.rc with ceWin := mset s.rc.ceWin k n } } (ctrWayRcCe k)
  if n != 4 then s1
  else if mget s1.rc.autoOff sl 0 < 8 then
    raiseEvent (bump1 (wayDisable s1 sl w) (ctrSliceRcWayOff sl)) 0x30 sl (BitVec.ofNat 64 w) 0
  else raiseEvent s1 0x31 sl (BitVec.ofNat 64 w) 0

/-- Both tag copies of a way fail: its line is lost (R349). Lines of the way other than this one go as in R350 (log
entry 27). -/
def wayTagLost (s : State) (sl st w : Nat) : State :=
  let s1 := wayDisable (dropLine s (wayKey sl st w)) sl w
  raiseEvent (bump1 s1 (ctrWayRcTagLost (16 * sl + w))) 0x32 sl (BitVec.ofNat 64 w) 0

/-! ### Accesses (R333 to R343, R351, R353) -/

/-- An access in the order of its line: the line has an open miss, is present, or is not (R334 to R343). -/
def sliceServe (s : State) (a : LineAccess) : State :=
  let x := a.addr / 64
  let sl := homeSlice s x
  if a.write then
    if missOpen s x && !passThrough s x then openMiss s a else writeLine s a.addr a.data a.hint a.poison
  else if passThrough s x then (dReadSecs s (x * 64) 2).1
  else if missOpen s x then bump1 (openMiss s a) (ctrSliceRcMiss sl)
  else if (findWay s sl (lineSet s x) x).isSome || !memUp s (x * 64) then (readLine s x a.hint).1
  else bump1 (openMiss s a) (ctrSliceRcMiss sl)

/-- An uncorrectable error in the data of the way that an access hits: a DIRTY line is served poisoned, another is
dropped and read again (R349). -/
def lineUe (s : State) (a : LineAccess) (sl st w : Nat) : State :=
  let x := a.addr / 64
  let k := wayKey sl st w
  let l := mget s.rc.lines k { x := x, dirty := false, keep := false, poison := false, touched := false, data := [] }
  if l.dirty then
    sliceServe (freezeUe (bump1 (setLine s k { l with poison := true }) (ctrWayRcUeDirty (16 * sl + w))) 1 7) a
  else
    let s1 := bump1 (dropLine s k) (ctrWayRcUeClean (16 * sl + w))
    openMiss (bumpIf s1 (!a.write) (ctrSliceRcHit sl)) a

/-- An access that finds an error (R349): in the data of the line that it hits, or in the tags of an enabled way of its
set, whether it hits or not. -/
def sliceErr (s : State) (a : LineAccess) (e : LineErr) : State :=
  let x := a.addr / 64
  let sl := homeSlice s x
  let st := lineSet s x
  match e with
  | .none => sliceServe s a
  | .tagCopy w => if wayOn s sl w then wayCe (sliceServe s a) sl w else sliceServe s a
  | .tagLost w => sliceServe (if wayOn s sl w then wayTagLost s sl st w else s) a
  | .correctable =>
    match findWay s sl st x with
    | some w => wayCe (sliceServe s a) sl w
    | none => sliceServe s a
  | .uncorrectable =>
    match findWay s sl st x with
    | some w => lineUe s a sl st w
    | none => sliceServe s a

/-- The memory behind an address takes requests: it is not in self-refresh (R330). -/
def memAwake (s : State) (a : Nat) : Bool :=
  if a < tierFEnd then !s.mc.selfRef else !(mget s.ly (compOf a) Lyush.reset).selfRef

/-- The access by the block that the host's copy of the line holds up (R353). -/
def snooped (s : State) (a : LineAccess) : Bool :=
  !a.host && s.rc.snoop.any (fun e => e.1 == a.addr / 64 && (a.write || e.2))

/-- An access that waits for the host comes after those that wait for the same line (R353). -/
def biHold (s : State) (a : LineAccess) : State :=
  sendSnoops { s with rc := { s.rc with biWait := s.rc.biWait ++ [{ x := a.addr / 64, acc := a }] } } [a.addr / 64]

/-- HOME_SLICE_ACCESS (R330, R334 to R343, R349, R353): an access to a line outside the tiers takes no way and no
memory; a slice without a free miss entry, and memory in self-refresh, take no request. -/
def homeAccess (s : State) (a : LineAccess) (e : LineErr) : State :=
  if !inTiers (a.addr / 64 * 64) 64 || sliceFull s (homeSlice s (a.addr / 64)) || !memAwake s (a.addr / 64 * 64) then s
  else if snooped s a || s.rc.biWait.any (fun w => w.x == a.addr / 64) then biHold s a
  else
    let t := sliceErr s a e
    if a.host then { t with rc := { t.rc with need := t.rc.need.filter (fun x => x != a.addr / 64) } } else t

/-- HOME_SLICE_ACCESS. -/
def execHomeSliceAccess (a : LineAccess) (e : LineErr) (s : State) : Host.Outcome State Fault Refusal :=
  act s (fun s => homeAccess s a e)

/-- BACK_INVALIDATE_ANSWER (R353): the filter forgets the line, write-back data of an OWNED line is written at its
home slice, and the accesses that waited for the line take place in their order. The write-back carries its poison (R409),
and in a protected area it is discarded while the aperture is closed (R403). -/
def backAnswer (s : State) (x : Nat) (data : Option (List Byte × Bool)) : State :=
  if !s.rc.biSent.contains x then s
  else
    let owned := s.rc.snoop.any (fun e => e.1 == x && e.2)
    let waits := s.rc.biWait.filter (fun w => w.x == x)
    let s1 := { s with rc := { s.rc with
      biSent := s.rc.biSent.filter (fun y => y != x), snoop := s.rc.snoop.filter (fun e => e.1 != x),
      biWait := s.rc.biWait.filter (fun w => w.x != x) } }
    let s2 := match data with
      | some d =>
        if !owned then s1
        else if !s1.hp.aper && protectedArea s1 (x * 64) 64 then bump1 s1 ctrChipHpMemRej
        else writeLine s1 (x * 64) (bytesAt d.1 0 64) 0 d.2
      | none => s1
    waits.foldl (fun t w => sliceErr t w.acc .none) s2

/-- BACK_INVALIDATE_ANSWER. -/
def execBackInvalidateAnswer (line : Nat) (data : Option (List Byte × Bool)) (s : State) : Host.Outcome State Fault Refusal :=
  act s (fun s => backAnswer s line data)

/-! ### DRAM outcomes (R318, R325) -/

/-- The tracker's key of a DRAM row within its stack. -/
def trackKey (r : Nat × Nat × Nat) : Nat := (r.1 % 64) * 2 ^ 26 + r.2.1 * 2 ^ 20 + r.2.2

/-- The repair resources of a DRAM row's bank: those of its bank group (R324, R328). -/
def resKey (r : Nat × Nat × Nat) : Nat := r.1 % 64 * 16 + r.2.1 / 4

/-- The stack has a soft-repair resource for the row's bank (R325). -/
def softFree (s : State) (r : Nat × Nat × Nat) : Bool := decide (0 < mget (stackOf s (r.1 / 64)).soft (resKey r) 0)

/-- The `EA` of ROW_REPAIR (R503). -/
def repairEa (r : Nat × Nat × Nat) : W64 := BitVec.ofNat 64 (r.1 % 64 + r.2.1 * 2 ^ 6 + r.2.2 * 2 ^ 12)

/-- A candidate for which no resource remains is counted once, stays in place and raises REPAIR_EXHAUSTED (R326). -/
def candLeft (s : State) (r : Nat × Nat × Nat) : State :=
  if softFree s r || s.mc.noResource.contains r then s
  else raiseEvent { s with mc := { s.mc with noResource := s.mc.noResource ++ [r] } } 0x24 (r.1 / 64) (repairEa r) 0

/-- A row becomes a repair candidate, which ROW_REPAIR reports (R325; log entry 110). -/
def candidate (s : State) (r : Nat × Nat × Nat) : State :=
  if s.mc.cands.contains r then s
  else candLeft (raiseEvent { s with mc := { s.mc with cands := s.mc.cands ++ [r] } } 0x23 (r.1 / 64) (repairEa r) 0) r

/-- The tracker's entry with the fewest events. -/
def fewest (m : FMap Nat) : Option (Nat × Nat) :=
  m.foldl (fun b e => match b with
    | none => some e
    | some x => if e.2 < x.2 then some e else some x) none

/-- A corrected event of a DRAM row in the stack's tracker of 64 (R325). -/
def trackCe (s : State) (r : Nat × Nat × Nat) : State :=
  let k := r.1 / 64
  let t := (stackOf s k).tracker
  let n := mget t (trackKey r) 0 + 1
  let t1 := if (mget? t (trackKey r)).isSome || decide (t.length < 64) then mset t (trackKey r) n
    else match fewest t with
      | some e => if e.2 < n then mset (mdel t e.1) (trackKey r) n else t
      | none => t
  let s1 := { s with mc := { s.mc with stk := mset s.mc.stk k { stackOf s k with tracker := t1 } } }
  if s.mer.rowCeMax ≤ n then candidate s1 r else s1

/-- The sector's cells are uncorrectable: it reads poisoned until it is written (R318). -/
def markUe (s : State) (sec : Nat) : State :=
  if secPoison s.mem sec then s else { s with mem := { s.mem with ueF := sins s.mem.ueF sec } }

/-- What the cells of a sector that is read turn out to hold, but for its poison syndrome (R318, R325). -/
def dramOutcome (s : State) (a : Nat) (r : DramOutcome) : State :=
  let p := pchOf s a
  match r with
  | .clean => s
  | .corrected => trackCe (bump1 (bump1 s (ctrPchFCe p)) (ctrPchFCeWb p)) (dramRowOf s a)
  | .uncorrectable => candidate (markUe s (a / 32)) (dramRowOf s a)
  | .poisoned => s
  | .onDie => bump1 s (ctrPchFOdecc p)

/-- The second sector of a line with an open miss has come back as well. -/
def missBack (s : State) (x : Nat) : Bool := s.rc.mret.contains (2 * x) && s.rc.mret.contains (2 * x + 1)

/-- DRAM_READ_RETURN (R318): a sector comes back from tier F with this outcome. It counts as what it is read as; when
both sectors of a line with an open miss are back, the line is filled. -/
def dramReturn (s : State) (addr : Nat) (r : DramOutcome) : State :=
  if !inTierF addr 1 || !stackUp s addr || s.mc.selfRef then s
  else
    let x := addr / 64
    let s1 := (dReadSecs (dramOutcome s addr r) (addr / 32 * 32) 1).1
    if missOpen s1 x && !s1.rc.mret.contains (addr / 32) then
      let s2 := { s1 with rc := { s1.rc with mret := s1.rc.mret ++ [addr / 32] } }
      if missBack s2 x then takeFill s2 x else s2
    else s1

/-- DRAM_READ_RETURN. -/
def execDramReadReturn (addr : Nat) (r : DramOutcome) (s : State) : Host.Outcome State Fault Refusal :=
  act s (fun s => dramReturn s addr r)

/-! ### Row remapping (R326) -/

/-- Sectors of a DRAM row that are uncorrectable. -/
def rowUe (s : State) (r : Nat × Nat × Nat) : List Nat := s.mem.ueF.filter (fun x => dramRowOf s (x * 32) == r)

/-- A soft repair takes a resource of the row's bank (R324, R326); the row's cells are new to the tracker. -/
def softUse (x : Stack) (r : Nat × Nat × Nat) : Stack :=
  { x with tracker := mdel x.tracker (trackKey r), soft := mset x.soft (resKey r) (mget x.soft (resKey r) 0 - 1), softRows := x.softRows ++ [(r.1 % 64, r.2)] }

/-- ROW_REMAP of a candidate (R325, R326), while the stack has a soft-repair resource for its bank: its unreadable
sectors keep a poison mark, the repair log takes the row, and the bank was blocked for this many MCLK (log entry 110). -/
def remapRow (s : State) (k : Nat) (r : Nat × Nat × Nat) (mclk : Nat) : State :=
  if !s.mc.cands.contains r then s
  else if !softFree s r then candLeft s r
  else
    let ue := rowUe s r
    let s1 := { s with
      mem := { s.mem with ueF := s.mem.ueF.filter (fun x => !ue.contains x), poisF := ue.foldl sins s.mem.poisF },
      mc := { s.mc with
        cands := s.mc.cands.filter (fun c => c != r),
        stk := mset s.mc.stk k (softUse (stackOf s k) r),
        repairLog := s.mc.repairLog ++ [{ stack := k, pch := r.1 % 64, bank := r.2.1, row := r.2.2, hard := false }] } }
    raiseEvent (bump (bump1 s1 (ctrPchRowRemap r.1)) (ctrPchRemapWait r.1) mclk) 0x23 k (repairEa r) 1

/-- ROW_REMAP. -/
def execRowRemap (stack : Fin 6) (pch : Fin 64) (bank : BitVec 6) (row : BitVec 20) (mclk : Fin 12801) (s : State) :
    Host.Outcome State Fault Refusal :=
  act s (fun s => remapRow s stack (64 * stack.val + pch.val, bank.toNat, row.toNat) mclk)

/-! ### Patrol and refresh (R320, R329) -/

/-- Sectors of one pseudo-channel. -/
def pchSectors : Nat := 2 ^ 25

/-- Controllers run: not in self-refresh, nor parked (R330). -/
def dramLive (s : State) : Bool := !s.mc.selfRef && s.pwr.park != .parked && s.pwr.restart != .running

/-- PATROL_READ (R318, R320): its counts are those of any read, and those of the scrub; sectors in the order of the pseudo-channels and their channel addresses (log entry 29). -/
def patrol (s : State) (k : Nat) (r : DramOutcome) : State :=
  let st := stackOf s k
  if !s.mc.patrol || !st.inService || !dramLive s then s
  else
    let p := 64 * k + st.patrolAt / pchSectors
    let ca := st.patrolAt % pchSectors * 32
    let a := addrOfChan (stripeOf s (ca / 0x200000)) p ca
    let s1 := { s with mc := { s.mc with stk := mset s.mc.stk k { st with
      patrolAt := (st.patrolAt + 1) % (64 * pchSectors) } } }
    if secPoison s1.mem (a / 32) then bump1 s1 (ctrPchFPoisonRd p)
    else if s1.mem.ueF.contains (a / 32) then
      freezeUe (bump1 (bump1 s1 (ctrPchFUe p)) (ctrPchFScrubUe p)) 1 3
    else match r with
      | .corrected => dramOutcome (bump1 s1 (ctrPchFScrubCe p)) a r
      | .uncorrectable => dramOutcome (freezeUe (bump1 (bump1 s1 (ctrPchFUe p)) (ctrPchFScrubUe p)) 1 3) a r
      | _ => dramOutcome s1 a r

/-- PATROL_READ. -/
def execPatrolRead (stack : Fin 6) (r : DramOutcome) (s : State) : Host.Outcome State Fault Refusal :=
  act s (fun s => patrol s stack r)

/-- REFRESH (R329): per-bank refresh of a stack in service changes no data. -/
def execRefresh (stack : Fin 6) (s : State) : Host.Outcome State Fault Refusal :=
  act s (fun s =>
    let st := stackOf s stack
    if st.inService && dramLive s then
      { s with mc := { s.mc with stk := mset s.mc.stk stack { st with refreshes := st.refreshes + 1 } } }
    else s)

end Sys2Proof.Machine
end

