-- ==== Sys2Proof/Machine/MbGroup0.lean ====
section
/-! DEFINITION. Command group 0: identification and events (R505), and the counter records (R550, R551). -/

namespace Sys2Proof.Machine

/-! ### IDENTIFY -/

/-- A bit for each unit that satisfies a test. -/
def unitBits (n : Nat) (p : Nat → Bool) : Nat := (List.range n).foldl (fun a i => a + b2n (p i) * 2 ^ i) 0

def rowIdentify : MbRow := { opc := 0x01, cls := .F, group := 0, lo := 0, hi := 3, used := [], mgmtOnly := false }

/-- IDENTIFY (R505): one bit for each stack, port and link in service (log entry 14). -/
def bodyIdentify (s : State) (_ : MbCtx) : MbOut :=
  .done s rcOk
    [(0, BitVec.ofNat 64 (0x21 + 1 * 2 ^ 8 + 4 * 2 ^ 16 + Config.fwBuild.toNat * 2 ^ 24)),
     (1, BitVec.ofNat 64 (s.mer.fabric.toNat + s.pwr.sl.toNat * 2 ^ 12 +
        unitBits 6 (fun k => (stackOf s k).inService) * 2 ^ 14 + unitBits 8 (portUp s) * 2 ^ 20)),
     (2, BitVec.ofNat 64 (unitBits 48 (fun l => (mget s.tr.links l Link.reset).up)))]

/-- IDENTIFY. -/
def execIdentify (m : MbWrite) (s : State) : Host.Outcome State Fault Refusal := mbox rowIdentify bodyIdentify m s

/-! ### EVENT_READ -/

/-- The 32 bytes of an event record (R502). -/
def eventBytes (e : Event) : List Byte :=
  toBytes 8 e.eseq ++ toBytes 2 e.code.toNat ++ toBytes 2 e.unit ++ toBytes 4 0 ++ toBytes 8 e.ea.toNat ++
    toBytes 8 e.eb.toNat

def rowEventRead : MbRow :=
  { opc := 0x02, cls := .F, group := 0, lo := 0, hi := 3, used := [mask 0 52, mask 0 13], mgmtOnly := false }

/-- The logs after `n` records of the caller's have gone (R501, R505). -/
def eventTake (s : State) (mgmt : Bool) (n : Nat) : State :=
  if mgmt then
    { s with evt := { s.evt with mgmt := s.evt.mgmt.drop n, lostMgmt := 0 },
             pwr := { s.pwr with evtLine := !(s.evt.mgmt.drop n).isEmpty } }
  else
    let s1 := { s with evt := { s.evt with host := s.evt.host.drop n, lostHost := 0 } }
    if s1.evt.host.isEmpty then { s1 with msix := { s1.msix with pba := sdel s1.msix.pba 80 } } else msixFire s1 80

/-- EVENT_READ (R501, R505): oldest records first, removed once written. -/
def bodyEventRead (s : State) (c : MbCtx) : MbOut :=
  let mx := c.f 1 0 13
  if mx = 0 || decide (4096 < mx) then .done s rcInvalid [] else
  withOut s c (c.p 0) (32 * mx) (fun write =>
    let log := (if c.mgmt then s.evt.mgmt else s.evt.host).take mx
    let lost := if c.mgmt then s.evt.lostMgmt else s.evt.lostHost
    .done (eventTake (write s (log.flatMap eventBytes)) c.mgmt log.length) rcOk
      [(0, BitVec.ofNat 64 log.length), (1, BitVec.ofNat 64 lost)])

/-- EVENT_READ. -/
def execEventRead (m : MbWrite) (s : State) : Host.Outcome State Fault Refusal := mbox rowEventRead bodyEventRead m s

/-! ### COUNTER_READ -/

/-- Capacity of the queue whose occupancy a word shows and whose traffic this model performs in single steps (R307, R337);
0 for any other word. -/
def occCap (n w : Nat) : Nat :=
  if n = 3 && w == 2 then 64 else if n = 3 && w == 3 then 32 else if n = 5 && w == 2 then 256
  else if n = 6 && (w == 0 || w == 2) then 64 else 0

/-- The word counts cycles in which such a queue is full: `MCQ_FULL`, `CPQ_FULL`, `RC_STALL`. -/
def isFullCtr (n w : Nat) : Bool := (n == 3 && w == 4) || (n == 5 && w == 3) || (n == 6 && w == 3)

/-- Cycles in which a queue was full, since the last block reset or clearing read (log entry 111). -/
def fullCycles (s : State) (k : Nat) : Nat :=
  let b := mget s.ctrBase k s.aclk0
  ((List.range (s.aclk - b)).filter (fun i => Config.queueFull k (b + i))).length

/-- The value of a counter word: gauges are computed, the rest is stored (R549, R552; log entry 111). -/
def ctrValue (s : State) (n u w : Nat) : Nat :=
  let t := tileOf s u
  if n = 0 && w == 3 then (t.gcq.filter (fun x => x.1)).length
  else if n = 0 && w == 4 then (t.gcq.filter (fun x => !x.1)).length
  else if n = 0 && w == 5 then t.lcUsed
  else if n = 0 && w == 6 then t.beUsed
  else if n = 6 && w == 1 then (((s.rc.mshr.map (fun x => x.x)).dedup).filter (fun x => homeSlice s x == u)).length
  else if n = 10 && decide (5 ≤ w) && w % 2 == 1 then
    ((mget s.tr.links u Link.reset).sendq.filter (fun f => 2 * f.cls + f.leg == (w - 5) / 2)).length
  else if n = 12 && w == 17 then s.str.faults.length
  else if occCap n w != 0 then Config.queueHolds (ctrKey n u w) s.aclk % (occCap n w + 1)
  else if isFullCtr n w then fullCycles s (ctrKey n u w)
  else ctr s (ctrKey n u w)

/-- The word is an event counter, which a clearing read clears (R550). -/
def isEventCtr (n w : Nat) : Bool :=
  !((n == 0 && [3, 4, 5, 6, 28].contains w) || (n == 1 && decide (39 ≤ w)) || (n == 3 && decide (w < 4)) ||
    (n == 5 && decide (w < 3)) || (n == 6 && decide (w < 3)) || (n == 8 && w == 1) ||
    (n == 10 && decide (5 ≤ w) && w % 2 == 1) || (n == 12 && w == 17))

/-- The record of one unit (R551); `i` is its place among the records of one read. -/
def ctrRecord (s : State) (n u i : Nat) : List Byte :=
  let k := ctrWords.getD n 0
  toBytes 8 (n + u * 2 ^ 8 + k * 2 ^ 24) ++ toBytes 8 s.load.mwNum.toNat ++
    toBytes 8 ((s.load.mwAclk.toNat + i) % 2 ^ 48) ++ toBytes 8 0 ++
    (List.range k).flatMap (fun w => toBytes 8 (ctrValue s n u w))

/-- Clears the event counters of a unit as they stood when the record was captured, in `t`: what has been counted since
stays (R12, R550). -/
def ctrClear (t s : State) (n u : Nat) : State :=
  let mine (k : Nat) : Bool := decide (ctrKey n u 0 ≤ k) && decide (k ≤ ctrKey n u 63) && isEventCtr n (k - ctrKey n u 0)
  { s with
    ctrs := s.ctrs.filterMap (fun x =>
      if !mine x.1 then some x
      else
        let v := (x.2 + 2 ^ 64 - ctr t x.1) % 2 ^ 64
        if v = 0 then none else some (x.1, v)),
    ctrBase := ((List.range (ctrWords.getD n 0)).filter (isFullCtr n)).foldl (fun m w => mset m (ctrKey n u w) t.aclk) s.ctrBase }

def rowCounterRead : MbRow :=
  { opc := 0x03, cls := .S, group := 0, lo := 0, hi := 3, used := [mask 0 8, mask 0 16, mask 0 52],
    mgmtOnly := false }

/-- COUNTER_READ (R550, R551). -/
def bodyCounterRead (s : State) (c : MbCtx) : MbOut :=
  let a := c.f 0 0 8
  let n := a % 128
  let sel := c.f 1 0 16
  let units := ctrUnits.getD n 0
  if decide (13 < n) || (sel != 0xFFFF && decide (units ≤ sel)) then .done s rcInvalid [] else
  let us := if sel = 0xFFFF then List.range units else [sel]
  let bytes := us.length * (32 + 8 * ctrWords.getD n 0)
  withOut s c (c.p 2) bytes (fun write =>
    let s1 := write s (us.zipIdx.flatMap (fun x => ctrRecord s n x.1 x.2))
    .done (if decide (128 ≤ a) then us.foldl (fun t u => ctrClear s t n u) s1 else s1) rcOk
      [(0, BitVec.ofNat 64 bytes)])

/-- COUNTER_READ. -/
def execCounterRead (m : MbWrite) (s : State) : Host.Outcome State Fault Refusal :=
  mbox rowCounterRead bodyCounterRead m s

/-! ### The binding table (R485, R486) -/

def rowBindChannel : MbRow :=
  { opc := 0x04, cls := .F, group := 0, lo := 0, hi := 0, used := [mask 0 6 + mask 8 8], mgmtOnly := true }

/-- BIND_CHANNEL (R486, R505): the issuing channel cannot unbind itself. -/
def bodyBindChannel (s : State) (c : MbCtx) : MbOut :=
  let k := c.f 0 0 4
  let ms := c.f 0 4 2
  if s.mer.locked then .done s rcBadState []
  else if ms = 3 || (k == c.ch && ms == 0) then .done s rcInvalid []
  else .done (setChan s k { chanOf s k with master := BitVec.ofNat 2 ms, groups := BitVec.ofNat 8 (c.f 0 8 8) }) rcOk []

/-- BIND_CHANNEL. -/
def execBindChannel (m : MbWrite) (s : State) : Host.Outcome State Fault Refusal :=
  mbox rowBindChannel bodyBindChannel m s

def rowLockBindings : MbRow :=
  { opc := 0x05, cls := .F, group := 0, lo := 0, hi := 0, used := [], mgmtOnly := true }

/-- LOCK_BINDINGS (R486). -/
def bodyLockBindings (s : State) (_ : MbCtx) : MbOut := .done { s with mer := { s.mer with locked := true } } rcOk []

/-- LOCK_BINDINGS. -/
def execLockBindings (m : MbWrite) (s : State) : Host.Outcome State Fault Refusal :=
  mbox rowLockBindings bodyLockBindings m s

end Sys2Proof.Machine
end

