-- ==== Sys2Proof/Machine/Pooling.lean ====
section
/-! DEFINITION. Pooling arithmetic (chapter 5): weights, lane tops, contributions, group splits, promotion, MAX and
MIN, statistics. -/

namespace Sys2Proof.Machine

/-! ### Weights (R142) -/

/-- What rounding a weight gives. -/
structure Weight where
  w : BF16
  /-- the weight makes its position a member -/
  ok : Bool
  flush : Bool
  nonfinite : Bool
  deriving DecidableEq, Repr

/-- The weight 1.0 of an unweighted position. -/
def Weight.one : Weight := { w := 0x3F80, ok := true, flush := false, nonfinite := false }

/-- Rounds and classifies a weight. -/
def weightOf (x : F32) : Weight :=
  let r := bf16OfF32 x
  if !f32Finite x || !bfFinite r then { w := 0, ok := false, flush := false, nonfinite := true }
  else if bfZero r then { w := r, ok := false, flush := false, nonfinite := false }
  else if bfExp r = 0 then { w := 0, ok := false, flush := true, nonfinite := false }
  else { w := r, ok := true, flush := false, nonfinite := false }

/-! ### Members (R139 to R143) -/

/-- A member of a group: poisoned, or its columns as m × 2^ux and the top of each block; `live` marks the blocks whose
exponent byte is not 0x00 (R148). -/
structure PMember where
  poison : Bool
  cols : List (Int × Int)
  tops : List Int
  live : List Bool
  deriving DecidableEq, Repr

/-- A decoded column under a weight (R143). -/
def weightCol (weighted : Bool) (w : BF16) (x : DecCol) : Int × Int :=
  if weighted then
    (x.m * (if bfNeg w then -(bfSig w : Int) else bfSig w), x.ux + (bfExp w : Int) - 134)
  else (x.m, x.ux)

/-- The top of block b of a slice (R143). -/
def blockTop (weighted : Bool) (w : BF16) (e : Nat) : Int :=
  if weighted then (e : Int) + bfExp w - 252 else (e : Int) - 126

/-- The member that a slice makes. -/
def memberOf (sl : List Byte) (cb : Codebook) (c : Nat) (poison weighted : Bool) (w : BF16) : PMember :=
  if poison then { poison := true, cols := [], tops := [], live := [] }
  else
    { poison := false, cols := (decodeSlice sl cb c).map (weightCol weighted w),
      tops := (List.range (c / 32)).map (fun b => blockTop weighted w (slBlk sl b)),
      live := (List.range (c / 32)).map (fun b => slBlk sl b != 0) }

/-- Group size and contribution precision of a descriptor (R139, R141). -/
def groupLen (gsize : Nat) : Nat := 4 * 2 ^ gsize
def groupPrec (gsize : Nat) : Int := 17 - gsize

/-! ### Alignment (R145) -/

/-- The contribution of m × 2^ux at a lane top, and whether a remainder was lost. -/
def contribution (p tb m ux : Int) : Int × Bool :=
  let sh := tb - p - ux
  if sh ≤ 0 then (m * 2 ^ (-sh).toNat, false)
  else
    let k := rneShift m.natAbs sh.toNat false
    (if m < 0 then -(k : Int) else k, m.natAbs % 2 ^ sh.toNat != 0)

/-- The largest top of block b over members, none when all are poisoned. -/
def topOf (ms : List PMember) (b : Nat) : Option Int :=
  ms.foldl (fun t m => if m.poison then t else
    match t with
    | none => some (m.tops.getD b 0)
    | some x => some (max x (m.tops.getD b 0))) none

/-- The lane sums of a list of members at given tops. -/
def laneSums (p : Int) (tops : List (Option Int)) (ms : List PMember) (c : Nat) : List Int :=
  (List.range c).map (fun j =>
    match tops.getD (j / 32) none with
    | none => 0
    | some t => ms.foldl (fun a m => if m.poison then a else
        let x := m.cols.getD j (0, 0)
        a + (contribution p t x.1 x.2).1) 0)

/-- Members and blocks with a lost remainder at the final tops (R147). -/
def lossCount (p : Int) (tops : List (Option Int)) (ms : List PMember) (c : Nat) : Nat :=
  ms.foldl (fun n m => if m.poison then n else
    n + ((List.range (c / 32)).filter (fun b => (List.range 32).any (fun i =>
      let x := m.cols.getD (32 * b + i) (0, 0)
      (contribution p ((tops.getD b none).getD 0) x.1 x.2).2))).length) 0

/-! ### Splits and promotion (R148 to R151) -/

/-- Least and greatest top of each block in the current subgroup. -/
def spreadAdd (r : List (Option (Int × Int))) (m : PMember) : List (Option (Int × Int)) :=
  if m.poison then r else
  r.zipIdx.map (fun x =>
    if !m.live.getD x.2 false then x.1
    else
      let t := m.tops.getD x.2 0
      match x.1 with
      | none => some (t, t)
      | some (lo, hi) => some (min lo t, max hi t))

/-- The spread of a subgroup is above 8. -/
def spreadOver (r : List (Option (Int × Int))) : Bool :=
  r.any (fun x => match x with
    | some (lo, hi) => decide (8 < hi - lo)
    | none => false)

/-- Cuts members, in position order, into subgroups: `cur` holds the current subgroup, newest first. -/
def splitGo (nb : Nat) : List PMember → List PMember → List (Option (Int × Int)) → List (List PMember)
  | [], cur, _ => if cur.isEmpty then [] else [cur.reverse]
  | m :: ms, cur, r =>
    let r' := spreadAdd r m
    if !cur.isEmpty && spreadOver r' then
      cur.reverse :: splitGo nb ms [m] (spreadAdd (List.replicate nb none) m)
    else splitGo nb ms (m :: cur) r'

/-- The subgroups of a group. -/
def subgroups (ms : List PMember) (c : Nat) : List (List PMember) :=
  splitGo (c / 32) ms [] (List.replicate (c / 32) none)

/-- Closing a subgroup: its promoted lanes and its count of losses (R147, R150). -/
def closeSub (p : Int) (ms : List PMember) (c : Nat) : List F32 × Nat :=
  let tops := (List.range (c / 32)).map (topOf ms)
  let l := laneSums p tops ms c
  (l.zipIdx.map (fun x => f32OfInt x.1 ((tops.getD (x.2 / 32) none).getD 0 - p)), lossCount p tops ms c)

/-- The bag's accumulator after a subgroup (R151). -/
def accAdd (acc : Option (List F32)) (f : List F32) : List F32 :=
  match acc with
  | none => f
  | some a => List.zipWith f32Add a f

/-! ### MAX and MIN (R154 to R156) -/

/-- The no-winner value. -/
def noWinner : W32 := 0xFFFFFFFF#32

/-- A column's best value so far and its winner, against one more value (R154): the first one wins a tie. -/
def pickCol (isMax : Bool) (best : Option (F32 × W32)) (v : F32) (pos : Nat) : Option (F32 × W32) :=
  match best with
  | none => some (v, BitVec.ofNat 32 pos)
  | some (x, w) =>
    if (if isMax then f32Cmp x v < 0 else f32Cmp v x < 0) then some (v, BitVec.ofNat 32 pos) else some (x, w)

/-- Values and winners over members, each with its position relative to the bag's first: +0 and no winner in a column
that no member entered. -/
def pickAll (isMax : Bool) (c : Nat) (ms : List (Nat × List F32)) : List F32 × List W32 :=
  let r := (List.range c).map (fun j => ms.foldl (fun b m => pickCol isMax b (m.2.getD j 0) m.1) none)
  (r.map (fun x => (x.map (fun y => y.1)).getD 0), r.map (fun x => (x.map (fun y => y.2)).getD noWinner))

/-! ### Output values and statistics (R152, R153, R160, R161) -/

/-- Writes every NaN as the quiet one (R152). -/
def cleanOut (v : List F32) : List F32 := v.map (fun x => if f32IsNaN x then f32NaN else x)

/-- MEAN divides by the count of valid rows (R153). -/
def meanOut (v : List F32) (n : Nat) : List F32 := v.map (fun x => f32DivNat x n)

/-- The fused statistics of a record (R160). -/
def statBytes (v : List F32) : List Byte :=
  let best := v.zipIdx.foldl (fun (b : Option (F32 × Nat)) x =>
    if f32IsNaN x.1 then b else
    match b with
    | none => some x
    | some y => if f32Cmp y.1 x.1 < 0 then some x else b) none
  let (mx, col) := best.getD (0, 0)
  toBytes 4 mx.toNat ++ toBytes 4 (treeSum v).toNat ++ toBytes 4 (treeSum (v.map (fun x => f32Mul x x))).toNat ++
    toBytes 2 col ++ toBytes 2 0

/-- The bag header (R111). -/
def bagHeader (r : FanRec) : List Byte :=
  toBytes 4 r.bag ++ toBytes 4 r.nvalid ++ toBytes 4 r.npos ++
    toBytes 4 (b2n r.empty + b2n r.poison * 2 + b2n r.dropped * 4)

end Sys2Proof.Machine
end

