-- ==== Sys2Proof/Machine/Links.lean ====
section
/-! DEFINITION. Streams as the rest of the block sees them: their states, their binding to a command, and the end of a
DISARM_STREAM (R366, R371, R374, R376). -/

namespace Sys2Proof.Machine

def strmOf (s : State) (n : Nat) : Strm := mget s.str.streams n Strm.reset
def setStrm (s : State) (n : Nat) (x : Strm) : State := { s with str := { s.str with streams := mset s.str.streams n x } }

/-- The tile whose engine runs the stream: the descriptor's, or Orrery's choice, one for each stream number (R367). -/
def strmTile (n : Nat) (d : SDesc) : Nat := if d.tile < 48 then d.tile else n % 48

/-- Capacity of the stream's link in lines (R372). -/
def linkCap (d : SDesc) : Nat := if d.kind = 0 then d.linkcap else d.credits * 1024

/-- The block has a role on a link of the stream (R372). -/
def hasLink (d : SDesc) : Bool := d.kind != 0 || d.lrole != 0

/-- The stream's link is CLOSED (R381). -/
def strmClosed (s : State) (x : Strm) : Bool :=
  hasLink x.d && s.str.closedLinks.any (fun l => l.p == x.d.semP && l.c == x.d.semC)

/-- A semaphore has been rewritten: a CLOSED link opens when both of its semaphores have been (R381). -/
def linkSet (s : State) (i : Nat) : State :=
  { s with str := { s.str with closedLinks := (s.str.closedLinks.map (fun l =>
      { l with pSet := l.pSet || l.p == i, cSet := l.cSet || l.c == i })).filter (fun l => !(l.pSet && l.cSet)) } }

/-- A DISARM_STREAM waits for the stream (R376, R494). -/
def disarmWaits (s : State) (n : Nat) : Bool :=
  s.mer.lruns.any (fun r => match r with | .disarm _ x => x == n | _ => false)

/-- The stream becomes DISARMED, its reservation is free, and a waiting DISARM_STREAM completes (R376). -/
def strmDisarm (s : State) (n : Nat) : State :=
  let s1 := setStrm s n Strm.reset
  endRuns s1 (fun r => match r with | .disarm _ x => x == n | _ => false) lrunChan rcOk []

/-- The stream becomes IDLE (R374): a waiting DISARM_STREAM ends. -/
def strmIdle (s : State) (n : Nat) : State :=
  let s1 := setStrm s n { strmOf s n with st := .idle, bound := none }
  if disarmWaits s1 n then strmDisarm s1 n else s1

/-- A stream of kind 3 or 4 that no command is bound to and whose staging holds no line is IDLE (R374). -/
def strmRest (s : State) (n : Nat) : State :=
  let x := strmOf s n
  if x.bound.isNone && x.staged.isEmpty && x.st != .disarmed && x.st != .idle then strmIdle s n else s

/-- The command lets go of every stream bound to it (R371); a stream of kind 0 to 2 is IDLE once its record is written
(R374). -/
def unbind (s : State) (cid : Nat) : State :=
  (s.str.streams.filter (fun e => e.2.bound == some cid)).foldl (fun t e =>
    if e.2.d.kind < 3 then strmIdle t e.1
    else strmRest (setStrm t e.1 { strmOf t e.1 with bound := none }) e.1) s

/-- The stream serves no other command, and none that came earlier waits for it (R371). -/
def mayBind (s : State) (n cid : Nat) : Bool :=
  let x := strmOf s n
  (x.bound.isNone || x.bound == some cid) &&
    !s.orr.cmds.any (fun c => decide (c.cid < cid) && c.phase == .waiting && c.bound == some n && x.bound != some cid)

end Sys2Proof.Machine
end

