-- ==== Sys2Proof/Machine/Queues.lean ====
section
/-! DEFINITION. Queues, semaphores, fetching and completion (R447 to R462), and the queue-control commands. -/

namespace Sys2Proof.Machine

/-! ### Queues and commands in flight -/

def qOf (s : State) (q : Nat) : Queue := mget s.orr.queues q Queue.reset
def setQ (s : State) (q : Nat) (x : Queue) : State := { s with orr := { s.orr with queues := mset s.orr.queues q x } }
def cmdOf (s : State) (cid : Nat) : Option Cmd := s.orr.cmds.find? (fun c => c.cid == cid)
def updCmd (s : State) (cid : Nat) (f : Cmd → Cmd) : State :=
  { s with orr := { s.orr with cmds := s.orr.cmds.map (fun c => if c.cid = cid then f c else c) } }
def addCmd (s : State) (c : Cmd) : State := { s with orr := { s.orr with cmds := s.orr.cmds ++ [c] } }
def dropCmd (s : State) (cid : Nat) : State :=
  { s with orr := { s.orr with cmds := s.orr.cmds.filter (fun c => c.cid != cid) } }

/-- Word n of a command's descriptor, and a field of it. -/
def Cmd.w (c : Cmd) (n : Nat) : W64 := c.words.getD n 0
def Cmd.f (c : Cmd) (n lo w : Nat) : Nat := fld (c.w n) lo w

/-- The command's opcode field (W0 [7:0]). -/
def Cmd.op (c : Cmd) : Nat := c.f 0 0 8

/-- The command's queue class is LC (R447). -/
def qLc (s : State) (q : Nat) : Bool := ((qOf s q).conf.map (fun c => c.lc)).getD false

/-- Fetched commands and task launches of a queue (R452): nodes of a launch and streams are not among them. -/
def ownsSlot (c : Cmd) : Bool :=
  match c.own with
  | .queue => true
  | .task _ => true
  | _ => false
def inflight (s : State) (q : Nat) : Nat := (s.orr.cmds.filter (fun c => c.q == q && ownsSlot c)).length

/-- Every command of the queue with a lower sequence number has written its record. -/
def earlierDone (s : State) (c : Cmd) : Bool :=
  !s.orr.cmds.any (fun d => d.q == c.q && decide (d.seq < c.seq) && (match d.own with | .node _ _ => false | _ => true))

/-- SEM_WAIT, SEM_SIGNAL or FENCE of a queue (R457). -/
def isControl (c : Cmd) : Bool := c.own == .queue && !c.badLine && [0x07, 0x08, 0x0A].contains c.op

/-- The command waits behind a stream of its queue that is parked on a fault, or its queue is switched out (R383). -/
def faultHolds (s : State) (c : Cmd) : Bool :=
  (qOf s c.q).st == .switched ||
    s.str.streams.any (fun e => e.2.bound.isSome && e.2.d.queue == c.q && e.2.st == .faultParked && decide (e.2.seq < c.seq))

/-- No earlier queue-control command of the queue is in flight (R457), and no fault holds the queue (R383). -/
def mayStart (s : State) (c : Cmd) : Bool :=
  c.phase == .fetched && !faultHolds s c &&
    !s.orr.cmds.any (fun d => d.q == c.q && decide (d.seq < c.seq) && isControl d) &&
    s.pwr.restart != .running

/-- Fetching waits for CACK (R451). -/
def cackFull (x : Queue) : Bool :=
  match x.conf with
  | some c => x.fetch != x.tail && decide (2 ^ c.log2cn < x.nextSeq - x.cack.toNat)
  | none => false

/-- The queue is held by a queue-control command, a PARK fault or CFULL (R452). -/
def qBlocked (s : State) (q : Nat) : Bool :=
  s.orr.cmds.any (fun c => c.q == q && isControl c && c.phase != .done) || cackFull (qOf s q) ||
    s.str.streams.any (fun e => e.2.bound.isSome && e.2.d.queue == q && e.2.st == .faultParked)

/-- Recomputes a queue's STATE and CFULL; this is also the comparison of R453. A queue that is STOPPED, SWITCHED,
HUNG, or IDLE until its wake (R454) keeps its state. -/
def qRefresh (s : State) (q : Nat) : State :=
  let x := qOf s q
  let st := match x.st with
    | .stopped => QState.stopped
    | .switched => .switched
    | .hung => .hung
    | .idle => .idle
    | _ => if x.fetch == x.tail && inflight s q == 0 then .idle else if qBlocked s q then .blocked else .running
  setQ s q { x with st := st, cfull := cackFull x }

/-- Progress of a queue (R476); a HUNG queue returns to RUNNING (R477). -/
def qProg (s : State) (q : Nat) : State :=
  let s1 := bumpProg s (ctrQueueQProg q) 1
  let x := qOf s1 q
  if x.st = .hung then setQ s1 q { x with st := .running } else s1

/-! ### Doorbells (R449, R450, R454, R585) -/

/-- The write of R450 is accepted. -/
def doorbellOk (x : Queue) (v : W32) : Bool :=
  match x.conf with
  | some c => x.st != .stopped && decide ((v - x.fetch).toNat ≤ 2 ^ c.log2n) && decide ((v - x.tail).toNat < 2 ^ 31)
  | none => false

/-- A doorbell: refused under R450 and R585, or applied to TAIL; an IDLE queue becomes pending (R454), and a parked
block wakes, with the fetch after the wake (R521, R522). -/
def ringDoorbell (s : State) (q : Nat) (v : W32) : State :=
  let x := qOf s q
  if !doorbellOk x v then bump1 (setQ s q { x with dbErr := true }) (ctrQueueDbRefused q)
  else
    let x1 := { x with tail := v, pendingDb := x.pendingDb || (x.st == .idle && v != x.fetch) }
    let s1 := setQ s q x1
    if s1.pwr.park != .running && x1.pendingDb then wakeUp (hold s1 (.fetch q)) else qRefresh s1 q

/-- Of the values that both sources write in one ACLK, the one that is farther from the fetch index (R450). -/
def fartherDoorbell (x : Queue) (v : W32) (other : Option W32) : W32 :=
  match other with
  | some w => if (v - x.fetch).toNat < (w - x.fetch).toNat then w else v
  | none => v

/-- DOORBELL (R449, R450), with the value that the chip port writes in the same ACLK, if it does: one is applied, and the
other discarded. Where the host's write waits behind its earlier ones (R410), the chip port's stands alone. -/
def execDoorbell (q : Fin 64) (d : DbWrite) (s : State) : Host.Outcome State Fault Refusal :=
  let r : Held := .reg (0x20000 + 0x40 * q.val) [d.value]
  match d.other with
  | some w =>
    if !stopped s && mustWait s r then act s (fun s => hold (ringDoorbell s q w) r)
    else barAct s (0x20000 + 0x40 * q.val) [d.value]
      (fun s => ringDoorbell s q (fartherDoorbell (qOf s q) (d.value.truncate 32) (some w)))
  | none => barAct s (0x20000 + 0x40 * q.val) [d.value] (fun s => ringDoorbell s q (d.value.truncate 32))

/-- CHIP_PORT_DOORBELL (R449, R450). -/
def execChipPortDoorbell (q : Fin 64) (v : W32) (s : State) : Host.Outcome State Fault Refusal :=
  act s (fun s => ringDoorbell s q v)

/-- `QCACK` (R586). -/
def writeQcack (s : State) (q : Nat) (v : W64) : State :=
  let x := qOf s q
  if v.toNat < x.cack.toNat then s
  else qRefresh (setQ s q { x with cack := if x.cseq < v.toNat then BitVec.ofNat 64 x.cseq else v }) q

/-- QCACK_WRITE (R586). -/
def execQcackWrite (q : Fin 64) (v : W64) (s : State) : Host.Outcome State Fault Refusal :=
  barAct s (0x20008 + 0x40 * q.val) [v] (fun s => writeQcack s q v)

/-! ### Fetching (R451, R458, R537) -/

/-- A new command of a queue with every count at 0. -/
def Cmd.new (cid q seq : Nat) (own : Owner) (words : List W64) (bad : Bool) (stamp : W32) (opc : Nat) : Cmd :=
  { cid := cid, q := q, seq := seq, own := own, words := words, badLine := bad, stamp := stamp, phase := .fetched,
    bound := none, drops := false, poison := false, fail := none, cnt0 := 0, cnt1 := 0, cnt2 := 0, rankLost := false,
    promoted := false, notPromoted := false, wclass := 0, version := 0, opc := opc, ranks := [], plan := 0, pver := 0,
    ord := 0, src := none, warm := none, nodesDone := [], nodesSkipped := [], usesHost := false, ended := false }

/-- Below SL3 the command is held (R537). -/
def heldBelow (s : State) (op : Nat) : Bool :=
  decide (s.pwr.sl.toNat < 3) && ([0x02, 0x03, 0x04].contains op || (s.pwr.fullSr && op == 0x01))

/-- A command enters Orrery. -/
def fetchIn (s : State) (q seq : Nat) (own : Owner) (words : List W64) (bad : Bool) (opc : Nat) : State :=
  let c := Cmd.new s.orr.nextCid q seq own words bad s.xlt.xgen opc
  let c1 := if !bad && heldBelow s c.op then { c with phase := .held } else c
  addCmd { s with orr := { s.orr with nextCid := s.orr.nextCid + 1 } } c1

/-- Takes entry F of a queue: the descriptor's bytes, stamped and numbered (R451, R458). -/
def fetchTake (s : State) (q : Nat) (bytes : List Byte) (bad : Bool) : State :=
  let x := qOf s q
  let ws := (List.range 8).map (fun i => BitVec.ofNat 64 (numAt bytes (8 * i) 8))
  let s1 := setQ s q { x with fetch := x.fetch + 1, nextSeq := x.nextSeq + 1 }
  let s2 := fetchIn s1 q x.nextSeq .queue ws bad (numAt bytes 0 1)
  qRefresh (qProg s2 q) q

/-- Orrery may fetch from the queue (R451); from a host-resident one only with the host path up (R415). -/
def mayFetch (s : State) (q : Nat) : Bool :=
  let x := qOf s q
  match x.conf with
  | none => false
  | some c => decide (1 ≤ s.pwr.sl.toNat) && s.pwr.park == .running && s.pwr.restart != .running &&
      (!c.hostRes || hostUp s) && (x.st == .running || x.st == .blocked) && x.fetch != x.tail && decide (inflight s q < c.depth) && !cackFull x &&
      !s.hp.reads.any (fun r => r.what == .fetch q)

/-- The fetch of entry F: from device memory at once, from a host-resident ring by a host read (R451, R599). A ring
that no longer translates reads as poisoned (log entry 20). -/
def fetchQ (s : State) (q : Nat) : State :=
  if !mayFetch s q then s else
  match (qOf s q).conf with
  | none => s
  | some c =>
    let v := c.ring + (qOf s q).fetch.toNat % 2 ^ c.log2n * 64
    match extPieces s true 0 v 64 with
    | .ok [p] =>
      if p.host then hostRead s p.pa 64 (.fetch q)
      else if inTiers p.pa 64 then
        let (s1, d, marks) := readExt s p.pa 64 0
        fetchTake s1 q d (marks.any id)
      else fetchTake s q (List.replicate 64 0) true
    | _ => fetchTake s q (List.replicate 64 0) true

/-- QUEUE_FETCH (R451). -/
def execQueueFetch (q : Fin 64) (s : State) : Host.Outcome State Fault Refusal := act s (fun s => fetchQ s q)

/-- QUEUE_WAKE (R454): an IDLE queue with a pending doorbell becomes RUNNING, and the fetch of entry F issues. -/
def wakeQ (s : State) (q : Nat) : State :=
  let x := qOf s q
  if x.st == .idle && x.pendingDb && s.pwr.park == .running && s.pwr.restart != .running then
    fetchQ (setQ s q { x with st := .running, pendingDb := false }) q
  else s

/-- QUEUE_WAKE. -/
def execQueueWake (q : Fin 64) (s : State) : Host.Outcome State Fault Refusal := act s (fun s => wakeQ s q)

/-! ### Ending a command -/

/-- Every effect of the command has been made. -/
def finish (s : State) (cid : Nat) : State := updCmd s cid (fun c => { c with phase := .done })

/-- The drops and the records with POISON of a LOOKUP so far, on the ranks whose records have come and on this one, are
recorded whichever status ends it (R18, R100, R135). -/
def lkCounts (s : State) (cid : Nat) : State :=
  match s.orr.jobs.find? (fun j => j.cid == some cid) with
  | none => s
  | some j => updCmd s cid (fun c => { c with cnt0 := j.rankDrops.foldl max j.drops, cnt1 := j.poisoned })

/-- The command ends now with a status that is the one to report, whatever it had met before (R18). -/
def endCmd (s : State) (cid : Nat) (st : BitVec 8) : State :=
  updCmd (lkCounts s cid) cid (fun c => { c with phase := .done, fail := some st, ended := true })

/-- The command ends with a failure status; a status already set stays (R18). -/
def failCmd (s : State) (cid : Nat) (st : BitVec 8) : State :=
  updCmd s cid (fun c => { c with phase := .done, fail := c.fail.orElse (fun _ => some st), ended := true })

/-- QUEUE_RESERVED_OPCODE (R14, R451, R456): a reserved opcode, or a descriptor read from a poisoned line. -/
def execQueueReservedOpcode (cid : Nat) (s : State) : Host.Outcome State Fault Refusal :=
  act s (fun s => match cmdOf s cid with
    | some c => if mayStart s c && (c.badLine || c.op == 0 || decide (0x0B ≤ c.op)) then failCmd s cid 0x40 else s
    | none => s)

/-! ### Semaphores and queue-control commands (R455 to R457) -/

def semOf (s : State) (i : Nat) : W32 := mget s.orr.sems i 0

/-- A value s has reached v (R455). -/
def reached (x v : W32) : Bool := decide ((x - v).toNat < 2 ^ 31)

/-- A task whose trigger the semaphore has reached wakes a parked block (R522). -/
def taskDue (s : State) : Bool :=
  s.orr.tasks.any (fun e => e.2.en && reached (semOf s e.2.sem) e.2.t)

/-- SET or ADD of a semaphore (R455). -/
def semChange (s : State) (i : Nat) (add : Bool) (v : W32) : State :=
  let s0 := { s with orr := { s.orr with sems := mset s.orr.sems i (if add then semOf s i + v else v) } }
  let s1 := if add then s0 else linkSet s0 i
  if s1.pwr.park != .running && taskDue s1 then wakeUp s1 else s1

/-- A SET from a source, given by its place in the order of R455. Of two that reach a semaphore in one ACLK, the one from the
lower source takes effect, and the other counts as lost. -/
def semSet (s : State) (i : Nat) (v : W32) (src : List Nat) (same : Bool) : State :=
  let put (s : State) : State :=
    let s1 := semChange s i false v
    { s1 with orr := { s1.orr with semSets := mset s1.orr.semSets i src } }
  match same, mget? s.orr.semSets i with
  | true, some o => if o < src then bump1 s ctrChipSemSetLost else put (bump1 s ctrChipSemSetLost)
  | _, _ => put s

/-- SET or ADD of a source. -/
def semDo (s : State) (i : Nat) (add : Bool) (v : W32) (src : List Nat) (same : Bool) : State :=
  if add then semChange s i true v else semSet s i v src same

/-- SEM_VAL_WRITE (R455, R588). -/
def execSemValWrite (i : Fin 1024) (w : SemWrite) (s : State) : Host.Outcome State Fault Refusal :=
  barAct s (0x30000 + 8 * i.val) [w.value] (fun s => semSet s i (w.value.truncate 32) [0] w.same)

/-- SEM_ADD_WRITE (R588): ADDs on consecutive semaphores, in ascending order. -/
def execSemAddWrite (i : Fin 1024) (vs : List W64) (s : State) : Host.Outcome State Fault Refusal :=
  barAct s (0x32000 + 8 * i.val) vs (fun s => vs.zipIdx.foldl (fun t x =>
    if i.val + x.2 < 1024 then semChange t (i.val + x.2) true (x.1.truncate 32) else t) s)

/-- CHIP_PORT_SEMAPHORE (R455), from an attachment of the dense engines (R22). -/
def execChipPortSemaphore (i : Fin 1024) (add : Bool) (m : SemMsg) (s : State) : Host.Outcome State Fault Refusal :=
  act s (fun s => semDo s i add m.value [1, m.att] m.same)

/-- Words 2 to 7 and the bits that a queue-control command does not use are zero (R456). -/
def controlOk (c : Cmd) : Bool :=
  (c.words.drop 2).all (fun w => w == 0) &&
    (if c.op = 0x07 then c.f 0 18 46 == 0 && c.f 1 32 32 == 0
     else if c.op = 0x08 then c.f 0 19 45 == 0 && c.f 1 32 32 == 0
     else if c.op = 0x09 then c.f 0 16 48 == 0 && c.w 1 == 0
     else c.f 0 8 56 == 0 && c.w 1 == 0)

/-- A command of the given opcode that may start, or that has started and waits, goes on. -/
def withCmd (s : State) (cid op : Nat) (f : Cmd → State → State) : State :=
  match cmdOf s cid with
  | some c => if !c.badLine && c.op == op && mayStart s c then f c s else s
  | none => s

/-- The command waits; its queue is BLOCKED (R457). -/
def waitCmd (s : State) (c : Cmd) : State := qRefresh (updCmd s c.cid (fun c => { c with phase := .waiting })) c.q

/-- SEM_WAIT (R456, R457). -/
def execSemWait (cid : Nat) (s : State) : Host.Outcome State Fault Refusal :=
  act s (fun s => withCmd s cid 0x07 (fun c s =>
    if !controlOk c then failCmd s cid 0x40
    else if reached (semOf s (c.f 0 8 10)) ((c.w 1).truncate 32) then finish s cid
    else waitCmd s c))

/-- SEM_WAIT_RELEASE (R457). -/
def execSemWaitRelease (cid : Nat) (s : State) : Host.Outcome State Fault Refusal :=
  act s (fun s => match cmdOf s cid with
    | some c => if c.op == 0x07 && c.phase == .waiting && reached (semOf s (c.f 0 8 10)) ((c.w 1).truncate 32) then
        finish s cid else s
    | none => s)

/-- A command's place in the order of R455: its queue, its sequence number, and its node index in a launch. -/
def cmdSource (c : Cmd) : List Nat := [2, c.q, c.seq, (match c.own with | .node _ n => n | _ => 0)]

/-- SEM_SIGNAL (R457): after every earlier command of the queue has completed. -/
def execSemSignal (g : SignalAt) (s : State) : Host.Outcome State Fault Refusal :=
  act s (fun s => withCmd s g.cid 0x08 (fun c s =>
    if !controlOk c then failCmd s g.cid 0x40
    else if c.own != .queue || earlierDone s c then
      finish (semDo s (c.f 0 8 10) (bit (c.w 0) 18) ((c.w 1).truncate 32) (cmdSource c) g.same) g.cid
    else qRefresh s c.q))

/-- FENCE (R456, R457). -/
def execFence (cid : Nat) (s : State) : Host.Outcome State Fault Refusal :=
  act s (fun s => withCmd s cid 0x0A (fun c s =>
    if !controlOk c then failCmd s cid 0x40
    else if c.own != .queue || earlierDone s c then finish s cid
    else qRefresh s c.q))

/-! ### Completion (R459 to R462) -/

/-- The 32 bytes of a completion record (R460). -/
def cmdRecord (c : Cmd) : List Byte :=
  toBytes 8 c.seq ++
  toBytes 8 ((statusOf c.fail c.poison c.drops).toNat + c.opc % 256 * 2 ^ 8 + c.q % 64 * 2 ^ 16 + b2n c.rankLost * 2 ^ 22 +
    b2n c.promoted * 2 ^ 23 + b2n c.notPromoted * 2 ^ 24 + c.wclass % 4 * 2 ^ 25 + c.version % 4096 * 2 ^ 27) ++
  toBytes 4 c.cnt0 ++ toBytes 4 c.cnt1 ++ toBytes 8 c.cnt2

/-- A record for a host ring while the path is lost goes to the host-loss log (R416, R417). -/
def hostLog (s : State) (q : Nat) (rec : List Byte) : State :=
  if s.hp.log.length < 65536 then { s with hp := { s.hp with log := s.hp.log ++ [(q, rec)] } }
  else bump1 { s with hp := { s.hp with logOver := true } } ctrChipHlogOver

/-- Writes a record or a sequence word at a virtual address; a place that no longer translates takes nothing (log
entry 20). `log` says that a host destination that is lost goes to the host-loss log. -/
def ringWrite (s : State) (q v : Nat) (bytes : List Byte) (log : Bool) : State :=
  match extPieces s true 1 v bytes.length with
  | .ok [p] =>
    if p.host then
      if hostUp s then hostPut s p.pa (bytes.map (fun b => (b, false))) (.chan 16)
      else if log then hostLog s q bytes else bump1 s ctrChipHpWrDrop
    else writePieces s (.chan 16) [p] bytes
  | _ => s

/-- The completed sequence number advances over the records written, in order (R461). -/
def cseqGo : Nat → Nat → List Nat → Nat × List Nat
  | 0, c, w => (c, w)
  | k + 1, c, w => if w.contains (c + 1) then cseqGo k (c + 1) (sdel w (c + 1)) else (c, w)

/-- Sends the queue's interrupt, or starts its delay (R462). -/
def qInterrupt (s : State) (q : Nat) : State :=
  let x := qOf s q
  match x.conf with
  | none => s
  | some c =>
    if !c.ien || x.cseq == x.signalled then s
    else if c.icount ≤ x.cseq - x.signalled then
      msixFire (setQ s q { x with signalled := x.cseq, intPend := false }) c.ivec
    else setQ s q { x with intPend := true }

/-- Record `seq` of a queue has been written: the completed sequence number, its word and the interrupt (R461, R462). -/
def seqWritten (s : State) (q seq : Nat) : State :=
  let x := qOf s q
  let (n, w) := cseqGo (x.written.length + 1) x.cseq (sins x.written seq)
  let s1 := setQ s q { x with cseq := n, written := w }
  match x.conf with
  | none => s1
  | some c =>
    if n = x.cseq then s1 else qInterrupt (ringWrite s1 q c.cseqAddr (toBytes 8 n) false) q

/-- Writes of the command that are not yet visible: host writes, and remote writes without their ACK (R411, R439). -/
def hostWritesOf (s : State) (cid : Nat) : List HostWrite := s.hp.writes.filter (fun w => w.cids.contains cid)
def remoteOpen (s : State) (cid : Nat) : Bool := s.tr.wait.any (fun w => w.2 == .write (.cmd cid))

/-- A host line that the command writes in part is not yet owned (R407). -/
def hostLineOpen (s : State) (cid : Nat) : Bool :=
  s.hp.reads.any (fun r => match r.what with | .line _ _ ms => ms.any (fun m => m.cid == some cid) | _ => false)

/-- Lines that the command left M leave by DirtyEvict (R411). -/
def evictFor (s : State) (cid : Nat) : State :=
  s.hp.lines.foldl (fun t e =>
    if e.2.st == .modified && e.2.cids.contains cid then dirtyEvict (hcDrop t e.1) e.2 else t) s

/-- One flushing read for the command's posted writes, unless one is out (R411). -/
def flushFor (s : State) (cid : Nat) : State :=
  if (hostWritesOf s cid).any (fun w => !w.cxl) && !s.hp.reads.any (fun r => r.what == .flush cid) then
    hostRead s 0 0 (.flush cid)
  else s

/-- A stamp is earlier than a generation (R363). -/
def earlierStamp (st gen : W32) : Bool := decide (1 ≤ (gen - st).toNat) && decide ((gen - st).toNat ≤ 2 ^ 31)

/-- Frees the entries of an invalidation and completes its command (R364 step 4). -/
def invalDone (s : State) : LRun → State
  | .invalidate ch es gen lo hi =>
    let s1 := { s with
      xlt := { s.xlt with ranges := s.xlt.ranges.filter (fun e => !es.contains e.1) },
      mer := { s.mer with lruns := s.mer.lruns.filter (fun r => r != .invalidate ch es gen lo hi) } }
    mbComplete s1 ch rcOk [(0, BitVec.ofNat 64 es.length)]
  | _ => s

/-- A command, not a stream, with an earlier stamp has not completed (R364 step 3). -/
def stampHolds (s : State) (gen : W32) : Bool :=
  s.orr.cmds.any (fun c => (match c.own with | .stream _ => false | _ => true) && earlierStamp c.stamp gen)

/-- Completes every invalidation that no earlier-stamped command holds any more (R364 step 3). -/
def checkInvals (s : State) : State :=
  s.mer.lruns.foldl (fun t r => match r with
    | .invalidate _ _ gen _ _ => if stampHolds t gen then t else invalDone t r
    | _ => t) s

/-- A map is read by one SCATTER less; a release asked for takes effect with the last reader (R174). -/
def mapUnread (s : State) (id : BitVec 16) (release : Bool) : State :=
  let maps := s.sc.maps.map (fun m => if m.id = id then
    { m with readers := m.readers - 1, relAsked := m.relAsked || release } else m)
  { s with sc := { s.sc with maps := maps.filter (fun m => !(m.id == id && m.relAsked && m.readers == 0)) } }

/-- A SCATTER leaves this rank: its units with their save records, its kept map, its merge entries and its pool share (R174, R178). -/
def dropScat (s : State) (j : ScJob) : State :=
  let mine := s.orr.units.filter (fun u => u.expand && u.jid == j.jid)
  let saves := mine.filterMap (fun u => u.save)
  let s1 := { s with
    sc := { s.sc with
      jobs := s.sc.jobs.filter (fun k => k.jid != j.jid),
      mq := s.sc.mq.filter (fun e => e.2 != j.jid),
      saved := s.sc.saved.filter (fun e => !mine.any (fun u => u.uid == e.2)),
      entries := (s.sc.entries.zip s.sc.entriesJob).filterMap (fun e => if e.2 = j.jid then none else some e.1),
      entriesJob := s.sc.entriesJob.filter (fun k => k != j.jid) },
    orr := { s.orr with
      units := s.orr.units.filter (fun u => !(u.expand && u.jid == j.jid)),
      saves := s.orr.saves.filter (fun x => !saves.contains x) },
    tr := { s.tr with foRes := s.tr.foRes.filter (fun r => !(j.cid.isNone && r.owner == j.owner && r.tag == j.tag)) } }
  match j.mapId with
  | some id => mapUnread s1 id j.release
  | none => s1

/-- A LOOKUP leaves this rank: its units with their slots, its job; its map becomes usable or is dropped (R136, R174). -/
def dropLookup (s : State) (j : LkJob) (ok : Bool) : State :=
  let mine := s.orr.units.filter (fun u => !u.expand && u.jid == j.jid)
  let slots := mine.filterMap (fun u => u.scratch)
  let saves := mine.filterMap (fun u => u.save)
  { s with
    orr := { s.orr with
      jobs := s.orr.jobs.filter (fun k => k.jid != j.jid),
      units := s.orr.units.filter (fun u => u.expand || u.jid != j.jid),
      scratch := s.orr.scratch.filter (fun x => !slots.contains x),
      saves := s.orr.saves.filter (fun x => !saves.contains x) },
    tiles := mmap s.tiles (fun _ t => { t with gcq := t.gcq.filter (fun r => !mine.any (fun u => u.uid == r.2.1)) }),
    tr := { s.tr with foRes := s.tr.foRes.filter (fun r => !(j.cid.isNone && r.owner == j.owner && r.tag == j.tag)) },
    sc := { s.sc with
     saved := s.sc.saved.filter (fun e => !mine.any (fun u => u.uid == e.2)),
     maps := (s.sc.maps.filter (fun m => ok || m.cid != j.jid)).map (fun m =>
      if m.cid = j.jid then { m with usable := true } else m) } }

/-- A SCATTER that names a kept map with `RELEASE` = 1 releases it when it completes or is refused, whatever its status;
a map that is not usable yet is absent to it (R174). -/
def scatRelease (s : State) (id : BitVec 16) : State :=
  if s.sc.maps.any (fun m => m.id == id && m.usable) then releaseMap s id else s

/-- The release that a command's descriptor asks for at its completion. -/
def cmdRelease (s : State) (c : Cmd) : State :=
  if !c.badLine && c.op == 0x02 && !bit (c.w 0) 20 && bit (c.w 0) 22 then scatRelease s (BitVec.ofNat 16 (c.f 7 0 16))
  else s

/-- Everything that a command holds is given back: jobs, units, fan-in window, streams. -/
def endWork (s : State) (c : Cmd) : State :=
  let ok := decide ((statusOf c.fail c.poison c.drops).toNat < 0x10)
  let s1 := (s.orr.jobs.filter (fun j => j.cid == some c.cid)).foldl (fun t j => dropLookup t j ok) s
  let s2 := (s1.sc.jobs.filter (fun j => j.cid == some c.cid)).foldl dropScat s1
  let s3 := { s2 with tr := { s2.tr with fiRes := s2.tr.fiRes.filter (fun r => r.1 != c.cid),
                                         fiWait := sdel s2.tr.fiWait c.cid } }
  cmdRelease (unbind s3 c.cid) c

/-- The command has written its record: it leaves Orrery. -/
def retire (s : State) (c : Cmd) : State :=
  let s1 := dropGot (dropCmd (endWork s c) c.cid) (.cmd c.cid)
  checkInvals (qRefresh (qProg s1 c.q) c.q)

/-- Nodes of a launch that have failed or been skipped, with everything that depends on them (R465). -/
def skipMore (deps : List (List Nat)) (bad : List Nat) : List Nat :=
  (deps.zipIdx).foldl (fun b x => if x.1.any (fun d => b.contains d) && !b.contains x.2 then b ++ [x.2] else b) bad

/-- Nodes of the version that a launch has pinned. -/
def launchNodes (s : State) (c : Cmd) : List Node :=
  match mget? s.orr.plans c.plan with
  | none => []
  | some p => ((p.vers.find? (fun v => v.ver.toNat == c.pver)).map (fun v => v.nodes)).getD []

/-- A node has ended: its launch takes the status; a failure skips what depends on it (R465). Of several failed nodes none
has ended the launch, and R18 and R465 do not say whose status it reports: the model reports that of the first to
complete (log entry 114). -/
def nodeDone (s : State) (launch n : Nat) (d : Cmd) : State :=
  match cmdOf s launch with
  | none => s
  | some c =>
    let nodes := launchNodes s c
    let skip := if d.fail.isSome then
        (skipMore (nodes.map (fun x => x.deps)) (n :: c.nodesSkipped)).filter (fun i => i != n)
      else c.nodesSkipped
    let c1 := { c with
      nodesDone := sins c.nodesDone n, nodesSkipped := skip, fail := c.fail.orElse (fun _ => d.fail),
      poison := c.poison || d.poison, drops := c.drops || d.drops }
    let all := nodes.length ≤ c1.nodesDone.length + skip.length
    updCmd s launch (fun _ => { c1 with
      cnt0 := c1.nodesDone.length, cnt1 := skip.length, phase := if all then .done else c1.phase })

/-- Unpins the plan version of a launch that completes; a version no longer current and without launches is freed
(R464). -/
def unpin (s : State) (plan ver : Nat) : State :=
  match mget? s.orr.plans plan with
  | none => s
  | some p =>
    let vs := p.vers.map (fun v => if v.ver.toNat = ver then { v with pins := v.pins - 1 } else v)
    let last := (vs.getLast?.map (fun v => v.ver.toNat)).getD 0
    let keep := vs.filter (fun v => 0 < v.pins || (!p.dropped && v.ver.toNat == last))
    { s with orr := { s.orr with
        plans := mset s.orr.plans plan { p with vers := keep } } }

/-- Writes the record of a command whose effects are all visible, and what follows from it (R459 to R466). -/
def completeNow (s : State) (c : Cmd) : State :=
  match c.own with
  | .node l n => nodeDone (qProg (dropGot (dropCmd (endWork s c) c.cid) (.cmd c.cid)) c.q) l n c
  | _ =>
    let x := qOf s c.q
    let s1 := match x.conf with
      | some k => ringWrite s c.q (k.cring + c.seq % 2 ^ k.log2cn * 32) (cmdRecord c) true
      | none => s
    let s2 := seqWritten s1 c.q c.seq
    let s3 := if c.op = 0x09 && c.fail != some 0x40 then unpin s2 c.plan c.pver else s2
    let s4 := match c.own with
      | .task t => { s3 with orr := { s3.orr with tasks := mupd s3.orr.tasks t (fun k => { k with flight := none }) } }
      | _ => s3
    retire s4 c

/-- COMMAND_COMPLETION (R459): host writes first need one flushing read, remote writes their ACK. -/
def complete (s : State) (cid : Nat) : State :=
  match cmdOf s cid with
  | none => s
  | some c =>
    if c.phase != .done || s.pwr.restart == .running then s
    else if remoteOpen s cid || hostLineOpen s cid then s
    else
      let s1 := flushFor (evictFor s cid) cid
      if (hostWritesOf s1 cid).isEmpty then completeNow s1 c else s1

/-- COMMAND_COMPLETION. -/
def execCommandCompletion (cid : Nat) (s : State) : Host.Outcome State Fault Refusal := act s (fun s => complete s cid)

/-- INTERRUPT_DELAY_EXPIRY (R462): the delay does not advance in Park (R525). -/
def execInterruptDelayExpiry (q : Fin 64) (s : State) : Host.Outcome State Fault Refusal :=
  act s (fun s =>
    let x := qOf s q
    match x.conf with
    | some c => if c.ien && c.itime != 0 && x.intPend && s.pwr.park == .running then
        msixFire (setQ s q { x with signalled := x.cseq, intPend := false }) c.ivec else s
    | none => s)

/-! ### QUEUE_CONFIG (R447, R448) -/

/-- The extent lies wholly within one range entry with P, PIN and the right (R448). -/
def oneEntry (s : State) (right v n : Nat) : Option Piece :=
  match extPieces s true right v n with
  | .ok [p] => some p
  | _ => none

/-- The record of QUEUE_CONFIG; a zero field whose range leaves 0 out takes its default (R447; log entry 21). -/
def queueRecord (c : MbCtx) (hostRes : Bool) : QConf :=
  let d (v dflt : Nat) := if v = 0 then dflt else v
  { ring := c.p 1, log2n := c.f 4 0 5, cring := c.p 2, log2cn := c.f 4 5 5, cseqAddr := c.p 3, lc := bit (c.a 4) 10,
    switch := bit (c.a 4) 11,
    tiles := BitVec.ofNat 48 (d (c.f 5 0 48) (2 ^ 48 - 1)),
    depth := d (c.f 4 12 5) 4, slice := d (c.f 4 32 16) 64, ien := bit (c.a 4) 17, ivec := c.f 4 18 6,
    icount := d (c.f 4 24 8) 1, itime := c.f 6 0 16, hang := d (c.f 6 16 16) 4096, hostRes := hostRes }

/-- Ranges and alignments of R447. -/
def queueOk (r : QConf) : Bool :=
  r.ring % 4096 == 0 && r.cring % 4096 == 0 && r.cseqAddr % 64 == 0 && decide (6 ≤ r.log2n) && decide (r.log2n ≤ 20) &&
    decide (6 ≤ r.log2cn) && decide (r.log2cn ≤ 20) && decide (r.depth ≤ 16) && decide (64 ≤ r.hang)

def rowQueueConfig : MbRow :=
  { opc := 0x60, cls := .F, group := 6, lo := 1, hi := 3,
    used := [mask 0 6, mask 0 52, mask 0 52, mask 0 52, mask 0 48, mask 0 48, mask 0 32], mgmtOnly := false }

/-- QUEUE_CONFIG (R447, R448, R510). -/
def bodyQueueConfig (s : State) (c : MbCtx) : MbOut :=
  let q := c.f 0 0 6
  let r0 := queueRecord c false
  if !queueOk r0 then .done s rcInvalid [] else
  match oneEntry s 0 r0.ring (2 ^ r0.log2n * 64), oneEntry s 1 r0.cring (2 ^ r0.log2cn * 32), oneEntry s 1 r0.cseqAddr 8 with
  | some p, some _, some _ =>
    if inflight s q != 0 || lQueue s q then .done s rcInUse []
    else .done (setQ s q { qOf s q with conf := some { r0 with hostRes := p.host }, st := .idle, pendingDb := false,
                                        cfull := false }) rcOk []
  | _, _, _ => .done s rcInvalid []

/-- QUEUE_CONFIG. -/
def execQueueConfig (m : MbWrite) (s : State) : Host.Outcome State Fault Refusal :=
  mbox rowQueueConfig bodyQueueConfig m s

/-! ### Plans and tasks (R463 to R466) -/

/-- The node of 80 bytes: descriptor words and predecessors; none when its header breaks R463. -/
def nodeOfBytes (i : Nat) (l : List Byte) : Option Node :=
  let h := numAt l 64 16
  let nd := h % 8
  let deps := (List.range nd).map (fun k => h / 2 ^ (3 + 10 * k) % 1024)
  if decide (4 < nd) || decide (2 ^ 43 ≤ h) || deps.any (fun d => decide (i ≤ d)) then none
  else some { words := (List.range 8).map (fun k => BitVec.ofNat 64 (numAt l (8 * k) 8)), deps := deps }

/-- Bytes of a plan version in the plan area. -/
def planBytes (s : State) : Nat :=
  s.orr.plans.foldl (fun a e => e.2.vers.foldl (fun b v => b + 80 * v.nodes.length) a) 0

/-- Stores a version as the plan's current one; a former current version without launches is freed (R464). -/
def planCommit (s : State) (p : Nat) (nodes : List Node) : State × BitVec 16 :=
  let old := mget s.orr.plans p { vers := [], next := 0, dropped := false }
  let v := old.next
  let keep := old.vers.filter (fun x => 0 < x.pins)
  let new : Plan := { vers := keep ++ [{ ver := v, nodes := nodes, pins := 0 }], next := v + 1, dropped := false }
  ({ s with orr := { s.orr with plans := mset s.orr.plans p new } }, v)

/-- LAUNCH (R464, R465): pins the plan's current version; its nodes follow. -/
def startLaunch (s : State) (c : Cmd) : State :=
  let p := c.f 0 8 8
  match mget? s.orr.plans p with
  | some pl =>
    match pl.vers.getLast? with
    | some v =>
      if pl.dropped then failCmd s c.cid 0x40 else
      let s1 := { s with orr := { s.orr with plans := mset s.orr.plans p { pl with
        vers := pl.vers.map (fun x => if x.ver = v.ver then { x with pins := x.pins + 1 } else x) } } }
      updCmd s1 c.cid (fun c => { c with phase := .running, plan := p, pver := v.ver.toNat })
    | none => failCmd s c.cid 0x40
  | none => failCmd s c.cid 0x40

/-- LAUNCH. -/
def execLaunch (cid : Nat) (s : State) : Host.Outcome State Fault Refusal :=
  act s (fun s => withCmd s cid 0x09 (fun c s => if controlOk c then startLaunch s c else failCmd s cid 0x40))

/-- PLAN_NODE_DISPATCH (R465): a node whose predecessors have completed, at most 16 of the launch in flight. -/
def execPlanNodeDispatch (cid node : Nat) (s : State) : Host.Outcome State Fault Refusal :=
  act s (fun s => match cmdOf s cid with
    | none => s
    | some c =>
      let nodes := launchNodes s c
      let fl := s.orr.cmds.filter (fun d => match d.own with | .node l _ => l == cid | _ => false)
      match nodes[node]? with
      | none => s
      | some n =>
        if c.op == 0x09 && c.phase == .running && decide (fl.length < 16) && !c.nodesDone.contains node &&
            !c.nodesSkipped.contains node && !fl.any (fun d => d.own == .node cid node) &&
            n.deps.all (fun d => c.nodesDone.contains d) && s.pwr.park == .running && s.pwr.restart != .running then
          fetchIn s c.q c.seq (.node cid node) n.words false (fld (n.words.getD 0 0) 0 8)
        else s)

/-- TASK_TRIGGER (R466): a launch through the task's queue, and the step added to T; a trigger reached while the task's
launch runs counts late, once. -/
def execTaskTrigger (t : Fin 64) (s : State) : Host.Outcome State Fault Refusal :=
  act s (fun s => match mget? s.orr.tasks t with
    | none => s
    | some k =>
      if !k.en || !reached (semOf s k.sem) k.t || s.pwr.park != .running || s.pwr.restart == .running ||
          decide (s.pwr.sl.toNat < 1) then s
      else if k.flight.isSome then
        if k.late then s
        else bump1 { s with orr := { s.orr with tasks := mset s.orr.tasks t { k with late := true } } } (ctrTaskTaskLate t)
      else
        let x := qOf s k.queue
        match x.conf with
        | none => s
        | some c =>
          if x.st == .stopped || x.st == .hung || x.st == .switched || decide (c.depth ≤ inflight s k.queue) ||
              decide (2 ^ c.log2cn < x.nextSeq - x.cack.toNat) then s
          else
            let cid := s.orr.nextCid
            let s1 := fetchIn (setQ s k.queue { x with nextSeq := x.nextSeq + 1 }) k.queue x.nextSeq (.task t)
              [BitVec.ofNat 64 (0x09 + k.plan * 256)] false 0x09
            let s2 := { s1 with orr := { s1.orr with
              tasks := mset s1.orr.tasks t { k with t := k.t + k.step, flight := some cid, late := false } } }
            let y := qOf s2 k.queue
            qRefresh (setQ s2 k.queue (if y.st = .idle then { y with st := .running } else y)) k.queue)

def rowTaskConfig : MbRow :=
  { opc := 0x65, cls := .F, group := 6, lo := 1, hi := 3, used := [mask 0 31, mask 0 64], mgmtOnly := false }

/-- TASK_CONFIG (R466, R510). A launch in flight finishes. -/
def bodyTaskConfig (s : State) (c : MbCtx) : MbOut :=
  let t := c.f 0 0 6
  let old := mget s.orr.tasks t Task.reset
  let new : Task := {
    en := bit (c.a 0) 6, plan := c.f 0 7 8, queue := c.f 0 15 6, sem := c.f 0 21 10,
    t := BitVec.ofNat 32 (c.f 1 0 32), step := BitVec.ofNat 32 (c.f 1 32 32), flight := old.flight, late := false }
  .done { s with orr := { s.orr with tasks := mset s.orr.tasks t new } } rcOk []

/-- TASK_CONFIG. -/
def execTaskConfig (m : MbWrite) (s : State) : Host.Outcome State Fault Refusal := mbox rowTaskConfig bodyTaskConfig m s

def rowPlanDrop : MbRow :=
  { opc := 0x64, cls := .F, group := 6, lo := 1, hi := 3, used := [mask 0 8], mgmtOnly := false }

/-- PLAN_DROP (R464, R510): IN_USE while a task names the plan; pinned versions stay until their launches end. -/
def bodyPlanDrop (s : State) (c : MbCtx) : MbOut :=
  let p := c.f 0 0 8
  match mget? s.orr.plans p with
  | none => .done s rcNotFound []
  | some pl =>
    if pl.dropped then .done s rcNotFound []
    else if s.orr.tasks.any (fun e => e.2.en && e.2.plan == p) then .done s rcInUse []
    else
      let keep := pl.vers.filter (fun v => 0 < v.pins)
      .done { s with orr := { s.orr with plans := mset s.orr.plans p { pl with vers := keep, dropped := true } } } rcOk []

/-- PLAN_DROP. -/
def execPlanDrop (m : MbWrite) (s : State) : Host.Outcome State Fault Refusal := mbox rowPlanDrop bodyPlanDrop m s

end Sys2Proof.Machine
end

