-- ==== Sys2Proof/Machine/Gather.lean ====
section
/-! DEFINITION. The gather engines (chapter 4): intake, duplicate coalescing, credits, probes, hints, speculation,
arrival and confirmation. -/

namespace Sys2Proof.Machine

/-! ### Units, jobs, tiles -/

def unitOf (s : State) (uid : Nat) : Option Unit' := s.orr.units.find? (fun u => u.uid == uid)
def updUnit (s : State) (uid : Nat) (f : Unit' → Unit') : State :=
  { s with orr := { s.orr with units := s.orr.units.map (fun u => if u.uid = uid then f u else u) } }
def updEnt (s : State) (uid i : Nat) (f : RowEnt → RowEnt) : State :=
  updUnit s uid (fun u => { u with ents := u.ents.zipIdx.map (fun x => if x.2 = i then f x.1 else x.1) })
def jobOf (s : State) (jid : Nat) : Option LkJob := s.orr.jobs.find? (fun j => j.jid == jid)
def updJob (s : State) (jid : Nat) (f : LkJob → LkJob) : State :=
  { s with orr := { s.orr with jobs := s.orr.jobs.map (fun j => if j.jid = jid then f j else j) } }

/-- A unit of a LOOKUP that runs on its tile, with its job. -/
def runningLk (s : State) (uid : Nat) : Option (Unit' × LkJob) :=
  match unitOf s uid with
  | none => none
  | some u => if u.st != .running || u.expand then none else (jobOf s u.jid).map (fun j => (u, j))

/-- Counts progress of a tile (R476). -/
def tProg (s : State) (t n : Nat) : State := bumpProg s (ctrTileTProg t) n

/-! ### Credits (R124 to R127) -/

/-- `n` credits are free for a class. -/
def creditsFree (t : Tile) (lc : Bool) (n : Nat) : Bool :=
  decide (t.lcUsed + t.beUsed + n ≤ 1536) && (lc || decide (t.beUsed + n ≤ 1152))

/-- No request that goes first waits in the gather credit queue. -/
def gcqClear (t : Tile) (lc : Bool) : Bool := !t.gcq.any (fun r => r.1 || !lc)

/-- Takes or gives back credits. -/
def takeCredits (t : Tile) (lc : Bool) (n : Nat) : Tile :=
  if lc then { t with lcUsed := t.lcUsed + n } else { t with beUsed := t.beUsed + n }
def giveCredits (t : Tile) (lc : Bool) (n : Nat) : Tile :=
  if lc then { t with lcUsed := t.lcUsed - n } else { t with beUsed := t.beUsed - n }

/-- Issues a read of `n` sectors for entry i of a unit, or queues it (R126). -/
def issueRead (s : State) (u : Unit') (lc : Bool) (i n : Nat) : State :=
  let t := tileOf s u.tile
  if gcqClear t lc && creditsFree t lc n then
    updEnt (setTile s u.tile (takeCredits t lc n)) u.uid i (fun e => { e with queued := false })
  else
    updEnt (setTile s u.tile { t with gcq := t.gcq ++ [(lc, u.uid, i, n)] }) u.uid i (fun e => { e with queued := true })

/-- Gives back the credits of a read. -/
def returnCredits (s : State) (tile : Nat) (lc : Bool) (n : Nat) : State :=
  setTile s tile (giveCredits (tileOf s tile) lc n)

/-! ### Quiescence (R258) -/

/-- The source is a tier-F slot address that a hint or a probe gave. -/
def RowSrc.isSlot : RowSrc → Bool
  | .spec _ _ _ _ => true
  | .slot _ _ _ _ => true
  | _ => false

/-- The width class of a promoted copy, where the source names one. -/
def RowSrc.cls : RowSrc → Option Nat
  | .spec _ _ w _ => some w
  | .slot _ _ w _ => some w
  | .kept w => some w
  | _ => Option.none

/-- The address is given up; the data stay (R258). -/
def RowSrc.drop (r : RowSrc) : RowSrc :=
  match r with
  | .spec _ _ w _ => .kept w
  | .slot _ _ w _ => .kept w
  | r => r

/-- A row read of a unit holds a tier-F slot address that a hint or a probe gave: the read is out or waits, or the row
has no dedup entry and may have to be read again. -/
def holdsSlot (e : RowEnt) : Bool := e.late.isSome || (e.src.isSlot && (e.data.isNone || !e.dedup))

/-- The tile is at a quiescence point. -/
def tileQuiet (s : State) (t : Nat) : Bool :=
  !s.orr.units.any (fun u => u.tile == t && u.st == .running && !u.expand &&
    u.ents.any (fun e => (e.probe == .pending && !e.queued) || holdsSlot e))

/-- The tile passes a quiescence point if it is at one, which ends its drain (R259, R260). -/
def notePass (s : State) (t : Nat) : State :=
  if tileQuiet s t then { s with alm := { s.alm with passed := sins s.alm.passed t, draining := sdel s.alm.draining t } }
  else s

/-! ### Hints (R87, R88) -/

/-- The set of a row in a hint cache. -/
def hintSet (s : State) (d row : Nat) : Nat := rowHash d (descOf s d) row / 2 ^ 52

/-- The way that holds a row's hint. -/
def findHint (s : State) (t d row : Nat) : Option (Nat × Hint) :=
  let st := hintSet s d row
  (List.range 8).findSome? (fun w =>
    match mget? s.alm.hints (t * 32768 + st * 8 + w) with
    | some h => if h.desc = d && h.row = row then some (w, h) else none
    | none => none)

/-- Updates the tree of a hint set for an access to a way. -/
def touchHint (s : State) (t st w : Nat) : State :=
  let k := t * 4096 + st
  { s with alm := { s.alm with hintTrees := mset s.alm.hintTrees k (treeTouch 3 (8 + w) (mget s.alm.hintTrees k 0)) } }

/-- The hint of a row at intake; a hit updates the tree. -/
def hintLookup (s : State) (t d row : Nat) : State × Option Hint :=
  match findHint s t d row with
  | some (w, h) => (touchHint s t (hintSet s d row) w, some h)
  | none => (s, none)

/-- Writes a hint for a found probe. -/
def hintWrite (s : State) (t d row : Nat) (e : AEnt) : State :=
  let st := hintSet s d row
  let key (w : Nat) : Nat := t * 32768 + st * 8 + w
  let w := match findHint s t d row with
    | some (w, _) => w
    | none =>
      match (List.range 8).find? (fun w => (mget? s.alm.hints (key w)).isNone) with
      | some w => w
      | none => treeWalk (fun _ => true) 8 (mget s.alm.hintTrees (t * 4096 + st) 0) 3 1
  let h : Hint := { desc := d, row := row, slot := e.slot, version := e.version, wclass := e.wclass }
  touchHint { s with alm := { s.alm with hints := mset s.alm.hints (key w) h } } t st w

/-- Drops a row's hint for a probe that found nothing. -/
def hintDrop (s : State) (t d row : Nat) : State :=
  match findHint s t d row with
  | some (w, _) =>
    { s with alm := { s.alm with hints := mdel s.alm.hints (t * 32768 + hintSet s d row * 8 + w) } }
  | none => s

/-! ### Load measurement (R284 to R287) -/

/-- The migration policy of a descriptor (R288). -/
def policyOf (s : State) (d : Nat) : MigPolicy :=
  match mget? s.load.migD d with
  | none => s.load.mig
  | some p => { s.load.mig with en := p.en, hot := p.hot, cold := p.cold, t16 := p.t16, t8 := p.t8, t4 := p.t4 }

/-- Puts a row in a candidate table: it replaces its own entry, or fills the table, or takes the place of the smallest
estimate when that one is strictly smaller (R287). -/
def candPut (l : List Cand) (c : Cand) : List Cand :=
  if l.any (fun x => x.desc == c.desc && x.row == c.row) then
    l.map (fun x => if x.desc = c.desc && x.row = c.row then c else x)
  else if l.length < 512 then l ++ [c]
  else
    let m := l.foldl (fun a x => min a x.est) c.est
    if m < c.est then
      match l.findIdx? (fun x => x.est == m) with
      | some i => l.set i c
      | none => l
    else l

/-- A bank of the sketch and of the candidate tables after one increment for a row (R286, R287). -/
def sketchBank (s : State) (d row : Nat) (promoted : Bool) (bank : FMap Nat) (cands : FMap (List Cand)) :
    FMap Nat × FMap (List Cand) :=
  let x := descOf s d
  let q := ownerQuad d x row
  let key (i : Nat) : Nat := q * 65536 + i * 16384 + rowHash d x row / 2 ^ (14 * i) % 16384
  let sk := (List.range 4).foldl (fun m i => mset m (key i) (min 65535 (mget m (key i) 0 + 1))) bank
  let est := (List.range 4).foldl (fun e i => min e (mget sk (key i) 0)) 65535
  if est < (policyOf s d).hot then (sk, cands)
  else (sk, mset cands q (candPut (mget cands q []) { desc := d, row := row, est := est, promoted := promoted }))

/-- One increment of the hot-row sketch for a confirmed row read, in the window it belongs to (R284, R286). -/
def sketchHit (s : State) (win : W32) (d row : Nat) (promoted : Bool) : State :=
  if (descOf s d).resident then s
  else if win = s.load.mwNum then
    let (b, c) := sketchBank s d row promoted s.load.sketch s.load.cands
    { s with load := { s.load with sketch := b, cands := c } }
  else if win + 1 = s.load.mwNum then
    let (b, c) := sketchBank s d row promoted s.load.latched s.load.lcands
    { s with load := { s.load with latched := b, lcands := c } }
  else s

/-- Counts `n` in a window counter, in the window it belongs to: the live one, the latched one, or one that is past
(R284). -/
def winCtr (s : State) (win : W32) (k n : Nat) : State :=
  if win = s.load.mwNum then bump s k n else if win + 1 = s.load.mwNum then bump s (k + 1) n else s

/-- Counts a confirmed row read of a LOOKUP in the load counters and the sketch. -/
def loadCount (s : State) (win : W32) (d row sectors : Nat) (tierF promoted : Bool) : State :=
  let s1 := if tierF then winCtr s win (ctrTableTblFRd d) sectors
    else winCtr (winCtr s win (ctrTableTblSRd d) sectors) win (ctrTableShardRd d (homeComp d (descOf s d) row)) sectors
  sketchHit s1 win d row promoted

/-! ### Groups while they fill (R141, R146) -/

/-- The bag's first position. -/
def bagStart (j : LkJob) (b : Nat) : Nat := j.lists.off.getD b 0

/-- The group of a position in its bag. -/
def grpOf (s : State) (j : LkJob) (p : PosRec) : Nat := (p.pos - bagStart j p.bag) / groupLen (descOf s j.desc).gsize

/-- The entry of a position. -/
def entOf (u : Unit') (p : PosRec) : Option RowEnt :=
  match p.ent with
  | some i => u.ents[i]?
  | none => none

/-- Whether a slot's bytes make a poisoned row (R47, R48, R144, R554), from what came with them. -/
def rowPoisoned (s : State) (x : Desc) (e : RowEnt) : Bool :=
  match e.data with
  | none => false
  | some (b, bad) =>
    bad || slPoison b || sliceFmtErr b x.cols x.widest (cbFor s x) || poolFmtErr b x.cols (cbFor s x) ||
      e.src.cls.any (fun w => slClass b != w)

/-- A confirmed row keeps its outcome; an unconfirmed one is judged by its data. -/
def entPoisoned (s : State) (x : Desc) (e : RowEnt) : Bool := if e.conf then e.poisoned else rowPoisoned s x e

/-- The member that a position with data makes. -/
def posMember (s : State) (j : LkJob) (p : PosRec) (e : RowEnt) : PMember :=
  let x := descOf s j.desc
  let b := (e.data.map (fun d => d.1)).getD []
  memberOf b (cbOrEmpty (cbFor s x (slClass b))) x.cols (entPoisoned s x e) j.weighted p.w

/-- Data of the position may enter the lanes: present, populated, not poisoned, with a non-zero weight, and confirmed if
they were cleared before. R48 keeps poisoned data out; that unconfirmed data with POP = 0 also stay out is the model's
choice, where R129 and R146 leave it open (log entry 112). -/
def mayEnter (s : State) (j : LkJob) (u : Unit') (p : PosRec) : Option RowEnt :=
  if p.entered || !p.wOk then none else
  match entOf u p with
  | none => none
  | some e =>
    match e.data with
    | none => none
    | some (b, bad) =>
      if bad || !slPop b || entPoisoned s (descOf s j.desc) e || (p.held && !e.conf) then none else some e

/-- Members of a group that have entered. -/
def enteredOf (s : State) (j : LkJob) (u : Unit') (bag k : Nat) : List PMember :=
  (u.pos.filter (fun p => p.entered && p.bag == bag && grpOf s j p == k)).filterMap (fun p =>
    (entOf u p).map (posMember s j p))

/-- The group's tops and lanes over the members that have entered. -/
def rebuildGrp (s : State) (j : LkJob) (u : Unit') (g : Sys2Proof.Machine.Grp) : Sys2Proof.Machine.Grp :=
  let x := descOf s j.desc
  let ms := enteredOf s j u g.bag g.k
  let tops := (List.range (x.cols / 32)).map (topOf ms)
  { g with tops := tops, lanes := laneSums (groupPrec x.gsize) tops ms x.cols }

/-- The group of a bag on a running unit is rebuilt. -/
def rebuildAt (s : State) (uid bag k : Nat) : State :=
  match runningLk s uid with
  | none => s
  | some (u, j) => updUnit s uid (fun v => { v with
      grps := v.grps.map (fun g => if g.bag = bag && g.k = k then rebuildGrp s j u g else g) })

/-- The group of a position has not closed, and the position may be a member of it. -/
def mayJoin (s : State) (j : LkJob) (u : Unit') (p : PosRec) : Bool :=
  p.wOk && (entOf u p).any (fun e => !(e.conf && e.unpop)) &&
    !(u.bags.find? (fun a => a.bag == p.bag)).any (fun a => decide (grpOf s j p < a.nextGrp))

/-- The groups that hold the two lane sets (R141): the two lowest that have not closed (log entry 112). -/
def setGroups (s : State) (j : LkJob) (u : Unit') : List (Nat × Nat) :=
  ((u.pos.filter (mayJoin s j u)).map (fun p => (p.bag, grpOf s j p))).eraseDups.take 2

/-- Sectors of the read that an entry's source stands for. -/
def srcSectors (x : Desc) (src : RowSrc) : Nat :=
  match src with
  | .none => 0
  | .spec _ _ w _ => slotSize w x.cols / 32
  | .slot _ _ w _ => slotSize w x.cols / 32
  | .kept w => slotSize w x.cols / 32
  | _ => homeSz x / 32

/-- The read of a row's slot: bytes and poison. -/
def rowRead (s : State) (d tile row : Nat) (src : RowSrc) : State × List Byte × Bool :=
  let x := descOf s d
  match src with
  | .none => (s, [], false)
  | .kept _ => (s, [], false)
  | .spec slot _ w _ =>
    let (s1, b, p) := readExt s (slot * 32) (slotSize w x.cols) 0
    (s1, b, p.any id)
  | .slot a _ w keep =>
    let (s1, b, p) := readExt s a (slotSize w x.cols) (if keep then 2 else 0)
    (s1, b, p.any id)
  | .home => readHome s d row
  | .resident =>
    let (s1, b, p) := readExt s (resAddr x (quadOf tile) row) (homeSz x) 0
    (s1, b, p.any id)

/-- The counter describes the DRAM, and counts for every read at once (R132, R284). -/
def isDramErr (k : Nat) : Bool := (k / 2 ^ 24 == 3 && decide (2 ≤ k % 64)) || k / 2 ^ 24 == 4

/-- What a step from `s` to `t` has counted, the DRAM's own counters apart. -/
def ctrRise (s t : State) : List (Nat × Nat) :=
  t.ctrs.filterMap (fun e => if isDramErr e.1 || decide (e.2 ≤ ctr s e.1) then none else some (e.1, e.2 - ctr s e.1))

/-- `t` without those counts. -/
def unRise (s t : State) : State :=
  { t with ctrs := (ctrRise s t).foldl (fun m x =>
      if ctr s x.1 = 0 then mdel m x.1 else mset m x.1 (ctr s x.1)) t.ctrs }

/-- The counts of a read take effect: those of a window in the window of its probe, the others if the read is confirmed
(R284). -/
def reRise (s : State) (win : W32) (conf : Bool) (l : List (Nat × Nat)) : State :=
  l.foldl (fun t x => if isWindowCtr x.1 then winCtr t win x.1 x.2 else if conf then bump t x.1 x.2 else t) s

/-- The read of a row's slot, with what it has still to count: state, bytes, poison, counts. -/
def quietRead (s : State) (d tile row : Nat) (src : RowSrc) : State × List Byte × Bool × List (Nat × Nat) :=
  let (t, b, p) := rowRead s d tile row src
  (unRise s t, b, p, ctrRise s t)

/-- The load counters of a row read that its probe has placed (R285, R286). -/
def countRead (s : State) (j : LkJob) (e : RowEnt) : State :=
  let x := descOf s j.desc
  if e.src.cls.isSome then loadCount s e.win j.desc e.row (srcSectors x e.src) true true
  else loadCount s e.win j.desc e.row (srcSectors x e.src) (e.src == .resident) false

/-- The source of a row whose slot address has been given up is found by a new probe, whose result updates the hint
(R88, R258, R264). -/
def findAgain (s : State) (d tile : Nat) (e : RowEnt) : State × RowSrc :=
  match e.src with
  | .kept _ =>
    let (s1, r) := probe s d e.row
    match r with
    | some p => (hintWrite s1 tile d e.row p.ent, .slot (p.ent.slot * 32) p.ent.version p.ent.wclass p.ent.keep)
    | none => (hintDrop s1 tile d e.row, .home)
  | src => (s, src)

/-- A row whose data are gone from the dedup store, or that has no entry, is read again (R131, R146, R149, R545). An
address found by a new probe is given up again with the data. -/
def rereadEnt (s : State) (uid i : Nat) : State :=
  match runningLk s uid with
  | none => s
  | some (u, j) =>
    match u.ents[i]? with
    | none => s
    | some e =>
      if e.data.isNone then s
      else
        let (s1, src) := findAgain s j.desc u.tile e
        let (s2, b, bad, l) := quietRead s1 j.desc u.tile e.row src
        let e0 := { e with data := some (b, bad), src := src }
        let e1 := { e0 with src := if e.src.isSlot then src else src.drop, win := if e.src.isSlot then e.win else s.load.mwNum,
                            poisoned := e.poisoned || (e.conf && rowPoisoned s2 (descOf s2 j.desc) e0) }
        if e.conf then countRead (reRise (updEnt s2 uid i (fun _ => e1)) e1.win true l) j { e1 with src := src }
        else updEnt s2 uid i (fun _ => { e1 with defer := e1.defer ++ [l] })

/-- The entries without a dedup entry among those that a group's replay needs are read again, each once. -/
def rereadAll (s : State) (uid : Nat) (is : List Nat) : State :=
  match unitOf s uid with
  | none => s
  | some u => (is.eraseDups.filter (fun i => (u.ents[i]?).any (fun e => !e.dedup))).foldl (fun t i => rereadEnt t uid i) s

/-- Entries whose data are in the lanes of a group. -/
def entsIn (s : State) (j : LkJob) (u : Unit') (bag k : Nat) : List Nat :=
  (u.pos.filter (fun p => p.entered && p.bag == bag && grpOf s j p == k)).filterMap (fun p => p.ent)

/-- One position enters its group, if the group holds a lane set (R141). A raise of a provisional top replays the rows
already entered, and counts once for its row, at the row's confirmation (R146). -/
def enterOne (s : State) (uid pos : Nat) : State :=
  match runningLk s uid with
  | none => s
  | some (u, j) =>
    match u.pos.find? (fun p => p.pos == pos) with
    | none => s
    | some p =>
      match mayEnter s j u p with
      | none => s
      | some e =>
        let k := grpOf s j p
        if !(setGroups s j u).contains (p.bag, k) then s
        else
          let mine (g : Sys2Proof.Machine.Grp) : Bool := g.bag == p.bag && g.k == k
          let fresh : Sys2Proof.Machine.Grp := { bag := p.bag, k := k, tops := [], lanes := [] }
          let tops := ((u.grps.find? mine).getD fresh).tops
          let raised := (tops.zip (posMember s j p e).tops).any (fun x => x.1.any (fun t => decide (t < x.2)))
          let s1 := if raised then rereadAll s uid (entsIn s j u p.bag k) else s
          let s2 := updUnit s1 uid (fun v => { v with
            grps := if v.grps.any mine then v.grps else v.grps ++ [fresh],
            pos := v.pos.map (fun r => if r.pos = pos then { r with entered := true, raised := r.raised || raised } else r) })
          bumpIf (rebuildAt s2 uid p.bag k) (raised && !p.raised && e.conf) (ctrTilePoolRescale u.tile)

/-- Every position whose data may enter does so, lower positions first. MAX and MIN use no lanes (R155). -/
def enterReady (s : State) (uid : Nat) : State :=
  match runningLk s uid with
  | none => s
  | some (u, j) =>
    if 2 ≤ j.pmode.toNat then s else (u.pos.map (fun p => p.pos)).foldl (fun t p => enterOne t uid p) s

/-! ### Confirmation (R47, R48, R129, R130, R142, R554) -/

/-- Positions of the unit that entry i serves. -/
def servedBy (u : Unit') (i : Nat) : List PosRec := u.pos.filter (fun p => p.ent == some i)

/-- Weights of positions whose row is confirmed and valid take effect (R118, R119, R142). -/
def weightsTake (s : State) (uid d : Nat) (ps : List PosRec) : State :=
  let s1 := bump (bump s (ctrTableWgtFlush d) (ps.filter (fun p => p.flush)).length)
    (ctrTableWgtNonfinite d) (ps.filter (fun p => p.nonfin)).length
  let bad (b : Nat) : Bool := ps.any (fun p => p.bag == b && (p.nonfin || p.wbad))
  updUnit s1 uid (fun u => { u with bags := u.bags.map (fun a => if bad a.bag then { a with poison := true } else a) })

/-- The source that a confirmed row keeps: its address only where a replay may read it again (R131, R146, R149, R258). -/
def srcAfter (j : LkJob) (u : Unit') (i : Nat) (e : RowEnt) (out : Bool) : RowSrc :=
  if e.dedup || out || decide (2 ≤ j.pmode.toNat) || !(servedBy u i).any (fun p => p.wOk) then e.src.drop else e.src

/-- The checks of a confirmed row take effect, with what its reads had still to count. -/
def confirmEnt (s : State) (uid i : Nat) : State :=
  match runningLk s uid with
  | none => s
  | some (u, j) =>
    match u.ents[i]? with
    | none => s
    | some e =>
      match e.data with
      | none => s
      | some (b, bad) =>
        if e.conf then s else
        let d := j.desc
        let x := descOf s d
        let ps := servedBy u i
        let s0 := e.defer.foldl (fun t l => reRise t e.win true l) s
        let s1 := bump s0 (ctrTilePoolRescale u.tile) (ps.filter (fun p => p.raised)).length
        let put (s : State) (unpop poisoned : Bool) : State := updEnt s uid i (fun e => { e with
          conf := true, unpop := unpop, poisoned := poisoned, defer := [], src := srcAfter j u i e (unpop || poisoned) })
        if !bad && !slPop b then
          updJob (put (bump s1 (ctrTableDropUnpop d) ps.length) true false) j.jid (fun j => { j with drops := j.drops + ps.length })
        else
          let fmt := rowPoisoned s x { e with data := some (b, false) } && (!slPoison b ||
            rowPoisoned s x { e with data := some (mkHdr (slVersion b) (slStep b) (slClass b) (slEsc b) (slFreeze b)
              (slPop b) false (slQerr b) (slNblk b - 1) ++ b.drop 8, false) })
          let s2 := if bad then bump1 s1 (ctrTableRowPoisonRd d)
            else bumpIf (bumpIf (cbDecode s1 u.tile x b) (slPoison b) (ctrTableStoredPoison d)) fmt (ctrTableFmtErr d)
          weightsTake (put s2 false (bad || slPoison b || fmt)) uid d ps

/-! ### Arrival (R124, R129 to R131, R155) -/

/-- The data of a read that its probe discarded reach the gather engine: its credits return, and it counts only where
R284 says so. -/
def lateArrive (s : State) (u : Unit') (j : LkJob) (i : Nat) (e : RowEnt) (src : RowSrc) (win : W32) : State :=
  let (s1, _, _, l) := quietRead s j.desc u.tile e.row src
  updEnt (returnCredits (reRise s1 win false l) u.tile j.lc (srcSectors (descOf s j.desc) src)) u.uid i
    (fun e => { e with late := none })

/-- The staging buffer of MAX and MIN holds 16 unconfirmed rows without a dedup entry (R155). -/
def stageFull (j : LkJob) (u : Unit') (e : RowEnt) : Bool :=
  decide (2 ≤ j.pmode.toNat) && !e.dedup && e.probe == .pending &&
    decide (16 ≤ (u.ents.filter (fun y => !y.dedup && !y.conf && y.data.isSome)).length)

/-- ROW_DATA_ARRIVAL (R129, R130): credits return, the data are confirmed if the probe has confirmed the row, and
enter the lanes. A discarded read that is still under way arrives first. -/
def rowArrive (s : State) (uid i : Nat) : State :=
  match runningLk s uid with
  | none => s
  | some (u, j) =>
    match u.ents[i]? with
    | none => s
    | some e =>
      match e.late with
      | some (src, win) => notePass (lateArrive s u j i e src win) u.tile
      | none =>
        if e.queued || e.data.isSome || e.src == .none || stageFull j u e then s
        else
          let (s1, b, bad, l) := quietRead s j.desc u.tile e.row e.src
          let s2 := returnCredits s1 u.tile j.lc (srcSectors (descOf s j.desc) e.src)
          let e1 := { e with data := some (b, bad), win := if e.probe = .noProbe then s.load.mwNum else e.win }
          let s3 := if e.probe == .pending then updEnt s2 uid i (fun _ => { e1 with defer := e1.defer ++ [l] })
            else
              let t := reRise (updEnt s2 uid i (fun _ => e1)) e1.win true l
              confirmEnt (if e.probe == .noProbe then countRead t j e1 else t) uid i
          notePass (enterReady s3 uid) u.tile

/-- ROW_DATA_ARRIVAL. -/
def execRowDataArrival (uid ent : Nat) (s : State) : Host.Outcome State Fault Refusal :=
  act s (fun s => rowArrive s uid ent)

/-! ### Probes (R81, R88, R89, R131, R263) -/

/-- The entry that a probe found confirms a speculative read (R89, R263). -/
def specMatch (p : AEnt) (slot version wclass epoch : Nat) : Bool :=
  p.slot == slot && p.version == version && p.wclass == wclass && p.epoch != epoch % 256 && p.epoch != (epoch + 1) % 256

/-- The groups of a unit whose lanes hold data of an entry that `lost` selects. -/
def hitGroups (s : State) (j : LkJob) (u : Unit') (lost : Nat → Bool) : List Sys2Proof.Machine.Grp :=
  u.grps.filter (fun g => u.pos.any (fun p => p.entered && p.ent.any lost && p.bag == g.bag && grpOf s j p == g.k))

/-- Clears the groups that hold unconfirmed data of the entries that `lost` selects, and rebuilds them from their
confirmed rows only; other unconfirmed rows of theirs join again when confirmed (R131, R146). -/
def clearGroups (s : State) (j : LkJob) (u : Unit') (lost : Nat → Bool) : Unit' :=
  let hit := hitGroups s j u lost
  let conf (i : Nat) : Bool := (u.ents[i]?).any (fun e => e.conf)
  let u1 : Unit' := { u with
    pos := u.pos.map (fun p =>
      if p.ent.any lost then { p with entered := false, raised := false }
      else if p.entered && !p.ent.any conf && hit.any (fun g => g.bag == p.bag && g.k == grpOf s j p) then
        { p with entered := false, held := true }
      else p),
    ents := u.ents.zipIdx.map (fun y => if lost y.2 then { y.1 with data := none, defer := [] } else y.1) }
  { u1 with grps := u1.grps.map (fun g => if hit.any (fun h => h.bag == g.bag && h.k == g.k) then rebuildGrp s j u1 g else g) }

/-- Discards speculative data of entry i (R131): the confirmed rows that the replay needs and that have no entry are
read again; of the discarded read only the pseudo-channel's traffic counts (R284). -/
def discardSpec (s : State) (uid i : Nat) (e : RowEnt) : State :=
  match runningLk s uid with
  | none => s
  | some (u, j) =>
    let lost (k : Nat) : Bool := k == i
    let hit := hitGroups s j u lost
    let u1 := clearGroups s j u lost
    let s1 := e.defer.foldl (fun t l => reRise t s.load.mwNum false l) (updUnit s uid (fun _ => u1))
    let s2 := rereadAll s1 uid (hit.flatMap (fun g => entsIn s j u1 g.bag g.k))
    let s3 := hit.foldl (fun t g => rebuildAt t uid g.bag g.k) s2
    bump s3 (ctrTileSpecRecomp u.tile) hit.length

/-- Bytes of the dedup data store in use (R121). -/
def dedupUse (u : Unit') : Nat := u.ents.foldl (fun n e => n + e.size) 0

/-- A probe's result for an entry without a confirmed speculative read: its row read issues (R131). A slot that the
dedup store cannot hold beside the other rows leaves the row without an entry (R121); the positions that it serves
already stay with it (log entry 65). -/
def afterProbe (s : State) (uid i : Nat) (found : Option APlace) : State :=
  match runningLk s uid with
  | none => s
  | some (u, j) =>
    match u.ents[i]? with
    | none => s
    | some e =>
      let x := descOf s j.desc
      let src : RowSrc := match found with
        | some p => .slot (p.ent.slot * 32) p.ent.version p.ent.wclass p.ent.keep
        | none => .home
      let n := srcSectors x src
      let fits := decide (dedupUse u - e.size + 32 * n ≤ 262144)
      let e1 := { e with src := src, probe := if found.isSome then .found else .absent, win := s.load.mwNum,
                         dedup := e.dedup && fits, size := if e.dedup && fits then 32 * n else 0 }
      let s1 := bumpIf (updEnt s uid i (fun y => { e1 with late := y.late })) (e.dedup && !fits) (ctrTileDedupFull u.tile)
      let s2 := issueRead s1 u j.lc i n
      if ((unitOf s2 uid).bind (fun v => v.ents[i]?)).any (fun y => y.queued) then s2 else countRead s2 j e1

/-- The probe confirms the speculative read of entry i (R89): every read made for it counts. -/
def specConfirm (s : State) (u : Unit') (j : LkJob) (i : Nat) (e : RowEnt) : State :=
  let e1 := { e with probe := .found, win := s.load.mwNum }
  let s1 := bump1 (updEnt s u.uid i (fun _ => e1)) (ctrTileSpecConfirmed u.tile)
  let s2 := (List.range (max 1 e.defer.length)).foldl (fun t _ => countRead t j e1) s1
  if e.data.isSome then confirmEnt s2 u.uid i else s2

/-- The probe does not confirm the speculative read of entry i (R131): data in the lanes are discarded, a read still
under way is discarded when it arrives, and the row is read from where the probe says. -/
def specMiss (s : State) (u : Unit') (i : Nat) (e : RowEnt) (found : Option APlace) : State :=
  let s1 := bump1 s (ctrTileSpecMismatch u.tile)
  let s2 := if e.data.isSome then discardSpec s1 u.uid i e
    else updEnt s1 u.uid i (fun y => { y with late := some (e.src, s.load.mwNum) })
  afterProbe s2 u.uid i found

/-- The probe of a confirmed row whose address was discarded in a drain answers: the address is held again where a
replay may need it (R260). -/
def probeAgain (s : State) (u : Unit') (j : LkJob) (i : Nat) (found : Option APlace) : State :=
  updEnt s u.uid i (fun e =>
    let src : RowSrc := match found with
      | some p => .slot (p.ent.slot * 32) p.ent.version p.ent.wclass p.ent.keep
      | none => .home
    let open' := (servedBy u i).any (mayJoin s j u)
    { e with probe := if found.isSome then .found else .absent, win := s.load.mwNum,
             src := if open' then src else src.drop })

/-- PROBE_RETURN: the hint follows the result, a speculative read is confirmed or discarded, and otherwise the row
read issues. -/
def probeBack (s : State) (uid i : Nat) : State :=
  match runningLk s uid with
  | none => s
  | some (u, j) =>
    match u.ents[i]? with
    | none => s
    | some e =>
      if e.probe != .pending || e.queued then s
      else
        let d := j.desc
        let t := u.tile
        let (s1, found) := probe s d e.row
        let s2 := tProg (returnCredits s1 t j.lc 2) t 1
        let s3 := match found with
          | some p => hintWrite s2 t d e.row p.ent
          | none => hintDrop s2 t d e.row
        let s4 := if e.conf then probeAgain s3 u j i found else
          match e.src with
          | .spec slot ver w ep =>
            if found.any (fun p => specMatch p.ent slot ver w ep) then specConfirm s3 u j i e else specMiss s3 u i e found
          | _ => afterProbe s3 uid i found
        notePass (enterReady s4 uid) t

/-- PROBE_RETURN. -/
def execProbeReturn (uid ent : Nat) (s : State) : Host.Outcome State Fault Refusal := act s (fun s => probeBack s uid ent)

/-! ### The gather credit queue (R126) -/

/-- The queued request of an entry is its probe. -/
def isProbeReq (s : State) (r : Bool × Nat × Nat × Nat) : Bool :=
  ((unitOf s r.2.1).bind (fun u => u.ents[r.2.2.1]?)).any (fun e => e.probe == .pending)

/-- The request that the queue grants next: LC before BE, each in order. A tile that drains starts no probe, and its row
reads go past them (R260). -/
def gcqNext (s : State) (tile : Nat) : Option (Bool × Nat × Nat × Nat) :=
  let l := (tileOf s tile).gcq.filter (fun r => !(s.alm.draining.contains tile && isProbeReq s r))
  match l.find? (fun r => r.1) with
  | some r => some r
  | none => l.head?

/-- GCQ_GRANT (R126). A row read that its probe has placed counts when it issues (R285). -/
def gcqGrant (s : State) (tile : Nat) : State :=
  match gcqNext s tile with
  | none => s
  | some r =>
    let t := tileOf s tile
    if !creditsFree t r.1 r.2.2.2 then s
    else
      let s1 := setTile s tile { takeCredits t r.1 r.2.2.2 with gcq := t.gcq.erase r }
      let s2 := updEnt s1 r.2.1 r.2.2.1 (fun e => { e with queued := false })
      match unitOf s r.2.1 with
      | none => s2
      | some u =>
        match jobOf s u.jid, u.ents[r.2.2.1]? with
        | some j, some e => if e.probe == .pending || e.probe == .noProbe then s2 else countRead s2 j e
        | _, _ => s2

/-- GCQ_GRANT. -/
def execGcqGrant (tile : Fin 48) (s : State) : Host.Outcome State Fault Refusal := act s (fun s => gcqGrant s tile)

/-! ### Intake (R117 to R122, R128, R132) -/

/-- A list element of a command that a tile's gather engine reads at a virtual address (R362), and whether its line is
poisoned. -/
def listRead (s : State) (tile va n : Nat) : State × Nat × Bool :=
  match extHeld s 0 va n with
  | .ok [p] =>
    let (s1, b, bad) := readExt (xltUse s tile p.ent) p.pa n p.hint
    (s1, ofBytes b, bad.any id)
  | _ => (s, 0, true)

/-- A two's complement number of `n` bits. -/
def signed (n v : Nat) : Int := if v < 2 ^ (n - 1) then v else (v : Int) - 2 ^ n

/-- The index at a position: from the command's list on the owner, from the fanned-out list elsewhere (R107). -/
def indexAt (s : State) (tile : Nat) (j : LkJob) (p : Nat) : State × Int × Bool :=
  match j.cid.bind (cmdOf s) with
  | some c =>
    let w := if bit (c.w 0) 24 then 8 else 4
    let (s1, v, bad) := listRead s tile (c.f 2 0 52 + w * p) w
    (s1, signed (8 * w) v, bad)
  | none =>
    let x := j.lists.idx.getD p (0, true)
    (s, x.1, x.2)

/-- The weight at a position, and whether its line is poisoned (R109, R119). -/
def weightAt (s : State) (tile : Nat) (j : LkJob) (p : Nat) : State × F32 × Bool :=
  if !j.weighted then (s, f32One, false) else
  match j.cid.bind (cmdOf s) with
  | some c =>
    let (s1, v, bad) := listRead s tile (c.f 4 0 52 + 4 * p) 4
    (s1, BitVec.ofNat 32 v, bad)
  | none =>
    let x := j.lists.wgt.getD p (0, true)
    (s, x.1, x.2)

/-- The bag that a position of a unit belongs to. -/
def bagOfPos (j : LkJob) (u : Unit') (p : Nat) : Nat :=
  ((List.range u.nbags).find? (fun i => decide (p < j.lists.off.getD (u.bag0 + i + 1) 0))).getD 0 + u.bag0

/-- A new row of `bytes` bytes obtains a dedup entry (R121). -/
def dedupRoom (u : Unit') (bytes : Nat) : Bool :=
  decide ((u.ents.filter (fun e => e.dedup)).length < 4096) && decide (dedupUse u + bytes ≤ 262144)

/-- The bag's accumulator, created when its first position is taken. -/
def touchBag (s : State) (j : LkJob) (u : Unit') (b : Nat) (poison : Bool) : Unit' :=
  if u.bags.any (fun x => x.bag == b) then
    { u with bags := u.bags.map (fun x => if x.bag = b then { x with poison := x.poison || poison } else x) }
  else
    let k := if u.seg.isSome then (u.p0 - bagStart j b) / groupLen (descOf s j.desc).gsize else 0
    { u with bags := u.bags ++ [{ bag := b, nextGrp := k, acc := none, wins := [], nvalid := 0, poison := poison,
                                  released := false }] }

/-- Appends a position and advances the cursor. -/
def addPos (s : State) (uid : Nat) (j : LkJob) (p : PosRec) (poison : Bool) : State :=
  updUnit s uid (fun u => { touchBag s j u p.bag poison with pos := u.pos ++ [p], cursor := p.pos + 1 })

/-- The record of a position that a row serves under a weight. -/
def posRec (p bag row : Nat) (ent : Option Nat) (w : Weight) (wbad : Bool) : PosRec :=
  { pos := p, bag := bag, row := row, ent := ent, w := w.w, wOk := w.ok, flush := w.flush, nonfin := w.nonfinite,
    wbad := wbad, held := false, raised := false, entered := false }

/-- A dropped position (R117, R118): counted, its weight ignored, and its bag poisoned when its index line is. -/
def dropPos (s : State) (uid : Nat) (j : LkJob) (p bag : Nat) (k : Nat) (poison : Bool) : State :=
  let r := posRec p bag 0 none { Weight.one with w := 0, ok := false } false
  updJob (bump1 (addPos s uid j r poison) k) j.jid (fun j => { j with drops := j.drops + 1 })

/-- A new row read of the window (R93, R120, R121, R128, R132, R538). A hint outside the pool for whose read the credits
are lacking counts SPEC_SKIP alone: R128 is looked at before R132, which is the model's choice (log entry 112). -/
def newRow (s : State) (uid : Nat) (j : LkJob) (row : Nat) : State :=
  match unitOf s uid with
  | none => s
  | some u =>
    let d := j.desc
    let x := descOf s d
    let t := u.tile
    let i := u.ents.length
    let direct := x.resident || j.noProbe
    let (s1, h) := if direct then (s, none) else hintLookup s t d row
    let bytes := match h with
      | some y => slotSize y.wclass x.cols
      | none => homeSz x
    let dd := dedupRoom u bytes
    let src : RowSrc := if x.resident then .resident else if j.noProbe then .home else .none
    let e : RowEnt := { row := row, dedup := dd, size := if dd then bytes else 0, src := src,
                        probe := if direct then .noProbe else .pending, data := none, conf := false, queued := false,
                        unpop := false, poisoned := false, win := s.load.mwNum, defer := [], late := none }
    let s2 := bumpIf (updUnit s1 uid (fun u => { u with ents := u.ents ++ [e] })) (!dd) (ctrTileDedupFull t)
    let s3 := issueRead s2 u j.lc i (if direct then srcSectors x src else 2)
    match h with
    | none => s3
    | some y =>
      if j.nospec then s3
      else
        let n := slotSize y.wclass x.cols / 32
        let tl := tileOf s3 t
        if !gcqClear tl j.lc || !creditsFree tl j.lc n then bump1 s3 (ctrTileSpecSkip t)
        else if y.slot * 32 < poolBase s || poolBase s + (layoutOf s).pool < y.slot * 32 + 32 * n then
          bump1 s3 (ctrTileSpecDropFault t)
        else
          bump1 (updEnt (setTile s3 t (takeCredits tl j.lc n)) uid i (fun e =>
            { e with src := .spec y.slot y.version y.wclass s.alm.epoch.toNat })) (ctrTileSpecIssued t)

/-- A position whose index is good (R119, R120, R122, R142). One that a confirmed row serves is dropped, or its weight
takes effect, at once. -/
def takeRow (s : State) (uid : Nat) (j : LkJob) (p bag row : Nat) (wx : F32) (wbad : Bool) : State :=
  match unitOf s uid with
  | none => s
  | some u =>
    let d := j.desc
    let w := if !j.weighted then Weight.one else if wbad then { Weight.one with w := 0, ok := false } else weightOf wx
    match u.ents.findIdx? (fun e => e.dedup && e.row == row) with
    | some i =>
      let r := posRec p bag row (some i) w wbad
      let s1 := bump1 (addPos s uid j r false) (ctrTileDedupHit u.tile)
      match u.ents[i]? with
      | none => s1
      | some e =>
        if !e.conf then s1
        else if e.unpop then
          updJob (bump1 s1 (ctrTableDropUnpop d)) j.jid (fun j => { j with drops := j.drops + 1 })
        else weightsTake s1 uid d [r]
    | none => newRow (addPos s uid j (posRec p bag row (some u.ents.length) w wbad) false) uid j row

/-- The unit may take a position: none of its requests waits, and its tile does not drain (R126, R260). -/
def mayTake (s : State) (u : Unit') : Bool :=
  decide (u.cursor < u.p1) && !(tileOf s u.tile).gcq.any (fun r => r.2.1 == u.uid) && !s.alm.draining.contains u.tile &&
    s.pwr.restart != .running

/-- POSITION_INTAKE: one position of the unit. Its index and its weight are read; an index in a poisoned line counts
DROP_POISON whatever its value reads as, since the value is unknown, which is the model's choice where R117 leaves the
order open (log entry 112). -/
def intake (s : State) (uid : Nat) : State :=
  match runningLk s uid with
  | none => s
  | some (u, j) =>
    if !mayTake s u then s
    else
      let s0 := notePass s u.tile
      let p := u.cursor
      let b := bagOfPos j u p
      let d := j.desc
      let (s1, v, bad) := indexAt s0 u.tile j p
      let (s2, wx, wbad) := weightAt s1 u.tile j p
      let s3 :=
        if bad then dropPos s2 uid j p b (ctrTableDropPoison d) true
        else if v < 0 then dropPos s2 uid j p b (ctrTableDropNeg d) false
        else if (descOf s d).rows ≤ v.toNat then dropPos s2 uid j p b (ctrTableDropOor d) false
        else takeRow s2 uid j p b v.toNat wx wbad
      enterReady s3 uid

/-- POSITION_INTAKE. -/
def execPositionIntake (uid : Nat) (s : State) : Host.Outcome State Fault Refusal := act s (fun s => intake s uid)

end Sys2Proof.Machine
end

