-- ==== Sys2Proof/Machine/Fanout.lean ====
section
/-! DEFINITION. Messages of the classes IFO, PFI and CTL, lists read for another chip, fan-out and fan-in space
(R95, R431, R433, R434), and the lines of command streams (R372, R373). -/

namespace Sys2Proof.Machine

/-! ### Messages (R429, R431); the message types are the model's (log entry 30) -/

def clsIfo : Nat := 0
def clsPfi : Nat := 1
def clsCtl : Nat := 6
def mtLookup : Nat := 0
def mtScatter : Nat := 1
def mtGradient : Nat := 2
def mtFoReq : Nat := 0
def mtFoGrant : Nat := 1
def mtFoDeny : Nat := 2
def mtWindow : Nat := 3
def mtReady : Nat := 4
def mtRefuse : Nat := 5
def mtCancel : Nat := 6
def mtCommit : Nat := 7
def mtSkew : Nat := 8
def mtLoss : Nat := 9

/-- Sends one message of a command. -/
def sendMsg (s : State) (cls mtype : Nat) (dst : BitVec 12) (tag arg : Nat) (data : List (Byte × Bool)) : State :=
  let f : TMsg := {
    cls := cls, leg := 0, dst := dst, src := s.mer.fabric, mtype := BitVec.ofNat 4 mtype,
    len := 1 + (data.length + 15) / 16, tag := tag, arg := BitVec.ofNat 64 arg, payload := data.map (fun x => x.1),
    poison := (chunks 32 data.length data).map (fun c => c.any (fun x => x.2)) }
  transitSend s f

/-- Sends data in messages of at most 255 units of payload, which every receive-buffer share holds, numbered in `ARG` from bit 40 on. -/
def sendBig (s : State) (cls mtype : Nat) (dst : BitVec 12) (tag arg : Nat) (data : List (Byte × Bool)) : State :=
  let ps := chunks 4080 data.length data
  (if ps.isEmpty then [[]] else ps).zipIdx.foldl (fun t x => sendMsg t cls mtype dst tag (arg + x.2 * 2 ^ 40) x.1) s

/-- The 16 bytes before the lists of a LOOKUP's or a SCATTER's request: what a rank needs of the command beside `ARG`; the
layout is the model's (log entry 30). -/
def reqHead (nbags nidx mapId : Nat) (wide lc release : Bool) (nblkM1 : Nat) : List (Byte × Bool) :=
  (toBytes 4 nbags ++ toBytes 4 nidx ++
    toBytes 8 (mapId + b2n wide * 2 ^ 16 + b2n lc * 2 ^ 17 + b2n release * 2 ^ 18 + nblkM1 * 2 ^ 19)).map (fun b => (b, false))

/-- The other ranks of a descriptor's split group, with their chips (R67). -/
def otherRanks (s : State) (x : Desc) : List (Nat × BitVec 12) :=
  if x.log2s = 0 then [] else
  match mget? s.tabs.groups x.group with
  | none => []
  | some g => (g.chips.zipIdx.filter (fun c => c.2 != x.rank && decide (c.2 < 2 ^ x.log2s))).map (fun c => (c.2, c.1))

/-- S of a descriptor. -/
def Desc.ranks (x : Desc) : Nat := 2 ^ x.log2s

/-! ### Lists of a command -/

/-- The bytes of pieces in the tiers, each with its line's poison. -/
def readMarked : State → List Piece → State × List (Byte × Bool)
  | s, [] => (s, [])
  | s, p :: ps =>
    let (s1, l) := readTier s p
    let (s2, ls) := readMarked s1 ps
    (s2, l ++ ls)

/-- A validated virtual extent with its marks. -/
def readList (s : State) (va n : Nat) : State × List (Byte × Bool) :=
  match extHeld s 0 va n with
  | .ok ps => readMarked s ps
  | .error _ => (s, List.replicate n (0, true))

/-- The extent lies wholly within pinned range entries into tier F or tier S that grant the right (R113 step 3). -/
def extentOk (s : State) (right va n : Nat) : Bool :=
  match extPieces s true right va n with
  | .ok ps => ps.all (fun p => !p.host && inTiers p.pa p.len)
  | .error _ => false

/-- Numbers of `w` bytes with a mark where a byte is poisoned. -/
def numsOf (w : Nat) (l : List (Byte × Bool)) : List (Nat × Bool) :=
  (chunks w l.length l).map (fun c => (ofBytes (c.map (fun x => x.1)), c.any (fun x => x.2)))

/-- The offset list is valid (R108). -/
def offsetsOk (off : List Nat) (nidx : Nat) : Bool :=
  off.headD 1 == 0 && off.getLast? == some nidx && (off.zip (off.drop 1)).all (fun p => decide (p.1 ≤ p.2))

/-! ### Fan-out and fan-in space (R433, R434) -/

/-- Sizes of the areas: the layout's, or the smallest below SL3 (R511, R539). -/
def fanoutArea (s : State) : Nat := if s.pwr.sl = 3 then (layoutOf s).fanout else 2 ^ 30
def faninArea (s : State) : Nat := if s.pwr.sl = 3 then (layoutOf s).fanin else 2 ^ 30

/-- Fan-out bytes reserved. -/
def foUsed (s : State) : Nat := s.tr.foRes.foldl (fun n r => n + r.bytes) 0

/-- Grants one request, and tells the owner. -/
def foGive (s : State) (r : FoRes) : State :=
  sendMsg { s with tr := { s.tr with foRes := s.tr.foRes ++ [r] } } clsCtl mtFoGrant r.owner r.tag 0 []

/-- Grants waiting requests in arrival order while space lasts; the count bounds them. -/
def foServeGo : Nat → State → State
  | 0, s => s
  | k + 1, s =>
    match s.tr.foWait with
    | [] => s
    | r :: rs =>
      if foUsed s + r.bytes ≤ fanoutArea s then foServeGo k (foGive { s with tr := { s.tr with foWait := rs } } r) else s
def foServe (s : State) : State := foServeGo s.tr.foWait.length s

/-- FO_REQ (R433). -/
def foRequest (s : State) (owner : BitVec 12) (tag bytes : Nat) : State :=
  let r : FoRes := { owner := owner, tag := tag, bytes := roundUp bytes 65536 }
  if fanoutArea s < r.bytes then sendMsg (bump1 s ctrChipScatRefused) clsCtl mtFoDeny owner tag 0 []
  else foServe { s with tr := { s.tr with foWait := s.tr.foWait ++ [r] } }

/-- FO_REQ. -/
def execFoReq (owner : BitVec 12) (tag bytes : Nat) (s : State) : Host.Outcome State Fault Refusal :=
  act s (fun s => foRequest s owner tag bytes)

/-- The reservation of an owner's command at this rank. -/
def foHeld (s : State) (owner : BitVec 12) (tag : Nat) : Bool :=
  s.tr.foRes.any (fun r => r.owner == owner && r.tag == tag)

/-- Asks every other rank for fan-out space of `n` bytes. -/
def foAsk (s : State) (x : Desc) (cid n : Nat) : State :=
  (otherRanks s x).foldl (fun t r => sendMsg t clsCtl mtFoReq r.2 cid n []) s

/-- Bytes of a fan-in window (R434). -/
def fiBytes (x : Desc) (nbags : Nat) : Nat :=
  roundUp (min nbags 4096 * (x.ranks - 1) * (4 * x.cols + 16)) 65536

/-- The fan-in area has room. -/
def fiRoom (s : State) (n : Nat) : Bool := decide (s.tr.fiRes.foldl (fun a r => a + r.2) 0 + n ≤ faninArea s)

/-! ### Lines of a command's stream (R372, R373) -/

/-- The producer may write its next line. -/
def mayProduce (s : State) (x : Strm) : Bool :=
  strmClosed s x || reached (semOf s x.d.semC + BitVec.ofNat 32 (linkCap x.d)) (BitVec.ofNat 32 (x.lines + 1))

/-- The consumer may read its next line. -/
def mayConsume (s : State) (x : Strm) : Bool :=
  strmClosed s x || reached (semOf s x.d.semP) (BitVec.ofNat 32 (x.lines + 1))

/-- Counts a line moved by a stream's engine (R476, R391). -/
def lineMoved (s : State) (n : Nat) : State :=
  tProg (bump1 s (ctrStreamStrLines n)) (strmTile n (strmOf s n).d) 1

/-- Sends staged lines of an output stream while its link permits; on a CLOSED link they are discarded (R381). The
count bounds the lines. -/
def pumpGo (n : Nat) : Nat → State → State
  | 0, s => s
  | k + 1, s =>
    let x := strmOf s n
    match x.staged with
    | [] => s
    | l :: ls =>
      if strmClosed s x then
        pumpGo n k (bump1 (setStrm s n { x with staged := ls, lines := x.lines + 1, discarded := true })
          (ctrStreamLinkDiscard n))
      else if mayProduce s x then
        let s1 := setStrm s n { x with staged := ls, lines := x.lines + 1, st := .running }
        let s2 := { s1 with str := { s1.str with cpLines := s1.str.cpLines ++ [(x.d.cpch, l.1, l.2)] } }
        pumpGo n k (semChange (lineMoved s2 n) x.d.semP true 1)
      else setStrm s n { x with st := .waiting }

/-- An output stream sends what it can. -/
def pump (s : State) (n : Nat) : State := strmRest (pumpGo n (strmOf s n).staged.length s) n

end Sys2Proof.Machine
end

