-- ==== Sys2Proof/Machine/ScatCommit.lean ====
section
/-! DEFINITION. The commit phase of a SCATTER on a rank, its report, and the owner's count of reports (R178, R197 to
R202, R237). -/

namespace Sys2Proof.Machine

/-! ### The scatter pool (R177) -/

/-- Bytes reserved by requests that have answered READY. -/
def poolUsed (s : State) : Nat := s.sc.jobs.foldl (fun n j => if j.ready then n + j.bytes else n) 0

/-- The job of a SCATTER on its owner. -/
def scOfCmd (s : State) (cid : Nat) : Option ScJob := s.sc.jobs.find? (fun j => j.cid == some cid)

/-- A job on this rank. -/
def scOf (s : State) (jid : Nat) : Option ScJob := s.sc.jobs.find? (fun j => j.jid == jid)

/-- Changes one job. -/
def updSc (s : State) (jid : Nat) (f : ScJob → ScJob) : State :=
  { s with sc := { s.sc with jobs := s.sc.jobs.map (fun j => if j.jid = jid then f j else j) } }

/-- Merge entries of a job. -/
def entriesOf (s : State) (jid : Nat) : List MergeEnt :=
  (s.sc.entries.zip s.sc.entriesJob).filterMap (fun e => if e.2 = jid then some e.1 else none)

/-! ### The delivery phase (R178, R197) -/

/-- Every contribution record of the job on this rank has been sorted, and no extra pass is left (R185, R186). -/
def scSorted (j : ScJob) : Bool :=
  j.expanded && j.flying.all (fun e => e.2.isEmpty) && j.runBuf.all (fun e => e.2.isEmpty) &&
    j.runs.all (fun e => decide (e.2.length ≤ 64) || j.passed.contains e.1)

/-- Rows wait to be merged. -/
def scRows (j : ScJob) : Bool := j.runs.any (fun e => e.2.any (fun r => !r.isEmpty))

/-- Nothing is left to merge or to deliver. -/
def scEmpty (s : State) (j : ScJob) : Bool := !scRows j && (entriesOf s j.jid).isEmpty

/-- An earlier SCATTER on the descriptor has not completed its commit phase (R178). -/
def scGated (s : State) (j : ScJob) : Bool :=
  s.sc.jobs.any (fun k => decide (k.ord < j.ord) && k.desc == j.desc && !k.reported) ||
    s.orr.cmds.any (fun c => c.op == 0x02 && c.phase == .waiting && decide (0 < c.ord) && decide (c.ord < j.ord) &&
      c.plan == j.desc && (scOfCmd s c.cid).isNone)

/-- The delivery phase of a job starts, with the next batch number (R197). -/
def startDelivery (s : State) (j : ScJob) : State :=
  if j.ubatch.isSome || !scSorted j || !j.ready || scGated s j then s
  else
    let n := (s.sc.ubatch + 1) % 65536
    let s1 := { s with sc := { s.sc with ubatch := n } }
    updSc s1 j.jid (fun j => { j with ubatch := some n, lastGo := !scRows j })

/-- The last delivery has been sent: the commit phase (R199). -/
def inCommit (s : State) (j : ScJob) : Bool := j.ubatch.isSome && j.lastGo && scEmpty s j

/-- Every acknowledgement and every flip of the commit phase has come, and every BATCH_END has gone. -/
def commitOver (s : State) (j : ScJob) : Bool :=
  inCommit s j && !j.reported && j.acked == j.sent && j.toInstall == 0 && j.ports.all (fun p => j.ended.contains p)

/-! ### Reports (R200 to R202, R237) -/

/-- A rank's report. -/
def commitRep (j : ScJob) : CommitRep :=
  { rows := j.sent, records := j.records, excluded := j.excluded.length, digest := j.digest, drops := j.drops,
    poison := j.poison }

/-- The owner counts a report; with the last one the command is done. Ranks that differ leave their logs to Meridian, this
rank's with them (R237). -/
def takeReport (s : State) (cid rank : Nat) (r : CommitRep) : State :=
  match cmdOf s cid, scOfCmd s cid with
  | some c, some j =>
    let x := descOf s j.desc
    if c.ranks.contains (128 + rank) || decide (x.ranks ≤ rank) || c.phase == .done then s
    else
      let ds := j.digests ++ [r.digest]
      let s1 := updCmd (updSc s j.jid (fun j => { j with digests := ds })) cid (fun c => { c with
        ranks := sins c.ranks (128 + rank), cnt0 := c.cnt0 + r.rows, cnt1 := c.cnt1 + r.excluded,
        cnt2 := c.cnt2 + r.records, drops := c.drops || r.drops, poison := c.poison || r.poison })
      if ds.length < x.ranks then s1
      else
        let s2 := if ds.any (fun d => d != r.digest) then
            { s1 with mer := { s1.mer with
              skewDue := mset s1.mer.skewDue j.desc (mget s1.mer.skewDue j.desc [] ++ [j.log]) } } else s1
        finish s2 cid
  | _, _ => s

/-- A commit log as a message: pairs of row and STEP. -/
def logBytes (l : List RowStep) : List Byte := l.flatMap (fun x => toBytes 5 x.row ++ toBytes 3 x.step)

/-- A rank whose commit phase has ended reports; a rank that is not the owner is then done with the command, its
reservations free (R177, R199). Its log goes out behind the report: only the owner can tell whether the digests differ, and
the rank releases its reservation with the report (R237; log entry 120). -/
def report (s : State) (j : ScJob) : State :=
  let s1 := updSc s j.jid (fun j => { j with reported := true })
  match j.cid with
  | some cid => takeReport s1 cid (descOf s j.desc).rank (commitRep j)
  | none =>
    let r := commitRep j
    let b := toBytes 8 r.rows ++ toBytes 8 r.records ++ toBytes 8 r.excluded ++ toBytes 8 r.digest.toNat ++
      toBytes 8 (b2n r.drops + b2n r.poison * 2)
    let s2 := sendMsg s1 clsCtl mtCommit j.owner j.tag 0 (b.map (fun x => (x, false)))
    let s3 := if j.log.isEmpty then s2 else
      sendMsg s2 clsCtl mtSkew j.owner j.tag 0 ((logBytes j.log).map (fun x => (x, false)))
    foServe (dropScat s3 j)

/-- Every job that can start its delivery phase does, and every job whose commit phase is over reports. -/
def scatRound (s : State) : State :=
  let s1 := s.sc.jobs.foldl (fun t j => match scOf t j.jid with
    | some k => startDelivery t k
    | none => t) s
  s1.sc.jobs.foldl (fun t j => match scOf t j.jid with
    | some k => if commitOver t k then report t k else t
    | none => t) s1

/-- Every job goes on as far as it can without an event of its own; the count bounds the rounds. -/
def scatGo (s : State) : State := iter (s.sc.jobs.length + 1) (fun _ t => scatRound t) s

end Sys2Proof.Machine
end

