-- ==== Sys2Proof/Machine/LyushFrames.lean ====
section
/-! DEFINITION. Frames on the companion links (R208, R313): what a companion does with a frame from the block, and the
block with a frame from a companion. A frame that answers is on the link until its own row takes it. -/

namespace Sys2Proof.Machine

/-! ### Results of updates (R218, R219, R249) -/

/-- A result that makes the SCATTER complete with OK_WITH_POISON (R219). -/
def resultBad (r : BitVec 4) : Bool := r == 3 || decide (5 ≤ r.toNat)

/-- The term of the commit digest (R237). -/
def digestTerm (row step : Nat) : W64 :=
  (BitVec.ofNat 64 row * 0x9E3779B97F4A7C15#64) ^^^ BitVec.ofNat 64 step

/-- Changes the SCATTERs that satisfy a test. -/
def updScat (s : State) (p : ScJob → Bool) (f : ScJob → ScJob) : State :=
  { s with sc := { s.sc with jobs := s.sc.jobs.map (fun j => if p j then f j else j) } }

/-- The SCATTER whose delivery phase carries a batch number. -/
def inBatch (ub : Nat) (j : ScJob) : Bool := j.ubatch == some ub

/-- The acknowledgement of an UPDATE reaches the block (R219, R237): an outstanding delivery less on the port. -/
def ackTake (s : State) (k : Nat) (a : AckMsg) : State :=
  let s1 := bump1 s (resultCtr a.desc a.result)
  let s2 := setLy s1 k { lyOf s1 k with outstanding := (lyOf s1 k).outstanding - 1 }
  updScat s2 (inBatch a.ubatch) (fun j => { j with
    acked := j.acked + 1, poison := j.poison || resultBad a.result,
    digest := if a.result = 0 then j.digest + digestTerm a.row a.step else j.digest,
    log := if a.result = 0 then j.log ++ [{ desc := a.desc, row := a.row, step := a.step }] else j.log })

/-- Takes the first item that satisfies a test out of a list. -/
def takeFirst {α : Type} (p : α → Bool) : List α → Option (α × List α)
  | [] => none
  | x :: l => if p x then some (x, l) else (takeFirst p l).map (fun r => (r.1, x :: r.2))

/-! ### Frames to a companion (R208, R316) -/

/-- A frame to companion k: counted and lost while the port is down, not taken in self-refresh (R316, R330). -/
def lyFrame (s : State) (k : Nat) (f : Lyush → State) : State :=
  if !portUp s k then countPort s k
  else if (lyOf s k).selfRef || s.pwr.restart == .running then s
  else f (lyOf s k)

/-- The acknowledgement of an UPDATE is on the link. -/
def pushAck (s : State) (k : Nat) (a : AckMsg) : State := setLy s k { lyOf s k with acks := (lyOf s k).acks ++ [a] }

/-- The acknowledgement of a row operation is on the link. -/
def pushRack (s : State) (k : Nat) (a : AckMsg) : State := setLy s k { lyOf s k with racks := (lyOf s k).racks ++ [a] }

/-- A frame that concerns a row, at its turn on the row (R209). -/
def rowFrame (s : State) (k d row : Nat) (f : State → State) : State := lyFrame s k (fun _ => f (rowGate s k d row))

/-- A COPY is on the link. -/
def pushCopy (s : State) (k d row : Nat) (c : Option (List Byte)) : State :=
  match c with
  | some sl => setLy s k { lyOf s k with copies := (lyOf s k).copies ++ [(d, row, sl)] }
  | none => s

/-- Closes the batches whose BATCH_END has come and whose updates have all been made; pending changes follow (R232). -/
def lyClose (l : Lyush) : Lyush :=
  lyApplyPending { l with batches := l.batches.filter (fun b =>
    !(l.dones.contains b.2 && !l.updq.any (fun u => u.ubatch == b.2))) }

/-- UPDATE (R217, R247): the delivery arrives in the update queue, and its batch is open (R232). -/
def execUpdate (p : Fin 8) (u : UpdMsg) (s : State) : Host.Outcome State Fault Refusal :=
  act s (fun s =>
    match takeFirst (fun v => v == u) (lyOf s p).flying with
    | none => s
    | some (_, rest) =>
      if !portUp s p || (lyOf s p).selfRef then s
      else
        let l := lyOf s p
        let bs := if l.batches.contains (u.desc, u.ubatch) then l.batches else l.batches ++ [(u.desc, u.ubatch)]
        setLy s p { l with flying := rest, updq := l.updq ++ [u], batches := bs })

/-- UPDATE_ENGINE_TAKE (R217, R247): a free engine makes the oldest waiting update; the COPY goes out before the
acknowledgement (R209). -/
def engineTake (s : State) (k : Nat) : State :=
  match (lyOf s k).updq with
  | [] => s
  | u :: us =>
    if !portUp s k || (lyOf s k).selfRef || s.pwr.restart == .running then s
    else
      let (s1, r) := lyUpdate (setLy s k { lyOf s k with updq := us }) k u
      let s2 := pushAck (pushCopy s1 k u.desc u.row r.copy) k r.ack
      checkParams (setLy s2 k (lyClose (lyOf s2 k)))

/-- UPDATE_ENGINE_TAKE. -/
def execUpdateEngineTake (p : Fin 8) (s : State) : Host.Outcome State Fault Refusal := act s (fun s => engineTake s p)

/-- BATCH_END (R199, R209): sent once in the commit phase to each companion that received a delivery. -/
def execBatchEnd (p : Fin 8) (ubatch : BitVec 16) (s : State) : Host.Outcome State Fault Refusal :=
  act s (fun s =>
    let ub := ubatch.toNat
    if !s.sc.jobs.any (fun j => inBatch ub j && inCommit s j && j.ports.contains p.val && !j.ended.contains p.val) then s
    else if (lyOf s p).flying.any (fun u => u.ubatch == ub) then s
    else
      let s1 := updScat s (inBatch ub) (fun j => { j with ended := sins j.ended p })
      scatGo (if !portUp s1 p then countPort s1 p
      else checkParams (setLy s1 p (lyClose { lyOf s1 p with dones := (lyOf s1 p).dones ++ [ub] }))))

/-- SET_SERVE (R242). -/
def execSetServe (p : Fin 8) (f : ServeMsg) (s : State) : Host.Outcome State Fault Refusal :=
  act s (fun s => rowFrame s p f.desc f.row (fun s => lySetServe s p f))

/-- RESEED (R243). -/
def execReseed (p : Fin 8) (desc : Fin 4096) (row : Nat) (slice : List Byte) (s : State) :
    Host.Outcome State Fault Refusal :=
  act s (fun s => rowFrame s p desc row (fun s =>
    let (s1, a) := lyReseed s p desc row slice
    pushRack s1 p a))

/-- REQUANT (R244). -/
def execRequant (p : Fin 8) (desc : Fin 4096) (row : Nat) (s : State) : Host.Outcome State Fault Refusal :=
  act s (fun s => rowFrame s p desc row (fun s =>
    let (s1, r) := lyRequant s p desc row
    pushRack (pushCopy s1 p desc row r.copy) p r.ack))

/-- LEVEL_STEP (R239). -/
def execLevelStep (p : Fin 8) (desc : Fin 4096) (row : Nat) (target : BitVec 24) (s : State) :
    Host.Outcome State Fault Refusal :=
  act s (fun s => rowFrame s p desc row (fun s =>
    let (s1, a) := lyLevel s p desc row target.toNat
    pushRack s1 p a))

/-- LOAD_CTX (R207, R232). -/
def execLoadCtx (p : Fin 8) (desc : Fin 4096) (c : LyCtx) (s : State) : Host.Outcome State Fault Refusal :=
  act s (fun s => lyFrame s p (fun l => setLy s p (lyLoadCtx l desc c)))

/-- LOAD_PROG (R230). -/
def execLoadProgFrame (p : Fin 8) (id : Fin 256) (g : Prog) (s : State) : Host.Outcome State Fault Refusal :=
  act s (fun s => lyFrame s p (fun l => setLy s p { l with progs := mset l.progs id g }))

/-- LOAD_PSET (R231, R232). -/
def execLoadPsetFrame (p : Fin 8) (id : Fin 256) (f : Sys2Proof.PSet) (s : State) : Host.Outcome State Fault Refusal :=
  act s (fun s => lyFrame s p (fun l => setLy s p (lyLoadPset l id f)))

/-- LOAD_CB (R207). -/
def execLoadCb (p : Fin 8) (id : Fin 1024) (c : Codebook) (s : State) : Host.Outcome State Fault Refusal :=
  act s (fun s => lyFrame s p (fun l => setLy s p { l with cbs := mset l.cbs id c }))

/-! ### Plain accesses (R313, R322) -/

/-- The extent lies in companion k's span. -/
def onComp (k a n : Nat) : Bool := inTierS a n && compOf a == k && compOf (a + n - 1) == k

/-- The sectors of an answer fill the lines with an open miss that they cover whole (R336). -/
def fillSectors (s : State) (d : SectorData) : State :=
  ((s.rc.mshr.map (fun m => m.x)).dedup).foldl (fun t x =>
    let i := (x * 64 - d.addr) / 32
    if decide (d.addr ≤ x * 64) then
      match d.sectors[i]?, d.sectors[i + 1]? with
      | some u, some v => fillLine t x (u.1 ++ v.1) (u.2 || v.2)
      | _, _ => t
    else t) s

/-- Cuts a read of whole sectors into an answer. -/
def sectorsOf (addr : Nat) (b : List Byte) (p : List Bool) : SectorData :=
  { addr := addr, sectors := (chunks 32 b.length b).zipIdx.map (fun x => (x.1, p.getD x.2 false)) }

/-- What the link and the arrays make of a sector that is read (R321, R323): a corrected link error only counts, one that
persists keeps the sector from being read until a later read of it finds none, and an array error stands unmarked. -/
def lyOutcome (s : State) (k sec : Nat) (o : LyOutcome) : State :=
  let s1 := { s with mem := { s.mem with linkS := sdel s.mem.linkS sec } }
  match o with
  | .clean => s1
  | .linkCe => bump1 s1 (ctrCompSLinkCe k)
  | .linkUe => { s1 with mem := { s1.mem with linkS := sins s1.mem.linkS sec } }
  | .array d => { s1 with mem := { s1.mem with cells := cellsWrite s1.mem.cells (sec * 32) (bytesAt d 0 32) } }

/-- RD (R313, R321): a read of 1 to 8 sectors of one granule, with what each is found to be. On a down port it returns
poisoned (R316). -/
def compRead (s : State) (k addr : Nat) (found : List LyOutcome) : State :=
  let n := found.length
  if !onComp k addr (32 * n) || n = 0 || decide (8 < n) || decide (256 < addr % 256 + 32 * n) || addr % 32 != 0 then s
  else if !portUp s k then
    let (s1, b) := freeBytes (countPort s k) (32 * n)
    fillSectors s1 (sectorsOf addr b (List.replicate n true))
  else if (lyOf s k).selfRef || s.pwr.restart == .running then s
  else
    let s0 := found.zipIdx.foldl (fun t x => lyOutcome t k (addr / 32 + x.2) x.1) s
    let (s1, b, p) := dReadSecs s0 addr n
    setLy s1 k { lyOf s1 k with answers := (lyOf s1 k).answers ++ [sectorsOf addr b p] }

/-- COMPANION_RD. -/
def execCompanionRd (p : Fin 8) (addr : Nat) (found : List LyOutcome) (s : State) : Host.Outcome State Fault Refusal :=
  act s (fun s => compRead s p addr found)

/-- SLOT_RD (R211): one access to the whole home slot under the row lock. -/
def execSlotRd (p : Fin 8) (desc : Fin 4096) (row : Nat) (s : State) : Host.Outcome State Fault Refusal :=
  act s (fun s =>
    let x := descOf s desc
    if x.dstate = 0 || decide (x.rows ≤ row) || homeComp desc x row != p.val then s
    else lyFrame s p (fun _ =>
      let (s1, b, bad) := readHome s desc row
      setLy s1 p { lyOf s1 p with answers := (lyOf s1 p).answers ++
        [sectorsOf (homeAddr desc x row) b (List.replicate (b.length / 32) bad)] }))

/-- WR (R313, R322): whole sectors, each with its poison bit. -/
def compWrite (s : State) (k : Nat) (d : SectorData) : State :=
  if !onComp k d.addr (32 * d.sectors.length) || d.addr % 32 != 0 || d.sectors.isEmpty then s
  else lyFrame s k (fun _ =>
    let s1 := d.sectors.zipIdx.foldl (fun t x =>
      dWriteSec t (d.addr / 32 + x.2) ((bytesAt x.1.1 0 32).map some) x.1.2) s
    setLy s1 k { lyOf s1 k with wrAcks := (lyOf s1 k).wrAcks + 1 })

/-- COMPANION_WR. -/
def execCompanionWr (p : Fin 8) (d : SectorData) (s : State) : Host.Outcome State Fault Refusal :=
  act s (fun s => compWrite s p d)

/-- WR_MASK (R313, R322): one sector under a mask of bytes. -/
def compWriteMask (s : State) (k addr : Nat) (mask : W32) (data : List Byte) (poison : Bool) : State :=
  if !onComp k addr 32 || addr % 32 != 0 then s
  else lyFrame s k (fun _ =>
    let upd := (List.range 32).map (fun i => if mask.getLsbD i then some ((bytesAt data 0 32).getD i 0) else none)
    let s1 := dWriteSec s (addr / 32) upd poison
    setLy s1 k { lyOf s1 k with wrAcks := (lyOf s1 k).wrAcks + 1 })

/-- WR_MASK. -/
def execWrMask (p : Fin 8) (addr : Nat) (mask : W32) (data : List Byte) (poison : Bool) (s : State) :
    Host.Outcome State Fault Refusal :=
  act s (fun s => compWriteMask s p addr mask data poison)

/-- A self-refresh request to a down port is counted and reported as done (R316). -/
def srDown (s : State) (k : Nat) : State :=
  countPort (setLy s k { lyOf s k with srDones := (lyOf s k).srDones + 1 }) k

/-- SR_ENTER (R330): taken when no update waits. -/
def execSrEnter (p : Fin 8) (s : State) : Host.Outcome State Fault Refusal :=
  act s (fun s =>
    if !portUp s p then srDown s p
    else lyFrame s p (fun l =>
      if l.updq.isEmpty then setLy s p { l with selfRef := true, srDones := l.srDones + 1 } else s))

/-- SR_EXIT (R330). -/
def execSrExit (p : Fin 8) (s : State) : Host.Outcome State Fault Refusal :=
  act s (fun s =>
    if !portUp s p then srDown s p
    else setLy s p { lyOf s p with selfRef := false, srDones := (lyOf s p).srDones + 1 })

/-- HEALTH (R311, R313, R323): the companion has made this many repairs of its own DRAM rows since it was last asked. -/
def execHealth (h : HealthAsk) (s : State) : Host.Outcome State Fault Refusal :=
  act s (fun s =>
    if !portUp s h.port then countPort s h.port
    else
      let s1 := bump s (ctrCompSRepair h.port) h.repairs
      setLy s1 h.port { lyOf s1 h.port with healths := (lyOf s1 h.port).healths ++ [healthWords s1 h.port] })

/-! ### Frames to the block -/

/-- UPD_ACK (R209, R219, R245): after the row's COPY. The acknowledgement of a row operation concerns no SCATTER; for a
commit the port acknowledges what the recent-commit list holds. -/
def updAckTake (s : State) (k : Nat) (a : AckMsg) : State :=
  match takeFirst (fun b => b == a) (lyOf s k).acks with
  | none => match takeFirst (fun b => b == a) (lyOf s k).racks with
    | none => s
    | some (_, rest) =>
      if (lyOf s k).copies.any (fun c => c.1 == a.desc && c.2.1 == a.row) then s
      else ackRow (setLy s k { lyOf s k with racks := rest }) a
  | some (_, rest) =>
    if (lyOf s k).copies.any (fun c => c.1 == a.desc && c.2.1 == a.row) then s
    else
      let l := lyOf s k
      let recent := if a.result = 0 then
          l.recent.filter (fun r => r != { desc := a.desc, row := a.row, step := a.step }) else l.recent
      let s1 := setLy s k { l with acks := rest, recent := recent }
      scatGo (ackTake s1 k a)

/-- UPD_ACK. -/
def execUpdAck (p : Fin 8) (a : AckMsg) (s : State) : Host.Outcome State Fault Refusal := act s (fun s => updAckTake s p a)

/-- COPY (R198, R241): the block takes the slice, which waits for an engine to install it. -/
def copyTake (s : State) (k d row : Nat) (slice : List Byte) : State :=
  match takeFirst (fun c => c == (d, row, slice)) (lyOf s k).copies with
  | none => s
  | some (_, rest) =>
    let s1 := setLy s k { lyOf s k with copies := rest }
    let s2 := updScat s1 (fun j => j.desc == d && j.ubatch.isSome && !j.reported) (fun j => { j with toInstall := j.toInstall + 1 })
    { s2 with alm := { s2.alm with copies := s2.alm.copies ++ [(d, row, slice)] } }

/-- COPY. -/
def execCopy (p : Fin 8) (desc : Fin 4096) (row : Nat) (slice : List Byte) (s : State) :
    Host.Outcome State Fault Refusal :=
  act s (fun s => copyTake s p desc row slice)

/-- BATCH_DONE (R209): after the acknowledgement of every UPDATE of the batch. -/
def execBatchDone (p : Fin 8) (ubatch : BitVec 16) (s : State) : Host.Outcome State Fault Refusal :=
  act s (fun s =>
    let l := lyOf s p
    let ub := ubatch.toNat
    if l.dones.contains ub && !l.updq.any (fun u => u.ubatch == ub) && !l.acks.any (fun a => a.ubatch == ub)
    then setLy s p { l with dones := l.dones.filter (fun b => b != ub) } else s)

/-- Rows of a commit log that are promoted are brought to the master's version (R245). -/
def requantRow (s : State) (x : RowStep) : State :=
  match probe s x.desc x.row with
  | (s1, none) => s1
  | (s1, some _) =>
    let (s2, r) := sendRequant s1 x.desc x.row
    match r.copy with
    | some sl => installCopy s2 x.desc x.row sl false
    | none => s2

/-- COMMIT_LOG (R245): a block of a companion's recent-commit list, read during a block restart. -/
def execCommitLog (p : Fin 8) (l : List RowStep) (s : State) : Host.Outcome State Fault Refusal :=
  act s (fun s =>
    if s.pwr.restart != .running || !portUp s p || !l.all (fun x => (lyOf s p).recent.contains x) then s
    else
      let s1 := setLy s p { lyOf s p with recent := (lyOf s p).recent.filter (fun x => !l.contains x) }
      l.foldl requantRow s1)

/-- RD_DATA (R313): the data reach the home slices that wait for them. -/
def execRdData (p : Fin 8) (d : SectorData) (s : State) : Host.Outcome State Fault Refusal :=
  act s (fun s => match takeFirst (fun x => x == d) (lyOf s p).answers with
    | none => s
    | some (_, rest) => fillSectors (setLy s p { lyOf s p with answers := rest }) d)

/-- WR_ACK (R313). -/
def execWrAck (p : Fin 8) (s : State) : Host.Outcome State Fault Refusal :=
  act s (fun s => setLy s p { lyOf s p with wrAcks := (lyOf s p).wrAcks - 1 })

/-- SR_DONE (R313). -/
def execSrDone (p : Fin 8) (s : State) : Host.Outcome State Fault Refusal :=
  act s (fun s => setLy s p { lyOf s p with srDones := (lyOf s p).srDones - 1 })

/-- HEALTH_DATA (R313). -/
def execHealthData (p : Fin 8) (v : List W64) (s : State) : Host.Outcome State Fault Refusal :=
  act s (fun s => match takeFirst (fun x => x == v) (lyOf s p).healths with
    | none => s
    | some (_, rest) => setLy s p { lyOf s p with healths := rest })

/-! ### Link events (R208, R218, R313 to R316) -/

/-- A reserved frame type (R208, R313). -/
def frameReserved (ty : BitVec 8) : Bool :=
  let t := ty.toNat
  decide (t < 0x10) || (decide (0x1A ≤ t) && decide (t ≤ 0x1F)) || (decide (0x24 ≤ t) && decide (t ≤ 0x2F)) || t == 0x37 ||
    decide (0x3C ≤ t)

/-- COMPANION_RESERVED_FRAME (R208, R218): discarded and counted; a reserved result counts, and stands for POISONED. -/
def execCompanionReservedFrame (p : Fin 8) (toBlock : Bool) (ty : BitVec 8) (result : Option (BitVec 4)) (s : State) :
    Host.Outcome State Fault Refusal :=
  act s (fun s =>
    if !portUp s p then s
    else if frameReserved ty then bump1 s (ctrCompLyProtoErr p)
    else match result with
      | none => s
      | some r =>
        if !toBlock || ty != 0x20 || decide (r.toNat < 9) then s
        else
          let s1 := bump1 s (ctrCompLyProtoErr p)
          match (lyOf s1 p).acks with
          | [] => match (lyOf s1 p).racks with
            | [] => s1
            | a :: as => ackRow (setLy s1 p { lyOf s1 p with racks := as }) { a with result := 5 }
          | a :: as => scatGo (ackTake (setLy s1 p { lyOf s1 p with acks := as }) p { a with result := 5 }))

/-- COMPANION_FLIT_NAK (R314). -/
def execCompanionFlitNak (p : Fin 8) (s : State) : Host.Outcome State Fault Refusal :=
  act s (fun s =>
    if !portUp s p then s
    else bump1 (setLy s p { lyOf s p with replays := (lyOf s p).replays + 1 }) (ctrCompClReplay p))

/-- The reads outstanding on a port that has gone down return poisoned, and fill the lines that wait for them (R316). -/
def readsDown (s : State) (k : Nat) : State :=
  (((s.rc.mshr.map (fun m => m.x)).dedup).filter (fun x => decide (tierSBase ≤ x * 64) && compOf (x * 64) == k)).foldl
    (fun t x => let (t1, d) := freeBytes (countPort t k) 64
                fillLine t1 x d true) s

/-- The port is down: COMPANION_DOWN, and every outstanding UPDATE completes as acknowledged POISONED; reads return
poisoned, a self-refresh request is reported as done, and a TABLE_PARAMS whose change the companion still holds returns
PEER_FAILED (R316). -/
def portDown (s : State) (k : Nat) : State :=
  let l := lyOf s k
  let open' : List AckMsg := (l.flying ++ l.updq).map (fun u => mkAck u 0 5) ++
    l.acks.map (fun a => { a with result := 5 })
  let s1 := setLy s k { Lyush.reset with
    downEvt := true, srDones := l.srDones, selfRef := l.selfRef, ctx := l.ctx, progs := l.progs, psets := l.psets, cbs := l.cbs,
    recent := l.recent }
  let s2 := readsDown (scatGo (open'.foldl (fun t a => ackTake (countPort t k) k a) s1)) k
  let s3 := endRuns (l.racks.foldl (fun t _ => countPort t k) s2) (fun r => match r with
    | .params _ d _ _ _ _ _ => l.pendCtx.any (fun x => x.1 == d)
    | _ => false) lrunChan rcPeer []
  raiseEvent s3 0x21 k 0 0

/-- The port trained at 16, 8 or no lanes (R315, R316). -/
def portTrained (s : State) (k lanes : Nat) : State :=
  if lanes = 16 then setLy s k { lyOf s k with lanes := 16, replays := 0 }
  else if lanes = 8 then raiseEvent (setLy s k { lyOf s k with lanes := 8, replays := 0 }) 0x20 k 8 0
  else portDown s k

/-- COMPANION_PORT_RETRAIN (R315): in service, of a port with more than 1,024 replays in this window. -/
def execCompanionPortRetrain (p : Fin 8) (lanes : Nat) (s : State) : Host.Outcome State Fault Refusal :=
  act s (fun s => if portUp s p && decide (1024 < (lyOf s p).replays) then portTrained s p lanes else s)

end Sys2Proof.Machine
end

