-- ==== Sys2Proof/Machine/LookupCmd.lean ====
section
/-! DEFINITION. LOOKUP: validation, fan-out, work units, and what happens to a bag's records on the owner
(chapter 4, R95 to R101, R170 to R173). -/

namespace Sys2Proof.Machine

/-! ### The descriptor (R103 to R110) -/

def lkPmode (c : Cmd) : Nat := c.f 0 20 2
def lkWeighted (c : Cmd) : Bool := bit (c.w 0) 22
def lkStats (c : Cmd) : Bool := bit (c.w 0) 23
def lkWide (c : Cmd) : Nat := if bit (c.w 0) 24 then 8 else 4
def lkOutk (c : Cmd) : Bool := bit (c.w 0) 25
def lkKeep (c : Cmd) : Bool := bit (c.w 0) 26
def lkNbags (c : Cmd) : Nat := c.f 1 0 32
def lkNidx (c : Cmd) : Nat := c.f 1 32 32
def lkStride (c : Cmd) : Nat := c.f 6 0 32
def lkStream (c : Cmd) : Nat := c.f 5 0 8

/-- Reserved fields, ranges and alignments: step 1 of R113 but for the record size. -/
def lkFields (c : Cmd) : Bool :=
  c.f 0 28 36 == 0 && c.f 2 52 12 == 0 && c.f 3 52 12 == 0 && c.f 4 52 12 == 0 && c.f 6 32 32 == 0 && c.f 7 16 48 == 0 &&
    (if lkOutk c then c.f 5 8 56 == 0 else c.f 5 52 12 == 0 && c.f 5 0 6 == 0) &&
    decide (1 ≤ lkNbags c) && decide (lkNbags c ≤ 1048576) && decide (lkNidx c ≤ 67108864) &&
    c.f 2 0 52 % lkWide c == 0 && c.f 3 0 2 == 0 && (!lkWeighted c || c.f 4 0 2 == 0) && lkStride c % 64 == 0

/-- The output stream is armed for the command (R113 step 1, R371). -/
def lkStreamOk (s : State) (c : Cmd) : Bool :=
  let x := strmOf s (lkStream c)
  !lkOutk c || (x.st != .disarmed && x.d.kind == 3 &&
    decide (min 512 (lkNbags c) * lkStride c ≤ x.d.credits * 65536))

/-- The record size RS (R110). -/
def lkRecord (c : Cmd) (x : Desc) : Nat := 16 + 4 * (x.ranks * x.cols) + 16 * b2n (lkStats c)

/-- Steps 1 and 2 of R113: the descriptor that the command resolves to. -/
def lkResolve (s : State) (c : Cmd) : Option (Nat × Desc) :=
  if !lkFields c || !lkStreamOk s c || (lkWeighted c && decide (2 ≤ lkPmode c)) then none
  else match liveDesc s (c.f 0 8 12) with
    | some (d, x) => if lkStride c < lkRecord c x then none else some (d, x)
    | none => none

/-- Step 3 of R113. -/
def lkExtents (s : State) (c : Cmd) : Bool :=
  extentOk s 0 (c.f 2 0 52) (lkNidx c * lkWide c) && extentOk s 0 (c.f 3 0 52) (4 * (lkNbags c + 1)) &&
    (!lkWeighted c || extentOk s 0 (c.f 4 0 52) (4 * lkNidx c)) &&
    (lkOutk c || extentOk s 1 (c.f 5 0 52) (lkNbags c * lkStride c))

/-! ### Work units (R115) -/

/-- A cut: first bag, bags, segment, positions. -/
structure Cut where
  bag0 : Nat
  nbags : Nat
  seg : Option Nat
  p0 : Nat
  p1 : Nat
  deriving DecidableEq, Repr

/-- The segments of a long bag. -/
def segCuts (bag p0 p1 : Nat) : List Cut :=
  (List.range ((p1 - p0 + 4095) / 4096)).map (fun k =>
    { bag0 := bag, nbags := 1, seg := some k, p0 := p0 + 4096 * k, p1 := min p1 (p0 + 4096 * (k + 1)) })

/-- Cuts bags in order; `cur` is the unit that is being packed. -/
def cutGo : List (Nat × Nat) → Nat → Option Cut → List Cut
  | [], _, cur => cur.toList
  | (a, b) :: l, bag, cur =>
    if 4096 < b - a then cur.toList ++ segCuts bag a b ++ cutGo l (bag + 1) none
    else
      let fresh : Cut := { bag0 := bag, nbags := 1, seg := none, p0 := a, p1 := b }
      match cur with
      | none => cutGo l (bag + 1) (some fresh)
      | some u =>
        if b - u.p0 ≤ 4096 && u.nbags < 512 then cutGo l (bag + 1) (some { u with nbags := u.nbags + 1, p1 := b })
        else u :: cutGo l (bag + 1) (some fresh)

/-- The cuts of an offset list. -/
def cutBags (off : List Nat) : List Cut := cutGo (off.zip (off.drop 1)) 0 none

/-- A ready unit of a job. -/
def newUnit (jid : Nat) (expand : Bool) (uid : Nat) (k : Cut) : Unit' :=
  { uid := uid, jid := jid, expand := expand, bag0 := k.bag0, nbags := k.nbags, seg := k.seg, p0 := k.p0, p1 := k.p1,
    cursor := k.p0, st := .ready, tile := 0, scratch := none, save := none, pos := [], ents := [], grps := [], bags := [] }

/-- Puts the units of an offset list in Orrery. -/
def addUnits (s : State) (jid : Nat) (expand : Bool) (off : List Nat) : State :=
  let cs := cutBags off
  let us := cs.zipIdx.map (fun x => newUnit jid expand (s.orr.nextUid + x.2) x.1)
  { s with orr := { s.orr with units := s.orr.units ++ us, nextUid := s.orr.nextUid + cs.length } }

/-! ### Kept maps (R170 to R173, R538) -/

/-- Bytes of a kept map. -/
def mapBytes (pmode nbags nidx cols : Nat) : Nat :=
  roundUp (64 + 4 * (nbags + 1) + 8 * nidx + 4 * nbags + if 2 ≤ pmode then 4 * cols * nbags else 0) 65536

/-- The rank keeps a map for the job, or refuses and counts. -/
def keepMap (s : State) (j : LkJob) (x : Desc) : State :=
  if !j.keepMap then s
  else
    let nb := j.lists.off.length - 1
    let nidx := j.lists.off.getLast?.getD 0
    let ms := mapBytes j.pmode.toNat nb nidx x.cols
    let used := s.sc.maps.foldl (fun n m => n + m.bytes) 0
    if s.pwr.sl != 3 || decide ((layoutOf s).maps < used + ms) || decide (1024 ≤ s.sc.maps.length) ||
        s.sc.maps.any (fun m => m.id == j.mapId) then
      updJob (bump1 s ctrChipMapRefused) j.jid (fun j => { j with keepMap := false })
    else
      let m : BagMap := {
        id := j.mapId, cid := j.jid, owner := j.owner, tag := j.tag, usable := false, relAsked := false, readers := 0, desc := j.desc, tver := x.tver,
        pmode := j.pmode, weighted := j.weighted, nbags := nb, nidx := nidx, off := j.lists.off, members := [],
        nvalid := [], wins := [], bytes := ms }
      { s with sc := { s.sc with maps := s.sc.maps ++ [m] } }

/-- The map of a job takes its content. -/
def fillMap (s : State) (j : LkJob) : State :=
  if !j.keepMap then s
  else
    let nb := j.lists.off.length - 1
    { s with sc := { s.sc with maps := s.sc.maps.map (fun m => if m.cid = j.jid then
        { m with members := j.members,
                 nvalid := (List.range nb).map (fun b => mget j.nvalids b 0),
                 wins := if 2 ≤ j.pmode.toNat then (List.range nb).map (fun b => mget j.winners b []) else [] } else m) } }

/-! ### Starting (R95, R113, R114, R371, R433, R434, R538) -/

/-- A job with nothing done yet. -/
def newJob (s : State) (d : Nat) (pmode : Nat) (weighted lc nospec keep : Bool) (mapId : Nat) (lists : FanLists) : LkJob :=
  { jid := s.orr.nextUid, cid := none, q := 64, tiles := BitVec.allOnes 48, owner := s.mer.fabric, tag := 0, desc := d,
    pmode := BitVec.ofNat 2 pmode, weighted := weighted, stats := false, nospec := nospec, keepMap := keep,
    mapId := BitVec.ofNat 16 mapId, lc := lc, noProbe := decide (s.pwr.sl.toNat < 3), lists := lists, outk := false,
    outAddr := 0, outStride := 0, drops := 0, poisoned := 0, nextOut := 0, recs := [], lost := [], rankDrops := [], outTile := [],
    base := 0, heldRecs := [], folds := [], released := [], members := [], winners := [], nvalids := [] }

/-- Adds a job. -/
def addJob (s : State) (j : LkJob) : State :=
  { s with orr := { s.orr with jobs := s.orr.jobs ++ [j], nextUid := s.orr.nextUid + 1 } }

/-- The job of a LOOKUP on its owner. -/
def ownJob (s : State) (c : Cmd) (d : Nat) (x : Desc) (off : List Nat) : LkJob :=
  let q := (qOf s c.q).conf
  { newJob s d (lkPmode c) (lkWeighted c) (qLc s c.q) (bit (c.w 0) 27) (lkKeep c) (c.f 7 0 16)
      { idx := [], off := off, wgt := [], win := [] } with
    cid := some c.cid, q := c.q, tiles := (q.map (fun k => k.tiles)).getD (BitVec.allOnes 48), tag := c.cid,
    stats := lkStats c, outk := lkOutk c, outAddr := c.f 5 0 52, outStride := lkStride c,
    rankDrops := List.replicate x.ranks 0 }

/-- The job of a command on its owner. -/
def jobOfCmd (s : State) (cid : Nat) : Option LkJob := s.orr.jobs.find? (fun j => j.cid == some cid)

/-- The lists that another rank receives: indices, offsets and weights. -/
def lkLists (s : State) (c : Cmd) : State × List (Byte × Bool) :=
  let (s1, a) := readList s (c.f 2 0 52) (lkNidx c * lkWide c)
  let (s2, b) := readList s1 (c.f 3 0 52) (4 * (lkNbags c + 1))
  let (s3, w) := if lkWeighted c then readList s2 (c.f 4 0 52) (4 * lkNidx c) else (s2, [])
  (s3, a ++ b ++ w)

/-- Bytes of those lists. -/
def lkListBytes (c : Cmd) : Nat :=
  lkNidx c * lkWide c + 4 * (lkNbags c + 1) + if lkWeighted c then 4 * lkNidx c else 0

/-- What a fanned-out request says of the command, in `ARG`. -/
def lkArg (c : Cmd) (x : Desc) : Nat :=
  x.table + x.tver.toNat * 2 ^ 12 + lkPmode c * 2 ^ 28 + b2n (lkWeighted c) * 2 ^ 30 + b2n (lkKeep c) * 2 ^ 31 +
    c.f 0 27 1 * 2 ^ 32

/-- The lists go out, and the work units of the owner with them (R114). -/
def lkSend (s : State) (c : Cmd) (j : LkJob) : State :=
  let x := descOf s j.desc
  let rs := (otherRanks s x).filter (fun r => !j.lost.contains r.1)
  let (s1, l) := if rs.isEmpty then (s, []) else lkLists s c
  let h := reqHead (lkNbags c) (lkNidx c) (c.f 7 0 16) (bit (c.w 0) 24) j.lc false x.nblkM1
  let s2 := rs.foldl (fun t r => sendBig t clsIfo mtLookup r.2 c.cid (lkArg c x) (h ++ l)) s1
  updCmd (addUnits s2 j.jid false j.lists.off) c.cid (fun c => { c with phase := .running })

/-- Every other rank has granted its fan-out space, or is lost. -/
def lkGranted (s : State) (c : Cmd) (j : LkJob) : Bool :=
  (otherRanks s (descOf s j.desc)).all (fun r => c.ranks.contains r.1 || j.lost.contains r.1)

/-- The lists go out once every grant has arrived (R433). -/
def lkGo (s : State) (cid : Nat) : State :=
  match cmdOf s cid, jobOfCmd s cid with
  | some c, some j =>
    if c.phase == .waiting && s.tr.fiRes.any (fun r => r.1 == cid) && lkGranted s c j then lkSend s c j else s
  | _, _ => s

/-- The fan-in window is reserved, and the other ranks are asked for fan-out space. -/
def fiReserve (s : State) (cid n : Nat) (x : Desc) (bytes : Nat) : State :=
  let s1 := { s with tr := { s.tr with fiRes := s.tr.fiRes ++ [(cid, n)], fiWait := sdel s.tr.fiWait cid } }
  lkGo (foAsk s1 x cid bytes) cid

/-- A LOOKUP whose validation has passed. -/
def lkStart (s : State) (c : Cmd) (d : Nat) (x : Desc) (off : List Nat) : State :=
  let j := ownJob s c d x off
  let s1 := keepMap (addJob s j) j x
  let s2 := if j.outk then setStrm s1 (lkStream c) { strmOf s1 (lkStream c) with bound := some c.cid, st := .running } else s1
  if x.log2s = 0 then lkSend s2 c j
  else
    let s3 := updCmd s2 c.cid (fun c => { c with phase := .waiting, bound := none })
    let n := fiBytes x (lkNbags c)
    if s3.tr.fiWait.isEmpty && fiRoom s3 n then fiReserve s3 c.cid n x (lkListBytes c)
    else { s3 with tr := { s3.tr with fiWait := s3.tr.fiWait ++ [c.cid] } }

/-- LOOKUP (R113): a failed step changes nothing but the command. -/
def lkRun (s : State) (c : Cmd) : State :=
  match lkResolve s c with
  | none => failCmd s c.cid 0x40
  | some (d, x) =>
    if !lkExtents s c then failCmd s c.cid 0x11
    else if lkOutk c && !mayBind s (lkStream c) c.cid then
      updCmd s c.cid (fun c => { c with phase := .waiting, bound := some (lkStream c) })
    else
      let (s1, l) := readList s (c.f 3 0 52) (4 * (lkNbags c + 1))
      let ns := numsOf 4 l
      let off := ns.map (fun v => v.1)
      if !s1.rc.need.isEmpty then s1
      else if ns.any (fun v => v.2) || !offsetsOk off (lkNidx c) then failCmd s c.cid 0x40
      else lkStart s1 c d x off

/-- A command of an opcode that may start, or that waits for the stream it names (R371). -/
def withStart (s : State) (cid op : Nat) (f : Cmd → State → State) : State :=
  match cmdOf s cid with
  | some c =>
    if !c.badLine && c.op == op && (mayStart s c || (c.phase == .waiting && c.bound.isSome && s.pwr.restart != .running && !faultHolds s c)) then
      f c s
    else s
  | none => s

/-- LOOKUP. -/
def execLookup (cid : Nat) (s : State) : Host.Outcome State Fault Refusal :=
  act s (fun s => withStart s cid 0x01 (fun c s => lkRun s c))

/-- FAN_IN_WINDOW_RESERVE (R434): the LOOKUP that has waited longest takes its window when space frees. -/
def execFanInWindowReserve (cid : Nat) (s : State) : Host.Outcome State Fault Refusal :=
  act s (fun s => match cmdOf s cid, jobOfCmd s cid with
    | some c, some j =>
      let x := descOf s j.desc
      let n := fiBytes x (lkNbags c)
      if s.tr.fiWait.head? == some cid && fiRoom s n then fiReserve s cid n x (lkListBytes c) else s
    | _, _ => s)

/-! ### Fanned-out requests (R95, R96) -/

/-- The descriptor that serves a fanned-out request. -/
def fanDesc (s : State) (table : Nat) (tver : BitVec 16) : Option (Nat × Desc) :=
  findDesc s table (fun x => x.tver == tver)

/-- A fan-in record goes to the owner. -/
def sendRec (s : State) (j : LkJob) (r : FanRec) : State :=
  sendMsg s clsPfi 0 j.owner j.tag 0
    ((bagHeader r ++ r.vals.flatMap (fun v => toBytes 4 v.toNat)).map (fun b => (b, r.poison)))

/-- The window of an owner reaches bag b (R434). -/
def inWindow (j : LkJob) (b : Nat) : Bool := decide (b < j.base + min (j.lists.off.length - 1) 4096)

/-- Sends the held records that the window reaches; the job ends with the last one. -/
def sendHeld (s : State) (j : LkJob) : State :=
  let (go, stay) := j.heldRecs.partition (fun r => inWindow j r.bag)
  let s1 := go.foldl (fun t r => sendRec t j r) (updJob s j.jid (fun j => { j with heldRecs := stay }))
  if stay.isEmpty && !go.isEmpty then foServe (dropLookup s1 j true) else s1

/-- LOOKUP_FAN_OUT (R96): a rank without the version returns C zero columns with POISON for every bag (log entry 31). -/
def lkFanned (s : State) (f : FanLookup) : State :=
  if !foHeld s f.owner f.tag || s.orr.jobs.any (fun j => j.cid.isNone && j.owner == f.owner && j.tag == f.tag) ||
      s.pwr.park != .running || s.pwr.restart == .running then s
  else
    let nb := f.lists.off.length - 1
    match fanDesc s f.table.toNat f.tver with
    | some (d, x) =>
      let j := { newJob s d f.pmode.toNat f.weighted f.lc f.nospec f.keepMap f.mapId.toNat f.lists with
        owner := f.owner, tag := f.tag }
      addUnits (keepMap (addJob s j) j x) j.jid false f.lists.off
    | none =>
      let recs := (List.range nb).map (fun b =>
        let n := f.lists.off.getD (b + 1) 0 - f.lists.off.getD b 0
        let r : FanRec := { bag := b, nvalid := 0, npos := n, empty := true, poison := true, dropped := decide (0 < n),
                            vals := List.replicate (32 * (f.nblkM1.toNat + 1)) 0 }
        r)
      let j := { newJob s 4096 f.pmode.toNat f.weighted f.lc f.nospec false 0 f.lists with
        owner := f.owner, tag := f.tag, heldRecs := recs }
      sendHeld (addJob (bump1 s ctrChipSplitVerMiss) j) j

/-- LOOKUP_FAN_OUT. -/
def execLookupFanOut (f : FanLookup) (s : State) : Host.Outcome State Fault Refusal := act s (fun s => lkFanned s f)

/-- WINDOW (R434): the owner has released every bag below `base`. -/
def execWindow (owner : BitVec 12) (tag base : Nat) (s : State) : Host.Outcome State Fault Refusal :=
  act s (fun s => match s.orr.jobs.find? (fun j => j.cid.isNone && j.owner == owner && j.tag == tag) with
    | none => s
    | some j =>
      let j1 := { j with base := max j.base base }
      sendHeld (updJob s j.jid (fun _ => j1)) j1)

/-! ### Output on the owner (R98 to R101, R110 to R112, R135, R160) -/

/-- The record of a rank for a bag. -/
def recOf (j : LkJob) (rank b : Nat) : Option FanRec :=
  (j.recs.find? (fun r => r.1 == rank && r.2.bag == b)).map (fun r => r.2)

/-- Every rank's record for the bag is present, or its rank is lost. -/
def bagComplete (x : Desc) (j : LkJob) (b : Nat) : Bool :=
  (List.range x.ranks).all (fun k => (recOf j k b).isSome || j.lost.contains k) && (recOf j x.rank b).isSome

/-- What the owner puts together for a bag: header fields and D columns, and whether the ranks' counts differ (R99). -/
def assemble (x : Desc) (j : LkJob) (b : Nat) : FanRec × Bool :=
  let rs := (List.range x.ranks).map (fun k => recOf j k b)
  let own := (recOf j x.rank b).getD { bag := b, nvalid := 0, npos := 0, empty := true, poison := true, dropped := false,
                                       vals := [] }
  let cnt := rs.filterMap (fun r => r.map (fun y => y.nvalid))
  let skew := cnt.any (fun n => n != own.nvalid)
  let vals := rs.flatMap (fun r => (List.range x.cols).map (fun i => ((r.map (fun y => y.vals)).getD []).getD i 0))
  ({ own with
      empty := rs.all (fun r => (r.map (fun y => y.empty)).getD false),
      poison := skew || rs.any (fun r => (r.map (fun y => y.poison)).getD true),
      vals := vals }, skew)

/-- The bytes of an output record (R110). -/
def recordBytes (stats : Bool) (stride : Nat) (r : FanRec) : List Byte :=
  let b := bagHeader r ++ r.vals.flatMap (fun v => toBytes 4 v.toNat) ++ (if stats then statBytes r.vals else [])
  b ++ List.replicate (stride - b.length) 0

/-- The record goes to memory, or into the stream's reservation (R112). -/
def putRecord (s : State) (c : Cmd) (j : LkJob) (r : FanRec) : State :=
  let b := recordBytes j.stats j.outStride r
  if j.outk then
    let n := lkStream c
    let x := strmOf s n
    let ls := (chunks 64 b.length b).map (fun l => (l, r.poison))
    pump (setStrm s n { x with staged := x.staged ++ ls }) n
  else
    let v := j.outAddr + r.bag * j.outStride
    match extHeld s 1 v j.outStride with
    | .ok ps => writePieces (xltUses s (mget j.outTile r.bag 0) ps) (.cmd c.cid) ps b
    | .error _ => s

/-- The lowest bag not released, from the list of those released beyond it. -/
def advanceGo : Nat → Nat → List Nat → Nat × List Nat
  | 0, n, l => (n, l)
  | k + 1, n, l => if l.contains n then advanceGo k (n + 1) (sdel l n) else (n, l)

/-- Every record has left (R135): the command takes its counts and is done. -/
def lkEnd (s : State) (cid : Nat) : State :=
  match cmdOf s cid, jobOfCmd s cid with
  | some c, some j =>
    if c.phase != .running || j.nextOut < lkNbags c || (j.outk && !(strmOf s (lkStream c)).staged.isEmpty) then s
    else
      let n := j.rankDrops.foldl max 0
      let s1 := updCmd (fillMap s j) cid (fun c => { c with
        cnt0 := n, cnt1 := j.poisoned, drops := decide (0 < n),
        poison := decide (0 < j.poisoned) || (j.outk && (strmOf s (lkStream c)).discarded) })
      finish s1 cid
  | _, _ => s

/-- Releases a complete bag, and the bags after it that waited for their turn on a stream; raises the window (R434). -/
def releaseGo (cid : Nat) : Nat → Nat → State → State
  | 0, _, s => s
  | k + 1, b, s =>
    match cmdOf s cid, jobOfCmd s cid with
    | some c, some j =>
      let x := descOf s j.desc
      if !bagComplete x j b || b < j.nextOut || j.released.contains b || (j.outk && b != j.nextOut) then s
      else
        let (r, skew) := assemble x j b
        let s1 := putRecord (bumpIf s skew (ctrTableSplitPopSkew j.desc)) c j r
        let (n, l) := advanceGo (j.released.length + 1) j.nextOut (sins j.released b)
        let s2 := updJob s1 j.jid (fun j => { j with
          recs := j.recs.filter (fun y => y.2.bag != b), outTile := mdel j.outTile b, released := l, nextOut := n, poisoned := j.poisoned + b2n r.poison })
        let s3 := if n = j.nextOut then s2
          else (otherRanks s2 x).foldl (fun t y => sendMsg t clsCtl mtWindow y.2 cid n []) s2
        if j.outk then releaseGo cid k (b + 1) s3 else s3
    | _, _ => s

/-- A bag of the owner's command may be complete. -/
def ownerRelease (s : State) (cid b : Nat) : State :=
  match jobOfCmd s cid with
  | some j => lkEnd (releaseGo cid (j.lists.off.length + 1) b s) cid
  | none => s

/-- A rank's record reaches the owner (R98). -/
def takeRec (s : State) (cid rank : Nat) (r : FanRec) : State :=
  match jobOfCmd s cid with
  | none => s
  | some j =>
    if r.bag < j.nextOut || j.released.contains r.bag || (recOf j rank r.bag).isSome || j.lost.contains rank ||
        decide (j.lists.off.length - 1 ≤ r.bag) then s
    else
      let s1 := updJob s j.jid (fun j => { j with
        recs := j.recs ++ [(rank, r)],
        rankDrops := j.rankDrops.set rank (j.rankDrops.getD rank 0 + (r.npos - r.nvalid)) })
      ownerRelease s1 cid r.bag

/-- FAN_IN_RECORD (R98). -/
def execFanInRecord (cid rank : Nat) (r : FanRec) (s : State) : Host.Outcome State Fault Refusal :=
  act s (fun s => match jobOfCmd s cid with
    | some j =>
      let x := descOf s j.desc
      if rank < x.ranks && rank != x.rank then takeRec s cid rank r else s
    | none => s)

/-- The records of a rank cannot come any more (R101): its columns are zero, with POISON, in every bag still incomplete,
those whose record from that rank had come among them. -/
def lkRankLost (s : State) (cid rank : Nat) : State :=
  match jobOfCmd s cid with
  | none => s
  | some j =>
    let x := descOf s j.desc
    if j.lost.contains rank || rank == x.rank || decide (x.ranks ≤ rank) then s
    else
      let s1 := updJob (bump1 s (ctrTableSplitLost j.desc)) j.jid (fun j => { j with
        lost := j.lost ++ [rank],
        recs := j.recs.filter (fun r => r.1 != rank || bagComplete x j r.2.bag) })
      let s2 := lkGo s1 cid
      (List.range (j.lists.off.length - 1)).foldl (fun t b => ownerRelease t cid b) s2

/-- A rank's own record of a bag leaves a tile: to the owner's output, or to the owner's chip. -/
def giveRec (s : State) (j : LkJob) (tile : Nat) (r : FanRec) : State :=
  match j.cid with
  | some cid =>
    takeRec (updJob s j.jid (fun k => { k with outTile := mset k.outTile r.bag tile })) cid (descOf s j.desc).rank r
  | none => sendRec s j r

end Sys2Proof.Machine
end

