-- ==== Sys2Proof/Machine/PoolCmds.lean ====
section
/-! DEFINITION. The pooling unit's events: a group closes, a bag is released, a segment folds (R130, R139 to R161). -/

namespace Sys2Proof.Machine

/-! ### Bags of a unit -/

/-- The positions of a bag that a unit serves: all of them, or those of its segment. -/
def bagLo (j : LkJob) (u : Unit') (b : Nat) : Nat := if u.seg.isSome then u.p0 else bagStart j b
def bagHi (j : LkJob) (u : Unit') (b : Nat) : Nat := if u.seg.isSome then u.p1 else j.lists.off.getD (b + 1) 0

/-- The bag is one of the unit's. -/
def inUnit (u : Unit') (b : Nat) : Bool := decide (u.bag0 ≤ b) && decide (b < u.bag0 + u.nbags)

/-- The bag's accumulator on this tile. -/
def bagAcc (s : State) (j : LkJob) (u : Unit') (b : Nat) : BagAcc :=
  match u.bags.find? (fun x => x.bag == b) with
  | some x => x
  | none => ((touchBag s j u b false).bags.find? (fun x => x.bag == b)).getD
      { bag := b, nextGrp := 0, acc := none, wins := [], nvalid := 0, poison := false, released := false }

/-- Writes the bag's accumulator. -/
def setAcc (s : State) (u : Unit') (a : BagAcc) : State :=
  updUnit s u.uid (fun v => { v with
    bags := if v.bags.any (fun x => x.bag == a.bag) then v.bags.map (fun x => if x.bag = a.bag then a else x)
      else v.bags ++ [a] })

/-- The checks of a position are over: dropped at intake, or its row confirmed. -/
def posDone (u : Unit') (p : PosRec) : Bool :=
  match p.ent with
  | none => true
  | some _ => (entOf u p).any (fun e => e.conf)

/-- The position counts as a valid row. -/
def posValid (u : Unit') (p : PosRec) : Bool := (entOf u p).any (fun e => e.conf && !e.unpop)

/-- The position is a member of its bag (R140). -/
def posIn (u : Unit') (p : PosRec) : Bool := p.wOk && posValid u p

/-- The bag's positions that the unit has taken. -/
def bagPos (u : Unit') (b : Nat) : List PosRec := u.pos.filter (fun p => p.bag == b)

/-- Members of the given positions. -/
def membersAt (s : State) (j : LkJob) (u : Unit') (ps : List PosRec) : List PMember :=
  (ps.filter (posIn u)).filterMap (fun p => (entOf u p).map (posMember s j p))

/-- Beats of a member (R165). -/
def memberBeats (s : State) (j : LkJob) (u : Unit') (ps : List PosRec) : Nat :=
  (ps.filter (posIn u)).foldl (fun n p => n + match (entOf u p).bind (fun e => e.data) with
    | some d => ((descOf s j.desc).cols + 64 * 2 ^ slClass d.1 - 1) / (64 * 2 ^ slClass d.1)
    | none => 0) 0

/-! ### GROUP_CLOSE (R139 to R151) -/

/-- Positions of group k of a bag on the unit. -/
def groupPos (s : State) (j : LkJob) (u : Unit') (b k : Nat) : List PosRec :=
  (bagPos u b).filter (fun p => grpOf s j p == k)

/-- Every position up to the end of group k has been taken, and its checks are over. -/
def groupReady (s : State) (j : LkJob) (u : Unit') (b k : Nat) : Bool :=
  let hi := min (bagHi j u b) (bagStart j b + (k + 1) * groupLen (descOf s j.desc).gsize)
  decide (hi ≤ u.cursor) && (bagPos u b).all (fun p => decide (k < grpOf s j p) || posDone u p)

/-- The subgroups of a group close in turn, and add to the bag's accumulator. A member that is poisoned sets the bag's
POISON; one whose weight is zero does not, since it is no member (R140), which is the model's reading of a bag that
uses a row in R48 (log entry 113). -/
def closeSubs (s : State) (j : LkJob) (u : Unit') (b k : Nat) (subs : List (List PMember)) : State :=
  let x := descOf s j.desc
  let cl := subs.map (fun g => closeSub (groupPrec x.gsize) g x.cols)
  let a := bagAcc s j u b
  let acc := cl.foldl (fun v c => some (accAdd v c.1)) a.acc
  let loss := cl.foldl (fun n c => n + c.2) 0
  let mine (p : PosRec) : Bool := p.bag == b && grpOf s j p == k
  let s1 := setAcc s u { a with nextGrp := k + 1, acc := acc, poison := a.poison || subs.any (fun g => g.any (fun m => m.poison)) }
  -- no replay needs the group's rows any more, and their addresses are given up (R258)
  let s2 := updUnit s1 u.uid (fun v => { v with
    grps := v.grps.filter (fun g => !(g.bag == b && g.k == k)),
    ents := v.ents.zipIdx.map (fun e => if v.pos.any (fun p => mine p && p.ent == some e.2) then
      { e.1 with src := e.1.src.drop } else e.1) })
  bump (bump s2 (ctrTileAlignLoss u.tile) loss) (ctrTableAlignLoss j.desc) loss

/-- The members, cut where the first list of lists is cut. -/
def cutLike {α : Type} : List (List α) → List α → List (List α)
  | [], _ => []
  | g :: gs, l => l.take g.length :: cutLike gs (l.drop g.length)

/-- A group closes (R148 to R151). A split replays its members, and those without a dedup entry are read again (R149). -/
def closeGroup (s : State) (j : LkJob) (u : Unit') (b k : Nat) : State :=
  let x := descOf s j.desc
  let ps := groupPos s j u b k
  let subs := subgroups (membersAt s j u ps) x.cols
  let split := decide (1 < subs.length)
  let s0 := if split then rereadAll s u.uid ((ps.filter (posIn u)).filterMap (fun p => p.ent)) else s
  let v := (unitOf s0 u.uid).getD u
  let s1 := closeSubs s0 j v b k (if split then cutLike subs (membersAt s0 j v ps) else subs)
  let s2 := bumpIf (bumpIf s1 split (ctrTileGrpSplit u.tile)) split (ctrTableGrpSplit j.desc)
  enterReady (tProg s2 u.tile (memberBeats s j u ps)) u.uid

/-- The next group of the bag that has members; it holds a lane set (R141). -/
def nextGroup (s : State) (j : LkJob) (u : Unit') (b k : Nat) : Bool :=
  let a := bagAcc s j u b
  decide (a.nextGrp ≤ k) && groupReady s j u b k && !(membersAt s j u (groupPos s j u b k)).isEmpty &&
    (setGroups s j u).contains (b, k) && (bagPos u b).all (fun p => decide (grpOf s j p < a.nextGrp) || decide (k ≤ grpOf s j p) || !posIn u p)

/-- GROUP_CLOSE (R150): SUM and MEAN only; MAX and MIN close none. -/
def execGroupClose (uid bag grp : Nat) (s : State) : Host.Outcome State Fault Refusal :=
  act s (fun s => match runningLk s uid with
    | none => s
    | some (u, j) =>
      if j.pmode.toNat < 2 && inUnit u bag && nextGroup s j u bag grp then
        notePass (closeGroup s j u bag grp) u.tile
      else s)

/-! ### The end of a bag on a unit (R130, R153 to R158) -/

/-- Every position of the bag is taken and settled, and every group with members has closed. -/
def bagReady (s : State) (j : LkJob) (u : Unit') (b : Nat) : Bool :=
  let a := bagAcc s j u b
  decide (bagHi j u b ≤ u.cursor) && !a.released && (bagPos u b).all (posDone u) &&
    (decide (2 ≤ j.pmode.toNat) || (bagPos u b).all (fun p => decide (grpOf s j p < a.nextGrp) || !posIn u p))

/-- The decoded values of a member under MAX and MIN: +0 for a poisoned row (R155). -/
def pickVals (s : State) (j : LkJob) (e : RowEnt) : List F32 :=
  let x := descOf s j.desc
  if e.poisoned then List.replicate x.cols 0
  else match e.data with
    | some (b, _) => (decodeSlice b (cbOrEmpty (cbFor s x (slClass b))) x.cols).map (fun v => v.f)
    | none => List.replicate x.cols 0

/-- The accumulator of the bag or segment with its counts and, under MAX and MIN, its values and winners. -/
def finalAcc (s : State) (j : LkJob) (u : Unit') (b : Nat) : BagAcc :=
  let a := bagAcc s j u b
  let ps := bagPos u b
  let n := (ps.filter (posValid u)).length
  if j.pmode.toNat < 2 then { a with nvalid := n }
  else
    let es := (ps.filter (posIn u)).filterMap (fun p => (entOf u p).map (fun e => (p.pos - bagStart j b, e)))
    let (v, w) := pickAll (j.pmode == 2) (descOf s j.desc).cols (es.map (fun x => (x.1, pickVals s j x.2)))
    { a with acc := some v, wins := w, nvalid := n, poison := a.poison || es.any (fun x => x.2.poisoned) }

/-- The record that an accumulator gives, and whether a value is not finite (R97, R152, R153, R156). -/
def accRecord (s : State) (j : LkJob) (b : Nat) (a : BagAcc) : FanRec × Bool :=
  let c := (descOf s j.desc).cols
  let n := j.lists.off.getD (b + 1) 0 - bagStart j b
  let v0 := a.acc.getD (List.replicate c 0)
  let v := cleanOut (if j.pmode = 1 && 0 < a.nvalid then meanOut v0 a.nvalid else v0)
  let bad := v.any (fun x => !f32Finite x)
  ({ bag := b, nvalid := a.nvalid, npos := n, empty := a.nvalid == 0, poison := a.poison || bad,
     dropped := decide (a.nvalid < n), vals := v }, bad)

/-- What a kept map takes from the positions of a bag on a unit (R170). -/
def mapTake (s : State) (j : LkJob) (u : Unit') (b : Nat) : State :=
  if !j.keepMap then s
  else
    let ms := (bagPos u b).filter (posIn u)
    updJob s j.jid (fun j => { j with members := ms.foldl (fun m p => mset m p.pos (p.row, p.w)) j.members })

/-- The bag's winners and count for a kept map. -/
def mapBag (s : State) (j : LkJob) (b : Nat) (a : BagAcc) : State :=
  if !j.keepMap then s
  else updJob s j.jid (fun j => { j with winners := mset j.winners b a.wins, nvalids := mset j.nvalids b a.nvalid })

/-- The finished bag leaves a tile. -/
def bagOut (s : State) (j : LkJob) (tile b : Nat) (a : BagAcc) : State :=
  let (r, bad) := accRecord s j b a
  giveRec (mapBag (bumpIf s bad (ctrTablePoolNonfinite j.desc)) j b a) j tile r

/-- A remote request ends on this rank with its last unit; its map becomes usable (R433). -/
def jobRest (s : State) (jid : Nat) : State :=
  match jobOf s jid with
  | none => s
  | some j =>
    if j.cid.isSome || s.orr.units.any (fun u => !u.expand && u.jid == jid) then s
    else foServe (dropLookup (fillMap s j) j true)

/-- Lets what a unit has outstanding complete: first its probes, then its reads, a discarded one before the row's own;
what waits for credits is withdrawn. -/
def drainUnit (s : State) (uid : Nat) : State :=
  let n := ((unitOf s uid).map (fun u => u.ents.length)).getD 0
  let s1 := (List.range n).foldl (fun t i => probeBack t uid i) s
  let s2 := (List.range n).foldl (fun t i => rowArrive (rowArrive t uid i) uid i) s1
  { s2 with tiles := mmap s2.tiles (fun _ t => { t with gcq := t.gcq.filter (fun r => r.2.1 != uid) }) }

/-- The unit is finished: its tile is free, once what it has outstanding has come back. -/
def unitGone (s0 : State) (uid : Nat) : State :=
  let s := drainUnit s0 uid
  match unitOf s uid with
  | none => s
  | some u =>
    let q := ((jobOf s u.jid).map (fun j => j.q)).getD 64
    let s1 := { s with orr := { s.orr with units := s.orr.units.filter (fun v => v.uid != uid),
                                           started := sdel s.orr.started uid } }
    let s2 := if q < 64 then qProg s1 q else s1
    notePass s2 u.tile

/-- The owner's window reaches the bag; a tile that holds a record beyond it stalls (R434). -/
def mayGive (j : LkJob) (b : Nat) : Bool := j.cid.isSome || inWindow j b

/-- BAG_RELEASE (R130, R153): a bag of a unit that is no segment. -/
def releaseBag (s : State) (u : Unit') (j : LkJob) (b : Nat) : State :=
  let a := finalAcc s j u b
  let s1 := setAcc s u { a with released := true }
  let s2 := tProg s1 u.tile (if 2 ≤ j.pmode.toNat then memberBeats s j u (bagPos u b) else 0)
  let s3 := bagOut (mapTake s2 j u b) j u.tile b a
  match unitOf s3 u.uid with
  | none => s3
  | some v =>
    if (List.range v.nbags).all (fun i => v.bags.any (fun x => x.bag == v.bag0 + i && x.released)) then
      jobRest (unitGone s3 v.uid) j.jid
    else s3

/-- BAG_RELEASE. -/
def execBagRelease (uid bag : Nat) (s : State) : Host.Outcome State Fault Refusal :=
  act s (fun s => match runningLk s uid with
    | none => s
    | some (u, j) =>
      if u.seg.isNone && inUnit u bag && bagReady s j u bag && mayGive j bag then releaseBag s u j bag else s)

/-! ### SEGMENT_FOLD (R157, R158) -/

/-- Folds a partial into the running fold. -/
def foldPart (pmode : Nat) (cols : Nat) (run part : BagAcc) : BagAcc :=
  let z : List F32 := List.replicate cols 0
  let sums := { run with nvalid := run.nvalid + part.nvalid, poison := run.poison || part.poison }
  if pmode < 2 then { sums with acc := some (List.zipWith f32Add (run.acc.getD z) (part.acc.getD z)) }
  else if part.nvalid = 0 then sums
  else if run.nvalid = 0 then { sums with acc := part.acc, wins := part.wins }
  else
    let m := List.zipWith (fun (a b : F32 × W32) =>
        if (if pmode = 2 then f32Cmp a.1 b.1 < 0 else f32Cmp b.1 a.1 < 0) then b else a)
      ((run.acc.getD z).zip run.wins) ((part.acc.getD z).zip part.wins)
    { sums with acc := some (m.map (fun x => x.1)), wins := m.map (fun x => x.2) }

/-- Segments of a bag. -/
def segCount (j : LkJob) (b : Nat) : Nat := (j.lists.off.getD (b + 1) 0 - bagStart j b + 4095) / 4096

/-- The completed segment k of a bag. -/
def segDone (s : State) (jid b k : Nat) : Option Unit' :=
  s.orr.units.find? (fun u => !u.expand && u.jid == jid && u.bag0 == b && u.seg == some k && u.st == .done)

/-- Address of scratch slot k (R157, R598); the bring-up area below SL3 (R539, log entry 12). -/
def segAddr (s : State) (k : Nat) : Nat :=
  (if s.pwr.sl = 3 then fixedBase + 0x0C000000 else tierSBase + 0x0C000000) + 8256 * k

/-- Bytes of a partial: its values, under MAX and MIN its winners, and one line of counts (log entry 113). -/
def partBytes (s : State) (j : LkJob) : Nat :=
  64 + 4 * (descOf s j.desc).cols * (if 2 ≤ j.pmode.toNat then 2 else 1)

/-- A partial is written to a scratch slot, whose contents are not architectural (R157). -/
def segWrite (s : State) (j : LkJob) (u : Unit') : State :=
  match u.scratch with
  | none => s
  | some k =>
    let (s1, l) := freeBytes s (partBytes s j)
    writeExt s1 (segAddr s k) l 0 false

/-- A partial is read from its scratch slot. -/
def segRead (s : State) (j : LkJob) (u : Unit') : State :=
  match u.scratch with
  | none => s
  | some k => (readExt s (segAddr s k) (partBytes s j) 0).1

/-- A later partial folds: its slot and the fold slot are read, and the fold slot is written (R157, R159). -/
def segFoldIo (s : State) (j : LkJob) (b : Nat) (u : Unit') : State :=
  match segDone s j.jid b 0 with
  | none => segRead s j u
  | some f => segWrite (segRead (segRead s j u) j f) j f

/-- Frees a segment's scratch slot, and drops its unit. -/
def segFree (s : State) (u : Unit') : State :=
  { s with orr := { s.orr with units := s.orr.units.filter (fun v => v.uid != u.uid),
                               scratch := (match u.scratch with
                                 | some k => sdel s.orr.scratch k
                                 | none => s.orr.scratch) } }

/-- Folds every partial that is present from the pointer on, on a tile: the count bounds them. -/
def foldGo (jid b tile : Nat) : Nat → State → State
  | 0, s => s
  | n + 1, s =>
    match jobOf s jid with
    | none => s
    | some j =>
      let (k, _, run) := (mget? j.folds b).getD (0, tile, { bag := b, nextGrp := 0, acc := none, wins := [], nvalid := 0,
                                                            poison := false, released := false })
      match segDone s jid b k with
      | none => s
      | some u =>
        let part := (u.bags.find? (fun x => x.bag == b)).getD run
        let run' := if k = 0 then part else foldPart j.pmode.toNat (descOf s j.desc).cols run part
        let s1 := updJob s jid (fun j => { j with folds := mset j.folds b (k + 1, tile, run') })
        -- segment 0's slot is the fold slot: its unit stays, marked by no segment to fold
        foldGo jid b tile n (if k = 0 then s1 else segFree (segFoldIo s1 j b u) u)

/-- The last segment has folded: the tile that folded it releases the bag, and its fold slot is free (R158). -/
def foldEnd (s : State) (jid b : Nat) : State :=
  match jobOf s jid with
  | none => s
  | some j =>
    match mget? j.folds b with
    | some (k, tile, run) =>
      if k < segCount j b || !mayGive j b then s
      else
        let s1 := bump1 (updJob s jid (fun j => { j with folds := mdel j.folds b })) (ctrTileSegFold tile)
        let s2 := match segDone s1 jid b 0 with
          | some u => segFree s1 u
          | none => s1
        jobRest (bagOut s2 j tile b run) jid
    | none => s

/-- A segment whose positions are settled becomes a partial in its scratch slot, and its tile is free. -/
def segEnd (s0 : State) (u : Unit') (j : LkJob) : State :=
  let b := u.bag0
  let a := finalAcc s0 j u b
  let s := segWrite (drainUnit s0 u.uid) j u
  let s1 := tProg (setAcc s u { a with released := true }) u.tile
    (if 2 ≤ j.pmode.toNat then memberBeats s j u (bagPos u b) else 0)
  let s2 := mapTake s1 j u b
  let s3 := updUnit s2 u.uid (fun v => { v with st := .done, pos := [], ents := [], grps := [] })
  let s4 := { s3 with orr := { s3.orr with started := sdel s3.orr.started u.uid } }
  notePass (if j.q < 64 then qProg s4 j.q else s4) u.tile

/-- SEGMENT_FOLD (R158): the tile that completes a segment folds it and every later partial present. -/
def execSegmentFold (uid : Nat) (s : State) : Host.Outcome State Fault Refusal :=
  act s (fun s => match unitOf s uid with
    | none => s
    | some v =>
      match jobOf s v.jid with
      | none => s
      | some j =>
        if v.expand || v.seg.isNone then s
        else
          let b := v.bag0
          if v.st == .running && bagReady s j v b then
            foldEnd (foldGo v.jid b v.tile (segCount j b) (segEnd s v j)) v.jid b
          else if v.st == .done then foldEnd s v.jid b
          else s)

/-! ### Ending work early (R136, R203, R474, R478) -/

/-- Drains every unit of a job. -/
def drainJob (s : State) (jid : Nat) : State :=
  (s.orr.units.filter (fun u => !u.expand && u.jid == jid && u.st == .running)).foldl (fun t u => drainUnit t u.uid) s

end Sys2Proof.Machine
end

