-- ==== Sys2Proof/Machine/ScatterCmd.lean ====
section
/-! DEFINITION. SCATTER (chapter 6): validation, readiness, gradients, expansion, sorting, merging, delivery. -/

namespace Sys2Proof.Machine

/-! ### The descriptor (R167 to R169) -/

def scSupplied (c : Cmd) : Bool := bit (c.w 0) 20
def scGsrc (c : Cmd) : Bool := bit (c.w 0) 21
def scPmode (c : Cmd) : Nat := c.f 0 23 2
def scWeighted (c : Cmd) : Bool := bit (c.w 0) 25
def scWide (c : Cmd) : Nat := if bit (c.w 0) 26 then 8 else 4
def scNbags (c : Cmd) : Nat := c.f 1 0 32
def scNidx (c : Cmd) : Nat := c.f 1 32 32
def scStride (c : Cmd) : Nat := c.f 6 0 32
def scStream (c : Cmd) : Nat := c.f 5 0 8

/-- Reserved fields, ranges and alignments (R175 step 1) but for the stride against D. -/
def scFields (c : Cmd) : Bool :=
  c.f 0 27 37 == 0 && c.f 6 32 32 == 0 && c.f 7 16 48 == 0 && decide (1 ≤ scNbags c) && decide (scNbags c ≤ 1048576) &&
    (if scGsrc c then c.f 5 8 56 == 0 else c.f 5 52 12 == 0 && c.f 5 0 6 == 0) && scStride c % 64 == 0 &&
    (!scSupplied c || (c.f 2 52 12 == 0 && c.f 3 52 12 == 0 && c.f 4 52 12 == 0 && decide (scNidx c ≤ 67108864) &&
      c.f 2 0 52 % scWide c == 0 && c.f 3 0 2 == 0 && (!(scWeighted c || decide (2 ≤ scPmode c)) || c.f 4 0 2 == 0) &&
      !(scWeighted c && decide (2 ≤ scPmode c))))

/-- The gradient stream is armed for the command (R371). -/
def scStreamOk (s : State) (c : Cmd) : Bool :=
  let x := strmOf s (scStream c)
  !scGsrc c || (x.st != .disarmed && x.d.kind == 4 && decide (scStride c ≤ x.d.credits * 65536))

/-- Steps 1 and 2 of R175. -/
def scResolve (s : State) (c : Cmd) : Option (Nat × Desc) :=
  if !scFields c || !scStreamOk s c then none
  else match liveDesc s (c.f 0 8 12) with
    | some (d, x) => if x.resident || decide (scStride c < 4 * (x.ranks * x.cols)) then none else some (d, x)
    | none => none

/-- Step 3 of R175. -/
def scExtents (s : State) (c : Cmd) (x : Desc) : Bool :=
  (scGsrc c || extentOk s 0 (c.f 5 0 52) (scNbags c * scStride c)) &&
    (!scSupplied c ||
      (extentOk s 0 (c.f 2 0 52) (scNidx c * scWide c) && extentOk s 0 (c.f 3 0 52) (4 * (scNbags c + 1)) &&
        (!scWeighted c || extentOk s 0 (c.f 4 0 52) (4 * scNidx c)) &&
        (decide (scPmode c < 2) || extentOk s 0 (c.f 4 0 52) (scNbags c * (x.ranks * x.cols) * 4))))

/-! ### Requests at a rank (R175 step 5, R176, R177) -/

/-- The lists of a supplied map for one rank: under MAX and MIN its own C columns of the winners. -/
def scLists (s : State) (c : Cmd) (x : Desc) (off : List Nat) (rank : Nat) : State × FanLists :=
  let w := scWide c
  let (s1, a) := readList s (c.f 2 0 52) (scNidx c * w)
  let (s2, b) := if scWeighted c then readList s1 (c.f 4 0 52) (4 * scNidx c) else (s1, [])
  let (s3, e) := if scPmode c < 2 then (s2, []) else readList s2 (c.f 4 0 52) (scNbags c * (x.ranks * x.cols) * 4)
  let own := (numsOf 4 e).zipIdx.filter (fun v => decide (v.2 % (x.ranks * x.cols) / x.cols = rank))
  (s3, { idx := (numsOf w a).map (fun v => (signed (8 * w) v.1, v.2)), off := off,
         wgt := (numsOf 4 b).map (fun v => (BitVec.ofNat 32 v.1, v.2)),
         win := own.map (fun v => (BitVec.ofNat 32 v.1.1, v.1.2)) })

/-- Bytes of the lists that one rank receives (R433). -/
def scListBytes (c : Cmd) (x : Desc) : Nat :=
  scNidx c * scWide c + 4 * (scNbags c + 1) + (if scWeighted c then 4 * scNidx c else 0) +
    if scPmode c < 2 then 0 else scNbags c * x.cols * 4

/-- The bytes of a rank's lists as they travel. -/
def listBytes (w : Nat) (l : FanLists) : List (Byte × Bool) :=
  l.idx.flatMap (fun v => (toBytes w (v.1 % ((2 ^ (8 * w) : Nat) : Int)).toNat).map (fun b => (b, v.2))) ++
    l.off.flatMap (fun v => (toBytes 4 v).map (fun b => (b, false))) ++
    l.wgt.flatMap (fun v => (toBytes 4 v.1.toNat).map (fun b => (b, v.2))) ++
    l.win.flatMap (fun v => (toBytes 4 v.1.toNat).map (fun b => (b, v.2)))

/-- The kept map that a request names, usable and not released. -/
def mapOf (s : State) (id : BitVec 16) : Option BagMap :=
  s.sc.maps.find? (fun m => m.id == id && m.usable && !m.relAsked)

/-- The rank refuses the request (R176), or the descriptor and the map that serve it. -/
def reqServe (s : State) (r : ScatReq) : Option (Nat × Desc × Option BagMap) :=
  match liveDesc s r.table.toNat with
  | none => none
  | some (d, x) =>
    if x.tver != r.tver then none
    else if r.mapsrc then some (d, x, none)
    else match mapOf s r.mapId with
      | none => none
      | some m => if m.desc != d || m.nbags != r.nbags then none else some (d, x, some m)

/-- The job of a request that the rank serves. -/
def scJob (s : State) (r : ScatReq) (cid : Option Nat) (d : Nat) (x : Desc) (m : Option BagMap) : ScJob :=
  let mem := (m.map (fun k => k.members.length)).getD r.lists.idx.length
  { jid := s.sc.nextJid, ord := (cid.bind (cmdOf s)).elim s.sc.nextOrd (fun c => c.ord), cid := cid, owner := r.owner, tag := r.tag, desc := d, lc := r.lc, nbags := r.nbags,
    pmode := (m.map (fun k => k.pmode)).getD r.pmode, weighted := (m.map (fun k => k.weighted)).getD r.weighted,
    mapId := m.map (fun k => k.id), release := r.release, lists := r.lists,
    members := (m.map (fun k => k.members)).getD [], off := (m.map (fun k => k.off)).getD r.lists.off,
    nv := (m.map (fun k => k.nvalid)).getD (List.replicate r.nbags 0),
    wins := match m with
      | some k => k.wins
      | none => (chunks x.cols r.nbags r.lists.win).map (fun b => b.map (fun v => if v.2 then noWinner else v.1)),
    bytes := roundUp (16 * mem + 4 * x.cols * r.nbags) 65536, ready := false, slab := [], excluded := [], nextBag := 0,
    flying := [], runBuf := [], runs := [], passed := [], expanded := false, ubatch := none, sent := 0, acked := 0, toInstall := 0,
    ports := [], ended := [], held := false, lastGo := false, reported := false, digest := 0, digests := [], log := [],
    drops := false, poison := false, records := 0 }

/-- Sends CANCEL to every other rank. -/
def scCancelAll (s : State) (cid : Nat) (d : Nat) : State :=
  (otherRanks s (descOf s d)).foldl (fun t r => sendMsg t clsCtl mtCancel r.2 cid 0 []) s

/-- A rank's REFUSE, or its denial of fan-out space (R175, R433): the command ends, and no rank has delivered. -/
def takeRefuse (s : State) (cid d : Nat) : State :=
  let s1 := scCancelAll s cid d
  let s2 := match scOfCmd s1 cid with
    | some j => dropScat s1 j
    | none => s1
  scatGo (failCmd s2 cid 0x40)

/-- READY of a rank (R175, R179): with the last one, gradient intake may start. -/
def takeReady (s : State) (cid rank : Nat) : State :=
  match cmdOf s cid, scOfCmd s cid with
  | some c, some j =>
    let x := descOf s j.desc
    let rs := sins c.ranks rank
    let all := (List.range x.ranks).all (fun k => rs.contains k)
    if c.phase == .done || decide (x.ranks ≤ rank) then s
    else updCmd s cid (fun c => { c with ranks := rs, phase := if all then .running else c.phase })
  | _, _ => s

/-- The pool reservation of a job is made: its expansion units are cut, and the rank answers READY (R177, R181). -/
def scReady (s : State) (j : ScJob) : State :=
  let s1 := addUnits (updSc s j.jid (fun j => { j with ready := true })) j.jid true j.off
  match j.cid with
  | some cid => takeReady s1 cid (descOf s j.desc).rank
  | none => sendMsg s1 clsCtl mtReady j.owner j.tag 0 []

/-- Requests obtain pool space in arrival order while it lasts; the count bounds them. -/
def poolGo : Nat → State → State
  | 0, s => s
  | k + 1, s =>
    match s.sc.jobs.find? (fun j => !j.ready) with
    | none => s
    | some j => if poolUsed s + j.bytes ≤ (layoutOf s).scat then poolGo k (scReady s j) else s
def poolServe (s : State) : State := poolGo s.sc.jobs.length s

/-- SCATTER_POOL_RESERVE (R177). -/
def execScatterPoolReserve (s : State) : Host.Outcome State Fault Refusal := act s poolServe

/-- A request at a rank, the owner's own included. -/
def scRequest (s : State) (r : ScatReq) (cid : Option Nat) : State :=
  match reqServe s r with
  | none =>
    let s0 := bump1 s ctrChipScatRefused
    let s1 := if r.release && !r.mapsrc then scatRelease s0 r.mapId else s0
    match cid with
    | some c => takeRefuse s1 c (((liveDesc s r.table.toNat).map (fun e => e.1)).getD 4096)
    | none =>
      foServe (sendMsg { s1 with tr := { s1.tr with
        foRes := s1.tr.foRes.filter (fun e => !(e.owner == r.owner && e.tag == r.tag)) } } clsCtl mtRefuse r.owner r.tag 0 [])
  | some (d, x, m) =>
    let j := scJob s r cid d x m
    let s1 := { s with sc := { s.sc with
      jobs := s.sc.jobs ++ [j], nextJid := s.sc.nextJid + 1, nextOrd := s.sc.nextOrd + 1,
      maps := s.sc.maps.map (fun k => if some k.id = j.mapId then { k with readers := k.readers + 1 } else k) } }
    poolServe s1

/-- SCATTER_REQUEST (R176). -/
def execScatterRequest (r : ScatReq) (s : State) : Host.Outcome State Fault Refusal :=
  act s (fun s =>
    if (r.mapsrc && !foHeld s r.owner r.tag) || s.pwr.park != .running || s.pwr.restart == .running ||
        s.sc.jobs.any (fun j => j.cid.isNone && j.owner == r.owner && j.tag == r.tag) then s
    else scRequest s r none)

/-! ### SCATTER on the owner (R175) -/

/-- The request that the owner sends. -/
def scReq (s : State) (c : Cmd) (x : Desc) (lists : FanLists) : ScatReq :=
  { owner := s.mer.fabric, tag := c.cid, table := BitVec.ofNat 12 x.table, tver := x.tver, nbags := scNbags c,
    mapsrc := scSupplied c, mapId := BitVec.ofNat 16 (c.f 7 0 16), pmode := BitVec.ofNat 2 (scPmode c),
    weighted := scWeighted c, release := bit (c.w 0) 22, lc := qLc s c.q, lists := lists }

/-- What the request says of the command, in `ARG`. -/
def scArg (c : Cmd) (x : Desc) : Nat :=
  x.table + x.tver.toNat * 2 ^ 12 + scPmode c * 2 ^ 28 + b2n (scWeighted c) * 2 ^ 30 + b2n (scSupplied c) * 2 ^ 31

/-- The request goes to every rank. -/
def scSend (s : State) (c : Cmd) (x : Desc) (off : List Nat) : State :=
  let empty : FanLists := { idx := [], off := [], wgt := [], win := [] }
  let s1 := (otherRanks s x).foldl (fun t r =>
    let h := reqHead (scNbags c) (scNidx c) (c.f 7 0 16) (bit (c.w 0) 26) (qLc s c.q) (bit (c.w 0) 22) x.nblkM1
    if scSupplied c then
      let (t1, l) := scLists t c x off r.1
      sendBig t1 clsIfo mtScatter r.2 c.cid (scArg c x) (h ++ listBytes (scWide c) l)
    else sendBig t clsIfo mtScatter r.2 c.cid (scArg c x) h) s
  let (s2, l) := if scSupplied c then scLists s1 c x off x.rank else (s1, empty)
  scRequest s2 (scReq s2 c x l) (some c.cid)

/-- The offset list of a supplied map, read again when every rank has granted its space. -/
def scOffsets (s : State) (c : Cmd) : State × List (Nat × Bool) :=
  let (s1, l) := readList s (c.f 3 0 52) (4 * (scNbags c + 1))
  (s1, numsOf 4 l)

/-- The stream of the command is bound to it. -/
def scBind (s : State) (c : Cmd) : State :=
  if scGsrc c then setStrm s (scStream c) { strmOf s (scStream c) with bound := some c.cid, st := .running } else s

/-- A swap of the table prepares or commits (R278). -/
def swapHeld (s : State) (table : Nat) : Bool :=
  s.orr.cmds.any (fun k => !k.badLine && k.op == 0x04 && (k.phase == .waiting || k.phase == .running) &&
    k.f 0 8 12 == table)

/-- SCATTER (R175, R278, R371): held while a swap of its table prepares, and while another command has its stream. -/
def scRun (s : State) (c : Cmd) : State :=
  if c.phase == .fetched && swapHeld s (c.f 0 8 12) then s
  else match scResolve s c with
    | none => failCmd s c.cid 0x40
    | some (d, x) =>
      if !scExtents s c x then failCmd s c.cid 0x11
      else if scGsrc c && !mayBind s (scStream c) c.cid then
        updCmd s c.cid (fun c => { c with phase := .waiting, bound := some (scStream c) })
      else
        let go (t : State) : State :=
          let u := updCmd (scBind t c) c.cid (fun c => { c with phase := .waiting, bound := none, plan := d, ord := t.sc.nextOrd })
          { u with sc := { u.sc with nextOrd := u.sc.nextOrd + 1 } }
        if !scSupplied c then scSend (go s) c x []
        else
          let (s1, ns) := scOffsets s c
          let off := ns.map (fun v => v.1)
          if !s1.rc.need.isEmpty then s1
          else if ns.any (fun v => v.2) || !offsetsOk off (scNidx c) then failCmd s c.cid 0x40
          else if x.log2s = 0 then scSend (go s1) c x off
          else foAsk (go s1) x c.cid (scListBytes c x)

/-- SCATTER. -/
def execScatter (cid : Nat) (s : State) : Host.Outcome State Fault Refusal :=
  act s (fun s => withStart s cid 0x02 (fun c s => scRun s c))

/-- A SCATTER whose requests have not gone out yet. -/
def scAsking (s : State) (c : Cmd) : Bool :=
  c.op == 0x02 && c.phase == .waiting && c.bound.isNone && (scOfCmd s c.cid).isNone

/-- FO_GRANT (R433): the lists go out once every grant has arrived. -/
def takeGrant (s : State) (cid rank : Nat) : State :=
  match cmdOf s cid with
  | none => s
  | some c =>
    if c.op = 0x01 then
      if c.phase == .waiting && s.tr.fiRes.any (fun r => r.1 == cid) then
        lkGo (updCmd s cid (fun c => { c with ranks := sins c.ranks rank })) cid
      else s
    else if scAsking s c then
      let x := descOf s c.plan
      let rs := sins c.ranks (64 + rank)
      let s1 := updCmd s cid (fun c => { c with ranks := rs })
      if (otherRanks s x).all (fun r => rs.contains (64 + r.1)) then
        let (s2, ns) := scOffsets s1 c
        scSend s2 { c with ranks := rs } x (ns.map (fun v => v.1))
      else s1
    else s

/-- FO_GRANT. -/
def execFoGrant (cid rank : Nat) (s : State) : Host.Outcome State Fault Refusal := act s (fun s => takeGrant s cid rank)

/-- FO_DENY (R433): as REFUSE. -/
def execFoDeny (cid _rank : Nat) (s : State) : Host.Outcome State Fault Refusal :=
  act s (fun s => match cmdOf s cid with
    | some c => if scAsking s c then takeRefuse s cid c.plan else s
    | none => s)

/-- The command waits for the ranks' answers. -/
def scAwaits (s : State) (cid : Nat) : Option (Cmd × ScJob) :=
  match cmdOf s cid, scOfCmd s cid with
  | some c, some j => if c.op == 0x02 && c.phase == .waiting then some (c, j) else none
  | _, _ => none

/-- READY (R175). -/
def execReady (cid rank : Nat) (s : State) : Host.Outcome State Fault Refusal :=
  act s (fun s => match scAwaits s cid with
    | some (_, j) => if rank != (descOf s j.desc).rank then takeReady s cid rank else s
    | none => s)

/-- REFUSE (R175). -/
def execRefuse (cid rank : Nat) (s : State) : Host.Outcome State Fault Refusal :=
  act s (fun s => match scAwaits s cid with
    | some (_, j) => if rank != (descOf s j.desc).rank then poolServe (takeRefuse s cid j.desc) else s
    | none => s)

/-- CANCEL (R175): the rank abandons the SCATTER, or the LOOKUP that its owner has aborted (log entry 32). -/
def scCancel (s : State) (owner : BitVec 12) (tag : Nat) : State :=
  let s0 := { s with tr := { s.tr with foRes := s.tr.foRes.filter (fun r => !(r.owner == owner && r.tag == tag)),
                                       foWait := s.tr.foWait.filter (fun r => !(r.owner == owner && r.tag == tag)) } }
  let s0' := (s0.orr.jobs.filter (fun j => j.cid.isNone && j.owner == owner && j.tag == tag)).foldl (fun t j =>
    dropLookup (drainJob t j.jid) j false) s0
  -- a map whose part here had ended goes with its LOOKUP (R136, R174)
  let s1 := (s0'.sc.maps.filter (fun m => m.owner == owner && m.tag == tag && m.owner != s.mer.fabric)).foldl
    (fun t m => releaseMap t m.id) s0'
  match s1.sc.jobs.find? (fun j => j.cid.isNone && j.owner == owner && j.tag == tag) with
  | some j => scatGo (poolServe (foServe (dropScat s1 j)))
  | none => foServe s1

/-- CANCEL. -/
def execCancel (owner : BitVec 12) (tag : Nat) (s : State) : Host.Outcome State Fault Refusal :=
  act s (fun s => scCancel s owner tag)

/-- A command ends before its time with a failure: its units drain, and the other ranks abandon it (log entry 32). -/
def abortCmd (s : State) (cid : Nat) (st : BitVec 8) : State :=
  match cmdOf s cid with
  | none => s
  | some c =>
    if c.phase == .done then s
    else
      let s1 := match jobOfCmd s cid with
        | some j => scCancelAll (drainJob s j.jid) cid j.desc
        | none => s
      let s2 := if c.op == 0x02 && c.ord != 0 then scCancelAll s1 cid c.plan else s1
      endCmd s2 cid st

/-- A rank that the SCATTER has asked is lost (R202, R444): the command ends with RANK_LOST. -/
def scRankLost (s : State) (cid : Nat) : State :=
  match cmdOf s cid with
  | none => s
  | some c =>
    if c.op != 0x02 || c.phase == .done || c.ord == 0 then s
    else abortCmd (updCmd s cid (fun c => { c with rankLost := true })) cid 0x31

/-! ### Gradients (R179, R180) -/

/-- A bag's gradient record with poison marks: from memory, or from the stream's staged lines. On a CLOSED link every
remaining record is poisoned (R381). None while lines are missing. -/
def gradRead (s : State) (c : Cmd) (d : Nat) (b : Nat) : Option (State × List (Byte × Bool)) :=
  if !scGsrc c then some (readList s (c.f 5 0 52 + b * scStride c) (4 * d))
  else
    let n := scStream c
    let x := strmOf s n
    let k := scStride c / 64
    if strmClosed s x then
      some (setStrm s n { x with staged := [], lines := x.lines + k, poisoned := x.poisoned + k, discarded := true },
        List.replicate (4 * d) (0, true))
    else if decide (x.staged.length < k) || !reached (semOf s x.d.semP) (BitVec.ofNat 32 (x.lines + k)) then none
    else
      let ls := x.staged.take k
      let s1 := setStrm s n { x with staged := x.staged.drop k, lines := x.lines + k, st := .running }
      let s2 := tProg (bump s1 (ctrStreamStrLines n) k) (strmTile n x.d) k
      some (semChange s2 x.d.semC true (BitVec.ofNat 32 k),
        (ls.flatMap (fun l => (bytesAt l.1 0 64).map (fun y => (y, l.2)))).take (4 * d))

/-- A slice of a bag, or its exclusion, reaches the slab (R180). -/
def slabPut (s : State) (jid b : Nat) (excl : Bool) (vals : List F32) : State :=
  updSc s jid (fun j => { j with
    slab := if excl then j.slab else mset j.slab b vals,
    excluded := if excl then j.excluded ++ [b] else j.excluded, nextBag := b + 1 })

/-- GRADIENT_INTAKE (R179): the next bag's record, checked and sent out. -/
def gradIntake (s : State) (cid : Nat) : State :=
  match cmdOf s cid, scOfCmd s cid with
  | some c, some j =>
    let x := descOf s j.desc
    let b := j.nextBag
    if c.phase != .running || j.nbags ≤ b || s.pwr.restart == .running then s
    else match gradRead s c (x.ranks * x.cols) b with
      | none => s
      | some (s1, l) =>
        let vs := (numsOf 4 l).map (fun v => BitVec.ofNat 32 v.1)
        let bad := l.any (fun v => v.2) || vs.any (fun v => !f32Finite v)
        let s2 := if bad then
            updCmd (bump1 s1 (ctrTableScatBadGrad j.desc)) cid (fun c => { c with poison := true }) else s1
        let part (k : Nat) : List F32 := (vs.drop (k * x.cols)).take x.cols
        let s3 := (otherRanks s x).foldl (fun t r =>
          sendMsg t clsIfo mtGradient r.2 cid (b + b2n bad * 2 ^ 32)
            (if bad then [] else (part r.1).flatMap (fun v => (toBytes 4 v.toNat).map (fun y => (y, false))))) s2
        slabPut s3 j.jid b bad (part x.rank)
  | _, _ => s

/-- GRADIENT_INTAKE. -/
def execGradientIntake (cid : Nat) (s : State) : Host.Outcome State Fault Refusal := act s (fun s => gradIntake s cid)

/-- GRADIENT_SLICE (R180): the next bag's slice from the owner. -/
def execGradientSlice (owner : BitVec 12) (tag bag : Nat) (excluded : Bool) (vals : List F32) (s : State) :
    Host.Outcome State Fault Refusal :=
  act s (fun s => match s.sc.jobs.find? (fun j => j.cid.isNone && j.owner == owner && j.tag == tag) with
    | some j => if j.ready && bag == j.nextBag && decide (bag < j.nbags) then slabPut s j.jid bag excluded vals else s
    | none => s)

/-! ### Expansion (R181 to R184) -/

/-- What the intake checks make of a position of a supplied map (R182). -/
structure SupPos where
  drop : Bool
  row : Nat
  wt : Weight
  poison : Bool
  deriving DecidableEq, Repr

/-- A position of a supplied map. -/
def supPos (j : ScJob) (rows p : Nat) : SupPos :=
  let x := j.lists.idx.getD p (0, true)
  let w := j.lists.wgt.getD p (0, true)
  let drop := x.2 || decide (x.1 < 0) || decide (rows ≤ x.1.toNat)
  let bad := j.weighted && w.2
  let wt := if !j.weighted then Weight.one else if bad then { Weight.one with w := 0, ok := false } else weightOf w.1
  { drop := drop, row := x.1.toNat, wt := wt, poison := bad || wt.nonfinite }

/-- Row and weight of a member position. -/
def scMember (j : ScJob) (rows p : Nat) : Option (Nat × BF16) :=
  if j.mapId.isSome then mget? j.members p
  else
    let x := supPos j rows p
    if x.drop || !x.wt.ok then none else some (x.row, x.wt.w)

/-- A winner value of a supplied list that assigns its column to no position and counts (R182). -/
def winDrop (j : ScJob) (rows b : Nat) (v : W32 × Bool) : Bool :=
  let lo := j.off.getD b 0
  let n := j.off.getD (b + 1) 0 - lo
  v.2 || (v.1 != noWinner && (decide (n ≤ v.1.toNat) || (scMember j rows (lo + v.1.toNat)).isNone))

/-- Position p of bag b emits a record (R181). -/
def emits (j : ScJob) (b p : Nat) : Bool :=
  !j.excluded.contains b &&
    (decide (j.pmode.toNat < 2) || (j.wins.getD b []).any (fun w => w != noWinner && w.toNat == p - j.off.getD b 0))

/-- Positions of a unit with their bags. -/
def unitPositions (j : ScJob) (u : Unit') : List (Nat × Nat) :=
  (List.range (u.p1 - u.p0)).map (fun i =>
    let p := u.p0 + i
    (p, u.bag0 + ((List.range u.nbags).find? (fun k => decide (p < j.off.getD (u.bag0 + k + 1) 0))).getD 0))

/-- The counts of a unit of a supplied map: drops, weights, divisors, winners (R182). An invalid winner value that is not
poisoned counts in SDROP, and R182 names no status for it: the model ends the command with OK_WITH_DROPS, as for a
poisoned one (log entry 115). -/
def supCounts (s : State) (j : ScJob) (u : Unit') (ps : List (Nat × Nat)) : State :=
  if j.mapId.isSome then s
  else
    let x := descOf s j.desc
    let qs := ps.map (fun p => (p, supPos j x.rows p.1))
    let drops := (qs.filter (fun q => q.2.drop)).length
    let keep := qs.filter (fun q => !q.2.drop)
    let bags := (List.range u.nbags).map (fun i => u.bag0 + i)
    let wd := if j.pmode.toNat < 2 || decide (0 < u.seg.getD 0) then 0 else
      bags.foldl (fun n b => n + (((j.lists.win.drop (b * x.cols)).take x.cols).filter (winDrop j x.rows b)).length) 0
    let s1 := bump (bump (bump s (ctrTableSdrop j.desc) (drops + wd))
      (ctrTableWgtFlush j.desc) (keep.filter (fun q => q.2.wt.flush)).length)
      (ctrTableWgtNonfinite j.desc) (keep.filter (fun q => q.2.wt.nonfinite)).length
    updSc s1 j.jid (fun j => { j with
      drops := j.drops || decide (0 < drops + wd), poison := j.poison || keep.any (fun q => q.2.poison),
      nv := keep.foldl (fun l q => l.set q.1.2 (l.getD q.1.2 0 + 1)) j.nv })

/-- The records that a unit emits, with their owner tiles (R183, R184). -/
def unitRecords (s : State) (j : ScJob) (ps : List (Nat × Nat)) : List (Nat × Contrib) :=
  let x := descOf s j.desc
  ps.filterMap (fun p =>
    if !emits j p.2 p.1 then none else
    (scMember j x.rows p.1).map (fun m =>
      (ownerTile j.desc x m.1,
        { row := m.1, pos := p.1, bag := p.2, wmask := decide (2 ≤ j.pmode.toNat), w := m.2 })))

/-- EXPANSION_UNIT (R181): every position of the unit whose bags' gradients have come. -/
def expandUnit (s : State) (u : Unit') (j : ScJob) : State :=
  let ps := unitPositions j u
  let s1 := supCounts s j u ps
  let rs := unitRecords s j ps
  let s2 := updSc s1 j.jid (fun j => { j with
    records := j.records + rs.length,
    flying := rs.foldl (fun m r => mset m r.1 (mget m r.1 [] ++ [r.2])) j.flying })
  let q := ((j.cid.bind (cmdOf s)).map (fun c => c.q)).getD 64
  let s3 := { s2 with orr := { s2.orr with units := s2.orr.units.filter (fun v => v.uid != u.uid),
                                           started := sdel s2.orr.started u.uid } }
  let s4 := if q < 64 then qProg s3 q else s3
  let gone := !s4.orr.units.any (fun v => v.expand && v.jid == j.jid)
  scatGo (updSc s4 j.jid (fun j => { j with expanded := gone }))

/-- EXPANSION_UNIT. -/
def execExpansionUnit (uid : Nat) (s : State) : Host.Outcome State Fault Refusal :=
  act s (fun s => match unitOf s uid with
    | none => s
    | some u =>
      match scOf s u.jid with
      | none => s
      | some j =>
        if u.expand && u.st == .running && decide (u.bag0 + u.nbags ≤ j.nextBag) && s.pwr.restart != .running then
          expandUnit s u j
        else s)

/-! ### Sorting (R185, R186) -/

/-- CONTRIBUTION_RECORD (R185): the owner tile takes records until its run buffer is full. -/
def takeRecords (s : State) (t : Nat) (j : ScJob) : State :=
  let fl := mget j.flying t []
  let buf := mget j.runBuf t []
  let k := min fl.length (8192 - buf.length)
  bump (updSc s j.jid (fun j => { j with
    flying := mset j.flying t (fl.drop k), runBuf := mset j.runBuf t (buf ++ fl.take k) })) (ctrTileScatRec t) k

/-- CONTRIBUTION_RECORD. -/
def execContributionRecord (tile : Fin 48) (jid : Nat) (s : State) : Host.Outcome State Fault Refusal :=
  act s (fun s => match scOf s jid with
    | some j => if !j.lc && s.sc.saved.any (fun e => e.1 == tile.val) then s else takeRecords s tile j
    | none => s)

/-- By row, then by position. -/
def recLe (a b : Contrib) : Bool := decide (a.row < b.row) || (a.row == b.row && decide (a.pos ≤ b.pos))

/-- Inserts a record in order. -/
def recIns (x : Contrib) : List Contrib → List Contrib
  | [] => [x]
  | y :: l => if recLe x y then x :: y :: l else y :: recIns x l

/-- Extra passes over `r` runs; the fuel bounds them. -/
def extraPasses : Nat → Nat → Nat
  | 0, _ => 0
  | k + 1, r => if r ≤ 64 then 0 else 1 + extraPasses k ((r + 63) / 64)

/-- BE work of a SCATTER on the tile is in a save record (R204). -/
def tileSaved (s : State) (t : Nat) (lc : Bool) : Bool := !lc && s.sc.saved.any (fun e => e.1 == t)

/-- RUN_SORT (R185, R186): a full buffer, or what is left when expansion has ended and the last record has come; with
the last run of a tile go the extra passes over more than 64. -/
def sortRun (s : State) (t : Nat) (j : ScJob) : State :=
  let buf := mget j.runBuf t []
  let last := j.expanded && (mget j.flying t []).isEmpty && !j.passed.contains t
  if !last && decide (buf.length < 8192) then s
  else
    let rs := mget j.runs t [] ++ (if buf.isEmpty then [] else [buf.foldr recIns []])
    let s1 := updSc s j.jid (fun j => { j with
      runs := mset j.runs t rs, runBuf := mset j.runBuf t [], passed := if last then sins j.passed t else j.passed })
    scatGo (if last then bump s1 (ctrTileSortPass t) (extraPasses 6 rs.length) else s1)

/-- RUN_SORT. -/
def execRunSort (tile : Fin 48) (jid : Nat) (s : State) : Host.Outcome State Fault Refusal :=
  act s (fun s => match scOf s jid with
    | some j => if tileSaved s tile j.lc then s else sortRun s tile j
    | none => s)

/-! ### Merging (R188 to R192) -/

/-- The next row of a tile's ordered stream. -/
def nextRow (j : ScJob) (t : Nat) : Option Nat :=
  (mget j.runs t []).foldl (fun m r => match r.head?, m with
    | some x, some y => some (min x.row y)
    | some x, none => some x.row
    | none, y => y) none

/-- The records of a row, in position order. -/
def rowRecords (j : ScJob) (t row : Nat) : List Contrib :=
  ((mget j.runs t []).flatMap (fun r => r.takeWhile (fun x => x.row == row))).foldr recIns []

/-- A column's contribution of a record (R189). -/
def contribCol (j : ScJob) (x : Contrib) (i : Nat) : F32 :=
  let e0 := (mget j.slab x.bag []).getD i 0
  let e1 := if j.pmode = 1 then f32DivNat e0 (j.nv.getD x.bag 1) else e0
  let e2 := if j.weighted then f32Mul e1 (f32OfBf16 x.w) else e1
  if x.wmask && ((j.wins.getD x.bag []).getD i noWinner).toNat != x.pos - j.off.getD x.bag 0 then 0 else e2

/-- The two-word sum of R189. -/
def twoSum (hi lo e : F32) : F32 × F32 :=
  let s := f32Add hi e
  let bp := f32Sub s hi
  let ap := f32Sub s bp
  let t := f32Add (f32Sub hi ap) (f32Sub e bp)
  (s, f32Add lo t)

/-- Adds one record to an entry. -/
def mergeAdd (j : ScJob) (e : MergeEnt) (x : Contrib) : MergeEnt :=
  let r := (e.hi.zip e.lo).zipIdx.map (fun y => twoSum y.1.1 y.1.2 (contribCol j x y.2))
  { e with hi := r.map (fun y => y.1), lo := r.map (fun y => y.2), count := e.count + 1 }

/-- The merged gradient of an entry. -/
def merged (e : MergeEnt) : List F32 := List.zipWith f32Add e.hi e.lo

/-- Some word of the entry is not finite (R192). -/
def mergeBad (e : MergeEnt) : Bool := (e.hi ++ e.lo ++ merged e).any (fun x => !f32Finite x)

/-- An entry of the tile is free for the class (R188). -/
def entryFree (s : State) (t : Nat) (lc : Bool) : Bool :=
  let es := s.sc.entries.filter (fun e => e.tile == t)
  decide (es.length < 32) && (lc || decide ((es.filter (fun e => !e.lc)).length < 24))

/-- The job's next row on the tile wants an entry: its delivery phase has begun. -/
def rowDue (s : State) (t : Nat) (j : ScJob) : Bool :=
  j.ubatch.isSome && (nextRow j t).isSome && !tileSaved s t j.lc

/-- No other row in the tile's merge queue goes first: LC before BE, and each class in order (R188). -/
def mayMerge (s : State) (t : Nat) (j : ScJob) : Bool :=
  rowDue s t j &&
    match (s.sc.mq.filter (fun e => e.1 == t)).filterMap (fun e => scOf s e.2) with
    | q => (j.lc || !q.any (fun k => k.lc)) && ((q.filter (fun k => k.lc == j.lc)).head?).all (fun k => k.jid == j.jid)

/-- A row that cannot obtain an entry joins the merge queue. -/
def mqJoin (s : State) (t jid : Nat) : State :=
  if s.sc.mq.contains (t, jid) then s else { s with sc := { s.sc with mq := s.sc.mq ++ [(t, jid)] } }

/-- Every row that waits is in its tile's merge queue. -/
def mqAll (s : State) : State :=
  s.sc.jobs.foldl (fun u j => (List.range 48).foldl (fun v t => if rowDue v t j then mqJoin v t j.jid else v) u) s

/-- MERGE_ENTRY_GRANT (R188, R189): the next row takes an entry, and all its records are added in order. -/
def mergeRow (s0 : State) (t : Nat) (j : ScJob) : State :=
  let s := { s0 with sc := { s0.sc with mq := s0.sc.mq.erase (t, j.jid) } }
  match nextRow j t with
  | none => s
  | some row =>
    let x := descOf s j.desc
    let rs := rowRecords j t row
    let z : List F32 := List.replicate x.cols 0
    let e := rs.foldl (mergeAdd j) { tile := t, row := row, hi := z, lo := z, count := 0, lc := j.lc }
    let s1 := updSc s j.jid (fun j => { j with
      runs := mset j.runs t ((mget j.runs t []).map (fun r => r.dropWhile (fun y => y.row == row))) })
    let s2 := tProg s1 t rs.length
    if mergeBad e then
      let s3 := bump1 (updSc s2 j.jid (fun j => { j with poison := true })) (ctrTableScatNonfinite j.desc)
      match scOf s3 j.jid with
      | some k => scatGo (if scEmpty s3 k then updSc s3 j.jid (fun j => { j with lastGo := true, held := false }) else s3)
      | none => s3
    else { s2 with sc := { s2.sc with entries := s2.sc.entries ++ [e], entriesJob := s2.sc.entriesJob ++ [j.jid] } }

/-- MERGE_ENTRY_GRANT. -/
def execMergeEntryGrant (tile : Fin 48) (jid : Nat) (s : State) : Host.Outcome State Fault Refusal :=
  act s (fun s => match scOf s jid with
    | some j =>
      if s.pwr.restart == .running then s
      else if mayMerge s tile j && entryFree s tile j.lc then mergeRow s tile j
      else if rowDue s tile j then mqJoin s tile jid
      else s
    | none => s)

/-! ### Encoding and delivery (R193 to R197, R472) -/

/-- floor(log2) of a non-zero finite value, plus 127, within the scale's range (R194). -/
def mxScale (a : F32) : Nat :=
  match f32Val a with
  | .fin _ m e => if m = 0 then 0 else (min 254 (max 0 ((m.log2 : Int) + e + 127))).toNat
  | _ => 254

/-- The element of a column under scale E (R194). -/
def mxElem (g : F32) (sc : Nat) : Byte :=
  match f32Val g with
  | .fin neg m e =>
    let x := e + 133 - sc
    let k := min 127 (if 0 ≤ x then m <<< x.toNat else rneShift m (-x).toNat false)
    BitVec.ofNat 8 (if neg then 256 - k else k)
  | _ => 0

/-- The scale of a block. -/
def blockScale (b : List F32) : Nat :=
  mxScale (b.foldl (fun m x => let a := x &&& 0x7FFFFFFF#32; if m.toNat < a.toNat then a else m) 0)

/-- The body of a delivery (R193 to R196). -/
def gradBody (gfmt : Nat) (g : List F32) : List Byte :=
  let bs := chunks 32 g.length g
  if gfmt = 0 then
    let sc := bs.map blockScale
    let area := sc.map (BitVec.ofNat 8)
    area ++ List.replicate (roundUp bs.length 16 - bs.length) 0 ++
      (bs.zip sc).flatMap (fun b => b.1.map (fun x => mxElem x b.2))
  else
    let b := bs.flatMap (fun b => toBytes 8 (b.zipIdx.foldl (fun n x =>
      n + (if x.1.toNat % 2 ^ 31 = 0 then 0 else if x.1.toNat < 2 ^ 31 then 1 else 3) * 4 ^ x.2) 0))
    b ++ List.replicate (roundUp b.length 16 - b.length) 0

/-- The 16-byte header of a delivery (R196). -/
def deliveryHeader (u : UpdMsg) : List Byte :=
  toBytes 16 (u.desc % 2 ^ 12 + u.row % 2 ^ 40 * 2 ^ 12 + u.ncontrib % 2 ^ 32 * 2 ^ 52 + u.gfmt.toNat * 2 ^ 84 +
    u.ubatch % 2 ^ 16 * 2 ^ 88 + u.nblkM1 % 2 ^ 5 * 2 ^ 104)

/-- A delivery as it leaves on the port: header and body, a multiple of 16 bytes (R196). -/
def deliveryBytes (u : UpdMsg) : List Byte := deliveryHeader u ++ u.body

/-- The delivery message of an entry (R196). -/
def delivery (s : State) (j : ScJob) (e : MergeEnt) : UpdMsg :=
  let x := descOf s j.desc
  let g := ((mget? s.tabs.progs x.prog).map (fun p => p.gfmt)).getD 0
  { desc := j.desc, row := e.row, ncontrib := e.count, gfmt := BitVec.ofNat 2 g, ubatch := j.ubatch.getD 0,
    nblkM1 := x.nblkM1, body := gradBody g (merged e) }

/-- The oldest entry of a job on a tile, with its place. -/
def nextEntry (s : State) (t jid : Nat) : Option (Nat × MergeEnt) :=
  ((s.sc.entries.zip s.sc.entriesJob).zipIdx.find? (fun e => e.1.2 == jid && e.1.1.tile == t)).map (fun e => (e.2, e.1.1))

/-- Frees entry i. -/
def dropEntry (s : State) (i : Nat) : State :=
  { s with sc := { s.sc with entries := s.sc.entries.eraseIdx i, entriesJob := s.sc.entriesJob.eraseIdx i } }

/-- The conditions of R472 for a job's last delivery. -/
def holdOver (s : State) (j : ScJob) : Bool :=
  !s.sc.jobs.any (fun k => k.jid != j.jid && inCommit s k && !k.reported) &&
    (List.range 8).all (fun k => decide ((lyOf s k).outstanding ≤ 7)) &&
    (List.range 4).all (fun q => journalUse s q true == 0)

/-- The message leaves for the row's companion, or is lost with its port (R197, R316). -/
def sendDelivery (s : State) (j : ScJob) (i : Nat) (e : MergeEnt) : State :=
  let u := delivery s j e
  let k := homeComp j.desc (descOf s j.desc) e.row
  let s1 := bump1 (dropEntry s i) (ctrTableSdeliv j.desc)
  let s2 := updSc s1 j.jid (fun j => { j with sent := j.sent + 1, ports := sins j.ports k })
  let l := lyOf s2 k
  let s3 := setLy s2 k { l with outstanding := l.outstanding + 1 }
  if portUp s3 k then setLy s3 k { lyOf s3 k with
      flying := (lyOf s3 k).flying ++ [u], sent := (lyOf s3 k).sent ++ [deliveryBytes u] }
  else ackTake (countPort s3 k) k (mkAck u 0 5)

/-- DELIVERY_SEND (R197, R472): the window of the port admits it, no other SCATTER's last delivery is held, and the
last delivery of the command waits for its hold to end. -/
def deliver (s : State) (t : Nat) (j : ScJob) : State :=
  match nextEntry s t j.jid with
  | none => s
  | some (i, e) =>
    let k := homeComp j.desc (descOf s j.desc) e.row
    let last := !scRows j && (entriesOf s j.jid).length == 1
    if s.sc.jobs.any (fun m => m.jid != j.jid && m.held) || decide (128 ≤ (lyOf s k).outstanding) then s
    else if last && !j.lastGo then
      if holdOver s j then scatGo (sendDelivery (updSc s j.jid (fun j => { j with lastGo := true, held := false })) j i e)
      else updSc s j.jid (fun j => { j with held := true })
    else scatGo (sendDelivery s j i e)

/-- DELIVERY_SEND. -/
def execDeliverySend (tile : Fin 48) (jid : Nat) (s : State) : Host.Outcome State Fault Refusal :=
  act s (fun s => match scOf s jid with
    | some j => if j.ubatch.isSome && s.pwr.restart != .running && !tileSaved s tile j.lc then deliver s tile j else s
    | none => s)

/-- COMMIT_HOLD_RELEASE (R472). -/
def execCommitHoldRelease (s : State) : Host.Outcome State Fault Refusal :=
  act s (fun s => match s.sc.jobs.find? (fun j => j.held) with
    | some j => if holdOver s j then updSc s j.jid (fun j => { j with lastGo := true, held := false }) else s
    | none => s)

/-- COMMIT_REPORT (R200): of another rank. -/
def execCommitReport (cid rank : Nat) (r : CommitRep) (s : State) : Host.Outcome State Fault Refusal :=
  act s (fun s => match cmdOf s cid, scOfCmd s cid with
    | some c, some j =>
      if c.op == 0x02 && c.phase == .running && rank != (descOf s j.desc).rank then takeReport s cid rank r else s
    | _, _ => s)

end Sys2Proof.Machine
end

