-- ==== Sys2Proof/Machine/Sched.lean ====
section
/-! DEFINITION. Scheduling (R467 to R469, R471), pre-emption (R473 to R475), hangs (R476, R477) and QUEUE_ABORT (R478). -/

namespace Sys2Proof.Machine

/-! ### Dispatch (R467) -/

/-- Queue (64 for a request of another chip), class and tile set of a unit. -/
structure UnitHome where
  q : Nat
  lc : Bool
  tiles : BitVec 48
  deriving DecidableEq, Repr

/-- Where a unit may run. -/
def unitHome (s : State) (u : Unit') : UnitHome :=
  if u.expand then
    match scOf s u.jid with
    | some j =>
      match j.cid.bind (cmdOf s) with
      | some c => { q := c.q, lc := j.lc, tiles := ((qOf s c.q).conf.map (fun k => k.tiles)).getD (BitVec.allOnes 48) }
      | none => { q := 64, lc := j.lc, tiles := BitVec.allOnes 48 }
    | none => { q := 64, lc := false, tiles := BitVec.allOnes 48 }
  else match jobOf s u.jid with
    | some j => { q := j.q, lc := j.lc, tiles := j.tiles }
    | none => { q := 64, lc := false, tiles := BitVec.allOnes 48 }

/-- A unit runs on the tile. -/
def busyTile (s : State) (t : Nat) : Bool := s.orr.units.any (fun u => u.tile == t && u.st == .running)

/-- The stream's reservation holds the unit's records with those of every earlier bag not yet sent (R112). -/
def credOk (s : State) (j : LkJob) (u : Unit') : Bool :=
  match j.cid.bind (cmdOf s) with
  | some c =>
    let x := strmOf s (lkStream c)
    !j.outk || strmClosed s x ||
      decide (x.staged.length * 64 + (u.bag0 + u.nbags - j.nextOut) * j.outStride ≤ x.d.credits * 65536)
  | none => true

/-- A segment has a scratch slot (R157). -/
def scratchOk (s : State) (u : Unit') : Bool := u.seg.isNone || (lowestFree s.orr.scratch 2048).isSome

/-- The command of this chip's queues that a unit works for. -/
def unitCid (s : State) (u : Unit') : Option Nat :=
  if u.expand then (scOf s u.jid).bind (fun j => j.cid) else (jobOf s u.jid).bind (fun j => j.cid)

/-- The unit is ready: the first of its command that has not started, with what it needs. -/
def unitReady (s : State) (u : Unit') : Bool :=
  u.st == .ready && !((unitCid s u).bind (cmdOf s)).any (faultHolds s) &&
    !s.orr.units.any (fun v => v.expand == u.expand && v.jid == u.jid && v.st == .ready && decide (v.uid < u.uid)) &&
    (qOf s (unitHome s u).q).st != .switched &&
    (if u.expand then ((scOf s u.jid).map (fun j => decide (u.bag0 + u.nbags ≤ j.nextBag))).getD false
     else ((jobOf s u.jid).map (fun j => scratchOk s u && credOk s j u)).getD false)

/-- The tiles that quadrant q's instance tries, in order. -/
def tileOrder (quad : Nat) : List Nat :=
  (List.range 48).filter (fun t => quadOf t == quad) ++ (List.range 48).filter (fun t => quadOf t != quad)

/-- The free tile that the instance uses for the unit. -/
def freeTile (s : State) (quad : Nat) (h : UnitHome) : Option Nat :=
  (tileOrder quad).find? (fun t => h.tiles.getLsbD t && !busyTile s t)

/-- Queues in round-robin order, starting after the one served last. -/
def rrOrder (last : Nat) : List Nat := (List.range 65).map (fun i => (last + 1 + i) % 65)

/-- An LC queue has a ready unit. -/
def lcWaits (s : State) (q : Nat) : Bool :=
  s.orr.units.any (fun u => (unitHome s u).lc && (unitHome s u).q == q && unitReady s u)

/-- The LC queue's slice has ended, and an LC queue whose slice has not waits (R469). -/
def sliceHolds (s : State) (q : Nat) : Bool :=
  s.orr.sliced.contains q && (List.range 65).any (fun p => !s.orr.sliced.contains p && lcWaits s p)

/-- The unit that an instance takes next in a class, with its tile. -/
def nextUnit (s : State) (quad : Nat) (lc : Bool) : Option (Unit' × Nat) :=
  let us := s.orr.units.filter (fun u => (unitHome s u).lc == lc && unitReady s u && !(lc && sliceHolds s (unitHome s u).q))
  (rrOrder (if lc then s.orr.rrLc else s.orr.rrBe)).findSome? (fun q =>
    (us.filter (fun u => (unitHome s u).q == q)).findSome? (fun u => (freeTile s quad (unitHome s u)).map (fun t => (u, t))))

/-- The unit starts on a tile. -/
def startUnit (s : State) (u : Unit') (t : Nat) : State :=
  let h := unitHome s u
  let slot := if u.seg.isSome && !u.expand then lowestFree s.orr.scratch 2048 else none
  let s1 := updUnit s u.uid (fun v => { v with st := .running, tile := t, scratch := slot })
  let s2 := { s1 with orr := { s1.orr with
    scratch := (match slot with
      | some k => sins s1.orr.scratch k
      | none => s1.orr.scratch),
    started := sdel s1.orr.started u.uid ++ [u.uid],
    sliced := if h.lc then sdel s1.orr.sliced h.q else s1.orr.sliced,
    rrLc := if h.lc then h.q else s1.orr.rrLc, rrBe := if h.lc then s1.orr.rrBe else h.q } }
  notePass s2 t

/-- Work moves: not in Park, not during a restart. -/
def live (s : State) : Bool := s.pwr.park == .running && s.pwr.restart != .running

/-- WORK_UNIT_DISPATCH (R467): LC before BE. -/
def dispatch (s : State) (quad : Nat) : State :=
  if !live s then s else
  match nextUnit s quad true with
  | some (u, t) => startUnit s u t
  | none =>
    match nextUnit s quad false with
    | some (u, t) => startUnit s u t
    | none => s

/-- WORK_UNIT_DISPATCH. -/
def execWorkUnitDispatch (quad : Fin 4) (s : State) : Host.Outcome State Fault Refusal := act s (fun s => dispatch s quad)

/-! ### Pre-emption (R468, R473 to R475) -/

/-- What a saved unit keeps of its row reads: no tier-F slot address, and unconfirmed rows are probed again (R262,
R474). -/
def saveEnts (s : State) (j : Option LkJob) (u : Unit') : Unit' :=
  let lost (i : Nat) : Bool := (u.ents[i]?).any (fun e => !e.conf)
  let u1 := (j.map (fun k => clearGroups s k u lost)).getD u
  { u1 with ents := u1.ents.map (fun e => if e.conf then
        { e with src := e.src.drop, queued := false, probe := if e.probe = .pending then .absent else e.probe }
      else
        { e with data := none, queued := false, defer := [],
                 src := if e.probe = .noProbe then e.src else .none,
                 probe := if e.probe = .noProbe then .noProbe else .pending }) }

/-- The unit drains, and its state goes to a save record if one is free (R474, R475). What BE SCATTERs hold on its tile
(run buffer, run positions, merge entries, delivery window) goes with it (R204). -/
def switchOut (s : State) (u : Unit') : State :=
  match lowestFree s.orr.saves 192 with
  | none => bump1 s ctrChipSaveFull
  | some k =>
    let s1 := drainUnit s u.uid
    let j := if u.expand then none else jobOf s1 u.jid
    let s2 := updUnit s1 u.uid (fun v => { saveEnts s1 j v with st := .saved, save := some k })
    let s3 := { s2 with
      orr := { s2.orr with saves := sins s2.orr.saves k, started := sdel s2.orr.started u.uid },
      sc := { s2.sc with saved := s2.sc.saved ++ [(u.tile, u.uid)] } }
    notePass s3 u.tile

/-- The second level of pre-emption (R468, R474): counted where a save record is free. -/
def preempt (s : State) (u : Unit') : State :=
  let q := (unitHome s u).q
  bumpIf (switchOut s u) (decide (q < 64) && (lowestFree s.orr.saves 192).isSome) (ctrQueuePreemptL2 q)

/-- A queue's task is switched out: its running units leave their tiles, which is no pre-emption (R383, note p of chapter
18). -/
def queueOut (s : State) (q : Nat) : State :=
  (s.orr.units.filter (fun u => u.st == .running && (unitHome s u).q == q)).foldl switchOut s

/-- An LC unit is ready, and no tile of its set is free: the BE unit that goes is the one that started most recently on
a tile of that set (R468). -/
def preemptTarget (s : State) : Option Unit' :=
  (s.orr.units.filter (fun u => (unitHome s u).lc && unitReady s u)).findSome? (fun u =>
    let h := unitHome s u
    if (freeTile s 0 h).isSome then none
    else s.orr.started.reverse.findSome? (fun uid => (unitOf s uid).bind (fun v =>
      if v.st == .running && !(unitHome s v).lc && h.tiles.getLsbD v.tile then some v else none)))

/-- PREEMPT_L2 (R468, R474). -/
def execPreemptL2 (uid : Nat) (s : State) : Host.Outcome State Fault Refusal :=
  act s (fun s => match preemptTarget s with
    | some u => if u.uid == uid && live s then preempt s u else s
    | none => s)

/-- The reads of a restored unit that must be made again issue. -/
def reissue (s : State) (uid : Nat) : State :=
  match unitOf s uid with
  | none => s
  | some u =>
    if u.expand then s else
    match jobOf s u.jid with
    | none => s
    | some j =>
      (List.range u.ents.length).foldl (fun t i =>
        match (unitOf t uid).bind (fun v => v.ents[i]?) with
        | some e =>
          if e.conf then t
          else issueRead t u j.lc i (if e.probe = .pending then 2 else srcSectors (descOf t j.desc) e.src)
        | none => t) s

/-- UNIT_RESTORE (R475): on a free tile of the queue's set, while no LC unit is ready that it would delay. -/
def restore (s : State) (uid t : Nat) : State :=
  match unitOf s uid with
  | none => s
  | some u =>
    let h := unitHome s u
    if u.st != .saved || !live s || !h.tiles.getLsbD t || busyTile s t || (qOf s h.q).st == .switched ||
        s.orr.units.any (fun v => (unitHome s v).lc && unitReady s v) then s
    else
      let s1 := updUnit s uid (fun v => { v with st := .running, tile := t, save := none })
      let s2 := { s1 with
        orr := { s1.orr with
          saves := (match u.save with
            | some k => sdel s1.orr.saves k
            | none => s1.orr.saves),
          started := s1.orr.started ++ [uid] },
        sc := { s1.sc with saved := s1.sc.saved.filter (fun e => e.2 != uid) } }
      reissue (notePass s2 t) uid

/-- UNIT_RESTORE. -/
def execUnitRestore (uid : Nat) (tile : Fin 48) (s : State) : Host.Outcome State Fault Refusal :=
  act s (fun s => restore s uid tile)

/-! ### Time slices (R469, R471) -/

/-- Tiles for which another queue of the class waits: with a ready unit, or in the merge queue of a tile on which the queue
holds merge entries (R469). A tile's gather credits are those of its one unit. -/
def contended (s : State) (q : Nat) (lc : Bool) : List Nat :=
  let qOfJob (j : ScJob) : Nat := ((j.cid.bind (cmdOf s)).map (fun c => c.q)).getD 64
  let ws := s.orr.units.filter (fun u =>
    let h := unitHome s u
    h.q != q && h.lc == lc && (unitReady s u || u.st == .saved) && (freeTile s 0 h).isNone)
  (List.range 48).filter (fun t => ws.any (fun u => (unitHome s u).tiles.getLsbD t) ||
    (s.sc.jobs.any (fun j => j.lc == lc && qOfJob j == q && (s.sc.entries.zip s.sc.entriesJob).any (fun e =>
        e.1.tile == t && e.2 == j.jid)) &&
      s.sc.mq.any (fun e => e.1 == t && (scOf s e.2).any (fun j => j.lc == lc && qOfJob j != q))))

/-- A SCATTER of the queue is in its commit phase on this chip (R199, R471). -/
def queueCommits (s : State) (q : Nat) : Bool :=
  s.sc.jobs.any (fun j => ((j.cid.bind (cmdOf s)).map (fun c => c.q)) == some q && inCommit s j && !j.reported)

/-- A slice that ends has paid its length of what earlier overruns took of it (R471). -/
def payOwed (s : State) (q : Nat) : State :=
  let x := qOf s q
  if x.owed = 0 then s else setQ s q { x with owed := x.owed - 1024 * (x.conf.map (fun c => c.slice)).getD 0 }

/-- TIME_SLICE_EXPIRY (R469): BE units leave the contended tiles; an LC queue dispatches no further unit while another
waits, and then rejoins the round robin (R473). A commit phase is let finish, and counts (R471). -/
def sliceEnd (s : State) (q : Nat) : State :=
  let lc := qLc s q
  let ts := contended s q lc
  let mine := s.orr.units.filter (fun u => u.st == .running && (unitHome s u).q == q && ts.contains u.tile)
  if !live s || mine.isEmpty then s
  else
    let p := payOwed s q
    let s0 := if queueCommits s q then
        bump1 { p with orr := { p.orr with overrun := sins p.orr.overrun q } } (ctrQueueSliceOvr q)
      else p
    if lc then bump1 { s0 with orr := { s0.orr with rrLc := q, sliced := sins s0.orr.sliced q } } (ctrQueuePreemptL1 q)
    else
      let s1 := mine.foldl preempt s0
      { s1 with orr := { s1.orr with rrBe := q } }

/-- TIME_SLICE_EXPIRY. -/
def execTimeSliceExpiry (q : Fin 64) (s : State) : Host.Outcome State Fault Refusal := act s (fun s => sliceEnd s q)

/-! ### Hangs (R477) -/

/-- The job holds contribution records or merge entries on the tile. -/
def scatOnTile (s : State) (j : ScJob) (t : Nat) : Bool :=
  [j.flying, j.runBuf].any (fun m => !(mget m t []).isEmpty) || (mget j.runs t []).any (fun r => !r.isEmpty) ||
    (entriesOf s j.jid).any (fun e => e.tile == t)

/-- The queues whose work a tile holds (64 for work of another chip): units, contribution records and merge entries of a
SCATTER, and running streams of its engine (R476, R477). -/
def tileWork (s : State) (t : Nat) : List Nat :=
  (s.orr.units.filter (fun u => u.tile == t && u.st == .running)).map (fun u => (unitHome s u).q) ++
  (s.sc.jobs.filter (fun j => scatOnTile s j t)).map (fun j => ((j.cid.bind (cmdOf s)).map (fun c => c.q)).getD 64) ++
  (s.str.streams.filter (fun e => strmTile e.1 e.2.d == t && e.2.st == .running)).map (fun e => e.2.d.queue)

/-- Tiles that hold work of a queue. -/
def queueTiles (s : State) (q : Nat) : List Nat := (List.range 48).filter (fun t => (tileWork s t).contains q)

/-- The command only waits for a PARK fault: a stream's own, or one that an earlier stream of its queue has raised. -/
def waitsFault (s : State) (c : Cmd) : Bool :=
  match c.own with
  | .stream n => (strmOf s n).st == .faultParked
  | _ => c.phase == .fetched && faultHolds s c

/-- The queue is evaluated: it runs or is blocked with work in flight that is more than held commands and commands that
only wait for a PARK fault. A queue that only waits for CACK has nothing in flight. -/
def hangEval (s : State) (q : Nat) : Bool :=
  let x := qOf s q
  (x.st == .running || x.st == .blocked) && s.orr.cmds.any (fun c => c.q == q && c.phase != .held && !waitsFault s c)

/-- The reason of a report. -/
def hangReason (s : State) (q : Nat) : Nat :=
  if !(queueTiles s q).isEmpty then 0
  else if s.orr.cmds.any (fun c => c.q == q && c.op == 0x07 && c.phase == .waiting) then 1
  else 2

/-- A check of a queue at the end of a hang limit; where `FRZ_CTRL` says so, a hang freezes the block (R557). -/
def hangQueue (s : State) (q : Nat) : State :=
  let x := qOf s q
  let now := ctr s (ctrQueueQProg q) :: (queueTiles s q).flatMap (fun t => [t, ctr s (ctrTileTProg t)])
  if !hangEval s q then setQ s q { x with seenProg := [] }
  else if x.seenProg = now then
    freezeOn (raiseEvent (bump1 (setQ s q { x with st := .hung, seenProg := [] }) (ctrQueueQueueHung q)) 0x0003 q
      (BitVec.ofNat 64 (hangReason s q)) 0) 3 4 (BitVec.ofNat 8 q)
  else setQ s q { x with seenProg := now }

/-- A check of a tile. -/
def hangTile (s : State) (t : Nat) : State :=
  let now := ctr s (ctrTileTProg t)
  let put (v : FMap Nat) : State := { s with orr := { s.orr with seenTile := v } }
  if (tileWork s t).isEmpty then put (mdel s.orr.seenTile t)
  else if mget? s.orr.seenTile t = some now then
    freezeOn (raiseEvent (bump1 (put (mdel s.orr.seenTile t)) (ctrTileTileHung t)) 0x0004 t 0 0) 3 4
      (BitVec.ofNat 8 (0x80 + t))
  else put (mset s.orr.seenTile t now)

/-- HANG_CHECK (R477): the first check notes the progress counters, and the next finds them unchanged. The intervals do not
advance in Park (R525). -/
def execHangCheck (target : HangTarget) (s : State) : Host.Outcome State Fault Refusal :=
  act s (fun s => if s.pwr.park != .running then s else match target with
    | .queue q => hangQueue s q
    | .tile t => hangTile s t)

/-! ### QUEUE_ABORT (R478) -/

def rowQueueAbort : MbRow :=
  { opc := 0x61, cls := .L, group := 6, lo := 1, hi := 3, used := [mask 0 6], mgmtOnly := false }

/-- Records of commands that wait for nothing outside are written at once. -/
def completeAll (s : State) (cids : List Nat) : State := cids.foldl complete s

/-- QUEUE_ABORT: nodes first, then the launches and commands that own them. -/
def bodyQueueAbort (s : State) (c : MbCtx) : MbOut :=
  let q := c.f 0 0 6
  if lQueue s q then .done s rcInUse [] else
  let mine := s.orr.cmds.filter (fun d => d.q == q && (match d.own with | .stream _ => false | _ => true))
  let nodes := mine.filter (fun d => match d.own with | .node _ _ => true | _ => false)
  let rest := mine.filter (fun d => match d.own with | .node _ _ => false | _ => true)
  let n := (rest.filter (fun d => d.phase != .done)).length
  let s1 := (nodes ++ rest).foldl (fun t d => abortCmd t d.cid 0x31) s
  let s2 := scatGo (poolServe (completeAll s1 ((nodes ++ rest).map (fun d => d.cid))))
  .done (setQ s2 q { qOf s2 q with st := .stopped, pendingDb := false }) rcOk [(0, BitVec.ofNat 64 n)]

/-- QUEUE_ABORT. -/
def execQueueAbort (m : MbWrite) (s : State) : Host.Outcome State Fault Refusal := mbox rowQueueAbort bodyQueueAbort m s

end Sys2Proof.Machine
end

