-- ==== Sys2Proof/Machine/Replace.lean ====
section
/-! DEFINITION. REPLACE, SWAP_VERSION and the end of a retired table version (R271 to R281, R85). -/

namespace Sys2Proof.Machine

/-! ### The Almanac as a whole -/

/-- Buckets that hold anything, in rising order: those with a byte in memory or a cached line. -/
def almHeld (s : State) : List Nat :=
  let b := almBase s
  let n := almBytes (layoutOf s)
  let ms := (s.mem.cells.filter (fun c => decide (b ≤ c.1) && decide (c.1 < b + n))).map (fun c => (c.1 - b) / 64)
  let ls := (s.rc.lines.filter (fun e => decide (b ≤ e.2.x * 64) && decide (e.2.x * 64 < b + n))).map
    (fun e => (e.2.x * 64 - b) / 64)
  (ms ++ ls).foldl sins []

/-- The line of a bucket reads poisoned (R86). -/
def bucketBad (s : State) (b : Nat) : Bool :=
  let x := bucketAddr s b / 64
  match findWay s (homeSlice s x) (lineSet s x) x with
  | some w => (mget s.rc.lines (wayKey (homeSlice s x) (lineSet s x) w)
      { x := x, dirty := false, keep := false, poison := false, touched := false, data := [] }).poison
  | none => secBad s.mem (2 * x) || secBad s.mem (2 * x + 1)

/-- Every entry of a readable bucket that satisfies a test. -/
def almEntries (s : State) (p : AEnt → Bool) : List APlace :=
  ((almHeld s).filter (fun b => !bucketBad s b)).flatMap (fun b =>
    ((bucketEnts (peekLine s (bucketAddr s b / 64))).zipIdx.filter (fun x => p x.1)).map (fun x =>
      { bucket := b, idx := x.2, ent := x.1 }))

/-- The VALID entries of a descriptor. -/
def almOf (s : State) (d : Nat) : List APlace := almEntries s (fun e => e.state == 1 && e.desc == d)

/-! ### REPLACE (R271 to R275) -/

def rpLoading (c : Cmd) : Bool := bit (c.w 0) 20
def rpEncoded (c : Cmd) : Bool := bit (c.w 0) 21
def rpClass (c : Cmd) : Nat := c.f 0 22 2
def rpPlace (c : Cmd) : Nat := c.f 0 24 2
def rpRow (c : Cmd) : Nat := c.f 1 0 40
def rpSrc (c : Cmd) : Nat := c.f 2 0 52

/-- The fields of a REPLACE that need no state (R273 step 1). -/
def rpFields (c : Cmd) : Bool :=
  c.f 0 28 36 == 0 && c.f 1 40 24 == 0 && c.f 2 52 12 == 0 && (c.words.drop 3).all (fun w => w == 0) &&
    rpPlace c != 3 && !(rpEncoded c && rpClass c != 0) && rpSrc c % 64 == 0

/-- The descriptor that TGT names (R273 step 2). -/
def rpResolve (s : State) (c : Cmd) : Option (Nat × Desc) :=
  let r := if rpLoading c then findDesc s (c.f 0 8 12) (fun y => y.dstate == 1) else liveDesc s (c.f 0 8 12)
  match r with
  | some (d, x) => if x.resident || decide (x.rows ≤ rpRow c) then none else some (d, x)
  | none => none

/-- The class of a BF16 source is one that the table permits (R273 step 1). -/
def rpClassOk (s : State) (c : Cmd) (x : Desc) : Bool :=
  rpEncoded c || (decide (x.widest ≤ rpClass c) && (rpClass c == 0 || (cbFor s x (rpClass c)).isSome))

/-- What reading the source gave: its bytes and poison, a wait for bytes from outside the chip, no right, or a host that is
gone. -/
inductive SrcRead where
  | ok (s : State) (data : List Byte) (poison : Bool)
  | wait (s : State)
  | denied
  | lost

/-- Reads a part of the source, asking once for what lies outside the chip (R273 steps 3 and 4). -/
def rpRead (s : State) (c : Cmd) (n : Nat) : SrcRead :=
  match (if c.phase == .waiting || c.usesHost then extHeld s 0 (rpSrc c) n else extPieces s true 0 (rpSrc c) n) with
  | .error _ => .denied
  | .ok ps =>
    match readPieces (.cmd c.cid) s ps with
    | .fail _ => .denied
    | .ok t d => .ok t (d.map (fun b => b.1)) (d.any (fun b => b.2))
    | .outside p =>
      if p.host && !hostUp s then .lost
      else .wait (askOutside (updCmd s c.cid (fun c => { c with usesHost := c.usesHost || p.host })) (.cmd c.cid) p)

/-- An encoded slice passes R62 for the table. -/
def rpSliceOk (s : State) (x : Desc) (sl : List Byte) : Bool :=
  slPop sl && !slicePadErr sl x.cols && !sliceFmtErr sl x.cols x.widest (cbFor s x)

/-- Reads the whole source of a REPLACE, and goes on with it. An encoded source is first read up to its block
exponents, which tell its size. -/
def rpSource (s : State) (c : Cmd) (x : Desc) (k : State → List Byte → Bool → State) : State :=
  let fin (r : SrcRead) (k : State → List Byte → Bool → State) : State :=
    match r with
    | .ok t d p => k t d p
    | .wait t => t
    | .denied => failCmd s c.cid 0x11
    | .lost => failCmd s c.cid 0x20
  if !rpEncoded c then fin (rpRead s c (2 * x.cols)) k
  else fin (rpRead s c (8 + x.cols / 32)) (fun t h p =>
    if p then failCmd t c.cid 0x40
    else fin (rpRead t c (slotSize (slClass h) x.cols)) k)

/-- A part of the source lies at the host. -/
def rpFromHost (s : State) (c : Cmd) (n : Nat) : Bool :=
  match extPieces s true 0 (rpSrc c) n with
  | .ok ps => ps.any (fun p => p.host)
  | .error _ => false

/-- A valid REPLACE arrives at its row (R251). A source that was read in full from a host is kept, so that a loss of the
host after that does not end the command (R275). -/
def rpArrive (s : State) (c : Cmd) (d : Nat) (src : Option (List Byte)) : State :=
  let n := s.sc.nextOrd
  updCmd { s with sc := { s.sc with nextOrd := n + 1 } } c.cid (fun c =>
    { c with phase := .waiting, plan := d, ord := n, src := src })

/-- REPLACE: validation in the order of R273; then the command waits for its gate, a journal record and the row. -/
def rpRun (s : State) (c : Cmd) : State :=
  if !rpFields c then failCmd s c.cid 0x40
  else match rpResolve s c with
    | none => failCmd s c.cid 0x40
    | some (d, x) =>
      if !rpClassOk s c x then failCmd s c.cid 0x40
      else rpSource s c x (fun t data poison =>
        if !t.rc.need.isEmpty then t
        else if poison || (rpEncoded c && !rpSliceOk t x data) then failCmd t c.cid 0x40
        else rpArrive t c d (if rpFromHost t c data.length then some data else none))

/-- REPLACE. -/
def execReplace (cid : Nat) (s : State) : Host.Outcome State Fault Refusal :=
  act s (fun s => withCmd s cid 0x03 (fun c s => rpRun s c))

/-- The slice that a REPLACE writes (R274 step 2): over a header that is unpopulated or cannot be read, STEP is 0 and
FREEZE comes from the command. -/
def rpSlice (s : State) (c : Cmd) (d : Nat) (x : Desc) (found : Option APlace) (hdr : List Byte) (hdrBad : Bool)
    (data : List Byte) : State × List Byte :=
  let known := slPop hdr && !hdrBad
  let v := match found with
    | some p => p.ent.version
    | none => if hdrBad then 0 else slVersion hdr
  let step := if known then slStep hdr else 0
  let frz := if known then slFreeze hdr else bit (c.w 0) 27
  if rpEncoded c then
    (s, mkHdr ((v + 1) % 4096) step (slClass data) (slEsc data) frz true (slPoison data) (slQerr data) (slNblk data - 1) ++
      data.drop 8)
  else
    codecEncode s d (rpRow c) (rpClass c) ((List.range x.cols).map (fun i => BitVec.ofNat 16 (numAt data (2 * i) 2))) ((v + 1) % 4096)
      step frz

/-- The command's record after a REPLACE (R275). -/
def rpDone (s : State) (cid : Nat) (prom notProm poison : Bool) (cls ver : Nat) : State :=
  finish (updCmd s cid (fun c => { c with promoted := prom, notPromoted := notProm, poison := poison, wclass := cls,
                                          version := ver })) cid

/-- The row ends promoted: install, then SET_SERVE (R274 step 4). An install that fails leaves it unpromoted (R254,
R255, R270). -/
def rpPromote (s : State) (c : Cmd) (d : Nat) (found : Option APlace) (sl : List Byte) : State :=
  let row := rpRow c
  match installSlice s d row sl (some (bit (c.w 0) 26)) false none with
  | (t, .ok) =>
    rpDone (sendServe t d row true (slClass sl) (slVersion sl)) c.cid true false (slPoison sl) (slClass sl) (slVersion sl)
  | (t, _) =>
    let t1 := if found.isSome then demoteRow t d row (slClass sl) false
      else sendServe t d row false (slClass sl) (slVersion sl)
    rpDone t1 c.cid false (rpPlace c == 1) (slPoison sl) (slClass sl) (slVersion sl)

/-- The non-preemptible part of a REPLACE (R274, R275). -/
def rpGo (s : State) (c : Cmd) (d : Nat) (x : Desc) (data : List Byte) : State :=
  let row := rpRow c
  let (s1, found) := probe s d row
  let (s2, hdr, hdrBad) := readHdr s1 d row
  let (s3, sl) := rpSlice s2 c d x found hdr hdrBad data
  let (s4, a) := sendReseed s3 d row sl
  if a.result != 8 then rpDone s4 c.cid found.isSome false true 0 0
  else if rpPlace c = 2 || (rpPlace c = 0 && found.isNone) then
    rpDone (demoteRow s4 d row (slClass sl) false) c.cid false false (slPoison sl) (slClass sl) (slVersion sl)
  else rpPromote s4 c d found sl

/-- An earlier REPLACE waits for the same row (R251). -/
def rpBehind (s : State) (c : Cmd) : Bool :=
  s.orr.cmds.any (fun k => k.op == 0x03 && !k.badLine && k.phase == .waiting && decide (k.ord < c.ord) &&
    k.plan == c.plan && rpRow k == rpRow c)

/-- REPLACE_RUN: past the gate of R267, at its turn on the row, with a journal record of its engine (R251, R252, R274). -/
def rpMayRun (s : State) (c : Cmd) : Bool :=
  rowOpFree s c.plan && journalRoom s (ownerQuad c.plan (descOf s c.plan) (rpRow c)) false && !rpBehind s c && live s

/-- REPLACE_RUN. -/
def execReplaceRun (cid : Nat) (s : State) : Host.Outcome State Fault Refusal :=
  act s (fun s => match cmdOf s cid with
    | none => s
    | some c =>
      if c.badLine || c.op != 0x03 || c.phase != .waiting || !rpMayRun s c then s
      else match c.src with
        | some data => rpGo s c c.plan (descOf s c.plan) data
        | none => rpSource s c (descOf s c.plan) (fun t data poison =>
          let x := descOf t c.plan
          if poison || (rpEncoded c && !rpSliceOk t x data) then failCmd t cid 0x40 else rpGo t c c.plan x data))

/-! ### SWAP_VERSION (R277 to R279) -/

/-- Reserved fields of a SWAP_VERSION are zero. -/
def swFields (c : Cmd) : Bool :=
  c.f 0 21 43 == 0 && c.f 1 32 32 == 0 && (c.words.drop 2).all (fun w => w == 0)

/-- The two descriptors of a valid swap: the LIVE one and the LOADING one (R277). -/
def swResolve (s : State) (c : Cmd) : Option (Nat × Nat) :=
  let t := c.f 0 8 12
  match findDesc s t (fun y => y.dstate == 1 && y.tver == BitVec.ofNat 16 (c.f 1 0 16)), liveDesc s t with
  | some (n, x), some (o, y) =>
    if y.tver != BitVec.ofNat 16 (c.f 1 16 16) || !versionReady s n x then none else some (o, n)
  | _, _ => none

/-- SCATTERs on the table that are past validation step 2, those of another owner that this rank serves among them
(R278). -/
def swScatters (s : State) (table : Nat) : Bool :=
  s.orr.cmds.any (fun k => !k.badLine && k.op == 0x02 && k.phase != .fetched && k.phase != .held && k.f 0 8 12 == table) ||
    s.sc.jobs.any (fun j => (descOf s j.desc).table == table)

/-- The new version's context in every companion, and its codebooks in every tile (R46, R207, R278). -/
def swLoad (s : State) (n : Nat) : State :=
  let x := descOf s n
  let s1 := (List.range 8).foldl (fun t k =>
    if portUp t k then setLy t k (lyLoadCtx (lyOf t k) n (ctxOfDesc x)) else countPort t k) s
  (List.range 48).foldl (fun t i => cbClasses.foldl (fun u w =>
    match cbFor u x w with
    | some b => cbTouch u i (cbNum x w).toNat b
    | none => u) t) s1

/-- The warm set (R279): the rows of the old version's VALID entries, at the entry's class, or at WIDEST where the
entry's class is wider (log entry 33). Meridian promotes no row of a resident table (R94). -/
def warmSet (s : State) (o n : Nat) : List (Nat × Nat) :=
  let x := descOf s n
  if x.resident then []
  else ((almOf s o).filter (fun p => decide (p.ent.row < x.rows))).map (fun p => (p.ent.row, max p.ent.wclass x.widest))

/-- One promotion of the warm set. -/
def warmOne (s : State) (n : Nat) (r : Nat × Nat) : State :=
  match promoteRow s n r.1 r.2 false with
  | (u, some .ok) => bump1 u (ctrTableWarmRows n)
  | (u, some .refused) => bump1 u (ctrTableWarmSkip n)
  | (u, _) => u

/-- The warm set's promotions, each with a journal record and none while TABLE_PARAMS holds them (R232, R252): those that
are left. -/
def swWarm (n : Nat) : List (Nat × Nat) → State → State × List (Nat × Nat)
  | [], s => (s, [])
  | r :: l, s =>
    if lDesc s n || !journalRoom s (ownerQuad n (descOf s n) r.1) false then (s, r :: l)
    else swWarm n l (warmOne s n r)

/-- The prepare phase goes on with the warm set, and ends with its last promotion. -/
def swGo (s : State) (cid o n : Nat) (rows : List (Nat × Nat)) : State :=
  match swWarm n rows s with
  | (t, []) => updCmd t cid (fun c => { c with phase := .running, plan := n, pver := o, warm := none })
  | (t, l) => updCmd t cid (fun c => { c with phase := .waiting, plan := n, pver := o, warm := some l })

/-- The prepare phase after the SCATTERs: loads, and the warm set when WARM asks for it. -/
def swPrepare (s : State) (c : Cmd) (o n : Nat) : State :=
  let s1 := swLoad s n
  swGo s1 c.cid o n (if bit (c.w 0) 20 then warmSet s1 o n else [])

/-- SWAP_VERSION: validation, then the wait for the SCATTERs under way and the prepare phase (R278). -/
def swRun (s : State) (c : Cmd) : State :=
  match c.warm with
  | some rows => swGo s c.cid c.pver c.plan rows
  | none =>
    if !swFields c then failCmd s c.cid 0x40
    else match swResolve s c with
      | none => failCmd s c.cid 0x40
      | some (o, n) =>
        if swScatters s (c.f 0 8 12) then updCmd s c.cid (fun c => { c with phase := .waiting })
        else swPrepare s c o n

/-- SWAP_VERSION. -/
def execSwapVersion (cid : Nat) (s : State) : Host.Outcome State Fault Refusal :=
  act s (fun s => match cmdOf s cid with
    | none => s
    | some c =>
      if c.badLine || c.op != 0x04 || !live s || !(mayStart s c || c.phase == .waiting) then s else swRun s c)

/-- SWAP_COMMIT (R278): the binding is rewritten, the old descriptor becomes RETIRING and the new one LIVE. A version
that is no longer the one validated ends the command as in R277. -/
def execSwapCommit (cid : Nat) (s : State) : Host.Outcome State Fault Refusal :=
  act s (fun s => match cmdOf s cid with
    | none => s
    | some c =>
      if c.badLine || c.op != 0x04 || c.phase != .running || !live s then s
      else if swResolve s c != some (c.pver, c.plan) then failCmd s cid 0x40
      else finish (bindDesc (retireDesc s c.pver) c.plan) cid)

/-! ### Retired versions (R281, R85) -/

/-- A command or a fanned-out request is bound to the descriptor (R72, R96, R281). -/
def descBound (s : State) (d : Nat) : Bool :=
  s.orr.jobs.any (fun j => j.desc == d) || s.sc.jobs.any (fun j => j.desc == d) ||
    s.orr.cmds.any (fun c => !c.badLine && (c.op == 0x02 || c.op == 0x03) && c.phase != .fetched && c.phase != .held &&
      c.plan == d)

/-- A stripe of an extent with no allocation left draws another seed before it is used again (R281, R301); its cached lines
are written back first. -/
def reseedFree (s : State) (a n : Nat) : State :=
  (List.range 512).foldl (fun t i =>
    if overlap a n (i * 0x30000000) 0x30000000 && !stripeUsed t i then
      let (u, seed) := draw (flushExt t (i * 0x30000000) 0x30000000)
      restripe u i { stripeOf u i with seed := seed }
    else t) s

/-- The descriptor becomes FREE, with the reset values of R71, once its entries are TOMBSTONE and no slot of it awaits
reclamation (R281). -/
def freeDesc (s : State) (d : Nat) : State :=
  if s.orr.retiring.contains d && !s.alm.retire.any (fun r => r.desc == d) then
    let x := descOf s d
    let s0 := putDesc s d Desc.reset
    let s1 := if x.resident then
        (List.range 4).foldl (fun t q => reseedFree t (resExtent x q).1 (resExtent x q).2) s0 else s0
    { s1 with orr := { s1.orr with retiring := sdel s1.orr.retiring d } }
  else s

/-- One VALID entry of a RETIRING descriptor is written TOMBSTONE while a journal record is free. -/
def retireOne (s : State) (p : APlace) : State :=
  if journalRoom s (ownerQuad p.ent.desc (descOf s p.ent.desc) p.ent.row) false then tombstone s p false else s

/-- TOMBSTONE_RETIRING (R281). -/
def execTombstoneRetiring (desc : Fin 4096) (s : State) : Host.Outcome State Fault Refusal :=
  act s (fun s =>
    let d := desc.val
    if (descOf s d).dstate != 3 || s.orr.retiring.contains d || descBound s d || !merUp s || !live s then s
    else
      let s1 := (almOf s d).foldl retireOne s
      if (almOf s1 d).isEmpty then freeDesc { s1 with orr := { s1.orr with retiring := sins s1.orr.retiring d } } d else s1)

/-- Bucket b is in the probe sequence of a VALID entry of buckets b + 1 to b + 3 (R85). -/
def probedPast (s : State) (b : Nat) : Bool :=
  (List.range 3).any (fun i =>
    let c := (b + 1 + i) % almNb s
    (bucketEnts (peekLine s (bucketAddr s c / 64))).any (fun e =>
      e.state == 1 && (List.range 4).any (fun k => almBucket s e.desc e.row k == b)))

/-- TOMBSTONE_CLEAR (R85): the TOMBSTONE entries of a FREE descriptor that no live probe sequence passes. -/
def execTombstoneClear (desc : Fin 4096) (s : State) : Host.Outcome State Fault Refusal :=
  act s (fun s =>
    let d := desc.val
    if (descOf s d).dstate != 0 || !merUp s || !live s || s.pwr.sl != 3 then s
    else
      (almEntries s (fun e => e.state == 2 && e.desc == d)).foldl (fun t p =>
        if probedPast t p.bucket then t else writeEnt t p.bucket p.idx (AEnt.ofNat 0)) s)

end Sys2Proof.Machine
end

