-- ==== Sys2Proof/Machine/Registers.lean ====
section
/-! DEFINITION. The register file: what a read returns, and the writes that start no command (chapter 19). -/

namespace Sys2Proof.Machine

/-! ### Reading (R571 to R592) -/

/-- `Q_STATUS` (R452). -/
def qStatus (s : State) (q : Nat) : W64 :=
  let x := qOf s q
  BitVec.ofNat 64 (qStateCode x.st + b2n x.pendingDb * 8 + b2n x.dbErr * 16 + b2n x.cfull * 32 + inflight s q * 2 ^ 8)

/-- A word of the identification and status page (R576). -/
def idWord (s : State) (mgmt : Bool) (off : Nat) : W64 :=
  if off = 0x00 then Config.aihId
  else if off = 0x08 then s.mer.heart.setWidth 64
  else if off = 0x10 then pwrStatus s
  else if off = 0x18 then errStatus s
  else if off = 0x20 then s.err.frzCtrl.setWidth 64
  else if off = 0x28 then frzStatus s
  else if off = 0x30 then rcStatus s
  else if off = 0x38 then hpStatus s
  else if off = 0x40 then s.hp.win
  else if off = 0x48 then s.load.mwNum.setWidth 64
  else if off = 0x50 then s.load.mwAclk.setWidth 64
  else if off = 0x58 then genStatus s
  else if off = 0x60 then evtStatus s
  else if off = 0x68 then (if mgmt then s.scratchMgmt else s.scratchHost)
  else 0

/-- A word of a mailbox channel (R487, R582). -/
def chanWord (s : State) (mgmt : Bool) (c o : Nat) : W64 :=
  let x := chanOf s c
  if x.master != (if mgmt then 2 else 1) then 0
  else if o = 0x00 then x.cmd
  else if o = 0x08 then mbStatus x
  else if o < 0x50 then x.args.getD ((o - 0x10) / 8) 0
  else if o < 0x90 then x.rets.getD ((o - 0x50) / 8) 0
  else 0

/-- A word of a queue (R584, R585). -/
def queueWord (s : State) (q o : Nat) : W64 :=
  let x := qOf s q
  if o = 0x00 then x.tail.setWidth 64
  else if o = 0x08 then x.cack
  else if o = 0x10 then qStatus s q
  else if o = 0x18 then x.fetch.setWidth 64
  else if o = 0x20 then BitVec.ofNat 64 x.cseq
  else 0

/-- A word of the counter window (R590, R591): set, then offset within the set. -/
def ctrWindow (s : State) (n o : Nat) : W64 :=
  let u := o / 0x200
  let w := o % 0x200 / 8
  if u < ctrUnits.getD n 0 && w < ctrWords.getD n 0 && !(n == 5 && decide (8 ≤ w)) then
    BitVec.ofNat 64 (ctrValue s n u w)
  else 0

/-- The word at an 8-byte-aligned offset of the register file; an unassigned offset reads zero (R572). -/
def regRead (s : State) (mgmt : Bool) (off : Nat) : W64 :=
  if off < 0x1000 then idWord s mgmt off
  else if 0x10000 ≤ off && off < 0x11000 then chanWord s mgmt ((off - 0x10000) / 0x100) (off % 0x100)
  else if 0x20000 ≤ off && off < 0x21000 then queueWord s ((off - 0x20000) / 0x40) (off % 0x40)
  else if 0x30000 ≤ off && off < 0x32000 then (semOf s ((off - 0x30000) / 8)).setWidth 64
  else if 0x40000 ≤ off && off < 0x40510 then msixWord s ((off - 0x40000) / 16) (off / 8 % 2)
  else if 0x41000 ≤ off && off < 0x41010 then
    BitVec.ofNat 64 ((s.msix.pba.filter (fun v => v / 64 == (off - 0x41000) / 8)).foldl (fun a v => a + 2 ^ (v % 64)) 0)
  else if 0xC00000 ≤ off && off < 0xE00000 then ctrWindow s 1 (off - 0xC00000)
  else if 0x400000 ≤ off && off < 0xB00000 && (off - 0x400000) / 0x80000 != 1 then
    ctrWindow s ((off - 0x400000) / 0x80000) ((off - 0x400000) % 0x80000)
  else 0

/-! ### HW_WIN (R397, R399) -/

def winBase (w : W64) : Nat := fld w 0 27 * 0x200000
def winHint (w : W64) : BitVec 2 := BitVec.ofNat 2 (fld w 27 2)
def winEn (w : W64) : Bool := bit w 29

/-- A window of 256 MiB at this address may be placed (R399). -/
def winOk (s : State) (a : Nat) : Bool :=
  inTiers a 0x10000000 && (s.hp.aper || !protectedArea s a 0x10000000)

/-- The write of `HW_WIN` (R397, R399): a refused `BASE` keeps its value and sets `ERR`. -/
def writeWin (s : State) (v : W64) : State :=
  let ok := winOk s (winBase v)
  let base := if ok then fld v 0 27 else fld s.hp.win 0 27
  let err := !ok || (bit s.hp.win 30 && !bit v 30)
  bumpIf { s with hp := { s.hp with
    win := BitVec.ofNat 64 (base + fld v 27 3 * 2 ^ 27 + b2n err * 2 ^ 30) } } (!ok) ctrChipHwWinRefuse

/-- HW_WIN_WRITE (R399). -/
def execHwWinWrite (v : W64) (s : State) : Host.Outcome State Fault Refusal := 
  barAct s 0x40 [v] (fun s => writeWin s v)

/-! ### MSI-X (R589) -/

/-- Writes a word of the MSI-X table; the reserved bits of the vector control stay zero, and a message that is
pending goes out when its vector becomes unmasked. -/
def writeMsix (s : State) (v w : Nat) (x : W64) : State :=
  let x1 := if w = 1 then x &&& 0x00000001FFFFFFFF#64 else x
  msixFlush { s with msix := { s.msix with table := mset s.msix.table (2 * v + w) x1 } } v

/-- MSIX_VECTOR_UNMASK (R589). -/
def execMsixVectorUnmask (v : Fin 81) (s : State) : Host.Outcome State Fault Refusal :=
  let x := msixWord s v 1 &&& 0xFFFFFFFEFFFFFFFF#64
  barAct s (0x40008 + 16 * v.val) [x] (fun s => writeMsix s v 1 x)

/-! ### Words that start no mailbox command (R572 to R575, R594) -/

/-- A word of the identification and status page. -/
def writeId (s : State) (mgmt : Bool) (off : Nat) (v : W64) : State :=
  if off = 0x10 then { s with pwr := { s.pwr with trip := s.pwr.trip && !bit v 7 } }
  else if off = 0x18 then
    { s with err := { s.err with merUe := s.err.merUe && !bit v 2, intUe := s.err.intUe && !bit v 3 } }
  else if off = 0x20 then
    if mgmt then { s with err := { s.err with frzCtrl := v.truncate 5 } } else bump1 s ctrChipFrzHostRej
  else if off = 0x38 then
    if mgmt then s else { s with hp := { s.hp with logOver := s.hp.logOver && !bit v 4 } }
  else if off = 0x40 then (if mgmt then s else writeWin s v)
  else if off = 0x68 then (if mgmt then { s with scratchMgmt := v } else { s with scratchHost := v })
  else s

/-- A word of a mailbox channel other than `MB_CMD` (R487, R582). -/
def writeChan (s : State) (mgmt : Bool) (c o : Nat) (v : W64) : State :=
  let x := chanOf s c
  if x.master != (if mgmt then 2 else 1) then bumpIf s (!mgmt) ctrChipMbDeny
  else if o = 0x08 then setChan s c { x with ovr := x.ovr && !bit v 3 }
  else if 0x10 ≤ o && o < 0x50 then setChan s c { x with args := lset x.args ((o - 0x10) / 8) v }
  else s

/-- A word of a queue (R584). -/
def writeQueue (s : State) (q o : Nat) (v : W64) : State :=
  if o = 0x00 then ringDoorbell s q (v.truncate 32)
  else if o = 0x08 then writeQcack s q v
  else if o = 0x10 then setQ s q { qOf s q with dbErr := (qOf s q).dbErr && !bit v 4 }
  else s

/-- A word at an offset of the register file that starts no mailbox command; what R575 does not permit is discarded. -/
def regWrite (s : State) (mgmt : Bool) (off : Nat) (v : W64) : State :=
  if off < 0x1000 then writeId s mgmt off v
  else if 0x10000 ≤ off && off < 0x11000 then writeChan s mgmt ((off - 0x10000) / 0x100) (off % 0x100) v
  else if mgmt then s
  else if 0x20000 ≤ off && off < 0x21000 then writeQueue s ((off - 0x20000) / 0x40) (off % 0x40) v
  else if 0x30000 ≤ off && off < 0x32000 then semSet s ((off - 0x30000) / 8) (v.truncate 32) [0] false
  else if 0x32000 ≤ off && off < 0x34000 then semChange s ((off - 0x32000) / 8) true (v.truncate 32)
  else if 0x40000 ≤ off && off < 0x40510 then writeMsix s ((off - 0x40000) / 16) (off / 8 % 2) v
  else s

end Sys2Proof.Machine
end

