-- ==== Sys2Proof/Machine/Migrate.lean ====
section
/-! DEFINITION. The replacement engines' installs and migrations, grace epochs, measurement windows, the Almanac scan, the
pool audit and the scrub (chapter 8, and R237 to R239 of chapter 7). -/

namespace Sys2Proof.Machine

/-! ### Installs and migration operations (R253, R267, R268, R289) -/

/-- INSTALL (R253, R268): the oldest COPY for the row, as part of the commit phase of the SCATTER that brought it. -/
def installNext (s : State) (d row : Nat) : State :=
  match takeFirst (fun c => c.1 == d && c.2.1 == row) s.alm.copies with
  | none => s
  | some (c, rest) =>
    let s1 := installCopy { s with alm := { s.alm with copies := rest } } d row c.2.2 true
    let s2 := updScat s1 (fun j => j.desc == d && j.ubatch.isSome && !j.reported) (fun j => { j with toInstall := j.toInstall - 1 })
    scatGo s2

/-- INSTALL. -/
def execInstall (desc : Fin 4096) (row : Nat) (s : State) : Host.Outcome State Fault Refusal :=
  act s (fun s => if journalRoom s (ownerQuad desc (descOf s desc) row) true && live s then installNext s desc row else s)

/-- A migration operation runs: Meridian has derived it, the gate of R267 is open, its engine has a journal record, and
the block is not parked. The operation then leaves the list, and counts for its table. -/
def migOp (s : State) (d row : Nat) (op : MigOp) (ctr : Nat) (f : State → State) : State :=
  if !s.load.ops.contains op || !rowOpFree s d || !journalRoom s (ownerQuad d (descOf s d) row) false || !live s ||
      (descOf s d).dstate != 2 then s
  else bump1 (f { s with load := { s.load with ops := s.load.ops.erase op } }) ctr

/-- The class, or the next wider one that the table has a codebook for, down to WIDEST (R289). -/
def clampGo (s : State) (x : Desc) : Nat → Nat
  | 0 => 0
  | c + 1 => if c + 1 ≤ x.widest then x.widest else if (cbFor s x (c + 1)).isSome then c + 1 else clampGo s x c
def clampCls (s : State) (d cls : Nat) : Nat := clampGo s (descOf s d) (max cls (descOf s d).widest)

/-- PROMOTE (R268, R270). -/
def execPromote (desc : Fin 4096) (row : Nat) (cls : Fin 4) (s : State) : Host.Outcome State Fault Refusal :=
  act s (fun s => migOp s desc row (.promote desc row cls) (ctrTableMigPromote desc) (fun t =>
    match probe t desc row with
    | (u, some _) => u
    | (u, none) => (promoteRow u desc row cls false).1))

/-- DEMOTE (R268, R269); Meridian chooses the class. -/
def execDemote (desc : Fin 4096) (row : Nat) (cls : Fin 4) (s : State) : Host.Outcome State Fault Refusal :=
  act s (fun s => migOp s desc row (.demote desc row) (ctrTableMigDemote desc) (fun t =>
    demoteRow t desc row (clampCls t desc cls) false))

/-- The pseudo-channel is among the 48 least read of the last window (R289). -/
def coolPch (s : State) (p : Nat) : Bool :=
  let rd (i : Nat) := ctr s (ctrPchPchRd i + 1)
  decide (((List.range 384).filter (fun i => decide (rd i < rd p) || (rd i == rd p && decide (i < p)))).length < 48)

/-- The row's slot lies on the pseudo-channel. -/
def onPch (s : State) (d row pch : Nat) : Bool := (probe s d row).2.any (fun p => pchOf s (p.ent.slot * 32) == pch)

/-- MOVE (R268): to another pseudo-channel. -/
def execMove (desc : Fin 4096) (row : Nat) (pch : Fin 384) (s : State) : Host.Outcome State Fault Refusal :=
  act s (fun s => if !coolPch s pch || onPch s desc row pch then s
    else migOp s desc row (.move desc row) (ctrTableMigMove desc) (fun t => moveRow t desc row pch))

/-- RECLASS (R268). -/
def execReclass (desc : Fin 4096) (row : Nat) (cls : Fin 4) (s : State) : Host.Outcome State Fault Refusal :=
  act s (fun s => migOp s desc row (.reclass desc row cls) (ctrTableMigReclass desc) (fun t => reclassRow t desc row cls))

/-- PIN (R268). -/
def execPin (desc : Fin 4096) (row : Nat) (keep : Bool) (s : State) : Host.Outcome State Fault Refusal :=
  act s (fun s => migOp s desc row (.pin desc row keep) (ctrTableMigPin desc) (fun t => pinRow t desc row keep))

/-! ### Grace epochs (R257 to R260) -/

/-- Every participant has passed a quiescence point since the epoch began; the replacement engines, whose operations are
single steps, pass one in every ACLK. -/
def epochDue (s : State) : Bool := (List.range 48).all (fun t => s.alm.passed.contains t || tileQuiet s t)

/-- EPOCH_CLOSE (R259, R281): the slots retired one epoch back become free, with their journal records. -/
def closeEpoch (s : State) : State :=
  let e := s.alm.epoch.toNat
  let old := s.alm.retire.filter (fun r => r.epoch != e)
  let s1 := old.foldl (fun t r => freeSlot t r.addr) s
  let s2 := { s1 with alm := { s1.alm with
    retire := s1.alm.retire.filter (fun r => r.epoch == e),
    journal := s1.alm.journal.filter (fun j => !(j.stage == .retired && j.epoch != e)),
    epoch := s1.alm.epoch + 1, passed := [], draining := [] } }
  let s3 := bump1 (bump s2 ctrChipSlotReclaim old.length) ctrChipEpochClose
  s3.orr.retiring.foldl freeDesc s3

/-- EPOCH_CLOSE: the command stands for the ACLK in which EPOCH_MIN has also elapsed. -/
def execEpochClose (s : State) : Host.Outcome State Fault Refusal :=
  act s (fun s => if s.pwr.sl = 3 && epochDue s && live s then closeEpoch s else s)

/-- A row read of a draining tile that must be probed again: it waits for a slot's credits, or its address is retained
for a later read (R260). -/
def drainsEnt (e : RowEnt) : Bool := e.src.isSlot && e.probe != .pending && (e.queued || (e.conf && !e.dedup))

/-- The unit gives up the slot addresses it holds, and the rows' probes join the gather credit queue again (R260). A row
that is confirmed keeps its data in the lanes. -/
def drainAddrs (s : State) (u : Unit') : State :=
  match jobOf s u.jid with
  | none => s
  | some j =>
    let idx := (List.range u.ents.length).filter (fun i => (u.ents[i]?).any drainsEnt)
    let u1 : Unit' := { u with
      ents := u.ents.zipIdx.map (fun x => if idx.contains x.2 then
        { x.1 with src := if x.1.conf then x.1.src.drop else .none, probe := .pending, queued := true } else x.1) }
    let t := tileOf s u.tile
    let q := t.gcq.filter (fun r => !(r.2.1 == u.uid && idx.contains r.2.2.1))
    updUnit (setTile s u.tile { t with gcq := q ++ idx.map (fun i => (j.lc, u.uid, i, 2)) }) u.uid (fun _ => u1)

/-- QP_FORCED_DRAIN (R260): a participant that has not passed a quiescence point since the epoch began. An operation of a
replacement engine is one step here, so that such an engine is forced once and passes at once (log entry 121). -/
def forceDrain (s : State) (t : Nat) : State :=
  if s.alm.passed.contains t || s.alm.draining.contains t then s
  else if 48 ≤ t then
    { bump1 s (ctrQuadQpForced (t - 48)) with alm := { s.alm with passed := sins s.alm.passed t } }
  else if tileQuiet s t then s
  else
    let s1 := bump1 { s with alm := { s.alm with draining := sins s.alm.draining t } } (ctrTileQpForced t)
    notePass ((s1.orr.units.filter (fun u => u.tile == t && u.st == .running && !u.expand)).foldl drainAddrs s1) t

/-- QP_FORCED_DRAIN. -/
def execQpForcedDrain (part : Fin 52) (s : State) : Host.Outcome State Fault Refusal :=
  act s (fun s => if live s then forceDrain s part else s)

/-! ### Measurement windows (R283, R287, R289, R290) -/

/-- The key of a latched window value. -/
def isLatchedCtr (k : Nat) : Bool := k % 64 != 0 && isWindowCtr (k - 1)

/-- Every window counter is latched and restarts from zero. -/
def latchAll (m : FMap Nat) : FMap Nat :=
  (m.filter (fun e => !isLatchedCtr e.1)).map (fun e => if isWindowCtr e.1 then (e.1 + 1, e.2) else e)

/-- KEEP lines not touched in the window lose KEEP, and every TOUCHED bit clears (R342). -/
def unkeepAll (m : FMap CLine) : FMap CLine := mmap m (fun _ l => { l with keep := l.keep && l.touched, touched := false })

/-- A row's estimate in the latched sketch (R286). -/
def latchedEst (s : State) (d row : Nat) : Nat :=
  let x := descOf s d
  let h := rowHash d x row
  (List.range 4).foldl (fun e i =>
    min e (mget s.load.latched (ownerQuad d x row * 65536 + i * 16384 + h / 2 ^ (14 * i) % 16384) 0)) 65535

/-- `cls` of R289. -/
def estCls (s : State) (d est : Nat) : Nat :=
  let p := policyOf s d
  clampCls s d (if p.t16 ≤ est then 0 else if p.t8 ≤ est then 1 else if p.t4 ≤ est then 2 else 3)

/-- Inserts a candidate by falling estimate. -/
def candRank (c : Cand) : List Cand → List Cand
  | [] => [c]
  | x :: l => if x.est < c.est then c :: x :: l else x :: candRank c l

/-- Meridian may migrate rows of the descriptor (R288). -/
def migEn (s : State) (d : Nat) : Bool := (policyOf s d).en && (descOf s d).dstate == 2 && !(descOf s d).resident

/-- The latched candidates, hottest first, each with the row's entry. -/
def migCands (s : State) : List (Cand × Option APlace) :=
  (((List.range 4).flatMap (fun q => mget s.load.lcands q [])).filter (fun c => migEn s c.desc)).foldl
    (fun l c => candRank c l) [] |>.map (fun c => (c, (probe s c.desc c.row).2))

/-- A pseudo-channel was read so much more than the others that rows leave it (R289). -/
def hotPch (s : State) (p : Nat) : Bool :=
  let sum := (List.range 384).foldl (fun a i => a + ctr s (ctrPchPchRd i + 1)) 0
  decide (s.load.mig.chHot * sum < ctr s (ctrPchPchRd p + 1) * 384 * 16)

/-- The operations that follow from the latched values, in the order of R289, at most MIG_MAX. -/
def deriveOps (s : State) : List MigOp :=
  let scanned := (s.load.scanned.filter (fun x => migEn s x.1)).map (fun x => (x, (probe s x.1 x.2).2))
  let cs := migCands s
  let prom := cs.filterMap (fun c => c.2.map (fun p => (c.1, p.ent)))
  let cold := scanned.filter (fun x => x.2.isSome && decide (latchedEst s x.1.1 x.1.2 < (policyOf s x.1.1).cold))
  let pinned := (almEntries s (fun e => e.state == 1 && e.keep)).length
  let pins := (prom.filter (fun c => decide (s.load.mig.keepThresh ≤ c.1.est) && !c.2.keep)).take (s.load.mig.keepMax - pinned)
  let unpins := scanned.filter (fun x => x.2.any (fun p => p.ent.keep) &&
    decide (latchedEst s x.1.1 x.1.2 < s.load.mig.keepThresh))
  (cold.map (fun x => MigOp.demote x.1.1 x.1.2) ++
    (cs.filter (fun c => c.2.isNone)).map (fun c => MigOp.promote c.1.desc c.1.row (estCls s c.1.desc c.1.est)) ++
    (prom.filter (fun c => estCls s c.1.desc c.1.est != c.2.wclass)).map (fun c =>
      MigOp.reclass c.1.desc c.1.row (estCls s c.1.desc c.1.est)) ++
    (prom.filter (fun c => hotPch s (pchOf s (c.2.slot * 32)))).map (fun c => MigOp.move c.1.desc c.1.row) ++
    pins.map (fun c => MigOp.pin c.1.desc c.1.row true) ++
    unpins.map (fun x => MigOp.pin x.1.1 x.1.2 false)).take s.load.mig.migMax

/-- The largest of `n` latched counters: its unit and value, and the sum. R290 does not say which channel or port HASH_SKEW
names when several share the maximum: the model names the lowest-numbered (log entry 122). -/
def peak (s : State) (n : Nat) (key : Nat → Nat) : Nat × Nat × Nat :=
  (List.range n).foldl (fun (a : Nat × Nat × Nat) i =>
    let v := ctr s (key i + 1)
    if a.2.1 < v then (i, v, a.2.2 + v) else (a.1, a.2.1, a.2.2 + v)) (0, 0, 0)

/-- HASH_SKEW of one tier over the window that ends (R290): the new run, and the event that it raises. -/
def skewTier (s : State) (tier n : Nat) (key : Nat → Nat) (run : Nat × Nat × Bool) : State × (Nat × Nat × Bool) :=
  let (u, m, sum) := peak s n key
  let g := s.load.mig
  if decide (sum < g.skewMin) || sum = 0 then (s, run)
  else
    let over' := decide (g.skewRatio * sum < 16 * n * m)
    let r : Nat × Nat × Bool := if over' then (run.1 + 1, 0, run.2.2) else (0, run.2.1 + 1, run.2.2)
    let ea := BitVec.ofNat 64 u
    let eb := BitVec.ofNat 64 (16 * n * m / sum)
    if over' && !r.2.2 && decide (g.skewWin ≤ r.1) then
      (raiseEvent (bump1 s ctrChipHashSkew) 0x11 tier ea eb, (r.1, r.2.1, true))
    else if !over' && r.2.2 && decide (g.skewWin ≤ r.2.1) then (raiseEvent s 0x12 tier ea eb, (r.1, r.2.1, false))
    else (s, r)

/-- MW_ROLLOVER (R283): everything that counts per window is latched or starts again. -/
def rollover (s : State) : State :=
  let s1 := { s with
    ctrs := latchAll s.ctrs,
    rc := { s.rc with lines := unkeepAll s.rc.lines, ceWin := [] },
    mc := { s.mc with stk := mmap s.mc.stk (fun _ k => { k with tracker := [] }) },
    ly := mmap s.ly (fun _ l => { l with replays := 0 }),
    tr := { s.tr with links := mmap s.tr.links (fun _ l => { l with replays := 0 }) },
    load := { s.load with mwNum := s.load.mwNum + 1, mwAclk := 0, latched := s.load.sketch, sketch := [],
                          lcands := s.load.cands, cands := [] } }
  let (s2, rf) := skewTier s1 0 384 ctrPchPchRd s1.load.runF
  let (s3, rs) := skewTier s2 1 8 ctrCompCmpRd s2.load.runS
  let s4 := { s3 with load := { s3.load with runF := rf, runS := rs } }
  let ops := if merUp s4 && s4.pwr.sl = 3 then deriveOps s4 else []
  { s4 with load := { s4.load with ops := ops, scanned := [] } }

/-- MW_ROLLOVER. -/
def execMwRollover (s : State) : Host.Outcome State Fault Refusal :=
  act s (fun s => if s.pwr.park == .parked || s.pwr.park == .waking then s else rollover s)

/-! ### The Almanac scan and the pool audit (R289, R292) -/

/-- ALMANAC_SCAN (R289): the promoted rows of one descriptor are met. -/
def execAlmanacScan (desc : Fin 4096) (s : State) : Host.Outcome State Fault Refusal :=
  act s (fun s =>
    if !merUp s || !live s || s.pwr.sl != 3 then s
    else
      let met := (almOf s desc).map (fun p => (p.ent.desc, p.ent.row))
      { s with load := { s.load with
        scanned := s.load.scanned.filter (fun x => x.1 != desc.val) ++ met } })

/-- POOL_AUDIT (R292): slots that no VALID entry names, and that await no reclamation, are free again. -/
def poolAudit (s : State) : State :=
  let named := (almEntries s (fun e => e.state == 1)).map (fun p => p.ent.slot * 32)
  { s with alm := { s.alm with
    used := s.alm.used.filter (fun u => named.contains u.1 || s.alm.retire.any (fun r => r.addr == u.1)) } }

/-- POOL_AUDIT. -/
def execPoolAudit (s : State) : Host.Outcome State Fault Refusal :=
  act s (fun s => if !merUp s || !live s || s.pwr.sl != 3 then s else poolAudit s)

/-! ### Skew between ranks, and the scrub (R237 to R239, R292) -/

/-- LEVEL_STEP for a row on another rank, as a control message (log entry 30). -/
def mtLevel : Nat := 10

/-- Differing STEP values of one row: STEP_SKEW, and LEVEL_STEP to each lagging rank unless the policy is MANUAL
(R239). -/
def levelRanks (s : State) (d row : Nat) (steps : List RankStep) : State :=
  let x := descOf s d
  let hi := steps.foldl (fun m r => max m r.step) 0
  let lo := steps.foldl (fun m r => min m r.step) hi
  if lo = hi then s
  else
    let s1 := raiseEvent (bump1 s (ctrTableStepSkew d)) 0x10 d (BitVec.ofNat 64 row) (BitVec.ofNat 64 (lo + hi * 2 ^ 24))
    if s1.tabs.manual.contains d then s1
    else steps.foldl (fun t r =>
      if r.step = hi then t
      else if r.rank = x.rank then (sendLevel t d row hi).1
      else match (otherRanks t x).find? (fun y => y.1 == r.rank) with
        | some y => sendMsg t clsCtl mtLevel y.2 d (row + hi * 2 ^ 40) []
        | none => t) s1

/-- The STEP of this rank's home header, none when it cannot be read. -/
def ownStep (s : State) (d row : Nat) : State × List RankStep :=
  let x := descOf s d
  let (s1, h, bad) := readHdr s d row
  (s1, if bad then [] else [{ rank := x.rank, step := slStep h }])

/-- Compares a row's home headers over the ranks. -/
def compareRow (s : State) (d row : Nat) (others : List RankStep) : State :=
  let x := descOf s d
  if decide (x.rows ≤ row) then s
  else
    let (s1, own) := ownStep s d row
    levelRanks s1 d row (own ++ others.filter (fun r => r.rank != x.rank && decide (r.rank < x.ranks)))

/-- The logs that fit the skew area, at 8 bytes a pair (log entry 34): their rows, and whether one was dropped. -/
def fitLogs (room : Nat) : List (List RowStep) → List Nat × Nat
  | [] => ([], 0)
  | l :: ls =>
    if 8 * l.length ≤ room then
      let (rows, n) := fitLogs (room - 8 * l.length) ls
      (l.map (fun x => x.row) ++ rows, n)
    else
      let (rows, n) := fitLogs room ls
      (rows, n + 1)

/-- SKEW_LOG_HANDOFF (R237): this rank's log and the other ranks', and the home headers that Meridian reads on the other
ranks. -/
def skewHandoff (s : State) (d : Nat) (logs : List (List RowStep)) (heads : List (Nat × List RankStep)) : State :=
  let (rows, lost) := fitLogs (layoutOf s).skew (mget s.mer.skewDue d [] ++ logs)
  let s1 := bump { s with mer := { s.mer with
    skewDue := mdel s.mer.skewDue d,
    earlyScrub := if 0 < lost then sins s.mer.earlyScrub d else s.mer.earlyScrub } } ctrChipSkewLogFull lost
  (rows.foldl sins []).foldl (fun t r =>
    compareRow t d r ((heads.filter (fun h => h.1 == r)).flatMap (fun h => h.2))) s1

/-- SKEW_LOG_HANDOFF. -/
def execSkewLogHandoff (desc : Fin 4096) (logs : List (List RowStep)) (heads : List (Nat × List RankStep)) (s : State) :
    Host.Outcome State Fault Refusal :=
  act s (fun s => if (mget? s.mer.skewDue desc).isSome && merUp s && live s then skewHandoff s desc logs heads else s)

/-- A row that its record calls promoted, whose entry lies in a poisoned bucket, is demoted (R292). -/
def scrubLost (s : State) (d row : Nat) : State :=
  match probe s d row with
  | (s1, some _) => s1
  | (s1, none) =>
    if !(List.range 4).any (fun i => bucketBad s1 (almBucket s1 d row i)) then s1
    else
      let (s2, r, p) := readRec s1 d row 1
      let (s3, h, bad) := readHdr s2 d row
      if p.any id || !recProm r then s3
      else sendServe s3 d row false (if bad then recPclass r else slClass h) (recPversion r)

/-- SCRUB_ROW (R238): Meridian's scrub, or the early pass that R237 asks for, reaches a row; the last row of a table ends
the early pass. -/
def scrubRow (s : State) (d row : Nat) (others : List RankStep) : State :=
  let x := descOf s d
  if x.dstate = 0 || decide (x.rows ≤ row) || !portUp s (homeComp d x row) ||
      (s.mer.scrubRate == 0 && !s.mer.earlyScrub.contains d) then s
  else
    let s1 := if s.pwr.sl = 3 && !x.resident then scrubLost s d row else s
    let s2 := if 0 < x.log2s then compareRow s1 d row others else s1
    if row + 1 = x.rows then { s2 with mer := { s2.mer with earlyScrub := sdel s2.mer.earlyScrub d } } else s2

/-- SCRUB_ROW. -/
def execScrubRow (desc : Fin 4096) (row : Nat) (others : List RankStep) (s : State) : Host.Outcome State Fault Refusal :=
  act s (fun s => if merUp s && live s then scrubRow s desc row others else s)

/-! ### SET_MIG_POLICY (R288, R512) -/

/-- The policy of a record. -/
def migOfBytes (l : List Byte) : MigPolicy :=
  let h (i : Nat) := numAt l (8 + 2 * i) 2
  { en := numAt l 0 1 % 2 == 1, almFill := numAt l 1 1, chHot := numAt l 2 1, skewRatio := numAt l 3 1, mwLen := numAt l 4 4,
    hot := h 0, cold := h 1, t16 := h 2, t8 := h 3, t4 := h 4, keepThresh := h 5, keepMax := h 6, skewWin := h 7,
    epochMin := h 8, qpGrace := h 9, migMax := numAt l 28 3, skewMin := numAt l 32 4 }

/-- The orders and minima of R288. -/
def migOk (p : MigPolicy) : Bool :=
  decide (64 ≤ p.mwLen) && decide (p.cold < p.hot) && decide (p.t8 ≤ p.t16) && decide (p.t4 ≤ p.t8) &&
    decide (p.epochMin ≤ p.qpGrace)

/-- Bytes of a record that are not listed in R512 are zero. -/
def migZeros (l : List Byte) : Bool := decide (numAt l 0 1 < 2) && numAt l 31 1 == 0 && (l.drop 36).all (fun b => b == 0)

def rowSetMigPolicy : MbRow :=
  { opc := 0x70, cls := .F, group := 7, lo := 0, hi := 3, used := [mask 0 13, mask 0 52], mgmtOnly := false }

/-- SET_MIG_POLICY (R288, R510). A descriptor's record gives six fields; the chip record gives its others. -/
def bodySetMigPolicy (s : State) (c : MbCtx) : MbOut :=
  let d := c.f 0 0 13
  if decide (4096 ≤ d) && d != 0x1FFF then .done s rcInvalid [] else
  withBuf s c (c.p 1) 48 (fun t l =>
    let p := migOfBytes l
    let g := t.load.mig
    let q := if d = 0x1FFF then p else { g with en := p.en, hot := p.hot, cold := p.cold, t16 := p.t16, t8 := p.t8, t4 := p.t4 }
    if !migZeros l || !migOk q then .done t rcInvalid []
    else if d = 0x1FFF then .done { t with load := { t.load with mig := p } } rcOk []
    else .done { t with load := { t.load with migD := mset t.load.migD d q } } rcOk [])

/-- SET_MIG_POLICY. -/
def execSetMigPolicy (m : MbWrite) (s : State) : Host.Outcome State Fault Refusal :=
  mbox rowSetMigPolicy bodySetMigPolicy m s

end Sys2Proof.Machine
end

