-- ==== Sys2Proof/Machine/Translation.lean ====
section
/-! DEFINITION. Range entries (R356 to R365): SET_RANGE, INVALIDATE_RANGE and the translation caches. -/

namespace Sys2Proof.Machine

/-! ### SET_RANGE (R356 to R361) -/

/-- The entry of the argument words W0 to W3. -/
def rangeOfArgs (c : MbCtx) : Range :=
  { start := c.f 1 0 36, length := c.f 2 0 36, pbase := c.f 3 0 36, p := bit (c.a 4) 0, pin := bit (c.a 4) 1,
    rd := bit (c.a 4) 2, wr := bit (c.a 4) 3, at' := bit (c.a 4) 4, smode := bit (c.a 4) 5,
    hint := BitVec.ofNat 2 (c.f 4 6 2), host := bit (c.a 4) 8, inval := false }

/-- A reserved field is non-zero, `TGT` is reserved, or the length is 0. -/
def rangeReserved (c : MbCtx) : Bool :=
  c.f 1 36 28 != 0 || c.f 2 36 28 != 0 || c.f 3 36 28 != 0 || c.f 4 9 55 != 0 || c.f 2 0 36 == 0

/-- The physical extent of a range. -/
def rangePhys (r : Range) : Nat × Nat := (r.pbase * 65536, r.length * 65536)

/-- The physical extent lies wholly within tier F, tier S or the remote windows. -/
def rangeInSpace (r : Range) : Bool :=
  let (a, n) := rangePhys r
  inTierF a n || inTierS a n || inRemote a n

/-- The spreading mode fits every stripe that the extent covers (R302). -/
def modeFits (s : State) (r : Range) : Bool :=
  let (a, n) := rangePhys r
  !decide (a < tierFEnd) || (List.range 512).all (fun i =>
    !overlap (i * 0x30000000) 0x30000000 a n || ((stripeOf s i).mode == 2) == r.smode)

/-- The first case of R358 that holds for the entry `e`. -/
def rangeRefuse (s : State) (c : MbCtx) (e : Nat) (r : Range) : Option Nat :=
  let (a, n) := rangePhys r
  if s.xlt.ranges.any (fun x => x.1 != e && overlap (rangeLo r) (r.length * 65536) (rangeLo x.2) (x.2.length * 65536)) then
    some rcInUse
  else if decide (2 ^ 36 < r.start + r.length) then some rcInvalid
  else if !r.host && !rangeInSpace r then some rcInvalid
  else if r.host && decide (2 ^ 52 < a + n) then some rcInvalid
  else if !r.host && !modeFits s r then some rcInvalid
  else if r.smode && (r.host || !decide (a < tierFEnd)) then some rcInvalid
  else if !r.host && protectedArea s a n then some rcInUse
  else if rangeReserved c then some rcInvalid
  else none

/-- The change in place of R361: fixed fields as they are, no bit withdrawn. -/
def rangeMayChange (old new : Range) : Bool :=
  old.start == new.start && old.length == new.length && old.pbase == new.pbase && old.smode == new.smode &&
    old.host == new.host && (!old.p || new.p) && (!old.pin || new.pin) && (!old.rd || new.rd) && (!old.wr || new.wr) &&
    (!old.at' || new.at') && !old.inval

/-- Writes a range entry. -/
def setRangeEnt (s : State) (e : Nat) (r : Range) : State :=
  { s with xlt := { s.xlt with ranges := mset s.xlt.ranges e r } }

def rowSetRange : MbRow :=
  { opc := 0x30, cls := .F, group := 3, lo := 0, hi := 3, used := [mask 0 12, mask 0 64, mask 0 64, mask 0 64, mask 0 64],
    mgmtOnly := false }

/-- SET_RANGE (R358, R361, R536). -/
def bodySetRange (s : State) (c : MbCtx) : MbOut :=
  let e := c.f 0 0 12
  let r := rangeOfArgs c
  if s.pwr.sl == 0 && s.mer.layout.isNone then .done s rcBadState []
  else match mget? s.xlt.ranges e with
    | some old =>
      if old.inval then .done s rcBadState []
      else if rangeReserved c then .done s rcInvalid []
      else if rangeMayChange old r then .done (setRangeEnt s e r) rcOk [] else .done s rcBadState []
    | none =>
      if lExtent s (rangeLo r) (rangeLo r + r.length * 65536) then .done s rcInUse [] else
      match rangeRefuse s c e r with
      | some rc => .done s rc []
      | none => .done (setRangeEnt s e r) rcOk []

/-- SET_RANGE. -/
def execSetRange (m : MbWrite) (s : State) : Host.Outcome State Fault Refusal := mbox rowSetRange bodySetRange m s

/-! ### INVALIDATE_RANGE (R363, R364) -/

/-- Valid entries that overlap a virtual extent. -/
def rangesIn (s : State) (lo n : Nat) : List Nat :=
  (s.xlt.ranges.filter (fun x => !x.2.inval && overlap lo n (rangeLo x.2) (x.2.length * 65536))).map (fun x => x.1)

/-- Step 1: the entries are INVALIDATING, XGEN advances, and every requester drops its copies. -/
def invalMark (s : State) (es : List Nat) : State :=
  { s with xlt := {
      ranges := s.xlt.ranges.map (fun x => if es.contains x.1 then (x.1, { x.2 with inval := true }) else x),
      xgen := s.xlt.xgen + 1,
      caches := s.xlt.caches.map (fun x => (x.1, x.2.filter (fun e => !es.contains e))) } }

/-- Some of the entries were pinned. -/
def anyPinned (s : State) (es : List Nat) : Bool := s.xlt.ranges.any (fun x => es.contains x.1 && x.2.pin)

def rowInvalidateRange : MbRow :=
  { opc := 0x31, cls := .L, group := 3, lo := 0, hi := 3, used := [mask 0 36, mask 0 36], mgmtOnly := false }

/-- INVALIDATE_RANGE (R364): every access of a requester is accepted within its own step, so step 2 ends in this one; how
many ACLK its acknowledgements took is free (R365; log entry 125). -/
def bodyInvalidateRange (s : State) (c : MbCtx) : MbOut :=
  let lo := c.f 0 0 36 * 65536
  let n := c.f 1 0 36 * 65536
  if lExtent s lo (lo + n) then .done s rcInUse []
  else
    let es := rangesIn s lo n
    if es.isEmpty then .done s rcOk [(0, 0)]
    else
      let (s0, w) := freeWord (invalMark s es)
      let s1 := bump s0 ctrChipXinvWait w.toNat
      if anyPinned s es && stampHolds s1 s1.xlt.xgen then .wait s1 (.invalidate c.ch es s1.xlt.xgen lo (lo + n))
      else .done { s1 with xlt := { s1.xlt with ranges := s1.xlt.ranges.filter (fun x => !es.contains x.1) } } rcOk
        [(0, BitVec.ofNat 64 es.length)]

/-- INVALIDATE_RANGE. -/
def execInvalidateRange (m : MbWrite) (s : State) : Host.Outcome State Fault Refusal :=
  mbox rowInvalidateRange bodyInvalidateRange m s

end Sys2Proof.Machine
end

