-- ==== Sys2Proof/Machine/Streams.lean ====
section
/-! DEFINITION. Stream engines (chapter 11): faults, stride detectors, block lists, links, and the end of a stream. -/

namespace Sys2Proof.Machine

/-! ### Faults (R382 to R386) -/

/-- The 2 MiB region of a virtual address. -/
def faultRegion (v : Nat) : Nat := v / 0x200000

/-- Fault entries that BE requests hold. -/
def beFaults (s : State) : Nat := (s.str.faults.filter (fun f => !f.lc)).length

/-- An entry is free for a class (R384). -/
def faultRoom (s : State) (lc : Bool) : Bool :=
  decide (s.str.faults.length < 64) && (lc || decide (beFaults s < 56))

/-- `STREAM` and `QUEUE` of a request (R385). -/
def reqIds (s : State) : FReq → Nat × Nat
  | .stream n => (n, (strmOf s n).d.queue)
  | .cp _ => (0xFF, 0)

/-- The queue's fault mode is SWITCH (R383). -/
def qSwitch (s : State) (q : Nat) : Bool := ((qOf s q).conf.map (fun c => c.switch)).getD false

/-- A stream that waits on a fault takes the state of its queue's mode; under SWITCH the queue's task is switched out
(R383). -/
def faultState (s : State) : FReq → State
  | .cp _ => s
  | .stream n =>
    let x := strmOf s n
    if qSwitch s x.d.queue then
      let s1 := setStrm s n { x with st := .faultSwitched }
      let q := qOf s1 x.d.queue
      if q.st == .stopped then s1 else queueOut (setQ s1 x.d.queue { q with st := .switched }) x.d.queue
    else qRefresh (setStrm s n { x with st := .faultParked }) x.d.queue

/-- A fault joins an entry of its region (R386). -/
def faultJoin (s : State) (fid : Nat) (right engine : Nat) (r : FReq) : State :=
  faultState (bump1 { s with str := { s.str with faults := s.str.faults.map (fun f => if f.fid = fid then
    { f with acc := f.acc ||| BitVec.ofNat 3 (2 ^ right), waiters := sins f.waiters engine, nwait := f.nwait + 1,
             reqs := f.reqs ++ [r] } else f) } } ctrChipFaultCoalesced) r

/-- A fault takes a new entry and raises FAULT (R384, R385). -/
def faultAlloc (s : State) (va right : Nat) (lc : Bool) (engine : Nat) (r : FReq) : State :=
  let fid := (s.str.fid + 1) % 65536
  let (st, q) := reqIds s r
  let f : FaultEnt := {
    fid := fid, addr := va, acc := BitVec.ofNat 3 (2 ^ right), lc := lc, waiters := [engine], stream := st, queue := q,
    nwait := 1, reqs := [r] }
  let s1 := { s with str := { s.str with faults := s.str.faults ++ [f], fid := fid } }
  raiseEvent (faultState (bump1 s1 ctrChipFaultNew) r) 0x0001 0 (BitVec.ofNat 64 fid) 0

/-- The entry that a fault may coalesce into. -/
def faultFor (s : State) (va : Nat) : Option FaultEnt :=
  s.str.faults.find? (fun f => faultRegion f.addr == faultRegion va)

/-- A stalled fault obtains an entry: LC before BE, each in stall order (R384). -/
def faultGrant (s : State) : State :=
  let l := s.str.stalled
  let may (x : Stalled) : Bool := (faultFor s x.addr).isSome || faultRoom s x.lc
  match (l.find? (fun x => x.lc && may x)).orElse (fun _ => l.find? (fun x => !x.lc && may x)) with
  | none => s
  | some x =>
    let s1 := { s with str := { s.str with stalled := l.filter (fun y => y != x) } }
    match faultFor s1 x.addr with
    | some f => faultJoin s1 f.fid x.right x.engine x.req
    | none => faultAlloc s1 x.addr x.right x.lc x.engine x.req

/-- Every stalled fault for which an entry is free obtains it. -/
def faultGrants (s : State) : State := s.str.stalled.foldl (fun t _ => faultGrant t) s

/-- A request without translation: it joins an entry, takes one behind the faults that have stalled, or stalls its engine
(R382, R384, R386). -/
def takeFault (s : State) (va right : Nat) (lc : Bool) (engine : Nat) (r : FReq) : State :=
  let s0 := bumpIf { s with str := { s.str with retried := s.str.retried.filter (fun x => x != r) } }
    (s.str.retried.contains r) ctrChipFaultRefault
  let s1 := faultGrants s0
  match faultFor s1 va with
  | some f => faultJoin s1 f.fid right engine r
  | none =>
    if faultRoom s1 lc then faultAlloc s1 va right lc engine r
    else bump1 { s1 with str := { s1.str with stalled := s1.str.stalled ++
      [{ addr := va, right := right, lc := lc, engine := engine, req := r }] } } ctrChipFqOverflow

/-- FAULT_ENTRY_GRANT. -/
def execFaultEntryGrant (s : State) : Host.Outcome State Fault Refusal := act s faultGrant

/-! ### Prefetching (R344, R345) -/

/-- Lines of a home slice with an open miss entry exceed 192. -/
def slicePressed (s : State) (x : Nat) : Bool := decide (192 < openMisses s (homeSlice s x))

/-- A tile has prefetched a line that no stream has read yet (R345). -/
def notePrefetch (s : State) (tile x : Nat) : State :=
  { s with str := { s.str with prefetched := mset s.str.prefetched tile (sins (mget s.str.prefetched tile []) x) } }

/-- A stream reads a line: every tile that prefetched it counts it as used, once (R345; log entry 123). -/
def usePrefetch (s : State) (x : Nat) : State :=
  (s.str.prefetched.filter (fun e => e.2.contains x)).foldl (fun t e =>
    bump1 { t with str := { t.str with prefetched := mset t.str.prefetched e.1 (sdel e.2 x) } } (ctrTilePfUsed e.1)) s

/-- A prefetch of one line through a range entry with a hint, or its refusal (R345, R389). -/
def prefetchLine (s : State) (tile : Nat) (r : Range) (vline : Nat) (hint : BitVec 2) : State :=
  let x := rangePa r (vline * 64) / 64
  if vline * 64 < rangeLo r || rangeHi r ≤ vline * 64 || !r.rd || r.host || !inTiers (x * 64) 64 || slicePressed s x then
    bump1 s (ctrTilePfDrop tile)
  else notePrefetch (bump1 (readLine s x hint).1 (ctrTilePfIssued tile)) tile x

/-- Prefetches ahead of a trained detector: up to 8 lines outstanding. -/
def aheadGo (tile : Nat) (r : Range) (cur : Nat) (stride : Int) : Nat → Nat → State → List Nat → State × List Nat
  | 0, _, s, l => (s, l)
  | k + 1, i, s, l =>
    let v : Int := (cur : Int) + stride * i
    if v < 0 || 8 ≤ l.length then (s, l)
    else
      let n := v.toNat
      if l.contains n then aheadGo tile r cur stride k (i + 1) s l
      else
        let s1 := prefetchLine s tile r n 1
        let ok := ctr s1 (ctrTilePfIssued tile) != ctr s (ctrTilePfIssued tile)
        aheadGo tile r cur stride k (i + 1) s1 (if ok then l ++ [n] else l)

/-- The detector of a stream after a read of a line (R344). -/
def detectorStep (d : Detector) (line : Nat) : Detector :=
  let st : Int := (line : Int) - d.last
  let same := st == d.stride && st != 0 && decide (st.natAbs ≤ 256)
  { d with last := line, stride := st, trained := same, ahead := if same then d.ahead else [] }

/-- A stream's engine reads a line through a range entry: PF_USED, training, prefetches (R344, R345). -/
def strideSee (s : State) (n tile e : Nat) (line : Nat) : State :=
  match mget? s.xlt.ranges e with
  | none => s
  | some r =>
    let s1 := usePrefetch s (rangePa r (line * 64) / 64)
    let ds := mget s.str.detectors tile []
    let put (t : State) (d : Detector) : State :=
      { t with str := { t.str with
          detectors := mset t.str.detectors tile ((d :: ds.filter (fun x => x.stream != n)).take 16) } }
    match ds.find? (fun d => d.stream == n) with
    | none => put s1 { stream := n, last := line, stride := 0, trained := false, seen := true, ahead := [] }
    | some d =>
      let d1 := detectorStep { d with ahead := sdel d.ahead line } line
      if d1.trained then
        let (s2, l) := aheadGo tile r line d1.stride 8 1 s1 d1.ahead
        put s2 { d1 with ahead := l }
      else put s1 d1

/-- Every line that the tier pieces of a read touch. -/
def strideAll (s : State) (n tile : Nat) (ps : List Piece) : State :=
  ps.foldl (fun t p =>
    if p.host || !inTiers p.pa p.len then t
    else (List.range ((p.va % 64 + p.len + 63) / 64)).foldl (fun u i => strideSee u n tile p.ent (p.va / 64 + i)) t) s

/-! ### The end of a stream (R378, R381, R387) -/

/-- The stream's command has made its effects, or a failure ends it; the record follows (R378, R459). -/
def strmEnd (s : State) (n : Nat) (fail : Option (BitVec 8)) : State :=
  let x := strmOf s n
  match x.bound with
  | none => s
  | some cid =>
    let s1 := setStrm s n { x with st := .running }
    updCmd s1 cid (fun c => if c.phase = .done then c else { c with
      phase := .done, fail := c.fail.orElse (fun _ => fail), ended := true, cnt1 := x.poisoned, cnt2 := x.xfer,
      poison := decide (0 < x.poisoned) || x.discarded })

/-- Takes a stream's requests out of the fault queue; an entry without a request is closed. -/
def faultForget (s : State) (n : Nat) : State :=
  { s with str := { s.str with
      faults := (s.str.faults.map (fun f => { f with reqs := f.reqs.filter (fun r => r != .stream n) })).filter
        (fun f => !f.reqs.isEmpty),
      stalled := s.str.stalled.filter (fun x => x.req != .stream n),
      retried := s.str.retried.filter (fun r => r != .stream n) } }

/-- A queue that was switched out for a stream runs again once none of its streams is switched out (R383). -/
def switchBack (s : State) (q : Nat) : State :=
  let x := qOf s q
  if x.st == .switched && !s.str.streams.any (fun e => e.2.d.queue == q && e.2.st == .faultSwitched) then
    qRefresh (setQ s q { x with st := .running, pendingDb := false }) q
  else qRefresh s q

/-- Ends a stream of kind 0 to 2 wherever it stands. -/
def strmAbort (s : State) (n : Nat) (st : BitVec 8) : State :=
  let q := (strmOf s n).d.queue
  switchBack (strmEnd (faultForget s n) n (some st)) q

/-! ### Moving data (R368, R372, R373, R377, R379) -/

/-- How a step of an engine goes on. -/
inductive StrmOut where
  | go (s : State)
  | stop (s : State)

/-- The stream's engine is held by a fault that has no entry (R384). -/
def engineStalled (s : State) (tile : Nat) : Bool := s.str.stalled.any (fun x => x.engine == tile)

/-- The stream may take a step. -/
def strmLive (s : State) (n : Nat) : Bool :=
  let x := strmOf s n
  (x.st == .running || x.st == .waiting) && decide (x.d.kind < 3) && s.pwr.park == .running && s.pwr.restart != .running &&
    !engineStalled s (strmTile n x.d) &&
    (match x.bound.bind (cmdOf s) with
     | some c => c.phase == .running
     | none => false)

/-- The command of a stream. -/
def strmCid (s : State) (n : Nat) : Nat := (strmOf s n).bound.getD 0

/-- Every write of the stream so far is visible (R373). -/
def strmVisible (s : State) (n : Nat) : Bool :=
  let cid := strmCid s n
  !remoteOpen s cid && (hostWritesOf s cid).isEmpty && !hostLineOpen s cid &&
    !s.hp.lines.any (fun e => e.2.st == .modified && e.2.cids.contains cid)

/-- Asks for the visibility of the stream's host writes: evictions and a flushing read (R373, R411). -/
def strmFlush (s : State) (n : Nat) : State := flushFor (evictFor s (strmCid s n)) (strmCid s n)

/-- Translates the first part of a stream's access, with the stream's hint; a RETRY of the stream is then over (R341,
R359, R362, R387). -/
def strmPart (s : State) (n right v len : Nat) : State × Except ExtFail Piece :=
  let x := strmOf s n
  let (s1, r) := xltPart s (strmTile n x.d) right v len
  match r with
  | .error e => (s1, .error e)
  | .ok p =>
    ({ s1 with str := { s1.str with retried := s1.str.retried.filter (fun y => y != .stream n) } },
      .ok { p with hint := x.d.hint })

/-- What an extent that failed does to a stream: a fault, or its end (R378, R382). -/
def strmMiss (s : State) (n right : Nat) (e : ExtFail) : State :=
  let x := strmOf s n
  if e.missing then takeFault s e.va right (qLc s x.d.queue) (strmTile n x.d) (.stream n)
  else strmEnd s n (some 0x11)

/-- The stream's command uses host memory; without a host path the stream ends (R416). -/
def strmHost (s : State) (n : Nat) (p : Piece) : Option State :=
  if p.host then
    let s1 := updCmd s (strmCid s n) (fun c => { c with usesHost := true })
    if hostUp s1 then some s1 else none
  else some s

/-- Sectors of a read, each of which holds a credit (R379). -/
def pieceSectors (p : Piece) : Nat := (p.pa % 32 + p.len + 31) / 32

/-- Sector read credits of a tile's stream engine that its outstanding reads hold; there are 1,024 (R379). -/
def strmCredits (s : State) (tile : Nat) : Nat :=
  (s.str.streams.filter (fun e => strmTile e.1 e.2.d == tile)).foldl (fun a e =>
    a + ((e.2.pend.map pieceSectors).getD 0)) 0

/-- The read that the stream has outstanding, or the translation of its next (R364). -/
def strmAccess (s : State) (n v len : Nat) : State × Except ExtFail Piece :=
  match (strmOf s n).pend with
  | some p => (s, .ok p)
  | none => strmPart s n 0 v len

/-- Reads the first part of an extent for a stream; what the host port or Transit has accepted comes through the
translation it was accepted with (R359, R364). -/
def strmRead (s : State) (n v len : Nat) (data : Bool) (k : State → List (Byte × Bool) → StrmOut) : StrmOut :=
  let who := Who.cmd (strmCid s n)
  match strmAccess s n v len with
  | (s1, .error e) => .stop (strmMiss s1 n 0 e)
  | (s1, .ok p) =>
    let tile := strmTile n (strmOf s n).d
    let keep (t : State) (q : Option Piece) : State := setStrm t n { strmOf t n with pend := q }
    if (strmOf s n).pend.isNone && decide (1024 < strmCredits s tile + pieceSectors p) then .stop s
    else match strmHost s1 n p with
      | none => .stop (strmEnd s1 n (some 0x20))
      | some s2 =>
        match readPieces who s2 [p] with
        | .fail e => .stop (strmMiss s2 n 0 e)
        | .outside _ => .stop (askPiece (keep s2 (some p)) who p)
        | .ok s3 d => k (keep (dropGot (if data then strideAll s3 n tile [p] else s3) who) none) d

/-- Writes the first part of the held bytes of a stream to an extent, and says how many bytes that were. -/
def strmWrite (s : State) (n v : Nat) (d : List (Byte × Bool)) (k : State → Nat → StrmOut) : StrmOut :=
  let who := Who.cmd (strmCid s n)
  match strmPart s n 1 v d.length with
  | (s1, .error e) => .stop (strmMiss s1 n 1 e)
  | (s1, .ok p) =>
    match strmHost s1 n p, cutPieces s1 who [p] with
    | none, _ => .stop (strmEnd s1 n (some 0x20))
    | _, .error e => .stop (strmMiss s1 n 1 e)
    | some s2, .ok cs => k (writeCuts s2 who cs d) p.len

/-- The role of the block on the stream's link (R372). -/
def strmProduces (d : SDesc) : Bool := (d.kind == 0 && d.lrole == 2) || d.kind == 1
def strmConsumes (d : SDesc) : Bool := (d.kind == 0 && d.lrole == 1) || d.kind == 2

/-- The link permits the next line. -/
def strmMay (s : State) (x : Strm) : Bool :=
  (!strmProduces x.d || mayProduce s x) && (!strmConsumes x.d || mayConsume s x)

/-- The stream waits on its link (R374). -/
def strmWait (s : State) (n : Nat) : State := setStrm s n { strmOf s n with st := .waiting }

/-- A line of the stream is complete: counters, the consumer semaphore, the chip port (R373, R391, R476). -/
def strmLine (s : State) (n : Nat) : State :=
  let x := strmOf s n
  let closed := strmClosed s x
  let drop := closed && strmProduces x.d
  let s1 := setStrm s n { x with
    lines := x.lines + 1, xfer := x.xfer + b2n (!drop), poisoned := x.poisoned + b2n (x.lineBad && !drop), lineBad := false,
    discarded := x.discarded || drop, added := if x.d.kind = 1 then x.lines + 1 else x.added,
    skip := x.skip + b2n (drop && x.d.kind != 1),
    buf := if x.d.kind = 1 then [] else x.buf, staged := if x.d.kind = 2 then x.staged.drop 1 else x.staged }
  let s2 := if drop then bump1 s1 (ctrStreamLinkDiscard n) else lineMoved s1 n
  let s3 := if x.d.kind = 1 && !drop then
      semChange { s2 with str := { s2.str with
        cpLines := s2.str.cpLines ++ [(x.d.cpch, x.buf.map (fun b => b.1), x.buf.any (fun b => b.2))] } } x.d.semP true 1
    else s2
  if strmConsumes x.d then semChange s3 x.d.semC true 1 else s3

/-- Bytes of the entry under way have moved. -/
def strmAdvance (s : State) (n : Nat) (d : List (Byte × Bool)) : State :=
  let x := strmOf s n
  let m := d.length
  let s1 := setStrm s n { x with
    moved := x.moved + m, total := x.total + m, lineBad := x.lineBad || d.any (fun b => b.2),
    buf := if x.d.kind = 1 then x.buf ++ d else x.buf.drop m }
  if (x.total + m) % 64 = 0 then strmLine s1 n else s1

/-- Moves bytes that have been read to the destination of the entry. -/
def strmPut (s : State) (n : Nat) (e : BlEntry) (d : List (Byte × Bool)) : StrmOut :=
  let x := strmOf s n
  if x.d.kind = 1 || (strmClosed s x && strmProduces x.d) then .go (strmAdvance s n d)
  else
    strmWrite (setStrm s n { x with buf := if x.d.kind = 0 then d else [] }) n (e.dst + x.moved) d
      (fun t m => .go (strmAdvance t n (d.take m)))

/-- Zeros with the poison mark, which a CLOSED link delivers to its consumer (R381). -/
def closedData (m : Nat) : List (Byte × Bool) := List.replicate m (0, true)

/-- Moves the next bytes of the entry under way: to the end of the stream's line or of the entry (R372, R377). -/
def strmMove (s : State) (n : Nat) (e : BlEntry) : StrmOut :=
  let x := strmOf s n
  let m := min (e.len - x.moved) (64 - x.total % 64)
  let closed := strmClosed s x
  if !strmMay s x then .stop (strmWait s n)
  else
    let s1 := setStrm s n { x with st := .running }
    if x.d.kind = 2 then
      match x.staged with
      | [] => if closed then strmPut s1 n e (closedData m) else .stop (strmWait s n)
      | l :: _ =>
        strmPut s1 n e (if closed then closedData m else (bytesAt l.1 (x.total % 64) m).map (fun b => (b, l.2)))
    else if x.d.kind = 0 && !x.buf.isEmpty then strmPut s1 n e x.buf
    else if closed && x.d.kind = 0 && x.d.lrole = 1 then strmPut s1 n e (closedData m)
    else if closed && strmProduces x.d then strmPut s1 n e (List.replicate m (0, false))
    else strmRead s1 n (e.src + x.moved) m true (fun t d => strmPut t n e d)

/-- Bytes of a block-list entry (R368). -/
def blSize (d : SDesc) : Nat := if d.kind = 0 then 32 else 16

/-- A block-list entry of its bytes; none for a zero length, a reserved bit or a poisoned line (R368; log entry 37). -/
def blOf (d : SDesc) (l : List (Byte × Bool)) : Option BlEntry :=
  let b := l.map (fun x => x.1)
  let a0 := numAt b 0 8
  let a1 := numAt b 8 8
  let n := if d.kind = 0 then numAt b 16 8 else a1
  if l.any (fun x => x.2) || decide (2 ^ 52 ≤ a0) || n == 0 || decide (2 ^ 32 ≤ n) then none
  else if d.kind = 0 then
    if decide (2 ^ 52 ≤ a1) || numAt b 24 8 != 0 then none else some { src := a0, dst := a1, len := n }
  else some { src := a0, dst := a0, len := n }

/-- The engine reaches the next block-list entry, or the end of the list (R368, R378). An entry that lies in two range
entries is read in two parts. -/
def strmNext (s : State) (n : Nat) : StrmOut :=
  let x := strmOf s n
  if x.d.count ≤ x.entry then
    -- a final partial line counts as one line (R372)
    if x.total % 64 != 0 && decide (x.lines * 64 < x.total) then
      if strmMay s x then .go (strmLine s n) else .stop (strmWait s n)
    else .stop (strmEnd s n none)
  else
    let have' := x.blBuf.length
    strmRead s n (x.d.bl + x.entry * blSize x.d + have') (blSize x.d - have') false (fun t l =>
      let y := strmOf t n
      let b := x.blBuf ++ l
      if b.length < blSize x.d then .go (setStrm t n { y with blBuf := b })
      else match blOf x.d b with
        | none => .stop (strmEnd t n (some 0x40))
        | some e => .go (setStrm t n { y with blBuf := [], cur := some e, moved := 0 }))

/-- Counts visible lines of a producer into P, without those discarded; with 64 lines or an entry's end due, the engine
waits for their visibility (R373). None when there is nothing to wait for. -/
def strmCount (s : State) (n : Nat) : Option State :=
  let x := strmOf s n
  if !strmProduces x.d || x.lines ≤ x.added then none
  else if strmVisible s n then
    let s1 := setStrm s n { x with added := x.lines, skip := 0 }
    let k := x.lines - x.added - x.skip
    some (if k = 0 then s1 else semChange s1 x.d.semP true (BitVec.ofNat 32 k))
  else none

/-- One step of an engine on a stream. -/
def strmStep (s : State) (n : Nat) : StrmOut :=
  match strmCount s n with
  | some t => .go t
  | none =>
    let x := strmOf s n
    if strmProduces x.d && decide (x.added < x.lines) && (decide (64 ≤ x.lines - x.added) || x.cur.isNone) then
      .stop (strmFlush s n)
    else match x.cur with
      | none => strmNext s n
      | some e =>
        if e.len ≤ x.moved then
          .stop (setStrm s n { x with cur := none, moved := 0, entry := x.entry + 1 })
        else strmMove s n e

/-- Steps of an engine until one block-list entry is done or the stream stops; the count bounds them. -/
def strmGo (n : Nat) : Nat → State → State
  | 0, s => s
  | k + 1, s =>
    if !s.rc.need.isEmpty || !strmLive s n then s
    else match strmStep s n with
      | .go t => strmGo n k t
      | .stop t => t

/-- Bytes of the entry under way, which bound its steps. -/
def strmBound (s : State) (n : Nat) : Nat := 4 * (((strmOf s n).cur.map (fun e => e.len)).getD (2 ^ 32)) + 8

/-- The engine works on the stream up to the end of a block-list entry (R379). -/
def streamEntry (s : State) (n : Nat) : State := strmGo n (strmBound s n) s

/-- Every part of a read that lies outside the chip has come. -/
def pieceHere (s : State) (who : Who) (p : Piece) : Bool :=
  (cutPiece s who p).all (fun c =>
    (!c.host && inTiers c.pa c.len) || (gotFor s who c).isSome || (c.host && (hcGet s who c.pa c.len).isSome))

/-- The stream's engine could work on it now: it waits neither for its link nor for data (R379). -/
def strmRunnable (s : State) (n : Nat) : Bool :=
  let x := strmOf s n
  strmLive s n && (x.st == .running || strmMay s x) && (x.pend.map (pieceHere s (.cmd (strmCid s n)))).getD true

/-- Streams of one engine, in rising order, starting after the one it served last (log entry 127). -/
def turnOrder (s : State) (tile : Nat) : List Nat :=
  let ns := (s.str.streams.filter (fun e => strmTile e.1 e.2.d == tile)).map (fun e => e.1)
  let k := mget s.str.turn tile 255
  ns.filter (fun i => decide (k < i)) ++ ns.filter (fun i => decide (i ≤ k))

/-- STREAM_ENTRY (R379): a tile's engine runs its streams in turn, one block-list entry at a time. -/
def streamTurn (s : State) (n : Nat) : State :=
  let tile := strmTile n (strmOf s n).d
  if (turnOrder s tile).find? (strmRunnable s) = some n then
    streamEntry { s with str := { s.str with turn := mset s.str.turn tile n } } n
  else s

/-- STREAM_ENTRY. -/
def execStreamEntry (st : Fin 256) (s : State) : Host.Outcome State Fault Refusal := act s (fun s => streamTurn s st)

/-- TRANSLATION_FILL (R362): the answer to a miss fills the requester's cache; without an entry, the stream that asked
faults (R382), and without the right it ends (R378). -/
def execTranslationFill (r : Requester) (stream : Option (Fin 256)) (va : BitVec 52) (right : Fin 3) (s : State) :
    Host.Outcome State Fault Refusal :=
  act s (fun s =>
    let k := match r with
      | .tile t => t.val
      | .chipPort => 48
    match rangeAt s false va.toNat with
    | some (e, x) =>
      let t := (stream.map (fun n => streamEntry s n.val)).getD s
      -- the access that missed is the one the stream's engine stands at
      if !hasRight x right && stream.any (fun n => ((strmOf t n.val).bound.bind (cmdOf t)).any (fun c => c.fail == some 0x11)) then t
      else xltUse s k e
    | none =>
      match stream with
      | none => bump1 s (xltMissCtr k)
      | some n =>
        let t := streamEntry s n
        let st := (strmOf t n).st
        if st == .faultParked || st == .faultSwitched || (engineStalled t k && !engineStalled s k) then t else s)

/-- LINK_WAIT_RELEASE (R372): the partner's semaphore lets a waiting stream go on. -/
def linkRelease (s : State) (n : Nat) : State :=
  let x := strmOf s n
  if x.st != .waiting || s.pwr.park != .running || s.pwr.restart == .running then s
  else if x.d.kind < 3 then streamEntry s n
  else if x.d.kind = 3 then
    let s1 := pump s n
    match x.bound with
    | some cid => lkEnd s1 cid
    | none => s1
  else if mayConsume s x then setStrm s n { x with st := .running } else s

/-- LINK_WAIT_RELEASE. -/
def execLinkWaitRelease (st : Fin 256) (s : State) : Host.Outcome State Fault Refusal := act s (fun s => linkRelease s st)

end Sys2Proof.Machine
end

