-- ==== Sys2Proof/Machine/StreamCmds.lean ====
section
/-! DEFINITION. Streams and faults as commands see them (R366 to R391): arming, disarming, wait groups, the fault
commands, PREFETCH and ADVISE, and the chip port. -/

namespace Sys2Proof.Machine

/-! ### ARM_STREAM (R367, R369, R370, R375) -/

/-- The number and the descriptor in 64 bytes (R367). -/
def sdescOf (l : List Byte) : Nat × SDesc :=
  let w (i : Nat) : W64 := BitVec.ofNat 64 (numAt l (8 * i) 8)
  (fld (w 0) 0 8,
    { kind := fld (w 0) 8 3, queue := fld (w 0) 11 6, tile := fld (w 0) 17 6, hint := BitVec.ofNat 2 (fld (w 0) 23 2),
      wgroup := fld (w 0) 25 4, lrole := fld (w 0) 29 2, bl := fld (w 1) 0 52, count := fld (w 2) 0 32,
      credits := fld (w 2) 32 15, semP := fld (w 3) 0 10, semC := fld (w 3) 16 10, cpch := fld (w 3) 32 6,
      linkcap := fld (w 4) 0 32 })

/-- Reserved bits of the descriptor are zero. -/
def sdescZero (l : List Byte) : Bool :=
  let w (i : Nat) : W64 := BitVec.ofNat 64 (numAt l (8 * i) 8)
  fld (w 0) 31 33 == 0 && fld (w 1) 52 12 == 0 && fld (w 2) 47 17 == 0 && fld (w 3) 10 6 == 0 && fld (w 3) 26 6 == 0 &&
    fld (w 3) 38 26 == 0 && fld (w 4) 32 32 == 0 && [5, 6, 7].all (fun i => w i == 0)

/-- Direction of a stream on its channel: 1 sending, 2 receiving, 0 none. -/
def cpDir (d : SDesc) : Nat := if d.kind = 1 || d.kind = 3 then 1 else if d.kind = 2 || d.kind = 4 then 2 else 0

/-- Another armed stream uses the channel in the same direction (R369). -/
def cpBusy (s : State) (n : Nat) (d : SDesc) : Bool :=
  cpDir d != 0 && s.str.streams.any (fun e => e.1 != n && e.2.st != .disarmed && cpDir e.2.d == cpDir d && e.2.d.cpch == d.cpch)

/-- Values and ranges of R369. -/
def sdescOk (s : State) (n : Nat) (d : SDesc) : Bool :=
  decide (d.kind ≤ 4) && (decide (d.tile < 48) || d.tile == 63) && d.lrole != 3 && decide (1 ≤ d.credits) &&
    (if d.kind < 3 then decide (1 ≤ d.count) && decide (d.count ≤ 16777216) && d.bl % 16 == 0 else d.count == 0) &&
    !(d.kind == 0 && d.lrole == 2 && d.linkcap == 0) && !cpBusy s n d && !(hasLink d && d.semP == d.semC)

/-- Credits that a stream holds (R370, R375). -/
def strmHeld (x : Strm) : Nat :=
  if x.st = .disarmed then 0 else max x.d.credits ((x.rearm.map (fun d => d.credits)).getD 0)

/-- Credits of the staging pool (R370, R511, R539). -/
def stagePool (s : State) : Nat := (if s.pwr.sl = 3 then (layoutOf s).stage else 2 ^ 28) / 65536

/-- Credits that the other streams hold. -/
def othersHeld (s : State) (n : Nat) : Nat :=
  (s.str.streams.filter (fun e => e.1 != n)).foldl (fun a e => a + strmHeld e.2) 0

/-- The stream is armed: its counters clear, and one of kind 0 to 2 takes the next sequence number of its queue and runs
(R366, R374, R378). -/
def armNow (s : State) (n : Nat) (d : SDesc) : State :=
  let s1 := { s with ctrs := clearUnit s.ctrs 9 n }
  if 3 ≤ d.kind then setStrm s1 n { Strm.reset with d := d, st := .idle }
  else
    let q := qOf s1 d.queue
    let cid := s1.orr.nextCid
    let s2 := setStrm s1 n { Strm.reset with d := d, st := .running, seq := q.nextSeq, bound := some cid }
    let s3 := setQ s2 d.queue { q with nextSeq := q.nextSeq + 1 }
    let c := Cmd.new cid d.queue q.nextSeq (.stream n) [] false s.xlt.xgen (0x80 + d.kind)
    addCmd { s3 with orr := { s3.orr with nextCid := cid + 1 } } { c with phase := .running }

/-- A queued re-arm takes effect when its stream is IDLE (R375). -/
def rearmTake (s : State) (n : Nat) : State :=
  let x := strmOf s n
  match x.rearm with
  | some d => if x.st = .idle && !lStream s n then armNow s n d else s
  | none => s

/-- STREAM_REARM_TAKE. -/
def execStreamRearmTake (st : Fin 256) (s : State) : Host.Outcome State Fault Refusal := act s (fun s => rearmTake s st)

def rowArmStream : MbRow :=
  { opc := 0x32, cls := .F, group := 3, lo := 1, hi := 3, used := [mask 0 52], mgmtOnly := false }

/-- ARM_STREAM (R369, R370, R375). -/
def bodyArmStream (s : State) (c : MbCtx) : MbOut :=
  withBuf s c (c.p 0) 64 (fun s l =>
    let (n, d) := sdescOf l
    let s0 := rearmTake s n
    let x := strmOf s0 n
    let now := x.st == .disarmed || x.st == .idle
    if lStream s0 n then .done s rcInUse []
    else if !sdescZero l || !sdescOk s0 n d then .done s rcInvalid []
    else if !now && x.rearm.isSome then .done s rcArmBusy []
    else if stagePool s0 < othersHeld s0 n + (if now then d.credits else max x.d.credits d.credits) then .done s rcOvercommit []
    else if now then .done (armNow s0 n d) rcOk [(0, 0)]
    else .done (setStrm s0 n { x with rearm := some d }) rcOk [(0, 1)])

/-- ARM_STREAM. -/
def execArmStream (m : MbWrite) (s : State) : Host.Outcome State Fault Refusal := mbox rowArmStream bodyArmStream m s

/-! ### DISARM_STREAM, STREAM_QUERY, SET_STREAM_POLICY -/

def rowDisarmStream : MbRow :=
  { opc := 0x33, cls := .L, group := 3, lo := 1, hi := 3, used := [mask 0 8], mgmtOnly := false }

/-- DISARM_STREAM (R376): the re-arm goes, a fault is aborted, and the stream is DISARMED once it is IDLE. -/
def bodyDisarmStream (s : State) (c : MbCtx) : MbOut :=
  let n := c.f 0 0 8
  let x := strmOf s n
  if lStream s n then .done s rcInUse []
  else if x.st == .disarmed then .done s rcOk []
  else
    let s1 := setStrm s n { x with rearm := none }
    if x.st == .idle then .done (setStrm s1 n Strm.reset) rcOk []
    else
      let s2 := if x.st == .faultParked || x.st == .faultSwitched then strmAbort s1 n 0x10 else s1
      .wait s2 (.disarm c.ch n)

/-- DISARM_STREAM. -/
def execDisarmStream (m : MbWrite) (s : State) : Host.Outcome State Fault Refusal :=
  mbox rowDisarmStream bodyDisarmStream m s

/-- State codes of R374. -/
def strmCode : SState → Nat
  | .disarmed => 0 | .running => 1 | .waiting => 2 | .faultParked => 3 | .faultSwitched => 4 | .idle => 5

def rowStreamQuery : MbRow :=
  { opc := 0x34, cls := .F, group := 3, lo := 0, hi := 3, used := [mask 0 8], mgmtOnly := false }

/-- STREAM_QUERY (R374, R508). -/
def bodyStreamQuery (s : State) (c : MbCtx) : MbOut :=
  let n := c.f 0 0 8
  let x := strmOf s n
  if lStream s n then .done s rcInUse []
  else .done s rcOk
    [(0, BitVec.ofNat 64 (strmCode x.st + b2n x.rearm.isSome * 8 + b2n (strmClosed s x) * 16)),
     (1, BitVec.ofNat 64 (ctr s (ctrStreamStrLines n))), (2, BitVec.ofNat 64 (strmHeld x))]

/-- STREAM_QUERY. -/
def execStreamQuery (m : MbWrite) (s : State) : Host.Outcome State Fault Refusal := mbox rowStreamQuery bodyStreamQuery m s

def rowSetStreamPolicy : MbRow :=
  { opc := 0x35, cls := .F, group := 3, lo := 0, hi := 3, used := [mask 0 17], mgmtOnly := false }

/-- SET_STREAM_POLICY (R380, R381). -/
def bodySetStreamPolicy (s : State) (c : MbCtx) : MbOut :=
  if c.f 0 0 16 = 0 then .done s rcInvalid []
  else .done { s with str := { s.str with wcLimit := c.f 0 0 16, reportOnly := bit (c.a 0) 16 } } rcOk []

/-- SET_STREAM_POLICY. -/
def execSetStreamPolicy (m : MbWrite) (s : State) : Host.Outcome State Fault Refusal :=
  mbox rowSetStreamPolicy bodySetStreamPolicy m s

/-! ### Wait groups (R380, R381) -/

/-- Armed streams of a wait group, in rising order. -/
def groupOf (s : State) (g : Nat) : List (Nat × Strm) :=
  s.str.streams.filter (fun e => e.2.st != .disarmed && e.2.d.wgroup == g)

/-- Each stream of the group takes note of its line count. -/
def groupNote (s : State) (g : Nat) : State :=
  (groupOf s g).foldl (fun t e => setStrm t e.1 (
    if e.2.seen = e.2.lines then { e.2 with quiet := e.2.quiet + 1 } else { e.2 with seen := e.2.lines, quiet := 0 })) s

/-- Every armed stream of the group has been quiet for the limit and is WAITING. -/
def groupStuck (s : State) (g : Nat) : Bool :=
  !(groupOf s g).isEmpty && (groupOf s g).all (fun e => decide (s.str.wcLimit ≤ e.2.quiet) && e.2.st == .waiting)

/-- Marks the link of a stream CLOSED (R381). -/
def closeLink (s : State) (x : Strm) : State :=
  if !hasLink x.d || strmClosed s x then s
  else { s with str := { s.str with
    closedLinks := s.str.closedLinks ++ [{ p := x.d.semP, c := x.d.semC, pSet := false, cSet := false }] } }

/-- The stream that Meridian aborts: the highest-numbered BE one, or the highest-numbered (R381). -/
def groupVictim (s : State) (g : Nat) : Option (Nat × Strm) :=
  let l := groupOf s g
  ((l.filter (fun e => !qLc s e.2.d.queue)).getLast?).orElse (fun _ => l.getLast?)

/-- The report of a wait cycle, and the abort (R380, R381, R503). -/
def groupReport (s : State) (g : Nat) : State :=
  let l := (groupOf s g).map (fun e => e.1)
  let eb := ofBytes ((List.range 8).map (fun i => BitVec.ofNat 8 (l.getD i 0xFF)))
  let s1 := raiseEvent (bump1 s ctrChipWaitCycle) 0x0002 g (BitVec.ofNat 64 (l.length % 256)) (BitVec.ofNat 64 eb)
  if s1.str.reportOnly || !merUp s1 then s1
  else match groupVictim s1 g with
    | none => s1
    | some (n, x) =>
      let s2 := closeLink s1 x
      if x.d.kind < 3 then strmAbort s2 n 0x31 else s2

/-- WAIT_GROUP_CHECK (R380): a group is reported once per onset. -/
def groupCheck (s : State) (g : Nat) : State :=
  let s1 := groupNote s g
  if !groupStuck s1 g then { s1 with str := { s1.str with groupRep := sdel s1.str.groupRep g } }
  else if s1.str.groupRep.contains g then s1
  else groupReport { s1 with str := { s1.str with groupRep := sins s1.str.groupRep g } } g

/-- WAIT_GROUP_CHECK. -/
def execWaitGroupCheck (g : Fin 16) (s : State) : Host.Outcome State Fault Refusal := act s (fun s => groupCheck s g)

/-! ### PREFETCH and ADVISE (R389, R390) -/

/-- Fields that PREFETCH and ADVISE share: a length of at least 1, reserved bits zero, no reserved value. -/
def extCmdOk (c : Cmd) : Bool :=
  c.f 0 10 54 == 0 && c.f 0 8 2 != 3 && c.f 1 52 12 == 0 && c.f 2 40 24 == 0 && c.f 2 0 40 != 0 &&
    (c.words.drop 3).all (fun w => w == 0)

/-- The tile that Orrery chooses: the lowest of the queue's set (log entry 39). -/
def extTile (s : State) (c : Cmd) : Nat :=
  let ts := ((qOf s c.q).conf.map (fun k => k.tiles)).getD (BitVec.allOnes 48)
  ((List.range 48).find? (fun t => ts.getLsbD t)).getD 0

/-- Lines of the extent of a command. -/
def extLines (c : Cmd) : Nat := (c.f 1 0 52 % 64 + c.f 2 0 40 + 63) / 64

/-- One line of a PREFETCH. -/
def prefetchOne (tile : Nat) (hint : BitVec 2) (s : State) (vline : Nat) : State :=
  match rangeAt s false (vline * 64) with
  | none => bump1 (bump1 s (xltMissCtr tile)) (ctrTilePfDrop tile)
  | some (e, r) => prefetchLine (xltUse s tile e) tile r vline hint

/-- PREFETCH. -/
def execPrefetch (cid : Nat) (s : State) : Host.Outcome State Fault Refusal :=
  act s (fun s => withCmd s cid 0x05 (fun c s =>
    if !extCmdOk c then failCmd s cid 0x40
    else
      let t := extTile s c
      finish ((List.range (extLines c)).foldl (fun u i =>
        prefetchOne t (BitVec.ofNat 2 (c.f 0 8 2)) u (c.f 1 0 52 / 64 + i)) s) cid))

/-- One operation of ADVISE on a line of the row cache: 0 UNKEEP, 1 CLEAN, 2 DROP (R390). -/
def adviseLine (op : Nat) (s : State) (x : Nat) : State :=
  match findWay s (homeSlice s x) (lineSet s x) x with
  | none => s
  | some w =>
    let k := wayKey (homeSlice s x) (lineSet s x) w
    match mget? s.rc.lines k with
    | none => s
    | some l =>
      if op = 0 then setLine s k { l with keep := false, touched := false }
      else if op = 1 then (if l.dirty then setLine (writeBack s l) k { l with dirty := false } else s)
      else if l.dirty || l.keep then s else dropLine s k

/-- One line of an ADVISE, or its skip. -/
def adviseOne (tile op : Nat) (s : State) (vline : Nat) : State :=
  match rangeAt s false (vline * 64) with
  | none => bump1 (bump1 s (xltMissCtr tile)) (ctrTileAdvSkip tile)
  | some (e, r) =>
    let x := rangePa r (vline * 64) / 64
    if !r.rd || r.host || !inTiers (x * 64) 64 then bump1 (xltUse s tile e) (ctrTileAdvSkip tile)
    else adviseLine op (xltUse s tile e) x

/-- ADVISE. -/
def execAdvise (cid : Nat) (s : State) : Host.Outcome State Fault Refusal :=
  act s (fun s => withCmd s cid 0x06 (fun c s =>
    if !extCmdOk c then failCmd s cid 0x40
    else
      let t := extTile s c
      finish ((List.range (extLines c)).foldl (fun u i =>
        adviseOne t (c.f 0 8 2) u (c.f 1 0 52 / 64 + i)) s) cid))

/-! ### The chip port (R25, R362, R372, R388) -/

/-- Takes a request off those that wait for the host or for another chip. -/
def cpDiscard (s : State) (r : CpRequest) : State :=
  { s with str := { s.str with cpWait := s.str.cpWait.filter (fun w => w.1.id != r.id) } }

/-- An answer to a dense engine. -/
def cpAnswer (s : State) (r : CpRequest) (data : List Byte) (poison : Bool) : State :=
  let s1 := cpDiscard s r
  { s1 with str := { s1.str with cpOut := s1.str.cpOut ++ [(r.id, data, poison)] } }

/-- The right that a request needs (R359). -/
def cpRight (r : CpRequest) : Nat := if r.op = 0 then 0 else if r.op = 1 then 1 else 2

/-- A request that cannot be performed: a read or an atomic answers poisoned, a write is discarded (R438; log entry 38). -/
def cpFail (s : State) (r : CpRequest) : State :=
  if r.op = 1 then cpDiscard s r
  else
    let (s1, d) := freeBytes s (if r.op = 0 then r.data.length + r.len else r.len)
    cpAnswer s1 r d true

/-- The new value of an 8-byte atomic: fetch-and-add, or compare-and-swap with the comparand first (log entry 38). -/
def atomicNew (cas : Bool) (old arg : List Byte) : List Byte :=
  if cas then (if bytesAt old 0 8 = bytesAt arg 0 8 then bytesAt arg 8 8 else bytesAt old 0 8)
  else toBytes 8 ((numAt old 0 8 + numAt arg 0 8) % 2 ^ 64)

/-- An atomic on tier memory: the old bytes and their poison, the line written through its home slice. -/
def atomicTier (s : State) (pa : Nat) (cas : Bool) (arg : List Byte) (hint : BitVec 2) : State × List Byte × Bool :=
  let (s1, old, marks) := readExt s pa 8 hint
  (writeExt s1 pa (atomicNew cas old arg) hint false, old, marks.any id)

/-- A part of a request, with its translation, waits for the host or for another chip (R364). -/
def cpPark (s : State) (r : CpRequest) (p : Piece) : State :=
  if s.str.cpWait.any (fun w => w.1.id == r.id) then s
  else { s with str := { s.str with cpWait := s.str.cpWait ++ [(r, p)] } }

/-- A translated atomic: on tier memory at once, over Transit as AT; on host memory it cannot be performed (log entry
38). -/
def cpAtomic (s : State) (r : CpRequest) (p : Piece) : State :=
  if p.host then cpFail s r
  else if inTiers p.pa p.len then
    let (s1, old, bad) := atomicTier s p.pa (r.op == 3) r.data p.hint
    cpAnswer s1 r old bad
  else match gotFor s (.cp r.id) p with
    | some d => cpAnswer (dropGot s (.cp r.id)) r (d.map (fun b => b.1)) (d.any (fun b => b.2))
    | none =>
      if s.tr.wait.any (fun w => w.2 == .buf (.cp r.id) p.pa) then s
      else if !(slotOf s p.pa).v then cpFail s r
      else remoteReq (cpPark s r p) 4 2 p.pa 8 (b2n (r.op == 3)) (r.data.map (fun b => (b, r.poison))) (.buf (.cp r.id) p.pa)

/-- What is left of a request behind a part that is done; a read takes along what the part has brought. -/
def cpRest (r : CpRequest) (m : Nat) (d : List (Byte × Bool)) : CpRequest :=
  let keep := r.op == 0
  { r with
    va := r.va + BitVec.ofNat 52 m, len := r.len - m,
    data := if keep then r.data ++ d.map (fun b => b.1) else r.data.drop m,
    poison := r.poison || (keep && d.any (fun b => b.2)) }

/-- One part of a request through its translation: it fails, it waits, or it is done and leaves the rest. -/
def cpPart (s : State) (r : CpRequest) (p : Piece) : State × Option CpRequest :=
  let who := Who.cp r.id
  if 2 ≤ r.op.toNat then (if p.len = r.len then cpAtomic s r p else cpFail s r, none)
  else match cutPieces s who [p] with
    | .error _ => (cpFail s r, none)
    | .ok cs =>
      if r.op = 1 then
        (writeCuts s who cs ((r.data.take p.len).map (fun b => (b, r.poison))), some (cpRest r p.len []))
      else match readCuts who s cs with
        | .fail _ => (cpFail s r, none)
        | .outside _ => (if p.host && !hostUp s then cpFail s r else askPiece (cpPark s r p) who p, none)
        | .ok s1 d => (cpDiscard (dropGot s1 who) r, some (cpRest r p.len d))

/-- A request goes on part by part, each translated and checked as a stream's, faulting in class BE; the count bounds the
parts (R25, R359, R388). -/
def cpGo : Nat → State → CpRequest → State
  | 0, s, r => cpFail s r
  | k + 1, s, r =>
    if r.len = 0 then (if r.op = 1 then s else cpAnswer s r r.data r.poison)
    else match xltPart s 48 (cpRight r) r.va.toNat r.len with
      | (s1, .error e) => if e.missing then takeFault s1 e.va (cpRight r) false 48 (.cp r) else cpFail s1 r
      | (s1, .ok p) =>
        match cpPart s1 r p with
        | (s2, none) => s2
        | (s2, some r2) => cpGo k s2 r2

/-- A request, or what is left of one, is tried. -/
def cpTry (s : State) (r : CpRequest) : State := cpGo (s.xlt.ranges.length + 2) s r

/-- A part that has waited goes on through the translation it was accepted with, and then the rest of its request (R364). -/
def cpAgain (s : State) (r : CpRequest) (p : Piece) : State :=
  match cpPart s r p with
  | (s1, none) => s1
  | (s1, some r1) => cpTry s1 r1

/-- A request that has just come: a read brings no data. -/
def cpStart (s : State) (r : CpRequest) : State :=
  cpTry s (if r.op = 0 then { r with data := [], poison := false } else r)

/-- CHIP_PORT_REQUEST: while the block is parked or restarts, the request waits at the port. -/
def execChipPortRequest (r : CpRequest) (s : State) : Host.Outcome State Fault Refusal :=
  actKeep s (.chipPort r) (fun s =>
    if mustWait s (.chipPort r) || s.pwr.park != .running || s.pwr.restart == .running then hold s (.chipPort r) else cpStart s r)

/-- The stream that receives on a channel. -/
def cpReceiver (s : State) (ch : Nat) : Option (Nat × Strm) :=
  s.str.streams.find? (fun e => e.2.st != .disarmed && cpDir e.2.d == 2 && e.2.d.cpch == ch)

/-- The link has room for one more line behind those staged (R372). -/
def cpRoom (s : State) (x : Strm) : Bool :=
  reached (semOf s x.d.semC + BitVec.ofNat 32 (linkCap x.d)) (BitVec.ofNat 32 (x.lines + x.staged.length + 1))

/-- Lines of a channel enter the stream's reservation while the link has room; the others stay at the port, and so does
every line of a CLOSED link, whose consumer gets zeros with the poison mark (R381). -/
def cpStage (ch : Nat) (s : State) (l : List Byte × Bool) : State :=
  match cpReceiver s ch with
  | none => s
  | some (n, x) =>
    if cpRoom s x && !strmClosed s x then
      setStrm s n { x with staged := x.staged ++ [(bytesAt l.1 0 64, l.2)], st := if x.st = .idle then .running else x.st }
    else s

/-- CHIP_PORT_DATA (R372, R377). -/
def execChipPortData (ch : Fin 64) (lines : List (List Byte × Bool)) (s : State) : Host.Outcome State Fault Refusal :=
  act s (fun s =>
    if s.pwr.park != .running || s.pwr.restart == .running then s else lines.foldl (cpStage ch) s)

/-! ### FAULT_READ and FAULT_RESOLVE (R385, R387) -/

/-- The 32 bytes of a fault entry (R385). -/
def faultBytes (f : FaultEnt) : List Byte :=
  toBytes 8 (f.addr % 2 ^ 52 + f.acc.toNat * 2 ^ 52 + b2n f.lc * 2 ^ 55) ++
  toBytes 8 (f.waiters.foldl (fun n w => n + 2 ^ w) 0) ++
  toBytes 8 (f.fid % 65536 + f.stream % 256 * 2 ^ 16 + f.queue % 64 * 2 ^ 24 + f.nwait % 2 ^ 32 * 2 ^ 32) ++ toBytes 8 0

def rowFaultRead : MbRow :=
  { opc := 0x36, cls := .F, group := 3, lo := 0, hi := 3, used := [mask 0 52, mask 0 7], mgmtOnly := false }

/-- FAULT_READ (R385): open entries, oldest first. -/
def bodyFaultRead (s : State) (c : MbCtx) : MbOut :=
  let m := c.f 1 0 7
  if m = 0 || 64 < m then .done s rcInvalid []
  else withOut s c (c.p 0) (32 * m) (fun write =>
    let fs := s.str.faults.take m
    .done (write s (fs.flatMap faultBytes)) rcOk [(0, BitVec.ofNat 64 fs.length)])

/-- FAULT_READ. -/
def execFaultRead (m : MbWrite) (s : State) : Host.Outcome State Fault Refusal := mbox rowFaultRead bodyFaultRead m s

/-- RETRY of a request (R387). -/
def reqRetry (s : State) (r : FReq) : State :=
  let s0 := { s with str := { s.str with retried := s.str.retried ++ [r] } }
  match r with
  | .stream n => switchBack (setStrm s0 n { strmOf s0 n with st := .running }) (strmOf s0 n).d.queue
  | .cp x =>
    let s1 := cpTry s0 x
    { s1 with str := { s1.str with retried := s1.str.retried.filter (fun y => y != r) } }

/-- ABORT of a request: a chip-port read returns poisoned, a write or an atomic is discarded (R387). -/
def reqAbort (s : State) (r : FReq) : State :=
  match r with
  | .stream n => switchBack (strmEnd s n (some 0x10)) (strmOf s n).d.queue
  | .cp x => bump1 (if x.op = 0 then cpFail s x else cpDiscard s x) ctrChipCpFaultAbort

/-- Releases every request of an entry at once. -/
def faultRelease (s : State) (f : FaultEnt) (abort : Bool) : State :=
  let s1 := { s with str := { s.str with faults := s.str.faults.filter (fun g => g.fid != f.fid) } }
  f.reqs.foldl (if abort then reqAbort else reqRetry) s1

def rowFaultResolve : MbRow :=
  { opc := 0x37, cls := .F, group := 3, lo := 0, hi := 3, used := [mask 0 18], mgmtOnly := false }

/-- FAULT_RESOLVE (R387). -/
def bodyFaultResolve (s : State) (c : MbCtx) : MbOut :=
  if 2 ≤ c.f 0 16 2 then .done s rcInvalid []
  else match s.str.faults.find? (fun f => f.fid == c.f 0 0 16) with
    | none => .done s rcNotFound []
    | some f => .done (faultRelease s f (c.f 0 16 2 == 1)) rcOk []

/-- FAULT_RESOLVE. -/
def execFaultResolve (m : MbWrite) (s : State) : Host.Outcome State Fault Refusal := mbox rowFaultResolve bodyFaultResolve m s

end Sys2Proof.Machine
end

