-- ==== Sys2Proof/Machine/HostPort.lean ====
section
/-! DEFINITION. The host port (chapter 12): the window, BAR4, CXL.mem, snoops, what the host sends back, the loss and
the return of the host path, and command group 4. -/

namespace Sys2Proof.Machine

/-! ### Accesses of the host and of adapters (R394 to R403, R410, R419, R420) -/

/-- An answer to a host read or snoop. -/
def hostAnswer (s : State) (data : List Byte) (poison : Bool) : State :=
  { s with hp := { s.hp with answers := s.hp.answers ++ [(data, poison)] } }

/-- A request that completes with Unsupported Request. -/
def hostUr (s : State) : State := { s with hp := { s.hp with urs := s.hp.urs + 1 } }

/-- A host access during a block restart (R419): reads return poisoned, writes are discarded and counted. -/
def restartAccess (s : State) (write : Bool) (n : Nat) : State :=
  if write then bump1 s ctrChipHpRestartRej
  else
    let (s1, d) := freeBytes s n
    hostAnswer s1 d true

/-- An access to tier memory from the host port. -/
def portAccess (s : State) (pa : Nat) (a : HostAccess) (hint : BitVec 2) : State :=
  if a.write then writeExt s pa a.data hint a.poison
  else
    let (s1, d, marks) := readExt s pa a.len hint
    hostAnswer s1 d (marks.any id)

/-- A host access during a freeze (R558): reads return poisoned, writes are discarded, and each is counted. -/
def frozenAccess (s : State) (write : Bool) (n : Nat) : State :=
  let s1 := bump1 s ctrChipFrzHostRej
  if write then s1
  else
    let (s2, d) := freeBytes s1 n
    hostAnswer s2 d true

/-- A memory access of the host port: served, kept while it waits, or turned away by a freeze (R558). -/
def portKeep (s : State) (h : Held) (write : Bool) (n : Nat) (f : State → State) : Host.Outcome State Fault Refusal :=
  .next (if s.err.frozen then frozenAccess s write n else if stopped s then s else settleIn (hold s h) (f s))

/-- A host access while the block is parked, enters Park, wakes or restarts; none when it is served now (R419, R420,
R521 to R524). -/
def portWaits (s : State) (h : Held) (write : Bool) (n : Nat) : Option State :=
  if s.pwr.park != .running then some (wakeUp (hold s h))
  else if s.pwr.restart == .running then some (restartAccess s write n)
  else none

/-- A refused BAR4 access (R26, R401). -/
def bar4Refuse (s : State) (a : HostAccess) : State :=
  let s1 := bump1 s ctrChipHpPlaceRej
  if a.write then s1 else hostUr s1

/-- A placement region grants the access (R401). -/
def placeOk (s : State) (a : HostAccess) : Bool :=
  s.hp.placeEn && s.hp.place.any (fun e =>
    decide (e.2.base * 0x200000 ≤ a.off) && decide (a.off + a.len ≤ (e.2.base + e.2.len) * 0x200000) &&
      (e.2.requester == 0xFFFF || e.2.requester == a.requester) && (if a.write then e.2.wr else e.2.rd))

/-- The host window unit as a reader of remote windows (log entry 42). -/
def portReader : Who := .chan 17

/-- An access of BAR4 to a remote window while the aperture is open (R400; log entry 42). -/
def bar4Remote (s : State) (a : HostAccess) : State :=
  let p : Piece := { host := false, pa := a.off, len := a.len, hint := 0, va := a.off, ent := 0 }
  match cutPieces s portReader [p] with
  | .error _ => bar4Refuse s a
  | .ok cs =>
    if a.write then writeCuts s portReader cs (a.data.map (fun b => (b, a.poison)))
    else match readCuts portReader s cs with
      | .fail _ => bar4Refuse s a
      | .outside q => hold (askOutside s portReader q) (.port .remote a)
      | .ok s1 d => hostAnswer (dropGot s1 portReader) (d.map (fun b => b.1)) (d.any (fun b => b.2))

/-- Where a window access goes (R396, R397). -/
def windowDst (s : State) (a : HostAccess) : PortDst :=
  if winEn s.hp.win then .tier (winBase s.hp.win + a.off) (winHint s.hp.win) else .winOff

/-- Where a BAR4 access goes (R26, R400, R401). -/
def bar4Dst (s : State) (a : HostAccess) : PortDst :=
  if s.hp.aper then
    if inTiers a.off a.len then .tier a.off 0 else if inRemote a.off a.len then .remote else .refused
  else if placeOk s a then .tier a.off 0 else .refused

/-- An access whose place is known takes place, or waits. -/
def portServe (s : State) (dst : PortDst) (a : HostAccess) : State :=
  match portWaits s (.port dst a) a.write a.len with
  | some t => t
  | none => match dst with
    | .tier pa hint => portAccess s pa a hint
    | .remote => bar4Remote s a
    | .winOff => if a.write then bump1 s ctrChipHwWinOff else hostUr s
    | .refused => bar4Refuse s a

/-- An access arrives: an AtomicOp or a translated address completes with Unsupported Request (R392); one that must wait is
kept. -/
def portArrive (h : Held) (a : HostAccess) (serve : State → State) (s : State) : Host.Outcome State Fault Refusal :=
  portKeep s h a.write a.len (fun s => if a.form != .plain then hostUr s else if mustWait s h then hold s h else serve s)

/-- WINDOW_ACCESS (R396, R398, R399): placed by the `HW_WIN` in force at its arrival, which a held write to BAR0 may still
change. -/
def execWindowAccess (a : HostAccess) (s : State) : Host.Outcome State Fault Refusal :=
  let dst := windowDst s a
  portArrive (if mustWait s (.window a) && s.pwr.held.any heldReg then .window a else .port dst a) a
    (fun s => portServe s dst a) s

/-- BAR4_ACCESS (R26, R400, R401): placed by the aperture and the regions as they stand at its arrival. -/
def execBar4Access (a : HostAccess) (s : State) : Host.Outcome State Fault Refusal :=
  let dst := bar4Dst s a
  portArrive (.port dst a) a (fun s => portServe s dst a) s

/-! ### CXL.mem (R353, R354, R395, R403) -/

/-- The set of a line in its slice's snoop filter of 16,384 entries, 16-way (log entry 43). -/
def filterSet (s : State) (x : Nat) : Nat := lineHash s x % 1024

/-- Records of the line's filter set, oldest first. -/
def filterPeers (s : State) (x : Nat) : List (Nat × Bool) :=
  s.rc.snoop.filter (fun e => homeSlice s e.1 == homeSlice s x && filterSet s e.1 == filterSet s x)

/-- The record that must leave before the line can be recorded (R354). -/
def filterVictim (s : State) (x : Nat) : Option Nat :=
  let l := filterPeers s x
  if l.any (fun e => e.1 == x) || decide (l.length < 16) then none else l.head?.map (fun e => e.1)

/-- Records the line as the newest (R353). -/
def filterPut (s : State) (x : Nat) (owned : Bool) : State :=
  { s with rc := { s.rc with snoop := s.rc.snoop.filter (fun e => e.1 != x) ++ [(x, owned)] } }

/-- A line's own record does not hold up its host. -/
def ownGate (s : State) (x : Nat) : State := { s with rc := { s.rc with need := s.rc.need.filter (fun y => y != x) } }

/-- The device physical address of a host address: through the committed decoder that covers it (R395, R404). -/
def hdmPa (s : State) (h : Nat) : Option Nat :=
  let through (i lo n : Nat) : Option Nat :=
    (mget? s.hp.hdm i).bind (fun b => if b ≤ h ∧ h < b + n then some (lo + (h - b)) else none)
  (through 0 0 tierFEnd).orElse (fun _ => through 1 tierSBase (tierSEnd - tierSBase))

/-- A CXL.mem request arrives: one that no committed decoder covers completes with Unsupported Request; one that must wait
is kept. -/
def memArrive (addr : Nat) (write : Bool) (held : Nat → Held) (serve : Nat → State → State) (s : State) :
    Host.Outcome State Fault Refusal :=
  match hdmPa s addr with
  | none => portKeep s (held 0) write 64 hostUr
  | some pa => portKeep s (held pa) write 64 (fun s => if mustWait s (held pa) then hold s (held pa) else serve pa s)

/-- A CXL.mem read that takes place now, or waits: for a wake, or for a filter entry to be given back (R354, R420). -/
def memRequest (s : State) (h : Held) (x : Nat) (f : State → State) : State :=
  match portWaits s h false 64 with
  | some t => t
  | none =>
    match filterVictim s x with
    | none => f s
    | some v =>
      if s.rc.biSent.contains v then hold s h
      else hold (bump1 (sendSnoops s [v]) (ctrSliceSfEvict (homeSlice s x))) h

/-- CXL_MEM_READ (R353): served from the line, or from DRAM; recorded SHARED. -/
def memRead (s : State) (pa : Nat) : State :=
  let x := pa / 64
  memRequest s (.memRead pa) x (fun s =>
    let (s1, d, bad) := readLine s x 0
    hostAnswer (filterPut (ownGate s1 x) x false) d bad)

/-- CXL_MEM_READ, at a host address. -/
def execCxlMemRead (addr : Nat) (s : State) : Host.Outcome State Fault Refusal :=
  memArrive addr false .memRead (fun pa s => memRead s pa) s

/-- The slice's copy of a line is cleaned and invalidated. -/
def cleanLine (s : State) (x : Nat) : State :=
  match findWay s (homeSlice s x) (lineSet s x) x with
  | none => s
  | some w =>
    let k := wayKey (homeSlice s x) (lineSet s x) w
    match mget? s.rc.lines k with
    | none => s
    | some l => dropLine (if l.dirty then writeBack s l else s) k

/-- CXL_MEM_OWN (R353): the slice's copy is cleaned and invalidated; recorded OWNED. -/
def memOwn (s : State) (pa : Nat) : State :=
  let x := pa / 64
  memRequest s (.memOwn pa) x (fun s =>
    let (s1, d, p) := dReadSecs (cleanLine s x) (x * 64) 2
    hostAnswer (filterPut s1 x true) d (p.any id))

/-- CXL_MEM_OWN, at a host address. -/
def execCxlMemOwn (addr : Nat) (s : State) : Host.Outcome State Fault Refusal :=
  memArrive addr false .memOwn (fun pa s => memOwn s pa) s

/-- CXL_MEM_WRITE (R400, R403): a write of bytes within one line, discarded in protected areas where the aperture was closed
at its arrival. -/
def memWrite (s : State) (pa : Nat) (data : List Byte) (poison aper : Bool) : State :=
  let x := pa / 64
  match portWaits s (.memWrite pa data poison aper) true 64 with
  | some t => t
  | none =>
    if !aper && protectedArea s (x * 64) 64 then bump1 s ctrChipHpMemRej
    else ownGate (writeLine s pa (data.take (64 - pa % 64)) 0 poison) x

/-- CXL_MEM_WRITE, at a host address. -/
def execCxlMemWrite (addr : Nat) (data : List Byte) (poison : Bool) (s : State) : Host.Outcome State Fault Refusal :=
  memArrive addr true (fun pa => .memWrite pa data poison s.hp.aper) (fun pa t => memWrite t pa data poison s.hp.aper) s

/-- HDM_COMMIT (R395, R418): the decoders that the host has programmed are committed with their HPA bases. -/
def execHdmCommit (s : State) : Host.Outcome State Fault Refusal :=
  hostAct s (fun s => { s with hp := { s.hp with hdm := s.hp.hdmProg } })

/-! ### Snoops of the host line cache (R407, R408) -/

/-- The answer to a snoop (log entry 44). -/
def snpRsp (k : Snoop) (m : Bool) : SnpRsp :=
  match k, m with
  | .cur, true => .rspVFwdV
  | .cur, false => .rspVHitV
  | .inv, true => .rspIFwdM
  | .inv, false => .rspIHitSE
  | .data, true => .rspSFwdM
  | .data, false => .rspSHitSE

/-- A snoop of a host line: an M line's data goes to the host, and the line's state changes as CXL 3.1 has it (log entry
44). -/
def snoopLine (s : State) (k : Snoop) (x : Nat) : State :=
  let say (t : State) (r : SnpRsp) : State := { t with hp := { t.hp with snp := t.hp.snp ++ [(x, r)] } }
  match hcFind s x with
  | none => say s .rspIHitI
  | some (key, l) =>
    let m := l.st == .modified
    let s1 := say (if m then hostAnswer s l.data l.poison else s) (snpRsp k m)
    match k with
    | .cur => s1
    | .inv => hcDrop s1 key
    | .data => hcSetLine s1 key { l with st := .shared, cids := [] }

/-- HOST_SNOOP (R408, R522). -/
def snoopServe (s : State) (k : Snoop) (addr : Nat) : State :=
  if s.pwr.park != .running then wakeUp (hold s (.snoop k addr)) else snoopLine s k (addr / 64)

/-- HOST_SNOOP: answered from the host line cache during a freeze too (R558). -/
def execHostSnoop (k : Snoop) (addr : Nat) (s : State) : Host.Outcome State Fault Refusal :=
  .next (if s.err.frozen then snoopLine s k (addr / 64) else if stopped s then s else snoopServe s k addr)

/-! ### What comes back from the host (R411, R599) -/

/-- The descriptor of a host-resident ring has arrived (R451): a queue that has been stopped or reconfigured drops it. -/
def fetchArrive (s : State) (q : Nat) (data : List Byte) (poison : Bool) : State :=
  let x := qOf s q
  if x.conf.isNone || x.st == .stopped || x.st == .idle || x.fetch == x.tail then s
  else fetchTake s q (bytesAt data 0 64) poison

/-- Requests of the dense engines that wait for data go on. -/
def cpResume (s : State) : State :=
  s.str.cpWait.foldl (fun t w => if t.str.cpWait.contains w then cpAgain t w.1 w.2 else t) s

/-- What a host read brings to the one who asked. -/
def readArrive (s : State) (r : HostRead) (data : List Byte) (poison : Bool) : State :=
  match r.what with
  | .fetch q => fetchArrive s q data poison
  | .flush _ => { s with hp := { s.hp with writes := s.hp.writes.filter (fun w => w.cxl || decide (r.id < w.id)) } }
  | .buf w => { s with got := s.got ++
      [{ who := w, host := true, addr := r.addr, data := (bytesAt data 0 r.len).map (fun b => (b, poison)) }] }
  | .cur w pa n => { s with got := s.got ++
      [{ who := w, host := true, addr := pa, data := (bytesAt data (pa % 64) n).map (fun b => (b, poison)) }] }
  | .line x own ms => hcArrive s x own ms data poison

/-- HOST_READ_COMPLETION (R599): one of the 512 reads that may be outstanding (R392); none arrives during a link
recovery (R413). -/
def readReturn (s : State) (h : HostReply) : State :=
  match (s.hp.reads.take 512).find? (fun r => r.id == h.id) with
  | none => s
  | some r =>
    if s.hp.recov then s
    else
      let s1 := { s with hp := { s.hp with reads := s.hp.reads.filter (fun y => y.id != h.id) } }
      cpResume (readArrive s1 r h.data h.poison)

/-- HOST_READ_COMPLETION. -/
def execHostReadCompletion (r : HostReply) (s : State) : Host.Outcome State Fault Refusal := act s (fun s => readReturn s r)

/-- CXL_CACHE_WRITE_COMPLETION (R411). -/
def execCxlCacheWriteCompletion (id : Nat) (s : State) : Host.Outcome State Fault Refusal :=
  act s (fun s =>
    if s.hp.recov then s
    else { s with hp := { s.hp with writes := s.hp.writes.filter (fun w => !(w.cxl && w.id == id)) } })

/-! ### Loss of the host path (R413 to R418) -/

/-- Outstanding host reads complete as poisoned; what they were to fetch into the host line cache is not kept, and the
writes that waited for it are dropped (R415). -/
def readLost (s : State) (r : HostRead) : State :=
  let give (w : Who) (pa n : Nat) : State :=
    let (s1, d) := freeBytes s n
    { s1 with got := s1.got ++ [{ who := w, host := true, addr := pa, data := d.map (fun b => (b, true)) }] }
  match r.what with
  | .buf w => give w r.addr r.len
  | .cur w pa n => give w pa n
  | .line _ _ ms => bump s ctrChipHpWrDrop ms.length
  | _ => s

/-- Accesses that waited for the host's answer take place (R353, R415). -/
def biRelease (s : State) : State :=
  let ws := s.rc.biWait
  ws.foldl (fun t w => sliceErr t w.acc .none) { s with rc := { s.rc with biWait := [], biSent := [] } }

/-- Host-resident queues stop (R415, R452). -/
def stopHostQueues (s : State) : State :=
  { s with orr := { s.orr with queues := mmap s.orr.queues (fun _ x =>
      if (x.conf.map (fun c => c.hostRes)).getD false then { x with st := .stopped, pendingDb := false } else x) } }

/-- A command or stream whose data uses the host ends with HOST_PATH_LOST, but for a REPLACE that has read its source
in full (R416). -/
def hostLostCmd (s : State) (c : Cmd) : State :=
  if !c.usesHost then s
  else match c.own with
    | .stream n =>
      if c.phase = .done then updCmd s c.cid (fun c => { c with fail := c.fail.orElse (fun _ => some 0x20) })
      else strmAbort s n 0x20
    | _ => if c.phase = .fetched then failCmd s c.cid 0x20 else s

/-- HOST_PATH_LOSS (R413, R415, R416): the path is CLEANING, and its actions take place. -/
def pathLoss (s : State) : State :=
  let dirty := (s.hp.lines.filter (fun e => e.2.st == .modified)).length
  let s1 := bump (bump (bump s ctrChipHpWrDrop s.hp.writes.length) ctrChipHpRdLost s.hp.reads.length) ctrChipHpDirtyLost dirty
  let rs := s1.hp.reads
  let s2 := { s1 with hp := { s1.hp with
    state := 1, writes := [], reads := [], lines := [], trees := [], win := 0, placeEn := false, hdm := [],
    recov := false, aper := s1.hp.aper && s1.hp.aperMgmt } }
  let s3 := biRelease (poisonOwned (rs.foldl readLost s2))
  let s4 := s3.orr.cmds.foldl hostLostCmd (stopHostQueues s3)
  cpResume s4

/-- HOST_PATH_LOSS: a path that is not ATTACHED is lost or was never there. -/
def execHostPathLoss (_why : PathLoss) (s : State) : Host.Outcome State Fault Refusal :=
  act s (fun s => if s.hp.state = 0 then pathLoss s else s)

/-- HOST_PATH_CLEANED (R414, R415, R503). -/
def execHostPathCleaned (s : State) : Host.Outcome State Fault Refusal :=
  act s (fun s => if s.hp.state = 1 then raiseEvent { s with hp := { s.hp with state := 2 } } 0x0050 0 0 0 else s)

/-- HOST_LINK_RECOVERY (R413). -/
def execHostLinkRecovery (s : State) : Host.Outcome State Fault Refusal :=
  act s (fun s => bump1 { s with hp := { s.hp with recov := true } } ctrChipHpRetrain)

/-- LINK_RECOVERY_END (R413). -/
def execLinkRecoveryEnd (s : State) : Host.Outcome State Fault Refusal :=
  act s (fun s => { s with hp := { s.hp with recov := false } })

/-! ### Command group 4 (R509) -/

def rowOpenAperture : MbRow := { opc := 0x40, cls := .F, group := 4, lo := 0, hi := 3, used := [], mgmtOnly := false }

/-- OPEN_APERTURE (R400). -/
def bodyOpenAperture (s : State) (c : MbCtx) : MbOut :=
  if !c.mgmt && s.pwr.sl == 3 then .done s rcLevel []
  else .done { s with hp := { s.hp with aper := true, aperMgmt := c.mgmt || (s.hp.aper && s.hp.aperMgmt) } } rcOk []

/-- OPEN_APERTURE. -/
def execOpenAperture (m : MbWrite) (s : State) : Host.Outcome State Fault Refusal := mbox rowOpenAperture bodyOpenAperture m s

def rowCloseAperture : MbRow := { opc := 0x41, cls := .F, group := 4, lo := 0, hi := 3, used := [], mgmtOnly := false }

/-- CLOSE_APERTURE (R400, R509). -/
def bodyCloseAperture (s : State) (_ : MbCtx) : MbOut :=
  .done { s with hp := { s.hp with aper := false, aperMgmt := false } } rcOk []

/-- CLOSE_APERTURE. -/
def execCloseAperture (m : MbWrite) (s : State) : Host.Outcome State Fault Refusal :=
  mbox rowCloseAperture bodyCloseAperture m s

def rowSetPlaceRegion : MbRow :=
  { opc := 0x42, cls := .F, group := 4, lo := 0, hi := 3, used := [mask 0 10 + mask 16 16, mask 0 27, mask 0 27],
    mgmtOnly := false }

/-- SET_PLACE_REGION (R401, R536): overlaps with another object are IN_USE, as in R358 (log entry 41). -/
def bodySetPlaceRegion (s : State) (c : MbCtx) : MbOut :=
  let k := c.f 0 0 6
  let r : PlaceRegion := {
    base := c.f 1 0 27, len := c.f 2 0 27, rd := bit (c.a 0) 7, wr := bit (c.a 0) 8, requester := BitVec.ofNat 16 (c.f 0 16 16) }
  let a := r.base * 0x200000
  let n := r.len * 0x200000
  let en (m : FMap PlaceRegion) : MbOut := .done { s with hp := { s.hp with place := m, placeEn := bit (c.a 0) 9 } } rcOk []
  if s.pwr.sl == 0 && s.mer.layout.isNone then .done s rcBadState []
  else if !bit (c.a 0) 6 then en (mdel s.hp.place k)
  else if r.len == 0 || !inTiers a n then .done s rcInvalid []
  else if s.hp.place.any (fun e => e.1 != k && overlap a n (e.2.base * 0x200000) (e.2.len * 0x200000)) ||
      protectedArea s a n then .done s rcInUse []
  else en (mset s.hp.place k r)

/-- SET_PLACE_REGION. -/
def execSetPlaceRegion (m : MbWrite) (s : State) : Host.Outcome State Fault Refusal :=
  mbox rowSetPlaceRegion bodySetPlaceRegion m s

/-- Host-path entries change for the commands stamped from now on; the old ones stay for those in flight (R406). -/
def setPaths (s : State) (m : FMap HostPath) : State :=
  let low := s.orr.cmds.foldl (fun n c => min n c.cid) s.orr.nextCid
  { s with hp := { s.hp with
      paths := m,
      oldPaths := (s.hp.oldPaths ++ [(s.orr.nextCid, s.hp.paths)]).filter (fun e => decide (low < e.1)) } }

def rowSetHostPath : MbRow :=
  { opc := 0x43, cls := .F, group := 4, lo := 0, hi := 3, used := [mask 0 7, mask 0 40, mask 0 40], mgmtOnly := false }

/-- SET_HOST_PATH (R406; log entry 41). -/
def bodySetHostPath (s : State) (c : MbCtx) : MbOut :=
  let k := c.f 0 0 4
  let e : HostPath := { base := c.f 1 0 40 * 4096, len := c.f 2 0 40 * 4096, cache := c.f 0 5 2 == 1 }
  if 2 ≤ c.f 0 5 2 then .done s rcInvalid []
  else if !bit (c.a 0) 4 then .done (setPaths s (mdel s.hp.paths k)) rcOk []
  else if e.len == 0 || decide (2 ^ 52 < e.base + e.len) then .done s rcInvalid []
  else if s.hp.paths.any (fun x => x.1 != k && overlap e.base e.len x.2.base x.2.len) then .done s rcInUse []
  else .done (setPaths s (mset s.hp.paths k e)) rcOk []

/-- SET_HOST_PATH. -/
def execSetHostPath (m : MbWrite) (s : State) : Host.Outcome State Fault Refusal := mbox rowSetHostPath bodySetHostPath m s

def rowHostAttach : MbRow := { opc := 0x44, cls := .F, group := 4, lo := 0, hi := 3, used := [], mgmtOnly := false }

/-- Both decoders are committed (R395, R418). -/
def hdmReady (s : State) : Bool := (mget? s.hp.hdm 0).isSome && (mget? s.hp.hdm 1).isSome

/-- HOST_ATTACH (R418, R509, R536): interrupts that were pending go out. -/
def bodyHostAttach (s : State) (_ : MbCtx) : MbOut :=
  if s.pwr.sl == 0 then .done s rcBadState []
  else if s.hp.state = 0 then .done s rcOk []
  else if s.hp.state = 1 || !hdmReady s then .done s rcBadState []
  else .done (msixFlushAll { s with hp := { s.hp with state := 0 } }) rcOk []

/-- HOST_ATTACH. -/
def execHostAttach (m : MbWrite) (s : State) : Host.Outcome State Fault Refusal := mbox rowHostAttach bodyHostAttach m s

def rowReadHostLog : MbRow :=
  { opc := 0x45, cls := .F, group := 4, lo := 0, hi := 3, used := [mask 0 52, mask 0 17], mgmtOnly := false }

/-- READ_HOST_LOG (R417): the oldest records, removed once read. -/
def bodyReadHostLog (s : State) (c : MbCtx) : MbOut :=
  let m := c.f 1 0 17
  withOut s c (c.p 0) (32 * m) (fun write =>
    let l := s.hp.log.take m
    let s1 := write s (l.flatMap (fun e => e.2))
    .done { s1 with hp := { s1.hp with log := s1.hp.log.drop m } } rcOk
      [(0, BitVec.ofNat 64 l.length), (1, BitVec.ofNat 64 (b2n s.hp.logOver))])

/-- READ_HOST_LOG. -/
def execReadHostLog (m : MbWrite) (s : State) : Host.Outcome State Fault Refusal := mbox rowReadHostLog bodyReadHostLog m s

end Sys2Proof.Machine
end

