-- ==== Sys2Proof/Machine/Transit.lean ====
section
/-! DEFINITION. Transit (chapter 13): received flits, replays, retraining, losses, remote accesses and their answers, and
command group 5. -/

namespace Sys2Proof.Machine

/-! ### Losses (R444) -/

/-- The rank of a descriptor's split group that a chip holds. -/
def rankOfChip (s : State) (x : Desc) (chip : BitVec 12) : Option Nat :=
  ((otherRanks s x).find? (fun r => r.2 == chip)).map (fun r => r.1)

/-- The owner's command treats the rank on a chip as lost (R101, R202). -/
def cmdChipLost (s : State) (cid : Nat) (chip : BitVec 12) : State :=
  match cmdOf s cid with
  | none => s
  | some c =>
    if c.op = 0x01 then
      match jobOfCmd s cid with
      | some j => match rankOfChip s (descOf s j.desc) chip with
        | some k => lkRankLost s cid k
        | none => s
      | none => s
    else if c.op = 0x02 && c.ord != 0 && (rankOfChip s (descOf s c.plan) chip).isSome then scRankLost s cid
    else s

/-- The stream of a command. -/
def strmOfCid (s : State) (cid : Nat) : Option Nat :=
  (cmdOf s cid).bind (fun c => match c.own with | .stream n => some n | _ => none)

/-- A command or stream that its own remote access ends: with this status. -/
def accessEnd (s : State) (cid : Nat) (st : BitVec 8) : State :=
  match strmOfCid s cid with
  | some n =>
    match cmdOf s cid with
    | some c => if c.phase = .done then updCmd s cid (fun c => { c with fail := c.fail.orElse (fun _ => some st) })
      else strmAbort s n st
    | none => s
  | none => match cmdOf s cid with
    | some c => if c.phase = .fetched then failCmd s cid st else s
    | none => s

/-- The awaited answer of a tag is struck off. -/
def waitDrop (s : State) (tag : Nat) : State := { s with tr := { s.tr with wait := s.tr.wait.filter (fun w => w.1 != tag) } }

/-- What waits for the answer of a tag. -/
def waitFor (s : State) (tag : Nat) : Option RemoteFor := (s.tr.wait.find? (fun w => w.1 == tag)).map (fun w => w.2)

/-- The size in bytes that a request's `ARG` names (R437). -/
def argSize (a : W64) : Nat := fld a 44 8 + 1

/-- A remote request is lost: a read returns poisoned, a write of a stream ends it, any other write is discarded (R444). -/
def requestLost (s : State) (f : TMsg) : State :=
  match waitFor s f.tag with
  | none => s
  | some (.buf w addr) =>
    let (s1, d) := freeBytes (waitDrop s f.tag) (argSize f.arg)
    cpResume { s1 with got := s1.got ++ [{ who := w, host := false, addr := addr, data := d.map (fun b => (b, true)) }] }
  | some (.write w) =>
    let s1 := bump1 (waitDrop s f.tag) ctrChipTrWrLost
    match w with
    | .cmd cid => accessEnd s1 cid 0x31
    | _ => s1

/-- A loss is reported in CTL to a chip, for a tag of its own (R444). -/
def reportLoss (s : State) (dst : BitVec 12) (tag : Nat) : State := sendMsg s clsCtl mtLoss dst tag 0 []

/-- One lost message (R444). A message under way for another chip is reported to its source. -/
def loseMsg (s : State) (f : TMsg) : State :=
  if f.src != s.mer.fabric then reportLoss s f.src f.tag
  else if f.cls = 0 then cmdChipLost s f.tag f.dst
  else if f.cls = 2 || f.cls = 4 then requestLost s f
  else if f.cls = 6 then (if (pickLink s f).isSome then routeMsg s f else s)
  else reportLoss s f.dst f.tag

/-- A destination cannot be reached: CHIP_UNREACHABLE, once, and every command that awaits the chip ends (R444). -/
def unreachable (s : State) (chip : BitVec 12) : State :=
  if s.tr.unreachable.contains chip.toNat then s
  else
    let s1 := raiseEvent { s with tr := { s.tr with unreachable := sins s.tr.unreachable chip.toNat } } 0x0043 chip.toNat 0 0
    let s2 := s1.orr.cmds.foldl (fun t c => cmdChipLost t c.cid chip) s1
    (s2.tr.out.filter (fun f => f.dst == chip && (f.cls == 2 || f.cls == 4))).foldl requestLost s2

/-- The losses noted so far are acted on; the count bounds the rounds. -/
def lossGo : Nat → State → State
  | 0, s => s
  | k + 1, s =>
    match s.tr.lost with
    | [] => s
    | f :: fs =>
      let s1 := { s with tr := { s.tr with lost := fs } }
      let s2 := if (routeLinks s1 f.dst).isEmpty then unreachable s1 f.dst else s1
      lossGo k (loseMsg s2 f)

/-- Acts on the losses noted (R444). -/
def lossWork (s : State) : State := lossGo (2 * s.tr.lost.length + 8) s

/-- A live route makes a chip reachable again. -/
def reachAgain (s : State) : State :=
  { s with tr := { s.tr with unreachable := s.tr.unreachable.filter (fun c => (routeLinks s (BitVec.ofNat 12 c)).isEmpty) } }

/-- LOSS_REPORT (R101, R202, R444): of one command's or request's message, or of a whole chip. -/
def lossReport (s : State) (chip : BitVec 12) (tag : Option Nat) : State :=
  match tag with
  | none => lossWork (unreachable s chip)
  | some t =>
    match s.tr.out.find? (fun f => f.tag == t && f.dst == chip && (f.cls == 2 || f.cls == 4)), waitFor s t with
    | some f, some _ => lossWork (requestLost s f)
    | _, _ => lossWork (cmdChipLost s t chip)

/-- LOSS_REPORT. -/
def execLossReport (chip : BitVec 12) (tag : Option Nat) (s : State) : Host.Outcome State Fault Refusal :=
  act s (fun s => lossReport s chip tag)

/-! ### Flits (R425, R427, R428, R441) -/

/-- The partner has received flits up to a number (R427). -/
def flitAck (x : Link) (ack : Nat) : Link :=
  let keep := x.replay.filter (fun e => decide (2048 ≤ (ack + 4096 - e.1) % 4096))
  { x with replay := keep, naks := if keep.length = x.replay.length then x.naks else 0 }

/-- Credits returned (R427, R428). -/
def flitCredit (x : Link) (c : Nat × Nat × Nat) : Link :=
  let p := 2 * c.1 + c.2.1
  { x with credits := mset x.credits p (mget x.credits p 0 + c.2.2) }

/-- The sender replays out of its buffer (R441). -/
def linkReplay (s : State) (l : Nat) : State :=
  let x := linkOf s l
  bump1 (setLink s l { x with replays := x.replays + 1, naks := x.naks + 1 }) (ctrLinkTrReplay l)

/-- A received message for another chip is sent on in leg 1, or discarded (R425). -/
def forwardMsg (s : State) (f : TMsg) : State :=
  match mget? s.tr.routes f.dst.toNat with
  | some r => if f.leg = 0 && !r.hops && r.nlink != 0 then routeMsg s { f with leg := 1 } else bump1 s ctrChipTrMisroute
  | none => bump1 s ctrChipTrMisroute

/-- A message of any class but CTL wakes a parked block (R522). -/
def flitWakes (f : TFlit) : Bool := f.msgs.any (fun m => m.cls != 6)

/-- TRANSIT_FLIT (R427): the link layer. A message for this chip acts by its own row. -/
def flitArrive (s : State) (l : Nat) (f : TFlit) : State :=
  let x := linkOf s l
  if !x.up then s
  else
    let inOrder := f.seq == (x.rcvd + 1) % 4096
    let take := !f.idle && inOrder
    let x1 := f.cred.foldl flitCredit (flitAck x f.ackseq)
    let x2 := { x1 with
      rcvd := f.seq, nak := false, returned := f.msgs.foldl (fun m g => mset m (pairOf g) (mget m (pairOf g) 0 + g.len)) x1.returned }
    let s1 := bump (setLink s l (if take then x2 else x1)) (ctrLinkTrFecCe l) f.fec
    let s2 := if f.nak then linkReplay s1 l else s1
    let s3 := if take then (f.msgs.filter (fun m => m.dst != s.mer.fabric)).foldl forwardMsg s2 else s2
    let s4 := lossWork (pumpLink s3 l)
    if take && s4.pwr.park != .running && flitWakes f then wakeUp s4 else s4

/-- While frozen, replay and NAK continue, and a flit fills the receive buffer: no message moves on, no credit is returned and
nothing counts (R558). -/
def frozenFlit (s : State) (l : Nat) (f : TFlit) : State :=
  let x := linkOf s l
  if !x.up then s
  else
    let x1 := f.cred.foldl flitCredit (flitAck x f.ackseq)
    let x2 := if !f.idle && f.seq == (x.rcvd + 1) % 4096 then { x1 with rcvd := f.seq, nak := false } else x1
    setLink s l (if f.nak then { x2 with replays := x2.replays + 1, naks := x2.naks + 1 } else x2)

/-- A link layer event: while frozen it has an effect of its own (R558). -/
def linkAct (s : State) (frozen live : State → State) : Host.Outcome State Fault Refusal :=
  if s.err.frozen && s.pwr.pllLock && !s.pwr.pllLost then .next (frozen s) else act s live

/-- TRANSIT_FLIT. -/
def execTransitFlit (l : Fin 48) (f : TFlit) (s : State) : Host.Outcome State Fault Refusal :=
  linkAct s (fun s => frozenFlit s l f) (fun s => flitArrive s l f)

/-- TRANSIT_NAK (R441): for a flit that this chip sent, it replays; a flit that it received is dropped, and NAK goes out. -/
def execTransitNak (l : Fin 48) (sent : Bool) (s : State) : Host.Outcome State Fault Refusal :=
  let nak (replay : State → State) (s : State) : State :=
    if !(linkOf s l).up then s else if sent then replay s else setLink s l { linkOf s l with nak := true }
  linkAct s (nak (fun s => { linkReplay s l with ctrs := s.ctrs })) (nak (fun s => linkReplay s l))

/-- A link goes down: what its unacknowledged flits held is lost, and what it had not sent takes another link (R443,
R444). -/
def linkDown (s : State) (l : Nat) : State :=
  let x := linkOf s l
  let s1 := setLink s l { Link.reset with down := true, partner := x.partner }
  let s2 := raiseEvent (bump1 { s1 with tr := { s1.tr with lost := s1.tr.lost ++ x.replay.map (fun e => e.2) } }
    (ctrLinkTrDown l)) 0x0042 l 0 0
  let s3 := x.sendq.foldl routeMsg s2
  -- every route entry whose last live link this was
  let dead := s3.tr.routes.filter (fun e => (e.2.links.take e.2.nlink).contains l && (routeLinks s3 (BitVec.ofNat 12 e.1)).isEmpty)
  lossWork (dead.foldl (fun t e => unreachable t (BitVec.ofNat 12 e.1)) s3)

/-- TRANSIT_RETRAIN (R428, R442, R443): the link runs at the width reached, or is down. -/
def linkRetrain (s : State) (l width : Nat) : State :=
  let x := linkOf s l
  if !x.up then s
  else if width != 8 && width != 4 && width != 2 then linkDown s l
  else
    let s1 := setLink s l { x with width := width, naks := 0, replays := 0, shares := s.tr.shares }
    if width = 8 then s1
    else raiseEvent (bump1 s1 (ctrLinkTrDegraded l)) 0x0041 l (BitVec.ofNat 64 width) 0

/-- TRANSIT_RETRAIN. -/
def execTransitRetrain (l : Fin 48) (width : Nat) (s : State) : Host.Outcome State Fault Refusal :=
  act s (fun s => linkRetrain s l width)

/-- Class 7, or a type that the class does not define (R429, R437; types of IFO, PFI and CTL: log entry 30). -/
def reservedMsg (f : TMsg) : Bool :=
  let t := f.mtype.toNat
  if f.cls = 0 then decide (2 < t)
  else if f.cls = 1 then t != 0
  else if f.cls = 2 then decide (1 < t)
  else if f.cls = 4 then decide (2 < t)
  else if f.cls = 3 || f.cls = 5 then decide (t < 8) || decide (10 < t)
  else if f.cls = 6 then decide (10 < t)
  else true

/-- TRANSIT_RESERVED_MESSAGE (R429). -/
def execTransitReservedMessage (f : TMsg) (s : State) : Host.Outcome State Fault Refusal :=
  act s (fun s => if reservedMsg f then bump1 s ctrChipTrProtoErr else s)

/-! ### Remote accesses at this chip (R436 to R439) -/

/-- The window that a request names, when it permits the access (R438). -/
def windowOk (s : State) (f : TMsg) (right : Nat) : Option RWindow :=
  match mget? s.tr.windows (fld f.arg 0 8) with
  | none => none
  | some w =>
    if w.v && decide (fld f.arg 8 36 + argSize f.arg ≤ w.len * 0x200000) &&
        (if right = 0 then w.rd else if right = 1 then w.wr else w.at') && (w.src == 0xFFF || w.src == f.src) then some w
    else none

/-- The device physical address of a permitted request. -/
def windowPa (w : RWindow) (f : TMsg) : Nat := w.lbase * 0x200000 + fld f.arg 8 36

/-- An answer to a remote request, in the response class (R431, R437). -/
def remoteReply (s : State) (f : TMsg) (mtype : Nat) (data : List Byte) (poison : List Bool) : State :=
  let g : TMsg := {
    cls := f.cls + 1, leg := 0, dst := f.src, src := s.mer.fabric, mtype := BitVec.ofNat 4 mtype,
    len := 1 + (data.length + 15) / 16, tag := f.tag, arg := f.arg, payload := data, poison := poison }
  transitSend s g

/-- A rejected request (R438). -/
def remoteReject (s : State) (f : TMsg) : State := remoteReply (bump1 s ctrChipTrRwRej) f 0xA [] []

/-- A message that reaches a parked or restarting block waits for it (R522). -/
def transitWaits (s : State) (f : TMsg) (w : Option RWindow) (k : State → State) : State :=
  if s.pwr.park != .running then wakeUp (hold s (.remote f w))
  else if s.pwr.restart == .running then hold s (.remote f w)
  else k s

/-- A remote request arrives, under the window entry as it stands (R436). -/
def remoteArrive (right : Nat) (f : TMsg) (serve : Option RWindow → State → State) (s : State) :
    Host.Outcome State Fault Refusal :=
  let w := windowOk s f right
  actKeep s (.remote f w) (fun s => if mustWait s (.remote f w) then hold s (.remote f w) else serve w s)

/-- REMOTE_RD (R437, R438). -/
def remoteRead (s : State) (f : TMsg) (ow : Option RWindow) : State :=
  transitWaits s f ow (fun s =>
    match ow with
    | none => remoteReject s f
    | some w =>
      let p : Piece := { host := false, pa := windowPa w f, len := argSize f.arg, hint := w.hint, va := 0, ent := 0 }
      let (s1, d) := readTier s p
      remoteReply s1 f 8 (d.map (fun b => b.1)) (sectorMarks p.pa d))

/-- REMOTE_RD. -/
def execRemoteRd (f : TMsg) (s : State) : Host.Outcome State Fault Refusal :=
  remoteArrive 0 f (fun w s => remoteRead s f w) s

/-- The bytes of a remote write, none where the mask keeps the old one (R437). -/
def remoteBytes (pa n : Nat) (f : TMsg) : List (Option (Byte × Bool)) :=
  let k := (pa % 32 + n + 31) / 32
  (List.range n).map (fun i =>
    let o := pa % 32 + i
    if (numAt f.payload (4 * (o / 32)) 4).testBit (o % 32) then
      some ((f.payload.getD (4 * k + i) 0), f.poison.getD (o / 32) false)
    else none)

/-- Writes runs of bytes that the mask selects; the count bounds them. -/
def writeRuns (hint : BitVec 2) : Nat → State → Nat → List (Option (Byte × Bool)) → State
  | 0, s, _, _ => s
  | k + 1, s, pa, l =>
    match l with
    | [] => s
    | none :: r => writeRuns hint k s (pa + 1) r
    | some b :: r =>
      let run := b :: (r.takeWhile (fun x => x.isSome)).filterMap id
      writeRuns hint k (writeMarkedGo hint (run.length / 64 + 2) s pa run) (pa + run.length) (l.drop run.length)

/-- REMOTE_WR (R437, R438). -/
def remoteWrite (s : State) (f : TMsg) (ow : Option RWindow) : State :=
  transitWaits s f ow (fun s =>
    match ow with
    | none => remoteReject s f
    | some w =>
      let l := remoteBytes (windowPa w f) (argSize f.arg) f
      remoteReply (writeRuns w.hint (l.length + 1) s (windowPa w f) l) f 9 [] [])

/-- REMOTE_WR. -/
def execRemoteWr (f : TMsg) (s : State) : Host.Outcome State Fault Refusal :=
  remoteArrive 1 f (fun w s => remoteWrite s f w) s

/-- REMOTE_AT (R437, R438): AT in RREQ, and a reserved opcode, are discarded (log entry 45). -/
def remoteAtomic (s : State) (f : TMsg) (ow : Option RWindow) : State :=
  transitWaits s f ow (fun s =>
    if f.cls != 4 || decide (2 ≤ fld f.arg 52 2) then bump1 s ctrChipTrProtoErr
    else match ow with
      | none => remoteReject s f
      | some w =>
        let (s1, old, bad) := atomicTier s (windowPa w f) (fld f.arg 52 2 == 1) f.payload w.hint
        remoteReply s1 f 8 old [bad])

/-- REMOTE_AT. -/
def execRemoteAt (f : TMsg) (s : State) : Host.Outcome State Fault Refusal :=
  remoteArrive 2 f (fun w s => remoteAtomic s f w) s

/-! ### Answers to this chip's remote accesses (R437 to R439) -/

/-- REMOTE_DATA (R437): the data reach the one who asked. -/
def remoteData (s : State) (f : TMsg) : State :=
  match waitFor s f.tag with
  | some (.buf w addr) =>
    let d := f.payload.zipIdx.map (fun x => (x.1, f.poison.getD ((addr % 32 + x.2) / 32) false))
    let s1 := waitDrop s f.tag
    cpResume { s1 with got := s1.got ++ [{ who := w, host := false, addr := addr, data := d }] }
  | _ => s

/-- REMOTE_DATA. -/
def execRemoteData (f : TMsg) (s : State) : Host.Outcome State Fault Refusal := act s (fun s => remoteData s f)

/-- REMOTE_ACK (R439). -/
def execRemoteAck (f : TMsg) (s : State) : Host.Outcome State Fault Refusal :=
  act s (fun s => match waitFor s f.tag with
    | some (.write _) => waitDrop s f.tag
    | _ => s)

/-- REMOTE_ERR (R438): a stream or command ends with PROTECTION_FAULT; a request of the dense engines fails; a mailbox
buffer reads poisoned. -/
def remoteError (s : State) (f : TMsg) : State :=
  match waitFor s f.tag with
  | none => s
  | some x =>
    let s1 := waitDrop s f.tag
    match x with
    | .buf (.cmd cid) _ => accessEnd s1 cid 0x11
    | .write (.cmd cid) => accessEnd s1 cid 0x11
    | .buf (.cp id) _ =>
      match s1.str.cpWait.find? (fun w => w.1.id == id) with
      | some w => cpFail (bump1 s1 ctrChipCpRemoteErr) w.1
      | none => s1
    | .write (.cp _) => bump1 s1 ctrChipCpRemoteErr
    | .buf (.chan c) addr =>
      let (s2, d) := freeBytes s1 (argSize f.arg)
      { s2 with got := s2.got ++ [{ who := .chan c, host := false, addr := addr, data := d.map (fun b => (b, true)) }] }
    | .write (.chan _) => s1

/-- REMOTE_ERR. -/
def execRemoteErr (f : TMsg) (s : State) : Host.Outcome State Fault Refusal := act s (fun s => remoteError s f)

/-! ### Command group 5 (R509) -/

def rowSetFabricId : MbRow :=
  { opc := 0x50, cls := .F, group := 5, lo := 0, hi := 0, used := [mask 0 12], mgmtOnly := false }

/-- SET_FABRIC_ID (R422). -/
def bodySetFabricId (s : State) (c : MbCtx) : MbOut :=
  if c.f 0 0 12 = 0xFFF then .done s rcInvalid []
  else .done { s with mer := { s.mer with fabric := BitVec.ofNat 12 (c.f 0 0 12) } } rcOk []

/-- SET_FABRIC_ID. -/
def execSetFabricId (m : MbWrite) (s : State) : Host.Outcome State Fault Refusal := mbox rowSetFabricId bodySetFabricId m s

def rowSetRoute : MbRow :=
  { opc := 0x51, cls := .F, group := 5, lo := 0, hi := 3, used := [mask 0 16, mask 0 24], mgmtOnly := false }

/-- SET_ROUTE (R423): at most 4 links, each used one below 48. -/
def bodySetRoute (s : State) (c : MbCtx) : MbOut :=
  let n := c.f 0 12 3
  let ls := (List.range 4).map (fun i => c.f 1 (6 * i) 6)
  if 4 < n || (ls.take n).any (fun l => decide (48 ≤ l)) then .done s rcInvalid []
  else .done (reachAgain { s with tr := { s.tr with
    routes := mset s.tr.routes (c.f 0 0 12) { nlink := n, hops := bit (c.a 0) 15, links := ls } } }) rcOk []

/-- SET_ROUTE. -/
def execSetRoute (m : MbWrite) (s : State) : Host.Outcome State Fault Refusal := mbox rowSetRoute bodySetRoute m s

def rowSetTransitPolicy : MbRow :=
  { opc := 0x52, cls := .F, group := 5, lo := 0, hi := 3, used := [mask 0 24, mask 0 56, mask 0 42], mgmtOnly := false }

/-- SET_TRANSIT_POLICY (R428, R432): weights at once, shares at each link's next training. -/
def bodySetTransitPolicy (s : State) (c : MbCtx) : MbOut :=
  let ws := (List.range 6).map (fun i => c.f 0 (4 * i) 4)
  let sh := (List.range 8).map (fun i => c.f 1 (7 * i) 7) ++ (List.range 6).map (fun i => c.f 2 (7 * i) 7)
  if ws.any (fun w => w == 0) || sh.any (fun x => decide (x < 4) || decide (64 < x)) || decide (224 < sh.sum) then
    .done s rcInvalid []
  else .done { s with tr := { s.tr with weights := ws, shares := sh } } rcOk []

/-- SET_TRANSIT_POLICY. -/
def execSetTransitPolicy (m : MbWrite) (s : State) : Host.Outcome State Fault Refusal :=
  mbox rowSetTransitPolicy bodySetTransitPolicy m s

def rowSetRemoteSlot : MbRow :=
  { opc := 0x53, cls := .F, group := 5, lo := 0, hi := 3, used := [mask 0 8, mask 0 21], mgmtOnly := false }

/-- SET_REMOTE_SLOT (R435). -/
def bodySetRemoteSlot (s : State) (c : MbCtx) : MbOut :=
  let e : Slot := { v := bit (c.a 1) 0, dchip := BitVec.ofNat 12 (c.f 1 1 12), rwin := c.f 1 13 8 }
  .done { s with tr := { s.tr with slots := mset s.tr.slots (c.f 0 0 8) e } } rcOk []

/-- SET_REMOTE_SLOT. -/
def execSetRemoteSlot (m : MbWrite) (s : State) : Host.Outcome State Fault Refusal :=
  mbox rowSetRemoteSlot bodySetRemoteSlot m s

def rowSetRemoteWindow : MbRow :=
  { opc := 0x54, cls := .F, group := 5, lo := 0, hi := 3, used := [mask 0 8, mask 0 18, mask 0 43], mgmtOnly := false }

/-- SET_REMOTE_WINDOW (R436, R536; log entry 41). -/
def bodySetRemoteWindow (s : State) (c : MbCtx) : MbOut :=
  let w : RWindow := {
    v := bit (c.a 1) 0, rd := bit (c.a 1) 1, wr := bit (c.a 1) 2, at' := bit (c.a 1) 3, hint := BitVec.ofNat 2 (c.f 1 4 2),
    src := BitVec.ofNat 12 (c.f 1 6 12), lbase := c.f 2 0 27, len := c.f 2 27 16 }
  let a := w.lbase * 0x200000
  let n := w.len * 0x200000
  let put : MbOut := .done { s with tr := { s.tr with windows := mset s.tr.windows (c.f 0 0 8) w } } rcOk []
  if s.pwr.sl == 0 && s.mer.layout.isNone then .done s rcBadState []
  else if !w.v then put
  else if w.len == 0 || decide (32768 < w.len) || !inTiers a n then .done s rcInvalid []
  else if protectedArea s a n then .done s rcInUse []
  else put

/-- SET_REMOTE_WINDOW. -/
def execSetRemoteWindow (m : MbWrite) (s : State) : Host.Outcome State Fault Refusal :=
  mbox rowSetRemoteWindow bodySetRemoteWindow m s

end Sys2Proof.Machine
end

