-- ==== Sys2Proof/Machine/Boot.lean ====
section
/-! DEFINITION. Bring-up from SL0 to SL3, stacks that join and fail, and the recovery of the Almanac (R292, R331, R440,
R537 to R543). -/

namespace Sys2Proof.Machine

/-! ### SL1 (R315, R331 step 1, R440, R540 step 5) -/

/-- A companion port trains; a Lyush that kept its DRAM in self-refresh leaves it (R315, R331). -/
def portBringUp (s : State) (k lanes : Nat) : State :=
  let s1 := portTrained s k lanes
  setLy s1 k { lyOf s1 k with selfRef := (lyOf s1 k).selfRef && lanes == 0 }

/-- Credits that a link starts with: a partner's default share of 16 KiB for each pair (R428; log entry 47). -/
def linkCredits : FMap Nat := (List.range 14).map (fun p => (p, 1024))

/-- One link of the module's link map trains; a partner other than the map's is refused (R440, R442). -/
def linkBringUp (s : State) (l : Nat) (t : LinkTrain) : State :=
  match t.want with
  | none => s
  | some (chip, num) =>
    if t.width != 8 && t.width != 4 && t.width != 2 then linkDown s l
    else if t.chip != chip || t.link != num then
      raiseEvent s 0x0040 l (BitVec.ofNat 64 (t.chip.toNat + t.link.toNat * 2 ^ 12)) 0
    else
      let s1 := setLink s l { Link.reset with
        up := true, width := t.width, partner := t.chip, credits := linkCredits, shares := s.tr.shares }
      if t.width = 8 then s1
      else raiseEvent (bump1 s1 (ctrLinkTrDegraded l)) 0x0041 l (BitVec.ofNat 64 t.width) 0

/-- The layout that is in force from SL1 on: the defaults where none was given (R511). -/
def layoutFix (s : State) : State :=
  match s.mer.layout with
  | some _ => s
  | none =>
    let s1 := { s with mer := { s.mer with layout := some Layout.default } }
    saveNvm (if s.pwr.fullSr then s1 else layoutStripes s1)

/-- SL1_ENTRY (R535, R539, R540). -/
def sl1Entry (s : State) (lanes : List Nat) (links : List LinkTrain) : State :=
  if !merUp s || s.pwr.sl != 0 then s
  else
    let s1 := layoutFix s
    let s2 := (lanes.take 8).zipIdx.foldl (fun t x => portBringUp t x.2 x.1) s1
    let s3 := (links.take 48).zipIdx.foldl (fun t x => linkBringUp t x.2 x.1) s2
    { s3 with pwr := { s3.pwr with sl := 1 } }

/-- SL1_ENTRY. -/
def execSl1Entry (lanes : List Nat) (links : List LinkTrain) (s : State) : Host.Outcome State Fault Refusal :=
  act s (fun s => sl1Entry s lanes links)

/-! ### Stacks (R304, R327, R331 step 2, R542) -/

/-- The stack's cells hold zero, with valid check bytes (R331 step 2.4). -/
def zeroStack (s : State) (k : Nat) : State :=
  let off (a : Nat) : Bool := !(decide (a < tierFEnd) && pchOf s a / 64 == k)
  { s with mem := { s.mem with
      cells := s.mem.cells.filter (fun c => off c.1),
      poisF := s.mem.poisF.filter (fun x => off (x * 32)), ueF := s.mem.ueF.filter (fun x => off (x * 32)) } }

/-- One row of the repair log is applied (R324): hard repair where the bank has a resource for it, else soft repair. -/
def repairApply (x : Stack) (r : Repair) : Stack × Repair :=
  let k := resKey (r.pch, r.bank, r.row)
  if r.hard then (x, r)
  else if 0 < mget x.hard k 0 then ({ x with hard := mset x.hard k (mget x.hard k 0 - 1) }, { r with hard := true })
  else (softUse x (r.pch, r.bank, r.row), r)

/-- The stack's part of the repair log is applied at a block reset (R324), with the resources that Meridian reads. -/
def repairsApply (s : State) (k : Nat) (t : StackTrain) : State :=
  let (x, log) := s.mc.repairLog.foldl (fun (acc : Stack × List Repair) r =>
      if r.stack = k then
        let (y, q) := repairApply acc.1 r
        (y, acc.2 ++ [q])
      else (acc.1, acc.2 ++ [r]))
    ({ stackOf s k with hard := t.hard, soft := t.soft, softRows := [] }, [])
  { s with mc := { s.mc with stk := mset s.mc.stk k x, repairLog := log } }

/-- The spare lanes suffice in every pseudo-channel (R327). -/
def lanesOk (t : StackTrain) : Bool := t.failed.all (fun n => decide (n ≤ t.spare))

/-- A stack's training (R327): spare lanes stand in for failed ones, which Meridian logs; it joins when they suffice. -/
def stackTrained (s : State) (k : Nat) (t : StackTrain) : State :=
  if !lanesOk t then { s with mc := { s.mc with stk := mset s.mc.stk k { stackOf s k with inService := false } } }
  else
    { s with mc := { s.mc with
        stk := mset s.mc.stk k { stackOf s k with inService := true, temp := t.temp, lanes := t.failed },
        laneLog := if t.failed.all (fun n => n == 0) then s.mc.laneLog else s.mc.laneLog ++ [(k, t.failed)] } }

/-- STACK_JOIN: stacks come up one at a time from stack 0, whose start is the entry to SL2 (R331, R540 step 7). -/
def stackJoin (s : State) (k : Nat) (t : StackTrain) : State :=
  if !merUp s || (s.pwr.sl != 1 && s.pwr.sl != 2) || s.mc.tried.length != k then s
  else
    let s1 := { s with pwr := { s.pwr with sl := 2 }, mc := { s.mc with tried := s.mc.tried ++ [k], selfRef := false } }
    if !t.identity then s1
    else
      let s2 := repairsApply s1 k t
      stackTrained (if !lanesOk t || s2.pwr.fullSr then s2 else zeroStack s2 k) k t

/-- STACK_JOIN. -/
def execStackJoin (k : Fin 6) (t : StackTrain) (s : State) : Host.Outcome State Fault Refusal :=
  act s (fun s => stackJoin s k t)

/-- A stack leaves service (R304, R542). -/
def stackOut (s : State) (k : Nat) : State :=
  { s with mc := { s.mc with stk := mset s.mc.stk k { stackOf s k with inService := false } } }

/-- STACK_ABSENT (R304, R542): the level stays. -/
def execStackAbsent (k : Fin 6) (s : State) : Host.Outcome State Fault Refusal :=
  act s (fun s => if (stackOf s k).inService then stackOut s k else s)

/-! ### Recovery of the Almanac (R292) -/

/-- One journal record: the slot that it frees. A record whose flip had not been made frees its shadow slot. -/
def journalUndo (s : State) (j : JRec) : State :=
  let old (s : State) : State := match j.old with
    | some a => freeSlot s a
    | none => s
  match j.stage with
  | .flipped => old s
  | .retired => old s
  | _ =>
    match probe s j.desc j.row with
    | (s1, some p) => if p.ent.slot * 32 = j.shadow then old s1 else freeSlot s1 j.shadow
    | (s1, none) => freeSlot s1 j.shadow

/-- Journals are processed, and every retire list is emptied to the free lists. -/
def journalRecover (s : State) : State :=
  let s1 := s.alm.journal.foldl journalUndo s
  let s2 := s1.alm.retire.foldl (fun t r => freeSlot t r.addr) s1
  { s2 with alm := { s2.alm with journal := [], retire := [], copies := [] } }

/-- A slot header that R47 accepts against its entry. -/
def headerFits (x : Desc) (e : AEnt) (h : List Byte) : Bool :=
  slPop h && slNblk h == x.cols / 32 && slClass h == e.wclass && (slClass h == 0 || cbNum x (slClass h) != 0xFFFF) && slVersion h == e.version && decide (x.widest ≤ slClass h) &&
    (slClass h != 0 || slEsc h == 0)

/-- One VALID entry is checked against its slot's header; one that fails is demoted, and a slot that reads poisoned is
left as R47 leaves it. -/
def entryCheck (s : State) (p : APlace) : State :=
  let (s1, h, bad) := readExt s (p.ent.slot * 32) 8 (if p.ent.keep then 2 else 0)
  if bad.any id || headerFits (descOf s p.ent.desc) p.ent h then s1
  else demoteRow s1 p.ent.desc p.ent.row p.ent.wclass false

/-- The Almanac is validated, and its entries counted anew. -/
def almValidate (s : State) : State :=
  let s1 := (almEntries s (fun e => e.state == 1)).foldl entryCheck s
  { s1 with alm := { s1.alm with count := (almEntries s1 (fun e => e.state == 1)).length } }

/-! ### SL3 (R537, R541, R543) -/

/-- The command cannot complete before SL3: it is held, it stands behind a held command of its queue, or it is a launch
whose nodes in flight are all held (log entry 48). -/
def heldBack (s : State) (c : Cmd) : Bool :=
  c.phase == .held ||
    (c.phase == .fetched &&
      s.orr.cmds.any (fun d => d.q == c.q && decide (d.seq < c.seq) && d.phase == .held) && (isControl c || !mayStart s c)) ||
    (c.op == 0x09 && c.phase == .running &&
      (let ns := s.orr.cmds.filter (fun d => match d.own with | .node l _ => l == c.cid | _ => false)
       !ns.isEmpty && ns.all (fun d => d.phase == .held)))

/-- Every stack is IN_SERVICE. -/
def stacksUp (s : State) : Bool := (List.range 6).all (fun k => (stackOf s k).inService)

/-- Held commands are released in the order of their fetch (R541 step 5). -/
def releaseHeld (s : State) : State :=
  { s with orr := { s.orr with cmds := s.orr.cmds.map (fun c => if c.phase = .held then { c with phase := .fetched } else c) } }

/-- After a cold reset the descriptor and codebook regions are copied, the Almanac region is EMPTY, and the pool is cut into slots (R250, R541
step 3). -/
def sl3Cold (s : State) : State :=
  let s1 := s.tabs.descs.foldl (fun t e => putDesc t e.1 e.2) s
  let s2 := s1.tabs.cbs.foldl (fun t e => writeExt t (cbBase t + 1024 * e.1) (cbRecord e.1 e.2) 0 false) s1
  let s3 := zeroExt s2 (almBase s2) (almBytes (layoutOf s2))
  cutPool { s3 with alm := { s3.alm with used := [], retire := [], journal := [], copies := [], count := 0 } }

/-- SL3_TRANSITION (R541). -/
def sl3Transition (s : State) : State :=
  if !merUp s || s.pwr.sl != 2 || !stacksUp s || !s.orr.cmds.all (heldBack s) then s
  else
    let s1 := { s with pwr := { s.pwr with sl := 3 }, mc := { s.mc with patrol := true } }
    let s2 := if s1.pwr.fullSr then almValidate (journalRecover s1) else sl3Cold s1
    releaseHeld { s2 with hp := { s2.hp with aper := s2.hp.aper && s2.hp.aperMgmt } }

/-- SL3_TRANSITION. -/
def execSl3Transition (s : State) : Host.Outcome State Fault Refusal := act s sl3Transition

end Sys2Proof.Machine
end

