-- ==== Sys2Proof/Machine/Plans.lean ====
section
/-! DEFINITION. PLAN_STORE and PLAN_PATCH (R463, R464, R510). -/

namespace Sys2Proof.Machine

/-- A node's descriptor passes step 1 of its own validation (R113, R175, R273, R277, R389, R456, R463); a condition on the
table is looked at where the table resolves. -/
def nodeStep1 (s : State) (c : Cmd) : Bool :=
  if c.op = 0x01 then
    lkFields c && lkStreamOk s c &&
      (match liveDesc s (c.f 0 8 12) with | some (_, x) => decide (lkRecord c x ≤ lkStride c) | none => true)
  else if c.op = 0x02 then
    scFields c && scStreamOk s c &&
      (match liveDesc s (c.f 0 8 12) with | some (_, x) => decide (4 * (x.ranks * x.cols) ≤ scStride c) | none => true)
  else if c.op = 0x03 then
    rpFields c && (match rpResolve s c with | some (_, x) => rpClassOk s c x | none => true)
  else if c.op = 0x04 then swFields c
  else if c.op = 0x05 || c.op = 0x06 then extCmdOk c
  else controlOk c

/-- The node may stand in a plan: its opcode is one of a queue command's, LAUNCH left out (R463). -/
def nodeOk (s : State) (n : Node) : Bool :=
  let c := Cmd.new 0 0 0 .queue n.words false 0 0
  decide (1 ≤ c.op) && decide (c.op ≤ 0x0A) && c.op != 0x09 && nodeStep1 s c

/-- Size of the plan area in force (R511, R539). -/
def planArea (s : State) : Nat := if s.pwr.sl = 3 then (layoutOf s).plans else 2 ^ 26

/-- The version is committed when every node may stand in it and it has room (R463, R464). -/
def planPut (s : State) (p : Nat) (nodes : List Node) : MbOut :=
  if !nodes.all (nodeOk s) then .done s rcInvalid []
  else
    let (t, v) := planCommit s p nodes
    if 4 < ((mget? t.orr.plans p).map (fun x => x.vers.length)).getD 0 then .done s rcPlanBusy []
    else if planArea s < planBytes t then .done s rcNoSpace []
    else .done t rcOk [(0, BitVec.ofNat 64 v.toNat)]

/-- The nodes of a buffer, none when a header breaks R463. -/
def nodesOf (l : List Byte) (n : Nat) : Option (List Node) :=
  (List.range n).mapM (fun i => nodeOfBytes i (bytesAt l (80 * i) 80))

def rowPlanStore : MbRow :=
  { opc := 0x62, cls := .F, group := 6, lo := 1, hi := 3, used := [mask 0 8, mask 0 52, mask 0 11], mgmtOnly := false }

/-- PLAN_STORE (R463, R464, R510). -/
def bodyPlanStore (s : State) (c : MbCtx) : MbOut :=
  let n := c.f 2 0 11
  if n == 0 || decide (1024 < n) then .done s rcInvalid [] else
  withBuf s c (c.p 1) (80 * n) (fun s l =>
    match nodesOf l n with
    | none => .done s rcInvalid []
    | some nodes => planPut s (c.f 0 0 8) nodes)

/-- PLAN_STORE. -/
def execPlanStore (m : MbWrite) (s : State) : Host.Outcome State Fault Refusal := mbox rowPlanStore bodyPlanStore m s

/-- One patch entry of 96 bytes applied to a list of nodes: index, 14 zero bytes, node (R510). -/
def patchOne (nodes : List Node) (e : List Byte) : Option (List Node) :=
  let i := numAt e 0 2
  if !((e.drop 2).take 14).all (fun b => b == 0) || decide (nodes.length ≤ i) then none
  else (nodeOfBytes i (bytesAt e 16 80)).map (fun n => lset nodes i n)

/-- Patch entries in order. -/
def patchAll : List Node → List (List Byte) → Option (List Node)
  | nodes, [] => some nodes
  | nodes, e :: l => (patchOne nodes e).bind (fun ns => patchAll ns l)

/-- The current version of a plan (R464). -/
def planCurrent (s : State) (p : Nat) : Option (Plan × PlanVer) :=
  match mget? s.orr.plans p with
  | none => none
  | some pl => if pl.dropped then none else pl.vers.getLast?.map (fun v => (pl, v))

def rowPlanPatch : MbRow :=
  { opc := 0x63, cls := .F, group := 6, lo := 1, hi := 3, used := [mask 0 8, mask 0 52, mask 0 11], mgmtOnly := false }

/-- PLAN_PATCH (R464, R510): the current version with the listed nodes replaced, validated whole. -/
def bodyPlanPatch (s : State) (c : MbCtx) : MbOut :=
  let p := c.f 0 0 8
  let n := c.f 2 0 11
  if n == 0 || decide (1024 < n) then .done s rcInvalid [] else
  match planCurrent s p with
  | none => .done s rcNotFound []
  | some (pl, v) =>
    if 4 ≤ pl.vers.length then .done s rcPlanBusy []
    else withBuf s c (c.p 1) (96 * n) (fun s l =>
      match patchAll v.nodes ((List.range n).map (fun i => bytesAt l (96 * i) 96)) with
      | none => .done s rcInvalid []
      | some nodes => planPut s p nodes)

/-- PLAN_PATCH. -/
def execPlanPatch (m : MbWrite) (s : State) : Host.Outcome State Fault Refusal := mbox rowPlanPatch bodyPlanPatch m s

end Sys2Proof.Machine
end

