-- ==== Sys2Proof/Machine/Restart.lean ====
section
/-! DEFINITION. Block restart (R245, R292, R355, R419, R479, R480, R500, R543), the errors that order one (R545, R546), and
entry into Park (R519, R520). -/

namespace Sys2Proof.Machine

/-! ### The start of a restart (R419, R479 steps 1 to 3, R500) -/

/-- A companion port closes: updates not begun are discarded, acknowledgements on the link are lost, and the companion
places its DRAM in self-refresh (R245, R330). -/
def portClose (s : State) (k : Nat) : State :=
  setLy s k { lyOf s k with
    updq := [], flying := [], batches := [], dones := [], acks := [], racks := [], outstanding := 0, answers := [], wrAcks := 0,
    srDones := 0, healths := [], pendCtx := [], pendPset := [], selfRef := true }

/-- Kept class-L commands that have begun end with ABORTED_BY_RESET (R500). -/
def endKept (s : State) : State :=
  let begun (h : Held) : Bool := match h with | .mailbox _ o _ _ turn => classL o && turn != .queued | _ => false
  (keptL s (List.range 256) (fun _ => true)).foldl (fun t ch => mbComplete t ch rcReset [])
    { s with pwr := { s.pwr with held := s.pwr.held.filter (fun h => !begun h) } }

/-- Running class-L commands end with ABORTED_BY_RESET, the ports close, the memories go to self-refresh, and every
snoop-filter entry is back-invalidated (R330, R419, R500). -/
def beginRestart (s : State) : State :=
  let s1 := endKept (endRuns s (fun r => match r with | .restart _ => false | _ => true) lrunChan rcReset [])
  let s2 := (List.range 8).foldl portClose
    { s1 with pwr := { s1.pwr with restart := .running }, mc := { s1.mc with selfRef := true } }
  sendSnoops s2 (s2.rc.snoop.map (fun e => e.1))

/-- A restart is ordered; while parked it follows the wake that its order causes (R524), and a command of class F or S that
has begun completes first (R500). One under way takes the order in (R534). -/
def orderRestart (s : State) : State :=
  if s.pwr.restart != .none then s
  else if s.pwr.park != .running then wakeUp { s with pwr := { s.pwr with restart := .afterWake } }
  else if fsBegun s then { s with pwr := { s.pwr with restart := .ordered } }
  else beginRestart s

/-- RESET_LINE_RESTART (R533, R534): as FULL while the PLL has lost lock. It needs Meridian (R497). -/
def execResetLineRestart (s : State) : Host.Outcome State Fault Refusal :=
  .next (if s.pwr.pllLost || !s.pwr.pllLock then resetFull s
    else if s.err.frozen || !merUp s then s else orderRestart s)

def rowBlockRestart : MbRow := { opc := 0x73, cls := .L, group := 7, lo := 1, hi := 3, used := [], mgmtOnly := false }

/-- BLOCK_RESTART (R479, R500): one issued during a restart completes with it. -/
def bodyBlockRestart (s : State) (c : MbCtx) : MbOut :=
  .wait (orderRestart s) (.restart c.ch)

/-- BLOCK_RESTART. -/
def execBlockRestart (m : MbWrite) (s : State) : Host.Outcome State Fault Refusal :=
  mbox rowBlockRestart bodyBlockRestart m s

/-! ### The end of a restart (R479 steps 3 to 8, R480) -/

/-- Lines of the host line cache in state M go to the host, and the cache is empty (R419). -/
def hostCacheClean (s : State) : State :=
  let s1 := s.hp.lines.foldl (fun t e => if e.2.st = .modified then dirtyEvict t e.2 else t) s
  { s1 with hp := { s1.hp with lines := [], trees := [] } }

/-- Row cache and host line cache are cleaned and invalidated, the snoop filters cleared (R355, R419). A CACHE_DISABLE that
was cleaning leaves the cache disabled and empty. -/
def restartClean (s : State) : State :=
  let s1 := cleanAll (hostCacheClean s)
  { s1 with rc := { s1.rc with
      trees := [], mshr := [], mret := [], biWait := [], snoop := [], biSent := [], cleaning := false,
      done := s1.rc.done || s1.rc.cleaning } }

/-- Self-refresh ends, and the stacks in service and the ports that are up retrain (R327, R331, R479 step 6): a port that
is down waits for a block reset (R316). -/
def restartTrain (s : State) (trains : List StackTrain) (lanes : List Nat) : State :=
  let s1 := (trains.take 6).zipIdx.foldl (fun t x =>
    if !(stackOf t x.2).inService then t else if x.1.identity then stackTrained t x.2 x.1 else stackOut t x.2) s
  let s2 := (lanes.take 8).zipIdx.foldl (fun t x => if portUp t x.2 then portBringUp t x.2 x.1 else t) s1
  { s2 with mc := { s2.mc with selfRef := s2.mc.selfRef && !(List.range 6).any (fun k => (stackOf s k).inService) } }

/-- Contexts, programs, parameter sets and codebooks of the companions are loaded again (R479 step 7). -/
def reloadLy (s : State) : State :=
  allLy s (fun _ l => { l with
    progs := s.tabs.progs, psets := s.tabs.psets, cbs := s.tabs.cbs,
    ctx := s.tabs.descs.foldl (fun m e =>
      if 2 ≤ e.2.dstate || (mget? l.ctx e.1).isSome then mset m e.1 (ctxOfDesc e.2) else m) l.ctx })

/-- Rows whose tier-F copy may be behind the master: those of the recent-commit lists, and those of COPYs that had not
been installed (R245). -/
def staleRows (s : State) : List RowStep :=
  (List.range 8).flatMap (fun k => if portUp s k then (lyOf s k).recent else []) ++
    s.alm.copies.map (fun c => { desc := c.1, row := c.2.1, step := 0 }) ++
    (List.range 8).flatMap (fun k => (lyOf s k).copies.map (fun c => { desc := c.1, row := c.2.1, step := 0 }))

/-- Meridian's recovery (R245, R292, R479 step 7). -/
def restartRecover (s : State) : State :=
  let rows := staleRows s
  let s1 := reloadLy s
  let s2 := { s1 with ly := mmap s1.ly (fun k l => { l with copies := [], recent := if portUp s k then [] else l.recent }) }
  almValidate (rows.foldl requantRow (journalRecover s2))

/-- A command in flight ends with ABORTED_BY_RESET and writes its record (R480). -/
def restartCmd (s : State) (cid : Nat) : State :=
  match cmdOf s cid with
  | none => s
  | some c =>
    let s1 :=
      if c.phase == .done then s
      else if c.op == 0x02 && c.ord != 0 then scCancelAll s cid c.plan
      else match jobOfCmd s cid with
        | some j => scCancelAll s cid j.desc
        | none => s
    let s2 := match c.own with
      | .stream n => strmEnd s1 n (some 0x30)
      | _ => s1
    let s3 := endCmd s2 cid 0x30
    match cmdOf s3 cid with
    | some d => completeNow s3 d
    | none => s3

/-- Every command and stream in flight completes, the nodes of launches first (R480). -/
def restartCmds (s : State) : State :=
  let node (c : Cmd) : Bool := match c.own with | .node _ _ => true | _ => false
  ((s.orr.cmds.filter node ++ s.orr.cmds.filter (fun c => !node c)).map (fun c => c.cid)).foldl restartCmd s

/-- Requests of the dense engines that a fault held come again after the restart. -/
def faultedCps (s : State) : List Held :=
  (s.str.faults.flatMap (fun f => f.reqs) ++ s.str.stalled.map (fun x => x.req)).filterMap (fun r => match r with
    | .cp c => some (.chipPort c)
    | _ => none)

/-- A remote access of a command. -/
def cmdWait : RemoteFor → Bool
  | .buf w _ => (whoCid w).isSome
  | .write w => (whoCid w).isSome

/-- A queue that was switched out runs again. -/
def queueBack (x : Queue) : Queue := if x.st = .switched then { x with st := .running } else x

/-- What a restart does not keep: work units and jobs, tile state, kept maps, reservations, streams, faults, caches of
translations and hints, and INVALIDATING entries, which nothing holds any more (R90, R174, R262, R364, R480). -/
def restartDrop (s : State) : State :=
  let s1 := { s with
    pwr := { s.pwr with held := s.pwr.held ++ faultedCps s },
    alm := { s.alm with hints := [], hintTrees := [], passed := [], draining := [] },
    xlt := { s.xlt with caches := [], ranges := s.xlt.ranges.filter (fun e => !e.2.inval) },
    str := { s.str with streams := [], faults := [], stalled := [], retried := [], groupRep := [], detectors := [], prefetched := [] },
    tr := { s.tr with foRes := [], foWait := [], fiRes := [], fiWait := [], wait := s.tr.wait.filter (fun w => !cmdWait w.2) },
    got := s.got.filter (fun g => (whoCid g.who).isNone),
    orr := { s.orr with
      units := [], jobs := [], saves := [], scratch := [], seenTile := [], started := [], sliced := [], overrun := [],
      queues := mmap s.orr.queues (fun _ x => queueBack x) },
    tiles := [],
    sc := { s.sc with maps := [], jobs := [], entries := [], entriesJob := [], mq := [], saved := [] } }
  (s1.orr.queues.map (fun e => e.1)).foldl qRefresh s1

/-- Steps 3 to 8 of R479. A restart at SL3 in which a stack fails retraining ends at SL2 (R543). -/
def restartEnd (s : State) (trains : List StackTrain) (lanes : List Nat) (micros : BitVec 32) : State :=
  let s1 := restartTrain (restartClean s) trains lanes
  let s2 := if s1.pwr.sl = 3 then restartRecover s1 else reloadLy s1
  let lostStack := (List.range 6).any (fun k => (stackOf s k).inService && !(stackOf s2 k).inService)
  let s3 := restartDrop (restartCmds s2)
  let s4 := { s3 with pwr := { s3.pwr with
    restart := .none, sl := if s3.pwr.sl = 3 && lostStack then 2 else s3.pwr.sl } }
  endRuns (raiseEvent (bump1 s4 ctrChipRestart) 0x0060 0 (micros.setWidth 64) 0)
    (fun r => match r with | .restart _ => true | _ => false) lrunChan rcOk [(0, micros.setWidth 64)]

/-- The restart can end: the host has answered every back-invalidate, and outstanding host reads have drained (R419,
R479 step 1). -/
def restartMayEnd (s : State) : Bool := s.pwr.restart == .running && s.rc.biSent.isEmpty && s.hp.reads.isEmpty

/-! ### Errors (R545, R546) -/

/-- The code of an internal error (R548). -/
def intCode : IntSource → BitVec 8
  | .mesh => 1 | .orrery => 2 | .almanac => 3 | .xlate => 4 | .semfile => 5 | .meshCorrected _ => 0 | .meridianCorrected => 0

/-- INTERNAL_ERROR (R546, R548, R557): the block freezes where `FRZ_CTRL` says so, and restarts otherwise. A corrected error
only counts: a mesh packet's in its destination quadrant, and one of Meridian's SRAM (R547). -/
def execInternalError (e : IntSource) (s : State) : Host.Outcome State Fault Refusal :=
  act s (fun s => match e with
    | .meshCorrected q => bump1 s (ctrQuadMeshCe q)
    | .meridianCorrected => bump1 s ctrChipMerCe
    | _ =>
      let s1 := bump1 { s with err := { s.err with intUe := true, intSrc := intCode e } } ctrChipIntUe
      if s.err.frzCtrl.getLsbD 0 then freeze s1 1 (intCode e) else if merUp s1 then orderRestart s1 else s1)

/-- The rows of a dedup entry that has lost its data are read again (R545). -/
def dedupLost (s : State) (t uid i : Nat) : State :=
  match unitOf s uid with
  | none => s
  | some u =>
    match u.ents[i]? with
    | some e =>
      if u.expand || u.tile != t || u.st != .running || !e.dedup || e.data.isNone then s
      else rereadEnt (bump1 s (ctrTileTileCe t)) uid i
    | none => s

/-- A unit's state is lost: its command ends with ABORTED_BY_FIRMWARE; work done for another chip is reported to its
owner as lost (R136, R203, R545). -/
def unitLost (s : State) (t uid : Nat) : State :=
  match unitOf s uid with
  | none => s
  | some u =>
    if u.tile != t || u.st != .running then s
    else
      let s1 := bump1 s (ctrTileTilePe t)
      let s2 := if u.expand then
          match scOf s1 u.jid with
          | some j => match j.cid with
            | some cid => abortCmd s1 cid 0x31
            | none => reportLoss (dropScat s1 j) j.owner j.tag
          | none => s1
        else
          match jobOf s1 u.jid with
          | some j => match j.cid with
            | some cid => abortCmd s1 cid 0x31
            | none => reportLoss (dropLookup (drainJob s1 j.jid) j false) j.owner j.tag
          | none => s1
      { s2 with orr := { s2.orr with units := s2.orr.units.filter (fun v => v.uid != uid) } }

/-- The records and merge entries that a tile holds for a SCATTER are lost, and the command ends as under R203 (R545). -/
def scatLost (s : State) (t jid : Nat) : State :=
  match scOf s jid with
  | none => s
  | some j =>
    if !scatOnTile s j t then s
    else
      let s1 := bump1 s (ctrTileTilePe t)
      match j.cid with
      | some cid => abortCmd s1 cid 0x31
      | none => reportLoss (dropScat s1 j) j.owner j.tag

/-- A stream's context is lost: its command ends, or the LOOKUP or SCATTER that it serves (R545). -/
def strmLost (s : State) (t n : Nat) : State :=
  let x := strmOf s n
  if strmTile n x.d != t || x.st == .disarmed then s
  else
    let s1 := bump1 s (ctrTileTilePe t)
    match x.bound with
    | none => s1
    | some cid =>
      if x.d.kind < 3 then switchBack (strmEnd (faultForget s1 n) n (some 0x31)) x.d.queue else abortCmd s1 cid 0x31

/-- TILE_PARITY_ERROR (R545). -/
def tileParity (s : State) (t : Nat) (w : TilePart) : State :=
  match w with
  | .hint st wy =>
    { bump1 s (ctrTileTileCe t) with alm := { s.alm with hints := mdel s.alm.hints (t * 32768 + st % 4096 * 8 + wy % 8) } }
  | .xlate i =>
    let l := mget s.xlt.caches t []
    { bump1 s (ctrTileTileCe t) with xlt := { s.xlt with caches := mset s.xlt.caches t (l.eraseIdx i) } }
  | .dedup uid i => dedupLost s t uid i
  | .other uid => unitLost s t uid
  | .scat jid => scatLost s t jid
  | .stream n => strmLost s t n
  | .idle => bump1 s (ctrTileTilePe t)

/-- TILE_PARITY_ERROR: a gated tile has no state. -/
def execTileParityError (t : Fin 48) (w : TilePart) (s : State) : Host.Outcome State Fault Refusal :=
  act s (fun s => if s.pwr.park == .parked then s else scatGo (tileParity s t w))

/-! ### Park entry (R519, R520) -/

/-- The conditions of R519. -/
def parkQuiet (s : State) : Bool :=
  s.orr.queues.all (fun e => e.2.st == .idle || e.2.st == .stopped) &&
    s.str.streams.all (fun e => e.2.st == .disarmed || e.2.st == .idle) && s.str.faults.isEmpty &&
    s.orr.tasks.all (fun e => e.2.flight.isNone) && lCount s == 0

def rowPark : MbRow := { opc := 0x71, cls := .S, group := 7, lo := 3, hi := 3, used := [], mgmtOnly := false }

/-- PARK (R519, R520): entry starts, and the command completes when it ends. -/
def bodyPark (s : State) (c : MbCtx) : MbOut :=
  if !parkQuiet s then .done s rcBadState []
  else .wait { s with pwr := { s.pwr with park := .entering, wakeHeld := false } } (.park c.ch)

/-- PARK. -/
def execPark (m : MbWrite) (s : State) : Host.Outcome State Fault Refusal := mbox rowPark bodyPark m s

/-- PARK_ENTRY_END (R330, R520, R521, R523): gated tiles lose their state, and with it the hint, codebook and translation
caches; queued writes complete, queued reads are discarded, and memories are in self-refresh; a wake that was held starts. -/
def parkEntryEnd (s : State) : State :=
  if s.pwr.park != .entering then s
  else
    let s0 := takeFills s (fun x => s.rc.mshr.any (fun m => m.x == x && m.acc.write))
    let s1 := { s0 with
      pwr := { s.pwr with park := if s.pwr.wakeHeld then .waking else .parked, wakeHeld := false },
      alm := { s.alm with hints := [], hintTrees := [] },
      xlt := { s.xlt with caches := [] },
      str := { s.str with detectors := [], prefetched := [] },
      tiles := [],
      rc := { s0.rc with mshr := [], mret := [] },
      mc := { s.mc with selfRef := true },
      ly := mmap s.ly (fun k l => { l with selfRef := portUp s k || l.selfRef }) }
    endRuns s1 (fun r => match r with | .park _ => true | _ => false) lrunChan rcOk []

/-- PARK_ENTRY_END. -/
def execParkEntryEnd (s : State) : Host.Outcome State Fault Refusal := act s parkEntryEnd

/-- WAKE_LINE (R522). -/
def execWakeLine (s : State) : Host.Outcome State Fault Refusal := act s wakeUp

end Sys2Proof.Machine
end

