-- ==== Sys2Proof/Machine/Late.lean ====
section
/-! DEFINITION. What comes last because it reaches every command: writes of any register, accesses that were held and take
place later, the end of a wake and of a restart, and the passing of one ACLK. -/

namespace Sys2Proof.Machine

/-! ### The command reference as a table (R505 to R510) -/

/-- Rows 0x01 to 0x1A of the command reference (R505 to R510). -/
def mbTable0 : List (MbRow × (State → MbCtx → MbOut)) :=
  [(rowIdentify, bodyIdentify),
   (rowEventRead, bodyEventRead),
   (rowCounterRead, bodyCounterRead),
   (rowBindChannel, bodyBindChannel),
   (rowLockBindings, bodyLockBindings),
   (rowLoadCodebook, bodyLoadCodebook),
   (rowDefineTable, bodyDefineTable),
   (rowLoadImage, bodyLoadImage),
   (rowDumpTable, bodyDumpTable),
   (rowBindTable, bodyBindTable),
   (rowDropTable, bodyDropTable),
   (rowTableParams, bodyTableParams),
   (rowLoadProg, bodyLoadProg),
   (rowLoadPset, bodyLoadPset),
   (rowFreezeRow, bodyFreezeRow),
   (rowSetSkewPolicy, bodySetSkewPolicy)]

/-- Rows 0x1B to 0x33 of the command reference (R505 to R510). -/
def mbTable1 : List (MbRow × (State → MbCtx → MbOut)) :=
  [(rowLevelRow, bodyLevelRow),
   (rowReleaseMap, bodyReleaseMap),
   (rowSetSplitGroup, bodySetSplitGroup),
   (rowSetScrubPolicy, bodySetScrubPolicy),
   (rowSetLayout, bodySetLayout),
   (rowSetMemSplit, bodySetMemSplit),
   (rowSetMemPolicy, bodySetMemPolicy),
   (rowSetStripe, bodySetStripe),
   (rowMemHealth, bodyMemHealth),
   (rowCacheMaint, bodyCacheMaint),
   (rowCacheDisable, bodyCacheDisable),
   (rowCacheEnable, bodyCacheEnable),
   (rowSetRange, bodySetRange),
   (rowInvalidateRange, bodyInvalidateRange),
   (rowArmStream, bodyArmStream),
   (rowDisarmStream, bodyDisarmStream)]

/-- Rows 0x34 to 0x60 of the command reference (R505 to R510). -/
def mbTable2 : List (MbRow × (State → MbCtx → MbOut)) :=
  [(rowStreamQuery, bodyStreamQuery),
   (rowSetStreamPolicy, bodySetStreamPolicy),
   (rowFaultRead, bodyFaultRead),
   (rowFaultResolve, bodyFaultResolve),
   (rowOpenAperture, bodyOpenAperture),
   (rowCloseAperture, bodyCloseAperture),
   (rowSetPlaceRegion, bodySetPlaceRegion),
   (rowSetHostPath, bodySetHostPath),
   (rowHostAttach, bodyHostAttach),
   (rowReadHostLog, bodyReadHostLog),
   (rowSetFabricId, bodySetFabricId),
   (rowSetRoute, bodySetRoute),
   (rowSetTransitPolicy, bodySetTransitPolicy),
   (rowSetRemoteSlot, bodySetRemoteSlot),
   (rowSetRemoteWindow, bodySetRemoteWindow),
   (rowQueueConfig, bodyQueueConfig)]

/-- Rows 0x61 to 0x73 of the command reference (R505 to R510). -/
def mbTable3 : List (MbRow × (State → MbCtx → MbOut)) :=
  [(rowQueueAbort, bodyQueueAbort),
   (rowPlanStore, bodyPlanStore),
   (rowPlanPatch, bodyPlanPatch),
   (rowPlanDrop, bodyPlanDrop),
   (rowTaskConfig, bodyTaskConfig),
   (rowSetMigPolicy, bodySetMigPolicy),
   (rowPark, bodyPark),
   (rowSetPowerCap, bodySetPowerCap),
   (rowBlockRestart, bodyBlockRestart)]

/-- The command reference: every row with its own part. -/
def mbTable : List (MbRow × (State → MbCtx → MbOut)) := mbTable0 ++ mbTable1 ++ mbTable2 ++ mbTable3

/-- The row of an opcode; none for a reserved one. -/
def mbFind (opc : Nat) : Option (MbRow × (State → MbCtx → MbOut)) := mbTable.find? (fun e => e.1.opc == opc)

/-- A write of `MB_CMD` with a reserved opcode (R482, R490, R492). -/
def mbReserved (s : State) (m : MbWrite) (opc : Nat) : State :=
  match mbRefuse s m with
  | some t => t
  | none =>
    let s1 := mbTake s m opc
    if s1.mer.halted then s1
    else mbComplete s1 m.ch (if s1.mer.running then rcUnknown else rcLevel) []

/-- A write of `MB_CMD` with any opcode (R490). -/
def mbWrite (s : State) (m : MbWrite) (opc : Nat) : State :=
  match mbFind opc with
  | some (r, body) => settleIn (mbKept r m s) (mboxF r body m s)
  | none => mbReserved s m opc

/-- An access of a master to the mailbox registers: discarded while frozen (R558). -/
def mbAccess (s : State) (m : MbWrite) (opc : Nat) : Host.Outcome State Fault Refusal :=
  .next (if s.err.frozen then bump1 s ctrChipFrzHostRej
    else if stopped s then s
    else if mbBehind s m opc then hold s (mbReg m opc)
    else mbWrite s m opc)

/-- MAILBOX_RESERVED_OPCODE (R492): UNKNOWN_COMMAND. -/
def execMailboxReservedOpcode (m : MbWrite) (opc : BitVec 8) (s : State) : Host.Outcome State Fault Refusal :=
  mbAccess s m opc.toNat

/-- MAILBOX_OVERRUN (R490): a write while `BUSY` is 1; a channel that is free takes the command. -/
def execMailboxOverrun (m : MbWrite) (opc : BitVec 8) (s : State) : Host.Outcome State Fault Refusal :=
  mbAccess s m opc.toNat

/-! ### REGISTER_WRITE (R572 to R575) -/

/-- The word is `MB_CMD` of a channel (R582). -/
def isMbCmd (off : Nat) : Bool := decide (0x10000 ≤ off) && decide (off < 0x11000) && off % 0x100 == 0

/-- The write of `MB_CMD` that a word makes (R488). -/
def mbWriteOf (mgmt : Bool) (off : Nat) (v : W64) : MbWrite :=
  { ch := Fin.ofNat 16 ((off - 0x10000) / 0x100), mgmt := mgmt, ien := bit v 8, phys := bit v 9, token := BitVec.ofNat 16 (fld v 16 16) }

/-- One word of a register write. -/
def regWord (s : State) (mgmt : Bool) (off : Nat) (v : W64) : State :=
  if isMbCmd off then mbWrite s (mbWriteOf mgmt off v) (fld v 0 8) else regWrite s mgmt off v

/-- A write of whole, aligned words within one block of 64 bytes; any other is discarded (R572). -/
def regWriteOk (off n : Nat) : Bool :=
  off % 8 == 0 && decide (1 ≤ n) && decide (n ≤ 8) && decide (off % 64 + 8 * n ≤ 64)

/-- The words in ascending address order (R572). -/
def regWords (s : State) (mgmt : Bool) (off : Nat) (words : List W64) : State :=
  words.zipIdx.foldl (fun t x => regWord t mgmt (off + 8 * x.2) x.1) s

/-- While frozen, writes are discarded and counted; the management port still writes `FRZ_CTRL` (R558, R574). -/
def regFrozen (s : State) (mgmt : Bool) (off : Nat) (words : List W64) : State :=
  if mgmt && decide (off ≤ 0x20) && decide (0x20 < off + 8 * words.length) then
    writeId s true 0x20 (words.getD ((0x20 - off) / 8) 0)
  else bump1 s ctrChipFrzHostRej

/-- REGISTER_WRITE. -/
def execRegisterWrite (mgmt : Bool) (off : Nat) (words : List W64) (s : State) : Host.Outcome State Fault Refusal :=
  .next (if !regWriteOk off words.length then s
    else if s.err.frozen then regFrozen s mgmt off words
    else if stopped s then s
    else if !mgmt && mustWait s (.reg off words) then hold s (.reg off words)
    else settleIn (if mgmt then s else hold s (.reg off words)) (regWords s mgmt off words))

/-! ### Held accesses (R353, R419, R496, R521, R524) -/

/-- A mailbox command whose arguments have been taken runs. -/
def mbServe (s : State) (ch opc : Nat) (phys : Bool) (args : List W64) : State :=
  match mbFind opc with
  | none => s
  | some (r, body) => mbRun s { ch := ch, phys := phys, mgmt := (chanOf s ch).master == 2, args := args } r body

/-- A request of another chip. -/
def transitServe (s : State) (f : TMsg) (w : Option RWindow) : State :=
  if f.mtype = 0 then remoteRead s f w else if f.mtype = 1 then remoteWrite s f w else remoteAtomic s f w

/-- One held access takes place. -/
def serveOne (s : State) : Held → State
  | .fetch q => wakeQ s q
  | .window a => portServe s (windowDst s a) a
  | .port dst a => portServe s dst a
  | .memRead addr => memRead s addr
  | .memOwn addr => memOwn s addr
  | .memWrite addr d p ap => memWrite s addr d p ap
  | .reg off ws => regWords s false off ws
  | .snoop k addr => snoopServe s k addr
  | .mailbox ch opc phys args _ => mbServe s ch opc phys args
  | .chipPort r => cpStart s r
  | .remote f w => transitServe s f w

/-- A reader waits for bytes from the host or from another chip. -/
def readerWaits (s : State) (w : Who) : Bool :=
  s.hp.reads.any (fun r => match r.what with | .buf x => x == w | .cur x _ _ => x == w | _ => false) || s.tr.wait.any (fun e => match e.2 with | .buf x _ => x == w | _ => false)

/-- The held access need not wait for bytes that are still under way. -/
def heldReady (s : State) : Held → Bool
  | .mailbox ch o _ _ turn => !readerWaits s (.chan ch) && (classL o || !fsBusy s) &&
      (s.pwr.restart != .ordered || turn != .queued)
  | .port .remote _ => !readerWaits s portReader
  | _ => true

/-- One held access takes place when it can; what needs a back-invalidate stays held, with what must stay behind it. -/
def serveHeld (s : State) (h : Held) : State :=
  if heldReady s h && !mustWait s h then settleIn (hold s h) (serveOne s h) else hold s h

/-- A restart that waited for a command of class F or S begins (R500). -/
def startOrdered (s : State) : State := if s.pwr.restart == .ordered && !fsBegun s then beginRestart s else s

/-- Held accesses take place in their order of arrival (R524). -/
def serveAll (s : State) : State :=
  if !live s then s
  else startOrdered (s.pwr.held.foldl serveHeld { s with pwr := { s.pwr with held := [] } })

/-- Class-L commands beyond eight start as others end (R494). -/
def startLate (s : State) : State :=
  if !live s then s
  else s.mer.lheld.foldl (fun t e =>
    if 8 ≤ lCount t then { t with mer := { t.mer with lheld := t.mer.lheld ++ [e] } }
    else
      let args := (chanOf t e.1).args
      settleIn (hold (mbAck t e.1) (.mailbox e.1 e.2.1 e.2.2 args .begun)) (mbServe t e.1 e.2.1 e.2.2 args))
    { s with mer := { s.mer with lheld := [] } }

/-- WAKE_COMPLETE (R523, R524): memories serve again; a restart ordered while parked starts; what was held is served. -/
def wakeComplete (s : State) : State :=
  if s.pwr.park != .waking then s
  else
    let s1 := { s with
      pwr := { s.pwr with park := .running, restart := .none },
      mc := { s.mc with selfRef := false },
      ly := mmap s.ly (fun k l => { l with selfRef := l.selfRef && !portUp s k }) }
    let s2 := if s.pwr.restart == .afterWake then orderRestart s1 else s1
    serveAll s2

/-- WAKE_COMPLETE. -/
def execWakeComplete (s : State) : Host.Outcome State Fault Refusal := act s wakeComplete

/-- BLOCK_RESTART_END (R479, R480): what was held during the restart is served at its end. -/
def execBlockRestartEnd (trains : List StackTrain) (lanes : List Nat) (micros : BitVec 32) (s : State) :
    Host.Outcome State Fault Refusal :=
  act s (fun s => if restartMayEnd s then startLate (serveAll (restartEnd s trains lanes micros)) else s)

/-! ### One ACLK (log entry 2) -/

/-- Keys that a test selects among units 0 to n − 1. -/
def keysOf (n : Nat) (key : Nat → Nat) (p : Nat → Bool) : List Nat := ((List.range n).filter p).map key

/-- Fills of the fan-in window: a tile of this rank holds a finished record that the window does not take (R434). -/
def winStall (s : State) (t : Nat) : Bool :=
  s.orr.units.any (fun u => u.tile == t && u.st == .running && !u.expand &&
    (match jobOf s u.jid with
     | some j => j.cid.isNone && (List.range u.nbags).any (fun i => bagReady s j u (u.bag0 + i) && !mayGive j (u.bag0 + i))
     | none => false))

/-- A REPLACE that waits: at the gate of R267, or for its row or a journal record (R232, R251, R274). -/
def rpWaits (s : State) : List Cmd := s.orr.cmds.filter (fun c => c.op == 0x03 && !c.badLine && c.phase == .waiting)

/-- The descriptor and row of an operation that Meridian has derived. -/
def MigOp.at' : MigOp → Nat × Nat
  | .promote d r _ => (d, r)
  | .demote d r => (d, r)
  | .move d r => (d, r)
  | .reclass d r _ => (d, r)
  | .pin d r _ => (d, r)

/-- The engine of a row, for its waiting counter. -/
def rowWait (s : State) (d row : Nat) : Nat := ctrQuadRowOpWait (ownerQuad d (descOf s d) row)

/-- A replacement engine starts no operation on the row: TABLE_PARAMS holds it (R232), or its journal share is full
(R252). -/
def rowHeld (s : State) (d row : Nat) (commit : Bool) : Bool :=
  (!commit && lDesc s d) || !journalRoom s (ownerQuad d (descOf s d) row) commit

/-- COPY installs that wait for an earlier one of their row (R251), or for a journal record. -/
def copyWaits (s : State) : List (Nat × Nat) :=
  ((List.range s.alm.copies.length).filterMap (fun i => (s.alm.copies[i]?).bind (fun c =>
    if (s.alm.copies.take i).any (fun e => e.1 == c.1 && e.2.1 == c.2.1) || rowHeld s c.1 c.2.1 true then
      some (c.1, c.2.1) else none)))

/-- FREEZE_ROW commands that wait at the gate of R267. -/
def freezeWaits (s : State) : List Nat :=
  s.pwr.held.filterMap (fun h => match h with
    | .mailbox _ opc _ args _ =>
      if opc = 0x19 && scatterBusy s (fld (args.getD 0 0) 0 12) then some ctrChipReplGateWait else none
    | _ => none)

/-- Operations on rows that wait in this ACLK (R232, R251, R252, R267, R274, R293). -/
def rowWaits (s : State) : List Nat :=
  (rpWaits s).filterMap (fun c =>
    if scatterBusy s c.plan then some ctrChipReplGateWait
    else if rowHeld s c.plan (rpRow c) false || rpBehind s c then some (rowWait s c.plan (rpRow c)) else none) ++
  s.load.ops.filterMap (fun o =>
    if scatterBusy s o.at'.1 then some ctrChipReplGateWait
    else if rowHeld s o.at'.1 o.at'.2 false then some (rowWait s o.at'.1 o.at'.2) else none) ++
  (copyWaits s).map (fun c => rowWait s c.1 c.2) ++
  (s.orr.cmds.filter (fun c => c.op == 0x04 && !c.badLine && c.phase == .waiting)).filterMap (fun c =>
    (c.warm.bind (fun l => l.head?)).bind (fun r => if rowHeld s c.plan r.1 false then some (rowWait s c.plan r.1) else none)) ++
  freezeWaits s

/-- The ACLK is not among the first 16 − n of its aligned group of 16: no tile issues (R529; log entry 130). -/
def throttled (s : State) : Bool := decide (16 - throttle s.pwr ≤ s.aclk % 16)

/-- Counters of waiting that go up in this ACLK, each by its key. -/
def waitKeys (s : State) : List Nat :=
  keysOf 48 ctrTileGcqWait (fun t => !(tileOf s t).gcq.isEmpty) ++
  keysOf 48 ctrTileQpStall (fun t => s.alm.draining.contains t) ++
  keysOf 48 ctrTileMqWait (fun t => s.sc.jobs.any (fun j => mayMerge s t j && !entryFree s t j.lc)) ++
  keysOf 48 ctrTileFiWinStall (winStall s) ++
  keysOf 4 ctrQuadSegWait (fun q => s.orr.units.any (fun u => u.st == .ready && u.seg.isSome && !u.expand && !scratchOk s u && u.uid % 4 == q)) ++
  keysOf 8 ctrCompSdelivWait (fun k => decide (128 ≤ (lyOf s k).outstanding) &&
    (s.sc.entries.zip s.sc.entriesJob).any (fun e => match scOf s e.2 with
      | some j => homeComp j.desc (descOf s j.desc) e.1.row == k
      | none => false)) ++
  keysOf 48 ctrSliceBiWait (fun sl => s.rc.biSent.any (fun x => homeSlice s x == sl)) ++
  (s.str.streams.filter (fun e => e.2.st == .waiting)).map (fun e => ctrStreamStrWait e.1) ++
  ((s.orr.units.filter (fun u => u.st == .ready && !u.expand)).filterMap (fun u => match jobOf s u.jid with
    | some j => if credOk s j u then none else (j.cid.bind (cmdOf s)).map (fun c => ctrStreamStrCredWait (lkStream c))
    | none => none)).eraseDups ++
  s.tr.links.flatMap (fun e =>
    ((List.range 14).filter (fun p => match e.2.sendq.find? (fun f => pairOf f == p) with
      | some f => decide (mget e.2.credits p 0 < f.len)
      | none => false)).map (fun p => ctrLinkTqCredWait e.1 p) ++
    (if 512 ≤ replayFlits e.2 && !e.2.sendq.isEmpty then [ctrLinkTrRbFull e.1] else [])) ++
  (if s.sc.jobs.any (fun j => !j.ready) then [ctrChipSpoolWait] else []) ++
  (if s.sc.jobs.any (fun j => j.held) then [ctrChipCommitHold] else []) ++
  rowWaits s ++
  keysOf 48 ctrTileThrottleAclk (fun t => throttled s && !(tileWork s t).isEmpty) ++
  keysOf 64 ctrQueueSliceOvrAclk (fun q => s.orr.overrun.contains q && queueCommits s q) ++
  keysOf 8 ctrCompLyEngWait (fun k => !(lyOf s k).updq.isEmpty) ++
  (if s.mer.lruns.any (fun r => match r with | .invalidate _ _ _ _ _ => true | _ => false) then [ctrChipXinvPinWait] else []) ++
  (if s.orr.cmds.any (fun c => c.phase == .waiting && (match c.bound with
      | some n => (strmOf s n).bound.isSome && (strmOf s n).bound != some c.cid
      | none => false)) then [ctrChipStrBindWait] else []) ++
  (if s.hp.reads.any (fun r => match r.what with | .flush _ => true | _ => false) then [ctrChipHpFlushWait] else []) ++
  (if s.tr.foWait.isEmpty then [] else [ctrChipFoWait]) ++
  (if s.tr.fiWait.isEmpty then [] else [ctrChipFiWait])

/-- A queue whose slice has ended rejoins the round robin when no other LC queue waits (R469); a slice's overrun lasts as
long as the commit phase, and each ACLK of it is taken from the queue's slices after it (R471). -/
def sliceTurns (s : State) : State :=
  let ov := s.orr.overrun.filter (fun q => queueCommits s q)
  let s1 := ov.foldl (fun t q => setQ t q { qOf t q with owed := (qOf t q).owed + 1 }) s
  { s1 with orr := { s1.orr with sliced := s.orr.sliced.filter (fun q => sliceHolds s q), overrun := ov } }

/-- One ACLK passes: clocks and waiting counters advance, held accesses that can take place do, and losses noted on the
links are acted on. -/
def tick (s : State) : State :=
  if stopped s then s
  else
    let s1 := (waitKeys s).foldl bump1 s
    let s2 := { s1 with
      aclk := s1.aclk + 1,
      load := if s1.pwr.park = .running then { s1.load with mwAclk := s1.load.mwAclk + 1 } else s1.load }
    lossWork (startLate (serveAll (mqAll (sliceTurns s2))))

end Sys2Proof.Machine
end

