-- ==== Sys2Proof/Machine/Dispatch.lean ====
section
/-! DEFINITION. The dispatch: one arm for each command. -/

namespace Sys2Proof.Machine

open Sys2Proof

/-- The effect of a command on everything but the queue. -/
def exec (i : Instr) (s : State) : Host.Outcome State Fault Refusal :=
  match i with
  | .powerOnReset => Sys2Proof.Machine.execPowerOnReset s
  | .pllLock => Sys2Proof.Machine.execPllLock s
  | .pllLockLoss => Sys2Proof.Machine.execPllLockLoss s
  | .resetLineFull reservedMode => Sys2Proof.Machine.execResetLineFull reservedMode s
  | .resetLineFullSr => Sys2Proof.Machine.execResetLineFullSr s
  | .resetLineRestart => Sys2Proof.Machine.execResetLineRestart s
  | .firmwareLoad image => Sys2Proof.Machine.execFirmwareLoad image s
  | .merHeartTick => Sys2Proof.Machine.execMerHeartTick s
  | .sl1Entry lanes links => Sys2Proof.Machine.execSl1Entry lanes links s
  | .stackJoin k t => Sys2Proof.Machine.execStackJoin k t s
  | .sl3Transition => Sys2Proof.Machine.execSl3Transition s
  | .identify m => Sys2Proof.Machine.execIdentify m s
  | .eventRead m => Sys2Proof.Machine.execEventRead m s
  | .counterRead m => Sys2Proof.Machine.execCounterRead m s
  | .bindChannel m => Sys2Proof.Machine.execBindChannel m s
  | .lockBindings m => Sys2Proof.Machine.execLockBindings m s
  | .loadCodebook m => Sys2Proof.Machine.execLoadCodebook m s
  | .defineTable m => Sys2Proof.Machine.execDefineTable m s
  | .loadImage m => Sys2Proof.Machine.execLoadImage m s
  | .dumpTable m => Sys2Proof.Machine.execDumpTable m s
  | .bindTable m => Sys2Proof.Machine.execBindTable m s
  | .dropTable m => Sys2Proof.Machine.execDropTable m s
  | .tableParams m => Sys2Proof.Machine.execTableParams m s
  | .loadProg m => Sys2Proof.Machine.execLoadProg m s
  | .loadPset m => Sys2Proof.Machine.execLoadPset m s
  | .freezeRow m => Sys2Proof.Machine.execFreezeRow m s
  | .setSkewPolicy m => Sys2Proof.Machine.execSetSkewPolicy m s
  | .levelRow m => Sys2Proof.Machine.execLevelRow m s
  | .releaseMap m => Sys2Proof.Machine.execReleaseMap m s
  | .setSplitGroup m => Sys2Proof.Machine.execSetSplitGroup m s
  | .setScrubPolicy m => Sys2Proof.Machine.execSetScrubPolicy m s
  | .setLayout m => Sys2Proof.Machine.execSetLayout m s
  | .setMemSplit m => Sys2Proof.Machine.execSetMemSplit m s
  | .setMemPolicy m => Sys2Proof.Machine.execSetMemPolicy m s
  | .setStripe m => Sys2Proof.Machine.execSetStripe m s
  | .memHealth m => Sys2Proof.Machine.execMemHealth m s
  | .cacheMaint m => Sys2Proof.Machine.execCacheMaint m s
  | .cacheDisable m => Sys2Proof.Machine.execCacheDisable m s
  | .cacheDisableDone => Sys2Proof.Machine.execCacheDisableDone s
  | .cacheEnable m => Sys2Proof.Machine.execCacheEnable m s
  | .setRange m => Sys2Proof.Machine.execSetRange m s
  | .invalidateRange m => Sys2Proof.Machine.execInvalidateRange m s
  | .armStream m => Sys2Proof.Machine.execArmStream m s
  | .streamRearmTake st => Sys2Proof.Machine.execStreamRearmTake st s
  | .disarmStream m => Sys2Proof.Machine.execDisarmStream m s
  | .streamQuery m => Sys2Proof.Machine.execStreamQuery m s
  | .setStreamPolicy m => Sys2Proof.Machine.execSetStreamPolicy m s
  | .faultRead m => Sys2Proof.Machine.execFaultRead m s
  | .faultResolve m => Sys2Proof.Machine.execFaultResolve m s
  | .openAperture m => Sys2Proof.Machine.execOpenAperture m s
  | .closeAperture m => Sys2Proof.Machine.execCloseAperture m s
  | .setPlaceRegion m => Sys2Proof.Machine.execSetPlaceRegion m s
  | .setHostPath m => Sys2Proof.Machine.execSetHostPath m s
  | .hostAttach m => Sys2Proof.Machine.execHostAttach m s
  | .readHostLog m => Sys2Proof.Machine.execReadHostLog m s
  | .setFabricId m => Sys2Proof.Machine.execSetFabricId m s
  | .setRoute m => Sys2Proof.Machine.execSetRoute m s
  | .setTransitPolicy m => Sys2Proof.Machine.execSetTransitPolicy m s
  | .setRemoteSlot m => Sys2Proof.Machine.execSetRemoteSlot m s
  | .setRemoteWindow m => Sys2Proof.Machine.execSetRemoteWindow m s
  | .queueConfig m => Sys2Proof.Machine.execQueueConfig m s
  | .queueAbort m => Sys2Proof.Machine.execQueueAbort m s
  | .planStore m => Sys2Proof.Machine.execPlanStore m s
  | .planPatch m => Sys2Proof.Machine.execPlanPatch m s
  | .planDrop m => Sys2Proof.Machine.execPlanDrop m s
  | .taskConfig m => Sys2Proof.Machine.execTaskConfig m s
  | .setMigPolicy m => Sys2Proof.Machine.execSetMigPolicy m s
  | .park m => Sys2Proof.Machine.execPark m s
  | .parkEntryEnd => Sys2Proof.Machine.execParkEntryEnd s
  | .wakeLine => Sys2Proof.Machine.execWakeLine s
  | .wakeComplete => Sys2Proof.Machine.execWakeComplete s
  | .setPowerCap m => Sys2Proof.Machine.execSetPowerCap m s
  | .powerControlInterval estimate => Sys2Proof.Machine.execPowerControlInterval estimate s
  | .railAlert e => Sys2Proof.Machine.execRailAlert e s
  | .sensorTemperature ix celsius => Sys2Proof.Machine.execSensorTemperature ix celsius s
  | .blockRestart m => Sys2Proof.Machine.execBlockRestart m s
  | .blockRestartEnd stacksOk lanes micros => Sys2Proof.Machine.execBlockRestartEnd stacksOk lanes micros s
  | .mailboxReservedOpcode m opc => Sys2Proof.Machine.execMailboxReservedOpcode m opc s
  | .mailboxOverrun m opc => Sys2Proof.Machine.execMailboxOverrun m opc s
  | .doorbell q d => Sys2Proof.Machine.execDoorbell q d s
  | .chipPortDoorbell q v => Sys2Proof.Machine.execChipPortDoorbell q v s
  | .queueWake q => Sys2Proof.Machine.execQueueWake q s
  | .qcackWrite q v => Sys2Proof.Machine.execQcackWrite q v s
  | .semValWrite ix w => Sys2Proof.Machine.execSemValWrite ix w s
  | .semAddWrite ix vs => Sys2Proof.Machine.execSemAddWrite ix vs s
  | .chipPortSemaphore ix add m => Sys2Proof.Machine.execChipPortSemaphore ix add m s
  | .hwWinWrite v => Sys2Proof.Machine.execHwWinWrite v s
  | .msixVectorUnmask v => Sys2Proof.Machine.execMsixVectorUnmask v s
  | .registerWrite mgmt off words => Sys2Proof.Machine.execRegisterWrite mgmt off words s
  | .queueFetch q => Sys2Proof.Machine.execQueueFetch q s
  | .queueReservedOpcode cid => Sys2Proof.Machine.execQueueReservedOpcode cid s
  | .commandCompletion cid => Sys2Proof.Machine.execCommandCompletion cid s
  | .interruptDelayExpiry q => Sys2Proof.Machine.execInterruptDelayExpiry q s
  | .semWait cid => Sys2Proof.Machine.execSemWait cid s
  | .semWaitRelease cid => Sys2Proof.Machine.execSemWaitRelease cid s
  | .semSignal g => Sys2Proof.Machine.execSemSignal g s
  | .fence cid => Sys2Proof.Machine.execFence cid s
  | .launch cid => Sys2Proof.Machine.execLaunch cid s
  | .planNodeDispatch cid node => Sys2Proof.Machine.execPlanNodeDispatch cid node s
  | .taskTrigger t => Sys2Proof.Machine.execTaskTrigger t s
  | .workUnitDispatch quad => Sys2Proof.Machine.execWorkUnitDispatch quad s
  | .timeSliceExpiry q => Sys2Proof.Machine.execTimeSliceExpiry q s
  | .preemptL2 uid => Sys2Proof.Machine.execPreemptL2 uid s
  | .unitRestore uid tile => Sys2Proof.Machine.execUnitRestore uid tile s
  | .hangCheck target => Sys2Proof.Machine.execHangCheck target s
  | .lookup cid => Sys2Proof.Machine.execLookup cid s
  | .lookupFanOut f => Sys2Proof.Machine.execLookupFanOut f s
  | .positionIntake uid => Sys2Proof.Machine.execPositionIntake uid s
  | .gcqGrant tile => Sys2Proof.Machine.execGcqGrant tile s
  | .probeReturn uid ent => Sys2Proof.Machine.execProbeReturn uid ent s
  | .rowDataArrival uid ent => Sys2Proof.Machine.execRowDataArrival uid ent s
  | .groupClose uid bag grp => Sys2Proof.Machine.execGroupClose uid bag grp s
  | .bagRelease uid bag => Sys2Proof.Machine.execBagRelease uid bag s
  | .segmentFold uid => Sys2Proof.Machine.execSegmentFold uid s
  | .fanInRecord cid rank r => Sys2Proof.Machine.execFanInRecord cid rank r s
  | .scatter cid => Sys2Proof.Machine.execScatter cid s
  | .scatterRequest r => Sys2Proof.Machine.execScatterRequest r s
  | .scatterPoolReserve => Sys2Proof.Machine.execScatterPoolReserve s
  | .ready cid rank => Sys2Proof.Machine.execReady cid rank s
  | .refuse cid rank => Sys2Proof.Machine.execRefuse cid rank s
  | .cancel owner tag => Sys2Proof.Machine.execCancel owner tag s
  | .gradientIntake cid => Sys2Proof.Machine.execGradientIntake cid s
  | .gradientSlice owner tag bag excluded vals => Sys2Proof.Machine.execGradientSlice owner tag bag excluded vals s
  | .expansionUnit uid => Sys2Proof.Machine.execExpansionUnit uid s
  | .contributionRecord tile jid => Sys2Proof.Machine.execContributionRecord tile jid s
  | .runSort tile jid => Sys2Proof.Machine.execRunSort tile jid s
  | .mergeEntryGrant tile jid => Sys2Proof.Machine.execMergeEntryGrant tile jid s
  | .deliverySend tile jid => Sys2Proof.Machine.execDeliverySend tile jid s
  | .commitHoldRelease => Sys2Proof.Machine.execCommitHoldRelease s
  | .commitReport cid rank r => Sys2Proof.Machine.execCommitReport cid rank r s
  | .skewLogHandoff desc logs heads => Sys2Proof.Machine.execSkewLogHandoff desc logs heads s
  | .scrubRow desc row others => Sys2Proof.Machine.execScrubRow desc row others s
  | .update p u => Sys2Proof.Machine.execUpdate p u s
  | .updateEngineTake p => Sys2Proof.Machine.execUpdateEngineTake p s
  | .batchEnd p ubatch => Sys2Proof.Machine.execBatchEnd p ubatch s
  | .setServe p f => Sys2Proof.Machine.execSetServe p f s
  | .reseed p desc row slice => Sys2Proof.Machine.execReseed p desc row slice s
  | .requant p desc row => Sys2Proof.Machine.execRequant p desc row s
  | .levelStep p desc row target => Sys2Proof.Machine.execLevelStep p desc row target s
  | .loadCtx p desc c => Sys2Proof.Machine.execLoadCtx p desc c s
  | .loadProgFrame p id g => Sys2Proof.Machine.execLoadProgFrame p id g s
  | .loadPsetFrame p id f => Sys2Proof.Machine.execLoadPsetFrame p id f s
  | .loadCb p id c => Sys2Proof.Machine.execLoadCb p id c s
  | .companionRd p addr found => Sys2Proof.Machine.execCompanionRd p addr found s
  | .slotRd p desc row => Sys2Proof.Machine.execSlotRd p desc row s
  | .companionWr p d => Sys2Proof.Machine.execCompanionWr p d s
  | .wrMask p addr mask data poison => Sys2Proof.Machine.execWrMask p addr mask data poison s
  | .srEnter p => Sys2Proof.Machine.execSrEnter p s
  | .srExit p => Sys2Proof.Machine.execSrExit p s
  | .health h => Sys2Proof.Machine.execHealth h s
  | .updAck p a => Sys2Proof.Machine.execUpdAck p a s
  | .copy p desc row slice => Sys2Proof.Machine.execCopy p desc row slice s
  | .batchDone p ubatch => Sys2Proof.Machine.execBatchDone p ubatch s
  | .commitLog p l => Sys2Proof.Machine.execCommitLog p l s
  | .rdData p d => Sys2Proof.Machine.execRdData p d s
  | .wrAck p => Sys2Proof.Machine.execWrAck p s
  | .srDone p => Sys2Proof.Machine.execSrDone p s
  | .healthData p v => Sys2Proof.Machine.execHealthData p v s
  | .companionReservedFrame p toBlock ty result => Sys2Proof.Machine.execCompanionReservedFrame p toBlock ty result s
  | .companionFlitNak p => Sys2Proof.Machine.execCompanionFlitNak p s
  | .companionPortRetrain p lanes => Sys2Proof.Machine.execCompanionPortRetrain p lanes s
  | .replace cid => Sys2Proof.Machine.execReplace cid s
  | .replaceRun cid => Sys2Proof.Machine.execReplaceRun cid s
  | .swapVersion cid => Sys2Proof.Machine.execSwapVersion cid s
  | .swapCommit cid => Sys2Proof.Machine.execSwapCommit cid s
  | .tombstoneRetiring desc => Sys2Proof.Machine.execTombstoneRetiring desc s
  | .tombstoneClear desc => Sys2Proof.Machine.execTombstoneClear desc s
  | .install desc row => Sys2Proof.Machine.execInstall desc row s
  | .promote desc row cls => Sys2Proof.Machine.execPromote desc row cls s
  | .demote desc row cls => Sys2Proof.Machine.execDemote desc row cls s
  | .move desc row pch => Sys2Proof.Machine.execMove desc row pch s
  | .reclass desc row cls => Sys2Proof.Machine.execReclass desc row cls s
  | .pin desc row keep => Sys2Proof.Machine.execPin desc row keep s
  | .epochClose => Sys2Proof.Machine.execEpochClose s
  | .qpForcedDrain part => Sys2Proof.Machine.execQpForcedDrain part s
  | .mwRollover => Sys2Proof.Machine.execMwRollover s
  | .homeSliceAccess a e => Sys2Proof.Machine.execHomeSliceAccess a e s
  | .backInvalidateAnswer line data => Sys2Proof.Machine.execBackInvalidateAnswer line data s
  | .dramReadReturn addr r => Sys2Proof.Machine.execDramReadReturn addr r s
  | .rowRemap stack pch bank row mclk => Sys2Proof.Machine.execRowRemap stack pch bank row mclk s
  | .patrolRead stack r => Sys2Proof.Machine.execPatrolRead stack r s
  | .refresh stack => Sys2Proof.Machine.execRefresh stack s
  | .translationFill r stream va right => Sys2Proof.Machine.execTranslationFill r stream va right s
  | .faultEntryGrant => Sys2Proof.Machine.execFaultEntryGrant s
  | .streamEntry st => Sys2Proof.Machine.execStreamEntry st s
  | .linkWaitRelease st => Sys2Proof.Machine.execLinkWaitRelease st s
  | .waitGroupCheck g => Sys2Proof.Machine.execWaitGroupCheck g s
  | .prefetch cid => Sys2Proof.Machine.execPrefetch cid s
  | .advise cid => Sys2Proof.Machine.execAdvise cid s
  | .chipPortRequest r => Sys2Proof.Machine.execChipPortRequest r s
  | .chipPortData ch lines => Sys2Proof.Machine.execChipPortData ch lines s
  | .windowAccess a => Sys2Proof.Machine.execWindowAccess a s
  | .bar4Access a => Sys2Proof.Machine.execBar4Access a s
  | .cxlMemRead addr => Sys2Proof.Machine.execCxlMemRead addr s
  | .cxlMemOwn addr => Sys2Proof.Machine.execCxlMemOwn addr s
  | .cxlMemWrite addr data poison => Sys2Proof.Machine.execCxlMemWrite addr data poison s
  | .hdmCommit => Sys2Proof.Machine.execHdmCommit s
  | .hostSnoop k addr => Sys2Proof.Machine.execHostSnoop k addr s
  | .hostReadCompletion r => Sys2Proof.Machine.execHostReadCompletion r s
  | .hostPathLoss why => Sys2Proof.Machine.execHostPathLoss why s
  | .hostPathCleaned => Sys2Proof.Machine.execHostPathCleaned s
  | .hostLinkRecovery => Sys2Proof.Machine.execHostLinkRecovery s
  | .transitFlit l f => Sys2Proof.Machine.execTransitFlit l f s
  | .transitNak l sent => Sys2Proof.Machine.execTransitNak l sent s
  | .transitRetrain l width => Sys2Proof.Machine.execTransitRetrain l width s
  | .lossReport chip tag => Sys2Proof.Machine.execLossReport chip tag s
  | .transitReservedMessage f => Sys2Proof.Machine.execTransitReservedMessage f s
  | .foReq owner tag bytes => Sys2Proof.Machine.execFoReq owner tag bytes s
  | .foGrant cid rank => Sys2Proof.Machine.execFoGrant cid rank s
  | .foDeny cid rank => Sys2Proof.Machine.execFoDeny cid rank s
  | .fanInWindowReserve cid => Sys2Proof.Machine.execFanInWindowReserve cid s
  | .window owner tag base => Sys2Proof.Machine.execWindow owner tag base s
  | .remoteRd f => Sys2Proof.Machine.execRemoteRd f s
  | .remoteWr f => Sys2Proof.Machine.execRemoteWr f s
  | .remoteAt f => Sys2Proof.Machine.execRemoteAt f s
  | .remoteData f => Sys2Proof.Machine.execRemoteData f s
  | .remoteAck f => Sys2Proof.Machine.execRemoteAck f s
  | .remoteErr f => Sys2Proof.Machine.execRemoteErr f s
  | .tileParityError t w => Sys2Proof.Machine.execTileParityError t w s
  | .internalError e => Sys2Proof.Machine.execInternalError e s
  | .meridianSramError => Sys2Proof.Machine.execMeridianSramError s
  | .freezeLine => Sys2Proof.Machine.execFreezeLine s
  | .freezeOnEvent e => Sys2Proof.Machine.execFreezeOnEvent e s
  | .freezeSettled => Sys2Proof.Machine.execFreezeSettled s
  | .stackAbsent k => Sys2Proof.Machine.execStackAbsent k s
  | .linkRecoveryEnd => Sys2Proof.Machine.execLinkRecoveryEnd s
  | .cxlCacheWriteCompletion id => Sys2Proof.Machine.execCxlCacheWriteCompletion id s
  | .almanacScan desc => Sys2Proof.Machine.execAlmanacScan desc s
  | .poolAudit => Sys2Proof.Machine.execPoolAudit s

end Sys2Proof.Machine
end

