-- ==== Sys2Proof/Safety.lean ====
section
/-! DEFINITION. The terms in which statements speak of a step: when a mailbox command is taken, how it ends, what a
host observes, and which commands a stopped block still takes. -/

namespace Sys2Proof.Machine

/-- The step answers a next state: the block has taken its command (or, with none waiting, idled). -/
def StepsOn (s : State) : Prop := ∃ t, step s = .next t

/-- A byte of the tiers as it stands in memory. -/
def byteAt (s : State) (a : Nat) : Byte := cellGet s.mem.cells a

/-- What a mailbox command sees when it starts at once: the arguments are those in the channel's registers (R491). -/
def mbCtx (s : State) (m : MbWrite) : MbCtx := { ch := m.ch, phys := m.phys, mgmt := m.mgmt, args := (chanOf s m.ch).args }

/-- A write of `MB_CMD` starts the row's command at once: the clocks run and the block is not frozen, the channel
belongs to the master and is not busy (R487, R490), no earlier posted write of the host is still on its way (R410),
Meridian runs (R482, R547), no Park and no restart defers the command (R496, R522), no command of class F or S is
under way, or, for one of class L, fewer than eight run (R494), and permission, level and unused argument bits are in order
(R492, R498, R504). -/
def MbStarts (r : MbRow) (m : MbWrite) (s : State) : Prop :=
  s.err.frozen = false ∧ stopped s = false ∧ mbMaster s m = true ∧ (chanOf s m.ch).busy = false ∧
    s.mer.running = true ∧ s.mer.halted = false ∧ (s.pwr.park = .running ∨ mbWakes r = false) ∧ s.pwr.restart = .none ∧
    (m.mgmt = true ∨ mbBehind s m r.opc = false) ∧
    (if r.cls = .L then lCount s < 8 else fsBusy s = false) ∧ mbChecks s r (chanOf s m.ch) (chanOf s m.ch).args = none

/-- The state `u` in which the command's own effect stands, with the command completed on its channel (R491): `MB_CMD`
taken, DONE and ACK set, the code and the return words written, and the interrupt or the completion line if asked for. -/
def mbEnds (u : State) (m : MbWrite) (opc rc : Nat) (rets : List (Nat × W64)) : State :=
  mbComplete (mbTake u m opc) m.ch rc rets

/-- The channel's registers show a completed command (R491): not busy, done, this code and these return words. -/
def MbDone (t : State) (ch : Fin 16) (rc : Nat) (rets : List (Nat × W64)) : Prop :=
  (chanOf t ch).busy = false ∧ (chanOf t ch).ack = true ∧ (chanOf t ch).done = true ∧
    (chanOf t ch).rc = BitVec.ofNat 8 rc ∧
    (chanOf t ch).rets = (List.range 8).map (fun i => ((rets.find? (fun r => r.1 == i)).map (fun r => r.2)).getD 0)

/-- The resets (R532, R533). The reset line in the mode RESTART is among them: while the PLL is not locked it acts as FULL. -/
def isReset : Instr → Bool
  | .powerOnReset => true
  | .resetLineFull _ => true
  | .resetLineFullSr => true
  | .resetLineRestart => true
  | _ => false

/-- The write of `MB_CMD` that a mailbox row is, with its opcode (R488, R505 to R510). -/
def mailboxWrite : Instr → Option (MbWrite × Nat)
  | .identify m => some (m, 0x01)
  | .eventRead m => some (m, 0x02)
  | .counterRead m => some (m, 0x03)
  | .bindChannel m => some (m, 0x04)
  | .lockBindings m => some (m, 0x05)
  | .loadCodebook m => some (m, 0x10)
  | .defineTable m => some (m, 0x11)
  | .loadImage m => some (m, 0x12)
  | .dumpTable m => some (m, 0x13)
  | .bindTable m => some (m, 0x14)
  | .dropTable m => some (m, 0x15)
  | .tableParams m => some (m, 0x16)
  | .loadProg m => some (m, 0x17)
  | .loadPset m => some (m, 0x18)
  | .freezeRow m => some (m, 0x19)
  | .setSkewPolicy m => some (m, 0x1A)
  | .levelRow m => some (m, 0x1B)
  | .releaseMap m => some (m, 0x1C)
  | .setSplitGroup m => some (m, 0x1D)
  | .setScrubPolicy m => some (m, 0x1E)
  | .setLayout m => some (m, 0x20)
  | .setMemSplit m => some (m, 0x21)
  | .setMemPolicy m => some (m, 0x22)
  | .setStripe m => some (m, 0x23)
  | .memHealth m => some (m, 0x24)
  | .cacheMaint m => some (m, 0x25)
  | .cacheDisable m => some (m, 0x26)
  | .cacheEnable m => some (m, 0x27)
  | .setRange m => some (m, 0x30)
  | .invalidateRange m => some (m, 0x31)
  | .armStream m => some (m, 0x32)
  | .disarmStream m => some (m, 0x33)
  | .streamQuery m => some (m, 0x34)
  | .setStreamPolicy m => some (m, 0x35)
  | .faultRead m => some (m, 0x36)
  | .faultResolve m => some (m, 0x37)
  | .openAperture m => some (m, 0x40)
  | .closeAperture m => some (m, 0x41)
  | .setPlaceRegion m => some (m, 0x42)
  | .setHostPath m => some (m, 0x43)
  | .hostAttach m => some (m, 0x44)
  | .readHostLog m => some (m, 0x45)
  | .setFabricId m => some (m, 0x50)
  | .setRoute m => some (m, 0x51)
  | .setTransitPolicy m => some (m, 0x52)
  | .setRemoteSlot m => some (m, 0x53)
  | .setRemoteWindow m => some (m, 0x54)
  | .queueConfig m => some (m, 0x60)
  | .queueAbort m => some (m, 0x61)
  | .planStore m => some (m, 0x62)
  | .planPatch m => some (m, 0x63)
  | .planDrop m => some (m, 0x64)
  | .taskConfig m => some (m, 0x65)
  | .setMigPolicy m => some (m, 0x70)
  | .park m => some (m, 0x71)
  | .setPowerCap m => some (m, 0x72)
  | .blockRestart m => some (m, 0x73)
  | .mailboxReservedOpcode m opc => some (m, opc.toNat)
  | .mailboxOverrun m opc => some (m, opc.toNat)
  | _ => none

/-- The command's input buffer reads as `l`, and `s1` is the state after its reads (R493). -/
def BufReads (s : State) (c : MbCtx) (a n : Nat) (s1 : State) (l : List Byte) : Prop :=
  ∀ k : State → List Byte → MbOut, withBuf s c a n k = k s1 l

/-- The command's output buffer takes bytes, and `w` is how they are written (R493). -/
def BufTakes (s : State) (c : MbCtx) (a n : Nat) (w : State → List Byte → State) : Prop :=
  ∀ k : (State → List Byte → State) → MbOut, withOut s c a n k = k w

/-- As `MbDone`, with every other channel as it was in `s` (R491). -/
def MbEnded (s t : State) (ch : Fin 16) (rc : Nat) (rets : List (Nat × W64)) : Prop :=
  MbDone t ch rc rets ∧ ∀ c, c ≠ ch.val → chanOf t c = chanOf s c

/-- `t` with all that taking and completing a mailbox command touches put back as in `s`: the channels, the bytes that
came for the command, the interrupts and the completion line (R490, R491). `mbUndo s t = s` says that nothing else
differs. -/
def mbUndo (s t : State) : State :=
  { t with chans := s.chans, got := s.got, msix := s.msix, pwr := { t.pwr with complLine := s.pwr.complLine } }

/-- `t` with all that accesses to the tiers touch put back as in `s`: the memory and the row cache, the counters, the event
logs with their interrupts and line, the model's count of free values, and what a freeze at an uncorrectable error sets
(R302 to R355, R557). `memUndo s t = s` says that nothing else differs. -/
def memUndo (s t : State) : State :=
  { t with
    mem := s.mem, rc := s.rc, ctrs := s.ctrs, evt := s.evt, msix := s.msix, frees := s.frees,
    pwr := { t.pwr with evtLine := s.pwr.evtLine },
    err := { t.err with
      frozen := s.err.frozen, cause := s.err.cause, cunit := s.err.cunit, settled := s.err.settled,
      frzPark := s.err.frzPark, frzRestart := s.err.frzRestart } }

/-- `t` with all that a stopped block still moves put back as in `s` (R516, R558): the commands that wait, counters, the
model's count of free values, the host port's answers, the Transit links' own layer, the clock inputs and the freeze
controls. `stoppedUndo s t = s`
says that nothing else differs: the memory, the tables, the queues and every engine stand still. -/
def stoppedUndo (s t : State) : State :=
  { t with
    pending := s.pending, ctrs := s.ctrs, frees := s.frees, hp := s.hp, tr := { t.tr with links := s.tr.links },
    pwr := { t.pwr with pllLock := s.pwr.pllLock, pllLost := s.pwr.pllLost },
    err := { t.err with frzCtrl := s.err.frzCtrl, settled := s.err.settled } }

/-- The block is stopped, and no reset and no lock of the PLL is among the commands that wait. -/
def StaysStopped (s : State) : Prop :=
  stopped s = true ∧ ∀ c ∈ s.pending, isReset c = false ∧ c ≠ .pllLock

/-- The row cache is in order: the memory and the lines in their canonical form, and every line that is kept in full
length, without poison, in a way of its own set of its own home slice, of an address in a tier that answers and that is
not held by pass-through, with the bytes of the memory unless it is DIRTY, and no line twice (R333, R334). -/
def CacheOk (s : State) : Prop :=
  Memory.wf s.mem = true ∧ mwf s.rc.lines = true ∧
    (∀ e ∈ s.rc.lines, e.2.data.length = 64 ∧ e.2.poison = false ∧ passThrough s e.2.x = false ∧
      memUp s (e.2.x * 64) = true ∧ (e.2.dirty = false → e.2.data = cellsRead s.mem.cells (e.2.x * 64) 64) ∧
      ∃ w, w < 16 ∧ e.1 = wayKey (homeSlice s e.2.x) (lineSet s e.2.x) w) ∧
    (∀ e ∈ s.rc.lines, ∀ f ∈ s.rc.lines, e.2.x = f.2.x → e.1 = f.1)

end Sys2Proof.Machine
end

