-- ==== Sys2Proof/Certificates/Slice0/Obligations.lean ====
section
/-! DEFINITION. The statements for the provers: what each command does when it takes effect, what it leaves as it was,
and rules of the whole block. A hypothesis on `rc.need` says that no line the effect touches is owned by the host, so that
no back-invalidate is due first (R353). -/

section
open Sys2Proof Sys2Proof.Machine

/-- One step takes the command at the front of the queue and runs it on the state with the queue's rest. That an ACLK passes
where no command waits is the model's choice (log entries 2 and 109). -/
def Obligations.StepRunsFrontCommand : Prop :=
  (∀ (c : Instr) (rest : List Instr) (s : State),
    s.pending = c :: rest → step s = exec c { s with pending := rest }) ∧
  (∀ s : State, s.pending = [] → step s = .next (tick s))

/-- The block right after power-on reset: SL0, the park state running, PLL not locked, not frozen, no error flag set, Meridian
not running, the bindings unlocked with channels 0 to 11 the host's and the others the management controller's, the fabric
number unset, no table, range, stream or cached line, every queue STOPPED, the host path DETACHED, the semaphores 0, every
stack ABSENT, every port down and no command waiting (R532, R535 and the reset columns of the register map). -/
def Obligations.ResetStateHolds : Prop :=
  State.reset.pending = [] ∧ State.reset.pwr.sl = 0 ∧ State.reset.pwr.park = .running ∧
    State.reset.pwr.pllLock = false ∧ State.reset.pwr.pllLost = false ∧ State.reset.pwr.cap = 340 ∧
    State.reset.err.frozen = false ∧ State.reset.err.merUe = false ∧ State.reset.err.intUe = false ∧
    State.reset.mer.running = false ∧ State.reset.mer.locked = false ∧ State.reset.mer.fabric = 0xFFF ∧
    State.reset.tabs.descs = [] ∧ State.reset.tabs.binding = [] ∧ State.reset.rc.lines = [] ∧
    State.reset.rc.enabled = true ∧ State.reset.xlt.ranges = [] ∧ State.reset.xlt.xgen = 0 ∧
    State.reset.str.streams = [] ∧ State.reset.str.wcLimit = 1024 ∧ State.reset.hp.state = 2 ∧
    (∀ i : Nat, semOf State.reset i = 0) ∧ (∀ q : Nat, (qOf State.reset q).st = .stopped) ∧
    (∀ k : Nat, (stackOf State.reset k).inService = false) ∧ (∀ k : Nat, portUp State.reset k = false) ∧
    (∀ c : Fin 16, (chanOf State.reset c).master = if c.val < 12 then 1 else 2) ∧
    (∀ c : Fin 16, (chanOf State.reset c).busy = false ∧ (chanOf State.reset c).groups = 0xFF)

/-- The block resets (R532 to R534): power-on reset and a reset in mode FULL, or in the reserved mode, leave every unit at
its reset value, the row cache's hash seed drawn anew; what the management controller keeps outside the block stays (its copy
of the layout and of the stripe map, and the repair log), and so do the queue of commands and the model's own counts (log
entry 108). After power-on reset the PLL has to lock again; after FULL it is locked where it was and had not lost lock. A
reset in mode FULL_SR with the PLL in lock, with no line of the row cache DIRTY and none owned by the host, leaves the bytes
and the poison marks of the tiers as they stood, keeps the repair log, the tables, the journals and the pool's slots, brings
the block to SL0 and every other unit named here to its reset value; with lock lost it is FULL. -/
def Obligations.BlockResetsTakeEffect : Prop :=
  (∀ s : State, exec .powerOnReset s = .next { State.reset with
      pending := s.pending, mer := { Mer.reset with nvm := s.mer.nvm },
      mc := { MemCtl.reset with repairLog := s.mc.repairLog }, rc := Cache.reset (Config.random s.draws),
      draws := s.draws + 1, frees := s.frees, aclk := s.aclk, aclk0 := s.aclk }) ∧
  (∀ (s : State) (b : Bool), exec (.resetLineFull b) s = .next { State.reset with
      pending := s.pending, pwr := { Pwr.reset with pllLock := s.pwr.pllLock && !s.pwr.pllLost },
      mer := { Mer.reset with nvm := s.mer.nvm },
      mc := { MemCtl.reset with repairLog := s.mc.repairLog }, rc := Cache.reset (Config.random s.draws),
      draws := s.draws + 1, frees := s.frees, aclk := s.aclk, aclk0 := s.aclk }) ∧
  (∀ s : State, s.pwr.pllLost = true ∨ s.pwr.pllLock = false → exec .resetLineFullSr s = exec (.resetLineFull false) s) ∧
  (∀ s : State, s.pwr.pllLost = false → s.pwr.pllLock = true →
    (∀ e ∈ s.rc.lines, e.2.dirty = false) → (∀ e ∈ s.rc.snoop, e.2 = false) →
      ∃ t, exec .resetLineFullSr s = .next t ∧ t.mem = s.mem ∧ t.mc.repairLog = s.mc.repairLog ∧
        t.tabs = { s.tabs with groups := [] } ∧ t.alm.journal = s.alm.journal ∧ t.alm.used = s.alm.used ∧
        t.alm.cut = s.alm.cut ∧
        t.pwr = { Pwr.reset with pllLock := true, fullSr := true } ∧ t.err = Err.reset ∧ t.orr = Orrery.reset ∧
        t.xlt = Xlt.reset ∧ t.str = Streams.reset ∧ t.hp = HostPort.reset ∧ t.rc.lines = [] ∧ t.rc.snoop = [] ∧
        t.pending = s.pending)

/-- The clocks (R514, R516): lock starts them, and changes nothing else; the loss of lock sets PLL_LOST and changes nothing
else, so that the error line is asserted and the block is stopped; lock is not taken again after a loss. That a loss without
lock changes nothing is the model's choice (log entry 8). -/
def Obligations.ClockEventsTakeEffect : Prop :=
  (∀ s : State, s.pwr.pllLost = false →
    exec .pllLock s = .next { s with pwr := { s.pwr with pllLock := true } }) ∧
  (∀ s : State, s.pwr.pllLost = true → exec .pllLock s = .next s) ∧
  (∀ s : State, s.pwr.pllLock = true → ∃ t, exec .pllLockLoss s = .next t ∧
    t = { s with pwr := { s.pwr with pllLost := true } } ∧ stopped t = true ∧ errLine t = true) ∧
  (∀ s : State, s.pwr.pllLock = false → exec .pllLockLoss s = .next s)

/-- Firmware (R482, R484): an image whose trailing CRC-32 matches starts Meridian where it does not run, and leaves the
service level, the tables, memory, channels, lines of the row cache, queues, ranges, error flags and counters as they were;
any other image changes nothing; while firmware runs MER_HEART counts up by 1 and nothing else changes. That an image given
to a running Meridian, and a tick without running firmware, change nothing is the model's choice (log entry 8). -/
def Obligations.FirmwareEventsTakeEffect : Prop :=
  (∀ (s : State) (image : List Byte), stopped s = false → s.rc.need = [] → s.mer.running = false → imageOk image = true →
    ∃ t, exec (.firmwareLoad image) s = .next t ∧ merUp t = true ∧ t.pwr = s.pwr ∧ t.tabs = s.tabs ∧ t.mem = s.mem ∧
      t.chans = s.chans ∧ t.rc.lines = s.rc.lines ∧ t.orr = s.orr ∧ t.xlt = s.xlt ∧ t.err = s.err ∧ t.ctrs = s.ctrs) ∧
  (∀ (s : State) (image : List Byte), stopped s = false → s.rc.need = [] → imageOk image = false ∨ s.mer.running = true →
    exec (.firmwareLoad image) s = .next s) ∧
  (∀ s : State, stopped s = false → s.rc.need = [] → merUp s = true →
    exec .merHeartTick s = .next { s with mer := { s.mer with heart := s.mer.heart + 1 } }) ∧
  (∀ s : State, stopped s = false → s.rc.need = [] → merUp s = false → exec .merHeartTick s = .next s)

/-- Bring-up (R331, R535, R540 to R542). With firmware running at SL0, no link with a partner in the module's link map, and
every companion port training at 8 or 16 lanes, the block enters SL1 with those lanes and with a layout in force. A stack
that joins in its turn, its identity as expected and its spare lanes sufficient, is IN_SERVICE at SL2 with the temperature and
the lanes that training found, and after a cold reset its cells read 0, while every other byte and every other stack stay;
one whose spare lanes do not suffice is ABSENT and every byte stays. A stack that leaves service is ABSENT and nothing else
changes. With every stack IN_SERVICE and every command in flight held back, the block enters SL3 and no command is held any
more; after a cold reset patrol has started, the Almanac region reads 0, and no pool slot, retire list or journal is in use. -/
def Obligations.BringUpStepsTakeEffect : Prop :=
  (∀ (s : State) (lanes : List Nat) (links : List LinkTrain), stopped s = false → s.rc.need = [] → merUp s = true →
    s.pwr.sl = 0 → lanes.length = 8 → (∀ n ∈ lanes, n = 8 ∨ n = 16) → (∀ x ∈ links, x.want = none) →
      ∃ t, exec (.sl1Entry lanes links) s = .next t ∧ t.pwr.sl = 1 ∧ t.mer.layout.isSome = true ∧
        (∀ k, (h : k < lanes.length) → (lyOf t k).lanes = lanes[k]) ∧ t.mem = s.mem ∧ t.rc = s.rc ∧ t.tabs = s.tabs ∧
        t.orr = s.orr ∧ t.tr = s.tr ∧ t.hp = s.hp) ∧
  (∀ (s : State) (k : Fin 6) (r : StackTrain), stopped s = false → s.rc.need = [] → merUp s = true →
    (s.pwr.sl = 1 ∨ s.pwr.sl = 2) → s.mc.tried.length = k.val → r.identity = true →
    (lanesOk r = true →
      ∃ t, exec (.stackJoin k r) s = .next t ∧ t.pwr = { s.pwr with sl := 2 } ∧ (stackOf t k).inService = true ∧
        (stackOf t k).temp = r.temp ∧ (stackOf t k).lanes = r.failed ∧
        (∀ a, byteAt t a = if s.pwr.fullSr = false ∧ a < tierFEnd ∧ pchOf s a / 64 = k.val then 0 else byteAt s a) ∧
        (∀ j, j ≠ k.val → stackOf t j = stackOf s j) ∧ t.rc = s.rc ∧ t.tabs = s.tabs ∧ t.alm = s.alm ∧ t.orr = s.orr) ∧
    (lanesOk r = false →
      ∃ t, exec (.stackJoin k r) s = .next t ∧ t.pwr = { s.pwr with sl := 2 } ∧ (stackOf t k).inService = false ∧
        t.mem = s.mem ∧ (∀ j, j ≠ k.val → stackOf t j = stackOf s j) ∧ t.rc = s.rc ∧ t.tabs = s.tabs ∧ t.alm = s.alm ∧
        t.orr = s.orr)) ∧
  (∀ (s : State) (k : Fin 6), stopped s = false → s.rc.need = [] → (stackOf s k).inService = true →
    exec (.stackAbsent k) s = .next { s with mc := { s.mc with
      stk := mset s.mc.stk k { stackOf s k with inService := false } } }) ∧
  (∀ s : State, stopped s = false → merUp s = true → s.pwr.sl = 2 → stacksUp s = true →
    s.orr.cmds.all (heldBack s) = true → (sl3Transition s).rc.need = [] →
      ∃ t, exec .sl3Transition s = .next t ∧ t.pwr.sl = 3 ∧ (∀ c ∈ t.orr.cmds, c.phase ≠ .held) ∧
        (s.pwr.fullSr = false → t.mc = { s.mc with patrol := true } ∧ t.alm.count = 0 ∧ t.alm.used = [] ∧
          t.alm.retire = [] ∧ t.alm.journal = [] ∧
          (∀ a, almBase s ≤ a → a < almBase s + almBytes (layoutOf s) → byteAt t a = 0) ∧
          t.tabs.groups = s.tabs.groups ∧ t.xlt = s.xlt ∧ t.str = s.str ∧ t.sc = s.sc))

/-- Power, rail and temperature inputs (R527, R528, R530). SET_POWER_CAP sets a cap of 100 W to 340 W and refuses any other;
an interval's estimate moves the controller's level by at most 1 (up to 15) as it lies above the cap or below 95 % of it;
while the rail alert is asserted, and after its release until its hold time is over, the level is at least 12; a sensor at
105 °C brings the level to at least 8, at 115 °C to 15, and at 120 °C sets TRIP, which asserts the error line, and, where
FRZ_CTRL says so, freezes the block. Nothing else changes. -/
def Obligations.PowerInputsTakeEffect : Prop :=
  (∀ (s : State) (m : MbWrite), MbStarts rowSetPowerCap m s → s.rc.need = [] →
    100 ≤ (mbCtx s m).f 0 0 9 → (mbCtx s m).f 0 0 9 ≤ 340 →
      exec (.setPowerCap m) s = .next (mbEnds { s with pwr := { s.pwr with cap := (mbCtx s m).f 0 0 9 } } m 0x72 rcOk [])) ∧
  (∀ (s : State) (m : MbWrite), MbStarts rowSetPowerCap m s → s.rc.need = [] →
    ((mbCtx s m).f 0 0 9 < 100 ∨ 340 < (mbCtx s m).f 0 0 9) →
      exec (.setPowerCap m) s = .next (mbEnds s m 0x72 rcInvalid [])) ∧
  (∀ (s : State) (e : Nat), stopped s = false → s.rc.need = [] →
    exec (.powerControlInterval e) s = .next { s with pwr := { s.pwr with
      ctl := if s.pwr.cap < e then min (s.pwr.ctl + 1) 15 else if 100 * e < 95 * s.pwr.cap then s.pwr.ctl - 1
        else s.pwr.ctl } }) ∧
  (∀ s : State, stopped s = false → s.rc.need = [] →
    ∃ t, exec (.railAlert .asserted) s = .next t ∧ t = { s with pwr := { s.pwr with railAlert := true, railHold := true } } ∧
      12 ≤ throttle t.pwr) ∧
  (∀ s : State, stopped s = false → s.rc.need = [] →
    ∃ t, exec (.railAlert .released) s = .next t ∧ t = { s with pwr := { s.pwr with railAlert := false } } ∧
      (s.pwr.railHold = true → 12 ≤ throttle t.pwr)) ∧
  (∀ s : State, stopped s = false → s.rc.need = [] →
    exec (.railAlert .holdOver) s =
      .next { s with pwr := { s.pwr with railHold := s.pwr.railAlert && s.pwr.railHold } }) ∧
  (∀ (s : State) (i : Fin 8) (c : BitVec 8), stopped s = false → s.rc.need = [] → s.pwr.temps.length = 8 →
    (c.toNat < 120 ∨ s.err.frzCtrl.getLsbD 2 = false) →
      ∃ t, exec (.sensorTemperature i c) s = .next t ∧
        t = { s with pwr := { s.pwr with temps := s.pwr.temps.set i.val c.toNat,
                                         trip := s.pwr.trip || decide (120 ≤ c.toNat) } } ∧
        (105 ≤ c.toNat → 8 ≤ throttle t.pwr) ∧ (115 ≤ c.toNat → 15 ≤ throttle t.pwr) ∧ (120 ≤ c.toNat → errLine t = true)) ∧
  (∀ (s : State) (i : Fin 8) (c : BitVec 8), stopped s = false → s.rc.need = [] → 120 ≤ c.toNat →
    s.err.frzCtrl.getLsbD 2 = true →
      exec (.sensorTemperature i c) s = .next { s with
        pwr := { s.pwr with temps := s.pwr.temps.set i.val c.toNat, trip := true },
        err := { s.err with
          frozen := true, cause := 3, cunit := 0, settled := false, frzPark := s.pwr.park != .running,
          frzRestart := s.pwr.restart == .running } })

/-- Park (R519, R520, R522, R523). PARK on a quiet block starts entry and stays acknowledged; on a block that is not quiet it
returns BAD_STATE. The end of entry (with no write still waiting for the fill of its line) gates the tiles, which lose the
hint and translation caches and every tile's own state, brings the tiers into self-refresh, completes PARK, and leaves the
block parked, or waking where a wake was held; memory and the lines of the row cache stay. The wake line wakes a parked
block, is held during entry, and changes nothing on a block that runs or already wakes. The end of the wake brings the block
back to running with its memories serving; with nothing held and no restart ordered, nothing else changes. -/
def Obligations.ParkAndWakeTakeEffect : Prop :=
  (∀ (s : State) (m : MbWrite), MbStarts rowPark m s → s.rc.need = [] → parkQuiet s = true →
    exec (.park m) s = .next { mbAck (mbTake s m 0x71) m.ch with
      pwr := { s.pwr with park := .entering, wakeHeld := false }, mer := { s.mer with lruns := s.mer.lruns ++ [.park m.ch] } }) ∧
  (∀ (s : State) (m : MbWrite), MbStarts rowPark m s → s.rc.need = [] → parkQuiet s = false →
    exec (.park m) s = .next (mbEnds s m 0x71 rcBadState [])) ∧
  (∀ (s : State) (ch : Fin 16), stopped s = false → s.rc.need = [] → s.pwr.park = .entering → s.mer.lruns = [.park ch] →
    (∀ x ∈ s.rc.mshr, x.acc.write = false) →
    ∃ t, exec .parkEntryEnd s = .next t ∧ t.pwr.park = (if s.pwr.wakeHeld then .waking else .parked) ∧
      t.pwr.wakeHeld = false ∧ MbDone t ch rcOk [] ∧ t.mer.lruns = [] ∧ t.tiles = [] ∧ t.xlt = { s.xlt with caches := [] } ∧
      t.alm = { s.alm with hints := [], hintTrees := [] } ∧ t.mc = { s.mc with selfRef := true } ∧
      t.str = { s.str with detectors := [], prefetched := [] } ∧
      (∀ k l, mget? s.ly k = some l → l.lanes ≠ 0 → mget? t.ly k = some { l with selfRef := true }) ∧
      t.mem = s.mem ∧ t.rc = { s.rc with mshr := [], mret := [] } ∧ t.orr = s.orr ∧ t.tabs = s.tabs ∧ t.hp = s.hp ∧
      t.tr = s.tr ∧ t.sc = s.sc ∧ t.ctrs = s.ctrs) ∧
  (∀ s : State, stopped s = false → s.rc.need = [] → s.pwr.park = .parked →
    exec .wakeLine s = .next { s with pwr := { s.pwr with park := .waking } }) ∧
  (∀ s : State, stopped s = false → s.rc.need = [] → s.pwr.park = .entering →
    exec .wakeLine s = .next { s with pwr := { s.pwr with wakeHeld := true } }) ∧
  (∀ s : State, stopped s = false → s.rc.need = [] → s.pwr.park = .running ∨ s.pwr.park = .waking →
    exec .wakeLine s = .next s) ∧
  (∀ s : State, stopped s = false → s.rc.need = [] → s.pwr.park = .waking → s.pwr.held = [] → s.pwr.restart = .none →
    exec .wakeComplete s = .next { s with
      pwr := { s.pwr with park := .running }, mc := { s.mc with selfRef := false },
      ly := mmap s.ly (fun k l => { l with selfRef := l.selfRef && !portUp s k }) })

/-- The start and the end of a block restart (R479, R480, R500, R533, R534). The order, by BLOCK_RESTART or by the reset line
in mode RESTART, with no Park and no command of class F or S under way, starts the restart: no class-L command is left
running but the restarts, the companion ports are closed (no update, batch, acknowledgement or answer is left on them), every
line that the host holds is recalled, and memory, cached lines, tables, queues, streams and ranges are as they were. In Park
the line's order waits for the wake that it causes; behind a command of class F or S it waits for that command; while the
block is frozen, without running firmware or during a restart it changes nothing, and with the PLL out of lock it is a block
reset. The end (the host having answered, nothing held, and no line recalled by the end itself) leaves no work unit, job,
stream, fault, merge entry, cached translation, tile state or INVALIDATING entry, and no restart under way. -/
def Obligations.BlockRestartTakesEffect : Prop :=
  (∀ (s : State) (m : MbWrite), MbStarts rowBlockRestart m s → s.rc.need = [] → s.pwr.park = .running → fsBegun s = false →
    ∃ t, exec (.blockRestart m) s = .next t ∧ t.pwr.restart = .running ∧ LRun.restart m.ch ∈ t.mer.lruns ∧
      (∀ r ∈ t.mer.lruns, ∃ c, r = .restart c) ∧ (chanOf t m.ch).ack = true ∧
      (∀ k, k < 8 → (lyOf t k).updq = [] ∧ (lyOf t k).batches = [] ∧ (lyOf t k).outstanding = 0 ∧ (lyOf t k).acks = [] ∧
        (lyOf t k).answers = []) ∧
      (∀ e ∈ s.rc.snoop, e.1 ∈ t.rc.biSent) ∧ t.mem = s.mem ∧ t.rc.lines = s.rc.lines ∧ t.tabs = s.tabs ∧ t.orr = s.orr ∧
      t.str = s.str ∧ t.xlt = s.xlt) ∧
  (∀ s : State, s.pwr.pllLock = true → s.pwr.pllLost = false → s.err.frozen = false → merUp s = true →
    s.pwr.restart = .none → s.pwr.park = .running → fsBegun s = false →
      ∃ t, exec .resetLineRestart s = .next t ∧ t.pwr.restart = .running ∧ (∀ r ∈ t.mer.lruns, ∃ c, r = .restart c) ∧
      (∀ k, k < 8 → (lyOf t k).updq = [] ∧ (lyOf t k).batches = [] ∧ (lyOf t k).outstanding = 0 ∧ (lyOf t k).acks = [] ∧
        (lyOf t k).answers = []) ∧
      (∀ e ∈ s.rc.snoop, e.1 ∈ t.rc.biSent) ∧ t.mem = s.mem ∧ t.rc.lines = s.rc.lines ∧ t.tabs = s.tabs ∧ t.orr = s.orr ∧
      t.str = s.str ∧ t.xlt = s.xlt) ∧
  (∀ s : State, s.pwr.pllLock = true → s.pwr.pllLost = false → s.err.frozen = false → merUp s = true →
    s.pwr.restart = .none →
    (s.pwr.park = .parked →
      exec .resetLineRestart s = .next { s with pwr := { s.pwr with restart := .afterWake, park := .waking } }) ∧
    (s.pwr.park = .entering →
      exec .resetLineRestart s = .next { s with pwr := { s.pwr with restart := .afterWake, wakeHeld := true } }) ∧
    (s.pwr.park = .waking → exec .resetLineRestart s = .next { s with pwr := { s.pwr with restart := .afterWake } }) ∧
    (s.pwr.park = .running → fsBegun s = true →
      exec .resetLineRestart s = .next { s with pwr := { s.pwr with restart := .ordered } })) ∧
  (∀ s : State, s.pwr.pllLock = true → s.pwr.pllLost = false →
    (s.err.frozen = true ∨ merUp s = false ∨ s.pwr.restart ≠ .none) → exec .resetLineRestart s = .next s) ∧
  (∀ s : State, s.pwr.pllLock = false ∨ s.pwr.pllLost = true →
    exec .resetLineRestart s = exec (.resetLineFull false) s) ∧
  (∀ (s : State) (trains : List StackTrain) (lanes : List Nat) (us : BitVec 32), stopped s = false →
    restartMayEnd s = true → (restartEnd s trains lanes us).pwr.held = [] → (restartEnd s trains lanes us).mer.lheld = [] →
    (restartEnd s trains lanes us).rc.need = [] →
      ∃ t, exec (.blockRestartEnd trains lanes us) s = .next t ∧ t.pwr.restart = .none ∧ t.orr.units = [] ∧ t.orr.jobs = [] ∧
        t.sc.jobs = [] ∧ t.sc.entries = [] ∧ t.str.streams = [] ∧ t.str.faults = [] ∧ t.xlt.caches = [] ∧ t.tiles = [] ∧
        (∀ e ∈ t.xlt.ranges, e.2.inval = false) ∧ (∀ r ∈ t.mer.lruns, ∀ c, r ≠ .restart c))

/-- Errors and freeze (R545 to R548, R557 to R559). A corrected error of the mesh counts in its quadrant. Any other internal
error sets INT_UE and its source, counts and asserts the error line; it freezes the block where FRZ_CTRL says so, and
otherwise, with firmware running and no Park, restart or command of class F or S under way, starts a block restart. A
corrected error of Meridian's SRAM counts; an uncorrectable one sets MER_UE and halts Meridian, and freezes the block where
FRZ_CTRL says so. With no SCATTER under way, a parity error of a tile that is not gated counts: in an idle part it does no
more, in a cached hint or translation it drops the entry, in a running unit it takes the unit away. The freeze line freezes
the block with cause 0; an event that FRZ_CTRL enables freezes it with the event's cause and unit, and one that FRZ_CTRL does
not enable changes nothing; a frozen block settles, and nothing else changes then. -/
def Obligations.ErrorsAndFreezeTakeEffect : Prop :=
  (∀ (s : State) (q : Fin 4), stopped s = false → s.rc.need = [] →
    exec (.internalError (.meshCorrected q)) s = .next (bump1 s (ctrQuadMeshCe q))) ∧
  (∀ (s : State) (e : IntSource), stopped s = false → s.rc.need = [] → (∀ q, e ≠ .meshCorrected q) → e ≠ .meridianCorrected →
    (s.err.frzCtrl.getLsbD 0 = true →
      ∃ t, exec (.internalError e) s = .next t ∧ t.err.intUe = true ∧ t.err.intSrc = intCode e ∧ t.err.frozen = true ∧
        t.err.cause = 1 ∧ t.err.cunit = intCode e ∧ errLine t = true ∧ t.ctrs = addCtr s.ctrs ctrChipIntUe 1 ∧
        t.mem = s.mem ∧ t.rc = s.rc ∧ t.orr = s.orr ∧ t.pwr = s.pwr) ∧
    (s.err.frzCtrl.getLsbD 0 = false → merUp s = true → s.pwr.park = .running → s.pwr.restart = .none →
      fsBegun s = false →
        ∃ t, exec (.internalError e) s = .next t ∧ t.err = { s.err with intUe := true, intSrc := intCode e } ∧
          errLine t = true ∧ t.pwr.restart = .running ∧ (s.rc.snoop = [] → t.ctrs = addCtr s.ctrs ctrChipIntUe 1) ∧
          t.mem = s.mem ∧ t.rc.lines = s.rc.lines ∧ t.orr = s.orr)) ∧
  (∀ s : State, stopped s = false → s.rc.need = [] →
    exec (.internalError .meridianCorrected) s = .next (bump1 s ctrChipMerCe)) ∧
  (∀ s : State, stopped s = false → s.rc.need = [] → s.err.frzCtrl.getLsbD 1 = false →
    exec .meridianSramError s =
      .next { s with err := { s.err with merUe := true }, mer := { s.mer with halted := true } }) ∧
  (∀ s : State, stopped s = false → s.rc.need = [] → s.err.frzCtrl.getLsbD 1 = true →
    ∃ t, exec .meridianSramError s = .next t ∧ t.err.merUe = true ∧ t.err.frozen = true ∧ t.err.cause = 2 ∧
      t.mer = { s.mer with halted := true } ∧ t.mem = s.mem ∧ t.rc = s.rc) ∧
  (∀ (s : State) (t' : Fin 48), stopped s = false → s.rc.need = [] → s.pwr.park ≠ .parked → s.sc.jobs = [] →
    exec (.tileParityError t' .idle) s = .next (bump1 s (ctrTileTilePe t'))) ∧
  (∀ (s : State) (t' : Fin 48) (st wy : Nat), stopped s = false → s.rc.need = [] → s.pwr.park ≠ .parked → s.sc.jobs = [] →
    exec (.tileParityError t' (.hint st wy)) s = .next { bump1 s (ctrTileTileCe t') with
      alm := { s.alm with hints := mdel s.alm.hints (t'.val * 32768 + st % 4096 * 8 + wy % 8) } }) ∧
  (∀ (s : State) (t' : Fin 48) (i : Nat), stopped s = false → s.rc.need = [] → s.pwr.park ≠ .parked → s.sc.jobs = [] →
    exec (.tileParityError t' (.xlate i)) s = .next { bump1 s (ctrTileTileCe t') with
      xlt := { s.xlt with caches := mset s.xlt.caches t' ((mget s.xlt.caches t' []).eraseIdx i) } }) ∧
  (∀ (s : State) (t' : Fin 48) (uid : Nat) (u : Unit'), stopped s = false → s.pwr.park ≠ .parked → unitOf s uid = some u →
    u.tile = t'.val → u.st = .running → (scatGo (tileParity s t' (.other uid))).rc.need = [] →
    (tileParity s t' (.other uid)).sc.jobs = [] →
    ∃ t, exec (.tileParityError t' (.other uid)) s = .next t ∧ ∀ v ∈ t.orr.units, v.uid ≠ uid) ∧
  (∀ s : State, stopped s = false → s.rc.need = [] →
    exec .freezeLine s = .next { s with err := { s.err with
      frozen := true, cause := 0, cunit := 0, settled := false, frzPark := s.pwr.park != .running,
      frzRestart := s.pwr.restart == .running } }) ∧
  (∀ (s : State) (e : FreezeEvent) (b : Nat) (cause : BitVec 3) (u : BitVec 8), stopped s = false → s.rc.need = [] →
    ((e = .internal ∧ b = 0 ∧ cause = 1 ∧ u = s.err.intSrc ∧ s.err.intUe = true) ∨
      (e = .meridian ∧ b = 1 ∧ cause = 2 ∧ u = 0 ∧ s.err.merUe = true) ∨
      (e = .thermal ∧ b = 2 ∧ cause = 3 ∧ u = 0 ∧ 120 ≤ maxTemp s.pwr) ∨
      (∃ q, e = .hangQueue q ∧ b = 3 ∧ cause = 4 ∧ u = BitVec.ofNat 8 q.val) ∨
      (∃ k, e = .hangTile k ∧ b = 3 ∧ cause = 4 ∧ u = BitVec.ofNat 8 (0x80 + k.val)) ∨
      (e = .memUe u ∧ b = 4 ∧ cause = 5)) →
    (s.err.frzCtrl.getLsbD b = true →
      exec (.freezeOnEvent e) s = .next { s with err := { s.err with
        frozen := true, cause := cause, cunit := u, settled := false, frzPark := s.pwr.park != .running,
        frzRestart := s.pwr.restart == .running } }) ∧
    (s.err.frzCtrl.getLsbD b = false → exec (.freezeOnEvent e) s = .next s)) ∧
  (∀ s : State, s.err.frozen = true →
    exec .freezeSettled s = .next { s with err := { s.err with settled := true } })

/-- Every write of MB_CMD, whatever the command: while the block is frozen it is discarded and counts FRZ_HOST_REJ (R558).
Otherwise, with no earlier posted write of the host on its way (R410): on a channel that is not the master's it is discarded,
and from BAR0 it counts MB_DENY (R487); on a busy channel it is discarded, sets OVR and counts MB_OVR (R490); a halted
Meridian never answers, so that the channel stays busy (R497); without running firmware, with no Park, no restart and nothing
under way, it ends with WRONG_LEVEL (R482). -/
def Obligations.EveryMailboxWriteObeysItsChannel : Prop :=
  ∀ (i : Instr) (m : MbWrite) (opc : Nat) (s : State), mailboxWrite i = some (m, opc) →
    (s.err.frozen = true → exec i s = .next (bump1 s ctrChipFrzHostRej)) ∧
    (stopped s = false → s.rc.need = [] → (m.mgmt = true ∨ mbBehind s m opc = false) →
      (mbMaster s m = false → exec i s = .next (if m.mgmt then s else bump1 s ctrChipMbDeny)) ∧
      (mbMaster s m = true → (chanOf s m.ch).busy = true →
        exec i s = .next (bump1 (setChan s m.ch { chanOf s m.ch with ovr := true }) (ctrMbMbOvr m.ch))) ∧
      (mbMaster s m = true → (chanOf s m.ch).busy = false → s.mer.halted = true →
        exec i s = .next (mbTake s m opc)) ∧
      (mbMaster s m = true → (chanOf s m.ch).busy = false → s.mer.halted = false → s.mer.running = false →
        s.pwr.park = .running → s.pwr.restart = .none → s.mer.lruns = [] → s.pwr.held = [] →
          exec i s = .next (mbEnds s m opc rcLevel [])))

/-- Commands of group 0 that start at once (R486, R501, R505, R550, R551). IDENTIFY returns stepping B1 (0x21), major 1,
minor 4, the fabric chip number and the service level; EVENT_READ writes the oldest records of the caller's log, up to the
number asked for, and removes them; COUNTER_READ writes the records of the units asked for, one or all of the set, and the
clearing form clears the event counters read as they stood when they were read; BIND_CHANNEL gives a channel its master and
groups while the table is unlocked (a channel may not unbind itself), and LOCK_BINDINGS locks it, after which BIND_CHANNEL
returns BAD_STATE. -/
def Obligations.IdentificationCommandsComplete : Prop :=
  (∀ (s : State) (m : MbWrite), MbStarts rowIdentify m s → s.rc.need = [] →
    ∃ t d1 d2, exec (.identify m) s = .next t ∧
      t = mbEnds s m 0x01 rcOk [(0, BitVec.ofNat 64 (0x21 + 2 ^ 8 + 4 * 2 ^ 16 + Config.fwBuild.toNat * 2 ^ 24)), (1, d1), (2, d2)] ∧
      fld d1 0 12 = s.mer.fabric.toNat ∧ fld d1 12 2 = s.pwr.sl.toNat ∧
      MbDone t m.ch rcOk [(0, BitVec.ofNat 64 (0x21 + 2 ^ 8 + 4 * 2 ^ 16 + Config.fwBuild.toNat * 2 ^ 24)), (1, d1), (2, d2)]) ∧
  (∀ (s : State) (m : MbWrite) (w : State → List Byte → State), MbStarts rowEventRead m s →
    1 ≤ (mbCtx s m).f 1 0 13 → (mbCtx s m).f 1 0 13 ≤ 4096 →
    BufTakes (mbTake s m 0x02) (mbCtx s m) ((mbCtx s m).p 0) (32 * (mbCtx s m).f 1 0 13) w →
    let log := (if m.mgmt then s.evt.mgmt else s.evt.host).take ((mbCtx s m).f 1 0 13)
    let u := eventTake (w (mbTake s m 0x02) (log.flatMap eventBytes)) m.mgmt log.length
    u.rc.need = [] →
      exec (.eventRead m) s = .next (mbComplete u m.ch rcOk [(0, BitVec.ofNat 64 log.length),
        (1, BitVec.ofNat 64 (if m.mgmt then s.evt.lostMgmt else s.evt.lostHost))])) ∧
  (∀ (s : State) (m : MbWrite) (w : State → List Byte → State) (n : Nat) (us : List Nat) (clear : Bool),
    MbStarts rowCounterRead m s →
    (mbCtx s m).f 0 0 8 = (if clear then 128 else 0) + n → n ≤ 13 →
    (((mbCtx s m).f 1 0 16 = 0xFFFF ∧ us = List.range (ctrUnits.getD n 0)) ∨
      ((mbCtx s m).f 1 0 16 < ctrUnits.getD n 0 ∧ us = [(mbCtx s m).f 1 0 16])) →
    BufTakes (mbTake s m 0x03) (mbCtx s m) ((mbCtx s m).p 2) (us.length * (32 + 8 * ctrWords.getD n 0)) w →
    let u := w (mbTake s m 0x03) (us.zipIdx.flatMap (fun x => ctrRecord (mbTake s m 0x03) n x.1 x.2))
    u.rc.need = [] →
      exec (.counterRead m) s = .next (mbComplete
        (if clear then us.foldl (fun t k => ctrClear (mbTake s m 0x03) t n k) u else u) m.ch rcOk
        [(0, BitVec.ofNat 64 (us.length * (32 + 8 * ctrWords.getD n 0)))])) ∧
  (∀ (s : State) (m : MbWrite) (k : Nat), MbStarts rowBindChannel m s → s.rc.need = [] → s.mer.locked = false →
    (mbCtx s m).f 0 0 4 = k →
    ((mbCtx s m).f 0 4 2 = 3 ∨ (k = m.ch.val ∧ (mbCtx s m).f 0 4 2 = 0) →
      exec (.bindChannel m) s = .next (mbEnds s m 0x04 rcInvalid [])) ∧
    ((mbCtx s m).f 0 4 2 ≠ 3 → (k = m.ch.val → (mbCtx s m).f 0 4 2 ≠ 0) →
      ∃ t, exec (.bindChannel m) s = .next t ∧ MbDone t m.ch rcOk [] ∧
        (chanOf t k).master = BitVec.ofNat 2 ((mbCtx s m).f 0 4 2) ∧
        (chanOf t k).groups = BitVec.ofNat 8 ((mbCtx s m).f 0 8 8) ∧
        (∀ c, c ≠ k → c ≠ m.ch.val → chanOf t c = chanOf s c) ∧
        t.mer = s.mer ∧ t.mem = s.mem ∧ t.rc = s.rc ∧ t.ctrs = s.ctrs)) ∧
  (∀ (s : State) (m : MbWrite), MbStarts rowBindChannel m s → s.rc.need = [] → s.mer.locked = true →
    exec (.bindChannel m) s = .next (mbEnds s m 0x04 rcBadState [])) ∧
  (∀ (s : State) (m : MbWrite), MbStarts rowLockBindings m s → s.rc.need = [] →
    exec (.lockBindings m) s = .next (mbEnds { s with mer := { s.mer with locked := true } } m 0x05 rcOk []))

/-- Reserved opcodes and overruns (R490, R492), with no earlier posted write of the host on its way: on a free channel of a
running Meridian a reserved opcode ends with UNKNOWN_COMMAND; a write on a busy channel sets OVR, counts, and leaves the
command under way as it was. -/
def Obligations.ReservedOpcodeAndOverrunTakeEffect : Prop :=
  (∀ (s : State) (m : MbWrite) (opc : BitVec 8), stopped s = false → s.rc.need = [] →
    (m.mgmt = true ∨ mbBehind s m opc.toNat = false) →
    mbMaster s m = true → (chanOf s m.ch).busy = false → s.mer.running = true → s.mer.halted = false →
    mbFind opc.toNat = none →
      ∃ t, exec (.mailboxReservedOpcode m opc) s = .next t ∧ t = mbEnds s m opc.toNat rcUnknown [] ∧ MbDone t m.ch rcUnknown []) ∧
  (∀ (s : State) (m : MbWrite) (opc : BitVec 8), stopped s = false → s.rc.need = [] →
    (m.mgmt = true ∨ mbBehind s m opc.toNat = false) →
    mbMaster s m = true → (chanOf s m.ch).busy = true →
      exec (.mailboxOverrun m opc) s = .next (bump1 (setChan s m.ch { chanOf s m.ch with ovr := true }) (ctrMbMbOvr m.ch)))

/-- Register writes, with no earlier posted write of the host on its way (R397, R399, R572, R574, R575, R588, R589). HW_WIN
takes a base that `winOk` permits (inside one tier and, with the aperture closed, off the protected areas), its hint and
enable, and writing 1 clears ERR; any other base it keeps, sets ERR and counts; unmasking an MSI-X vector with the host path
attached sends its pending message; SCRATCH is a private word of each master; FRZ_CTRL is written over the management port
alone; writing 1 clears TRIP; a host's write of a semaphore's value sets it and one over the management port is discarded; a
write with a partial word, or across a block of 64 bytes, is discarded whole. -/
def Obligations.RegisterWritesTakeEffect : Prop :=
  (∀ (s : State) (v : W64), stopped s = false → s.rc.need = [] → mustWait s (.reg 0x40 [v]) = false →
    (winOk s (winBase v) = true →
      exec (.hwWinWrite v) s = .next { s with hp := { s.hp with
        win := BitVec.ofNat 64 (fld v 0 27 + fld v 27 3 * 2 ^ 27 + b2n (bit s.hp.win 30 && !bit v 30) * 2 ^ 30) } }) ∧
    (winOk s (winBase v) = false →
      exec (.hwWinWrite v) s = .next (bump1 { s with hp := { s.hp with
        win := BitVec.ofNat 64 (fld s.hp.win 0 27 + fld v 27 3 * 2 ^ 27 + 2 ^ 30) } } ctrChipHwWinRefuse))) ∧
  (∀ (s : State) (v : Fin 81), stopped s = false → s.rc.need = [] → hostUp s = true →
    mustWait s (.reg (0x40008 + 16 * v.val) [msixWord s v 1 &&& 0xFFFFFFFEFFFFFFFF#64]) = false →
    ∃ t, exec (.msixVectorUnmask v) s = .next t ∧ msixMasked t v = false ∧
      t.msix.sent = (if s.msix.pba.contains v.val then s.msix.sent ++ [v.val] else s.msix.sent) ∧
      t.msix.pba.contains v.val = false ∧ t.mem = s.mem ∧ t.rc = s.rc ∧ t.orr = s.orr ∧ t.ctrs = s.ctrs) ∧
  (∀ (s : State) (v : W64), stopped s = false → s.rc.need = [] →
    (mustWait s (.reg 0x68 [v]) = false → exec (.registerWrite false 0x68 [v]) s = .next { s with scratchHost := v }) ∧
    exec (.registerWrite true 0x68 [v]) s = .next { s with scratchMgmt := v }) ∧
  (∀ (s : State) (v : W64), s.rc.need = [] →
    (s.err.frozen = true ∨ stopped s = false →
      exec (.registerWrite true 0x20 [v]) s = .next { s with err := { s.err with frzCtrl := v.truncate 5 } }) ∧
    (s.err.frozen = true ∨ (stopped s = false ∧ mustWait s (.reg 0x20 [v]) = false) →
      exec (.registerWrite false 0x20 [v]) s = .next (bump1 s ctrChipFrzHostRej))) ∧
  (∀ (s : State) (b : Bool) (v : W64), stopped s = false → s.rc.need = [] → (b = true ∨ mustWait s (.reg 0x10 [v]) = false) →
    exec (.registerWrite b 0x10 [v]) s = .next { s with pwr := { s.pwr with trip := s.pwr.trip && !bit v 7 } }) ∧
  (∀ (s : State) (i : Fin 1024) (v : W64), stopped s = false → s.rc.need = [] →
    (mustWait s (.reg (0x30000 + 8 * i.val) [v]) = false →
      exec (.registerWrite false (0x30000 + 8 * i.val) [v]) s = exec (.semValWrite i ⟨v, false⟩) s) ∧
    exec (.registerWrite true (0x30000 + 8 * i.val) [v]) s = .next s) ∧
  (∀ (s : State) (b : Bool) (off : Nat) (ws : List W64),
    (off % 8 ≠ 0 ∨ ws = [] ∨ 8 < ws.length ∨ 64 < off % 64 + 8 * ws.length) →
      exec (.registerWrite b off ws) s = .next s)

/-- Commands that define tables (R44, R45, R67, R71, R72, R277, R506). LOAD_CODEBOOK stores a checked codebook under its
number on the chip and in all eight companions, and returns OK at once where the same codebook stands there; DEFINE_TABLE
takes a FREE descriptor to LOADING with the fields of the image, the TVER given and the seed (one that it draws where the
image's is zero); BIND_TABLE makes a ready version LIVE under its table number; DROP_TABLE makes a version RETIRING;
SET_SPLIT_GROUP stores the record of a group of this chip alone, or of 2^l chips with this chip's number at its rank. Beside
what accesses to the tiers touch, nothing changes but the tables and the companions' copies, the tiles' codebook caches with
LOAD_CODEBOOK, and the count of draws with DEFINE_TABLE. -/
def Obligations.TableDefinitionsTakeEffect : Prop :=
  (∀ (s s1 s2 : State) (m : MbWrite) (h ent : List Byte) (id : Nat) (cb : Codebook), MbStarts rowLoadCodebook m s →
    BufReads (mbTake s m 0x10) (mbCtx s m) ((mbCtx s m).p 0) 32 s1 h → cbHdrOk h = true →
    BufReads s1 (mbCtx s m) ((mbCtx s m).p 0 + 32) (2 * cbLen (numAt h 0 4 / 1024 % 4)) s2 ent →
    cbCheck s2 h ent = .ok (id, cb) →
    (mget? s2.tabs.cbs id = some cb → s2.rc.need = [] →
      exec (.loadCodebook m) s = .next (mbComplete s2 m.ch rcOk [])) ∧
    (mget? s2.tabs.cbs id ≠ some cb → downPorts s2 = [] → (storeCb s2 id cb).rc.need = [] →
      ∃ t, exec (.loadCodebook m) s = .next t ∧ MbEnded s2 t m.ch rcOk [] ∧ mget? t.tabs.cbs id = some cb ∧
        (∀ j, j ≠ id → mget? t.tabs.cbs j = mget? s2.tabs.cbs j) ∧ (∀ k, k < 8 → mget? (lyOf t k).cbs id = some cb) ∧
        { memUndo s2 (mbUndo s2 t) with tabs := { t.tabs with cbs := s2.tabs.cbs }, ly := s2.ly, tiles := s2.tiles } = s2)) ∧
  (∀ (s s1 u : State) (m : MbWrite) (l : List Byte) (d : Nat) (x : Desc) (seed : W64), MbStarts rowDefineTable m s →
    BufReads (mbTake s m 0x11) (mbCtx s m) ((mbCtx s m).p 0) 128 s1 l → (mbCtx s m).f 1 0 12 = d →
    descOfBytes l ((mbCtx s m).f 2 0 16) = x → (x.resident = true → s1.pwr.sl = 3) → (descOf s1 d).dstate = 0 →
    findDesc s1 x.table (fun y => y.tver == x.tver) = none → descRefuse s1 l x = none → downPorts s1 = [] →
    (u, seed) = (if x.tseed = 0 then draw s1 else (s1, x.tseed)) →
    (defineDesc u d { x with tseed := seed }).rc.need = [] →
      ∃ t, exec (.defineTable m) s = .next t ∧ MbEnded s1 t m.ch rcOk [(0, seed)] ∧ descOf t d = { x with tseed := seed } ∧
        (descOf t d).dstate = 1 ∧ (∀ e, e ≠ d → descOf t e = descOf s1 e) ∧ t.tabs.binding = s1.tabs.binding ∧
        (∀ k, k < 8 → mget? (lyOf t k).ctx d = some (ctxOfDesc { x with tseed := seed })) ∧
        { memUndo s1 (mbUndo s1 t) with tabs := s1.tabs, ly := s1.ly, draws := s1.draws } = s1) ∧
  (∀ (s : State) (m : MbWrite) (d : Nat) (x : Desc), MbStarts rowBindTable m s →
    liveDesc s ((mbCtx s m).f 0 0 12) = none →
    findDesc s ((mbCtx s m).f 0 0 12) (fun y => y.dstate == 1 && y.tver == BitVec.ofNat 16 ((mbCtx s m).f 0 16 16)) = some (d, x) →
    lUsed s d = false → versionReady s d x = true → (bindDesc (mbTake s m 0x14) d).rc.need = [] →
      ∃ t, exec (.bindTable m) s = .next t ∧ MbEnded s t m.ch rcOk [] ∧ descOf t d = { descOf s d with dstate := 2 } ∧
        (∀ e, e ≠ d → descOf t e = descOf s e) ∧ mget? t.tabs.binding (descOf s d).table = some d ∧
        (∀ n, n ≠ (descOf s d).table → mget? t.tabs.binding n = mget? s.tabs.binding n) ∧
        { memUndo s (mbUndo s t) with tabs := s.tabs } = s) ∧
  (∀ (s : State) (m : MbWrite) (d : Nat) (x : Desc), MbStarts rowDropTable m s →
    findDesc s ((mbCtx s m).f 0 0 12) (fun y => y.dstate != 3 && y.tver == BitVec.ofNat 16 ((mbCtx s m).f 0 16 16)) = some (d, x) →
    lUsed s d = false → (retireDesc (mbTake s m 0x15) d).rc.need = [] →
      ∃ t, exec (.dropTable m) s = .next t ∧ MbEnded s t m.ch rcOk [] ∧ descOf t d = { descOf s d with dstate := 3 } ∧
        (∀ e, e ≠ d → descOf t e = descOf s e) ∧
        t.tabs.binding = (if (descOf s d).dstate = 2 then mdel s.tabs.binding (descOf s d).table else s.tabs.binding) ∧
        { memUndo s (mbUndo s t) with tabs := s.tabs } = s) ∧
  (∀ (s : State) (m : MbWrite), MbStarts rowSetSplitGroup m s → s.rc.need = [] → (mbCtx s m).f 0 6 3 = 0 →
    (mbCtx s m).f 0 9 6 = 0 → (mbCtx s m).p 1 = 0 →
    s.tabs.descs.any (fun e => e.2.dstate != 0 && e.2.group == (mbCtx s m).f 0 0 6) = false →
      exec (.setSplitGroup m) s = .next (mbEnds { s with tabs := { s.tabs with
        groups := mset s.tabs.groups ((mbCtx s m).f 0 0 6) { log2s := 0, rank := 0, chips := [s.mer.fabric] } } }
        m 0x1D rcOk [])) ∧
  (∀ (s s1 : State) (m : MbWrite) (b : List Byte) (l k : Nat), MbStarts rowSetSplitGroup m s →
    (mbCtx s m).f 0 6 3 = l → (mbCtx s m).f 0 9 6 = k → 1 ≤ l → l < 7 → k < 2 ^ l →
    s.tabs.descs.any (fun e => e.2.dstate != 0 && e.2.group == (mbCtx s m).f 0 0 6) = false →
    BufReads (mbTake s m 0x1D) (mbCtx s m) ((mbCtx s m).p 1) (2 * 2 ^ l) s1 b → s1.rc.need = [] →
    (∀ i, i < 2 ^ l → numAt b (2 * i) 2 < 4095) → numAt b (2 * k) 2 = s1.mer.fabric.toNat →
      exec (.setSplitGroup m) s = .next (mbComplete { s1 with tabs := { s1.tabs with
        groups := mset s1.tabs.groups ((mbCtx s m).f 0 0 6) (Machine.Group.mk l k
          ((List.range (2 ^ l)).map (fun i => BitVec.ofNat 12 (numAt b (2 * i) 2)))) } } m.ch rcOk []))

/-- Loads and dumps (R60, R62, R63, R506, R513). LOAD_IMAGE of a LOADING descriptor that nothing else uses, its image and its
state file (if one is given) read, completes with what `loadImage` answers. An image whose header fails ends with
FORMAT_ERROR at offset 0 and changes nothing more. An image that passes its three steps returns its number of slices, that
many rows having been written slice by slice after the version's areas were cleared; a state file that passes its two steps
returns its number of records, written after the slices; the version can then be committed, and no descriptor and no binding
changes. DUMP_TABLE with buffers large enough writes the image that `dumpRows` gives, and before it the state file if one is
asked for, and returns their lengths and the number of rows; reading them changes no table. -/
def Obligations.TableLoadsAndDumpsTakeEffect : Prop :=
  (∀ (s s1 s2 : State) (m : MbWrite) (img : List Byte) (file : Option (List Byte)) (d : Nat), MbStarts rowLoadImage m s →
    (mbCtx s m).f 2 0 12 = d → (descOf s d).dstate = 1 → lUsed s d = false →
    BufReads (mbTake s m 0x12) (mbCtx s m) ((mbCtx s m).p 0) ((mbCtx s m).f 1 0 64) s1 img →
    (((mbCtx s m).p 3 = 0 ∧ (mbCtx s m).f 4 0 64 = 0 ∧ file = none ∧ s2 = s1) ∨
      ((mbCtx s m).p 3 ≠ 0 ∧ ∃ f, file = some f ∧ BufReads s1 (mbCtx s m) ((mbCtx s m).p 3) ((mbCtx s m).f 4 0 64) s2 f)) →
    (∃ t rc rets, loadImage s2 d img file = .done t rc rets ∧
      (t.rc.need = [] → exec (.loadImage m) s = .next (mbComplete t m.ch rc rets))) ∧
    (imgHdrOk img (descOf s2 d) = false → s2.rc.need = [] →
      exec (.loadImage m) s = .next (mbComplete s2 m.ch rcFormat [(0, 0), (1, 0), (2, 0), (3, 0)])) ∧
    (∀ (s3 s4 s5 : State) (rows : List Nat) (stop n : Nat), imgHdrOk img (descOf s2 d) = true →
      loadCbs (descOf s2 d) img (imgHdr img).slOff (imgHdr img).ncb (imgHdr img).cbOff [] s2 = (s3, none) →
      loadSlices d (descOf s2 d) img (imgHdr img).nsl (imgHdr img).slOff 0 [] (clearAreas s3 (descOf s2 d)) =
        (s4, none, rows, stop) →
      crc32 (bytesAt img (imgHdr img).slOff (stop - (imgHdr img).slOff)) = (imgHdr img).slCrc →
      ((file = none ∧ s5 = s4 ∧ n = 0) ∨
        (∃ f, file = some f ∧ stHdrOk f (descOf s2 d) = true ∧
          loadStates d (descOf s2 d) f rows (numAt f 8 8) 16 0 0 s4 = (s5, none, n))) → s5.rc.need = [] →
        ∃ t, exec (.loadImage m) s = .next t ∧ MbDone t m.ch rcOk [(1, BitVec.ofNat 64 (imgHdr img).nsl), (2, BitVec.ofNat 64 n)] ∧
          rows.length = (imgHdr img).nsl ∧ t.mem = s5.mem ∧ t.rc = s5.rc ∧ d ∉ t.tabs.loadFailed ∧
          t.tabs.descs = s2.tabs.descs ∧ t.tabs.binding = s2.tabs.binding ∧
          { memUndo s2 (mbUndo s2 t) with tabs := s2.tabs, ly := s2.ly, tiles := s2.tiles } = s2)) ∧
  (∀ (s s1 u : State) (m : MbWrite) (w w1 : State → List Byte → State) (rows : List DumpRow) (st : List Byte) (d : Nat),
    MbStarts rowDumpTable m s → (mbCtx s m).f 2 0 12 = d →
    2 ≤ (descOf s d).dstate → lUsed s d = false →
    64 + (dumpCbs s (descOf s d)).length + (descOf s d).rows * (8 + homeSz (descOf s d)) ≤ (mbCtx s m).f 1 0 64 →
    dumpRows d (descOf s d).rows 0 (mbTake s m 0x13) = (s1, rows) →
    (((mbCtx s m).p 3 = 0 ∧ (mbCtx s m).f 4 0 64 = 0 ∧ st = [] ∧ u = s1) ∨
      ((mbCtx s m).p 3 ≠ 0 ∧ 16 + (descOf s d).rows * (8 + (descOf s d).stateSz * 32) ≤ (mbCtx s m).f 4 0 64 ∧
        BufTakes (mbTake s m 0x13) (mbCtx s m) ((mbCtx s m).p 3) ((mbCtx s m).f 4 0 64) w1 ∧
        st = dumpState (descOf s d) rows ∧ u = w1 s1 st)) →
    BufTakes u (mbCtx s m) ((mbCtx s m).p 0) ((mbCtx s m).f 1 0 64) w →
    (w u (dumpImage u (descOf s d) rows)).rc.need = [] →
      ∃ t, exec (.dumpTable m) s = .next t ∧
        t = mbComplete (w u (dumpImage u (descOf s d) rows)) m.ch rcOk
          [(0, BitVec.ofNat 64 (dumpImage u (descOf s d) rows).length), (1, BitVec.ofNat 64 st.length),
           (2, BitVec.ofNat 64 rows.length)] ∧
        s1.tabs = s.tabs)

/-- Commands that set a table's parameters (R174, R229 to R232, R234, R238, R239, R506). TABLE_PARAMS changes exactly the
fields that its mask selects, at once where no companion has an open batch of the descriptor, and otherwise stays acknowledged;
LOAD_PROG stores a program that passes its checks on the chip and in the companions, returns OK at once where the same program
stands there, and refuses to replace one in use; LOAD_PSET stores a parameter set with this chip's part of the mask on the
chip, and in each companion that has no open batch with it; SET_SKEW_POLICY and SET_SCRUB_POLICY set their one value;
RELEASE_MAP drops a map that nothing reads and marks one that is read, and returns NOT_FOUND where there is none; FREEZE_ROW
writes byte 5 of the home header and returns the old mark; LEVEL_ROW returns the step that the companion reports. -/
def Obligations.TableParametersTakeEffect : Prop :=
  (∀ (s : State) (m : MbWrite) (d : Nat) (y : Desc), MbStarts rowTableParams m s → (mbCtx s m).f 0 0 12 = d →
    (∀ i, i < 4 → (BitVec.ofNat 4 ((mbCtx s m).f 0 12 4)).getLsbD i = false → (mbCtx s m).f (i + 1) 0 27 = 0) →
    ((descOf s d).dstate = 1 ∨ (descOf s d).dstate = 2) → lUsed s d = false → downPorts s = [] →
    y = withParams (descOf s d) (BitVec.ofNat 4 ((mbCtx s m).f 0 12 4)) (BitVec.ofNat 27 ((mbCtx s m).f 1 0 27))
      (BitVec.ofNat 27 ((mbCtx s m).f 2 0 27)) (BitVec.ofNat 27 ((mbCtx s m).f 3 0 27)) ((mbCtx s m).f 4 0 8) →
    (paramsApplied (allLy (mbTake s m 0x16) (fun _ l => lyLoadCtx l d (ctxOfDesc y))) d = true →
      (putDesc (allLy (mbTake s m 0x16) (fun _ l => lyLoadCtx l d (ctxOfDesc y))) d y).rc.need = [] →
        ∃ t, exec (.tableParams m) s = .next t ∧ MbEnded s t m.ch rcOk [] ∧ descOf t d = y ∧
          (∀ e, e ≠ d → descOf t e = descOf s e) ∧ t.tabs.binding = s.tabs.binding ∧
          { memUndo s (mbUndo s t) with tabs := s.tabs, ly := s.ly } = s) ∧
    (paramsApplied (allLy (mbTake s m 0x16) (fun _ l => lyLoadCtx l d (ctxOfDesc y))) d = false → s.rc.need = [] →
      ∃ t, exec (.tableParams m) s = .next t ∧ (chanOf t m.ch).ack = true ∧ (chanOf t m.ch).busy = true ∧
        t.mer.lruns = s.mer.lruns ++ [.params m.ch d (BitVec.ofNat 4 ((mbCtx s m).f 0 12 4))
          (BitVec.ofNat 27 ((mbCtx s m).f 1 0 27)) (BitVec.ofNat 27 ((mbCtx s m).f 2 0 27))
          (BitVec.ofNat 27 ((mbCtx s m).f 3 0 27)) ((mbCtx s m).f 4 0 8)] ∧ t.tabs = s.tabs ∧ t.mem = s.mem ∧ t.rc = s.rc)) ∧
  (∀ (s s1 s2 : State) (m : MbWrite) (h body : List Byte) (n : Nat), MbStarts rowLoadProg m s →
    BufReads (mbTake s m 0x17) (mbCtx s m) ((mbCtx s m).p 0) 16 s1 h → numAt h 0 4 / 2 ^ 14 % 4 < 2 →
    numAt h 0 4 / 2 ^ 18 % 4 ≠ 3 → numAt h 0 4 < 2 ^ 23 → numAt h 8 8 = 0 → n = numAt h 0 4 / 2 ^ 8 % 64 + 1 →
    BufReads s1 (mbCtx s m) ((mbCtx s m).p 0 + 16) (4 * n) s2 body → crc32 body = numAt h 4 4 →
    (∀ i, i < n → insOk (progOf (numAt h 0 4) body).nsv (numAt body (4 * i) 4) = true) → s2.rc.need = [] →
    (mget? s2.tabs.progs (numAt h 0 4 % 256) = some (progOf (numAt h 0 4) body) →
      exec (.loadProg m) s = .next (mbComplete s2 m.ch rcOk [])) ∧
    (mget? s2.tabs.progs (numAt h 0 4 % 256) ≠ some (progOf (numAt h 0 4) body) →
      progUsed s2 (numAt h 0 4 % 256) = true → mget? s2.tabs.progs (numAt h 0 4 % 256) ≠ none →
        exec (.loadProg m) s = .next (mbComplete s2 m.ch rcInUse [])) ∧
    (mget? s2.tabs.progs (numAt h 0 4 % 256) ≠ some (progOf (numAt h 0 4) body) →
      (progUsed s2 (numAt h 0 4 % 256) = false ∨ mget? s2.tabs.progs (numAt h 0 4 % 256) = none) → downPorts s2 = [] →
        ∃ t, exec (.loadProg m) s = .next t ∧ MbEnded s2 t m.ch rcOk [] ∧
          mget? t.tabs.progs (numAt h 0 4 % 256) = some (progOf (numAt h 0 4) body) ∧
          (∀ k, k < 8 → mget? (lyOf t k).progs (numAt h 0 4 % 256) = some (progOf (numAt h 0 4) body)) ∧
          { mbUndo s2 t with tabs := { t.tabs with progs := s2.tabs.progs }, ly := s2.ly } = s2)) ∧
  (∀ (s s1 s2 : State) (m : MbWrite) (l mk : List Byte) (d w : Nat), MbStarts rowLoadPset m s →
    (mbCtx s m).f 2 0 12 = d → (mbCtx s m).f 2 12 17 = w → (descOf s d).dstate ≠ 0 →
    w = 2 ^ (descOf s d).log2s * (descOf s d).cols → lUsed s d = false →
    BufReads (mbTake s m 0x18) (mbCtx s m) ((mbCtx s m).p 0) 48 s1 l → (bytesAt l 1 15).any (fun b => b != 0) = false →
    BufReads s1 (mbCtx s m) ((mbCtx s m).p 1) ((w + 7) / 8) s2 mk → downPorts s2 = [] → s2.rc.need = [] →
      ∃ t p, exec (.loadPset m) s = .next t ∧ MbEnded s2 t m.ch rcOk [] ∧ mget? t.tabs.psets (numAt l 0 1) = some p ∧
        p.p = (List.range 8).map (fun i => BitVec.ofNat 32 (numAt l (16 + 4 * i) 4)) ∧
        p.frozen = (List.range (descOf s d).cols).map (fun j =>
          (numAt mk (((descOf s d).rank * (descOf s d).cols + j) / 8) 1).testBit
            (((descOf s d).rank * (descOf s d).cols + j) % 8)) ∧
        (∀ k, k < 8 → lyOpenPset (lyOf s2 k) (numAt l 0 1) = false → mget? (lyOf t k).psets (numAt l 0 1) = some p) ∧
        { mbUndo s2 t with tabs := { t.tabs with psets := s2.tabs.psets }, ly := s2.ly } = s2) ∧
  (∀ (s : State) (m : MbWrite), MbStarts rowSetSkewPolicy m s → s.rc.need = [] → lUsed s ((mbCtx s m).f 0 0 12) = false →
    exec (.setSkewPolicy m) s = .next (mbEnds { s with tabs := { s.tabs with
      manual := if bit ((mbCtx s m).a 0) 12 then sins s.tabs.manual ((mbCtx s m).f 0 0 12)
        else sdel s.tabs.manual ((mbCtx s m).f 0 0 12) } } m 0x1A rcOk [])) ∧
  (∀ (s : State) (m : MbWrite), MbStarts rowSetScrubPolicy m s → s.rc.need = [] →
    ((mbCtx s m).f 0 0 32 ≤ 50000000 → exec (.setScrubPolicy m) s =
      .next (mbEnds { s with mer := { s.mer with scrubRate := (mbCtx s m).f 0 0 32 } } m 0x1E rcOk [])) ∧
    (50000000 < (mbCtx s m).f 0 0 32 → exec (.setScrubPolicy m) s = .next (mbEnds s m 0x1E rcInvalid []))) ∧
  (∀ (s : State) (m : MbWrite) (id : BitVec 16), MbStarts rowReleaseMap m s → s.rc.need = [] →
    BitVec.ofNat 16 ((mbCtx s m).f 0 0 16) = id →
    (s.sc.maps.any (fun b => b.id == id && !b.relAsked) = true →
      ∃ t, exec (.releaseMap m) s = .next t ∧ t = mbEnds (releaseMap s id) m 0x1C rcOk [] ∧
        (∀ b ∈ t.sc.maps, b.id = id → b.relAsked = true ∧ b.readers ≠ 0) ∧
        (∀ b ∈ s.sc.maps, b.id ≠ id → b ∈ t.sc.maps)) ∧
    (s.sc.maps.any (fun b => b.id == id && !b.relAsked) = false →
      exec (.releaseMap m) s = .next (mbEnds s m 0x1C rcNotFound []))) ∧
  (∀ (s s1 : State) (m : MbWrite) (d row : Nat) (h : List Byte), MbStarts rowFreezeRow m s → (mbCtx s m).f 0 0 12 = d →
    (mbCtx s m).f 1 0 40 = row → (descOf s d).dstate ≠ 0 → (descOf s d).resident = false → row < (descOf s d).rows →
    lUsed s d = false → scatterBusy s d = false → portUp s (homeComp d (descOf s d) row) = true →
    readHdr (mbTake s m 0x19) d row = (s1, h, false) → slPop h = true →
    (writeExt s1 (homeAddr d (descOf s d) row + 5)
      (toBytes 1 (numAt h 5 1 - numAt h 5 1 / 2 % 2 * 2 + (mbCtx s m).f 2 0 1 * 2)) 0 false).rc.need = [] →
      ∃ t, exec (.freezeRow m) s = .next t ∧ MbEnded s t m.ch rcOk [(0, BitVec.ofNat 64 (numAt h 5 1 / 2 % 2))] ∧
        t.mem = (writeExt s1 (homeAddr d (descOf s d) row + 5)
          (toBytes 1 (numAt h 5 1 - numAt h 5 1 / 2 % 2 * 2 + (mbCtx s m).f 2 0 1 * 2)) 0 false).mem ∧
        memUndo s (mbUndo s t) = s) ∧
  (∀ (s : State) (m : MbWrite) (d row : Nat), MbStarts rowLevelRow m s → (mbCtx s m).f 0 0 12 = d →
    (mbCtx s m).f 1 0 40 = row → (descOf s d).dstate ≠ 0 → row < (descOf s d).rows → lUsed s d = false →
    portUp s (homeComp d (descOf s d) row) = true →
    (sendLevel (mbTake s m 0x1B) d row ((mbCtx s m).f 2 0 24)).1.rc.need = [] →
    (sendLevel (mbTake s m 0x1B) d row ((mbCtx s m).f 2 0 24)).2.result = 8 →
      exec (.levelRow m) s = .next (mbComplete (sendLevel (mbTake s m 0x1B) d row ((mbCtx s m).f 2 0 24)).1 m.ch rcOk
        [(0, BitVec.ofNat 64 (sendLevel (mbTake s m 0x1B) d row ((mbCtx s m).f 2 0 24)).2.step)]))

/-- Commands that lay out the memory (R301, R306, R328, R507, R511, R543). SET_LAYOUT takes sizes at or above their minimum
that fit below the fixed areas, and returns the base of the area block; smaller ones end with INVALID_ARGUMENT and larger ones
with NO_SPACE. SET_MEM_SPLIT takes three non-zero shares of 5 % that sum to 100 % and refuses others; SET_MEM_POLICY keeps a
value whose field is zero, and refuses a scrub period above 168; SET_STRIPE gives one stripe that nothing uses its mode, and
leaves no line of it in the row cache; MEM_HEALTH of a companion whose port is up writes its seven counters, and of a stack
what the free layout `Config.stackReport` makes of its state (log entry 26). -/
def Obligations.MemoryLayoutCommandsTakeEffect : Prop :=
  (∀ (s : State) (m : MbWrite) (x : Layout), MbStarts rowSetLayout m s → s.rc.need = [] → layoutArgs (mbCtx s m) = x →
    (s.pwr.fullSr = true → x = (s.mer.nvm.bind (fun n => n.layout)).getD Layout.default) →
    (layoutMin x = false → exec (.setLayout m) s = .next (mbEnds s m 0x20 rcInvalid [])) ∧
    (layoutMin x = true → tierFEnd < layoutSum x + 0x20000000 →
      exec (.setLayout m) s = .next (mbEnds s m 0x20 rcNoSpace [])) ∧
    (layoutMin x = true → layoutSum x + 0x20000000 ≤ tierFEnd →
      ∃ t, exec (.setLayout m) s = .next t ∧
        MbEnded s t m.ch rcOk [(0, BitVec.ofNat 64 (0x5FE0000000 - layoutSum x))] ∧ blockBase t = 0x5FE0000000 - layoutSum x ∧
        t.mer.layout = some x ∧ (t.mer.nvm.bind (fun n => n.layout)) = some x ∧
        (s.pwr.fullSr = false → ∀ i, i < 512 → (stripeOf t i).mode =
          if overlap (i * 0x30000000) 0x30000000 (blockBase t) (tierFEnd - blockBase t) then 2 else resetMode i) ∧
        { mbUndo s t with mer := { t.mer with layout := s.mer.layout, nvm := s.mer.nvm },
                          mc := { t.mc with stripes := s.mc.stripes } } = s)) ∧
  (∀ (s : State) (m : MbWrite) (l : List Nat), MbStarts rowSetMemSplit m s → s.rc.need = [] →
    l = [(mbCtx s m).f 0 0 5, (mbCtx s m).f 0 5 5, (mbCtx s m).f 0 10 5] →
    (0 ∉ l → l.sum = 20 →
      exec (.setMemSplit m) s = .next (mbEnds { s with mer := { s.mer with split := l } } m 0x21 rcOk [])) ∧
    (0 ∈ l ∨ l.sum ≠ 20 → exec (.setMemSplit m) s = .next (mbEnds s m 0x21 rcInvalid []))) ∧
  (∀ (s : State) (m : MbWrite), MbStarts rowSetMemPolicy m s → s.rc.need = [] →
    ((mbCtx s m).f 1 0 8 ≤ 168 → exec (.setMemPolicy m) s = .next (mbEnds { s with mer := { s.mer with
      rowCeMax := if (mbCtx s m).f 0 0 8 = 0 then s.mer.rowCeMax else (mbCtx s m).f 0 0 8,
      scrubPeriod := if (mbCtx s m).f 1 0 8 = 0 then s.mer.scrubPeriod else (mbCtx s m).f 1 0 8 } } m 0x22 rcOk [])) ∧
    (168 < (mbCtx s m).f 1 0 8 → exec (.setMemPolicy m) s = .next (mbEnds s m 0x22 rcInvalid []))) ∧
  (∀ (s : State) (m : MbWrite) (i : Nat), MbStarts rowSetStripe m s → (mbCtx s m).f 0 0 9 = i →
    (mbCtx s m).f 0 9 2 ≠ 3 → stripeUsed s i = false → mwf s.rc.lines = true →
    (flushExt (mbTake s m 0x23) (i * 0x30000000) 0x30000000).rc.need = [] →
      ∃ t, exec (.setStripe m) s = .next t ∧ MbEnded s t m.ch rcOk [] ∧
        (stripeOf t i).mode = BitVec.ofNat 2 ((mbCtx s m).f 0 9 2) ∧ (∀ j, j ≠ i → stripeOf t j = stripeOf s j) ∧
        (∀ k l, mget? t.rc.lines k = some l → overlap (i * 0x30000000) 0x30000000 (l.x * 64) 64 = false) ∧
        { memUndo s (mbUndo s t) with mer := { t.mer with nvm := s.mer.nvm }, mc := { t.mc with stripes := s.mc.stripes },
                                      draws := s.draws } = s) ∧
  (∀ (s : State) (m : MbWrite) (k : Nat) (w : State → List Byte → State), MbStarts rowMemHealth m s →
    (mbCtx s m).f 0 0 4 = k + 8 → portUp s k = true → BufTakes (mbTake s m 0x24) (mbCtx s m) ((mbCtx s m).p 1) 56 w →
    (w (mbTake s m 0x24) ((healthWords s k).flatMap (fun x => toBytes 8 x.toNat))).rc.need = [] →
      exec (.memHealth m) s = .next (mbComplete (w (mbTake s m 0x24)
        ((healthWords s k).flatMap (fun x => toBytes 8 x.toNat))) m.ch rcOk [(0, 56)])) ∧
  (∀ (s : State) (m : MbWrite) (k : Nat) (b : List Byte) (w : State → List Byte → State), MbStarts rowMemHealth m s →
    (mbCtx s m).f 0 0 4 = k → k < 6 → b = Config.stackReport (stackHealth s k) →
    BufTakes (mbTake s m 0x24) (mbCtx s m) ((mbCtx s m).p 1) b.length w → (w (mbTake s m 0x24) b).rc.need = [] →
      exec (.memHealth m) s = .next (mbComplete (w (mbTake s m 0x24) b) m.ch rcOk [(0, BitVec.ofNat 64 b.length)]))

/-- Cache maintenance (R346 to R348, R351). CACHE_MAINT on a line range, or on sets and ways of one slice or all, cleans or
drops exactly the cached lines that it names (with no miss open among them), and INVALIDATE writes nothing back;
CACHE_DISABLE stops allocation at once and stays acknowledged while the walk runs; at the end of the walk (the accesses
accepted before taking place first) the cache holds no line, DIRTY ones having been written back, and the command completes;
CACHE_ENABLE, with no walk under way, lets lines allocate again, and otherwise returns BAD_STATE. That the end of a walk that
is not under way changes nothing is the model's choice (log entry 8). -/
def Obligations.CacheMaintenanceTakesEffect : Prop :=
  (∀ (s : State) (m : MbWrite) (op a n : Nat), MbStarts rowCacheMaint m s → (mbCtx s m).f 0 0 2 = op → op ≠ 3 →
    lCache s = false → bit ((mbCtx s m).a 0) 2 = false → (mbCtx s m).f 1 0 48 = a → (mbCtx s m).f 2 0 33 = n →
    a % 64 = 0 → 1 ≤ n → n ≤ 2 ^ 32 → inTiers a (64 * n) = true → (mbCtx s m).a 3 = 0 → mwf s.rc.lines = true →
    (∀ x ∈ s.rc.mshr, ¬ (a ≤ x.x * 64 ∧ x.x * 64 < a + 64 * n)) → s.rc.need = [] →
      ∃ t, exec (.cacheMaint m) s = .next t ∧ MbEnded s t m.ch rcOk [] ∧
        (∀ k l, mget? t.rc.lines k = some l → a ≤ l.x * 64 → l.x * 64 < a + 64 * n → op = 0 ∧ l.dirty = false) ∧
        (∀ k l, mget? s.rc.lines k = some l → ¬ (a ≤ l.x * 64 ∧ l.x * 64 < a + 64 * n) → mget? t.rc.lines k = some l) ∧
        (op = 1 → t.mem = s.mem) ∧ memUndo s (mbUndo s t) = s) ∧
  (∀ (s : State) (m : MbWrite) (op sl lo hi : Nat), MbStarts rowCacheMaint m s → (mbCtx s m).f 0 0 2 = op → op ≠ 3 →
    lCache s = false → bit ((mbCtx s m).a 0) 2 = true → (mbCtx s m).f 1 0 6 = sl → ((mbCtx s m).a 1).toNat < 64 →
    (sl < 48 ∨ sl = 63) → (mbCtx s m).f 2 0 12 = lo → (mbCtx s m).f 2 16 12 = hi → lo ≤ hi →
    (((mbCtx s m).a 2).toNat &&& ((2 ^ 64 - 1) ^^^ (mask 0 12 + mask 16 12))) = 0 → mwf s.rc.lines = true →
    s.rc.mshr = [] → s.rc.need = [] →
      let sel := fun k : Nat => (sl = 63 ∨ k / 65536 = sl) ∧ lo ≤ k / 16 % 4096 ∧ k / 16 % 4096 ≤ hi ∧
        bit ((mbCtx s m).a 3) (k % 16) = true
      ∃ t, exec (.cacheMaint m) s = .next t ∧ MbEnded s t m.ch rcOk [] ∧
        (∀ k l, mget? t.rc.lines k = some l → sel k → op = 0 ∧ l.dirty = false) ∧
        (∀ k l, mget? s.rc.lines k = some l → ¬ sel k → mget? t.rc.lines k = some l) ∧
        (op = 1 → t.mem = s.mem) ∧ memUndo s (mbUndo s t) = s) ∧
  (∀ (s : State) (m : MbWrite), MbStarts rowCacheDisable m s → s.rc.need = [] → lCache s = false →
    exec (.cacheDisable m) s = .next { mbAck (mbTake s m 0x26) m.ch with
      rc := { s.rc with enabled := false, cleaning := true, done := false },
      mer := { s.mer with lruns := s.mer.lruns ++ [.cacheDisable m.ch] } }) ∧
  (∀ (s : State) (ch : Fin 16), stopped s = false → s.rc.cleaning = true → s.mer.lruns = [.cacheDisable ch] →
    (cleanAll s).rc.need = [] →
      ∃ t, exec .cacheDisableDone s = .next t ∧ MbEnded s t ch rcOk [] ∧ t.rc.lines = [] ∧ t.rc.cleaning = false ∧
        t.rc.done = true ∧ t.rc.enabled = s.rc.enabled ∧ t.mem = (writeBackAll (takeFills s (fun _ => true))).mem ∧
        t.mer.lruns = [] ∧ { memUndo s (mbUndo s t) with mer := s.mer } = s) ∧
  (∀ (s : State), stopped s = false → s.rc.need = [] → s.rc.cleaning = false → exec .cacheDisableDone s = .next s) ∧
  (∀ (s : State) (m : MbWrite), MbStarts rowCacheEnable m s → s.rc.need = [] →
    (s.rc.cleaning = false →
      exec (.cacheEnable m) s = .next (mbEnds { s with rc := { s.rc with enabled := true, done := false } } m 0x27 rcOk [])) ∧
    (s.rc.cleaning = true → exec (.cacheEnable m) s = .next (mbEnds s m 0x27 rcBadState [])))

/-- Range entries (R356 to R364). SET_RANGE on an invalid entry that no running invalidation names and no case of R358
refuses writes it; the first case of R358 that holds gives the code and changes nothing; a valid entry changes in place where
only rights are added, and otherwise returns BAD_STATE, as does an INVALIDATING one. INVALIDATE_RANGE over an extent with no
valid entry returns 0; with entries whose accesses are all over it removes them from the table and from every translation
cache, advances XGEN by one, and returns their number; with a pinned entry that a command may still use it stays acknowledged,
and the entries are INVALIDATING. How much XINV_WAIT counts is free (log entry 125). -/
def Obligations.RangeCommandsTakeEffect : Prop :=
  (∀ (s : State) (m : MbWrite) (e : Nat), MbStarts rowSetRange m s → s.rc.need = [] → (mbCtx s m).f 0 0 12 = e →
    (s.pwr.sl = 0 → s.mer.layout.isSome = true) →
    (mget? s.xlt.ranges e = none → lExtent s (rangeLo (rangeOfArgs (mbCtx s m)))
        (rangeLo (rangeOfArgs (mbCtx s m)) + (rangeOfArgs (mbCtx s m)).length * 65536) = false →
      (rangeRefuse s (mbCtx s m) e (rangeOfArgs (mbCtx s m)) = none →
        exec (.setRange m) s = .next (mbEnds { s with xlt := { s.xlt with
          ranges := mset s.xlt.ranges e (rangeOfArgs (mbCtx s m)) } } m 0x30 rcOk [])) ∧
      (∀ rc, rangeRefuse s (mbCtx s m) e (rangeOfArgs (mbCtx s m)) = some rc →
        exec (.setRange m) s = .next (mbEnds s m 0x30 rc []))) ∧
    (∀ old, mget? s.xlt.ranges e = some old →
      (old.inval = true → exec (.setRange m) s = .next (mbEnds s m 0x30 rcBadState [])) ∧
      (old.inval = false → rangeReserved (mbCtx s m) = false →
        exec (.setRange m) s = .next (if rangeMayChange old (rangeOfArgs (mbCtx s m)) then
          mbEnds { s with xlt := { s.xlt with ranges := mset s.xlt.ranges e (rangeOfArgs (mbCtx s m)) } } m 0x30 rcOk []
          else mbEnds s m 0x30 rcBadState [])))) ∧
  (∀ (s : State) (m : MbWrite) (lo n : Nat) (es : List Nat), MbStarts rowInvalidateRange m s → s.rc.need = [] →
    (mbCtx s m).f 0 0 36 * 65536 = lo → (mbCtx s m).f 1 0 36 * 65536 = n → lExtent s lo (lo + n) = false →
    rangesIn s lo n = es →
    (es = [] → exec (.invalidateRange m) s = .next (mbEnds s m 0x31 rcOk [(0, 0)])) ∧
    (es ≠ [] → (anyPinned s es && stampHolds (invalMark s es) (s.xlt.xgen + 1)) = false →
      ∃ t, exec (.invalidateRange m) s = .next t ∧ MbEnded s t m.ch rcOk [(0, BitVec.ofNat 64 es.length)] ∧
        t.xlt.xgen = s.xlt.xgen + 1 ∧ (∀ x ∈ t.xlt.ranges, x.1 ∉ es) ∧ (∀ x ∈ s.xlt.ranges, x.1 ∉ es → x ∈ t.xlt.ranges) ∧
        (∀ c ∈ t.xlt.caches, ∀ e ∈ c.2, e ∉ es) ∧
        { mbUndo s t with xlt := s.xlt, ctrs := s.ctrs, frees := s.frees } = s) ∧
    (es ≠ [] → (anyPinned s es && stampHolds (invalMark s es) (s.xlt.xgen + 1)) = true →
      ∃ t, exec (.invalidateRange m) s = .next t ∧ (chanOf t m.ch).ack = true ∧ (chanOf t m.ch).busy = true ∧
        t.xlt.xgen = s.xlt.xgen + 1 ∧ (∀ x ∈ t.xlt.ranges, x.1 ∈ es → x.2.inval = true) ∧
        t.mer.lruns = s.mer.lruns ++ [.invalidate m.ch es (s.xlt.xgen + 1) lo (lo + n)] ∧ t.mem = s.mem ∧ t.rc = s.rc))

/-- Stream commands (R366, R369, R370, R374 to R376, R378, R380, R508). ARM_STREAM of a free stream runs it with the next
sequence number of its queue, or leaves it IDLE where its kind belongs to a command; while it runs, the new descriptor waits,
and is taken when the stream is IDLE; DISARM_STREAM returns an IDLE stream to DISARMED at once and otherwise waits for it,
dropping the queued descriptor and aborting a fault; STREAM_QUERY reports the state; SET_STREAM_POLICY sets the limit and the
report mode, and refuses a limit of 0. That a re-arm with nothing to take changes nothing is the model's choice (log entry
8). -/
def Obligations.StreamCommandsTakeEffect : Prop :=
  (∀ (s s1 : State) (m : MbWrite) (l : List Byte) (n : Nat) (d : SDesc), MbStarts rowArmStream m s →
    BufReads (mbTake s m 0x32) (mbCtx s m) ((mbCtx s m).p 0) 64 s1 l → sdescOf l = (n, d) → s1.rc.need = [] →
    (strmOf s1 n).rearm = none → lStream s1 n = false → sdescZero l = true → sdescOk s1 n d = true →
    ((strmOf s1 n).st = .disarmed ∨ (strmOf s1 n).st = .idle → othersHeld s1 n + d.credits ≤ stagePool s1 →
      exec (.armStream m) s = .next (mbComplete (armNow s1 n d) m.ch rcOk [(0, 0)]) ∧
      (d.kind < 3 → strmOf (armNow s1 n d) n = { Strm.reset with
          d := d, st := .running, seq := (qOf s1 d.queue).nextSeq, bound := some s1.orr.nextCid } ∧
        (qOf (armNow s1 n d) d.queue).nextSeq = (qOf s1 d.queue).nextSeq + 1) ∧
      (3 ≤ d.kind → strmOf (armNow s1 n d) n = { Strm.reset with d := d, st := .idle })) ∧
    ((strmOf s1 n).st ≠ .disarmed → (strmOf s1 n).st ≠ .idle →
      othersHeld s1 n + max (strmOf s1 n).d.credits d.credits ≤ stagePool s1 →
      exec (.armStream m) s =
        .next (mbComplete (setStrm s1 n { strmOf s1 n with rearm := some d }) m.ch rcOk [(0, 1)]))) ∧
  (∀ (s : State) (n : Fin 256) (d : SDesc), stopped s = false → s.rc.need = [] → (strmOf s n).rearm = some d →
    (strmOf s n).st = .idle → lStream s n = false → exec (.streamRearmTake n) s = .next (armNow s n d)) ∧
  (∀ (s : State) (n : Fin 256), stopped s = false → s.rc.need = [] →
    ((strmOf s n).rearm = none ∨ (strmOf s n).st ≠ .idle) → exec (.streamRearmTake n) s = .next s) ∧
  (∀ (s : State) (m : MbWrite) (n : Nat), MbStarts rowDisarmStream m s → s.rc.need = [] → (mbCtx s m).f 0 0 8 = n →
    lStream s n = false →
    ((strmOf s n).st = .disarmed → exec (.disarmStream m) s = .next (mbEnds s m 0x33 rcOk [])) ∧
    ((strmOf s n).st = .idle →
      ∃ t, exec (.disarmStream m) s = .next t ∧ MbEnded s t m.ch rcOk [] ∧ strmOf t n = Strm.reset ∧
        (∀ k, k ≠ n → strmOf t k = strmOf s k) ∧ { mbUndo s t with str := { t.str with streams := s.str.streams } } = s) ∧
    ((strmOf s n).st = .running ∨ (strmOf s n).st = .waiting →
      exec (.disarmStream m) s = .next { mbAck (setStrm (mbTake s m 0x33) n { strmOf s n with rearm := none }) m.ch with
        mer := { s.mer with lruns := s.mer.lruns ++ [.disarm m.ch n] } }) ∧
    (∀ u, (strmOf s n).st = .faultParked ∨ (strmOf s n).st = .faultSwitched →
      u = strmAbort (setStrm (mbTake s m 0x33) n { strmOf s n with rearm := none }) n 0x10 → u.rc.need = [] →
        exec (.disarmStream m) s = .next { mbAck u m.ch with
          mer := { u.mer with lruns := u.mer.lruns ++ [.disarm m.ch n] } })) ∧
  (∀ (s : State) (m : MbWrite) (n : Nat), MbStarts rowStreamQuery m s → s.rc.need = [] → (mbCtx s m).f 0 0 8 = n →
    lStream s n = false →
      exec (.streamQuery m) s = .next (mbEnds s m 0x34 rcOk
        [(0, BitVec.ofNat 64 (strmCode (strmOf s n).st + b2n (strmOf s n).rearm.isSome * 8 + b2n (strmClosed s (strmOf s n)) * 16)),
         (1, BitVec.ofNat 64 (ctr s (ctrStreamStrLines n))), (2, BitVec.ofNat 64 (strmHeld (strmOf s n)))])) ∧
  (∀ (s : State) (m : MbWrite), MbStarts rowSetStreamPolicy m s → s.rc.need = [] →
    ((mbCtx s m).f 0 0 16 ≠ 0 → exec (.setStreamPolicy m) s = .next (mbEnds { s with str := { s.str with
      wcLimit := (mbCtx s m).f 0 0 16, reportOnly := bit ((mbCtx s m).a 0) 16 } } m 0x35 rcOk [])) ∧
    ((mbCtx s m).f 0 0 16 = 0 → exec (.setStreamPolicy m) s = .next (mbEnds s m 0x35 rcInvalid [])))

/-- Fault commands (R385, R387). FAULT_READ with a number of 1 to 64 writes the open entries, oldest first, up to that number,
returns how many, and removes none; another number ends with INVALID_ARGUMENT. FAULT_RESOLVE of a fault number that is not
open returns NOT_FOUND, and a reserved action ends with INVALID_ARGUMENT; of an open one it closes the entry, releases its
requests and completes. Where the entry's one request is a stream whose queue is not switched out, RETRY runs the stream
again, and ABORT ends its command, if that has no status yet, with status 0x10; ABORT of a write or an atomic of a dense
engine discards it and counts CP_FAULT_ABORT. -/
def Obligations.FaultCommandsTakeEffect : Prop :=
  (∀ (s : State) (m : MbWrite) (n : Nat) (w : State → List Byte → State), MbStarts rowFaultRead m s →
    (mbCtx s m).f 1 0 7 = n → 1 ≤ n → n ≤ 64 → BufTakes (mbTake s m 0x36) (mbCtx s m) ((mbCtx s m).p 0) (32 * n) w →
    (w (mbTake s m 0x36) ((s.str.faults.take n).flatMap faultBytes)).rc.need = [] →
      exec (.faultRead m) s = .next (mbComplete (w (mbTake s m 0x36) ((s.str.faults.take n).flatMap faultBytes)) m.ch rcOk
        [(0, BitVec.ofNat 64 (s.str.faults.take n).length)])) ∧
  (∀ (s : State) (m : MbWrite), MbStarts rowFaultRead m s → s.rc.need = [] →
    ((mbCtx s m).f 1 0 7 = 0 ∨ 64 < (mbCtx s m).f 1 0 7) → exec (.faultRead m) s = .next (mbEnds s m 0x36 rcInvalid [])) ∧
  (∀ (s : State) (m : MbWrite), MbStarts rowFaultResolve m s → s.rc.need = [] →
    (2 ≤ (mbCtx s m).f 0 16 2 → exec (.faultResolve m) s = .next (mbEnds s m 0x37 rcInvalid [])) ∧
    ((mbCtx s m).f 0 16 2 < 2 → s.str.faults.find? (fun f => f.fid == (mbCtx s m).f 0 0 16) = none →
      exec (.faultResolve m) s = .next (mbEnds s m 0x37 rcNotFound []))) ∧
  (∀ (s u : State) (m : MbWrite) (f : FaultEnt), MbStarts rowFaultResolve m s → (mbCtx s m).f 0 16 2 < 2 →
    s.str.faults.find? (fun f => f.fid == (mbCtx s m).f 0 0 16) = some f →
    u = faultRelease (mbTake s m 0x37) f ((mbCtx s m).f 0 16 2 == 1) → u.rc.need = [] →
      exec (.faultResolve m) s = .next (mbComplete u m.ch rcOk [])) ∧
  (∀ (s : State) (m : MbWrite) (f : FaultEnt) (n : Nat), MbStarts rowFaultResolve m s → s.rc.need = [] →
    s.str.faults.find? (fun f => f.fid == (mbCtx s m).f 0 0 16) = some f → f.reqs = [.stream n] →
    (qOf s (strmOf s n).d.queue).st ≠ .switched →
    ((mbCtx s m).f 0 16 2 = 0 →
      ∃ t, exec (.faultResolve m) s = .next t ∧ MbEnded s t m.ch rcOk [] ∧ (∀ g ∈ t.str.faults, g.fid ≠ f.fid) ∧
        (∀ g ∈ s.str.faults, g.fid ≠ f.fid → g ∈ t.str.faults) ∧ strmOf t n = { strmOf s n with st := .running } ∧
        t.mem = s.mem ∧ t.rc = s.rc ∧ t.xlt = s.xlt) ∧
    (∀ cid c, (mbCtx s m).f 0 16 2 = 1 → (strmOf s n).bound = some cid → cmdOf s cid = some c → c.phase ≠ .done →
      c.fail = none →
      ∃ t u, exec (.faultResolve m) s = .next t ∧ MbEnded s t m.ch rcOk [] ∧ (∀ g ∈ t.str.faults, g.fid ≠ f.fid) ∧
        cmdOf t cid = some u ∧ u.phase = .done ∧ u.fail = some 0x10 ∧ t.mem = s.mem ∧ t.rc = s.rc ∧ t.xlt = s.xlt)) ∧
  (∀ (s : State) (m : MbWrite) (f : FaultEnt) (x : CpRequest), MbStarts rowFaultResolve m s → s.rc.need = [] →
    s.str.faults.find? (fun f => f.fid == (mbCtx s m).f 0 0 16) = some f → f.reqs = [.cp x] → x.op ≠ 0 →
    (mbCtx s m).f 0 16 2 = 1 →
      ∃ t, exec (.faultResolve m) s = .next t ∧ MbEnded s t m.ch rcOk [] ∧ (∀ g ∈ t.str.faults, g.fid ≠ f.fid) ∧
        t.ctrs = addCtr s.ctrs ctrChipCpFaultAbort 1 ∧ (∀ w ∈ t.str.cpWait, w.1.id ≠ x.id) ∧ t.str.cpOut = s.str.cpOut ∧
        t.mem = s.mem ∧ t.rc = s.rc ∧ t.xlt = s.xlt)

/-- Commands of the host group (R400, R401, R406, R417, R418, R509, R536). OPEN_APERTURE and CLOSE_APERTURE open and close the
maintenance aperture, and the host's OPEN_APERTURE at SL3 returns WRONG_LEVEL; SET_PLACE_REGION enters a region that lies in a
tier and overlaps no other region and no protected area, or removes one, and sets the enable; SET_HOST_PATH enters an entry
that overlaps no other, or removes one, the entries in force staying for the commands in flight; HOST_ATTACH of a detached path
with both decoders committed attaches it and sends the interrupts that were pending, of an attached one it completes, and
otherwise it returns BAD_STATE; READ_HOST_LOG writes the oldest records, up to the number asked for, removes them, and reports
whether the log has overflowed. -/
def Obligations.HostCommandsTakeEffect : Prop :=
  (∀ (s : State) (m : MbWrite), MbStarts rowOpenAperture m s → s.rc.need = [] →
    (m.mgmt = true ∨ s.pwr.sl ≠ 3 → exec (.openAperture m) s = .next (mbEnds { s with hp := { s.hp with
      aper := true, aperMgmt := m.mgmt || (s.hp.aper && s.hp.aperMgmt) } } m 0x40 rcOk [])) ∧
    (m.mgmt = false → s.pwr.sl = 3 → exec (.openAperture m) s = .next (mbEnds s m 0x40 rcLevel []))) ∧
  (∀ (s : State) (m : MbWrite), MbStarts rowCloseAperture m s → s.rc.need = [] →
    exec (.closeAperture m) s =
      .next (mbEnds { s with hp := { s.hp with aper := false, aperMgmt := false } } m 0x41 rcOk [])) ∧
  (∀ (s : State) (m : MbWrite) (k : Nat) (r : PlaceRegion), MbStarts rowSetPlaceRegion m s → s.rc.need = [] →
    (mbCtx s m).f 0 0 6 = k → (s.pwr.sl = 0 → s.mer.layout.isSome = true) →
    r = PlaceRegion.mk ((mbCtx s m).f 1 0 27) ((mbCtx s m).f 2 0 27) (bit ((mbCtx s m).a 0) 7) (bit ((mbCtx s m).a 0) 8)
      (BitVec.ofNat 16 ((mbCtx s m).f 0 16 16)) →
    (bit ((mbCtx s m).a 0) 6 = false → exec (.setPlaceRegion m) s = .next (mbEnds { s with hp := { s.hp with
      place := mdel s.hp.place k, placeEn := bit ((mbCtx s m).a 0) 9 } } m 0x42 rcOk [])) ∧
    (bit ((mbCtx s m).a 0) 6 = true → r.len ≠ 0 → inTiers (r.base * 0x200000) (r.len * 0x200000) = true →
      s.hp.place.any (fun e => e.1 != k &&
        overlap (r.base * 0x200000) (r.len * 0x200000) (e.2.base * 0x200000) (e.2.len * 0x200000)) = false →
      protectedArea s (r.base * 0x200000) (r.len * 0x200000) = false →
        exec (.setPlaceRegion m) s = .next (mbEnds { s with hp := { s.hp with
          place := mset s.hp.place k r, placeEn := bit ((mbCtx s m).a 0) 9 } } m 0x42 rcOk []))) ∧
  (∀ (s : State) (m : MbWrite) (k : Nat) (e : HostPath), MbStarts rowSetHostPath m s → s.rc.need = [] →
    (mbCtx s m).f 0 0 4 = k → (mbCtx s m).f 0 5 2 < 2 →
    e = HostPath.mk ((mbCtx s m).f 1 0 40 * 4096) ((mbCtx s m).f 2 0 40 * 4096) ((mbCtx s m).f 0 5 2 == 1) →
    (bit ((mbCtx s m).a 0) 4 = false → exec (.setHostPath m) s =
      .next (mbEnds (setPaths s (mdel s.hp.paths k)) m 0x43 rcOk [])) ∧
    (bit ((mbCtx s m).a 0) 4 = true → e.len ≠ 0 → e.base + e.len ≤ 2 ^ 52 →
      s.hp.paths.any (fun x => x.1 != k && overlap e.base e.len x.2.base x.2.len) = false →
        ∃ t, exec (.setHostPath m) s = .next t ∧ t = mbEnds (setPaths s (mset s.hp.paths k e)) m 0x43 rcOk [] ∧
          mget? t.hp.paths k = some e ∧ (∀ w cid, whoCid w = some cid → cid < s.orr.nextCid →
            cid ∈ s.orr.cmds.map (fun c => c.cid) → s.hp.oldPaths = [] →
              pathsFor t w = s.hp.paths))) ∧
  (∀ (s : State) (m : MbWrite), MbStarts rowHostAttach m s → s.rc.need = [] → s.pwr.sl ≠ 0 →
    (s.hp.state = 0 → exec (.hostAttach m) s = .next (mbEnds s m 0x44 rcOk [])) ∧
    (s.hp.state = 2 → hdmReady s = true →
      ∃ t, exec (.hostAttach m) s = .next t ∧ MbEnded s t m.ch rcOk [] ∧ t.hp = { s.hp with state := 0 } ∧
        (m.ien = false → (∀ v ∈ t.msix.pba, msixMasked s v = true)) ∧ { mbUndo s t with hp := s.hp } = s) ∧
    (s.hp.state = 1 ∨ (s.hp.state = 2 ∧ hdmReady s = false) →
      exec (.hostAttach m) s = .next (mbEnds s m 0x44 rcBadState []))) ∧
  (∀ (s : State) (m : MbWrite) (n : Nat) (w : State → List Byte → State), MbStarts rowReadHostLog m s →
    (mbCtx s m).f 1 0 17 = n → BufTakes (mbTake s m 0x45) (mbCtx s m) ((mbCtx s m).p 0) (32 * n) w →
    (w (mbTake s m 0x45) ((s.hp.log.take n).flatMap (fun e => e.2))).rc.need = [] →
      ∃ t, exec (.readHostLog m) s = .next t ∧
        t = mbComplete { w (mbTake s m 0x45) ((s.hp.log.take n).flatMap (fun e => e.2)) with
          hp := { (w (mbTake s m 0x45) ((s.hp.log.take n).flatMap (fun e => e.2))).hp with
            log := (w (mbTake s m 0x45) ((s.hp.log.take n).flatMap (fun e => e.2))).hp.log.drop n } } m.ch rcOk
          [(0, BitVec.ofNat 64 (s.hp.log.take n).length), (1, BitVec.ofNat 64 (b2n s.hp.logOver))])

/-- Accesses of the host (R26, R353, R354, R392, R395 to R404), on a block that is neither parked nor restarting, behind no
earlier access that they must follow. An AtomicOp or a translated address completes with Unsupported Request. An access
through an enabled window reads or writes the tiers at the window's base; through a disabled one a write is counted and a read
completes with Unsupported Request; BAR4 is served inside a placement region that grants the access, or anywhere in the tiers
or the remote windows with the aperture open, and is refused otherwise. A CXL.mem request that no committed decoder covers
completes with Unsupported Request; at the device address that its decoder gives, a read (with room in the snoop filter) is
recorded SHARED and answered, a request for ownership is recorded OWNED and answered, and a write goes to the line, or, in a
protected area with the aperture closed, is discarded and counted. HDM_COMMIT commits the decoders that
the host has programmed, with their bases. -/
def Obligations.HostAccessesTakeEffect : Prop :=
  (∀ (s : State) (a : HostAccess), stopped s = false → s.rc.need = [] → a.form ≠ .plain →
    exec (.windowAccess a) s = .next (hostUr s) ∧ exec (.bar4Access a) s = .next (hostUr s)) ∧
  (∀ (s : State) (a : HostAccess), stopped s = false → s.pwr.park = .running → s.pwr.restart ≠ .running → s.rc.need = [] →
    a.form = .plain → mustWait s (.window a) = false → winEn s.hp.win = false →
      exec (.windowAccess a) s = .next (if a.write then bump1 s ctrChipHwWinOff else hostUr s)) ∧
  (∀ (s : State) (a : HostAccess), stopped s = false → s.pwr.park = .running → s.pwr.restart ≠ .running →
    a.form = .plain → mustWait s (.window a) = false → winEn s.hp.win = true →
    (∀ t, a.write = true → t = writeExt s (winBase s.hp.win + a.off) a.data (winHint s.hp.win) a.poison → t.rc.need = [] →
      exec (.windowAccess a) s = .next t ∧ memUndo s t = s) ∧
    (∀ s1 d marks, a.write = false →
      readExt s (winBase s.hp.win + a.off) a.len (winHint s.hp.win) = (s1, d, marks) → s1.rc.need = [] →
        ∃ t, exec (.windowAccess a) s = .next t ∧ t.hp = { s.hp with answers := s.hp.answers ++ [(d, marks.any id)] } ∧
          t.mem = s1.mem ∧ t.rc = s1.rc ∧ { memUndo s t with hp := s.hp } = s)) ∧
  (∀ (s : State) (a : HostAccess), stopped s = false → s.pwr.park = .running → s.pwr.restart ≠ .running →
    a.form = .plain → mustWait s (.port (bar4Dst s a) a) = false →
    ((s.hp.aper = true ∧ inTiers a.off a.len = true) ∨ (s.hp.aper = false ∧ placeOk s a = true) →
      (∀ t, a.write = true → t = writeExt s a.off a.data 0 a.poison → t.rc.need = [] →
        exec (.bar4Access a) s = .next t ∧ memUndo s t = s) ∧
      (∀ s1 d marks, a.write = false → readExt s a.off a.len 0 = (s1, d, marks) → s1.rc.need = [] →
        exec (.bar4Access a) s = .next (hostAnswer s1 d (marks.any id)))) ∧
    (s.hp.aper = true → inTiers a.off a.len = false → inRemote a.off a.len = true → (bar4Remote s a).rc.need = [] →
      exec (.bar4Access a) s = .next (bar4Remote s a)) ∧
    ((s.hp.aper = true ∧ inTiers a.off a.len = false ∧ inRemote a.off a.len = false) ∨
      (s.hp.aper = false ∧ placeOk s a = false) → s.rc.need = [] →
        exec (.bar4Access a) s =
          .next (if a.write then bump1 s ctrChipHpPlaceRej else hostUr (bump1 s ctrChipHpPlaceRej)))) ∧
  (∀ (s : State) (addr : Nat) (data : List Byte) (poison : Bool), stopped s = false → s.rc.need = [] → hdmPa s addr = none →
    exec (.cxlMemRead addr) s = .next (hostUr s) ∧ exec (.cxlMemOwn addr) s = .next (hostUr s) ∧
      exec (.cxlMemWrite addr data poison) s = .next (hostUr s)) ∧
  (∀ (s s1 : State) (addr pa : Nat) (d : List Byte) (bad : Bool), stopped s = false → s.pwr.park = .running →
    s.pwr.restart ≠ .running → hdmPa s addr = some pa → filterVictim s (pa / 64) = none →
    readLine s (pa / 64) 0 = (s1, d, bad) → (∀ y ∈ s1.rc.need, y = pa / 64) →
      ∃ t, exec (.cxlMemRead addr) s = .next t ∧ t.hp = { s.hp with answers := s.hp.answers ++ [(d, bad)] } ∧
        (∀ e ∈ t.rc.snoop, e.1 = pa / 64 → e.2 = false) ∧ (pa / 64, false) ∈ t.rc.snoop ∧ t.mem = s1.mem ∧
        { memUndo s t with hp := s.hp } = s) ∧
  (∀ (s s1 : State) (addr pa : Nat) (d : List Byte) (p : List Bool), stopped s = false → s.pwr.park = .running →
    s.pwr.restart ≠ .running → hdmPa s addr = some pa → filterVictim s (pa / 64) = none →
    dReadSecs (cleanLine s (pa / 64)) (pa / 64 * 64) 2 = (s1, d, p) → s1.rc.need = [] →
      ∃ t, exec (.cxlMemOwn addr) s = .next t ∧ t.hp = { s.hp with answers := s.hp.answers ++ [(d, p.any id)] } ∧
        (∀ e ∈ t.rc.snoop, e.1 = pa / 64 → e.2 = true) ∧ (pa / 64, true) ∈ t.rc.snoop ∧ t.mem = s1.mem ∧
        { memUndo s t with hp := s.hp } = s) ∧
  (∀ (s : State) (addr pa : Nat) (data : List Byte) (poison : Bool), stopped s = false → s.pwr.park = .running →
    s.pwr.restart ≠ .running → hdmPa s addr = some pa → mustWait s (.memWrite pa data poison s.hp.aper) = false →
    (s.hp.aper = false → protectedArea s (pa / 64 * 64) 64 = true → s.rc.need = [] →
      exec (.cxlMemWrite addr data poison) s = .next (bump1 s ctrChipHpMemRej)) ∧
    (∀ u, (s.hp.aper = true ∨ protectedArea s (pa / 64 * 64) 64 = false) →
      u = writeLine s pa (data.take (64 - pa % 64)) 0 poison → (∀ y ∈ u.rc.need, y = pa / 64) →
        ∃ t, exec (.cxlMemWrite addr data poison) s = .next t ∧ t.mem = u.mem ∧ t.rc = { u.rc with need := [] } ∧
          memUndo s t = s)) ∧
  (∀ s : State, stopped s = false → s.rc.need = [] →
    exec .hdmCommit s = .next { s with hp := { s.hp with hdm := s.hp.hdmProg } })

/-- What comes from the host link (R407, R408, R411, R413 to R416, R418, R503, R558, R599). A snoop is answered, during a
freeze too: a Modified line gives its data, an invalidating snoop removes the line, and a data snoop leaves it Shared (log
entry 44). A completion of an outstanding read does what the read was for, and for a reader's buffer it gives the bytes to the
reader; an eviction's completion ends its write. Loss of the path of an attached host, with no command that uses the host and
no request of a dense engine waiting for it, stops the host-resident queues, clears the window, the decoders, the line cache
and what is outstanding, closes the aperture unless the management opened it, and leaves the path CLEANING; the end of cleaning
leaves it DETACHED, with an event. Link recovery begins, counted, and ends. That these events change nothing where their
condition does not hold is the model's choice (log entry 8). -/
def Obligations.HostLinkEventsTakeEffect : Prop :=
  (∀ (s : State) (k : Snoop) (addr : Nat), (s.err.frozen = true ∨ (stopped s = false ∧ s.pwr.park = .running)) →
    (hcFind s (addr / 64) = none → exec (.hostSnoop k addr) s =
      .next { s with hp := { s.hp with snp := s.hp.snp ++ [(addr / 64, .rspIHitI)] } }) ∧
    (∀ key l, hcFind s (addr / 64) = some (key, l) →
      ∃ t, exec (.hostSnoop k addr) s = .next t ∧
        t.hp.answers = (if l.st = .modified then s.hp.answers ++ [(l.data, l.poison)] else s.hp.answers) ∧
        t.hp.snp = s.hp.snp ++ [(addr / 64, snpRsp k (l.st == .modified))] ∧
        (k = .inv → t.hp.lines = mdel s.hp.lines key) ∧ (k = .cur → t.hp.lines = s.hp.lines) ∧
        (k = .data → mget? t.hp.lines key = some { l with st := .shared, cids := [] }) ∧
        { t with hp := { t.hp with answers := s.hp.answers, lines := s.hp.lines, snp := s.hp.snp } } = s)) ∧
  (∀ (s u : State) (h : HostReply) (r : HostRead), stopped s = false → s.hp.recov = false →
    (s.hp.reads.take 512).find? (fun r => r.id == h.id) = some r →
    u = { s with hp := { s.hp with reads := s.hp.reads.filter (fun y => y.id != h.id) } } →
    ((cpResume (readArrive u r h.data h.poison)).rc.need = [] →
      exec (.hostReadCompletion h) s = .next (cpResume (readArrive u r h.data h.poison))) ∧
    (∀ w, r.what = .buf w → s.rc.need = [] → s.str.cpWait = [] →
      exec (.hostReadCompletion h) s = .next { u with
        got := s.got ++ [{ who := w, host := true, addr := r.addr,
                           data := (bytesAt h.data 0 r.len).map (fun b => (b, h.poison)) }] })) ∧
  (∀ (s : State) (h : HostReply), stopped s = false → s.rc.need = [] →
    (s.hp.recov = true ∨ (s.hp.reads.take 512).find? (fun r => r.id == h.id) = none) →
      exec (.hostReadCompletion h) s = .next s) ∧
  (∀ (s : State) (id : Nat), stopped s = false → s.rc.need = [] →
    exec (.cxlCacheWriteCompletion id) s = .next (if s.hp.recov then s else { s with hp := { s.hp with
      writes := s.hp.writes.filter (fun w => !(w.cxl && w.id == id)) } })) ∧
  (∀ (s : State) (why : PathLoss), stopped s = false → s.hp.state = 0 → s.str.cpWait = [] →
    (∀ c ∈ s.orr.cmds, c.usesHost = false) → (pathLoss s).rc.need = [] →
      ∃ t, exec (.hostPathLoss why) s = .next t ∧
        t.hp = { s.hp with state := 1, writes := [], reads := [], lines := [], trees := [], win := 0, placeEn := false,
                           hdm := [], recov := false, aper := s.hp.aper && s.hp.aperMgmt } ∧
        (∀ q c, (qOf t q).conf = some c → c.hostRes = true → (qOf t q).st = .stopped) ∧
        (∀ q, ((qOf s q).conf.map (fun c => c.hostRes)).getD false = false → qOf t q = qOf s q) ∧
        { memUndo s t with hp := s.hp, orr := { t.orr with queues := s.orr.queues }, got := s.got } = s) ∧
  (∀ (s : State) (why : PathLoss), stopped s = false → s.rc.need = [] → s.hp.state ≠ 0 →
    exec (.hostPathLoss why) s = .next s) ∧
  (∀ s : State, stopped s = false → s.rc.need = [] → s.hp.state = 1 →
    ∃ t, exec .hostPathCleaned s = .next t ∧ t.hp = { s.hp with state := 2 } ∧
      (merUp s = true → t.evt.eseq = s.evt.eseq + 1 ∧ t.pwr.evtLine = true) ∧ t.mem = s.mem ∧ t.rc = s.rc ∧
      { memUndo s t with hp := s.hp } = s) ∧
  (∀ s : State, stopped s = false → s.rc.need = [] → s.hp.state ≠ 1 → exec .hostPathCleaned s = .next s) ∧
  (∀ s : State, stopped s = false → s.rc.need = [] →
    exec .hostLinkRecovery s = .next (bump1 { s with hp := { s.hp with recov := true } } ctrChipHpRetrain) ∧
    exec .linkRecoveryEnd s = .next { s with hp := { s.hp with recov := false } })

/-- Events at the home slices and the memory controllers (R318, R320, R325, R326, R329, R336, R349, R353, R403, R409). An
access of the block to a line of a tier that takes requests, that no host copy and no earlier access holds up, has the effect
of `sliceErr`: without an error, a write to a line without an open miss is the cache's write, a read that hits is its read, a
read that misses opens a miss entry and counts, and an access to a line with an open miss joins it; a hit whose data are
uncorrectable and not DIRTY drops the line and reads it again. The host's answer to a back-invalidate removes the line's
record and writes the data of an OWNED line, or discards and counts them in a protected area with the aperture closed. A
sector that comes back from tier F counts as it is read, on what its outcome leaves: an uncorrectable one reads poisoned from
then on and its row is a candidate; the second sector of a line with an open miss brings the fill. A remap of a candidate for
which its bank has a resource enters the repair log and leaves no uncorrectable sector in the row, the lost ones marked
poisoned; without a resource the row stays in place and is noted. Patrol advances by one sector; refresh changes no data. That
a remap of a row that is no candidate, and an answer that nothing asked for, change nothing is the model's choice (log entry
8). -/
def Obligations.MemoryEventsTakeEffect : Prop :=
  (∀ (s : State) (a : LineAccess), stopped s = false → inTiers (a.addr / 64 * 64) 64 = true → a.host = false →
    snooped s a = false → (∀ w ∈ s.rc.biWait, w.x ≠ a.addr / 64) → memAwake s (a.addr / 64 * 64) = true →
    sliceFull s (homeSlice s (a.addr / 64)) = false →
    (∀ e, (sliceErr s a e).rc.need = [] → exec (.homeSliceAccess a e) s = .next (sliceErr s a e)) ∧
    (missOpen s (a.addr / 64) = false →
      (∀ t, a.write = true → t = writeLine s a.addr a.data a.hint a.poison → t.rc.need = [] →
        exec (.homeSliceAccess a .none) s = .next t ∧ memUndo s t = s) ∧
      (∀ w t, a.write = false → passThrough s (a.addr / 64) = false →
        findWay s (homeSlice s (a.addr / 64)) (lineSet s (a.addr / 64)) (a.addr / 64) = some w →
        t = (readLine s (a.addr / 64) a.hint).1 → t.rc.need = [] →
          exec (.homeSliceAccess a .none) s = .next t ∧ memUndo s t = s) ∧
      (a.write = false → passThrough s (a.addr / 64) = false →
        findWay s (homeSlice s (a.addr / 64)) (lineSet s (a.addr / 64)) (a.addr / 64) = none →
        memUp s (a.addr / 64 * 64) = true → s.rc.need = [] →
          exec (.homeSliceAccess a .none) s = .next (bump1 { s with rc := { s.rc with
            mshr := s.rc.mshr ++ [{ x := a.addr / 64, acc := a }] } } (ctrSliceRcMiss (homeSlice s (a.addr / 64)))))) ∧
    (missOpen s (a.addr / 64) = true → passThrough s (a.addr / 64) = false → s.rc.need = [] →
      exec (.homeSliceAccess a .none) s = .next (bumpIf { s with rc := { s.rc with
        mshr := s.rc.mshr ++ [{ x := a.addr / 64, acc := a }] } } (!a.write) (ctrSliceRcMiss (homeSlice s (a.addr / 64))))) ∧
    (∀ w l k, k = wayKey (homeSlice s (a.addr / 64)) (lineSet s (a.addr / 64)) w →
      findWay s (homeSlice s (a.addr / 64)) (lineSet s (a.addr / 64)) (a.addr / 64) = some w →
      mget? s.rc.lines k = some l → l.dirty = false → s.rc.need = [] →
        ∃ t, exec (.homeSliceAccess a .uncorrectable) s = .next t ∧
          t.rc = { s.rc with lines := mdel s.rc.lines k, mshr := s.rc.mshr ++ [{ x := a.addr / 64, acc := a }] } ∧
          t.mem = s.mem ∧ memUndo s t = s)) ∧
  (∀ (s u : State) (x : Nat) (data : Option (List Byte × Bool)), stopped s = false → s.rc.need = [] →
    u = { s with rc := { s.rc with
      biSent := s.rc.biSent.filter (fun y => y != x), snoop := s.rc.snoop.filter (fun e => e.1 != x),
      biWait := s.rc.biWait.filter (fun w => w.x != x) } } →
    (s.rc.biSent.contains x = false → exec (.backInvalidateAnswer x data) s = .next s) ∧
    (s.rc.biSent.contains x = true → (∀ w ∈ s.rc.biWait, w.x ≠ x) →
      (data = none ∨ (∀ e ∈ s.rc.snoop, e.1 = x → e.2 = false) → exec (.backInvalidateAnswer x data) s = .next u) ∧
      (∀ d p, data = some (d, p) → (x, true) ∈ s.rc.snoop →
        (s.hp.aper = false → protectedArea s (x * 64) 64 = true →
          exec (.backInvalidateAnswer x data) s = .next (bump1 u ctrChipHpMemRej)) ∧
        ((s.hp.aper = true ∨ protectedArea s (x * 64) 64 = false) →
          (writeLine u (x * 64) (bytesAt d 0 64) 0 p).rc.need = [] →
            exec (.backInvalidateAnswer x data) s = .next (writeLine u (x * 64) (bytesAt d 0 64) 0 p))))) ∧
  (∀ (s u : State) (addr : Nat) (o : DramOutcome), stopped s = false → s.rc.need = [] → inTierF addr 1 = true →
    stackUp s addr = true → s.mc.selfRef = false →
    u = (dReadSecs (dramOutcome s addr o) (addr / 32 * 32) 1).1 →
    (missOpen s (addr / 64) = false ∨ s.rc.mret.contains (addr / 32) = true →
      exec (.dramReadReturn addr o) s = .next u ∧ u.mem.cells = s.mem.cells ∧ { memUndo s u with mc := s.mc } = s ∧
        (o = .uncorrectable → secBad u.mem (addr / 32) = true ∧ dramRowOf s addr ∈ u.mc.cands) ∧
        (o = .clean ∨ o = .poisoned ∨ o = .onDie → u.mc = s.mc ∧ u.mem = s.mem)) ∧
    (∀ v, missOpen s (addr / 64) = true → s.rc.mret.contains (addr / 32) = false →
      v = { u with rc := { u.rc with mret := u.rc.mret ++ [addr / 32] } } →
      (missBack v (addr / 64) = false → exec (.dramReadReturn addr o) s = .next v) ∧
      (missBack v (addr / 64) = true → (takeFill v (addr / 64)).rc.need = [] →
        exec (.dramReadReturn addr o) s = .next (takeFill v (addr / 64))))) ∧
  (∀ (s : State) (k : Fin 6) (p : Fin 64) (b : BitVec 6) (w : BitVec 20) (n : Fin 12801) (r : Nat × Nat × Nat), stopped s = false →
    s.rc.need = [] → r = (64 * k.val + p.val, b.toNat, w.toNat) →
    (s.mc.cands.contains r = false → exec (.rowRemap k p b w n) s = .next s) ∧
    (s.mc.cands.contains r = true → softFree s r = true →
      ∃ t, exec (.rowRemap k p b w n) s = .next t ∧ r ∉ t.mc.cands ∧
        t.mc.repairLog = s.mc.repairLog ++ [{ stack := k, pch := p, bank := b.toNat, row := w.toNat, hard := false }] ∧
        rowUe t r = [] ∧ (∀ x ∈ rowUe s r, secPoison t.mem x = true) ∧ t.mem.cells = s.mem.cells ∧
        { memUndo s t with mc := s.mc } = s) ∧
    (s.mc.cands.contains r = true → softFree s r = false →
      ∃ t, exec (.rowRemap k p b w n) s = .next t ∧ t.mc.cands = s.mc.cands ∧ t.mem = s.mem ∧ r ∈ t.mc.noResource ∧
        t.mc.repairLog = s.mc.repairLog ∧ { memUndo s t with mc := s.mc } = s)) ∧
  (∀ (s : State) (k : Fin 6) (o : DramOutcome), stopped s = false → s.rc.need = [] →
    s.mc.patrol = true → (stackOf s k).inService = true → dramLive s = true →
      ∃ t, exec (.patrolRead k o) s = .next t ∧
        (stackOf t k).patrolAt = ((stackOf s k).patrolAt + 1) % (64 * pchSectors) ∧ t.mem.cells = s.mem.cells ∧
        t.rc = s.rc ∧ { memUndo s t with mc := s.mc } = s) ∧
  (∀ (s : State) (k : Fin 6), stopped s = false → s.rc.need = [] → (stackOf s k).inService = true → dramLive s = true →
    exec (.refresh k) s = .next { s with mc := { s.mc with stk := mset s.mc.stk k { stackOf s k with
      refreshes := (stackOf s k).refreshes + 1 } } })

/-- Commands of the transit group (R422, R423, R428, R432, R435, R436, R509). SET_FABRIC_ID takes any number but 0xFFF;
SET_ROUTE enters a route of at most 4 links, each used one below 48, and a chip that was unreachable stays so exactly when its
route has no live link; SET_TRANSIT_POLICY enters non-zero weights and shares of 4 to 64 KiB that sum to at most 224, and
refuses others; SET_REMOTE_SLOT enters a slot; SET_REMOTE_WINDOW enters an invalid window as it is, and a valid one of 1 to
32,768 units that lies in one tier outside the protected areas, and returns INVALID_ARGUMENT for another length or place. A
window over a protected area returns IN_USE, and at SL0 with no layout BAD_STATE: both codes are the model's choice (log entry
41). -/
def Obligations.TransitCommandsTakeEffect : Prop :=
  (∀ (s : State) (m : MbWrite), MbStarts rowSetFabricId m s → s.rc.need = [] →
    ((mbCtx s m).f 0 0 12 ≠ 0xFFF → exec (.setFabricId m) s = .next (mbEnds { s with mer := { s.mer with
      fabric := BitVec.ofNat 12 ((mbCtx s m).f 0 0 12) } } m 0x50 rcOk [])) ∧
    ((mbCtx s m).f 0 0 12 = 0xFFF → exec (.setFabricId m) s = .next (mbEnds s m 0x50 rcInvalid []))) ∧
  (∀ (s : State) (m : MbWrite) (n : Nat) (ls : List Nat), MbStarts rowSetRoute m s → s.rc.need = [] →
    (mbCtx s m).f 0 12 3 = n → ls = [(mbCtx s m).f 1 0 6, (mbCtx s m).f 1 6 6, (mbCtx s m).f 1 12 6, (mbCtx s m).f 1 18 6] →
    (n ≤ 4 → (∀ l ∈ ls.take n, l < 48) →
      ∃ t, exec (.setRoute m) s = .next t ∧ MbEnded s t m.ch rcOk [] ∧
        t.tr.routes = mset s.tr.routes ((mbCtx s m).f 0 0 12) { nlink := n, hops := bit ((mbCtx s m).a 0) 15, links := ls } ∧
        (∀ c, c ∈ t.tr.unreachable ↔ c ∈ s.tr.unreachable ∧ routeLinks t (BitVec.ofNat 12 c) = []) ∧
        { mbUndo s t with tr := { t.tr with routes := s.tr.routes, unreachable := s.tr.unreachable } } = s) ∧
    ((4 < n ∨ ∃ l ∈ ls.take n, 48 ≤ l) → exec (.setRoute m) s = .next (mbEnds s m 0x51 rcInvalid []))) ∧
  (∀ (s : State) (m : MbWrite) (ws sh : List Nat), MbStarts rowSetTransitPolicy m s → s.rc.need = [] →
    ws = (List.range 6).map (fun i => (mbCtx s m).f 0 (4 * i) 4) →
    sh = (List.range 8).map (fun i => (mbCtx s m).f 1 (7 * i) 7) ++ (List.range 6).map (fun i => (mbCtx s m).f 2 (7 * i) 7) →
    ((∀ w ∈ ws, w ≠ 0) → (∀ x ∈ sh, 4 ≤ x ∧ x ≤ 64) → sh.sum ≤ 224 →
      exec (.setTransitPolicy m) s = .next (mbEnds { s with tr := { s.tr with weights := ws, shares := sh } } m 0x52 rcOk [])) ∧
    ((0 ∈ ws ∨ (∃ x ∈ sh, x < 4 ∨ 64 < x) ∨ 224 < sh.sum) →
      exec (.setTransitPolicy m) s = .next (mbEnds s m 0x52 rcInvalid []))) ∧
  (∀ (s : State) (m : MbWrite) (e : Slot), MbStarts rowSetRemoteSlot m s → s.rc.need = [] →
    e = Slot.mk (bit ((mbCtx s m).a 1) 0) (BitVec.ofNat 12 ((mbCtx s m).f 1 1 12)) ((mbCtx s m).f 1 13 8) →
    exec (.setRemoteSlot m) s = .next (mbEnds { s with tr := { s.tr with
      slots := mset s.tr.slots ((mbCtx s m).f 0 0 8) e } } m 0x53 rcOk [])) ∧
  (∀ (s : State) (m : MbWrite) (w : RWindow), MbStarts rowSetRemoteWindow m s → s.rc.need = [] →
    w = RWindow.mk (bit ((mbCtx s m).a 1) 0) (bit ((mbCtx s m).a 1) 1) (bit ((mbCtx s m).a 1) 2) (bit ((mbCtx s m).a 1) 3)
      (BitVec.ofNat 2 ((mbCtx s m).f 1 4 2)) (BitVec.ofNat 12 ((mbCtx s m).f 1 6 12)) ((mbCtx s m).f 2 0 27)
      ((mbCtx s m).f 2 27 16) →
    (s.pwr.sl = 0 → s.mer.layout = none → exec (.setRemoteWindow m) s = .next (mbEnds s m 0x54 rcBadState [])) ∧
    ((s.pwr.sl = 0 → s.mer.layout.isSome = true) →
      ((w.v = false ∨ (w.len ≠ 0 ∧ w.len ≤ 32768 ∧ inTiers (w.lbase * 0x200000) (w.len * 0x200000) = true ∧
          protectedArea s (w.lbase * 0x200000) (w.len * 0x200000) = false)) →
        exec (.setRemoteWindow m) s = .next (mbEnds { s with tr := { s.tr with
          windows := mset s.tr.windows ((mbCtx s m).f 0 0 8) w } } m 0x54 rcOk [])) ∧
      (w.v = true → (w.len = 0 ∨ 32768 < w.len ∨ inTiers (w.lbase * 0x200000) (w.len * 0x200000) = false) →
        exec (.setRemoteWindow m) s = .next (mbEnds s m 0x54 rcInvalid [])) ∧
      (w.v = true → w.len ≠ 0 → w.len ≤ 32768 → inTiers (w.lbase * 0x200000) (w.len * 0x200000) = true →
        protectedArea s (w.lbase * 0x200000) (w.len * 0x200000) = true →
          exec (.setRemoteWindow m) s = .next (mbEnds s m 0x54 rcInUse []))))

/-- The link layer of Transit (R427 to R429, R441 to R444). A flit that arrives on a link that is up, with nothing waiting to
be sent on it and no loss to act on, returns its credits and frees the acknowledged part of the replay buffer; in order and
not idle, it advances the receiver, whose messages for this chip act by their own rows, and a message for a chip without a
route counts TR_MISROUTE; with NAK set this chip replays and counts; one whose messages are not CTL wakes a parked block; for a
link that is down it does nothing. While the block is frozen a flit moves the link's own layer and nothing else. A NAK for a
flit that this chip sent replays and counts, and one for a flit that it received goes out. A retraining that reaches 8, 4 or 2
lanes sets the width and the shares, with an event below 8; at any other width the link is down and an event is raised, here
of a link with nothing unsent or unacknowledged that no route names. A message of a class or type that is not defined is
discarded and counted. A reported loss of an outstanding read gives poisoned bytes of free value, and of an outstanding write
of no command counts TR_WR_LOST; that of a whole chip that no command and no request awaits marks it unreachable and raises an
event, once. Which types the fan-out, fan-in and control classes define is the model's choice (log entry 30), and so is that a
link that is down, and a message whose type is defined, change nothing (log entry 8). -/
def Obligations.TransitLinkEventsTakeEffect : Prop :=
  (∀ (s u : State) (l : Fin 48) (f : TFlit) (y z : Link), stopped s = false → s.rc.need = [] → (linkOf s l).up = true →
    s.tr.lost = [] → (linkOf s l).sendq = [] → y = f.cred.foldl flitCredit (flitAck (linkOf s l) f.ackseq) →
    z = (if f.idle = false ∧ f.seq = ((linkOf s l).rcvd + 1) % 4096 then
      { y with rcvd := f.seq, nak := false,
               returned := f.msgs.foldl (fun m g => mset m (pairOf g) (mget m (pairOf g) 0 + g.len)) y.returned } else y) →
    u = bump (setLink s l (if f.nak then { z with replays := z.replays + 1, naks := z.naks + 1 } else z)) (ctrLinkTrFecCe l)
      f.fec →
    (∀ e, e ∈ y.replay ↔ e ∈ (linkOf s l).replay ∧ 2048 ≤ (f.ackseq + 4096 - e.1) % 4096) ∧
    ((∀ m ∈ f.msgs, m.dst = s.mer.fabric) →
      ((s.pwr.park = .running ∨ ∀ m ∈ f.msgs, m.cls = 6) →
        exec (.transitFlit l f) s = .next (bumpIf u f.nak (ctrLinkTrReplay l))) ∧
      (s.pwr.park = .parked → (∃ m ∈ f.msgs, m.cls ≠ 6) → f.idle = false → f.seq = ((linkOf s l).rcvd + 1) % 4096 →
        exec (.transitFlit l f) s = .next { bumpIf u f.nak (ctrLinkTrReplay l) with pwr := { s.pwr with park := .waking } })) ∧
    (∀ m, f.msgs = [m] → m.dst ≠ s.mer.fabric → mget? s.tr.routes m.dst.toNat = none → s.pwr.park = .running →
      f.idle = false → f.seq = ((linkOf s l).rcvd + 1) % 4096 → f.nak = false →
        exec (.transitFlit l f) s = .next (bump1 u ctrChipTrMisroute))) ∧
  (∀ (s : State) (l : Fin 48) (f : TFlit), stopped s = false → s.rc.need = [] → (linkOf s l).up = false →
    exec (.transitFlit l f) s = .next s) ∧
  (∀ (s : State) (l : Fin 48) (f : TFlit), s.err.frozen = true → s.pwr.pllLock = true → s.pwr.pllLost = false →
    ∃ t, exec (.transitFlit l f) s = .next t ∧ { t with tr := { t.tr with links := s.tr.links } } = s ∧
      (∀ k, k ≠ l.val → linkOf t k = linkOf s k) ∧ (linkOf t l).sendq = (linkOf s l).sendq ∧
      (linkOf t l).returned = (linkOf s l).returned ∧ ((linkOf s l).up = false → t = s)) ∧
  (∀ (s : State) (l : Fin 48) (b : Bool), stopped s = false → s.rc.need = [] →
    ((linkOf s l).up = true → exec (.transitNak l true) s = .next (bump1 (setLink s l { linkOf s l with
      replays := (linkOf s l).replays + 1, naks := (linkOf s l).naks + 1 }) (ctrLinkTrReplay l)) ∧
      exec (.transitNak l false) s = .next (setLink s l { linkOf s l with nak := true })) ∧
    ((linkOf s l).up = false → exec (.transitNak l b) s = .next s)) ∧
  (∀ (s : State) (l : Fin 48), stopped s = false → s.rc.need = [] → (linkOf s l).up = true →
    exec (.transitRetrain l 8) s = .next (setLink s l { linkOf s l with
      width := 8, naks := 0, replays := 0, shares := s.tr.shares }) ∧
    (∀ w, w = 4 ∨ w = 2 → ∃ t, exec (.transitRetrain l w) s = .next t ∧
      t.tr = (setLink s l { linkOf s l with width := w, naks := 0, replays := 0, shares := s.tr.shares }).tr ∧
      (merUp s = true → t.evt.eseq = s.evt.eseq + 1) ∧ { memUndo s t with tr := s.tr } = s) ∧
    (∀ w, w ≠ 8 → w ≠ 4 → w ≠ 2 → (linkOf s l).sendq = [] → (linkOf s l).replay = [] → s.tr.lost = [] →
      (∀ e ∈ s.tr.routes, l.val ∉ e.2.links.take e.2.nlink) →
        ∃ t, exec (.transitRetrain l w) s = .next t ∧ (linkOf t l).up = false ∧ (linkOf t l).down = true ∧
          (∀ k, k ≠ l.val → linkOf t k = linkOf s k) ∧ (merUp s = true → t.evt.eseq = s.evt.eseq + 1) ∧
          { memUndo s t with tr := { t.tr with links := s.tr.links } } = s)) ∧
  (∀ (s : State) (l : Fin 48) (w : Nat), stopped s = false → s.rc.need = [] → (linkOf s l).up = false →
    exec (.transitRetrain l w) s = .next s) ∧
  (∀ (s : State) (f : TMsg) (t : Nat), stopped s = false → s.rc.need = [] → t = f.mtype.toNat →
    (7 ≤ f.cls ∨ (f.cls = 0 ∧ 2 < t) ∨ (f.cls = 1 ∧ t ≠ 0) ∨ (f.cls = 2 ∧ 1 < t) ∨ (f.cls = 4 ∧ 2 < t) ∨
        ((f.cls = 3 ∨ f.cls = 5) ∧ (t < 8 ∨ 10 < t)) ∨ (f.cls = 6 ∧ 10 < t) →
      exec (.transitReservedMessage f) s = .next (bump1 s ctrChipTrProtoErr)) ∧
    ((f.cls = 0 ∧ t ≤ 2) ∨ (f.cls = 1 ∧ t = 0) ∨ (f.cls = 2 ∧ t ≤ 1) ∨ (f.cls = 4 ∧ t ≤ 2) ∨
        ((f.cls = 3 ∨ f.cls = 5) ∧ 8 ≤ t ∧ t ≤ 10) ∨ (f.cls = 6 ∧ t ≤ 10) →
      exec (.transitReservedMessage f) s = .next s)) ∧
  (∀ (s : State) (chip : BitVec 12) (tag : Nat) (f : TMsg), stopped s = false → s.rc.need = [] → s.tr.lost = [] →
    s.tr.out.find? (fun f => f.tag == tag && f.dst == chip && (f.cls == 2 || f.cls == 4)) = some f → f.tag = tag →
    (∀ w addr, waitFor s tag = some (.buf w addr) → s.str.cpWait = [] →
      ∃ (t : State) (d : List Byte), exec (.lossReport chip (some tag)) s = .next t ∧ d.length = argSize f.arg ∧
        t.got = s.got ++ [{ who := w, host := false, addr := addr, data := d.map (fun b => (b, true)) }] ∧
        t.tr = { s.tr with wait := s.tr.wait.filter (fun w => w.1 != tag) } ∧
        { t with got := s.got, tr := s.tr, frees := s.frees } = s) ∧
    (∀ w, waitFor s tag = some (.write w) → (∀ cid, w ≠ .cmd cid) →
      exec (.lossReport chip (some tag)) s = .next (bump1 { s with tr := { s.tr with
        wait := s.tr.wait.filter (fun w => w.1 != tag) } } ctrChipTrWrLost))) ∧
  (∀ (s : State) (chip : BitVec 12), stopped s = false → s.rc.need = [] → s.tr.lost = [] → s.orr.cmds = [] →
    (∀ f ∈ s.tr.out, f.dst ≠ chip) →
      (s.tr.unreachable.contains chip.toNat = true → exec (.lossReport chip none) s = .next s) ∧
      (s.tr.unreachable.contains chip.toNat = false →
        ∃ t, exec (.lossReport chip none) s = .next t ∧ chip.toNat ∈ t.tr.unreachable ∧
          (merUp s = true → t.evt.eseq = s.evt.eseq + 1) ∧
          { memUndo s t with tr := { t.tr with unreachable := s.tr.unreachable } } = s))

/-- Remote accesses (R436 to R439). A window permits a request when it is valid, the offset and the size lie in its length, it
has the right needed and permits the source. At the window's chip, with the block running, no restart and no earlier request
of the same order key kept, a request that its window permits is performed at the window's base plus the offset, and answered
to its source in the response class with its tag: DATA with the bytes and a poison bit for each sector for a read, the old
value for an atomic, ACK for a write. One that its window does not permit is answered ERR and counted, and nothing else
changes; an AT outside DREQ, or with a reserved operation, is discarded and counted (the latter the model's inference, log
entry 45). At the requester DATA reaches the one who asked, ACK ends the wait for a write, and ERR ends a fetched command of a
queue with PROTECTION_FAULT. That an answer whose tag nobody awaits changes nothing is the model's choice (log entry 8). -/
def Obligations.RemoteAccessesTakeEffect : Prop :=
  (∀ (s : State) (f : TMsg) (w : RWindow) (r : Nat), mget? s.tr.windows (fld f.arg 0 8) = some w → r < 3 →
    (windowOk s f r = some w ↔ w.v = true ∧ fld f.arg 8 36 + (fld f.arg 44 8 + 1) ≤ w.len * 0x200000 ∧
      (w.src = 0xFFF ∨ w.src = f.src) ∧ (r = 0 → w.rd = true) ∧ (r = 1 → w.wr = true) ∧ (r = 2 → w.at' = true)) ∧
    (windowOk s f r = some w ∨ windowOk s f r = none)) ∧
  (∀ (s s1 : State) (f : TMsg) (w : RWindow) (a : Nat) (d : List (Byte × Bool)), stopped s = false →
    s.pwr.park = .running → s.pwr.restart ≠ .running → windowOk s f 0 = some w → mustWait s (.remote f (some w)) = false →
    a = w.lbase * 0x200000 + fld f.arg 8 36 →
    readTier s { host := false, pa := a, len := fld f.arg 44 8 + 1, hint := w.hint, va := 0, ent := 0 } = (s1, d) →
    s1.rc.need = [] →
      ∃ t g, exec (.remoteRd f) s = .next t ∧ t.tr.out = s.tr.out ++ [g] ∧ g.dst = f.src ∧ g.src = s.mer.fabric ∧
        g.cls = f.cls + 1 ∧ g.tag = f.tag ∧ g.mtype = 8 ∧ g.payload = d.map (fun b => b.1) ∧
        g.poison = sectorMarks a d ∧ t.mem = s1.mem ∧ t.rc = s1.rc ∧ { memUndo s t with tr := s.tr } = s) ∧
  (∀ (s u : State) (f : TMsg) (w : RWindow) (a : Nat) (l : List (Option (Byte × Bool))), stopped s = false →
    s.pwr.park = .running → s.pwr.restart ≠ .running → windowOk s f 1 = some w → mustWait s (.remote f (some w)) = false →
    a = w.lbase * 0x200000 + fld f.arg 8 36 → l = remoteBytes a (fld f.arg 44 8 + 1) f →
    u = writeRuns w.hint (l.length + 1) s a l → u.rc.need = [] →
      ∃ t g, exec (.remoteWr f) s = .next t ∧ t.tr.out = s.tr.out ++ [g] ∧ g.dst = f.src ∧ g.src = s.mer.fabric ∧
        g.cls = f.cls + 1 ∧ g.tag = f.tag ∧ g.mtype = 9 ∧ g.payload = [] ∧ t.mem = u.mem ∧ t.rc = u.rc ∧
        { memUndo s t with tr := s.tr } = s) ∧
  (∀ (s s1 : State) (f : TMsg) (w : RWindow) (old : List Byte) (bad : Bool), stopped s = false → s.pwr.park = .running →
    s.pwr.restart ≠ .running → f.cls = 4 → fld f.arg 52 2 < 2 → windowOk s f 2 = some w →
    mustWait s (.remote f (some w)) = false →
    atomicTier s (w.lbase * 0x200000 + fld f.arg 8 36) (fld f.arg 52 2 == 1) f.payload w.hint = (s1, old, bad) →
    s1.rc.need = [] →
      ∃ t g, exec (.remoteAt f) s = .next t ∧ t.tr.out = s.tr.out ++ [g] ∧ g.dst = f.src ∧ g.src = s.mer.fabric ∧
        g.cls = 5 ∧ g.tag = f.tag ∧ g.mtype = 8 ∧ g.payload = old ∧ g.poison = [bad] ∧ t.mem = s1.mem ∧ t.rc = s1.rc ∧
        { memUndo s t with tr := s.tr } = s) ∧
  (∀ (s : State) (f : TMsg), stopped s = false → s.rc.need = [] → s.pwr.park = .running → s.pwr.restart ≠ .running →
    (windowOk s f 0 = none → mustWait s (.remote f none) = false →
      ∃ t g, exec (.remoteRd f) s = .next t ∧ t.tr.out = s.tr.out ++ [g] ∧ g.dst = f.src ∧ g.cls = f.cls + 1 ∧
        g.tag = f.tag ∧ g.mtype = 10 ∧ t.ctrs = addCtr s.ctrs ctrChipTrRwRej 1 ∧ { t with tr := s.tr, ctrs := s.ctrs } = s) ∧
    (windowOk s f 1 = none → mustWait s (.remote f none) = false →
      ∃ t g, exec (.remoteWr f) s = .next t ∧ t.tr.out = s.tr.out ++ [g] ∧ g.dst = f.src ∧ g.cls = f.cls + 1 ∧
        g.tag = f.tag ∧ g.mtype = 10 ∧ t.ctrs = addCtr s.ctrs ctrChipTrRwRej 1 ∧ { t with tr := s.tr, ctrs := s.ctrs } = s) ∧
    (f.cls = 4 → fld f.arg 52 2 < 2 → windowOk s f 2 = none → mustWait s (.remote f none) = false →
      ∃ t g, exec (.remoteAt f) s = .next t ∧ t.tr.out = s.tr.out ++ [g] ∧ g.dst = f.src ∧ g.cls = f.cls + 1 ∧
        g.tag = f.tag ∧ g.mtype = 10 ∧ t.ctrs = addCtr s.ctrs ctrChipTrRwRej 1 ∧ { t with tr := s.tr, ctrs := s.ctrs } = s) ∧
    (f.cls ≠ 4 ∨ 2 ≤ fld f.arg 52 2 → mustWait s (.remote f (windowOk s f 2)) = false →
      exec (.remoteAt f) s = .next (bump1 s ctrChipTrProtoErr))) ∧
  (∀ (s : State) (f : TMsg), stopped s = false → s.rc.need = [] →
    (∀ w addr, waitFor s f.tag = some (.buf w addr) → s.str.cpWait = [] →
      exec (.remoteData f) s = .next { s with
        got := s.got ++ [{ who := w, host := false, addr := addr, data :=
          f.payload.zipIdx.map (fun x => (x.1, f.poison.getD ((addr % 32 + x.2) / 32) false)) }],
        tr := { s.tr with wait := s.tr.wait.filter (fun w => w.1 != f.tag) } }) ∧
    (∀ w, waitFor s f.tag = some (.write w) →
      exec (.remoteAck f) s = .next { s with tr := { s.tr with wait := s.tr.wait.filter (fun w => w.1 != f.tag) } }) ∧
    (waitFor s f.tag = none → exec (.remoteData f) s = .next s ∧ exec (.remoteAck f) s = .next s ∧
      exec (.remoteErr f) s = .next s)) ∧
  (∀ (s : State) (f : TMsg) (cid addr : Nat) (c : Cmd), stopped s = false → s.rc.need = [] →
    (waitFor s f.tag = some (.buf (.cmd cid) addr) ∨ waitFor s f.tag = some (.write (.cmd cid))) → cmdOf s cid = some c →
    c.own = .queue → c.phase = .fetched → c.fail = none →
      ∃ t u, exec (.remoteErr f) s = .next t ∧ cmdOf t cid = some u ∧ u.phase = .done ∧ u.fail = some 0x11 ∧
        t.tr.wait = s.tr.wait.filter (fun w => w.1 != f.tag) ∧ t.mem = s.mem ∧ t.rc = s.rc ∧ t.str = s.str ∧ t.got = s.got)

/-- Commands that configure queues, tasks and policies (R447, R448, R466, R478, R288, R512). QUEUE_CONFIG of a queue without
commands in flight enters a record in range whose rings and word lie each in one pinned range entry, and leaves the queue
IDLE; with commands in flight, or a QUEUE_ABORT of it running, it returns IN_USE, and any other record INVALID_ARGUMENT.
QUEUE_ABORT leaves the queue STOPPED and returns how many of its commands were in flight; TASK_CONFIG enters a task and leaves
its launch in flight; SET_MIG_POLICY enters the chip's record or the six fields of a descriptor's, and refuses a record that
breaks a stated order or minimum. A zero DEPTH, SLICE, ICOUNT, TILES or HANG_LIMIT takes its default: the model's choice (log
entry 21). -/
def Obligations.QueueConfigurationsTakeEffect : Prop :=
  (∀ (s : State) (m : MbWrite) (q : Nat) (r : QConf), MbStarts rowQueueConfig m s → s.rc.need = [] →
    (mbCtx s m).f 0 0 6 = q → queueRecord (mbCtx s m) false = r →
    (queueOk r = false → exec (.queueConfig m) s = .next (mbEnds s m 0x60 rcInvalid [])) ∧
    (queueOk r = true →
      (oneEntry s 0 r.ring (2 ^ r.log2n * 64) = none ∨ oneEntry s 1 r.cring (2 ^ r.log2cn * 32) = none ∨
          oneEntry s 1 r.cseqAddr 8 = none → exec (.queueConfig m) s = .next (mbEnds s m 0x60 rcInvalid [])) ∧
      (∀ p a b, oneEntry s 0 r.ring (2 ^ r.log2n * 64) = some p → oneEntry s 1 r.cring (2 ^ r.log2cn * 32) = some a →
        oneEntry s 1 r.cseqAddr 8 = some b →
        (inflight s q = 0 → lQueue s q = false → exec (.queueConfig m) s = .next (mbEnds (setQ s q { qOf s q with
          conf := some { r with hostRes := p.host }, st := .idle, pendingDb := false, cfull := false }) m 0x60 rcOk [])) ∧
        (inflight s q ≠ 0 ∨ lQueue s q = true → exec (.queueConfig m) s = .next (mbEnds s m 0x60 rcInUse []))))) ∧
  (∀ (s : State) (m : MbWrite) (q : Nat), MbStarts rowQueueAbort m s → (mbCtx s m).f 0 0 6 = q →
    (lQueue s q = true → s.rc.need = [] → exec (.queueAbort m) s = .next (mbEnds s m 0x61 rcInUse [])) ∧
    (∀ u rets, lQueue s q = false → bodyQueueAbort (mbTake s m 0x61) (mbCtx s m) = .done u rcOk rets → u.rc.need = [] →
      ∃ t, exec (.queueAbort m) s = .next t ∧ (qOf t q).st = .stopped ∧ (qOf t q).pendingDb = false ∧
        MbDone t m.ch rcOk [(0, BitVec.ofNat 64 (s.orr.cmds.filter (fun d => d.q == q && d.phase != .done &&
          (match d.own with | .stream _ => false | .node _ _ => false | _ => true))).length)])) ∧
  (∀ (s : State) (m : MbWrite) (k : Nat) (new : Task), MbStarts rowTaskConfig m s → s.rc.need = [] →
    (mbCtx s m).f 0 0 6 = k →
    new = Task.mk (bit ((mbCtx s m).a 0) 6) ((mbCtx s m).f 0 7 8) ((mbCtx s m).f 0 15 6) ((mbCtx s m).f 0 21 10)
      (BitVec.ofNat 32 ((mbCtx s m).f 1 0 32)) (BitVec.ofNat 32 ((mbCtx s m).f 1 32 32)) (mget s.orr.tasks k Task.reset).flight
      false →
      exec (.taskConfig m) s = .next (mbEnds { s with orr := { s.orr with tasks := mset s.orr.tasks k new } } m 0x65 rcOk [])) ∧
  (∀ (s s1 : State) (m : MbWrite) (l : List Byte) (p q : MigPolicy) (d : Nat), MbStarts rowSetMigPolicy m s →
    BufReads (mbTake s m 0x70) (mbCtx s m) ((mbCtx s m).p 1) 48 s1 l → migOfBytes l = p → migZeros l = true →
    s1.rc.need = [] → (mbCtx s m).f 0 0 13 = d → (d < 4096 ∨ d = 0x1FFF) →
    q = (if d = 0x1FFF then p else
      { s1.load.mig with en := p.en, hot := p.hot, cold := p.cold, t16 := p.t16, t8 := p.t8, t4 := p.t4 }) →
    ((64 ≤ q.mwLen ∧ q.cold < q.hot ∧ q.t8 ≤ q.t16 ∧ q.t4 ≤ q.t8 ∧ q.epochMin ≤ q.qpGrace) →
      (d = 0x1FFF →
        exec (.setMigPolicy m) s = .next (mbComplete { s1 with load := { s1.load with mig := q } } m.ch rcOk [])) ∧
      (d < 4096 → exec (.setMigPolicy m) s = .next (mbComplete { s1 with load := { s1.load with
        migD := mset s1.load.migD d q } } m.ch rcOk []))) ∧
    (¬ (64 ≤ q.mwLen ∧ q.cold < q.hot ∧ q.t8 ≤ q.t16 ∧ q.t4 ≤ q.t8 ∧ q.epochMin ≤ q.qpGrace) →
      exec (.setMigPolicy m) s = .next (mbComplete s1 m.ch rcInvalid [])))

/-- Plans (R463 to R466, R510). PLAN_STORE and PLAN_PATCH of nodes that may stand in a plan, with room for them, make a new
current version under the next number and return it, and keep the pinned versions; PLAN_DROP of a plan that no enabled task
names leaves only its pinned versions, and otherwise returns IN_USE, or NOT_FOUND where there is no plan; LAUNCH pins the
current version and runs; a node whose predecessors have completed enters flight as a command of the launch's queue, with at
most 16 of the launch; a task's trigger, with a free place in flight and in the completion ring, launches its plan and adds the
step to T; one that comes while its launch runs counts, once. -/
def Obligations.PlanCommandsTakeEffect : Prop :=
  (∀ (s s1 : State) (m : MbWrite) (l : List Byte) (nodes : List Node) (p n : Nat) (old : Plan), MbStarts rowPlanStore m s →
    (mbCtx s m).f 0 0 8 = p → (mbCtx s m).f 2 0 11 = n → 1 ≤ n → n ≤ 1024 →
    BufReads (mbTake s m 0x62) (mbCtx s m) ((mbCtx s m).p 1) (80 * n) s1 l → nodesOf l n = some nodes →
    nodes.all (nodeOk s1) = true → old = mget s1.orr.plans p { vers := [], next := 0, dropped := false } →
    (old.vers.filter (fun v => 0 < v.pins)).length ≤ 3 → planBytes (planCommit s1 p nodes).1 ≤ planArea s1 → s1.rc.need = [] →
      ∃ t pl v, exec (.planStore m) s = .next t ∧ MbDone t m.ch rcOk [(0, BitVec.ofNat 64 old.next.toNat)] ∧
        planCurrent t p = some (pl, v) ∧ v.nodes = nodes ∧ v.ver = old.next ∧ v.pins = 0 ∧ pl.next = old.next + 1 ∧
        (∀ x ∈ old.vers, 0 < x.pins → x ∈ pl.vers) ∧ (∀ k, k ≠ p → mget? t.orr.plans k = mget? s1.orr.plans k) ∧
        { mbUndo s1 t with orr := { t.orr with plans := s1.orr.plans } } = s1) ∧
  (∀ (s s1 : State) (m : MbWrite) (l : List Byte) (nodes : List Node) (p n : Nat) (pl0 : Plan) (v0 : PlanVer),
    MbStarts rowPlanPatch m s → (mbCtx s m).f 0 0 8 = p → (mbCtx s m).f 2 0 11 = n → 1 ≤ n → n ≤ 1024 →
    planCurrent s p = some (pl0, v0) → pl0.vers.length < 4 →
    BufReads (mbTake s m 0x63) (mbCtx s m) ((mbCtx s m).p 1) (96 * n) s1 l → s1.orr = s.orr →
    patchAll v0.nodes ((List.range n).map (fun i => bytesAt l (96 * i) 96)) = some nodes → nodes.all (nodeOk s1) = true →
    planBytes (planCommit s1 p nodes).1 ≤ planArea s1 → s1.rc.need = [] →
      ∃ t pl v, exec (.planPatch m) s = .next t ∧ MbDone t m.ch rcOk [(0, BitVec.ofNat 64 pl0.next.toNat)] ∧
        planCurrent t p = some (pl, v) ∧ v.nodes = nodes ∧ v.ver = pl0.next ∧ pl.next = pl0.next + 1 ∧
        (∀ x ∈ pl0.vers, 0 < x.pins → x ∈ pl.vers) ∧ { mbUndo s1 t with orr := { t.orr with plans := s1.orr.plans } } = s1) ∧
  (∀ (s : State) (m : MbWrite) (p : Nat) (pl0 : Plan) (v0 : PlanVer), MbStarts rowPlanPatch m s → s.rc.need = [] →
    (mbCtx s m).f 0 0 8 = p → 1 ≤ (mbCtx s m).f 2 0 11 → (mbCtx s m).f 2 0 11 ≤ 1024 →
    planCurrent s p = some (pl0, v0) → 4 ≤ pl0.vers.length →
      exec (.planPatch m) s = .next (mbEnds s m 0x63 rcPlanBusy [])) ∧
  (∀ (s : State) (m : MbWrite) (p : Nat), MbStarts rowPlanDrop m s → s.rc.need = [] → (mbCtx s m).f 0 0 8 = p →
    (mget? s.orr.plans p = none → exec (.planDrop m) s = .next (mbEnds s m 0x64 rcNotFound [])) ∧
    (∀ pl gone, mget? s.orr.plans p = some pl → pl.dropped = false →
      gone = { pl with vers := pl.vers.filter (fun v => 0 < v.pins), dropped := true } →
      (s.orr.tasks.any (fun e => e.2.en && e.2.plan == p) = false → exec (.planDrop m) s =
        .next (mbEnds { s with orr := { s.orr with plans := mset s.orr.plans p gone } } m 0x64 rcOk [])) ∧
      (s.orr.tasks.any (fun e => e.2.en && e.2.plan == p) = true →
        exec (.planDrop m) s = .next (mbEnds s m 0x64 rcInUse [])))) ∧
  (∀ (s : State) (cid p : Nat) (c : Cmd) (pl : Plan) (v : PlanVer), stopped s = false → s.rc.need = [] →
    cmdOf s cid = some c → c.badLine = false → c.op = 0x09 → mayStart s c = true → controlOk c = true → c.f 0 8 8 = p →
    planCurrent s p = some (pl, v) →
      ∃ t u, exec (.launch cid) s = .next t ∧ cmdOf t cid = some u ∧ u = { c with phase := .running, plan := p, pver := v.ver.toNat } ∧
        t.orr.plans = mset s.orr.plans p { pl with
          vers := pl.vers.map (fun x => if x.ver = v.ver then { x with pins := x.pins + 1 } else x) } ∧
        { t with orr := { t.orr with plans := s.orr.plans, cmds := s.orr.cmds } } = s) ∧
  (∀ (s : State) (cid i : Nat) (c : Cmd) (n : Node), stopped s = false → s.rc.need = [] → cmdOf s cid = some c → c.op = 0x09 →
    c.phase = .running → (launchNodes s c)[i]? = some n →
    (s.orr.cmds.filter (fun d => match d.own with | .node l _ => l == cid | _ => false)).length < 16 →
    i ∉ c.nodesDone → i ∉ c.nodesSkipped → (∀ d ∈ s.orr.cmds, d.own ≠ .node cid i) → (∀ d ∈ n.deps, d ∈ c.nodesDone) →
    s.pwr.park = .running → s.pwr.restart ≠ .running →
      ∃ t d, exec (.planNodeDispatch cid i) s = .next t ∧ t.orr.cmds = s.orr.cmds ++ [d] ∧ d.cid = s.orr.nextCid ∧
        d.own = .node cid i ∧ d.q = c.q ∧ d.seq = c.seq ∧ d.words = n.words ∧ d.stamp = s.xlt.xgen ∧ d.badLine = false ∧
        t.orr.nextCid = s.orr.nextCid + 1 ∧
        { t with orr := { t.orr with cmds := s.orr.cmds, nextCid := s.orr.nextCid } } = s) ∧
  (∀ (s : State) (k : Fin 64) (x : Task), stopped s = false → s.rc.need = [] → mget? s.orr.tasks k = some x →
    x.en = true → reached (semOf s x.sem) x.t = true → s.pwr.park = .running → s.pwr.restart ≠ .running → s.pwr.sl ≠ 0 →
    (x.flight ≠ none → x.late = true → exec (.taskTrigger k) s = .next s) ∧
    (x.flight ≠ none → x.late = false → exec (.taskTrigger k) s = .next (bump1 { s with orr := { s.orr with
      tasks := mset s.orr.tasks k { x with late := true } } } (ctrTaskTaskLate k))) ∧
    (∀ c, x.flight = none → (qOf s x.queue).conf = some c →
      ((qOf s x.queue).st = .running ∨ (qOf s x.queue).st = .idle ∨ (qOf s x.queue).st = .blocked) →
      inflight s x.queue < c.depth → (qOf s x.queue).nextSeq - (qOf s x.queue).cack.toNat ≤ 2 ^ c.log2cn →
        ∃ t d, exec (.taskTrigger k) s = .next t ∧
          mget? t.orr.tasks k = some { x with t := x.t + x.step, flight := some s.orr.nextCid, late := false } ∧
          t.orr.cmds = s.orr.cmds ++ [d] ∧ d.cid = s.orr.nextCid ∧ d.own = .task k.val ∧ d.q = x.queue ∧
          d.seq = (qOf s x.queue).nextSeq ∧ d.words = [BitVec.ofNat 64 (0x09 + x.plan * 256)] ∧ d.stamp = s.xlt.xgen ∧
          (qOf t x.queue).nextSeq = (qOf s x.queue).nextSeq + 1 ∧
          { t with orr := { t.orr with tasks := s.orr.tasks, cmds := s.orr.cmds, queues := s.orr.queues,
                                       nextCid := s.orr.nextCid } } = s))

/-- Doorbells and semaphores (R410, R449, R450, R454, R455, R586, R588). A write that an earlier posted write of the host is
still ahead of waits (a doorbell, where the chip port writes the same one, leaves the chip port's). Of two values for one
doorbell the one farther from the fetch index is applied. An accepted doorbell sets TAIL and makes an IDLE queue pending, and
wakes a parked block for it; a refused one sets DB_ERR and counts. A pending queue wakes and fetches; CACK never falls and
never passes the completed sequence number; SET writes a semaphore's value and ADD adds to it, mod 2^32, an ADD over consecutive
semaphores to each of them, and no other semaphore changes. Of two SETs of one semaphore in one ACLK the one of the lower source
stays and the other counts as lost: that an operand says which SETs share an ACLK is the model's choice (log entry 87). -/
def Obligations.DoorbellsAndSemaphoresTakeEffect : Prop :=
  (∀ (s : State) (q : Fin 64) (v : W64) (o : Option W32) (w : W32), stopped s = false → s.rc.need = [] →
    w = (match o with
      | some x => if (v.truncate 32 - (qOf s q).fetch).toNat < (x - (qOf s q).fetch).toNat then x else v.truncate 32
      | none => v.truncate 32) →
    (mustWait s (.reg (0x20000 + 0x40 * q.val) [v]) = true →
      exec (.doorbell q ⟨v, none⟩) s = .next (hold s (.reg (0x20000 + 0x40 * q.val) [v]))) ∧
    (mustWait s (.reg (0x20000 + 0x40 * q.val) [v]) = false →
      (doorbellOk (qOf s q) w = false → exec (.doorbell q ⟨v, o⟩) s =
        .next (bump1 (setQ s q { qOf s q with dbErr := true }) (ctrQueueDbRefused q))) ∧
      (doorbellOk (qOf s q) w = true → s.pwr.park = .running →
        ∃ t, exec (.doorbell q ⟨v, o⟩) s = .next t ∧ (qOf t q).tail = w ∧ (qOf t q).fetch = (qOf s q).fetch ∧
          (qOf t q).pendingDb = ((qOf s q).pendingDb || ((qOf s q).st == .idle && decide (w ≠ (qOf s q).fetch))) ∧
          (∀ k, k ≠ q.val → qOf t k = qOf s k) ∧ { t with orr := { t.orr with queues := s.orr.queues } } = s) ∧
      (doorbellOk (qOf s q) w = true → s.pwr.park = .parked → (qOf s q).st = .idle → w ≠ (qOf s q).fetch →
        ∃ t, exec (.doorbell q ⟨v, o⟩) s = .next t ∧ qOf t q = { qOf s q with tail := w, pendingDb := true } ∧
          t.pwr = { s.pwr with park := .waking, held := s.pwr.held ++ [.fetch q.val] } ∧
          { t with orr := { t.orr with queues := s.orr.queues }, pwr := s.pwr } = s))) ∧
  (∀ (s : State) (q : Fin 64) (w : W32), stopped s = false → s.rc.need = [] →
    (doorbellOk (qOf s q) w = false → exec (.chipPortDoorbell q w) s =
      .next (bump1 (setQ s q { qOf s q with dbErr := true }) (ctrQueueDbRefused q))) ∧
    (doorbellOk (qOf s q) w = true → s.pwr.park = .running →
      ∃ t, exec (.chipPortDoorbell q w) s = .next t ∧ (qOf t q).tail = w ∧ (qOf t q).fetch = (qOf s q).fetch ∧
        (qOf t q).pendingDb = ((qOf s q).pendingDb || ((qOf s q).st == .idle && decide (w ≠ (qOf s q).fetch))) ∧
        (∀ k, k ≠ q.val → qOf t k = qOf s k) ∧ { t with orr := { t.orr with queues := s.orr.queues } } = s) ∧
    (doorbellOk (qOf s q) w = true → s.pwr.park = .parked → (qOf s q).st = .idle → w ≠ (qOf s q).fetch →
      ∃ t, exec (.chipPortDoorbell q w) s = .next t ∧ qOf t q = { qOf s q with tail := w, pendingDb := true } ∧
        t.pwr = { s.pwr with park := .waking, held := s.pwr.held ++ [.fetch q.val] } ∧
        { t with orr := { t.orr with queues := s.orr.queues }, pwr := s.pwr } = s)) ∧
  (∀ (s u : State) (q : Fin 64), stopped s = false → (qOf s q).st = .idle → (qOf s q).pendingDb = true → s.pwr.park = .running →
    s.pwr.restart ≠ .running → u = fetchQ (setQ s q { qOf s q with st := .running, pendingDb := false }) q → u.rc.need = [] →
      exec (.queueWake q) s = .next u) ∧
  (∀ (s : State) (q : Fin 64) (v : W64), stopped s = false → s.rc.need = [] →
    mustWait s (.reg (0x20008 + 0x40 * q.val) [v]) = false →
    (v.toNat < (qOf s q).cack.toNat → exec (.qcackWrite q v) s = .next s) ∧
    ((qOf s q).cack.toNat ≤ v.toNat → ∃ t, exec (.qcackWrite q v) s = .next t ∧
      (qOf t q).cack = (if (qOf s q).cseq < v.toNat then BitVec.ofNat 64 (qOf s q).cseq else v) ∧
      (∀ k, k ≠ q.val → qOf t k = qOf s k) ∧ { t with orr := { t.orr with queues := s.orr.queues } } = s)) ∧
  (∀ (s : State) (i : Fin 1024) (v : W64) (same : Bool), stopped s = false → s.rc.need = [] →
    mustWait s (.reg (0x30000 + 8 * i.val) [v]) = false → (∀ o, mget? s.orr.semSets i = some o → ¬ o < [0]) →
      ∃ t, exec (.semValWrite i ⟨v, same⟩) s = .next t ∧ semOf t i = v.truncate 32 ∧ (∀ k, k ≠ i.val → semOf t k = semOf s k) ∧
        t.ctrs = addCtr s.ctrs ctrChipSemSetLost (if same = true ∧ (mget? s.orr.semSets i).isSome = true then 1 else 0) ∧
        t.str.streams = s.str.streams ∧
        { t with orr := { t.orr with sems := s.orr.sems, semSets := s.orr.semSets }, str := s.str, pwr := s.pwr,
                 ctrs := s.ctrs } = s) ∧
  (∀ (s : State) (i : Fin 1024) (vs : List W64), stopped s = false → s.rc.need = [] → i.val + vs.length ≤ 1024 →
    mustWait s (.reg (0x32000 + 8 * i.val) vs) = false →
    ∃ t, exec (.semAddWrite i vs) s = .next t ∧
      (∀ k, (h : k < vs.length) → semOf t (i.val + k) = semOf s (i.val + k) + (vs[k]).truncate 32) ∧
      (∀ k, k < i.val ∨ i.val + vs.length ≤ k → semOf t k = semOf s k) ∧
      { t with orr := { t.orr with sems := s.orr.sems }, pwr := s.pwr } = s) ∧
  (∀ (s : State) (att : Fin 8) (i : Fin 1024) (add : Bool) (v : W32) (same : Bool), stopped s = false → s.rc.need = [] →
    ((add = true ∨ same = false ∨ mget? s.orr.semSets i = none) →
      ∃ t, exec (.chipPortSemaphore i add ⟨att, v, same⟩) s = .next t ∧ semOf t i = (if add then semOf s i + v else v) ∧
        (∀ k, k ≠ i.val → semOf t k = semOf s k) ∧ t.str.streams = s.str.streams ∧
        { t with orr := { t.orr with sems := s.orr.sems, semSets := s.orr.semSets }, str := s.str, pwr := s.pwr } = s) ∧
    (∀ o, add = false → same = true → mget? s.orr.semSets i = some o →
      (o < [1, att.val] → exec (.chipPortSemaphore i add ⟨att, v, same⟩) s = .next (bump1 s ctrChipSemSetLost)) ∧
      (¬ o < [1, att.val] →
        ∃ t, exec (.chipPortSemaphore i add ⟨att, v, same⟩) s = .next t ∧ semOf t i = v ∧
          (∀ k, k ≠ i.val → semOf t k = semOf s k) ∧ t.ctrs = addCtr s.ctrs ctrChipSemSetLost 1 ∧
          { t with orr := { t.orr with sems := s.orr.sems, semSets := s.orr.semSets }, str := s.str, pwr := s.pwr,
                   ctrs := s.ctrs } = s)))

/-- Fetch and completion of queue commands (R14, R451, R458, R459, R461, R462). Where the queue may fetch, a ring in device
memory gives entry F at once: the command enters flight with the next number, the next sequence number of its queue and the
generation in force, and F advances; of a ring in host memory the entry is read from the host; where the queue may not fetch,
nothing happens. A reserved opcode or a poisoned line ends the command with status 0x40. A command that is done waits for its
remote writes; with all its effects visible it leaves, and the completed sequence number advances to it when it is next. The
interrupt's delay, which stands still in Park, ends with the interrupt. That the end of a delay that does not run changes
nothing is the model's choice (log entry 8). -/
def Obligations.QueueFetchAndCompletionTakeEffect : Prop :=
  (∀ (s s1 : State) (q : Fin 64) (c : QConf) (p : Piece), stopped s = false →
    mayFetch s q = true → (qOf s q).conf = some c →
    extPieces s true 0 (c.ring + (qOf s q).fetch.toNat % 2 ^ c.log2n * 64) 64 = .ok [p] →
    (p.host = true → s.rc.need = [] → exec (.queueFetch q) s = .next (hostRead s p.pa 64 (.fetch q))) ∧
    (∀ d marks, p.host = false → inTiers p.pa 64 = true → readExt s p.pa 64 0 = (s1, d, marks) → s1.rc.need = [] →
      ∃ t x, exec (.queueFetch q) s = .next t ∧ t.orr.cmds = s.orr.cmds ++ [x] ∧ x.cid = s.orr.nextCid ∧ x.q = q.val ∧
        x.seq = (qOf s q).nextSeq ∧ x.stamp = s.xlt.xgen ∧ x.own = .queue ∧ x.badLine = marks.any id ∧
        x.words = (List.range 8).map (fun i => BitVec.ofNat 64 (numAt d (8 * i) 8)) ∧
        t.orr.nextCid = s.orr.nextCid + 1 ∧ (qOf t q).fetch = (qOf s q).fetch + 1 ∧
        (qOf t q).nextSeq = (qOf s q).nextSeq + 1 ∧ (qOf t q).tail = (qOf s q).tail ∧ t.mem = s1.mem ∧ t.rc = s1.rc ∧
        { memUndo s t with orr := { t.orr with cmds := s.orr.cmds, nextCid := s.orr.nextCid, queues := s.orr.queues } } = s)) ∧
  (∀ (s : State) (q : Fin 64), stopped s = false → s.rc.need = [] → mayFetch s q = false →
    exec (.queueFetch q) s = .next s) ∧
  (∀ (s : State) (cid : Nat) (c : Cmd), stopped s = false → s.rc.need = [] → cmdOf s cid = some c → mayStart s c = true →
    (c.badLine = true ∨ c.op = 0 ∨ 0x0B ≤ c.op) →
      ∃ t u, exec (.queueReservedOpcode cid) s = .next t ∧ cmdOf t cid = some u ∧
        u = { c with phase := .done, fail := c.fail.orElse (fun _ => some 0x40), ended := true } ∧
        (∀ d, d ≠ cid → cmdOf t d = cmdOf s d) ∧ { t with orr := { t.orr with cmds := s.orr.cmds } } = s) ∧
  (∀ (s : State) (cid : Nat) (c : Cmd), stopped s = false → cmdOf s cid = some c → c.phase = .done → c.own = .queue →
    s.pwr.restart ≠ .running →
    (remoteOpen s cid = true → s.rc.need = [] → exec (.commandCompletion cid) s = .next s) ∧
    (∀ u, remoteOpen s cid = false → hostLineOpen s cid = false →
      u = flushFor (evictFor s cid) cid → hostWritesOf u cid = [] → (completeNow u c).rc.need = [] →
        ∃ t, exec (.commandCompletion cid) s = .next t ∧ t = completeNow u c ∧ cmdOf t cid = none ∧
          ((qOf s c.q).written = [] → c.seq = (qOf s c.q).cseq + 1 → (qOf t c.q).cseq = c.seq))) ∧
  (∀ (s : State) (q : Fin 64) (c : QConf), stopped s = false → s.rc.need = [] → (qOf s q).conf = some c →
    (c.ien = true → c.itime ≠ 0 → (qOf s q).intPend = true → s.pwr.park = .running → exec (.interruptDelayExpiry q) s =
      .next (msixFire (setQ s q { qOf s q with signalled := (qOf s q).cseq, intPend := false }) c.ivec)) ∧
    ((c.ien = false ∨ c.itime = 0 ∨ (qOf s q).intPend = false ∨ s.pwr.park ≠ .running) →
      exec (.interruptDelayExpiry q) s = .next s))

/-- Queue-control commands (R455 to R457). SEM_WAIT on a value reached is done, and otherwise waits and is released when the
value is reached; SEM_SIGNAL and FENCE of a queue take place when every earlier command has completed, and wait before,
SEM_SIGNAL by its SET or ADD, of which a SET that shares its ACLK with one of a lower source is lost (log entry 87); one with a
bad field ends with status 0x40. That a release whose value is not reached changes nothing is the model's choice (log entry
8). -/
def Obligations.QueueControlTakesEffect : Prop :=
  (∀ (s : State) (cid : Nat) (c : Cmd), stopped s = false → s.rc.need = [] → cmdOf s cid = some c → c.badLine = false →
    c.op = 0x07 → mayStart s c = true → controlOk c = true →
    (reached (semOf s (c.f 0 8 10)) ((c.w 1).truncate 32) = true → exec (.semWait cid) s = .next (finish s cid)) ∧
    (reached (semOf s (c.f 0 8 10)) ((c.w 1).truncate 32) = false →
      ∃ t, exec (.semWait cid) s = .next t ∧ cmdOf t cid = some { c with phase := .waiting } ∧ t.orr.sems = s.orr.sems ∧
        { t with orr := { t.orr with cmds := s.orr.cmds, queues := s.orr.queues } } = s)) ∧
  (∀ (s : State) (cid : Nat) (c : Cmd), stopped s = false → s.rc.need = [] → cmdOf s cid = some c → c.op = 0x07 →
    c.phase = .waiting → exec (.semWaitRelease cid) s =
      .next (if reached (semOf s (c.f 0 8 10)) ((c.w 1).truncate 32) then finish s cid else s)) ∧
  (∀ (s : State) (cid : Nat) (c : Cmd) (same : Bool) (i : Nat), stopped s = false → s.rc.need = [] → cmdOf s cid = some c →
    c.badLine = false → c.op = 0x08 → mayStart s c = true → controlOk c = true → c.f 0 8 10 = i →
    ((c.own ≠ .queue ∨ earlierDone s c = true) → (bit (c.w 0) 18 = true ∨ same = false ∨ mget? s.orr.semSets i = none) →
      ∃ t, exec (.semSignal ⟨cid, same⟩) s = .next t ∧ cmdOf t cid = some { c with phase := .done } ∧
        semOf t i = (if bit (c.w 0) 18 then semOf s i + (c.w 1).truncate 32 else (c.w 1).truncate 32) ∧
        (∀ k, k ≠ i → semOf t k = semOf s k) ∧ t.mem = s.mem ∧ t.rc = s.rc ∧ t.ctrs = s.ctrs) ∧
    (∀ o, (c.own ≠ .queue ∨ earlierDone s c = true) → bit (c.w 0) 18 = false → same = true →
      mget? s.orr.semSets i = some o →
        ∃ t, exec (.semSignal ⟨cid, same⟩) s = .next t ∧ cmdOf t cid = some { c with phase := .done } ∧
          semOf t i = (if o < cmdSource c then semOf s i else (c.w 1).truncate 32) ∧
          (∀ k, k ≠ i → semOf t k = semOf s k) ∧ t.mem = s.mem ∧ t.rc = s.rc ∧
          t.ctrs = addCtr s.ctrs ctrChipSemSetLost 1) ∧
    (c.own = .queue → earlierDone s c = false → exec (.semSignal ⟨cid, same⟩) s = .next (qRefresh s c.q))) ∧
  (∀ (s : State) (cid : Nat) (c : Cmd), stopped s = false → s.rc.need = [] → cmdOf s cid = some c → c.badLine = false →
    c.op = 0x0A → mayStart s c = true → controlOk c = true →
    ((c.own ≠ .queue ∨ earlierDone s c = true) → exec (.fence cid) s = .next (finish s cid)) ∧
    (c.own = .queue → earlierDone s c = false → exec (.fence cid) s = .next (qRefresh s c.q))) ∧
  (∀ (s : State) (cid : Nat) (c : Cmd) (same : Bool), stopped s = false → s.rc.need = [] → cmdOf s cid = some c →
    c.badLine = false → mayStart s c = true → controlOk c = false →
      (c.op = 0x07 → exec (.semWait cid) s = .next (failCmd s cid 0x40)) ∧
      (c.op = 0x08 → exec (.semSignal ⟨cid, same⟩) s = .next (failCmd s cid 0x40)) ∧
      (c.op = 0x09 → exec (.launch cid) s = .next (failCmd s cid 0x40)) ∧
      (c.op = 0x0A → exec (.fence cid) s = .next (failCmd s cid 0x40)))

/-- Scheduling (R467 to R469, R471, R473 to R475, R477). With the block running and no restart, an instance starts the unit
that is next in its order, LC before BE, on a free tile of its queue's set; at the end of a slice with units on contended
tiles an LC queue leaves its turn and a BE queue's units there are saved, a commit phase that runs on counts, and the slice has
paid what earlier overruns took of it; pre-emption saves the unit that `preemptTarget` names if a save record is free, and
counts if none is; a saved unit goes on, on a free tile of its queue's set, while no LC unit is ready; a hang is reported, with
a freeze where FRZ_CTRL says so, at the second check that finds work and no progress, and in Park a check does nothing. That a dispatch without a unit to start, and the end of a
slice without units on contended tiles, change nothing is the model's choice (log entry 8). -/
def Obligations.SchedulingTakesEffect : Prop :=
  (∀ (s : State) (quad : Fin 4) (u : Unit') (k : Nat), stopped s = false → s.rc.need = [] → live s = true →
    (nextUnit s quad true = some (u, k) ∨ (nextUnit s quad true = none ∧ nextUnit s quad false = some (u, k))) →
      ∃ t, exec (.workUnitDispatch quad) s = .next t ∧ unitReady s u = true ∧ busyTile s k = false ∧
        (unitHome s u).tiles.getLsbD k = true ∧ t.orr.started = sdel s.orr.started u.uid ++ [u.uid] ∧
        (∀ v, unitOf s u.uid = some v → unitOf t u.uid = some { v with
          st := .running, tile := k,
          scratch := if u.seg.isSome && !u.expand then lowestFree s.orr.scratch 2048 else none }) ∧
        (∀ d, d ≠ u.uid → unitOf t d = unitOf s d) ∧
        { t with alm := s.alm, orr := { t.orr with units := s.orr.units, scratch := s.orr.scratch, started := s.orr.started,
                                                   sliced := s.orr.sliced, rrLc := s.orr.rrLc, rrBe := s.orr.rrBe } } = s) ∧
  (∀ (s : State) (quad : Fin 4), stopped s = false → s.rc.need = [] →
    (live s = false ∨ (nextUnit s quad true = none ∧ nextUnit s quad false = none)) →
      exec (.workUnitDispatch quad) s = .next s) ∧
  (∀ (s p u : State) (q : Fin 64) (mine : List Unit'), stopped s = false → s.rc.need = [] →
    mine = s.orr.units.filter (fun u => u.st == .running && (unitHome s u).q == q.val &&
      (contended s q (qLc s q)).contains u.tile) →
    p = (if (qOf s q).owed = 0 then s
      else setQ s q { qOf s q with owed := (qOf s q).owed - 1024 * ((qOf s q).conf.map (fun c => c.slice)).getD 0 }) →
    u = (if queueCommits s q then
      bump1 { p with orr := { p.orr with overrun := sins p.orr.overrun q } } (ctrQueueSliceOvr q) else p) →
    (live s = false ∨ mine = [] → exec (.timeSliceExpiry q) s = .next s) ∧
    (live s = true → mine ≠ [] → qLc s q = true → exec (.timeSliceExpiry q) s =
      .next (bump1 { u with orr := { u.orr with rrLc := q.val, sliced := sins u.orr.sliced q } } (ctrQueuePreemptL1 q))) ∧
    (live s = true → mine ≠ [] → qLc s q = false → (mine.foldl preempt u).rc.need = [] → exec (.timeSliceExpiry q) s =
      .next { mine.foldl preempt u with orr := { (mine.foldl preempt u).orr with rrBe := q.val } })) ∧
  (∀ (s : State) (u : Unit') (k : Nat), stopped s = false → live s = true → preemptTarget s = some u →
    lowestFree s.orr.saves 192 = some k → (preempt s u).rc.need = [] →
      ∃ t x, exec (.preemptL2 u.uid) s = .next t ∧ unitOf t u.uid = some x ∧ x.st = .saved ∧ x.save = some k ∧
        (∀ e ∈ x.ents, e.conf = false → e.data = none) ∧ k ∈ t.orr.saves ∧ u.uid ∉ t.orr.started ∧
        (unitHome s u).lc = false ∧ u.st = .running) ∧
  (∀ (s : State) (u : Unit'), stopped s = false → s.rc.need = [] → live s = true → preemptTarget s = some u →
    lowestFree s.orr.saves 192 = none → exec (.preemptL2 u.uid) s = .next (bump1 s ctrChipSaveFull)) ∧
  (∀ (s : State) (uid : Nat) (tile : Fin 48) (u : Unit'), stopped s = false → s.rc.need = [] → live s = true →
    unitOf s uid = some u → u.st = .saved → (unitHome s u).tiles.getLsbD tile = true → busyTile s tile = false →
    (qOf s (unitHome s u).q).st ≠ .switched →
    (∀ v ∈ s.orr.units, (unitHome s v).lc = true → unitReady s v = false) →
      ∃ t x, exec (.unitRestore uid tile) s = .next t ∧ unitOf t uid = some x ∧ x.st = .running ∧ x.tile = tile.val ∧
        x.save = none ∧ x.cursor = u.cursor ∧ (∀ k, u.save = some k → k ∉ t.orr.saves) ∧
        t.orr.started = s.orr.started ++ [uid] ∧
        { t with alm := s.alm, tiles := s.tiles, sc := s.sc,
                 orr := { t.orr with units := s.orr.units, saves := s.orr.saves, started := s.orr.started } } = s) ∧
  (∀ (s : State) (q : Fin 64) (now : List Nat), stopped s = false → s.rc.need = [] →
    now = ctr s (ctrQueueQProg q) :: (queueTiles s q).flatMap (fun t => [t, ctr s (ctrTileTProg t)]) →
    (s.pwr.park = .running → hangEval s q = false →
      exec (.hangCheck (.queue q)) s = .next (setQ s q { qOf s q with seenProg := [] })) ∧
    (s.pwr.park = .running → hangEval s q = true → (qOf s q).seenProg ≠ now →
      exec (.hangCheck (.queue q)) s = .next (setQ s q { qOf s q with seenProg := now })) ∧
    (s.pwr.park = .running → hangEval s q = true → (qOf s q).seenProg = now → exec (.hangCheck (.queue q)) s =
      .next (freezeOn (raiseEvent (bump1 (setQ s q { qOf s q with st := .hung, seenProg := [] }) (ctrQueueQueueHung q)) 0x0003 q
        (BitVec.ofNat 64 (hangReason s q)) 0) 3 4 (BitVec.ofNat 8 q)))) ∧
  (∀ (s : State) (k : Fin 48) (n : Nat), stopped s = false → s.rc.need = [] → n = ctr s (ctrTileTProg k) →
    s.pwr.park = .running →
    (tileWork s k = [] → exec (.hangCheck (.tile k)) s =
      .next { s with orr := { s.orr with seenTile := mdel s.orr.seenTile k } }) ∧
    (tileWork s k ≠ [] → mget? s.orr.seenTile k ≠ some n → exec (.hangCheck (.tile k)) s =
      .next { s with orr := { s.orr with seenTile := mset s.orr.seenTile k n } }) ∧
    (tileWork s k ≠ [] → mget? s.orr.seenTile k = some n → exec (.hangCheck (.tile k)) s =
      .next (freezeOn (raiseEvent (bump1 { s with orr := { s.orr with seenTile := mdel s.orr.seenTile k } }
        (ctrTileTileHung k)) 0x0004 k 0 0) 3 4 (BitVec.ofNat 8 (0x80 + k.val))))) ∧
  (∀ (s : State) (g : HangTarget), stopped s = false → s.rc.need = [] → s.pwr.park ≠ .running →
    exec (.hangCheck g) s = .next s)

/-- Space for fanned-out lists and fan-in windows (R433, R434). A request larger than the area is denied and counted; one that
fits with what is reserved, with none before it, is granted at once, and one that comes behind a request that does not fit
waits; grants gather at the owner, whose lists go out with the last one; a denial ends a SCATTER with status 0x40; the LOOKUP
that waited longest takes its window when it fits; a window message raises the base and sends the bags' records that it now
reaches, and with the last of them the request ends here. -/
def Obligations.FanOutSpaceTakesEffect : Prop :=
  (∀ (s : State) (owner : BitVec 12) (tag n : Nat) (r : FoRes), stopped s = false → s.rc.need = [] →
    r = FoRes.mk owner tag (roundUp n 65536) →
    (fanoutArea s < r.bytes → exec (.foReq owner tag n) s =
      .next (sendMsg (bump1 s ctrChipScatRefused) clsCtl mtFoDeny owner tag 0 [])) ∧
    (s.tr.foWait = [] → foUsed s + r.bytes ≤ fanoutArea s → exec (.foReq owner tag n) s =
      .next (sendMsg { s with tr := { s.tr with foRes := s.tr.foRes ++ [r] } } clsCtl mtFoGrant owner tag 0 [])) ∧
    (s.tr.foWait = [] → r.bytes ≤ fanoutArea s → fanoutArea s < foUsed s + r.bytes → exec (.foReq owner tag n) s =
      .next { s with tr := { s.tr with foWait := [r] } }) ∧
    (∀ w ws, s.tr.foWait = w :: ws → r.bytes ≤ fanoutArea s → fanoutArea s < foUsed s + w.bytes →
      exec (.foReq owner tag n) s = .next { s with tr := { s.tr with foWait := s.tr.foWait ++ [r] } })) ∧
  (∀ (s : State) (cid rank : Nat) (c : Cmd) (j : LkJob), stopped s = false → s.rc.need = [] → cmdOf s cid = some c →
    c.op = 0x01 → c.phase = .waiting → jobOfCmd s cid = some j → (∃ n, (cid, n) ∈ s.tr.fiRes) →
    (∀ x ∈ otherRanks s (descOf s j.desc), x.1 ∉ sins c.ranks rank → x.1 ∉ j.lost →
      exec (.foGrant cid rank) s = .next (updCmd s cid (fun c => { c with ranks := sins c.ranks rank }))) ∧
    (∀ u, (∀ x ∈ otherRanks s (descOf s j.desc), x.1 ∈ sins c.ranks rank ∨ x.1 ∈ j.lost) →
      u = lkSend (updCmd s cid (fun c => { c with ranks := sins c.ranks rank })) { c with ranks := sins c.ranks rank } j →
      u.rc.need = [] → ∃ d, exec (.foGrant cid rank) s = .next u ∧ cmdOf u cid = some d ∧ d.phase = .running ∧
        u.orr.units = (addUnits s j.jid false j.lists.off).orr.units)) ∧
  (∀ (s : State) (cid rank : Nat) (c : Cmd) (x : Desc), stopped s = false → s.rc.need = [] → cmdOf s cid = some c →
    scAsking s c = true → x = descOf s c.plan →
    (∀ y ∈ otherRanks s x, 64 + y.1 ∉ sins c.ranks (64 + rank) →
      exec (.foGrant cid rank) s = .next (updCmd s cid (fun c => { c with ranks := sins c.ranks (64 + rank) }))) ∧
    (∀ (u v : State) (ns : List (Nat × Bool)), (∀ y ∈ otherRanks s x, 64 + y.1 ∈ sins c.ranks (64 + rank)) →
      scOffsets (updCmd s cid (fun c => { c with ranks := sins c.ranks (64 + rank) })) c = (u, ns) →
      v = scSend u { c with ranks := sins c.ranks (64 + rank) } x (ns.map (fun n => n.1)) → v.rc.need = [] →
        exec (.foGrant cid rank) s = .next v) ∧
    (∀ v, v = scatGo (failCmd (scCancelAll s cid c.plan) cid 0x40) → v.rc.need = [] →
      exec (.foDeny cid rank) s = .next v ∧
      (s.sc.jobs = [] → ∃ d, cmdOf v cid = some d ∧ d.phase = .done ∧
        d.fail = c.fail.orElse (fun _ => some 0x40) ∧ (∀ k, k ≠ cid → cmdOf v k = cmdOf s k) ∧
        { v with orr := { v.orr with cmds := s.orr.cmds }, tr := s.tr } = s))) ∧
  (∀ (s t : State) (cid : Nat) (c : Cmd) (j : LkJob) (rest : List Nat) (n : Nat), stopped s = false →
    cmdOf s cid = some c → jobOfCmd s cid = some j → s.tr.fiWait = cid :: rest → n = fiBytes (descOf s j.desc) (lkNbags c) →
    (fiRoom s n = false → s.rc.need = [] → exec (.fanInWindowReserve cid) s = .next s) ∧
    (fiRoom s n = true → t = fiReserve s cid n (descOf s j.desc) (lkListBytes c) → t.rc.need = [] →
      exec (.fanInWindowReserve cid) s = .next t ∧ t.tr.fiRes = s.tr.fiRes ++ [(cid, n)] ∧ cid ∉ t.tr.fiWait)) ∧
  (∀ (s : State) (owner : BitVec 12) (tag base : Nat) (j k : LkJob), stopped s = false → s.rc.need = [] →
    s.orr.jobs.find? (fun j => j.cid.isNone && j.owner == owner && j.tag == tag) = some j →
    k = { j with base := max j.base base } →
    ((∀ r ∈ j.heldRecs, inWindow k r.bag = false) → exec (.window owner tag base) s =
      .next (updJob s j.jid (fun _ => k))) ∧
    ((∃ r ∈ j.heldRecs, inWindow k r.bag = false) → ∃ t, exec (.window owner tag base) s = .next t ∧
      jobOf t j.jid = some { k with heldRecs := k.heldRecs.filter (fun r => !inWindow k r.bag) } ∧
      t.orr.units = s.orr.units ∧ t.mem = s.mem ∧ t.rc = s.rc) ∧
    (j.heldRecs ≠ [] → (∀ r ∈ j.heldRecs, inWindow k r.bag = true) → ∃ t, exec (.window owner tag base) s = .next t ∧
      jobOf t j.jid = none ∧ t.mem = s.mem ∧ t.rc = s.rc))

/-- LOOKUP and its fan-out (R95 to R98, R113, R114, R371). A command that does not resolve ends with status 0x40, one whose
extents no pinned range covers with 0x11, and one whose offset list is poisoned or out of order with 0x40; one whose stream
serves another command waits; one that is in order has a job and, where its table is not split, its work units, and runs; a
rank serves a request of another chip for which it has granted space with units of its own, and one whose version it lacks
counts it and answers each bag with the C columns of the request; a rank's record joins the bag's others. The marks in a record
for a missing version are the model's inference (log entry 31), which this statement leaves open. -/
def Obligations.LookupCommandsTakeEffect : Prop :=
  (∀ (s : State) (cid : Nat) (c : Cmd), stopped s = false → s.rc.need = [] → cmdOf s cid = some c → c.badLine = false →
    c.op = 0x01 → mayStart s c = true →
    (lkResolve s c = none → exec (.lookup cid) s = .next (failCmd s cid 0x40)) ∧
    (∀ d x, lkResolve s c = some (d, x) →
      (lkExtents s c = false → exec (.lookup cid) s = .next (failCmd s cid 0x11)) ∧
      (lkExtents s c = true → lkOutk c = true → mayBind s (lkStream c) cid = false → exec (.lookup cid) s =
        .next (updCmd s cid (fun c => { c with phase := .waiting, bound := some (lkStream c) }))) ∧
      (∀ (s1 u : State) (l : List (Byte × Bool)) (ns : List (Nat × Bool)), lkExtents s c = true →
        (lkOutk c = false ∨ mayBind s (lkStream c) cid = true) →
        readList s (c.f 3 0 52) (4 * (lkNbags c + 1)) = (s1, l) → s1.rc.need = [] → numsOf 4 l = ns →
        ((ns.any (fun v => v.2) || !offsetsOk (ns.map (fun v => v.1)) (lkNidx c)) = true →
          exec (.lookup cid) s = .next (failCmd s cid 0x40)) ∧
        ((ns.any (fun v => v.2) || !offsetsOk (ns.map (fun v => v.1)) (lkNidx c)) = false →
          u = lkStart s1 c d x (ns.map (fun v => v.1)) → u.rc.need = [] →
            exec (.lookup cid) s = .next u ∧
            (∃ j ∈ u.orr.jobs, j.cid = some cid ∧ j.desc = d ∧ j.jid = s.orr.nextUid) ∧
            (x.log2s = 0 → ∃ e, cmdOf u cid = some e ∧ e.phase = .running ∧
              u.orr.units = s.orr.units ++ (cutBags (ns.map (fun v => v.1))).zipIdx.map (fun y =>
                newUnit s.orr.nextUid false (s.orr.nextUid + 1 + y.2) y.1)))))) ∧
  (∀ (s : State) (f : FanLookup), stopped s = false → s.rc.need = [] → foHeld s f.owner f.tag = true →
    (∀ j ∈ s.orr.jobs, j.cid ≠ none ∨ j.owner ≠ f.owner ∨ j.tag ≠ f.tag) → s.pwr.park = .running →
    s.pwr.restart ≠ .running →
    (∀ (d : Nat) (x : Desc) (j : LkJob), fanDesc s f.table.toNat f.tver = some (d, x) →
      j = { newJob s d f.pmode.toNat f.weighted f.lc f.nospec f.keepMap f.mapId.toNat f.lists with
              owner := f.owner, tag := f.tag } →
        exec (.lookupFanOut f) s = .next (addUnits (keepMap (addJob s j) j x) s.orr.nextUid false f.lists.off)) ∧
    (fanDesc s f.table.toNat f.tver = none → ∃ t, exec (.lookupFanOut f) s = .next t ∧
      t.ctrs = (bump1 s ctrChipSplitVerMiss).ctrs ∧
      (f.lists.off.length ≤ 4097 → s.tr.foWait = [] → ∃ ms, t.tr.out = s.tr.out ++ ms ∧
        ms.length = f.lists.off.length - 1 ∧
        ∀ m ∈ ms, m.cls = 1 ∧ m.dst = f.owner ∧ m.tag = f.tag ∧ m.payload.length = 16 + 4 * (32 * (f.nblkM1.toNat + 1))) ∧
      t.mem = s.mem ∧ t.rc = s.rc ∧ t.tabs = s.tabs ∧ t.orr.cmds = s.orr.cmds)) ∧
  (∀ (s t : State) (cid rank : Nat) (r : FanRec) (j : LkJob), stopped s = false → jobOfCmd s cid = some j →
    rank < (descOf s j.desc).ranks → rank ≠ (descOf s j.desc).rank → j.nextOut ≤ r.bag → r.bag ∉ j.released →
    recOf j rank r.bag = none → rank ∉ j.lost → r.bag < j.lists.off.length - 1 →
    t = ownerRelease (updJob s j.jid (fun j => { j with
      recs := j.recs ++ [(rank, r)],
      rankDrops := j.rankDrops.set rank (j.rankDrops.getD rank 0 + (r.npos - r.nvalid)) })) cid r.bag → t.rc.need = [] →
      exec (.fanInRecord cid rank r) s = .next t ∧
      (bagComplete (descOf s j.desc) { j with recs := j.recs ++ [(rank, r)] } r.bag = false →
        (∃ c, cmdOf s cid = some c ∧ (c.phase ≠ .running ∨ j.nextOut < lkNbags c)) →
          ∃ k, jobOfCmd t cid = some k ∧ k.recs = j.recs ++ [(rank, r)] ∧
            { t with orr := { t.orr with jobs := s.orr.jobs } } = s))

/-- The gather engines (R81, R88, R89, R117, R126, R129 to R131, R155, R260, R284, R285). A unit takes its next position: its
index and its weight are read, a poisoned, negative or too large index is dropped and counted, any other takes its row; a
queued request gets its credits; a probe's return settles where an unconfirmed row is read, keeping a speculative read that it
confirms and giving up one that it does not; a row's data arrive and give their credits back, and are confirmed unless the
probe is still out, the data of a read that was given up coming first. That an index in a poisoned line counts DROP_POISON
alone is the model's choice (log entry 112). -/
def Obligations.GatherEventsTakeEffect : Prop :=
  (∀ (s s1 s2 t : State) (uid b : Nat) (u : Unit') (j : LkJob) (v : Int) (bad wbad : Bool) (w : F32), stopped s = false →
    runningLk s uid = some (u, j) → mayTake s u = true → bagOfPos j u u.cursor = b →
    indexAt (notePass s u.tile) u.tile j u.cursor = (s1, v, bad) → weightAt s1 u.tile j u.cursor = (s2, w, wbad) →
    t = enterReady (if bad then dropPos s2 uid j u.cursor b (ctrTableDropPoison j.desc) true
      else if v < 0 then dropPos s2 uid j u.cursor b (ctrTableDropNeg j.desc) false
      else if (descOf s j.desc).rows ≤ v.toNat then dropPos s2 uid j u.cursor b (ctrTableDropOor j.desc) false
      else takeRow s2 uid j u.cursor b v.toNat w wbad) uid → t.rc.need = [] →
      ∃ x, exec (.positionIntake uid) s = .next t ∧ unitOf t uid = some x ∧ x.cursor = u.cursor + 1 ∧
        x.pos.length = u.pos.length + 1) ∧
  (∀ (s : State) (k : Fin 48) (r : Bool × Nat × Nat × Nat), stopped s = false → s.rc.need = [] → gcqNext s k = some r →
    (creditsFree (tileOf s k) r.1 r.2.2.2 = false → exec (.gcqGrant k) s = .next s) ∧
    (creditsFree (tileOf s k) r.1 r.2.2.2 = true →
      ∃ t, exec (.gcqGrant k) s = .next t ∧ (tileOf t k).gcq = (tileOf s k).gcq.erase r ∧
        (tileOf t k).lcUsed + (tileOf t k).beUsed = (tileOf s k).lcUsed + (tileOf s k).beUsed + r.2.2.2 ∧
        (∀ a, a ≠ k.val → tileOf t a = tileOf s a) ∧
        (∀ u e, unitOf s r.2.1 = some u → u.ents[r.2.2.1]? = some e →
          ∃ x, unitOf t r.2.1 = some x ∧ x.ents[r.2.2.1]? = some { e with queued := false }) ∧
        { t with tiles := s.tiles, ctrs := s.ctrs, load := s.load, orr := { t.orr with units := s.orr.units } } = s)) ∧
  (∀ (s s1 : State) (uid ent : Nat) (u : Unit') (j : LkJob) (e : RowEnt) (found : Option APlace) (ok : Bool),
    stopped s = false → runningLk s uid = some (u, j) → u.ents[ent]? = some e → e.probe = .pending → e.queued = false →
    probe s j.desc e.row = (s1, found) →
    ok = (match e.src with | .spec a b c d => found.any (fun p => specMatch p.ent a b c d) | _ => false) →
    (probeBack s uid ent).rc.need = [] →
      ∃ t x y, exec (.probeReturn uid ent) s = .next t ∧ unitOf t uid = some x ∧ x.ents[ent]? = some y ∧ y.row = e.row ∧
        y.probe = (if found.isSome then .found else .absent) ∧
        (e.conf = false → ok = false → y.src = (match found with
          | some p => .slot (p.ent.slot * 32) p.ent.version p.ent.wclass p.ent.keep
          | none => .home)) ∧
        (e.conf = false → ok = false → (∃ a b c d, e.src = .spec a b c d) →
          y.data = none ∧ (e.data = none → y.late = some (e.src, s.load.mwNum))) ∧
        (e.conf = false → ok = true → e.data = none → y.src = e.src ∧ y.data = none) ∧
        (e.conf = false → ok = true → e.data ≠ none → y.conf = true)) ∧
  (∀ (s s1 : State) (uid ent : Nat) (u : Unit') (j : LkJob) (e : RowEnt) (b : List Byte) (bad : Bool), stopped s = false →
    runningLk s uid = some (u, j) → u.ents[ent]? = some e → (rowArrive s uid ent).rc.need = [] →
    (∀ src win, e.late = some (src, win) →
      ∃ t x y, exec (.rowDataArrival uid ent) s = .next t ∧ unitOf t uid = some x ∧ x.ents[ent]? = some y ∧
        y = { e with late := none } ∧
        (tileOf t u.tile).lcUsed = (giveCredits (tileOf s u.tile) j.lc (srcSectors (descOf s j.desc) src)).lcUsed ∧
        (tileOf t u.tile).beUsed = (giveCredits (tileOf s u.tile) j.lc (srcSectors (descOf s j.desc) src)).beUsed) ∧
    (e.late = none → e.queued = false → e.data = none → e.src ≠ .none → stageFull j u e = false →
      rowRead s j.desc u.tile e.row e.src = (s1, b, bad) →
      ∃ t x y, exec (.rowDataArrival uid ent) s = .next t ∧ unitOf t uid = some x ∧ x.ents[ent]? = some y ∧
        y.data ≠ none ∧ (e.dedup = true → y.data = some (b, bad)) ∧
        (e.probe ≠ .pending → y.conf = true) ∧ (e.probe = .pending → y.conf = e.conf) ∧
        (tileOf t u.tile).lcUsed =
          (giveCredits (tileOf s u.tile) j.lc (srcSectors (descOf s j.desc) e.src)).lcUsed ∧
        (tileOf t u.tile).beUsed =
          (giveCredits (tileOf s u.tile) j.lc (srcSectors (descOf s j.desc) e.src)).beUsed))

/-- The pooling unit (R139, R141, R149, R150, R153, R157, R158). A group whose positions are settled and that holds a lane set
closes, and the bag's next group is the one after it; where every row has a dedup entry, so that none is read again, its
subgroups add to the bag's accumulator in order, a poisoned member sets the bag's POISON, and nothing but counters, quiescence
and the units changes. A settled bag of a unit that is no segment is released; a settled segment is a partial, and folds in
order with those present. Which groups hold the lane sets, and POISON of a member alone, are the model's choices (log entries
112 and 113). -/
def Obligations.PoolingEventsTakeEffect : Prop :=
  (∀ (s t : State) (uid bag grp : Nat) (u : Unit') (j : LkJob), stopped s = false →
    runningLk s uid = some (u, j) → j.pmode.toNat < 2 → inUnit u bag = true → nextGroup s j u bag grp = true →
    t = notePass (closeGroup s j u bag grp) u.tile → t.rc.need = [] →
      ∃ x a, exec (.groupClose uid bag grp) s = .next t ∧ unitOf t uid = some x ∧ a ∈ x.bags ∧ a.bag = bag ∧
        a.nextGrp = grp + 1 ∧ a.released = (bagAcc s j u bag).released ∧ x.cursor = u.cursor) ∧
  (∀ (s : State) (uid bag grp : Nat) (u : Unit') (j : LkJob) (ms : List PMember), stopped s = false → s.rc.need = [] →
    runningLk s uid = some (u, j) → j.pmode.toNat < 2 → inUnit u bag = true → nextGroup s j u bag grp = true →
    (∀ e ∈ u.ents, e.dedup = true) → ms = membersAt s j u (groupPos s j u bag grp) →
      ∃ t x a, exec (.groupClose uid bag grp) s = .next t ∧ unitOf t uid = some x ∧ a ∈ x.bags ∧ a.bag = bag ∧
        a.poison = ((bagAcc s j u bag).poison || ms.any (fun m => m.poison)) ∧
        a.acc = ((subgroups ms (descOf s j.desc).cols).map (fun g =>
          closeSub (groupPrec (descOf s j.desc).gsize) g (descOf s j.desc).cols)).foldl (fun v c => some (accAdd v c.1))
            (bagAcc s j u bag).acc ∧
        { t with ctrs := s.ctrs, alm := s.alm, orr := { t.orr with units := s.orr.units } } = s) ∧
  (∀ (s t : State) (uid bag : Nat) (u : Unit') (j : LkJob), stopped s = false → runningLk s uid = some (u, j) →
    u.seg = none → inUnit u bag = true → bagReady s j u bag = true → mayGive j bag = true →
    t = releaseBag s u j bag → t.rc.need = [] →
      exec (.bagRelease uid bag) s = .next t ∧
        (unitOf t uid = none ∨ ∃ x a, unitOf t uid = some x ∧ a ∈ x.bags ∧ a.bag = bag ∧ a.released = true)) ∧
  (∀ (s t : State) (uid : Nat) (v : Unit') (j : LkJob) (k : Nat), stopped s = false → unitOf s uid = some v →
    jobOf s v.jid = some j → v.expand = false → v.seg = some k →
    (v.st = .running → bagReady s j v v.bag0 = true →
      t = foldEnd (foldGo v.jid v.bag0 v.tile (segCount j v.bag0) (segEnd s v j)) v.jid v.bag0 → t.rc.need = [] →
        exec (.segmentFold uid) s = .next t ∧ (unitOf t uid = none ∨ ∃ x, unitOf t uid = some x ∧ x.st = .done)) ∧
    (v.st = .done → t = foldEnd s v.jid v.bag0 → t.rc.need = [] → exec (.segmentFold uid) s = .next t))

/-- SCATTER between its owner and the ranks (R175 to R178, R200 to R202, R278). A command that does not resolve ends with
status 0x40, one whose extents no pinned range covers with 0x11, and one whose table a swap holds, or whose stream serves
another command, waits; otherwise the request goes out, of a table that is not split to this rank alone, and of a split table
with a supplied map after the ranks have been asked for fan-out space; a rank that serves a request has a job for it, one that
does not answers REFUSE and counts; the oldest request without pool space gets it when it fits; with the last READY the command
runs; a REFUSE ends it with 0x40; CANCEL clears a rank of it; each report adds its counts, and the last ends the command and
leaves this rank's log for Meridian's comparison if the digests differ. -/
def Obligations.ScatterCommandsTakeEffect : Prop :=
  (∀ (s : State) (cid : Nat) (c : Cmd), stopped s = false → s.rc.need = [] → cmdOf s cid = some c → c.badLine = false →
    c.op = 0x02 → mayStart s c = true →
    (swapHeld s (c.f 0 8 12) = true → exec (.scatter cid) s = .next s) ∧
    (swapHeld s (c.f 0 8 12) = false → scResolve s c = none → exec (.scatter cid) s = .next (failCmd s cid 0x40)) ∧
    (∀ d x, swapHeld s (c.f 0 8 12) = false → scResolve s c = some (d, x) →
      (scExtents s c x = false → exec (.scatter cid) s = .next (failCmd s cid 0x11)) ∧
      (scExtents s c x = true → scGsrc c = true → mayBind s (scStream c) cid = false → exec (.scatter cid) s =
        .next (updCmd s cid (fun c => { c with phase := .waiting, bound := some (scStream c) }))) ∧
      (∀ v w u l, scExtents s c x = true → (scGsrc c = false ∨ mayBind s (scStream c) cid = true) → scSupplied c = false →
        v = updCmd (scBind s c) cid (fun c => { c with phase := .waiting, bound := none, plan := d, ord := s.sc.nextOrd }) →
        w = { v with sc := { v.sc with nextOrd := v.sc.nextOrd + 1 } } →
        l = FanLists.mk [] [] [] [] → u = scSend w c x [] → u.rc.need = [] →
          exec (.scatter cid) s = .next u ∧
          (x.log2s = 0 → reqServe w (scReq w c x l) = none → ∃ e, cmdOf u cid = some e ∧ e.phase = .done ∧
            e.fail = c.fail.orElse (fun _ => some 0x40)) ∧
          (∀ v, x.log2s = 0 → reqServe w (scReq w c x l) = some v → ∃ j ∈ u.sc.jobs, j.cid = some cid ∧
            j.jid = s.sc.nextJid ∧ j.desc = v.1 ∧ j.nbags = scNbags c)) ∧
      (∀ s1 v w u ns, scExtents s c x = true → (scGsrc c = false ∨ mayBind s (scStream c) cid = true) → scSupplied c = true →
        scOffsets s c = (s1, ns) → s1.rc.need = [] →
        v = updCmd (scBind s1 c) cid (fun c => { c with phase := .waiting, bound := none, plan := d, ord := s1.sc.nextOrd }) →
        w = { v with sc := { v.sc with nextOrd := v.sc.nextOrd + 1 } } →
        ((ns.any (fun v => v.2) || !offsetsOk (ns.map (fun v => v.1)) (scNidx c)) = true →
          exec (.scatter cid) s = .next (failCmd s cid 0x40)) ∧
        ((ns.any (fun v => v.2) || !offsetsOk (ns.map (fun v => v.1)) (scNidx c)) = false → 0 < x.log2s →
          exec (.scatter cid) s = .next (foAsk w x cid (scListBytes c x))) ∧
        ((ns.any (fun v => v.2) || !offsetsOk (ns.map (fun v => v.1)) (scNidx c)) = false → x.log2s = 0 →
          u = scSend w c x (ns.map (fun v => v.1)) → u.rc.need = [] → exec (.scatter cid) s = .next u)))) ∧
  (∀ (s : State) (r : ScatReq), stopped s = false → s.rc.need = [] → (r.mapsrc = true → foHeld s r.owner r.tag = true) →
    s.pwr.park = .running → s.pwr.restart ≠ .running →
    (∀ j ∈ s.sc.jobs, j.cid ≠ none ∨ j.owner ≠ r.owner ∨ j.tag ≠ r.tag) →
    (∀ d x m, reqServe s r = some (d, x, m) → ∃ t, exec (.scatterRequest r) s = .next t ∧
      (∃ j ∈ t.sc.jobs, j.jid = s.sc.nextJid ∧ j.cid = none ∧ j.owner = r.owner ∧ j.tag = r.tag ∧ j.desc = d ∧
        j.nbags = r.nbags) ∧ t.sc.nextJid = s.sc.nextJid + 1 ∧ t.mem = s.mem ∧ t.rc = s.rc) ∧
    (reqServe s r = none → r.release = false → exec (.scatterRequest r) s =
      .next (foServe (sendMsg { bump1 s ctrChipScatRefused with tr := { s.tr with
        foRes := s.tr.foRes.filter (fun e => !(e.owner == r.owner && e.tag == r.tag)) } } clsCtl mtRefuse r.owner r.tag 0 [])))) ∧
  (∀ (s : State) (j : ScJob), stopped s = false → s.rc.need = [] → s.sc.jobs.find? (fun j => !j.ready) = some j →
    (poolUsed s + j.bytes ≤ (layoutOf s).scat → ∃ t, exec .scatterPoolReserve s = .next t ∧
      (∃ k ∈ t.sc.jobs, k.jid = j.jid ∧ k.ready = true) ∧ t.mem = s.mem ∧ t.rc = s.rc ∧ t.tabs = s.tabs) ∧
    ((layoutOf s).scat < poolUsed s + j.bytes → exec .scatterPoolReserve s = .next s)) ∧
  (∀ (s : State) (cid rank : Nat) (c : Cmd) (j : ScJob), stopped s = false → s.rc.need = [] → scAwaits s cid = some (c, j) →
    rank ≠ (descOf s j.desc).rank →
    (rank < (descOf s j.desc).ranks → exec (.ready cid rank) s = .next (updCmd s cid (fun d => { d with
      ranks := sins c.ranks rank,
      phase := if (List.range (descOf s j.desc).ranks).all (fun k => (sins c.ranks rank).contains k) then .running
        else d.phase }))) ∧
    (∃ t e, exec (.refuse cid rank) s = .next t ∧ cmdOf t cid = some e ∧ e.phase = .done ∧
      e.fail = c.fail.orElse (fun _ => some 0x40) ∧ (∀ k ∈ t.sc.jobs, k.jid ≠ j.jid) ∧ t.mem = s.mem ∧ t.rc = s.rc)) ∧
  (∀ (s t : State) (owner : BitVec 12) (tag : Nat), stopped s = false → t = scCancel s owner tag → t.rc.need = [] →
    exec (.cancel owner tag) s = .next t ∧
    (∀ k ∈ t.orr.jobs, k.cid ≠ none ∨ k.owner ≠ owner ∨ k.tag ≠ tag) ∧
    (∀ j, s.sc.jobs.find? (fun j => j.cid.isNone && j.owner == owner && j.tag == tag) = some j →
      ∀ k ∈ t.sc.jobs, k.jid ≠ j.jid)) ∧
  (∀ (s : State) (cid rank : Nat) (r : CommitRep) (c : Cmd) (j : ScJob) (last : Bool), stopped s = false → s.rc.need = [] →
    cmdOf s cid = some c → scOfCmd s cid = some j → c.op = 0x02 → c.phase = .running → rank ≠ (descOf s j.desc).rank →
    rank < (descOf s j.desc).ranks → 128 + rank ∉ c.ranks → last = decide ((descOf s j.desc).ranks ≤ j.digests.length + 1) →
      ∃ t e, exec (.commitReport cid rank r) s = .next t ∧ cmdOf t cid = some e ∧ e.cnt0 = c.cnt0 + r.rows ∧
        e.cnt1 = c.cnt1 + r.excluded ∧ e.cnt2 = c.cnt2 + r.records ∧ e.drops = (c.drops || r.drops) ∧
        e.poison = (c.poison || r.poison) ∧ e.phase = (if last then .done else .running) ∧
        t.mer.skewDue = (if last && (j.digests ++ [r.digest]).any (fun d => d != r.digest) then
          mset s.mer.skewDue j.desc (mget s.mer.skewDue j.desc [] ++ [j.log]) else s.mer.skewDue) ∧
        { t with orr := { t.orr with cmds := s.orr.cmds }, sc := { t.sc with jobs := s.sc.jobs },
                 mer := { t.mer with skewDue := s.mer.skewDue } } = s)

/-- SCATTER's data on a rank (R179 to R192, R197, R204, R472). A bag's gradient is taken, and excluded with its poison if it
is not finite; a unit emits its records; the owner tile takes them into its run buffer; a run is the buffer in order of row and
position; the next row takes a merge entry with all its records added, and one that cannot joins the merge queue; its delivery
leaves within the port's window, the last one of a command when its hold has ended. While the state of a BE SCATTER on the tile
is in a save record, which sorting, merging and delivery then wait for, records stay under way. -/
def Obligations.ScatterDataTakeEffect : Prop :=
  (∀ (s s1 : State) (cid b : Nat) (c : Cmd) (j : ScJob) (x : Desc) (l : List (Byte × Bool)) (vs : List F32) (bad : Bool),
    stopped s = false → cmdOf s cid = some c → scOfCmd s cid = some j → c.phase = .running → j.nextBag = b → b < j.nbags →
    s.pwr.restart ≠ .running → descOf s j.desc = x → gradRead s c (x.ranks * x.cols) b = some (s1, l) → s1.rc.need = [] →
    vs = (numsOf 4 l).map (fun v => BitVec.ofNat 32 v.1) → bad = (l.any (fun v => v.2) || vs.any (fun v => !f32Finite v)) →
      ∃ t e k, exec (.gradientIntake cid) s = .next t ∧ cmdOf t cid = some e ∧ scOfCmd t cid = some k ∧
        (bad = true → e.poison = true) ∧
        k = { j with
          slab := if bad then j.slab else mset j.slab b ((vs.drop (x.rank * x.cols)).take x.cols),
          excluded := if bad then j.excluded ++ [b] else j.excluded, nextBag := b + 1 } ∧ t.mem = s1.mem ∧ t.rc = s1.rc) ∧
  (∀ (s : State) (owner : BitVec 12) (tag bag : Nat) (excl : Bool) (vals : List F32) (j : ScJob), stopped s = false →
    s.rc.need = [] → s.sc.jobs.find? (fun j => j.cid.isNone && j.owner == owner && j.tag == tag) = some j →
    j.ready = true → bag = j.nextBag → bag < j.nbags →
      exec (.gradientSlice owner tag bag excl vals) s = .next (updSc s j.jid (fun j => { j with
        slab := if excl then j.slab else mset j.slab bag vals,
        excluded := if excl then j.excluded ++ [bag] else j.excluded, nextBag := bag + 1 }))) ∧
  (∀ (s t : State) (uid : Nat) (u : Unit') (j : ScJob), stopped s = false → unitOf s uid = some u → scOf s u.jid = some j →
    u.expand = true → u.st = .running → u.bag0 + u.nbags ≤ j.nextBag → s.pwr.restart ≠ .running → t = expandUnit s u j →
    t.rc.need = [] →
      exec (.expansionUnit uid) s = .next t ∧ unitOf t uid = none ∧ (∀ k, scOf t u.jid = some k →
        k.records = j.records + (unitRecords s j (unitPositions j u)).length)) ∧
  (∀ (s : State) (tile : Fin 48) (jid n : Nat) (j : ScJob) (fl buf : List Contrib), stopped s = false → s.rc.need = [] →
    scOf s jid = some j → mget j.flying tile [] = fl → mget j.runBuf tile [] = buf → n = min fl.length (8192 - buf.length) →
    (tileSaved s tile j.lc = true → exec (.contributionRecord tile jid) s = .next s ∧
      exec (.runSort tile jid) s = .next s ∧ exec (.deliverySend tile jid) s = .next s) ∧
    (tileSaved s tile j.lc = false →
      ∃ t, exec (.contributionRecord tile jid) s = .next t ∧ t = bump (updSc s jid (fun j => { j with
        flying := mset j.flying tile (fl.drop n), runBuf := mset j.runBuf tile (buf ++ fl.take n) })) (ctrTileScatRec tile) n ∧
        (buf.length ≤ 8192 → (buf ++ fl.take n).length ≤ 8192))) ∧
  (∀ (s : State) (tile : Fin 48) (jid : Nat) (j : ScJob) (buf : List Contrib) (last : Bool), stopped s = false →
    s.rc.need = [] → scOf s jid = some j → tileSaved s tile j.lc = false → mget j.runBuf tile [] = buf →
    last = (j.expanded && (mget j.flying tile []).isEmpty && !j.passed.contains tile.val) →
    (buf ≠ [] → (8192 ≤ buf.length ∨ last = true) →
      ∃ (t : State) (run : List Contrib), exec (.runSort tile jid) s = .next t ∧ run.Perm buf ∧
        run.Pairwise (fun a b => recLe a b = true) ∧ (∀ k, scOf t jid = some k →
          mget k.runs tile [] = mget j.runs tile [] ++ [run] ∧ mget k.runBuf tile [] = [] ∧
          (last = true → tile.val ∈ k.passed))) ∧
    (buf = [] → last = true → ∃ t, exec (.runSort tile jid) s = .next t ∧ (∀ k, scOf t jid = some k →
      mget k.runs tile [] = mget j.runs tile [] ∧ tile.val ∈ k.passed)) ∧
    (buf.length < 8192 → last = false → exec (.runSort tile jid) s = .next s)) ∧
  (∀ (s : State) (tile : Fin 48) (jid row : Nat) (j : ScJob) (e : MergeEnt) (z : List F32), stopped s = false →
    s.rc.need = [] → scOf s jid = some j → s.pwr.restart ≠ .running → nextRow j tile = some row →
    z = List.replicate (descOf s j.desc).cols 0 →
    e = (rowRecords j tile row).foldl (mergeAdd j) (MergeEnt.mk tile row z z 0 j.lc) →
    (mayMerge s tile j = true → entryFree s tile j.lc = true → mergeBad e = false →
      ∃ t, exec (.mergeEntryGrant tile jid) s = .next t ∧ t.sc.entries = s.sc.entries ++ [e] ∧
      t.sc.entriesJob = s.sc.entriesJob ++ [j.jid] ∧ e.row = row ∧ e.count = (rowRecords j tile row).length ∧
      { t with ctrs := s.ctrs, sc := { t.sc with entries := s.sc.entries, entriesJob := s.sc.entriesJob,
                                                 jobs := s.sc.jobs, mq := s.sc.mq } } = s) ∧
    (mayMerge s tile j = true → entryFree s tile j.lc = true → mergeBad e = true →
      ∃ t, exec (.mergeEntryGrant tile jid) s = .next t ∧ (∀ k, scOf t jid = some k → k.poison = true)) ∧
    ((mayMerge s tile j = false ∨ entryFree s tile j.lc = false) → rowDue s tile j = true →
      exec (.mergeEntryGrant tile jid) s = .next (mqJoin s tile jid))) ∧
  (∀ (s : State) (tile : Fin 48) (jid i k : Nat) (j : ScJob) (e : MergeEnt), stopped s = false → scOf s jid = some j →
    j.ubatch ≠ none → s.pwr.restart ≠ .running → tileSaved s tile j.lc = false → nextEntry s tile j.jid = some (i, e) →
    homeComp j.desc (descOf s j.desc) e.row = k → (∀ m ∈ s.sc.jobs, m.jid ≠ j.jid → m.held = false) →
    (lyOf s k).outstanding < 128 →
    (∀ t, (scRows j = true ∨ (entriesOf s j.jid).length ≠ 1 ∨ j.lastGo = true) → portUp s k = true →
      t = scatGo (sendDelivery s j i e) → t.rc.need = [] →
        exec (.deliverySend tile jid) s = .next t ∧ (lyOf t k).outstanding = (lyOf s k).outstanding + 1 ∧
        (lyOf t k).flying = (lyOf s k).flying ++ [delivery s j e]) ∧
    (scRows j = false → (entriesOf s j.jid).length = 1 → j.lastGo = false → holdOver s j = false → s.rc.need = [] →
      exec (.deliverySend tile jid) s = .next (updSc s j.jid (fun j => { j with held := true }))) ∧
    (∀ t, scRows j = false → (entriesOf s j.jid).length = 1 → j.lastGo = false → holdOver s j = true →
      t = scatGo (sendDelivery (updSc s j.jid (fun j => { j with lastGo := true, held := false })) j i e) → t.rc.need = [] →
        exec (.deliverySend tile jid) s = .next t)) ∧
  (∀ (s : State) (j : ScJob), stopped s = false → s.rc.need = [] → s.sc.jobs.find? (fun j => j.held) = some j →
    (holdOver s j = true → exec .commitHoldRelease s =
      .next (updSc s j.jid (fun j => { j with lastGo := true, held := false }))) ∧
    (holdOver s j = false → exec .commitHoldRelease s = .next s))

/-- Skew between ranks, and the scrub (R237, R238, R292). The logs that the skew area holds are compared row by row, and the
request for them is over; a log that does not fit is counted and asks for an early pass, which the table's last row ends. How
many bytes a pair of a log takes in the area is the model's choice (log entry 34). -/
def Obligations.SkewAndScrubTakeEffect : Prop :=
  (∀ (s t : State) (d : Fin 4096) (logs : List (List RowStep)) (heads : List (Nat × List RankStep)), stopped s = false →
    (mget? s.mer.skewDue d).isSome = true → merUp s = true → live s = true → t = skewHandoff s d logs heads →
    t.rc.need = [] →
      exec (.skewLogHandoff d logs heads) s = .next t ∧ mget? t.mer.skewDue d = none ∧
        (0 < (fitLogs (layoutOf s).skew (mget s.mer.skewDue d [] ++ logs)).2 → d.val ∈ t.mer.earlyScrub)) ∧
  (∀ (s t : State) (d : Fin 4096) (row : Nat) (others : List RankStep) (x : Desc), stopped s = false → merUp s = true →
    live s = true → descOf s d = x → x.dstate ≠ 0 → row < x.rows → portUp s (homeComp d x row) = true →
    (s.mer.scrubRate ≠ 0 ∨ d.val ∈ s.mer.earlyScrub) → t = scrubRow s d row others → t.rc.need = [] →
      exec (.scrubRow d row others) s = .next t ∧ (row + 1 = x.rows → d.val ∉ t.mer.earlyScrub) ∧
      (x.log2s = 0 → (s.pwr.sl ≠ 3 ∨ x.resident = true) → { t with mer := { t.mer with
        earlyScrub := s.mer.earlyScrub } } = s))

/-- Updates on a companion's link (R198, R199, R209, R217, R219, R232, R245). An update joins the queue and opens its batch; the
engine makes the oldest one, its COPY and its acknowledgement go on the link, and one that is not committed leaves memory as it
was and sends no COPY; BATCH_END, sent once to each companion that received a delivery, closes the batch, and BATCH_DONE follows
the acknowledgements of its updates; an acknowledgement of an update reaches its SCATTER, one of a row operation counts its
result, and both wait for the row's COPY; a COPY waits to be installed, and a commit log is taken during a restart. -/
def Obligations.CompanionUpdatesTakeEffect : Prop :=
  (∀ (s : State) (p : Fin 8) (u v : UpdMsg) (rest : List UpdMsg), stopped s = false → s.rc.need = [] → portUp s p = true →
    (lyOf s p).selfRef = false → takeFirst (fun v => v == u) (lyOf s p).flying = some (v, rest) →
      ∃ t, exec (.update p u) s = .next t ∧ (lyOf t p).flying = rest ∧ (lyOf t p).updq = (lyOf s p).updq ++ [u] ∧
        (u.desc, u.ubatch) ∈ (lyOf t p).batches ∧ (∀ b ∈ (lyOf s p).batches, b ∈ (lyOf t p).batches) ∧
        (∀ k, k ≠ p.val → lyOf t k = lyOf s k) ∧ { t with ly := s.ly } = s) ∧
  (∀ (s s1 t : State) (p : Fin 8) (u : UpdMsg) (us : List UpdMsg) (r : UpdDone), stopped s = false → portUp s p = true →
    (lyOf s p).selfRef = false → s.pwr.restart ≠ .running → (lyOf s p).updq = u :: us →
    lyUpdate (setLy s p { lyOf s p with updq := us }) p u = (s1, r) → t = engineTake s p → t.rc.need = [] →
      exec (.updateEngineTake p) s = .next t ∧ (lyOf t p).updq = us ∧ (lyOf t p).acks = (lyOf s p).acks ++ [r.ack] ∧
        (lyOf t p).copies = (lyOf s p).copies ++ (r.copy.map (fun c => (u.desc, u.row, c))).toList ∧
        (s.mer.lruns = [] → t.mem = s1.mem) ∧
        r.ack.desc = u.desc ∧ r.ack.row = u.row ∧ r.ack.ubatch = u.ubatch) ∧
  (∀ (s : State) (k : Nat) (u : UpdMsg), (lyUpdate s k u).2.ack.result ≠ 0 →
    (lyUpdate s k u).1.mem = s.mem ∧ (lyUpdate s k u).2.copy = none) ∧
  (∀ (s s1 t : State) (p : Fin 8) (ub : BitVec 16), stopped s = false →
    (∃ j ∈ s.sc.jobs, inBatch ub.toNat j = true ∧ inCommit s j = true ∧ p.val ∈ j.ports ∧ p.val ∉ j.ended) →
    (∀ u ∈ (lyOf s p).flying, u.ubatch ≠ ub.toNat) →
    s1 = updScat s (inBatch ub.toNat) (fun j => { j with ended := sins j.ended p }) → t.rc.need = [] →
    (portUp s p = true →
      t = scatGo (checkParams (setLy s1 p (lyClose { lyOf s p with dones := (lyOf s p).dones ++ [ub.toNat] }))) →
        exec (.batchEnd p ub) s = .next t ∧ (lyOf t p).dones = (lyOf s p).dones ++ [ub.toNat] ∧
          (lyOf t p).updq = (lyOf s p).updq) ∧
    (portUp s p = false → t = scatGo (countPort s1 p) → exec (.batchEnd p ub) s = .next t)) ∧
  (∀ (s : State) (p : Fin 8) (ub : BitVec 16), stopped s = false → s.rc.need = [] → ub.toNat ∈ (lyOf s p).dones →
    ((∀ u ∈ (lyOf s p).updq, u.ubatch ≠ ub.toNat) → (∀ a ∈ (lyOf s p).acks, a.ubatch ≠ ub.toNat) →
      exec (.batchDone p ub) s =
        .next (setLy s p { lyOf s p with dones := (lyOf s p).dones.filter (fun b => b != ub.toNat) })) ∧
    ((∃ a ∈ (lyOf s p).acks, a.ubatch = ub.toNat) → exec (.batchDone p ub) s = .next s)) ∧
  (∀ (s : State) (p : Fin 8) (a : AckMsg), stopped s = false →
    (∀ b rest t, takeFirst (fun b => b == a) (lyOf s p).acks = some (b, rest) →
      (∀ c ∈ (lyOf s p).copies, c.1 ≠ a.desc ∨ c.2.1 ≠ a.row) →
      t = scatGo (ackTake (setLy s p { lyOf s p with
        acks := rest,
        recent := if a.result = 0 then (lyOf s p).recent.filter (fun r => r != RowStep.mk a.desc a.row a.step)
          else (lyOf s p).recent }) p a) → t.rc.need = [] →
      exec (.updAck p a) s = .next t ∧ (lyOf t p).outstanding = (lyOf s p).outstanding - 1 ∧ (lyOf t p).acks = rest) ∧
    (∀ b rest, s.rc.need = [] → takeFirst (fun b => b == a) (lyOf s p).acks = none →
      takeFirst (fun b => b == a) (lyOf s p).racks = some (b, rest) →
      (∀ c ∈ (lyOf s p).copies, c.1 ≠ a.desc ∨ c.2.1 ≠ a.row) →
        exec (.updAck p a) s = .next (if a.result = 8 then setLy s p { lyOf s p with racks := rest }
          else bump1 (setLy s p { lyOf s p with racks := rest }) (resultCtr a.desc a.result))) ∧
    (s.rc.need = [] → (∃ c ∈ (lyOf s p).copies, c.1 = a.desc ∧ c.2.1 = a.row) → exec (.updAck p a) s = .next s)) ∧
  (∀ (s : State) (p : Fin 8) (d : Fin 4096) (row : Nat) (sl : List Byte) (c : Nat × Nat × List Byte)
    (rest : List (Nat × Nat × List Byte)), stopped s = false → s.rc.need = [] →
    takeFirst (fun c => c == (d.val, row, sl)) (lyOf s p).copies = some (c, rest) →
      ∃ t, exec (.copy p d row sl) s = .next t ∧ t.alm = { s.alm with copies := s.alm.copies ++ [(d.val, row, sl)] } ∧
        (lyOf t p).copies = rest ∧ t.sc = { s.sc with jobs := s.sc.jobs.map (fun j =>
          if j.desc == d.val && j.ubatch.isSome && !j.reported then { j with toInstall := j.toInstall + 1 } else j) } ∧
        { t with alm := s.alm, sc := s.sc, ly := s.ly } = s) ∧
  (∀ (s t : State) (p : Fin 8) (l : List RowStep), stopped s = false → s.pwr.restart = .running → portUp s p = true →
    (∀ x ∈ l, x ∈ (lyOf s p).recent) → t = l.foldl requantRow (setLy s p { lyOf s p with
      recent := (lyOf s p).recent.filter (fun x => !l.contains x) }) → t.rc.need = [] →
      exec (.commitLog p l) s = .next t ∧ (∀ x ∈ l, x ∉ (lyOf t p).recent))

/-- Row commands and loads on a companion's link (R207, R209 to R211, R230 to R232, R239, R242 to R244). While the port is down
each is counted and lost; in self-refresh, and during a restart, none is taken. An operation on a row that an earlier UPDATE is
ahead on waits, which counts. At its turn SET_SERVE changes memory and its counts only; RESEED, REQUANT and LEVEL_STEP put their
acknowledgement on the link, REQUANT the COPY of a promoted row before it; SLOT_RD answers with the home slot; the loads change
the context, program, parameter set or codebook, a change in use waiting for its open batches. How often the wait counts, and
that a companion without the context discards SET_SERVE, are the model's choices (log entries 118 and 22). -/
def Obligations.CompanionRowCommandsTakeEffect : Prop :=
  (∀ (s : State) (p : Fin 8) (d : Fin 4096) (row : Nat) (f : ServeMsg) (sl : List Byte) (g : BitVec 24) (c : LyCtx)
    (i : Fin 256) (q : Prog) (v : Sys2Proof.PSet) (n : Fin 1024) (cb : Codebook), stopped s = false → s.rc.need = [] →
    ∀ x ∈ [Instr.setServe p f, .reseed p d row sl, .requant p d row, .levelStep p d row g, .loadCtx p d c,
      .loadProgFrame p i q, .loadPsetFrame p i v, .loadCb p n cb],
      (portUp s p = false → exec x s = .next (bump1 s (ctrCompCmpDown p))) ∧
      (portUp s p = true → ((lyOf s p).selfRef = true ∨ s.pwr.restart = .running) → exec x s = .next s)) ∧
  (∀ (s : State) (p : Fin 8) (d : Fin 4096) (row : Nat) (f : ServeMsg) (sl : List Byte) (g : BitVec 24), stopped s = false →
    s.rc.need = [] → s.rc.snoop = [] → portUp s p = true → (lyOf s p).selfRef = false → s.pwr.restart ≠ .running →
    f.desc = d.val → f.row = row → (∃ u ∈ (lyOf s p).updq, u.desc = d.val ∧ u.row = row) →
      ∀ x ∈ [Instr.setServe p f, .reseed p d row sl, .requant p d row, .levelStep p d row g],
        exec x s = .next (bump1 s (ctrCompLyLockWait p))) ∧
  (∀ (s : State) (p : Fin 8) (d : Fin 4096) (row : Nat), stopped s = false → portUp s p = true →
    (lyOf s p).selfRef = false → s.pwr.restart ≠ .running →
    (∀ u ∈ (lyOf s p).updq, u.desc ≠ d.val ∨ u.row ≠ row) →
    (∀ (f : ServeMsg) (t : State), f.desc = d.val → f.row = row → t = lySetServe s p f → t.rc.need = [] →
      exec (.setServe p f) s = .next t ∧ memUndo s t = s ∧ (mget? (lyOf s p).ctx d = none → t = s)) ∧
    (∀ (sl : List Byte) (t : State) (a : AckMsg), lyReseed s p d row sl = (t, a) → t.rc.need = [] →
      exec (.reseed p d row sl) s = .next (pushRack t p a) ∧ a.desc = d.val ∧ a.row = row ∧
      (mget? (lyOf s p).ctx d = none → a.result = 7 ∧ t.mem = s.mem) ∧ (mget? (lyOf s p).ctx d ≠ none → a.result = 8) ∧
      memUndo s t = s) ∧
    (∀ (t : State) (r : UpdDone), lyRequant s p d row = (t, r) → t.rc.need = [] →
      exec (.requant p d row) s = .next (pushRack (pushCopy t p d row r.copy) p r.ack) ∧ r.ack.desc = d.val ∧ r.ack.row = row ∧
      (mget? (lyOf s p).ctx d = none → r.ack.result = 7 ∧ t.mem = s.mem) ∧
      (∀ c, mget? (lyOf s p).ctx d = some c → r.ack.step = slStep (lyRead s p c row).2.home ∧
        (((lyRead s p c row).2.homeBad || (lyRead s p c row).2.recBad) = true → r.ack.result = 5 ∧ t.mem = s.mem) ∧
        (((lyRead s p c row).2.homeBad || (lyRead s p c row).2.recBad) = false → r.ack.result = 8)) ∧ memUndo s t = s) ∧
    (∀ (g : BitVec 24) (t : State) (a : AckMsg), lyLevel s p d row g.toNat = (t, a) → t.rc.need = [] →
      exec (.levelStep p d row g) s = .next (pushRack t p a) ∧ a.desc = d.val ∧ a.row = row ∧
      (mget? (lyOf s p).ctx d = none → a.result = 7 ∧ t.mem = s.mem) ∧
      (∀ c s1 h m, mget? (lyOf s p).ctx d = some c → dReadSecs s (lyHome p c row) 1 = (s1, h, m) →
        (m.any id = true → a.result = 5 ∧ t.mem = s.mem) ∧
        (m.any id = false → a.result = 8 ∧ a.step = max (slStep h) g.toNat)) ∧ memUndo s t = s) ∧
    (∀ (s1 : State) (b : List Byte) (bad : Bool), (descOf s d).dstate ≠ 0 →
      row < (descOf s d).rows → homeComp d (descOf s d) row = p.val → readHome s d row = (s1, b, bad) → s1.rc.need = [] →
      exec (.slotRd p d row) s = .next (setLy s1 p { lyOf s1 p with answers := (lyOf s1 p).answers ++
        [sectorsOf (homeAddr d (descOf s d) row) b (List.replicate (b.length / 32) bad)] }))) ∧
  (∀ (s : State) (p : Fin 8), stopped s = false → s.rc.need = [] → portUp s p = true → (lyOf s p).selfRef = false →
    s.pwr.restart ≠ .running →
    (∀ (d : Fin 4096) (c : LyCtx),
      exec (.loadCtx p d c) s = .next (setLy s p (lyLoadCtx (lyOf s p) d c)) ∧
      (lyOpenDesc (lyOf s p) d = false → mget? (lyLoadCtx (lyOf s p) d c).ctx d = some c) ∧
      (∀ o, lyOpenDesc (lyOf s p) d = true → mget? (lyOf s p).ctx d = some o → o.pset ≠ c.pset →
        (lyLoadCtx (lyOf s p) d c).ctx = (lyOf s p).ctx ∧ (d.val, c) ∈ (lyLoadCtx (lyOf s p) d c).pendCtx)) ∧
    (∀ (i : Fin 256) (q : Prog), exec (.loadProgFrame p i q) s =
      .next (setLy s p { lyOf s p with progs := mset (lyOf s p).progs i q })) ∧
    (∀ (i : Fin 256) (v : Sys2Proof.PSet),
      (lyOpenPset (lyOf s p) i = false → exec (.loadPsetFrame p i v) s = .next (setLy s p { lyOf s p with
        psets := mset (lyOf s p).psets i v, pendPset := (lyOf s p).pendPset.filter (fun x => x.1 != i.val) })) ∧
      (lyOpenPset (lyOf s p) i = true → exec (.loadPsetFrame p i v) s = .next (setLy s p { lyOf s p with
        pendPset := (lyOf s p).pendPset.filter (fun x => x.1 != i.val) ++ [(i.val, v)] }))) ∧
    (∀ (n : Fin 1024) (cb : Codebook), exec (.loadCb p n cb) s =
      .next (setLy s p { lyOf s p with cbs := mset (lyOf s p).cbs n cb })))

/-- Plain accesses and the state of a companion's link (R208, R218, R313 to R316, R321 to R323, R330). A read of 1 to 8 sectors
of one granule answers with them on what each is found to be, and on a down port, with no line waiting for it, nothing is
answered and the port counts; a write puts every unpoisoned sector into memory and changes no other byte; self-refresh is
entered with no update waiting and left on request, and a request to a down port counts and is reported as done; answers and
acknowledgements leave the link when they are taken; a health report carries the repairs made; a reserved frame is discarded and
counted, and a reserved result counts and stands for POISONED; a NAK counts a replay; a port with too many replays trains to
16, 8 or no lanes, and with none the port is down and what it held of updates is gone. -/
def Obligations.CompanionAccessesTakeEffect : Prop :=
  (∀ (s s0 s1 : State) (p : Fin 8) (a n : Nat) (l : List LyOutcome) (b : List Byte) (m : List Bool), stopped s = false →
    s.rc.need = [] → l.length = n → onComp p a (32 * n) = true → 1 ≤ n → n ≤ 8 → a % 256 + 32 * n ≤ 256 → a % 32 = 0 →
    (portUp s p = true → (lyOf s p).selfRef = false → s.pwr.restart ≠ .running →
      s0 = l.zipIdx.foldl (fun t x => lyOutcome t p (a / 32 + x.2) x.1) s → dReadSecs s0 a n = (s1, b, m) →
      ∃ t, exec (.companionRd p a l) s = .next t ∧
        t = setLy s1 p { lyOf s p with answers := (lyOf s p).answers ++ [sectorsOf a b m] } ∧
        ((∀ o ∈ l, o = .clean ∨ o = .linkCe ∨ o = .linkUe) → t.mem.cells = s.mem.cells)) ∧
    (portUp s p = false → s.rc.mshr = [] → freeBytes (countPort s p) (32 * n) = (s1, b) →
      exec (.companionRd p a l) s = .next s1)) ∧
  (∀ (s : State) (p : Fin 8) (d : SectorData), stopped s = false → s.rc.need = [] → Memory.wf s.mem = true →
    onComp p d.addr (32 * d.sectors.length) = true → d.addr % 32 = 0 → d.sectors ≠ [] → portUp s p = true →
    (lyOf s p).selfRef = false → s.pwr.restart ≠ .running →
      ∃ t, exec (.companionWr p d) s = .next t ∧ (lyOf t p).wrAcks = (lyOf s p).wrAcks + 1 ∧
        (∀ x, x < d.addr ∨ d.addr + 32 * d.sectors.length ≤ x → byteAt t x = byteAt s x) ∧
        (∀ i b j, d.sectors[i]? = some (b, false) → j < 32 → byteAt t (d.addr + 32 * i + j) = b.getD j 0) ∧
        Memory.wf t.mem = true ∧ { memUndo s t with ly := s.ly } = s) ∧
  (∀ (s : State) (p : Fin 8) (a : Nat) (k : W32) (l : List Byte) (poison : Bool), stopped s = false → s.rc.need = [] →
    Memory.wf s.mem = true → onComp p a 32 = true → a % 32 = 0 → portUp s p = true → (lyOf s p).selfRef = false →
    s.pwr.restart ≠ .running →
      ∃ t, exec (.wrMask p a k l poison) s = .next t ∧ (lyOf t p).wrAcks = (lyOf s p).wrAcks + 1 ∧
        (∀ x, x < a ∨ a + 32 ≤ x → byteAt t x = byteAt s x) ∧
        (∀ j, j < 32 → k.getLsbD j = false → byteAt t (a + j) = byteAt s (a + j)) ∧
        (∀ j, j < 32 → k.getLsbD j = true → poison = false → byteAt t (a + j) = l.getD j 0) ∧
        { memUndo s t with ly := s.ly } = s) ∧
  (∀ (s : State) (p : Fin 8), stopped s = false → s.rc.need = [] → portUp s p = false →
    exec (.srEnter p) s = .next (srDown s p) ∧ exec (.srExit p) s = .next (srDown s p) ∧
    (srDown s p).ctrs = addCtr s.ctrs (ctrCompCmpDown p) 1 ∧ (lyOf (srDown s p) p).srDones = (lyOf s p).srDones + 1 ∧
    (∀ n, exec (.health ⟨p, n⟩) s = .next (bump1 s (ctrCompCmpDown p)))) ∧
  (∀ (s : State) (p : Fin 8), stopped s = false → s.rc.need = [] → portUp s p = true →
    ((lyOf s p).selfRef = false → s.pwr.restart ≠ .running → (lyOf s p).updq = [] → exec (.srEnter p) s =
      .next (setLy s p { lyOf s p with selfRef := true, srDones := (lyOf s p).srDones + 1 })) ∧
    ((lyOf s p).selfRef = false → (lyOf s p).updq ≠ [] → exec (.srEnter p) s = .next s) ∧
    (exec (.srExit p) s = .next (setLy s p { lyOf s p with selfRef := false, srDones := (lyOf s p).srDones + 1 })) ∧
    (∀ n u, u = bump s (ctrCompSRepair p) n →
      exec (.health ⟨p, n⟩) s = .next (setLy u p { lyOf s p with healths := (lyOf s p).healths ++ [healthWords u p] })) ∧
    (exec (.companionFlitNak p) s =
      .next (bump1 (setLy s p { lyOf s p with replays := (lyOf s p).replays + 1 }) (ctrCompClReplay p))) ∧
    (∀ b ty r, frameReserved ty = true → exec (.companionReservedFrame p b ty r) s = .next (bump1 s (ctrCompLyProtoErr p))) ∧
    (∀ r a as t, 9 ≤ r.toNat → (lyOf s p).acks = a :: as →
      t = scatGo (ackTake (setLy (bump1 s (ctrCompLyProtoErr p)) p { lyOf s p with acks := as }) p { a with result := 5 }) →
      t.rc.need = [] → exec (.companionReservedFrame p true 0x20 (some r)) s = .next t) ∧
    (∀ r a as, 9 ≤ r.toNat → (lyOf s p).acks = [] → (lyOf s p).racks = a :: as →
      exec (.companionReservedFrame p true 0x20 (some r)) s =
        .next (ackRow (setLy (bump1 s (ctrCompLyProtoErr p)) p { lyOf s p with racks := as }) { a with result := 5 })) ∧
    (1024 < (lyOf s p).replays →
      exec (.companionPortRetrain p 16) s = .next (setLy s p { lyOf s p with lanes := 16, replays := 0 }) ∧
      exec (.companionPortRetrain p 8) s =
        .next (raiseEvent (setLy s p { lyOf s p with lanes := 8, replays := 0 }) 0x20 p 8 0) ∧
      (s.rc.mshr = [] → ∃ t, exec (.companionPortRetrain p 0) s = .next t ∧ portUp t p = false ∧ (lyOf t p).downEvt = true ∧
        (lyOf t p).ctx = (lyOf s p).ctx ∧ (lyOf t p).flying = [] ∧ (lyOf t p).updq = [] ∧ (lyOf t p).acks = [] ∧
        t.mem = s.mem))) ∧
  (∀ (s : State) (p : Fin 8), stopped s = false → s.rc.need = [] →
    (∀ d x rest, takeFirst (fun x => x == d) (lyOf s p).answers = some (x, rest) →
      (fillSectors (setLy s p { lyOf s p with answers := rest }) d).rc.need = [] →
      exec (.rdData p d) s = .next (fillSectors (setLy s p { lyOf s p with answers := rest }) d)) ∧
    (exec (.wrAck p) s = .next (setLy s p { lyOf s p with wrAcks := (lyOf s p).wrAcks - 1 })) ∧
    (exec (.srDone p) s = .next (setLy s p { lyOf s p with srDones := (lyOf s p).srDones - 1 })) ∧
    (∀ v x rest, takeFirst (fun x => x == v) (lyOf s p).healths = some (x, rest) →
      exec (.healthData p v) s = .next (setLy s p { lyOf s p with healths := rest })))

/-- REPLACE, SWAP_VERSION and the end of a retired version (R271 to R281, R71, R85). A REPLACE that fails validation ends with
status 0x40, 0x11 or 0x20; one whose source lies outside the chip asks for it; one that is in order waits at its row, with the
bytes of a source that a host gave, and runs past its gate to its end. A swap that is in order waits for the SCATTERs under
way, then loads the companions and the tiles and promotes the warm set as far as its journal records go; a commit retires the
old version and makes the new one LIVE and bound. The entries of a RETIRING version without work become TOMBSTONE, and it is
FREE, with the reset values of its descriptor, once no slot of it awaits reclamation; the TOMBSTONEs of a FREE descriptor that
no probe sequence passes are cleared. That a command whose conditions do not hold changes nothing is the model's choice (log
entry 8). -/
def Obligations.ReplaceCommandsTakeEffect : Prop :=
  (∀ (s : State) (cid : Nat) (c : Cmd), stopped s = false → s.rc.need = [] → cmdOf s cid = some c → c.badLine = false →
    c.op = 0x03 → mayStart s c = true →
    ((rpFields c = false ∨ rpResolve s c = none ∨ (∃ y, rpResolve s c = some y ∧ rpClassOk s c y.2 = false)) →
      exec (.replace cid) s = .next (failCmd s cid 0x40)) ∧
    (∀ d x n, rpFields c = true → rpResolve s c = some (d, x) → rpClassOk s c x = true →
      n = (if rpEncoded c then 8 + x.cols / 32 else 2 * x.cols) →
      (rpRead s c n = .denied → exec (.replace cid) s = .next (failCmd s cid 0x11)) ∧
      (rpRead s c n = .lost → exec (.replace cid) s = .next (failCmd s cid 0x20)) ∧
      (∀ t, rpRead s c n = .wait t → t.rc.need = [] → exec (.replace cid) s = .next t) ∧
      (∀ t l p, rpRead s c n = .ok t l p → t.rc.need = [] → (p = true → exec (.replace cid) s = .next (failCmd t cid 0x40)) ∧
        (p = false → rpEncoded c = false → exec (.replace cid) s =
          .next (rpArrive t c d (if rpFromHost t c l.length then some l else none)))) ∧
      (∀ t h, rpEncoded c = true → rpRead s c n = .ok t h false →
        (rpRead t c (slotSize (slClass h) x.cols) = .denied → exec (.replace cid) s = .next (failCmd s cid 0x11)) ∧
        (rpRead t c (slotSize (slClass h) x.cols) = .lost → exec (.replace cid) s = .next (failCmd s cid 0x20)) ∧
        (∀ u, rpRead t c (slotSize (slClass h) x.cols) = .wait u → u.rc.need = [] → exec (.replace cid) s = .next u) ∧
        (∀ u l p, rpRead t c (slotSize (slClass h) x.cols) = .ok u l p → u.rc.need = [] → exec (.replace cid) s =
          .next (if p || !rpSliceOk u x l then failCmd u cid 0x40
            else rpArrive u c d (if rpFromHost u c l.length then some l else none)))))) ∧
  (∀ (s : State) (c : Cmd) (d : Nat) (l : Option (List Byte)) (e : Cmd), cmdOf s c.cid = some e →
    cmdOf (rpArrive s c d l) c.cid = some { e with phase := .waiting, plan := d, ord := s.sc.nextOrd, src := l }) ∧
  (∀ (s : State) (cid : Nat) (c : Cmd) (x : Desc), stopped s = false → cmdOf s cid = some c → c.badLine = false →
    c.op = 0x03 → c.phase = .waiting → descOf s c.plan = x →
    (rpMayRun s c = false → s.rc.need = [] → exec (.replaceRun cid) s = .next s) ∧
    (∀ l u, rpMayRun s c = true → c.src = some l → u = rpGo s c c.plan x l → u.rc.need = [] →
      ∃ e, exec (.replaceRun cid) s = .next u ∧ cmdOf u cid = some e ∧ e.phase = .done) ∧
    (∀ t u l, rpMayRun s c = true → c.src = none → rpEncoded c = false → rpRead s c (2 * x.cols) = .ok t l false →
      u = rpGo t c c.plan (descOf t c.plan) l → u.rc.need = [] →
        ∃ e, exec (.replaceRun cid) s = .next u ∧ cmdOf u cid = some e ∧ e.phase = .done) ∧
    (∀ t h v u l, rpMayRun s c = true → c.src = none → rpEncoded c = true →
      rpRead s c (8 + x.cols / 32) = .ok t h false → rpRead t c (slotSize (slClass h) x.cols) = .ok v l false →
      rpSliceOk v (descOf v c.plan) l = true → u = rpGo v c c.plan (descOf v c.plan) l → u.rc.need = [] →
        ∃ e, exec (.replaceRun cid) s = .next u ∧ cmdOf u cid = some e ∧ e.phase = .done)) ∧
  (∀ (s : State) (cid : Nat) (c : Cmd), stopped s = false → s.rc.need = [] → cmdOf s cid = some c → c.badLine = false →
    c.op = 0x04 →
    (live s = false → exec (.swapVersion cid) s = .next s ∧ exec (.swapCommit cid) s = .next s) ∧
    (live s = true → (mayStart s c = true ∨ c.phase = .waiting) → c.warm = none →
      ((swFields c = false ∨ swResolve s c = none) → exec (.swapVersion cid) s = .next (failCmd s cid 0x40)) ∧
      (∀ o n, swFields c = true → swResolve s c = some (o, n) →
        (swScatters s (c.f 0 8 12) = true → exec (.swapVersion cid) s =
          .next (updCmd s cid (fun c => { c with phase := .waiting }))) ∧
        (∀ u l, swScatters s (c.f 0 8 12) = false →
          swWarm n (if bit (c.w 0) 20 then warmSet (swLoad s n) o n else []) (swLoad s n) = (u, l) → u.rc.need = [] →
          exec (.swapVersion cid) s = .next (updCmd u cid (fun e => { e with
            phase := if l = [] then .running else .waiting, plan := n, pver := o,
            warm := if l = [] then none else some l }))))) ∧
    (∀ rows u l, live s = true → (mayStart s c = true ∨ c.phase = .waiting) → c.warm = some rows →
      swWarm c.plan rows s = (u, l) → u.rc.need = [] → exec (.swapVersion cid) s = .next (updCmd u cid (fun e => { e with
        phase := if l = [] then .running else .waiting, plan := c.plan, pver := c.pver,
        warm := if l = [] then none else some l }))) ∧
    (live s = true → c.phase = .running →
      (swResolve s c ≠ some (c.pver, c.plan) → exec (.swapCommit cid) s = .next (failCmd s cid 0x40)) ∧
      (∀ u, swResolve s c = some (c.pver, c.plan) → u = finish (bindDesc (retireDesc s c.pver) c.plan) cid → u.rc.need = [] →
        ∃ e, exec (.swapCommit cid) s = .next u ∧ cmdOf u cid = some e ∧
          e.phase = .done ∧ (descOf u c.plan).dstate = 2 ∧ (c.pver ≠ c.plan → (descOf u c.pver).dstate = 3) ∧
          mget? u.tabs.binding (descOf u c.plan).table = some c.plan ∧
          (∀ d, d ≠ c.plan → d ≠ c.pver → descOf u d = descOf s d) ∧
          memUndo s { u with tabs := { u.tabs with descs := s.tabs.descs, binding := s.tabs.binding },
                             orr := { u.orr with cmds := s.orr.cmds } } = s))) ∧
  (∀ (s u : State) (d : Fin 4096), stopped s = false →
    (((descOf s d).dstate ≠ 3 ∨ d.val ∈ s.orr.retiring ∨ descBound s d = true ∨ merUp s = false ∨ live s = false) →
      s.rc.need = [] → exec (.tombstoneRetiring d) s = .next s) ∧
    ((descOf s d).dstate = 3 → d.val ∉ s.orr.retiring → descBound s d = false → merUp s = true → live s = true →
      u = (almOf s d).foldl retireOne s →
      (almOf u d ≠ [] → u.rc.need = [] → exec (.tombstoneRetiring d) s = .next u) ∧
      (almOf u d = [] → (∃ r ∈ u.alm.retire, r.desc = d.val) → u.rc.need = [] → exec (.tombstoneRetiring d) s =
        .next { u with orr := { u.orr with retiring := sins u.orr.retiring d } }) ∧
      (∀ t, almOf u d = [] → (∀ r ∈ u.alm.retire, r.desc ≠ d.val) →
        t = freeDesc { u with orr := { u.orr with retiring := sins u.orr.retiring d } } d → t.rc.need = [] →
          exec (.tombstoneRetiring d) s = .next t ∧ descOf t d = Desc.reset ∧ d.val ∉ t.orr.retiring))) ∧
  (∀ (s t : State) (d : Fin 4096), stopped s = false →
    (((descOf s d).dstate ≠ 0 ∨ merUp s = false ∨ live s = false ∨ s.pwr.sl ≠ 3) → s.rc.need = [] →
      exec (.tombstoneClear d) s = .next s) ∧
    ((descOf s d).dstate = 0 → merUp s = true → live s = true → s.pwr.sl = 3 →
      t = (almEntries s (fun e => e.state == 2 && e.desc == d.val)).foldl (fun u p =>
        if probedPast u p.bucket then u else writeEnt u p.bucket p.idx (AEnt.ofNat 0)) s → t.rc.need = [] →
        exec (.tombstoneClear d) s = .next t ∧ memUndo s t = s))

/-- Migration operations and installs (R253, R267 to R270). Each operation that Meridian has derived for a LIVE descriptor runs
when its gate is open and its engine has a journal record, on the state whose list no longer holds it, and counts for its
table: a row that is promoted already is not promoted again, and a MOVE goes to one of the pseudo-channels read least, where
the row does not lie yet; an install takes the oldest COPY for its row. That any other operation changes nothing is the model's
choice (log entry 8). -/
def Obligations.MigrationOperationsTakeEffect : Prop :=
  (∀ (s w u : State) (d : Fin 4096) (row : Nat) (op : MigOp), stopped s = false → op ∈ s.load.ops → rowOpFree s d = true →
    journalRoom s (ownerQuad d (descOf s d) row) false = true → live s = true → (descOf s d).dstate = 2 →
    w = { s with load := { s.load with ops := s.load.ops.erase op } } →
    (∀ cls : Fin 4, op = .promote d row cls →
      (∀ p, probe w d row = (u, some p) → u.rc.need = [] →
        exec (.promote d row cls) s = .next (bump1 u (ctrTableMigPromote d))) ∧
      (∀ t, probe w d row = (u, none) → t = (promoteRow u d row cls false).1 → t.rc.need = [] →
        exec (.promote d row cls) s = .next (bump1 t (ctrTableMigPromote d)))) ∧
    (∀ (cls : Fin 4) t, op = .demote d row → t = demoteRow w d row (clampCls w d cls) false → t.rc.need = [] →
      exec (.demote d row cls) s = .next (bump1 t (ctrTableMigDemote d))) ∧
    (∀ (k : Fin 384) t, op = .move d row → coolPch s k = true → onPch s d row k = false → t = moveRow w d row k →
      t.rc.need = [] → exec (.move d row k) s = .next (bump1 t (ctrTableMigMove d))) ∧
    (∀ (cls : Fin 4) t, op = .reclass d row cls → t = reclassRow w d row cls → t.rc.need = [] →
      exec (.reclass d row cls) s = .next (bump1 t (ctrTableMigReclass d))) ∧
    (∀ keep t, op = .pin d row keep → t = pinRow w d row keep → t.rc.need = [] →
      exec (.pin d row keep) s = .next (bump1 t (ctrTableMigPin d)) ∧
      memUndo s { t with load := s.load } = s)) ∧
  (∀ (s : State) (d : Fin 4096) (row : Nat), stopped s = false → s.rc.need = [] →
    (∀ (cls : Fin 4), (rowOpFree s d = false ∨ live s = false ∨ (descOf s d).dstate ≠ 2 ∨
        journalRoom s (ownerQuad d (descOf s d) row) false = false ∨ MigOp.promote d row cls ∉ s.load.ops) →
      exec (.promote d row cls) s = .next s) ∧
    (∀ (k : Fin 384), (coolPch s k = false ∨ onPch s d row k = true) → exec (.move d row k) s = .next s)) ∧
  (∀ (s t : State) (d : Fin 4096) (row : Nat), stopped s = false →
    (∀ c rest, journalRoom s (ownerQuad d (descOf s d) row) true = true → live s = true →
      takeFirst (fun c => c.1 == d.val && c.2.1 == row) s.alm.copies = some (c, rest) → t = installNext s d row →
      t.rc.need = [] → exec (.install d row) s = .next t ∧ t.alm.copies = rest) ∧
    ((journalRoom s (ownerQuad d (descOf s d) row) true = false ∨ live s = false) → s.rc.need = [] →
      exec (.install d row) s = .next s))

/-- Epochs, measurement windows, the Almanac scan and the pool audit (R257 to R260, R283, R287, R289, R292, R342). With every
participant past a quiescence point, an epoch's close frees the slots retired one epoch back, with their journal records, and
advances the epoch number; a tile that has not passed one drains, and counts; a replacement engine that has not passed one
counts and passes, since each of its operations is one step (log entry 121). At a window's end the reads of the channels and
ports, the sketch and the candidates are latched and start again, and KEEP marks lapse; the scan notes a table's promoted rows;
the audit frees the slots that nothing names. That nothing changes where the conditions do not hold is the model's choice (log
entry 8). -/
def Obligations.EpochsAndWindowsTakeEffect : Prop :=
  (∀ (s t : State), stopped s = false →
    (s.pwr.sl = 3 → epochDue s = true → live s = true → t = closeEpoch s → t.rc.need = [] →
      exec .epochClose s = .next t ∧ t.alm.epoch = s.alm.epoch + 1 ∧ t.alm.passed = [] ∧ t.alm.draining = [] ∧
      t.alm.retire = s.alm.retire.filter (fun r => r.epoch == s.alm.epoch.toNat) ∧
      t.alm.journal = s.alm.journal.filter (fun j => !(j.stage == .retired && j.epoch != s.alm.epoch.toNat)) ∧
      (∀ u ∈ t.alm.used, u ∈ s.alm.used ∧ ∀ r ∈ s.alm.retire, r.epoch ≠ s.alm.epoch.toNat → u.1 ≠ r.addr) ∧
      (∀ u ∈ s.alm.used, (∀ r ∈ s.alm.retire, r.epoch ≠ s.alm.epoch.toNat → u.1 ≠ r.addr) → u ∈ t.alm.used) ∧
      (s.orr.retiring = [] → t.mem = s.mem)) ∧
    ((s.pwr.sl ≠ 3 ∨ epochDue s = false ∨ live s = false) → s.rc.need = [] → exec .epochClose s = .next s)) ∧
  (∀ (s : State) (k : Fin 52), stopped s = false → s.rc.need = [] →
    (live s = true → k.val < 48 → k.val ∉ s.alm.passed → k.val ∉ s.alm.draining → tileQuiet s k = false →
      ∃ t, exec (.qpForcedDrain k) s = .next t ∧ (k.val ∈ t.alm.draining ∨ k.val ∈ t.alm.passed) ∧
        ctr t (ctrTileQpForced k) = ctr (bump1 s (ctrTileQpForced k)) (ctrTileQpForced k) ∧
        { t with alm := s.alm, ctrs := s.ctrs, tiles := s.tiles, orr := { t.orr with units := s.orr.units } } = s) ∧
    (live s = true → 48 ≤ k.val → k.val ∉ s.alm.passed → k.val ∉ s.alm.draining → exec (.qpForcedDrain k) s =
      .next { bump1 s (ctrQuadQpForced (k.val - 48)) with alm := { s.alm with passed := sins s.alm.passed k } }) ∧
    ((live s = false ∨ k.val ∈ s.alm.passed ∨ k.val ∈ s.alm.draining ∨ (k.val < 48 ∧ tileQuiet s k = true)) →
      exec (.qpForcedDrain k) s = .next s)) ∧
  (∀ (s : State), stopped s = false → s.rc.need = [] →
    (s.pwr.park ≠ .parked → s.pwr.park ≠ .waking → ∃ t, exec .mwRollover s = .next t ∧
      t.load.mwNum = s.load.mwNum + 1 ∧ t.load.mwAclk = 0 ∧
      t.load.latched = s.load.sketch ∧ t.load.sketch = [] ∧ t.load.lcands = s.load.cands ∧ t.load.cands = [] ∧
      t.load.scanned = [] ∧ t.load.ops.length ≤ s.load.mig.migMax ∧ t.mem = s.mem ∧ t.tabs = s.tabs ∧ t.alm = s.alm ∧
      (∀ i, i < 384 → ctr t (ctrPchPchRd i + 1) = ctr s (ctrPchPchRd i) ∧ ctr t (ctrPchPchRd i) = 0) ∧
      (∀ i, i < 8 → ctr t (ctrCompCmpRd i + 1) = ctr s (ctrCompCmpRd i) ∧ ctr t (ctrCompCmpRd i) = 0) ∧
      (∀ e ∈ t.rc.lines, e.2.touched = false) ∧
      (∀ k l, mget? s.rc.lines k = some l → mget? t.rc.lines k = some { l with keep := l.keep && l.touched, touched := false })) ∧
    ((s.pwr.park = .parked ∨ s.pwr.park = .waking) → exec .mwRollover s = .next s)) ∧
  (∀ (s : State) (d : Fin 4096), stopped s = false → s.rc.need = [] →
    (merUp s = true → live s = true → s.pwr.sl = 3 →
      exec (.almanacScan d) s = .next { s with load := { s.load with
        scanned := s.load.scanned.filter (fun x => x.1 != d.val) ++ (almOf s d).map (fun p => (p.ent.desc, p.ent.row)) } } ∧
      ∃ t, exec .poolAudit s = .next t ∧ (∀ u, u ∈ t.alm.used ↔ u ∈ s.alm.used ∧
        ((∃ p ∈ almEntries s (fun e => e.state == 1), p.ent.slot * 32 = u.1) ∨ ∃ r ∈ s.alm.retire, r.addr = u.1)) ∧
        { t with alm := { t.alm with used := s.alm.used } } = s) ∧
    ((merUp s = false ∨ live s = false ∨ s.pwr.sl ≠ 3) →
      exec (.almanacScan d) s = .next s ∧ exec .poolAudit s = .next s))

/-- Stream engines (R362, R368, R372 to R374, R378 to R384). A tile's engine works on the stream whose turn it is, up to the
end of an entry: one whose block list is at its end, with every line counted, ends with its counts; one at the end of an entry
goes to the next; one whose writes are not visible yet asks for their visibility. A stream that waits goes on when its link
permits. The answer to a miss fills the requester's cache, and counts if the entry was not there; without an entry it counts,
and a stream that asked faults. A stalled request takes a fault entry, LC first. A wait group that has been quiet for the limit
is reported once; if policy allows and Meridian runs, the link of its highest-numbered BE stream, or of its highest-numbered
one, is closed and its command ends with status 0x31. That the turn is the next in rising order behind the stream served last
is the model's choice (log entry 127), and so is that an event whose conditions do not hold changes nothing (log entry 8). -/
def Obligations.StreamEventsTakeEffect : Prop :=
  (∀ (s u : State) (st : Fin 256) (x : Strm) (tile : Nat), stopped s = false → strmOf s st = x → tile = strmTile st x.d →
    u = { s with str := { s.str with turn := mset s.str.turn tile st.val } } →
    ((turnOrder s tile).find? (strmRunnable s) ≠ some st.val → s.rc.need = [] → exec (.streamEntry st) s = .next s) ∧
    ((turnOrder s tile).find? (strmRunnable s) = some st.val →
      (∀ t, t = streamEntry u st → t.rc.need = [] → exec (.streamEntry st) s = .next t) ∧
      (s.rc.need = [] → (strmProduces x.d = false ∨ x.lines ≤ x.added) → x.cur = none → x.d.count ≤ x.entry →
        (x.total % 64 = 0 ∨ x.total ≤ x.lines * 64) → ∃ e cid, exec (.streamEntry st) s = .next (strmEnd u st none) ∧
          x.bound = some cid ∧ cmdOf (strmEnd u st none) cid = some e ∧ e.phase = .done ∧ e.cnt1 = x.poisoned ∧
          e.cnt2 = x.xfer ∧ e.poison = (decide (0 < x.poisoned) || x.discarded) ∧
          { strmEnd u st none with str := s.str, orr := { (strmEnd u st none).orr with cmds := s.orr.cmds } } = s) ∧
      (∀ b, s.rc.need = [] → (strmProduces x.d = false ∨ x.lines ≤ x.added) → x.cur = some b → b.len ≤ x.moved →
        exec (.streamEntry st) s = .next (setStrm u st { x with cur := none, moved := 0, entry := x.entry + 1 })) ∧
      (s.rc.need = [] → strmProduces x.d = true → x.added < x.lines → strmVisible s st = false →
        (64 ≤ x.lines - x.added ∨ x.cur = none) → (strmFlush u st).rc.need = [] →
        exec (.streamEntry st) s = .next (strmFlush u st)))) ∧
  (∀ (s t : State) (st : Fin 256) (x : Strm), stopped s = false → strmOf s st = x →
    ((x.st ≠ .waiting ∨ s.pwr.park ≠ .running ∨ s.pwr.restart = .running) → s.rc.need = [] →
      exec (.linkWaitRelease st) s = .next s) ∧
    (x.st = .waiting → s.pwr.park = .running → s.pwr.restart ≠ .running →
      (x.d.kind < 3 → t = streamEntry s st → t.rc.need = [] → exec (.linkWaitRelease st) s = .next t) ∧
      (∀ cid, x.d.kind = 3 → x.bound = some cid → t = lkEnd (pump s st) cid → t.rc.need = [] →
        exec (.linkWaitRelease st) s = .next t) ∧
      (x.d.kind = 3 → x.bound = none → t = pump s st → t.rc.need = [] → exec (.linkWaitRelease st) s = .next t) ∧
      (4 ≤ x.d.kind → s.rc.need = [] → exec (.linkWaitRelease st) s =
        .next (if mayConsume s x then setStrm s st { x with st := .running } else s)))) ∧
  (∀ (s : State) (r : Requester) (st : Option (Fin 256)) (va : BitVec 52) (right : Fin 3) (k : Nat), stopped s = false →
    s.rc.need = [] → k = (match r with | .tile t => t.val | .chipPort => 48) →
    (∀ e x, rangeAt s false va.toNat = some (e, x) → mget? s.xlt.ranges e = some x →
      (hasRight x right = true ∨ st = none) → ∃ t, exec (.translationFill r st va right) s = .next t ∧
        (mget t.xlt.caches k []).head? = some e ∧ (mget t.xlt.caches k []).length ≤ xltSize k ∧
        t.xlt.ranges = s.xlt.ranges ∧ (∀ a, a ≠ k → mget t.xlt.caches a [] = mget s.xlt.caches a []) ∧
        (e ∈ mget s.xlt.caches k [] → t.ctrs = s.ctrs) ∧
        (e ∉ mget s.xlt.caches k [] → t.ctrs = (bump1 s (xltMissCtr k)).ctrs) ∧
        { t with ctrs := s.ctrs, xlt := { t.xlt with caches := s.xlt.caches } } = s) ∧
    (∀ e x n t, rangeAt s false va.toNat = some (e, x) → hasRight x right = false → st = some n → t = streamEntry s n →
      t.rc.need = [] → exec (.translationFill r st va right) s =
        .next (if ((strmOf t n).bound.bind (cmdOf t)).any (fun c => c.fail == some 0x11) then t else xltUse s k e)) ∧
    (rangeAt s false va.toNat = none → st = none →
      exec (.translationFill r st va right) s = .next (bump1 s (xltMissCtr k))) ∧
    (∀ n t, rangeAt s false va.toNat = none → st = some n → t = streamEntry s n → t.rc.need = [] →
      exec (.translationFill r st va right) s = .next (if (strmOf t n).st = .faultParked ∨ (strmOf t n).st = .faultSwitched ∨
        (engineStalled t k = true ∧ engineStalled s k = false) then t else s))) ∧
  (∀ (s : State), stopped s = false → s.rc.need = [] →
    ((∀ x ∈ s.str.stalled, faultFor s x.addr = none ∧ faultRoom s x.lc = false) → exec .faultEntryGrant s = .next s) ∧
    (∀ x u, ((s.str.stalled.find? (fun x => x.lc && ((faultFor s x.addr).isSome || faultRoom s x.lc)) = some x) ∨
        (s.str.stalled.find? (fun x => x.lc && ((faultFor s x.addr).isSome || faultRoom s x.lc)) = none ∧
          s.str.stalled.find? (fun x => !x.lc && ((faultFor s x.addr).isSome || faultRoom s x.lc)) = some x)) →
      u = { s with str := { s.str with stalled := s.str.stalled.filter (fun y => y != x) } } →
      (∀ f, faultFor s x.addr = some f → exec .faultEntryGrant s = .next (faultJoin u f.fid x.right x.engine x.req)) ∧
      (faultFor s x.addr = none → exec .faultEntryGrant s = .next (faultAlloc u x.addr x.right x.lc x.engine x.req)))) ∧
  (∀ (s u : State) (g : Fin 16), stopped s = false → s.rc.need = [] → u = groupNote s g →
    (groupStuck u g = false → exec (.waitGroupCheck g) s =
      .next { u with str := { u.str with groupRep := sdel u.str.groupRep g } }) ∧
    (groupStuck u g = true → g.val ∈ u.str.groupRep → exec (.waitGroupCheck g) s = .next u) ∧
    (groupStuck u g = true → g.val ∉ u.str.groupRep → (s.str.reportOnly = true ∨ merUp s = false) →
      ∃ t, exec (.waitGroupCheck g) s = .next t ∧
      g.val ∈ t.str.groupRep ∧ t.str.streams = u.str.streams ∧ t.orr = s.orr ∧
      ctr t ctrChipWaitCycle = ctr (bump1 s ctrChipWaitCycle) ctrChipWaitCycle) ∧
    (∀ n x, groupStuck u g = true → g.val ∉ u.str.groupRep → s.str.reportOnly = false → merUp s = true →
      groupVictim u g = some (n, x) → strmOf u n = x → ∃ t, exec (.waitGroupCheck g) s = .next t ∧ g.val ∈ t.str.groupRep ∧
        (hasLink x.d = true → strmClosed t x = true) ∧
        (∀ cid c, x.d.kind < 3 → x.bound = some cid → cmdOf s cid = some c → c.phase ≠ .done → ∃ e, cmdOf t cid = some e ∧
          e.phase = .done ∧ e.fail = some (c.fail.getD 0x31))))

/-- PREFETCH and ADVISE, and the chip port (R25, R345, R359, R362, R372, R388 to R390). A queue command with a reserved field
ends with status 0x40; any other ends when every line has been tried, and changes only the row cache, its counts and the
translation caches. A dense engine's request waits while the block is parked or restarts, or behind one held before it, and
otherwise goes on: an address without an entry faults, one whose entry lacks the right fails, and one whose extent lies in one
entry and in the tiers is read and answered, is written, or is updated and answers its old bytes. Lines that come on a channel
are staged while the link has room and is not CLOSED. That a line which is not staged changes nothing is the model's choice
(log entry 8). -/
def Obligations.ExtentCommandsAndChipPortTakeEffect : Prop :=
  (∀ (s t : State) (cid : Nat) (c : Cmd), stopped s = false → s.rc.need = [] → cmdOf s cid = some c → c.badLine = false →
    mayStart s c = true →
    (c.op = 0x05 → extCmdOk c = false → exec (.prefetch cid) s = .next (failCmd s cid 0x40)) ∧
    (c.op = 0x06 → extCmdOk c = false → exec (.advise cid) s = .next (failCmd s cid 0x40)) ∧
    (c.op = 0x05 → extCmdOk c = true → t = (List.range (extLines c)).foldl (fun u i =>
      prefetchOne (extTile s c) (BitVec.ofNat 2 (c.f 0 8 2)) u (c.f 1 0 52 / 64 + i)) s → t.rc.need = [] →
        exec (.prefetch cid) s = .next (finish t cid) ∧ memUndo s { t with
          xlt := { t.xlt with caches := s.xlt.caches }, str := { t.str with prefetched := s.str.prefetched } } = s) ∧
    (c.op = 0x06 → extCmdOk c = true → t = (List.range (extLines c)).foldl (fun u i =>
      adviseOne (extTile s c) (c.f 0 8 2) u (c.f 1 0 52 / 64 + i)) s → t.rc.need = [] →
        exec (.advise cid) s = .next (finish t cid) ∧
        memUndo s { t with xlt := { t.xlt with caches := s.xlt.caches } } = s)) ∧
  (∀ (s : State) (r q : CpRequest) (va : Nat), stopped s = false → va = r.va.toNat →
    q = (if r.op = 0 then { r with data := [], poison := false } else r) →
    ((mustWait s (.chipPort r) = true ∨ s.pwr.park ≠ .running ∨ s.pwr.restart = .running) → s.rc.need = [] →
      exec (.chipPortRequest r) s = .next (hold s (.chipPort r))) ∧
    (mustWait s (.chipPort r) = false → s.pwr.park = .running → s.pwr.restart ≠ .running →
      (∀ t, t = cpStart s r → t.rc.need = [] → exec (.chipPortRequest r) s = .next t) ∧
      (r.len ≠ 0 → s.rc.need = [] → rangeAt s false va = none → exec (.chipPortRequest r) s =
        .next (takeFault (bump1 s (xltMissCtr 48)) va (cpRight r) false 48 (.cp q))) ∧
      (∀ e x, r.len ≠ 0 → s.rc.need = [] → rangeAt s false va = some (e, x) → hasRight x (cpRight r) = false →
        exec (.chipPortRequest r) s = .next (cpFail (xltUse s 48 e) q)) ∧
      (∀ s1 p, r.len ≠ 0 → xltPart s 48 (cpRight r) va r.len = (s1, .ok p) → p.len = r.len →
        (∀ cs t d, r.op = 0 → cutPieces s1 (.cp r.id) [p] = .ok cs → readCuts (.cp r.id) s1 cs = .ok t d → t.rc.need = [] →
          ∃ u, exec (.chipPortRequest r) s = .next u ∧
            u.str.cpOut = t.str.cpOut ++ [(r.id, d.map (fun b => b.1), d.any (fun b => b.2))] ∧
            { u with str := t.str, got := t.got } = t) ∧
        (∀ cs t, r.op = 1 → cutPieces s1 (.cp r.id) [p] = .ok cs →
          t = writeCuts s1 (.cp r.id) cs ((r.data.take p.len).map (fun b => (b, r.poison))) → t.rc.need = [] →
            exec (.chipPortRequest r) s = .next t) ∧
        (∀ t old bad, 2 ≤ r.op.toNat → p.host = false → inTiers p.pa p.len = true →
          atomicTier s1 p.pa (r.op == 3) r.data p.hint = (t, old, bad) → t.rc.need = [] →
            ∃ u, exec (.chipPortRequest r) s = .next u ∧ u.str.cpOut = t.str.cpOut ++ [(r.id, old, bad)] ∧
              { u with str := t.str } = t)))) ∧
  (∀ (s : State) (ch : Fin 64) (n : Nat) (x : Strm) (l : List Byte) (q : Bool), stopped s = false → s.rc.need = [] →
    s.pwr.park = .running → s.pwr.restart ≠ .running → cpReceiver s ch = some (n, x) →
    (cpRoom s x = true → strmClosed s x = false → exec (.chipPortData ch [(l, q)]) s = .next (setStrm s n { x with
      staged := x.staged ++ [(bytesAt l 0 64, q)], st := if x.st = .idle then .running else x.st })) ∧
    ((cpRoom s x = false ∨ strmClosed s x = true) → exec (.chipPortData ch [(l, q)]) s = .next s)) ∧
  (∀ (s : State) (ch : Fin 64) (ls : List (List Byte × Bool)), stopped s = false → s.rc.need = [] →
    ((s.pwr.park ≠ .running ∨ s.pwr.restart = .running ∨ cpReceiver s ch = none) →
      exec (.chipPortData ch ls) s = .next s) ∧
    (s.pwr.park = .running → s.pwr.restart ≠ .running → ∃ t, exec (.chipPortData ch ls) s = .next t ∧
      { t with str := { t.str with streams := s.str.streams } } = s))

/-- A freeze (R558): whatever command a frozen block takes, but for a reset, its memory, tables, queues, streams, power
state and engines stand still; only counters, the free values handed out, the host port with its answers, the Transit links'
own layer, the clock inputs and the freeze controls may move. -/
def Obligations.FrozenBlockKeepsItsState : Prop :=
  ∀ (c : Instr) (s : State), s.err.frozen = true → isReset c = false →
    ∃ t, exec c s = .next t ∧ stoppedUndo s t = s ∧ t.err.frozen = true

/-- A stopped block (clocks not running, or frozen) with no reset and no lock of the PLL among its commands stays stopped
through every step, and nothing but counters, free values, the host port with its answers, the Transit links' own layer,
clock inputs and freeze controls moves (R516, R558). -/
def Obligations.StoppedBlockStaysStopped : Prop :=
  ∀ s t : State, StaysStopped s → step s = .next t → StaysStopped t ∧ stoppedUndo s t = s

/-- Right after power-on reset the block is stopped until its PLL locks (R516), with no command waiting. -/
def Obligations.ResetStateIsStopped : Prop :=
  StaysStopped State.reset ∧ ∀ c : Instr, isReset c = false → c ≠ .pllLock →
    StaysStopped { State.reset with pending := [c] }

/-- Reading a line that has no open miss through the row cache gives, where it comes without poison, the bytes that every
reader sees there (the cached line, or else the memory), leaves what is seen of every line as it was, keeps the row cache in
order, and changes nothing outside the memory, the row cache and what they count and report (R333, R334, R339 to R343). -/
def Obligations.RowCacheReadsKeepTheView : Prop :=
  ∀ (s : State) (x : Nat) (h : BitVec 2), CacheOk s → missOpen s x = false → (readLine s x h).2.2 = false →
    (readLine s x h).2.1 = peekLine s x ∧ (∀ y, peekLine (readLine s x h).1 y = peekLine s y) ∧
      CacheOk (readLine s x h).1 ∧ memUndo s (readLine s x h).1 = s

/-- Writing bytes of one line that has no open miss through the row cache, without poison and to memory that answers, puts
exactly these bytes into what every reader sees of the line, leaves every other line as it was, keeps the row cache in order,
and changes nothing outside the memory, the row cache and what they count and report (R319, R333, R334, R339 to R343, R351); a
read that follows, and comes without poison, gives them. -/
def Obligations.RowCacheWritesChangeTheirBytes : Prop :=
  ∀ (s : State) (a : Nat) (data : List Byte) (h g : BitVec 2), CacheOk s → missOpen s (a / 64) = false → data ≠ [] →
    a % 64 + data.length ≤ 64 → memUp s (a / 64 * 64) = true →
      peekLine (writeLine s a data h false) (a / 64) = mergeBytes (peekLine s (a / 64)) (a % 64) data ∧
      (∀ y, y ≠ a / 64 → peekLine (writeLine s a data h false) y = peekLine s y) ∧
      CacheOk (writeLine s a data h false) ∧ memUndo s (writeLine s a data h false) = s ∧
      ((readLine (writeLine s a data h false) (a / 64) g).2.2 = false →
        (readLine (writeLine s a data h false) (a / 64) g).2.1 = mergeBytes (peekLine s (a / 64)) (a % 64) data)

/-- The decode of tier F (R296, R298 to R300): an address lies in a granule of 256 bytes on one pseudo-channel, at the channel
address of R296; NEAR, QUAD and SPREAD stripes give the pseudo-channel and the position in the band by their formulas, SPREAD
with the rotation computed from the stripe's seed; and under any stripe map and any seeds the decode is a bijection onto the
384 channels of 1 GiB, so that tier F has no holes and no aliases. -/
def Obligations.TierFDecodeIsABijection : Prop :=
  (∀ (s : State) (a i o : Nat), a < tierFEnd → i = a / 0x30000000 → o = a % 0x30000000 →
    chanAddr s a = i * 0x200000 + (decodeF s a).2 * 256 + a % 256 ∧ pchOf s a = (decodeF s a).1 ∧ (decodeF s a).2 ≤ 8191 ∧
    ((stripeOf s i).mode = 0 →
      decodeF s a = (8 * (o / 0x1000000) + ((o % 0x1000000) >>> 8) % 8, (o % 0x1000000) >>> 11)) ∧
    ((stripeOf s i).mode = 1 → ∀ u k : Nat, u = (o % 0xC000000) >>> 8 → k = u % 96 →
      decodeF s a = (8 * quadTile (o / 0xC000000) (k / 8) + k % 8, u / 96)) ∧
    ((stripeOf s i).mode = 2 → ∀ (lane r : Nat) (h g : W64), lane = (o >>> 8) % 384 → r = (o >>> 8) / 384 →
      h = ((BitVec.ofNat 64 i <<< 13 ||| BitVec.ofNat 64 r) ^^^ (stripeOf s i).seed) * 0xD6E8FEB86659FD93#64 →
      g = h ^^^ (h >>> 32) → decodeF s a = ((lane + g.toNat % 384) % 384, r))) ∧
  (∀ (s : State) (a : Nat), a < tierFEnd → pchOf s a < 384 ∧ chanAddr s a < 2 ^ 30) ∧
  (∀ (s : State) (a b : Nat), a < tierFEnd → b < tierFEnd → pchOf s a = pchOf s b → chanAddr s a = chanAddr s b → a = b) ∧
  (∀ (s : State) (p c : Nat), p < 384 → c < 2 ^ 30 → ∃ a, a < tierFEnd ∧ pchOf s a = p ∧ chanAddr s a = c)

/-- Statuses (R18): the record of a command reports its failure status if it has one, else OK_WITH_POISON, else
OK_WITH_DROPS, else OK; its counts are recorded whichever status is returned; and a command that fails keeps the failure status
that it already has, its counts and its drop and poison marks. -/
def Obligations.FailureStatusTakesPrecedence : Prop :=
  (∀ (c : Cmd) (f : BitVec 8), c.fail = some f → numAt (cmdRecord c) 8 1 = f.toNat) ∧
  (∀ c : Cmd, c.fail = none → c.poison = true → numAt (cmdRecord c) 8 1 = 0x02) ∧
  (∀ c : Cmd, c.fail = none → c.poison = false → c.drops = true → numAt (cmdRecord c) 8 1 = 0x01) ∧
  (∀ c : Cmd, c.fail = none → c.poison = false → c.drops = false → numAt (cmdRecord c) 8 1 = 0x00) ∧
  (∀ c : Cmd, (cmdRecord c).length = 32 ∧ numAt (cmdRecord c) 16 4 = c.cnt0 % 2 ^ 32 ∧
    numAt (cmdRecord c) 20 4 = c.cnt1 % 2 ^ 32 ∧ numAt (cmdRecord c) 24 8 = c.cnt2 % 2 ^ 64) ∧
  (∀ (s : State) (cid : Nat) (st : BitVec 8) (c : Cmd), cmdOf s cid = some c →
    cmdOf (failCmd s cid st) cid = some { c with phase := .done, fail := some (c.fail.getD st), ended := true } ∧
      ∀ d, d ≠ cid → cmdOf (failCmd s cid st) d = cmdOf s d)

/-- Identification (R2, R577): AIH_ID reads, to both masters and in every state, stepping 0x21 (B1), part 0xE048, 48 tiles,
6 HBM4 controllers, 8 companion ports and 48 transit links, with zeros above. -/
def Obligations.IdentificationRegisterReads : Prop :=
  ∀ (s : State) (mgmt : Bool), fld (regRead s mgmt 0) 0 8 = 0x21 ∧ fld (regRead s mgmt 0) 4 4 = 2 ∧
    fld (regRead s mgmt 0) 0 4 = 1 ∧ fld (regRead s mgmt 0) 8 16 = 0xE048 ∧ fld (regRead s mgmt 0) 24 8 = 48 ∧
    fld (regRead s mgmt 0) 32 4 = 6 ∧ fld (regRead s mgmt 0) 36 4 = 8 ∧ fld (regRead s mgmt 0) 40 6 = 48 ∧
    fld (regRead s mgmt 0) 46 18 = 0

/-- Quadrants (R20): each tile lies in exactly one quadrant, by its column and its row, and the twelve tiles of a quadrant
are enumerated in ascending tile number. -/
def Obligations.EachTileLiesInOneQuadrant : Prop :=
  (∀ t, t < 48 → (quadOf t = 0 ↔ t % 8 ≤ 3 ∧ t / 8 ≤ 2) ∧ (quadOf t = 1 ↔ 4 ≤ t % 8 ∧ t / 8 ≤ 2) ∧
    (quadOf t = 2 ↔ t % 8 ≤ 3 ∧ 3 ≤ t / 8) ∧ (quadOf t = 3 ↔ 4 ≤ t % 8 ∧ 3 ≤ t / 8) ∧ quadOf t < 4) ∧
  (∀ q k, q < 4 → k < 12 → quadTile q k < 48 ∧ quadOf (quadTile q k) = q) ∧
  (∀ q j k, q < 4 → j < k → k < 12 → quadTile q j < quadTile q k) ∧
  (∀ t, t < 48 → ∃ k, k < 12 ∧ quadTile (quadOf t) k = t)

/-- Structures in memory are little-endian (R8): the byte at the lowest address holds bits [7:0], bit n lies in bit
(n mod 8) of byte (n div 8), and reading the bytes back gives the value. -/
def Obligations.StructuresAreLittleEndian : Prop :=
  (∀ n v : Nat, (toBytes n v).length = n) ∧
  (∀ n v i : Nat, i < 8 * n → ((toBytes n v).getD (i / 8) 0).getLsbD (i % 8) = v.testBit i) ∧
  (∀ n v : Nat, ofBytes (toBytes n v) = v % 256 ^ n) ∧
  (∀ l : List Byte, toBytes l.length (ofBytes l) = l)

end
end

