-- ==== Sys2Proof/Laws/Map.lean ====
section
/-! SUPPORT. Laws of the finite maps and of the list helpers. -/

namespace Sys2Proof.Machine

theorem mget?_mset_self {α : Type} (m : FMap α) (n : Nat) (v : α) : mget? (mset m n v) n = some v := by
  induction m with
  | nil => simp [mset, mget?]
  | cons e m ih =>
    obtain ⟨k, w⟩ := e
    simp only [mset]
    split
    · simp [mget?]
    · split <;> simp_all [mget?]

theorem mget?_mset_ne {α : Type} (m : FMap α) (n a : Nat) (v : α) (h : a ≠ n) :
    mget? (mset m n v) a = mget? m a := by
  induction m with
  | nil => simp [mset, mget?, Ne.symm h]
  | cons e m ih =>
    obtain ⟨k, w⟩ := e
    simp only [mset]
    split
    · subst_vars; simp [mget?, Ne.symm h]
    · split
      · simp [mget?, Ne.symm h]
      · simp [mget?, ih]

@[simp] theorem mget_mset_self {α : Type} (m : FMap α) (n : Nat) (v d : α) : mget (mset m n v) n d = v := by
  simp [mget, mget?_mset_self]

theorem mget_mset_ne {α : Type} (m : FMap α) (n a : Nat) (v d : α) (h : a ≠ n) :
    mget (mset m n v) a d = mget m a d := by
  simp [mget, mget?_mset_ne m n a v h]

@[simp] theorem mget_nil {α : Type} (n : Nat) (d : α) : mget ([] : FMap α) n d = d := rfl

/-- Setting keeps the numbers strictly rising. -/
theorem mwf_mset {α : Type} (m : FMap α) (n : Nat) (v : α) (h : mwf m = true) : mwf (mset m n v) = true := by
  induction m with
  | nil => simp [mset, mwf]
  | cons e m ih =>
    obtain ⟨k, w⟩ := e
    simp only [mset]
    split
    · subst_vars
      cases m with
      | nil => simp [mwf]
      | cons e' m' => obtain ⟨k', w'⟩ := e'; simpa [mwf] using h
    · split
      · simp only [mwf, Bool.and_eq_true, decide_eq_true_eq]; exact ⟨by assumption, h⟩
      · cases m with
        | nil => simp [mset, mwf]; omega
        | cons e' m' =>
          obtain ⟨k', w'⟩ := e'
          simp only [mwf, Bool.and_eq_true, decide_eq_true_eq] at h
          have ih' := ih h.2
          simp only [mset] at ih' ⊢
          split
          · simp_all [mwf]
          · split
            · simp_all [mwf]; omega
            · simp_all [mwf]

@[simp] theorem toBytes_length (n v : Nat) : (toBytes n v).length = n := by
  induction n generalizing v with
  | zero => rfl
  | succ n ih => simp [toBytes, ih]

/-- Little-endian bytes give the number back (R8). -/
theorem ofBytes_toBytes (n v : Nat) (h : v < 256 ^ n) : ofBytes (toBytes n v) = v := by
  induction n generalizing v with
  | zero => simp [toBytes, ofBytes] at *; omega
  | succ n ih =>
    have h2 : v / 256 < 256 ^ n := by
      rw [Nat.div_lt_iff_lt_mul (by norm_num)]; simpa [pow_succ] using h
    simp only [toBytes, ofBytes, ih _ h2, BitVec.toNat_ofNat]
    omega

@[simp] theorem bytesAt_length (l : List Byte) (off n : Nat) : (bytesAt l off n).length = n := by
  simp [bytesAt]

end Sys2Proof.Machine
end

