-- ==== Sys2Proof/Laws/State.lean ====
section
/-! SUPPORT. What each named update of State leaves as it was: one lemma for each field, true by computation, so that
no proof unfolds a record update. -/

namespace Sys2Proof.Machine

variable (s : State)

/-! ### bump changes `ctrs` -/

@[simp] theorem bump_pending (k n : Nat) : (bump s k n).pending = s.pending := rfl
@[simp] theorem bump_pwr (k n : Nat) : (bump s k n).pwr = s.pwr := rfl
@[simp] theorem bump_err (k n : Nat) : (bump s k n).err = s.err := rfl
@[simp] theorem bump_mer (k n : Nat) : (bump s k n).mer = s.mer := rfl
@[simp] theorem bump_chans (k n : Nat) : (bump s k n).chans = s.chans := rfl
@[simp] theorem bump_evt (k n : Nat) : (bump s k n).evt = s.evt := rfl
@[simp] theorem bump_msix (k n : Nat) : (bump s k n).msix = s.msix := rfl
@[simp] theorem bump_scratchHost (k n : Nat) : (bump s k n).scratchHost = s.scratchHost := rfl
@[simp] theorem bump_scratchMgmt (k n : Nat) : (bump s k n).scratchMgmt = s.scratchMgmt := rfl
@[simp] theorem bump_tabs (k n : Nat) : (bump s k n).tabs = s.tabs := rfl
@[simp] theorem bump_mem (k n : Nat) : (bump s k n).mem = s.mem := rfl
@[simp] theorem bump_mc (k n : Nat) : (bump s k n).mc = s.mc := rfl
@[simp] theorem bump_rc (k n : Nat) : (bump s k n).rc = s.rc := rfl
@[simp] theorem bump_alm (k n : Nat) : (bump s k n).alm = s.alm := rfl
@[simp] theorem bump_xlt (k n : Nat) : (bump s k n).xlt = s.xlt := rfl
@[simp] theorem bump_str (k n : Nat) : (bump s k n).str = s.str := rfl
@[simp] theorem bump_hp (k n : Nat) : (bump s k n).hp = s.hp := rfl
@[simp] theorem bump_tr (k n : Nat) : (bump s k n).tr = s.tr := rfl
@[simp] theorem bump_orr (k n : Nat) : (bump s k n).orr = s.orr := rfl
@[simp] theorem bump_tiles (k n : Nat) : (bump s k n).tiles = s.tiles := rfl
@[simp] theorem bump_got (k n : Nat) : (bump s k n).got = s.got := rfl
@[simp] theorem bump_sc (k n : Nat) : (bump s k n).sc = s.sc := rfl
@[simp] theorem bump_ly (k n : Nat) : (bump s k n).ly = s.ly := rfl
@[simp] theorem bump_load (k n : Nat) : (bump s k n).load = s.load := rfl
@[simp] theorem bump_draws (k n : Nat) : (bump s k n).draws = s.draws := rfl
@[simp] theorem bump_frees (k n : Nat) : (bump s k n).frees = s.frees := rfl
@[simp] theorem bump_aclk (k n : Nat) : (bump s k n).aclk = s.aclk := rfl
@[simp] theorem bump_aclk0 (k n : Nat) : (bump s k n).aclk0 = s.aclk0 := rfl
@[simp] theorem bump_ctrBase (k n : Nat) : (bump s k n).ctrBase = s.ctrBase := rfl

/-! ### bump1 changes `ctrs` -/

@[simp] theorem bump1_pending (k : Nat) : (bump1 s k).pending = s.pending := rfl
@[simp] theorem bump1_pwr (k : Nat) : (bump1 s k).pwr = s.pwr := rfl
@[simp] theorem bump1_err (k : Nat) : (bump1 s k).err = s.err := rfl
@[simp] theorem bump1_mer (k : Nat) : (bump1 s k).mer = s.mer := rfl
@[simp] theorem bump1_chans (k : Nat) : (bump1 s k).chans = s.chans := rfl
@[simp] theorem bump1_evt (k : Nat) : (bump1 s k).evt = s.evt := rfl
@[simp] theorem bump1_msix (k : Nat) : (bump1 s k).msix = s.msix := rfl
@[simp] theorem bump1_scratchHost (k : Nat) : (bump1 s k).scratchHost = s.scratchHost := rfl
@[simp] theorem bump1_scratchMgmt (k : Nat) : (bump1 s k).scratchMgmt = s.scratchMgmt := rfl
@[simp] theorem bump1_tabs (k : Nat) : (bump1 s k).tabs = s.tabs := rfl
@[simp] theorem bump1_mem (k : Nat) : (bump1 s k).mem = s.mem := rfl
@[simp] theorem bump1_mc (k : Nat) : (bump1 s k).mc = s.mc := rfl
@[simp] theorem bump1_rc (k : Nat) : (bump1 s k).rc = s.rc := rfl
@[simp] theorem bump1_alm (k : Nat) : (bump1 s k).alm = s.alm := rfl
@[simp] theorem bump1_xlt (k : Nat) : (bump1 s k).xlt = s.xlt := rfl
@[simp] theorem bump1_str (k : Nat) : (bump1 s k).str = s.str := rfl
@[simp] theorem bump1_hp (k : Nat) : (bump1 s k).hp = s.hp := rfl
@[simp] theorem bump1_tr (k : Nat) : (bump1 s k).tr = s.tr := rfl
@[simp] theorem bump1_orr (k : Nat) : (bump1 s k).orr = s.orr := rfl
@[simp] theorem bump1_tiles (k : Nat) : (bump1 s k).tiles = s.tiles := rfl
@[simp] theorem bump1_got (k : Nat) : (bump1 s k).got = s.got := rfl
@[simp] theorem bump1_sc (k : Nat) : (bump1 s k).sc = s.sc := rfl
@[simp] theorem bump1_ly (k : Nat) : (bump1 s k).ly = s.ly := rfl
@[simp] theorem bump1_load (k : Nat) : (bump1 s k).load = s.load := rfl
@[simp] theorem bump1_draws (k : Nat) : (bump1 s k).draws = s.draws := rfl
@[simp] theorem bump1_frees (k : Nat) : (bump1 s k).frees = s.frees := rfl
@[simp] theorem bump1_aclk (k : Nat) : (bump1 s k).aclk = s.aclk := rfl
@[simp] theorem bump1_aclk0 (k : Nat) : (bump1 s k).aclk0 = s.aclk0 := rfl
@[simp] theorem bump1_ctrBase (k : Nat) : (bump1 s k).ctrBase = s.ctrBase := rfl

/-! ### bumpProg changes `ctrs` -/

@[simp] theorem bumpProg_pending (k n : Nat) : (bumpProg s k n).pending = s.pending := rfl
@[simp] theorem bumpProg_pwr (k n : Nat) : (bumpProg s k n).pwr = s.pwr := rfl
@[simp] theorem bumpProg_err (k n : Nat) : (bumpProg s k n).err = s.err := rfl
@[simp] theorem bumpProg_mer (k n : Nat) : (bumpProg s k n).mer = s.mer := rfl
@[simp] theorem bumpProg_chans (k n : Nat) : (bumpProg s k n).chans = s.chans := rfl
@[simp] theorem bumpProg_evt (k n : Nat) : (bumpProg s k n).evt = s.evt := rfl
@[simp] theorem bumpProg_msix (k n : Nat) : (bumpProg s k n).msix = s.msix := rfl
@[simp] theorem bumpProg_scratchHost (k n : Nat) : (bumpProg s k n).scratchHost = s.scratchHost := rfl
@[simp] theorem bumpProg_scratchMgmt (k n : Nat) : (bumpProg s k n).scratchMgmt = s.scratchMgmt := rfl
@[simp] theorem bumpProg_tabs (k n : Nat) : (bumpProg s k n).tabs = s.tabs := rfl
@[simp] theorem bumpProg_mem (k n : Nat) : (bumpProg s k n).mem = s.mem := rfl
@[simp] theorem bumpProg_mc (k n : Nat) : (bumpProg s k n).mc = s.mc := rfl
@[simp] theorem bumpProg_rc (k n : Nat) : (bumpProg s k n).rc = s.rc := rfl
@[simp] theorem bumpProg_alm (k n : Nat) : (bumpProg s k n).alm = s.alm := rfl
@[simp] theorem bumpProg_xlt (k n : Nat) : (bumpProg s k n).xlt = s.xlt := rfl
@[simp] theorem bumpProg_str (k n : Nat) : (bumpProg s k n).str = s.str := rfl
@[simp] theorem bumpProg_hp (k n : Nat) : (bumpProg s k n).hp = s.hp := rfl
@[simp] theorem bumpProg_tr (k n : Nat) : (bumpProg s k n).tr = s.tr := rfl
@[simp] theorem bumpProg_orr (k n : Nat) : (bumpProg s k n).orr = s.orr := rfl
@[simp] theorem bumpProg_tiles (k n : Nat) : (bumpProg s k n).tiles = s.tiles := rfl
@[simp] theorem bumpProg_got (k n : Nat) : (bumpProg s k n).got = s.got := rfl
@[simp] theorem bumpProg_sc (k n : Nat) : (bumpProg s k n).sc = s.sc := rfl
@[simp] theorem bumpProg_ly (k n : Nat) : (bumpProg s k n).ly = s.ly := rfl
@[simp] theorem bumpProg_load (k n : Nat) : (bumpProg s k n).load = s.load := rfl
@[simp] theorem bumpProg_draws (k n : Nat) : (bumpProg s k n).draws = s.draws := rfl
@[simp] theorem bumpProg_frees (k n : Nat) : (bumpProg s k n).frees = s.frees := rfl
@[simp] theorem bumpProg_aclk (k n : Nat) : (bumpProg s k n).aclk = s.aclk := rfl
@[simp] theorem bumpProg_aclk0 (k n : Nat) : (bumpProg s k n).aclk0 = s.aclk0 := rfl
@[simp] theorem bumpProg_ctrBase (k n : Nat) : (bumpProg s k n).ctrBase = s.ctrBase := rfl

/-! ### hold changes `pwr` -/

@[simp] theorem hold_pending (h : Held) : (hold s h).pending = s.pending := rfl
@[simp] theorem hold_err (h : Held) : (hold s h).err = s.err := rfl
@[simp] theorem hold_mer (h : Held) : (hold s h).mer = s.mer := rfl
@[simp] theorem hold_chans (h : Held) : (hold s h).chans = s.chans := rfl
@[simp] theorem hold_evt (h : Held) : (hold s h).evt = s.evt := rfl
@[simp] theorem hold_msix (h : Held) : (hold s h).msix = s.msix := rfl
@[simp] theorem hold_scratchHost (h : Held) : (hold s h).scratchHost = s.scratchHost := rfl
@[simp] theorem hold_scratchMgmt (h : Held) : (hold s h).scratchMgmt = s.scratchMgmt := rfl
@[simp] theorem hold_ctrs (h : Held) : (hold s h).ctrs = s.ctrs := rfl
@[simp] theorem hold_tabs (h : Held) : (hold s h).tabs = s.tabs := rfl
@[simp] theorem hold_mem (h : Held) : (hold s h).mem = s.mem := rfl
@[simp] theorem hold_mc (h : Held) : (hold s h).mc = s.mc := rfl
@[simp] theorem hold_rc (h : Held) : (hold s h).rc = s.rc := rfl
@[simp] theorem hold_alm (h : Held) : (hold s h).alm = s.alm := rfl
@[simp] theorem hold_xlt (h : Held) : (hold s h).xlt = s.xlt := rfl
@[simp] theorem hold_str (h : Held) : (hold s h).str = s.str := rfl
@[simp] theorem hold_hp (h : Held) : (hold s h).hp = s.hp := rfl
@[simp] theorem hold_tr (h : Held) : (hold s h).tr = s.tr := rfl
@[simp] theorem hold_orr (h : Held) : (hold s h).orr = s.orr := rfl
@[simp] theorem hold_tiles (h : Held) : (hold s h).tiles = s.tiles := rfl
@[simp] theorem hold_got (h : Held) : (hold s h).got = s.got := rfl
@[simp] theorem hold_sc (h : Held) : (hold s h).sc = s.sc := rfl
@[simp] theorem hold_ly (h : Held) : (hold s h).ly = s.ly := rfl
@[simp] theorem hold_load (h : Held) : (hold s h).load = s.load := rfl
@[simp] theorem hold_draws (h : Held) : (hold s h).draws = s.draws := rfl
@[simp] theorem hold_frees (h : Held) : (hold s h).frees = s.frees := rfl
@[simp] theorem hold_aclk (h : Held) : (hold s h).aclk = s.aclk := rfl
@[simp] theorem hold_aclk0 (h : Held) : (hold s h).aclk0 = s.aclk0 := rfl
@[simp] theorem hold_ctrBase (h : Held) : (hold s h).ctrBase = s.ctrBase := rfl

/-! ### setLine changes `rc` -/

@[simp] theorem setLine_pending (k : Nat) (l : CLine) : (setLine s k l).pending = s.pending := rfl
@[simp] theorem setLine_pwr (k : Nat) (l : CLine) : (setLine s k l).pwr = s.pwr := rfl
@[simp] theorem setLine_err (k : Nat) (l : CLine) : (setLine s k l).err = s.err := rfl
@[simp] theorem setLine_mer (k : Nat) (l : CLine) : (setLine s k l).mer = s.mer := rfl
@[simp] theorem setLine_chans (k : Nat) (l : CLine) : (setLine s k l).chans = s.chans := rfl
@[simp] theorem setLine_evt (k : Nat) (l : CLine) : (setLine s k l).evt = s.evt := rfl
@[simp] theorem setLine_msix (k : Nat) (l : CLine) : (setLine s k l).msix = s.msix := rfl
@[simp] theorem setLine_scratchHost (k : Nat) (l : CLine) : (setLine s k l).scratchHost = s.scratchHost := rfl
@[simp] theorem setLine_scratchMgmt (k : Nat) (l : CLine) : (setLine s k l).scratchMgmt = s.scratchMgmt := rfl
@[simp] theorem setLine_ctrs (k : Nat) (l : CLine) : (setLine s k l).ctrs = s.ctrs := rfl
@[simp] theorem setLine_tabs (k : Nat) (l : CLine) : (setLine s k l).tabs = s.tabs := rfl
@[simp] theorem setLine_mem (k : Nat) (l : CLine) : (setLine s k l).mem = s.mem := rfl
@[simp] theorem setLine_mc (k : Nat) (l : CLine) : (setLine s k l).mc = s.mc := rfl
@[simp] theorem setLine_alm (k : Nat) (l : CLine) : (setLine s k l).alm = s.alm := rfl
@[simp] theorem setLine_xlt (k : Nat) (l : CLine) : (setLine s k l).xlt = s.xlt := rfl
@[simp] theorem setLine_str (k : Nat) (l : CLine) : (setLine s k l).str = s.str := rfl
@[simp] theorem setLine_hp (k : Nat) (l : CLine) : (setLine s k l).hp = s.hp := rfl
@[simp] theorem setLine_tr (k : Nat) (l : CLine) : (setLine s k l).tr = s.tr := rfl
@[simp] theorem setLine_orr (k : Nat) (l : CLine) : (setLine s k l).orr = s.orr := rfl
@[simp] theorem setLine_tiles (k : Nat) (l : CLine) : (setLine s k l).tiles = s.tiles := rfl
@[simp] theorem setLine_got (k : Nat) (l : CLine) : (setLine s k l).got = s.got := rfl
@[simp] theorem setLine_sc (k : Nat) (l : CLine) : (setLine s k l).sc = s.sc := rfl
@[simp] theorem setLine_ly (k : Nat) (l : CLine) : (setLine s k l).ly = s.ly := rfl
@[simp] theorem setLine_load (k : Nat) (l : CLine) : (setLine s k l).load = s.load := rfl
@[simp] theorem setLine_draws (k : Nat) (l : CLine) : (setLine s k l).draws = s.draws := rfl
@[simp] theorem setLine_frees (k : Nat) (l : CLine) : (setLine s k l).frees = s.frees := rfl
@[simp] theorem setLine_aclk (k : Nat) (l : CLine) : (setLine s k l).aclk = s.aclk := rfl
@[simp] theorem setLine_aclk0 (k : Nat) (l : CLine) : (setLine s k l).aclk0 = s.aclk0 := rfl
@[simp] theorem setLine_ctrBase (k : Nat) (l : CLine) : (setLine s k l).ctrBase = s.ctrBase := rfl

/-! ### dropLine changes `rc` -/

@[simp] theorem dropLine_pending (k : Nat) : (dropLine s k).pending = s.pending := rfl
@[simp] theorem dropLine_pwr (k : Nat) : (dropLine s k).pwr = s.pwr := rfl
@[simp] theorem dropLine_err (k : Nat) : (dropLine s k).err = s.err := rfl
@[simp] theorem dropLine_mer (k : Nat) : (dropLine s k).mer = s.mer := rfl
@[simp] theorem dropLine_chans (k : Nat) : (dropLine s k).chans = s.chans := rfl
@[simp] theorem dropLine_evt (k : Nat) : (dropLine s k).evt = s.evt := rfl
@[simp] theorem dropLine_msix (k : Nat) : (dropLine s k).msix = s.msix := rfl
@[simp] theorem dropLine_scratchHost (k : Nat) : (dropLine s k).scratchHost = s.scratchHost := rfl
@[simp] theorem dropLine_scratchMgmt (k : Nat) : (dropLine s k).scratchMgmt = s.scratchMgmt := rfl
@[simp] theorem dropLine_ctrs (k : Nat) : (dropLine s k).ctrs = s.ctrs := rfl
@[simp] theorem dropLine_tabs (k : Nat) : (dropLine s k).tabs = s.tabs := rfl
@[simp] theorem dropLine_mem (k : Nat) : (dropLine s k).mem = s.mem := rfl
@[simp] theorem dropLine_mc (k : Nat) : (dropLine s k).mc = s.mc := rfl
@[simp] theorem dropLine_alm (k : Nat) : (dropLine s k).alm = s.alm := rfl
@[simp] theorem dropLine_xlt (k : Nat) : (dropLine s k).xlt = s.xlt := rfl
@[simp] theorem dropLine_str (k : Nat) : (dropLine s k).str = s.str := rfl
@[simp] theorem dropLine_hp (k : Nat) : (dropLine s k).hp = s.hp := rfl
@[simp] theorem dropLine_tr (k : Nat) : (dropLine s k).tr = s.tr := rfl
@[simp] theorem dropLine_orr (k : Nat) : (dropLine s k).orr = s.orr := rfl
@[simp] theorem dropLine_tiles (k : Nat) : (dropLine s k).tiles = s.tiles := rfl
@[simp] theorem dropLine_got (k : Nat) : (dropLine s k).got = s.got := rfl
@[simp] theorem dropLine_sc (k : Nat) : (dropLine s k).sc = s.sc := rfl
@[simp] theorem dropLine_ly (k : Nat) : (dropLine s k).ly = s.ly := rfl
@[simp] theorem dropLine_load (k : Nat) : (dropLine s k).load = s.load := rfl
@[simp] theorem dropLine_draws (k : Nat) : (dropLine s k).draws = s.draws := rfl
@[simp] theorem dropLine_frees (k : Nat) : (dropLine s k).frees = s.frees := rfl
@[simp] theorem dropLine_aclk (k : Nat) : (dropLine s k).aclk = s.aclk := rfl
@[simp] theorem dropLine_aclk0 (k : Nat) : (dropLine s k).aclk0 = s.aclk0 := rfl
@[simp] theorem dropLine_ctrBase (k : Nat) : (dropLine s k).ctrBase = s.ctrBase := rfl

/-! ### touchWay changes `rc` -/

@[simp] theorem touchWay_pending (a b w : Nat) : (touchWay s a b w).pending = s.pending := rfl
@[simp] theorem touchWay_pwr (a b w : Nat) : (touchWay s a b w).pwr = s.pwr := rfl
@[simp] theorem touchWay_err (a b w : Nat) : (touchWay s a b w).err = s.err := rfl
@[simp] theorem touchWay_mer (a b w : Nat) : (touchWay s a b w).mer = s.mer := rfl
@[simp] theorem touchWay_chans (a b w : Nat) : (touchWay s a b w).chans = s.chans := rfl
@[simp] theorem touchWay_evt (a b w : Nat) : (touchWay s a b w).evt = s.evt := rfl
@[simp] theorem touchWay_msix (a b w : Nat) : (touchWay s a b w).msix = s.msix := rfl
@[simp] theorem touchWay_scratchHost (a b w : Nat) : (touchWay s a b w).scratchHost = s.scratchHost := rfl
@[simp] theorem touchWay_scratchMgmt (a b w : Nat) : (touchWay s a b w).scratchMgmt = s.scratchMgmt := rfl
@[simp] theorem touchWay_ctrs (a b w : Nat) : (touchWay s a b w).ctrs = s.ctrs := rfl
@[simp] theorem touchWay_tabs (a b w : Nat) : (touchWay s a b w).tabs = s.tabs := rfl
@[simp] theorem touchWay_mem (a b w : Nat) : (touchWay s a b w).mem = s.mem := rfl
@[simp] theorem touchWay_mc (a b w : Nat) : (touchWay s a b w).mc = s.mc := rfl
@[simp] theorem touchWay_alm (a b w : Nat) : (touchWay s a b w).alm = s.alm := rfl
@[simp] theorem touchWay_xlt (a b w : Nat) : (touchWay s a b w).xlt = s.xlt := rfl
@[simp] theorem touchWay_str (a b w : Nat) : (touchWay s a b w).str = s.str := rfl
@[simp] theorem touchWay_hp (a b w : Nat) : (touchWay s a b w).hp = s.hp := rfl
@[simp] theorem touchWay_tr (a b w : Nat) : (touchWay s a b w).tr = s.tr := rfl
@[simp] theorem touchWay_orr (a b w : Nat) : (touchWay s a b w).orr = s.orr := rfl
@[simp] theorem touchWay_tiles (a b w : Nat) : (touchWay s a b w).tiles = s.tiles := rfl
@[simp] theorem touchWay_got (a b w : Nat) : (touchWay s a b w).got = s.got := rfl
@[simp] theorem touchWay_sc (a b w : Nat) : (touchWay s a b w).sc = s.sc := rfl
@[simp] theorem touchWay_ly (a b w : Nat) : (touchWay s a b w).ly = s.ly := rfl
@[simp] theorem touchWay_load (a b w : Nat) : (touchWay s a b w).load = s.load := rfl
@[simp] theorem touchWay_draws (a b w : Nat) : (touchWay s a b w).draws = s.draws := rfl
@[simp] theorem touchWay_frees (a b w : Nat) : (touchWay s a b w).frees = s.frees := rfl
@[simp] theorem touchWay_aclk (a b w : Nat) : (touchWay s a b w).aclk = s.aclk := rfl
@[simp] theorem touchWay_aclk0 (a b w : Nat) : (touchWay s a b w).aclk0 = s.aclk0 := rfl
@[simp] theorem touchWay_ctrBase (a b w : Nat) : (touchWay s a b w).ctrBase = s.ctrBase := rfl

/-! ### dropGot changes `got` -/

@[simp] theorem dropGot_pending (w : Who) : (dropGot s w).pending = s.pending := rfl
@[simp] theorem dropGot_pwr (w : Who) : (dropGot s w).pwr = s.pwr := rfl
@[simp] theorem dropGot_err (w : Who) : (dropGot s w).err = s.err := rfl
@[simp] theorem dropGot_mer (w : Who) : (dropGot s w).mer = s.mer := rfl
@[simp] theorem dropGot_chans (w : Who) : (dropGot s w).chans = s.chans := rfl
@[simp] theorem dropGot_evt (w : Who) : (dropGot s w).evt = s.evt := rfl
@[simp] theorem dropGot_msix (w : Who) : (dropGot s w).msix = s.msix := rfl
@[simp] theorem dropGot_scratchHost (w : Who) : (dropGot s w).scratchHost = s.scratchHost := rfl
@[simp] theorem dropGot_scratchMgmt (w : Who) : (dropGot s w).scratchMgmt = s.scratchMgmt := rfl
@[simp] theorem dropGot_ctrs (w : Who) : (dropGot s w).ctrs = s.ctrs := rfl
@[simp] theorem dropGot_tabs (w : Who) : (dropGot s w).tabs = s.tabs := rfl
@[simp] theorem dropGot_mem (w : Who) : (dropGot s w).mem = s.mem := rfl
@[simp] theorem dropGot_mc (w : Who) : (dropGot s w).mc = s.mc := rfl
@[simp] theorem dropGot_rc (w : Who) : (dropGot s w).rc = s.rc := rfl
@[simp] theorem dropGot_alm (w : Who) : (dropGot s w).alm = s.alm := rfl
@[simp] theorem dropGot_xlt (w : Who) : (dropGot s w).xlt = s.xlt := rfl
@[simp] theorem dropGot_str (w : Who) : (dropGot s w).str = s.str := rfl
@[simp] theorem dropGot_hp (w : Who) : (dropGot s w).hp = s.hp := rfl
@[simp] theorem dropGot_tr (w : Who) : (dropGot s w).tr = s.tr := rfl
@[simp] theorem dropGot_orr (w : Who) : (dropGot s w).orr = s.orr := rfl
@[simp] theorem dropGot_tiles (w : Who) : (dropGot s w).tiles = s.tiles := rfl
@[simp] theorem dropGot_sc (w : Who) : (dropGot s w).sc = s.sc := rfl
@[simp] theorem dropGot_ly (w : Who) : (dropGot s w).ly = s.ly := rfl
@[simp] theorem dropGot_load (w : Who) : (dropGot s w).load = s.load := rfl
@[simp] theorem dropGot_draws (w : Who) : (dropGot s w).draws = s.draws := rfl
@[simp] theorem dropGot_frees (w : Who) : (dropGot s w).frees = s.frees := rfl
@[simp] theorem dropGot_aclk (w : Who) : (dropGot s w).aclk = s.aclk := rfl
@[simp] theorem dropGot_aclk0 (w : Who) : (dropGot s w).aclk0 = s.aclk0 := rfl
@[simp] theorem dropGot_ctrBase (w : Who) : (dropGot s w).ctrBase = s.ctrBase := rfl

/-! ### setLy changes `ly` -/

@[simp] theorem setLy_pending (k : Nat) (l : Lyush) : (setLy s k l).pending = s.pending := rfl
@[simp] theorem setLy_pwr (k : Nat) (l : Lyush) : (setLy s k l).pwr = s.pwr := rfl
@[simp] theorem setLy_err (k : Nat) (l : Lyush) : (setLy s k l).err = s.err := rfl
@[simp] theorem setLy_mer (k : Nat) (l : Lyush) : (setLy s k l).mer = s.mer := rfl
@[simp] theorem setLy_chans (k : Nat) (l : Lyush) : (setLy s k l).chans = s.chans := rfl
@[simp] theorem setLy_evt (k : Nat) (l : Lyush) : (setLy s k l).evt = s.evt := rfl
@[simp] theorem setLy_msix (k : Nat) (l : Lyush) : (setLy s k l).msix = s.msix := rfl
@[simp] theorem setLy_scratchHost (k : Nat) (l : Lyush) : (setLy s k l).scratchHost = s.scratchHost := rfl
@[simp] theorem setLy_scratchMgmt (k : Nat) (l : Lyush) : (setLy s k l).scratchMgmt = s.scratchMgmt := rfl
@[simp] theorem setLy_ctrs (k : Nat) (l : Lyush) : (setLy s k l).ctrs = s.ctrs := rfl
@[simp] theorem setLy_tabs (k : Nat) (l : Lyush) : (setLy s k l).tabs = s.tabs := rfl
@[simp] theorem setLy_mem (k : Nat) (l : Lyush) : (setLy s k l).mem = s.mem := rfl
@[simp] theorem setLy_mc (k : Nat) (l : Lyush) : (setLy s k l).mc = s.mc := rfl
@[simp] theorem setLy_rc (k : Nat) (l : Lyush) : (setLy s k l).rc = s.rc := rfl
@[simp] theorem setLy_alm (k : Nat) (l : Lyush) : (setLy s k l).alm = s.alm := rfl
@[simp] theorem setLy_xlt (k : Nat) (l : Lyush) : (setLy s k l).xlt = s.xlt := rfl
@[simp] theorem setLy_str (k : Nat) (l : Lyush) : (setLy s k l).str = s.str := rfl
@[simp] theorem setLy_hp (k : Nat) (l : Lyush) : (setLy s k l).hp = s.hp := rfl
@[simp] theorem setLy_tr (k : Nat) (l : Lyush) : (setLy s k l).tr = s.tr := rfl
@[simp] theorem setLy_orr (k : Nat) (l : Lyush) : (setLy s k l).orr = s.orr := rfl
@[simp] theorem setLy_tiles (k : Nat) (l : Lyush) : (setLy s k l).tiles = s.tiles := rfl
@[simp] theorem setLy_got (k : Nat) (l : Lyush) : (setLy s k l).got = s.got := rfl
@[simp] theorem setLy_sc (k : Nat) (l : Lyush) : (setLy s k l).sc = s.sc := rfl
@[simp] theorem setLy_load (k : Nat) (l : Lyush) : (setLy s k l).load = s.load := rfl
@[simp] theorem setLy_draws (k : Nat) (l : Lyush) : (setLy s k l).draws = s.draws := rfl
@[simp] theorem setLy_frees (k : Nat) (l : Lyush) : (setLy s k l).frees = s.frees := rfl
@[simp] theorem setLy_aclk (k : Nat) (l : Lyush) : (setLy s k l).aclk = s.aclk := rfl
@[simp] theorem setLy_aclk0 (k : Nat) (l : Lyush) : (setLy s k l).aclk0 = s.aclk0 := rfl
@[simp] theorem setLy_ctrBase (k : Nat) (l : Lyush) : (setLy s k l).ctrBase = s.ctrBase := rfl

/-! ### setChan changes `chans` -/

@[simp] theorem setChan_pending (c : Nat) (x : Chan) : (setChan s c x).pending = s.pending := rfl
@[simp] theorem setChan_pwr (c : Nat) (x : Chan) : (setChan s c x).pwr = s.pwr := rfl
@[simp] theorem setChan_err (c : Nat) (x : Chan) : (setChan s c x).err = s.err := rfl
@[simp] theorem setChan_mer (c : Nat) (x : Chan) : (setChan s c x).mer = s.mer := rfl
@[simp] theorem setChan_evt (c : Nat) (x : Chan) : (setChan s c x).evt = s.evt := rfl
@[simp] theorem setChan_msix (c : Nat) (x : Chan) : (setChan s c x).msix = s.msix := rfl
@[simp] theorem setChan_scratchHost (c : Nat) (x : Chan) : (setChan s c x).scratchHost = s.scratchHost := rfl
@[simp] theorem setChan_scratchMgmt (c : Nat) (x : Chan) : (setChan s c x).scratchMgmt = s.scratchMgmt := rfl
@[simp] theorem setChan_ctrs (c : Nat) (x : Chan) : (setChan s c x).ctrs = s.ctrs := rfl
@[simp] theorem setChan_tabs (c : Nat) (x : Chan) : (setChan s c x).tabs = s.tabs := rfl
@[simp] theorem setChan_mem (c : Nat) (x : Chan) : (setChan s c x).mem = s.mem := rfl
@[simp] theorem setChan_mc (c : Nat) (x : Chan) : (setChan s c x).mc = s.mc := rfl
@[simp] theorem setChan_rc (c : Nat) (x : Chan) : (setChan s c x).rc = s.rc := rfl
@[simp] theorem setChan_alm (c : Nat) (x : Chan) : (setChan s c x).alm = s.alm := rfl
@[simp] theorem setChan_xlt (c : Nat) (x : Chan) : (setChan s c x).xlt = s.xlt := rfl
@[simp] theorem setChan_str (c : Nat) (x : Chan) : (setChan s c x).str = s.str := rfl
@[simp] theorem setChan_hp (c : Nat) (x : Chan) : (setChan s c x).hp = s.hp := rfl
@[simp] theorem setChan_tr (c : Nat) (x : Chan) : (setChan s c x).tr = s.tr := rfl
@[simp] theorem setChan_orr (c : Nat) (x : Chan) : (setChan s c x).orr = s.orr := rfl
@[simp] theorem setChan_tiles (c : Nat) (x : Chan) : (setChan s c x).tiles = s.tiles := rfl
@[simp] theorem setChan_got (c : Nat) (x : Chan) : (setChan s c x).got = s.got := rfl
@[simp] theorem setChan_sc (c : Nat) (x : Chan) : (setChan s c x).sc = s.sc := rfl
@[simp] theorem setChan_ly (c : Nat) (x : Chan) : (setChan s c x).ly = s.ly := rfl
@[simp] theorem setChan_load (c : Nat) (x : Chan) : (setChan s c x).load = s.load := rfl
@[simp] theorem setChan_draws (c : Nat) (x : Chan) : (setChan s c x).draws = s.draws := rfl
@[simp] theorem setChan_frees (c : Nat) (x : Chan) : (setChan s c x).frees = s.frees := rfl
@[simp] theorem setChan_aclk (c : Nat) (x : Chan) : (setChan s c x).aclk = s.aclk := rfl
@[simp] theorem setChan_aclk0 (c : Nat) (x : Chan) : (setChan s c x).aclk0 = s.aclk0 := rfl
@[simp] theorem setChan_ctrBase (c : Nat) (x : Chan) : (setChan s c x).ctrBase = s.ctrBase := rfl

/-! ### mbAck changes `chans` -/

@[simp] theorem mbAck_pending (c : Nat) : (mbAck s c).pending = s.pending := rfl
@[simp] theorem mbAck_pwr (c : Nat) : (mbAck s c).pwr = s.pwr := rfl
@[simp] theorem mbAck_err (c : Nat) : (mbAck s c).err = s.err := rfl
@[simp] theorem mbAck_mer (c : Nat) : (mbAck s c).mer = s.mer := rfl
@[simp] theorem mbAck_evt (c : Nat) : (mbAck s c).evt = s.evt := rfl
@[simp] theorem mbAck_msix (c : Nat) : (mbAck s c).msix = s.msix := rfl
@[simp] theorem mbAck_scratchHost (c : Nat) : (mbAck s c).scratchHost = s.scratchHost := rfl
@[simp] theorem mbAck_scratchMgmt (c : Nat) : (mbAck s c).scratchMgmt = s.scratchMgmt := rfl
@[simp] theorem mbAck_ctrs (c : Nat) : (mbAck s c).ctrs = s.ctrs := rfl
@[simp] theorem mbAck_tabs (c : Nat) : (mbAck s c).tabs = s.tabs := rfl
@[simp] theorem mbAck_mem (c : Nat) : (mbAck s c).mem = s.mem := rfl
@[simp] theorem mbAck_mc (c : Nat) : (mbAck s c).mc = s.mc := rfl
@[simp] theorem mbAck_rc (c : Nat) : (mbAck s c).rc = s.rc := rfl
@[simp] theorem mbAck_alm (c : Nat) : (mbAck s c).alm = s.alm := rfl
@[simp] theorem mbAck_xlt (c : Nat) : (mbAck s c).xlt = s.xlt := rfl
@[simp] theorem mbAck_str (c : Nat) : (mbAck s c).str = s.str := rfl
@[simp] theorem mbAck_hp (c : Nat) : (mbAck s c).hp = s.hp := rfl
@[simp] theorem mbAck_tr (c : Nat) : (mbAck s c).tr = s.tr := rfl
@[simp] theorem mbAck_orr (c : Nat) : (mbAck s c).orr = s.orr := rfl
@[simp] theorem mbAck_tiles (c : Nat) : (mbAck s c).tiles = s.tiles := rfl
@[simp] theorem mbAck_got (c : Nat) : (mbAck s c).got = s.got := rfl
@[simp] theorem mbAck_sc (c : Nat) : (mbAck s c).sc = s.sc := rfl
@[simp] theorem mbAck_ly (c : Nat) : (mbAck s c).ly = s.ly := rfl
@[simp] theorem mbAck_load (c : Nat) : (mbAck s c).load = s.load := rfl
@[simp] theorem mbAck_draws (c : Nat) : (mbAck s c).draws = s.draws := rfl
@[simp] theorem mbAck_frees (c : Nat) : (mbAck s c).frees = s.frees := rfl
@[simp] theorem mbAck_aclk (c : Nat) : (mbAck s c).aclk = s.aclk := rfl
@[simp] theorem mbAck_aclk0 (c : Nat) : (mbAck s c).aclk0 = s.aclk0 := rfl
@[simp] theorem mbAck_ctrBase (c : Nat) : (mbAck s c).ctrBase = s.ctrBase := rfl

/-! ### mbTake changes `chans` -/

@[simp] theorem mbTake_pending (m : MbWrite) (o : Nat) : (mbTake s m o).pending = s.pending := rfl
@[simp] theorem mbTake_pwr (m : MbWrite) (o : Nat) : (mbTake s m o).pwr = s.pwr := rfl
@[simp] theorem mbTake_err (m : MbWrite) (o : Nat) : (mbTake s m o).err = s.err := rfl
@[simp] theorem mbTake_mer (m : MbWrite) (o : Nat) : (mbTake s m o).mer = s.mer := rfl
@[simp] theorem mbTake_evt (m : MbWrite) (o : Nat) : (mbTake s m o).evt = s.evt := rfl
@[simp] theorem mbTake_msix (m : MbWrite) (o : Nat) : (mbTake s m o).msix = s.msix := rfl
@[simp] theorem mbTake_scratchHost (m : MbWrite) (o : Nat) : (mbTake s m o).scratchHost = s.scratchHost := rfl
@[simp] theorem mbTake_scratchMgmt (m : MbWrite) (o : Nat) : (mbTake s m o).scratchMgmt = s.scratchMgmt := rfl
@[simp] theorem mbTake_ctrs (m : MbWrite) (o : Nat) : (mbTake s m o).ctrs = s.ctrs := rfl
@[simp] theorem mbTake_tabs (m : MbWrite) (o : Nat) : (mbTake s m o).tabs = s.tabs := rfl
@[simp] theorem mbTake_mem (m : MbWrite) (o : Nat) : (mbTake s m o).mem = s.mem := rfl
@[simp] theorem mbTake_mc (m : MbWrite) (o : Nat) : (mbTake s m o).mc = s.mc := rfl
@[simp] theorem mbTake_rc (m : MbWrite) (o : Nat) : (mbTake s m o).rc = s.rc := rfl
@[simp] theorem mbTake_alm (m : MbWrite) (o : Nat) : (mbTake s m o).alm = s.alm := rfl
@[simp] theorem mbTake_xlt (m : MbWrite) (o : Nat) : (mbTake s m o).xlt = s.xlt := rfl
@[simp] theorem mbTake_str (m : MbWrite) (o : Nat) : (mbTake s m o).str = s.str := rfl
@[simp] theorem mbTake_hp (m : MbWrite) (o : Nat) : (mbTake s m o).hp = s.hp := rfl
@[simp] theorem mbTake_tr (m : MbWrite) (o : Nat) : (mbTake s m o).tr = s.tr := rfl
@[simp] theorem mbTake_orr (m : MbWrite) (o : Nat) : (mbTake s m o).orr = s.orr := rfl
@[simp] theorem mbTake_tiles (m : MbWrite) (o : Nat) : (mbTake s m o).tiles = s.tiles := rfl
@[simp] theorem mbTake_got (m : MbWrite) (o : Nat) : (mbTake s m o).got = s.got := rfl
@[simp] theorem mbTake_sc (m : MbWrite) (o : Nat) : (mbTake s m o).sc = s.sc := rfl
@[simp] theorem mbTake_ly (m : MbWrite) (o : Nat) : (mbTake s m o).ly = s.ly := rfl
@[simp] theorem mbTake_load (m : MbWrite) (o : Nat) : (mbTake s m o).load = s.load := rfl
@[simp] theorem mbTake_draws (m : MbWrite) (o : Nat) : (mbTake s m o).draws = s.draws := rfl
@[simp] theorem mbTake_frees (m : MbWrite) (o : Nat) : (mbTake s m o).frees = s.frees := rfl
@[simp] theorem mbTake_aclk (m : MbWrite) (o : Nat) : (mbTake s m o).aclk = s.aclk := rfl
@[simp] theorem mbTake_aclk0 (m : MbWrite) (o : Nat) : (mbTake s m o).aclk0 = s.aclk0 := rfl
@[simp] theorem mbTake_ctrBase (m : MbWrite) (o : Nat) : (mbTake s m o).ctrBase = s.ctrBase := rfl

/-! ### setStrm changes `str` -/

@[simp] theorem setStrm_pending (n : Nat) (x : Strm) : (setStrm s n x).pending = s.pending := rfl
@[simp] theorem setStrm_pwr (n : Nat) (x : Strm) : (setStrm s n x).pwr = s.pwr := rfl
@[simp] theorem setStrm_err (n : Nat) (x : Strm) : (setStrm s n x).err = s.err := rfl
@[simp] theorem setStrm_mer (n : Nat) (x : Strm) : (setStrm s n x).mer = s.mer := rfl
@[simp] theorem setStrm_chans (n : Nat) (x : Strm) : (setStrm s n x).chans = s.chans := rfl
@[simp] theorem setStrm_evt (n : Nat) (x : Strm) : (setStrm s n x).evt = s.evt := rfl
@[simp] theorem setStrm_msix (n : Nat) (x : Strm) : (setStrm s n x).msix = s.msix := rfl
@[simp] theorem setStrm_scratchHost (n : Nat) (x : Strm) : (setStrm s n x).scratchHost = s.scratchHost := rfl
@[simp] theorem setStrm_scratchMgmt (n : Nat) (x : Strm) : (setStrm s n x).scratchMgmt = s.scratchMgmt := rfl
@[simp] theorem setStrm_ctrs (n : Nat) (x : Strm) : (setStrm s n x).ctrs = s.ctrs := rfl
@[simp] theorem setStrm_tabs (n : Nat) (x : Strm) : (setStrm s n x).tabs = s.tabs := rfl
@[simp] theorem setStrm_mem (n : Nat) (x : Strm) : (setStrm s n x).mem = s.mem := rfl
@[simp] theorem setStrm_mc (n : Nat) (x : Strm) : (setStrm s n x).mc = s.mc := rfl
@[simp] theorem setStrm_rc (n : Nat) (x : Strm) : (setStrm s n x).rc = s.rc := rfl
@[simp] theorem setStrm_alm (n : Nat) (x : Strm) : (setStrm s n x).alm = s.alm := rfl
@[simp] theorem setStrm_xlt (n : Nat) (x : Strm) : (setStrm s n x).xlt = s.xlt := rfl
@[simp] theorem setStrm_hp (n : Nat) (x : Strm) : (setStrm s n x).hp = s.hp := rfl
@[simp] theorem setStrm_tr (n : Nat) (x : Strm) : (setStrm s n x).tr = s.tr := rfl
@[simp] theorem setStrm_orr (n : Nat) (x : Strm) : (setStrm s n x).orr = s.orr := rfl
@[simp] theorem setStrm_tiles (n : Nat) (x : Strm) : (setStrm s n x).tiles = s.tiles := rfl
@[simp] theorem setStrm_got (n : Nat) (x : Strm) : (setStrm s n x).got = s.got := rfl
@[simp] theorem setStrm_sc (n : Nat) (x : Strm) : (setStrm s n x).sc = s.sc := rfl
@[simp] theorem setStrm_ly (n : Nat) (x : Strm) : (setStrm s n x).ly = s.ly := rfl
@[simp] theorem setStrm_load (n : Nat) (x : Strm) : (setStrm s n x).load = s.load := rfl
@[simp] theorem setStrm_draws (n : Nat) (x : Strm) : (setStrm s n x).draws = s.draws := rfl
@[simp] theorem setStrm_frees (n : Nat) (x : Strm) : (setStrm s n x).frees = s.frees := rfl
@[simp] theorem setStrm_aclk (n : Nat) (x : Strm) : (setStrm s n x).aclk = s.aclk := rfl
@[simp] theorem setStrm_aclk0 (n : Nat) (x : Strm) : (setStrm s n x).aclk0 = s.aclk0 := rfl
@[simp] theorem setStrm_ctrBase (n : Nat) (x : Strm) : (setStrm s n x).ctrBase = s.ctrBase := rfl

/-! ### setLink changes `tr` -/

@[simp] theorem setLink_pending (l : Nat) (x : Link) : (setLink s l x).pending = s.pending := rfl
@[simp] theorem setLink_pwr (l : Nat) (x : Link) : (setLink s l x).pwr = s.pwr := rfl
@[simp] theorem setLink_err (l : Nat) (x : Link) : (setLink s l x).err = s.err := rfl
@[simp] theorem setLink_mer (l : Nat) (x : Link) : (setLink s l x).mer = s.mer := rfl
@[simp] theorem setLink_chans (l : Nat) (x : Link) : (setLink s l x).chans = s.chans := rfl
@[simp] theorem setLink_evt (l : Nat) (x : Link) : (setLink s l x).evt = s.evt := rfl
@[simp] theorem setLink_msix (l : Nat) (x : Link) : (setLink s l x).msix = s.msix := rfl
@[simp] theorem setLink_scratchHost (l : Nat) (x : Link) : (setLink s l x).scratchHost = s.scratchHost := rfl
@[simp] theorem setLink_scratchMgmt (l : Nat) (x : Link) : (setLink s l x).scratchMgmt = s.scratchMgmt := rfl
@[simp] theorem setLink_ctrs (l : Nat) (x : Link) : (setLink s l x).ctrs = s.ctrs := rfl
@[simp] theorem setLink_tabs (l : Nat) (x : Link) : (setLink s l x).tabs = s.tabs := rfl
@[simp] theorem setLink_mem (l : Nat) (x : Link) : (setLink s l x).mem = s.mem := rfl
@[simp] theorem setLink_mc (l : Nat) (x : Link) : (setLink s l x).mc = s.mc := rfl
@[simp] theorem setLink_rc (l : Nat) (x : Link) : (setLink s l x).rc = s.rc := rfl
@[simp] theorem setLink_alm (l : Nat) (x : Link) : (setLink s l x).alm = s.alm := rfl
@[simp] theorem setLink_xlt (l : Nat) (x : Link) : (setLink s l x).xlt = s.xlt := rfl
@[simp] theorem setLink_str (l : Nat) (x : Link) : (setLink s l x).str = s.str := rfl
@[simp] theorem setLink_hp (l : Nat) (x : Link) : (setLink s l x).hp = s.hp := rfl
@[simp] theorem setLink_orr (l : Nat) (x : Link) : (setLink s l x).orr = s.orr := rfl
@[simp] theorem setLink_tiles (l : Nat) (x : Link) : (setLink s l x).tiles = s.tiles := rfl
@[simp] theorem setLink_got (l : Nat) (x : Link) : (setLink s l x).got = s.got := rfl
@[simp] theorem setLink_sc (l : Nat) (x : Link) : (setLink s l x).sc = s.sc := rfl
@[simp] theorem setLink_ly (l : Nat) (x : Link) : (setLink s l x).ly = s.ly := rfl
@[simp] theorem setLink_load (l : Nat) (x : Link) : (setLink s l x).load = s.load := rfl
@[simp] theorem setLink_draws (l : Nat) (x : Link) : (setLink s l x).draws = s.draws := rfl
@[simp] theorem setLink_frees (l : Nat) (x : Link) : (setLink s l x).frees = s.frees := rfl
@[simp] theorem setLink_aclk (l : Nat) (x : Link) : (setLink s l x).aclk = s.aclk := rfl
@[simp] theorem setLink_aclk0 (l : Nat) (x : Link) : (setLink s l x).aclk0 = s.aclk0 := rfl
@[simp] theorem setLink_ctrBase (l : Nat) (x : Link) : (setLink s l x).ctrBase = s.ctrBase := rfl

/-! ### setQ changes `orr` -/

@[simp] theorem setQ_pending (q : Nat) (x : Queue) : (setQ s q x).pending = s.pending := rfl
@[simp] theorem setQ_pwr (q : Nat) (x : Queue) : (setQ s q x).pwr = s.pwr := rfl
@[simp] theorem setQ_err (q : Nat) (x : Queue) : (setQ s q x).err = s.err := rfl
@[simp] theorem setQ_mer (q : Nat) (x : Queue) : (setQ s q x).mer = s.mer := rfl
@[simp] theorem setQ_chans (q : Nat) (x : Queue) : (setQ s q x).chans = s.chans := rfl
@[simp] theorem setQ_evt (q : Nat) (x : Queue) : (setQ s q x).evt = s.evt := rfl
@[simp] theorem setQ_msix (q : Nat) (x : Queue) : (setQ s q x).msix = s.msix := rfl
@[simp] theorem setQ_scratchHost (q : Nat) (x : Queue) : (setQ s q x).scratchHost = s.scratchHost := rfl
@[simp] theorem setQ_scratchMgmt (q : Nat) (x : Queue) : (setQ s q x).scratchMgmt = s.scratchMgmt := rfl
@[simp] theorem setQ_ctrs (q : Nat) (x : Queue) : (setQ s q x).ctrs = s.ctrs := rfl
@[simp] theorem setQ_tabs (q : Nat) (x : Queue) : (setQ s q x).tabs = s.tabs := rfl
@[simp] theorem setQ_mem (q : Nat) (x : Queue) : (setQ s q x).mem = s.mem := rfl
@[simp] theorem setQ_mc (q : Nat) (x : Queue) : (setQ s q x).mc = s.mc := rfl
@[simp] theorem setQ_rc (q : Nat) (x : Queue) : (setQ s q x).rc = s.rc := rfl
@[simp] theorem setQ_alm (q : Nat) (x : Queue) : (setQ s q x).alm = s.alm := rfl
@[simp] theorem setQ_xlt (q : Nat) (x : Queue) : (setQ s q x).xlt = s.xlt := rfl
@[simp] theorem setQ_str (q : Nat) (x : Queue) : (setQ s q x).str = s.str := rfl
@[simp] theorem setQ_hp (q : Nat) (x : Queue) : (setQ s q x).hp = s.hp := rfl
@[simp] theorem setQ_tr (q : Nat) (x : Queue) : (setQ s q x).tr = s.tr := rfl
@[simp] theorem setQ_tiles (q : Nat) (x : Queue) : (setQ s q x).tiles = s.tiles := rfl
@[simp] theorem setQ_got (q : Nat) (x : Queue) : (setQ s q x).got = s.got := rfl
@[simp] theorem setQ_sc (q : Nat) (x : Queue) : (setQ s q x).sc = s.sc := rfl
@[simp] theorem setQ_ly (q : Nat) (x : Queue) : (setQ s q x).ly = s.ly := rfl
@[simp] theorem setQ_load (q : Nat) (x : Queue) : (setQ s q x).load = s.load := rfl
@[simp] theorem setQ_draws (q : Nat) (x : Queue) : (setQ s q x).draws = s.draws := rfl
@[simp] theorem setQ_frees (q : Nat) (x : Queue) : (setQ s q x).frees = s.frees := rfl
@[simp] theorem setQ_aclk (q : Nat) (x : Queue) : (setQ s q x).aclk = s.aclk := rfl
@[simp] theorem setQ_aclk0 (q : Nat) (x : Queue) : (setQ s q x).aclk0 = s.aclk0 := rfl
@[simp] theorem setQ_ctrBase (q : Nat) (x : Queue) : (setQ s q x).ctrBase = s.ctrBase := rfl

/-! ### updCmd changes `orr` -/

@[simp] theorem updCmd_pending (c : Nat) (f : Cmd → Cmd) : (updCmd s c f).pending = s.pending := rfl
@[simp] theorem updCmd_pwr (c : Nat) (f : Cmd → Cmd) : (updCmd s c f).pwr = s.pwr := rfl
@[simp] theorem updCmd_err (c : Nat) (f : Cmd → Cmd) : (updCmd s c f).err = s.err := rfl
@[simp] theorem updCmd_mer (c : Nat) (f : Cmd → Cmd) : (updCmd s c f).mer = s.mer := rfl
@[simp] theorem updCmd_chans (c : Nat) (f : Cmd → Cmd) : (updCmd s c f).chans = s.chans := rfl
@[simp] theorem updCmd_evt (c : Nat) (f : Cmd → Cmd) : (updCmd s c f).evt = s.evt := rfl
@[simp] theorem updCmd_msix (c : Nat) (f : Cmd → Cmd) : (updCmd s c f).msix = s.msix := rfl
@[simp] theorem updCmd_scratchHost (c : Nat) (f : Cmd → Cmd) : (updCmd s c f).scratchHost = s.scratchHost := rfl
@[simp] theorem updCmd_scratchMgmt (c : Nat) (f : Cmd → Cmd) : (updCmd s c f).scratchMgmt = s.scratchMgmt := rfl
@[simp] theorem updCmd_ctrs (c : Nat) (f : Cmd → Cmd) : (updCmd s c f).ctrs = s.ctrs := rfl
@[simp] theorem updCmd_tabs (c : Nat) (f : Cmd → Cmd) : (updCmd s c f).tabs = s.tabs := rfl
@[simp] theorem updCmd_mem (c : Nat) (f : Cmd → Cmd) : (updCmd s c f).mem = s.mem := rfl
@[simp] theorem updCmd_mc (c : Nat) (f : Cmd → Cmd) : (updCmd s c f).mc = s.mc := rfl
@[simp] theorem updCmd_rc (c : Nat) (f : Cmd → Cmd) : (updCmd s c f).rc = s.rc := rfl
@[simp] theorem updCmd_alm (c : Nat) (f : Cmd → Cmd) : (updCmd s c f).alm = s.alm := rfl
@[simp] theorem updCmd_xlt (c : Nat) (f : Cmd → Cmd) : (updCmd s c f).xlt = s.xlt := rfl
@[simp] theorem updCmd_str (c : Nat) (f : Cmd → Cmd) : (updCmd s c f).str = s.str := rfl
@[simp] theorem updCmd_hp (c : Nat) (f : Cmd → Cmd) : (updCmd s c f).hp = s.hp := rfl
@[simp] theorem updCmd_tr (c : Nat) (f : Cmd → Cmd) : (updCmd s c f).tr = s.tr := rfl
@[simp] theorem updCmd_tiles (c : Nat) (f : Cmd → Cmd) : (updCmd s c f).tiles = s.tiles := rfl
@[simp] theorem updCmd_got (c : Nat) (f : Cmd → Cmd) : (updCmd s c f).got = s.got := rfl
@[simp] theorem updCmd_sc (c : Nat) (f : Cmd → Cmd) : (updCmd s c f).sc = s.sc := rfl
@[simp] theorem updCmd_ly (c : Nat) (f : Cmd → Cmd) : (updCmd s c f).ly = s.ly := rfl
@[simp] theorem updCmd_load (c : Nat) (f : Cmd → Cmd) : (updCmd s c f).load = s.load := rfl
@[simp] theorem updCmd_draws (c : Nat) (f : Cmd → Cmd) : (updCmd s c f).draws = s.draws := rfl
@[simp] theorem updCmd_frees (c : Nat) (f : Cmd → Cmd) : (updCmd s c f).frees = s.frees := rfl
@[simp] theorem updCmd_aclk (c : Nat) (f : Cmd → Cmd) : (updCmd s c f).aclk = s.aclk := rfl
@[simp] theorem updCmd_aclk0 (c : Nat) (f : Cmd → Cmd) : (updCmd s c f).aclk0 = s.aclk0 := rfl
@[simp] theorem updCmd_ctrBase (c : Nat) (f : Cmd → Cmd) : (updCmd s c f).ctrBase = s.ctrBase := rfl

/-! ### addCmd changes `orr` -/

@[simp] theorem addCmd_pending (c : Cmd) : (addCmd s c).pending = s.pending := rfl
@[simp] theorem addCmd_pwr (c : Cmd) : (addCmd s c).pwr = s.pwr := rfl
@[simp] theorem addCmd_err (c : Cmd) : (addCmd s c).err = s.err := rfl
@[simp] theorem addCmd_mer (c : Cmd) : (addCmd s c).mer = s.mer := rfl
@[simp] theorem addCmd_chans (c : Cmd) : (addCmd s c).chans = s.chans := rfl
@[simp] theorem addCmd_evt (c : Cmd) : (addCmd s c).evt = s.evt := rfl
@[simp] theorem addCmd_msix (c : Cmd) : (addCmd s c).msix = s.msix := rfl
@[simp] theorem addCmd_scratchHost (c : Cmd) : (addCmd s c).scratchHost = s.scratchHost := rfl
@[simp] theorem addCmd_scratchMgmt (c : Cmd) : (addCmd s c).scratchMgmt = s.scratchMgmt := rfl
@[simp] theorem addCmd_ctrs (c : Cmd) : (addCmd s c).ctrs = s.ctrs := rfl
@[simp] theorem addCmd_tabs (c : Cmd) : (addCmd s c).tabs = s.tabs := rfl
@[simp] theorem addCmd_mem (c : Cmd) : (addCmd s c).mem = s.mem := rfl
@[simp] theorem addCmd_mc (c : Cmd) : (addCmd s c).mc = s.mc := rfl
@[simp] theorem addCmd_rc (c : Cmd) : (addCmd s c).rc = s.rc := rfl
@[simp] theorem addCmd_alm (c : Cmd) : (addCmd s c).alm = s.alm := rfl
@[simp] theorem addCmd_xlt (c : Cmd) : (addCmd s c).xlt = s.xlt := rfl
@[simp] theorem addCmd_str (c : Cmd) : (addCmd s c).str = s.str := rfl
@[simp] theorem addCmd_hp (c : Cmd) : (addCmd s c).hp = s.hp := rfl
@[simp] theorem addCmd_tr (c : Cmd) : (addCmd s c).tr = s.tr := rfl
@[simp] theorem addCmd_tiles (c : Cmd) : (addCmd s c).tiles = s.tiles := rfl
@[simp] theorem addCmd_got (c : Cmd) : (addCmd s c).got = s.got := rfl
@[simp] theorem addCmd_sc (c : Cmd) : (addCmd s c).sc = s.sc := rfl
@[simp] theorem addCmd_ly (c : Cmd) : (addCmd s c).ly = s.ly := rfl
@[simp] theorem addCmd_load (c : Cmd) : (addCmd s c).load = s.load := rfl
@[simp] theorem addCmd_draws (c : Cmd) : (addCmd s c).draws = s.draws := rfl
@[simp] theorem addCmd_frees (c : Cmd) : (addCmd s c).frees = s.frees := rfl
@[simp] theorem addCmd_aclk (c : Cmd) : (addCmd s c).aclk = s.aclk := rfl
@[simp] theorem addCmd_aclk0 (c : Cmd) : (addCmd s c).aclk0 = s.aclk0 := rfl
@[simp] theorem addCmd_ctrBase (c : Cmd) : (addCmd s c).ctrBase = s.ctrBase := rfl

/-! ### dropCmd changes `orr` -/

@[simp] theorem dropCmd_pending (c : Nat) : (dropCmd s c).pending = s.pending := rfl
@[simp] theorem dropCmd_pwr (c : Nat) : (dropCmd s c).pwr = s.pwr := rfl
@[simp] theorem dropCmd_err (c : Nat) : (dropCmd s c).err = s.err := rfl
@[simp] theorem dropCmd_mer (c : Nat) : (dropCmd s c).mer = s.mer := rfl
@[simp] theorem dropCmd_chans (c : Nat) : (dropCmd s c).chans = s.chans := rfl
@[simp] theorem dropCmd_evt (c : Nat) : (dropCmd s c).evt = s.evt := rfl
@[simp] theorem dropCmd_msix (c : Nat) : (dropCmd s c).msix = s.msix := rfl
@[simp] theorem dropCmd_scratchHost (c : Nat) : (dropCmd s c).scratchHost = s.scratchHost := rfl
@[simp] theorem dropCmd_scratchMgmt (c : Nat) : (dropCmd s c).scratchMgmt = s.scratchMgmt := rfl
@[simp] theorem dropCmd_ctrs (c : Nat) : (dropCmd s c).ctrs = s.ctrs := rfl
@[simp] theorem dropCmd_tabs (c : Nat) : (dropCmd s c).tabs = s.tabs := rfl
@[simp] theorem dropCmd_mem (c : Nat) : (dropCmd s c).mem = s.mem := rfl
@[simp] theorem dropCmd_mc (c : Nat) : (dropCmd s c).mc = s.mc := rfl
@[simp] theorem dropCmd_rc (c : Nat) : (dropCmd s c).rc = s.rc := rfl
@[simp] theorem dropCmd_alm (c : Nat) : (dropCmd s c).alm = s.alm := rfl
@[simp] theorem dropCmd_xlt (c : Nat) : (dropCmd s c).xlt = s.xlt := rfl
@[simp] theorem dropCmd_str (c : Nat) : (dropCmd s c).str = s.str := rfl
@[simp] theorem dropCmd_hp (c : Nat) : (dropCmd s c).hp = s.hp := rfl
@[simp] theorem dropCmd_tr (c : Nat) : (dropCmd s c).tr = s.tr := rfl
@[simp] theorem dropCmd_tiles (c : Nat) : (dropCmd s c).tiles = s.tiles := rfl
@[simp] theorem dropCmd_got (c : Nat) : (dropCmd s c).got = s.got := rfl
@[simp] theorem dropCmd_sc (c : Nat) : (dropCmd s c).sc = s.sc := rfl
@[simp] theorem dropCmd_ly (c : Nat) : (dropCmd s c).ly = s.ly := rfl
@[simp] theorem dropCmd_load (c : Nat) : (dropCmd s c).load = s.load := rfl
@[simp] theorem dropCmd_draws (c : Nat) : (dropCmd s c).draws = s.draws := rfl
@[simp] theorem dropCmd_frees (c : Nat) : (dropCmd s c).frees = s.frees := rfl
@[simp] theorem dropCmd_aclk (c : Nat) : (dropCmd s c).aclk = s.aclk := rfl
@[simp] theorem dropCmd_aclk0 (c : Nat) : (dropCmd s c).aclk0 = s.aclk0 := rfl
@[simp] theorem dropCmd_ctrBase (c : Nat) : (dropCmd s c).ctrBase = s.ctrBase := rfl

/-! ### setTile changes `tiles` -/

@[simp] theorem setTile_pending (n : Nat) (x : Tile) : (setTile s n x).pending = s.pending := rfl
@[simp] theorem setTile_pwr (n : Nat) (x : Tile) : (setTile s n x).pwr = s.pwr := rfl
@[simp] theorem setTile_err (n : Nat) (x : Tile) : (setTile s n x).err = s.err := rfl
@[simp] theorem setTile_mer (n : Nat) (x : Tile) : (setTile s n x).mer = s.mer := rfl
@[simp] theorem setTile_chans (n : Nat) (x : Tile) : (setTile s n x).chans = s.chans := rfl
@[simp] theorem setTile_evt (n : Nat) (x : Tile) : (setTile s n x).evt = s.evt := rfl
@[simp] theorem setTile_msix (n : Nat) (x : Tile) : (setTile s n x).msix = s.msix := rfl
@[simp] theorem setTile_scratchHost (n : Nat) (x : Tile) : (setTile s n x).scratchHost = s.scratchHost := rfl
@[simp] theorem setTile_scratchMgmt (n : Nat) (x : Tile) : (setTile s n x).scratchMgmt = s.scratchMgmt := rfl
@[simp] theorem setTile_ctrs (n : Nat) (x : Tile) : (setTile s n x).ctrs = s.ctrs := rfl
@[simp] theorem setTile_tabs (n : Nat) (x : Tile) : (setTile s n x).tabs = s.tabs := rfl
@[simp] theorem setTile_mem (n : Nat) (x : Tile) : (setTile s n x).mem = s.mem := rfl
@[simp] theorem setTile_mc (n : Nat) (x : Tile) : (setTile s n x).mc = s.mc := rfl
@[simp] theorem setTile_rc (n : Nat) (x : Tile) : (setTile s n x).rc = s.rc := rfl
@[simp] theorem setTile_alm (n : Nat) (x : Tile) : (setTile s n x).alm = s.alm := rfl
@[simp] theorem setTile_xlt (n : Nat) (x : Tile) : (setTile s n x).xlt = s.xlt := rfl
@[simp] theorem setTile_str (n : Nat) (x : Tile) : (setTile s n x).str = s.str := rfl
@[simp] theorem setTile_hp (n : Nat) (x : Tile) : (setTile s n x).hp = s.hp := rfl
@[simp] theorem setTile_tr (n : Nat) (x : Tile) : (setTile s n x).tr = s.tr := rfl
@[simp] theorem setTile_orr (n : Nat) (x : Tile) : (setTile s n x).orr = s.orr := rfl
@[simp] theorem setTile_got (n : Nat) (x : Tile) : (setTile s n x).got = s.got := rfl
@[simp] theorem setTile_sc (n : Nat) (x : Tile) : (setTile s n x).sc = s.sc := rfl
@[simp] theorem setTile_ly (n : Nat) (x : Tile) : (setTile s n x).ly = s.ly := rfl
@[simp] theorem setTile_load (n : Nat) (x : Tile) : (setTile s n x).load = s.load := rfl
@[simp] theorem setTile_draws (n : Nat) (x : Tile) : (setTile s n x).draws = s.draws := rfl
@[simp] theorem setTile_frees (n : Nat) (x : Tile) : (setTile s n x).frees = s.frees := rfl
@[simp] theorem setTile_aclk (n : Nat) (x : Tile) : (setTile s n x).aclk = s.aclk := rfl
@[simp] theorem setTile_aclk0 (n : Nat) (x : Tile) : (setTile s n x).aclk0 = s.aclk0 := rfl
@[simp] theorem setTile_ctrBase (n : Nat) (x : Tile) : (setTile s n x).ctrBase = s.ctrBase := rfl

/-! ### updUnit changes `orr` -/

@[simp] theorem updUnit_pending (n : Nat) (f : Unit' → Unit') : (updUnit s n f).pending = s.pending := rfl
@[simp] theorem updUnit_pwr (n : Nat) (f : Unit' → Unit') : (updUnit s n f).pwr = s.pwr := rfl
@[simp] theorem updUnit_err (n : Nat) (f : Unit' → Unit') : (updUnit s n f).err = s.err := rfl
@[simp] theorem updUnit_mer (n : Nat) (f : Unit' → Unit') : (updUnit s n f).mer = s.mer := rfl
@[simp] theorem updUnit_chans (n : Nat) (f : Unit' → Unit') : (updUnit s n f).chans = s.chans := rfl
@[simp] theorem updUnit_evt (n : Nat) (f : Unit' → Unit') : (updUnit s n f).evt = s.evt := rfl
@[simp] theorem updUnit_msix (n : Nat) (f : Unit' → Unit') : (updUnit s n f).msix = s.msix := rfl
@[simp] theorem updUnit_scratchHost (n : Nat) (f : Unit' → Unit') : (updUnit s n f).scratchHost = s.scratchHost := rfl
@[simp] theorem updUnit_scratchMgmt (n : Nat) (f : Unit' → Unit') : (updUnit s n f).scratchMgmt = s.scratchMgmt := rfl
@[simp] theorem updUnit_ctrs (n : Nat) (f : Unit' → Unit') : (updUnit s n f).ctrs = s.ctrs := rfl
@[simp] theorem updUnit_tabs (n : Nat) (f : Unit' → Unit') : (updUnit s n f).tabs = s.tabs := rfl
@[simp] theorem updUnit_mem (n : Nat) (f : Unit' → Unit') : (updUnit s n f).mem = s.mem := rfl
@[simp] theorem updUnit_mc (n : Nat) (f : Unit' → Unit') : (updUnit s n f).mc = s.mc := rfl
@[simp] theorem updUnit_rc (n : Nat) (f : Unit' → Unit') : (updUnit s n f).rc = s.rc := rfl
@[simp] theorem updUnit_alm (n : Nat) (f : Unit' → Unit') : (updUnit s n f).alm = s.alm := rfl
@[simp] theorem updUnit_xlt (n : Nat) (f : Unit' → Unit') : (updUnit s n f).xlt = s.xlt := rfl
@[simp] theorem updUnit_str (n : Nat) (f : Unit' → Unit') : (updUnit s n f).str = s.str := rfl
@[simp] theorem updUnit_hp (n : Nat) (f : Unit' → Unit') : (updUnit s n f).hp = s.hp := rfl
@[simp] theorem updUnit_tr (n : Nat) (f : Unit' → Unit') : (updUnit s n f).tr = s.tr := rfl
@[simp] theorem updUnit_tiles (n : Nat) (f : Unit' → Unit') : (updUnit s n f).tiles = s.tiles := rfl
@[simp] theorem updUnit_got (n : Nat) (f : Unit' → Unit') : (updUnit s n f).got = s.got := rfl
@[simp] theorem updUnit_sc (n : Nat) (f : Unit' → Unit') : (updUnit s n f).sc = s.sc := rfl
@[simp] theorem updUnit_ly (n : Nat) (f : Unit' → Unit') : (updUnit s n f).ly = s.ly := rfl
@[simp] theorem updUnit_load (n : Nat) (f : Unit' → Unit') : (updUnit s n f).load = s.load := rfl
@[simp] theorem updUnit_draws (n : Nat) (f : Unit' → Unit') : (updUnit s n f).draws = s.draws := rfl
@[simp] theorem updUnit_frees (n : Nat) (f : Unit' → Unit') : (updUnit s n f).frees = s.frees := rfl
@[simp] theorem updUnit_aclk (n : Nat) (f : Unit' → Unit') : (updUnit s n f).aclk = s.aclk := rfl
@[simp] theorem updUnit_aclk0 (n : Nat) (f : Unit' → Unit') : (updUnit s n f).aclk0 = s.aclk0 := rfl
@[simp] theorem updUnit_ctrBase (n : Nat) (f : Unit' → Unit') : (updUnit s n f).ctrBase = s.ctrBase := rfl

/-! ### updJob changes `orr` -/

@[simp] theorem updJob_pending (n : Nat) (f : LkJob → LkJob) : (updJob s n f).pending = s.pending := rfl
@[simp] theorem updJob_pwr (n : Nat) (f : LkJob → LkJob) : (updJob s n f).pwr = s.pwr := rfl
@[simp] theorem updJob_err (n : Nat) (f : LkJob → LkJob) : (updJob s n f).err = s.err := rfl
@[simp] theorem updJob_mer (n : Nat) (f : LkJob → LkJob) : (updJob s n f).mer = s.mer := rfl
@[simp] theorem updJob_chans (n : Nat) (f : LkJob → LkJob) : (updJob s n f).chans = s.chans := rfl
@[simp] theorem updJob_evt (n : Nat) (f : LkJob → LkJob) : (updJob s n f).evt = s.evt := rfl
@[simp] theorem updJob_msix (n : Nat) (f : LkJob → LkJob) : (updJob s n f).msix = s.msix := rfl
@[simp] theorem updJob_scratchHost (n : Nat) (f : LkJob → LkJob) : (updJob s n f).scratchHost = s.scratchHost := rfl
@[simp] theorem updJob_scratchMgmt (n : Nat) (f : LkJob → LkJob) : (updJob s n f).scratchMgmt = s.scratchMgmt := rfl
@[simp] theorem updJob_ctrs (n : Nat) (f : LkJob → LkJob) : (updJob s n f).ctrs = s.ctrs := rfl
@[simp] theorem updJob_tabs (n : Nat) (f : LkJob → LkJob) : (updJob s n f).tabs = s.tabs := rfl
@[simp] theorem updJob_mem (n : Nat) (f : LkJob → LkJob) : (updJob s n f).mem = s.mem := rfl
@[simp] theorem updJob_mc (n : Nat) (f : LkJob → LkJob) : (updJob s n f).mc = s.mc := rfl
@[simp] theorem updJob_rc (n : Nat) (f : LkJob → LkJob) : (updJob s n f).rc = s.rc := rfl
@[simp] theorem updJob_alm (n : Nat) (f : LkJob → LkJob) : (updJob s n f).alm = s.alm := rfl
@[simp] theorem updJob_xlt (n : Nat) (f : LkJob → LkJob) : (updJob s n f).xlt = s.xlt := rfl
@[simp] theorem updJob_str (n : Nat) (f : LkJob → LkJob) : (updJob s n f).str = s.str := rfl
@[simp] theorem updJob_hp (n : Nat) (f : LkJob → LkJob) : (updJob s n f).hp = s.hp := rfl
@[simp] theorem updJob_tr (n : Nat) (f : LkJob → LkJob) : (updJob s n f).tr = s.tr := rfl
@[simp] theorem updJob_tiles (n : Nat) (f : LkJob → LkJob) : (updJob s n f).tiles = s.tiles := rfl
@[simp] theorem updJob_got (n : Nat) (f : LkJob → LkJob) : (updJob s n f).got = s.got := rfl
@[simp] theorem updJob_sc (n : Nat) (f : LkJob → LkJob) : (updJob s n f).sc = s.sc := rfl
@[simp] theorem updJob_ly (n : Nat) (f : LkJob → LkJob) : (updJob s n f).ly = s.ly := rfl
@[simp] theorem updJob_load (n : Nat) (f : LkJob → LkJob) : (updJob s n f).load = s.load := rfl
@[simp] theorem updJob_draws (n : Nat) (f : LkJob → LkJob) : (updJob s n f).draws = s.draws := rfl
@[simp] theorem updJob_frees (n : Nat) (f : LkJob → LkJob) : (updJob s n f).frees = s.frees := rfl
@[simp] theorem updJob_aclk (n : Nat) (f : LkJob → LkJob) : (updJob s n f).aclk = s.aclk := rfl
@[simp] theorem updJob_aclk0 (n : Nat) (f : LkJob → LkJob) : (updJob s n f).aclk0 = s.aclk0 := rfl
@[simp] theorem updJob_ctrBase (n : Nat) (f : LkJob → LkJob) : (updJob s n f).ctrBase = s.ctrBase := rfl

/-! ### updSc changes `sc` -/

@[simp] theorem updSc_pending (n : Nat) (f : ScJob → ScJob) : (updSc s n f).pending = s.pending := rfl
@[simp] theorem updSc_pwr (n : Nat) (f : ScJob → ScJob) : (updSc s n f).pwr = s.pwr := rfl
@[simp] theorem updSc_err (n : Nat) (f : ScJob → ScJob) : (updSc s n f).err = s.err := rfl
@[simp] theorem updSc_mer (n : Nat) (f : ScJob → ScJob) : (updSc s n f).mer = s.mer := rfl
@[simp] theorem updSc_chans (n : Nat) (f : ScJob → ScJob) : (updSc s n f).chans = s.chans := rfl
@[simp] theorem updSc_evt (n : Nat) (f : ScJob → ScJob) : (updSc s n f).evt = s.evt := rfl
@[simp] theorem updSc_msix (n : Nat) (f : ScJob → ScJob) : (updSc s n f).msix = s.msix := rfl
@[simp] theorem updSc_scratchHost (n : Nat) (f : ScJob → ScJob) : (updSc s n f).scratchHost = s.scratchHost := rfl
@[simp] theorem updSc_scratchMgmt (n : Nat) (f : ScJob → ScJob) : (updSc s n f).scratchMgmt = s.scratchMgmt := rfl
@[simp] theorem updSc_ctrs (n : Nat) (f : ScJob → ScJob) : (updSc s n f).ctrs = s.ctrs := rfl
@[simp] theorem updSc_tabs (n : Nat) (f : ScJob → ScJob) : (updSc s n f).tabs = s.tabs := rfl
@[simp] theorem updSc_mem (n : Nat) (f : ScJob → ScJob) : (updSc s n f).mem = s.mem := rfl
@[simp] theorem updSc_mc (n : Nat) (f : ScJob → ScJob) : (updSc s n f).mc = s.mc := rfl
@[simp] theorem updSc_rc (n : Nat) (f : ScJob → ScJob) : (updSc s n f).rc = s.rc := rfl
@[simp] theorem updSc_alm (n : Nat) (f : ScJob → ScJob) : (updSc s n f).alm = s.alm := rfl
@[simp] theorem updSc_xlt (n : Nat) (f : ScJob → ScJob) : (updSc s n f).xlt = s.xlt := rfl
@[simp] theorem updSc_str (n : Nat) (f : ScJob → ScJob) : (updSc s n f).str = s.str := rfl
@[simp] theorem updSc_hp (n : Nat) (f : ScJob → ScJob) : (updSc s n f).hp = s.hp := rfl
@[simp] theorem updSc_tr (n : Nat) (f : ScJob → ScJob) : (updSc s n f).tr = s.tr := rfl
@[simp] theorem updSc_orr (n : Nat) (f : ScJob → ScJob) : (updSc s n f).orr = s.orr := rfl
@[simp] theorem updSc_tiles (n : Nat) (f : ScJob → ScJob) : (updSc s n f).tiles = s.tiles := rfl
@[simp] theorem updSc_got (n : Nat) (f : ScJob → ScJob) : (updSc s n f).got = s.got := rfl
@[simp] theorem updSc_ly (n : Nat) (f : ScJob → ScJob) : (updSc s n f).ly = s.ly := rfl
@[simp] theorem updSc_load (n : Nat) (f : ScJob → ScJob) : (updSc s n f).load = s.load := rfl
@[simp] theorem updSc_draws (n : Nat) (f : ScJob → ScJob) : (updSc s n f).draws = s.draws := rfl
@[simp] theorem updSc_frees (n : Nat) (f : ScJob → ScJob) : (updSc s n f).frees = s.frees := rfl
@[simp] theorem updSc_aclk (n : Nat) (f : ScJob → ScJob) : (updSc s n f).aclk = s.aclk := rfl
@[simp] theorem updSc_aclk0 (n : Nat) (f : ScJob → ScJob) : (updSc s n f).aclk0 = s.aclk0 := rfl
@[simp] theorem updSc_ctrBase (n : Nat) (f : ScJob → ScJob) : (updSc s n f).ctrBase = s.ctrBase := rfl

/-! ### bumpIf changes `ctrs` -/

@[simp] theorem bumpIf_pending (b : Bool) (k : Nat) : (bumpIf s b k).pending = s.pending := by cases b <;> rfl
@[simp] theorem bumpIf_pwr (b : Bool) (k : Nat) : (bumpIf s b k).pwr = s.pwr := by cases b <;> rfl
@[simp] theorem bumpIf_err (b : Bool) (k : Nat) : (bumpIf s b k).err = s.err := by cases b <;> rfl
@[simp] theorem bumpIf_mer (b : Bool) (k : Nat) : (bumpIf s b k).mer = s.mer := by cases b <;> rfl
@[simp] theorem bumpIf_chans (b : Bool) (k : Nat) : (bumpIf s b k).chans = s.chans := by cases b <;> rfl
@[simp] theorem bumpIf_evt (b : Bool) (k : Nat) : (bumpIf s b k).evt = s.evt := by cases b <;> rfl
@[simp] theorem bumpIf_msix (b : Bool) (k : Nat) : (bumpIf s b k).msix = s.msix := by cases b <;> rfl
@[simp] theorem bumpIf_scratchHost (b : Bool) (k : Nat) : (bumpIf s b k).scratchHost = s.scratchHost := by cases b <;> rfl
@[simp] theorem bumpIf_scratchMgmt (b : Bool) (k : Nat) : (bumpIf s b k).scratchMgmt = s.scratchMgmt := by cases b <;> rfl
@[simp] theorem bumpIf_tabs (b : Bool) (k : Nat) : (bumpIf s b k).tabs = s.tabs := by cases b <;> rfl
@[simp] theorem bumpIf_mem (b : Bool) (k : Nat) : (bumpIf s b k).mem = s.mem := by cases b <;> rfl
@[simp] theorem bumpIf_mc (b : Bool) (k : Nat) : (bumpIf s b k).mc = s.mc := by cases b <;> rfl
@[simp] theorem bumpIf_rc (b : Bool) (k : Nat) : (bumpIf s b k).rc = s.rc := by cases b <;> rfl
@[simp] theorem bumpIf_alm (b : Bool) (k : Nat) : (bumpIf s b k).alm = s.alm := by cases b <;> rfl
@[simp] theorem bumpIf_xlt (b : Bool) (k : Nat) : (bumpIf s b k).xlt = s.xlt := by cases b <;> rfl
@[simp] theorem bumpIf_str (b : Bool) (k : Nat) : (bumpIf s b k).str = s.str := by cases b <;> rfl
@[simp] theorem bumpIf_hp (b : Bool) (k : Nat) : (bumpIf s b k).hp = s.hp := by cases b <;> rfl
@[simp] theorem bumpIf_tr (b : Bool) (k : Nat) : (bumpIf s b k).tr = s.tr := by cases b <;> rfl
@[simp] theorem bumpIf_orr (b : Bool) (k : Nat) : (bumpIf s b k).orr = s.orr := by cases b <;> rfl
@[simp] theorem bumpIf_tiles (b : Bool) (k : Nat) : (bumpIf s b k).tiles = s.tiles := by cases b <;> rfl
@[simp] theorem bumpIf_got (b : Bool) (k : Nat) : (bumpIf s b k).got = s.got := by cases b <;> rfl
@[simp] theorem bumpIf_sc (b : Bool) (k : Nat) : (bumpIf s b k).sc = s.sc := by cases b <;> rfl
@[simp] theorem bumpIf_ly (b : Bool) (k : Nat) : (bumpIf s b k).ly = s.ly := by cases b <;> rfl
@[simp] theorem bumpIf_load (b : Bool) (k : Nat) : (bumpIf s b k).load = s.load := by cases b <;> rfl
@[simp] theorem bumpIf_draws (b : Bool) (k : Nat) : (bumpIf s b k).draws = s.draws := by cases b <;> rfl
@[simp] theorem bumpIf_frees (b : Bool) (k : Nat) : (bumpIf s b k).frees = s.frees := by cases b <;> rfl
@[simp] theorem bumpIf_aclk (b : Bool) (k : Nat) : (bumpIf s b k).aclk = s.aclk := by cases b <;> rfl
@[simp] theorem bumpIf_aclk0 (b : Bool) (k : Nat) : (bumpIf s b k).aclk0 = s.aclk0 := by cases b <;> rfl
@[simp] theorem bumpIf_ctrBase (b : Bool) (k : Nat) : (bumpIf s b k).ctrBase = s.ctrBase := by cases b <;> rfl

/-! ### freezeOn and freezeUe change `err` -/

@[simp] theorem freezeOn_pending (b : Nat) (c : BitVec 3) (u : BitVec 8) : (freezeOn s b c u).pending = s.pending := by
  unfold freezeOn; split <;> rfl
@[simp] theorem freezeOn_pwr (b : Nat) (c : BitVec 3) (u : BitVec 8) : (freezeOn s b c u).pwr = s.pwr := by
  unfold freezeOn; split <;> rfl
@[simp] theorem freezeOn_mer (b : Nat) (c : BitVec 3) (u : BitVec 8) : (freezeOn s b c u).mer = s.mer := by
  unfold freezeOn; split <;> rfl
@[simp] theorem freezeOn_chans (b : Nat) (c : BitVec 3) (u : BitVec 8) : (freezeOn s b c u).chans = s.chans := by
  unfold freezeOn; split <;> rfl
@[simp] theorem freezeOn_evt (b : Nat) (c : BitVec 3) (u : BitVec 8) : (freezeOn s b c u).evt = s.evt := by
  unfold freezeOn; split <;> rfl
@[simp] theorem freezeOn_msix (b : Nat) (c : BitVec 3) (u : BitVec 8) : (freezeOn s b c u).msix = s.msix := by
  unfold freezeOn; split <;> rfl
@[simp] theorem freezeOn_scratchHost (b : Nat) (c : BitVec 3) (u : BitVec 8) : (freezeOn s b c u).scratchHost = s.scratchHost := by
  unfold freezeOn; split <;> rfl
@[simp] theorem freezeOn_scratchMgmt (b : Nat) (c : BitVec 3) (u : BitVec 8) : (freezeOn s b c u).scratchMgmt = s.scratchMgmt := by
  unfold freezeOn; split <;> rfl
@[simp] theorem freezeOn_ctrs (b : Nat) (c : BitVec 3) (u : BitVec 8) : (freezeOn s b c u).ctrs = s.ctrs := by
  unfold freezeOn; split <;> rfl
@[simp] theorem freezeOn_tabs (b : Nat) (c : BitVec 3) (u : BitVec 8) : (freezeOn s b c u).tabs = s.tabs := by
  unfold freezeOn; split <;> rfl
@[simp] theorem freezeOn_mem (b : Nat) (c : BitVec 3) (u : BitVec 8) : (freezeOn s b c u).mem = s.mem := by
  unfold freezeOn; split <;> rfl
@[simp] theorem freezeOn_mc (b : Nat) (c : BitVec 3) (u : BitVec 8) : (freezeOn s b c u).mc = s.mc := by
  unfold freezeOn; split <;> rfl
@[simp] theorem freezeOn_rc (b : Nat) (c : BitVec 3) (u : BitVec 8) : (freezeOn s b c u).rc = s.rc := by
  unfold freezeOn; split <;> rfl
@[simp] theorem freezeOn_alm (b : Nat) (c : BitVec 3) (u : BitVec 8) : (freezeOn s b c u).alm = s.alm := by
  unfold freezeOn; split <;> rfl
@[simp] theorem freezeOn_xlt (b : Nat) (c : BitVec 3) (u : BitVec 8) : (freezeOn s b c u).xlt = s.xlt := by
  unfold freezeOn; split <;> rfl
@[simp] theorem freezeOn_str (b : Nat) (c : BitVec 3) (u : BitVec 8) : (freezeOn s b c u).str = s.str := by
  unfold freezeOn; split <;> rfl
@[simp] theorem freezeOn_hp (b : Nat) (c : BitVec 3) (u : BitVec 8) : (freezeOn s b c u).hp = s.hp := by
  unfold freezeOn; split <;> rfl
@[simp] theorem freezeOn_tr (b : Nat) (c : BitVec 3) (u : BitVec 8) : (freezeOn s b c u).tr = s.tr := by
  unfold freezeOn; split <;> rfl
@[simp] theorem freezeOn_orr (b : Nat) (c : BitVec 3) (u : BitVec 8) : (freezeOn s b c u).orr = s.orr := by
  unfold freezeOn; split <;> rfl
@[simp] theorem freezeOn_tiles (b : Nat) (c : BitVec 3) (u : BitVec 8) : (freezeOn s b c u).tiles = s.tiles := by
  unfold freezeOn; split <;> rfl
@[simp] theorem freezeOn_got (b : Nat) (c : BitVec 3) (u : BitVec 8) : (freezeOn s b c u).got = s.got := by
  unfold freezeOn; split <;> rfl
@[simp] theorem freezeOn_sc (b : Nat) (c : BitVec 3) (u : BitVec 8) : (freezeOn s b c u).sc = s.sc := by
  unfold freezeOn; split <;> rfl
@[simp] theorem freezeOn_ly (b : Nat) (c : BitVec 3) (u : BitVec 8) : (freezeOn s b c u).ly = s.ly := by
  unfold freezeOn; split <;> rfl
@[simp] theorem freezeOn_load (b : Nat) (c : BitVec 3) (u : BitVec 8) : (freezeOn s b c u).load = s.load := by
  unfold freezeOn; split <;> rfl
@[simp] theorem freezeOn_draws (b : Nat) (c : BitVec 3) (u : BitVec 8) : (freezeOn s b c u).draws = s.draws := by
  unfold freezeOn; split <;> rfl
@[simp] theorem freezeOn_frees (b : Nat) (c : BitVec 3) (u : BitVec 8) : (freezeOn s b c u).frees = s.frees := by
  unfold freezeOn; split <;> rfl
@[simp] theorem freezeOn_aclk (b : Nat) (c : BitVec 3) (u : BitVec 8) : (freezeOn s b c u).aclk = s.aclk := by
  unfold freezeOn; split <;> rfl
@[simp] theorem freezeOn_aclk0 (b : Nat) (c : BitVec 3) (u : BitVec 8) : (freezeOn s b c u).aclk0 = s.aclk0 := by
  unfold freezeOn; split <;> rfl
@[simp] theorem freezeOn_ctrBase (b : Nat) (c : BitVec 3) (u : BitVec 8) : (freezeOn s b c u).ctrBase = s.ctrBase := by
  unfold freezeOn; split <;> rfl
@[simp] theorem freezeUe_pending (n : Nat) (u : BitVec 8) : (freezeUe s n u).pending = s.pending := by
  unfold freezeUe; split <;> simp
@[simp] theorem freezeUe_pwr (n : Nat) (u : BitVec 8) : (freezeUe s n u).pwr = s.pwr := by
  unfold freezeUe; split <;> simp
@[simp] theorem freezeUe_mer (n : Nat) (u : BitVec 8) : (freezeUe s n u).mer = s.mer := by
  unfold freezeUe; split <;> simp
@[simp] theorem freezeUe_chans (n : Nat) (u : BitVec 8) : (freezeUe s n u).chans = s.chans := by
  unfold freezeUe; split <;> simp
@[simp] theorem freezeUe_evt (n : Nat) (u : BitVec 8) : (freezeUe s n u).evt = s.evt := by
  unfold freezeUe; split <;> simp
@[simp] theorem freezeUe_msix (n : Nat) (u : BitVec 8) : (freezeUe s n u).msix = s.msix := by
  unfold freezeUe; split <;> simp
@[simp] theorem freezeUe_scratchHost (n : Nat) (u : BitVec 8) : (freezeUe s n u).scratchHost = s.scratchHost := by
  unfold freezeUe; split <;> simp
@[simp] theorem freezeUe_scratchMgmt (n : Nat) (u : BitVec 8) : (freezeUe s n u).scratchMgmt = s.scratchMgmt := by
  unfold freezeUe; split <;> simp
@[simp] theorem freezeUe_ctrs (n : Nat) (u : BitVec 8) : (freezeUe s n u).ctrs = s.ctrs := by
  unfold freezeUe; split <;> simp
@[simp] theorem freezeUe_tabs (n : Nat) (u : BitVec 8) : (freezeUe s n u).tabs = s.tabs := by
  unfold freezeUe; split <;> simp
@[simp] theorem freezeUe_mem (n : Nat) (u : BitVec 8) : (freezeUe s n u).mem = s.mem := by
  unfold freezeUe; split <;> simp
@[simp] theorem freezeUe_mc (n : Nat) (u : BitVec 8) : (freezeUe s n u).mc = s.mc := by
  unfold freezeUe; split <;> simp
@[simp] theorem freezeUe_rc (n : Nat) (u : BitVec 8) : (freezeUe s n u).rc = s.rc := by
  unfold freezeUe; split <;> simp
@[simp] theorem freezeUe_alm (n : Nat) (u : BitVec 8) : (freezeUe s n u).alm = s.alm := by
  unfold freezeUe; split <;> simp
@[simp] theorem freezeUe_xlt (n : Nat) (u : BitVec 8) : (freezeUe s n u).xlt = s.xlt := by
  unfold freezeUe; split <;> simp
@[simp] theorem freezeUe_str (n : Nat) (u : BitVec 8) : (freezeUe s n u).str = s.str := by
  unfold freezeUe; split <;> simp
@[simp] theorem freezeUe_hp (n : Nat) (u : BitVec 8) : (freezeUe s n u).hp = s.hp := by
  unfold freezeUe; split <;> simp
@[simp] theorem freezeUe_tr (n : Nat) (u : BitVec 8) : (freezeUe s n u).tr = s.tr := by
  unfold freezeUe; split <;> simp
@[simp] theorem freezeUe_orr (n : Nat) (u : BitVec 8) : (freezeUe s n u).orr = s.orr := by
  unfold freezeUe; split <;> simp
@[simp] theorem freezeUe_tiles (n : Nat) (u : BitVec 8) : (freezeUe s n u).tiles = s.tiles := by
  unfold freezeUe; split <;> simp
@[simp] theorem freezeUe_got (n : Nat) (u : BitVec 8) : (freezeUe s n u).got = s.got := by
  unfold freezeUe; split <;> simp
@[simp] theorem freezeUe_sc (n : Nat) (u : BitVec 8) : (freezeUe s n u).sc = s.sc := by
  unfold freezeUe; split <;> simp
@[simp] theorem freezeUe_ly (n : Nat) (u : BitVec 8) : (freezeUe s n u).ly = s.ly := by
  unfold freezeUe; split <;> simp
@[simp] theorem freezeUe_load (n : Nat) (u : BitVec 8) : (freezeUe s n u).load = s.load := by
  unfold freezeUe; split <;> simp
@[simp] theorem freezeUe_draws (n : Nat) (u : BitVec 8) : (freezeUe s n u).draws = s.draws := by
  unfold freezeUe; split <;> simp
@[simp] theorem freezeUe_frees (n : Nat) (u : BitVec 8) : (freezeUe s n u).frees = s.frees := by
  unfold freezeUe; split <;> simp
@[simp] theorem freezeUe_aclk (n : Nat) (u : BitVec 8) : (freezeUe s n u).aclk = s.aclk := by
  unfold freezeUe; split <;> simp
@[simp] theorem freezeUe_aclk0 (n : Nat) (u : BitVec 8) : (freezeUe s n u).aclk0 = s.aclk0 := by
  unfold freezeUe; split <;> simp
@[simp] theorem freezeUe_ctrBase (n : Nat) (u : BitVec 8) : (freezeUe s n u).ctrBase = s.ctrBase := by
  unfold freezeUe; split <;> simp

end Sys2Proof.Machine
end

