-- ==== Sys2Proof/Laws/Forms.lean ====
section
/-! SUPPORT. What each form of a meaning can answer: once for every meaning of that form. -/

namespace Sys2Proof.Machine

theorem stopped_eq_false (s : State) :
    stopped s = false ↔ s.err.frozen = false ∧ s.pwr.pllLock = true ∧ s.pwr.pllLost = false := by
  simp [stopped, and_assoc]

theorem stopped_of_frozen {s : State} (h : s.err.frozen = true) : stopped s = true := by simp [stopped, h]

theorem not_frozen_of_live {s : State} (h : stopped s = false) : s.err.frozen = false :=
  ((stopped_eq_false s).mp h).1

theorem settleIn_clear (b t : State) (h : t.rc.need = []) : settleIn b t = t := by simp [settleIn, h]

theorem act_live {s : State} {f : State → State} (h : stopped s = false) (hn : (f s).rc.need = []) :
    act s f = .next (f s) := by
  simp [act, h, settle, settleIn, hn]

theorem act_stopped {s : State} {f : State → State} (h : stopped s = true) : act s f = .next s := by
  simp [act, h]

theorem hostAct_live {s : State} {f : State → State} (h : stopped s = false) (hn : (f s).rc.need = []) :
    hostAct s f = .next (f s) := by
  simp [hostAct, h, not_frozen_of_live h, settle, settleIn, hn]

theorem hostAct_frozen {s : State} {f : State → State} (h : s.err.frozen = true) :
    hostAct s f = .next (bump1 s ctrChipFrzHostRej) := by
  simp [hostAct, h]

theorem actKeep_live {s : State} {h : Held} {f : State → State} (hs : stopped s = false) (hn : (f s).rc.need = []) :
    actKeep s h f = .next (f s) := by
  simp [actKeep, hs, settleIn, hn]

theorem actKeep_stopped {s : State} {h : Held} {f : State → State} (hs : stopped s = true) :
    actKeep s h f = .next s := by
  simp [actKeep, hs]

theorem mbox_frozen {s : State} {r : MbRow} {body : State → MbCtx → MbOut} {m : MbWrite} (h : s.err.frozen = true) :
    mbox r body m s = .next (bump1 s ctrChipFrzHostRej) := by
  simp [mbox, h]

@[simp] theorem msixFire_rc (s : State) (v : Nat) : (msixFire s v).rc = s.rc := by
  unfold msixFire; split <;> rfl

@[simp] theorem mbComplete_rc (s : State) (c rc : Nat) (l : List (Nat × W64)) : (mbComplete s c rc l).rc = s.rc := by
  unfold mbComplete
  simp only []
  split
  · simp
  · split <;> simp

theorem mbRefuse_none (s : State) (m : MbWrite) (h1 : mbMaster s m = true) (h2 : (chanOf s m.ch).busy = false) :
    mbRefuse s m = none := by
  simp [mbRefuse, h1, h2]

@[simp] theorem chanOf_setChan_self (s : State) (c : Nat) (x : Chan) : chanOf (setChan s c x) c = x := by
  simp [chanOf, setChan]

theorem chanOf_mbTake (s : State) (m : MbWrite) (o : Nat) : chanOf (mbTake s m o) m.ch =
    { chanOf s m.ch with
      cmd := BitVec.ofNat 64 (o + b2n m.ien * 2 ^ 8 + b2n m.phys * 2 ^ 9 + m.token.toNat * 2 ^ 16),
      busy := true, ack := false, done := false, token := m.token, ien := m.ien } := by
  simp [mbTake]

/-- A write of `MB_CMD` that starts its command runs the row's body. -/
theorem mbox_starts {s : State} {r : MbRow} {body : State → MbCtx → MbOut} {m : MbWrite} (h : MbStarts r m s) :
    mbox r body m s = .next (settleIn (mbKept r m s) (mbRun (mbTake s m r.opc)
      { ch := m.ch, phys := m.phys, mgmt := m.mgmt, args := (chanOf (mbTake s m r.opc) m.ch).args } r body)) := by
  obtain ⟨h1, h2, h3, h4, -, h6, h7, h8, h9, h10, -⟩ := h
  have hb : mbBehind s m r.opc = false := h9.elim (fun h => by simp [mbBehind, h]) id
  have hp : (s.pwr.park != .running && mbWakes r) = false := by
    rcases h7 with h | h <;> simp [h]
  have hr : ((s.pwr.restart == .running || s.pwr.restart == .ordered) && r.opc != 0x73) = false := by rw [h8]; rfl
  have hf : (r.cls != .L && fsBusy (mbTake s m r.opc)) = false := by
    have e : fsBusy (mbTake s m r.opc) = fsBusy s := rfl
    split at h10 <;> simp [*]
  have hl : (r.cls == .L && decide (8 ≤ lCount (mbTake s m r.opc))) = false := by
    have e : lCount (mbTake s m r.opc) = lCount s := rfl
    split at h10 <;> simp_all
  simp only [mbox, h1, h2, hb, mboxF, mbRefuse_none s m h3 h4, mbTake_mer, mbTake_pwr, h6, hp, hr, hf, hl]
  simp

/-- A mailbox command that starts at once and is done: its own part's state, completed on its channel. -/
theorem mbox_done {s : State} {r : MbRow} {body : State → MbCtx → MbOut} {m : MbWrite} {t : State} {rc : Nat}
    {rets : List (Nat × W64)} (h : MbStarts r m s)
    (hb : body (mbTake s m r.opc) (mbCtx s m) = .done t rc rets) (hn : t.rc.need = []) :
    mbox r body m s = .next (mbComplete t m.ch rc rets) := by
  obtain ⟨-, -, -, -, -, -, -, -, -, -, h10⟩ := id h
  have hc : mbChecks (mbTake s m r.opc) r (chanOf (mbTake s m r.opc) m.ch) (chanOf s m.ch).args = none := by
    rw [chanOf_mbTake]; exact h10
  have ha : (chanOf (mbTake s m r.opc) m.ch).args = (chanOf s m.ch).args := by rw [chanOf_mbTake]
  have hb' : body (mbTake s m r.opc)
      { ch := m.ch, phys := m.phys, mgmt := m.mgmt, args := (chanOf s m.ch).args } = .done t rc rets := hb
  rw [mbox_starts h]
  simp only [ha, mbRun, hc, hb', mbApply]
  simp [settleIn, hn]

/-- One that waits as a class-L command: acknowledged, and kept among the running ones (R494). -/
theorem mbox_wait {s : State} {r : MbRow} {body : State → MbCtx → MbOut} {m : MbWrite} {t : State} {l : LRun}
    (h : MbStarts r m s) (hb : body (mbTake s m r.opc) (mbCtx s m) = .wait t l) (hn : t.rc.need = []) :
    mbox r body m s = .next { mbAck t m.ch with mer := { t.mer with lruns := t.mer.lruns ++ [l] } } := by
  obtain ⟨-, -, -, -, -, -, -, -, -, -, h10⟩ := id h
  have hc : mbChecks (mbTake s m r.opc) r (chanOf (mbTake s m r.opc) m.ch) (chanOf s m.ch).args = none := by
    rw [chanOf_mbTake]; exact h10
  have ha : (chanOf (mbTake s m r.opc) m.ch).args = (chanOf s m.ch).args := by rw [chanOf_mbTake]
  have hb' : body (mbTake s m r.opc)
      { ch := m.ch, phys := m.phys, mgmt := m.mgmt, args := (chanOf s m.ch).args } = .wait t l := hb
  rw [mbox_starts h]
  simp only [ha, mbRun, hc, hb', mbApply]
  simp [settleIn, hn]

/-- The channel's registers after a completion. -/
theorem chanOf_mbComplete (s : State) (c rc : Nat) (l : List (Nat × W64)) : chanOf (mbComplete s c rc l) c =
    { chanOf s c with
      ack := true, done := true, busy := false, rc := BitVec.ofNat 8 rc,
      rets := (List.range 8).map (fun i => ((l.find? (fun r => r.1 == i)).map (fun r => r.2)).getD 0) } := by
  have h : ∀ (t : State) v, chanOf (msixFire t v) c = chanOf t c := by
    intro t v; unfold msixFire; split <;> rfl
  have hd : ∀ (t : State) w, chanOf (dropGot t w) c = chanOf t c := fun _ _ => rfl
  have hp : ∀ (t : State) p, chanOf { t with pwr := p } c = chanOf t c := fun _ _ => rfl
  unfold mbComplete
  simp only []
  split
  · rw [hd, chanOf_setChan_self]
  · split
    · rw [h, hd, chanOf_setChan_self]
    · rw [hp, hd, chanOf_setChan_self]

theorem MbDone_mbComplete (s : State) (ch : Fin 16) (rc : Nat) (l : List (Nat × W64)) :
    MbDone (mbComplete s ch rc l) ch rc l := by
  unfold MbDone; rw [chanOf_mbComplete]; simp

end Sys2Proof.Machine
end

