-- ==== Sys2Proof/Laws/Memory.lean ====
section
/-! SUPPORT. Laws of the tier memory: reads after writes, and the canonical form that every memory operation keeps. -/

namespace Sys2Proof.Machine

/-! ### Cells -/

theorem cellGet_cellSet_self (m : List Host.Cell) (a : Nat) (v : Byte) (h : cellsWf m = true) :
    cellGet (cellSet m a v) a = v := by
  induction m with
  | nil => simp only [cellSet]; split <;> simp_all [cellGet]
  | cons e m ih =>
    obtain ⟨k, w⟩ := e
    have hm : cellsWf m = true := by cases m <;> simp_all [cellsWf]
    simp only [cellSet]
    split
    · subst_vars
      split
      · subst_vars
        -- the entry goes, and no later one has the address
        have key : ∀ (l : List Host.Cell) (b : Nat), cellsWf ((b, w) :: l) = true → cellGet l b = 0 := by
          intro l
          induction l with
          | nil => intros; rfl
          | cons e' l' ih' =>
            obtain ⟨k', w'⟩ := e'
            intro b hb
            simp only [cellsWf, Bool.and_eq_true, decide_eq_true_eq] at hb
            simp only [cellGet, if_neg (show ¬ k' = b by omega)]
            apply ih'
            cases l' with
            | nil => simp only [cellsWf]; exact hb.1.1
            | cons e'' l'' =>
              obtain ⟨k'', w''⟩ := e''
              have := hb.2
              simp only [cellsWf, Bool.and_eq_true, decide_eq_true_eq] at this ⊢
              exact ⟨⟨hb.1.1, by omega⟩, this.2⟩
        exact key m k h
      · simp [cellGet]
    · split
      · split
        · subst_vars
          have key : ∀ (l : List Host.Cell) (b : Nat), cellsWf l = true → (∀ e ∈ l.head?, b < e.1) → cellGet l b = 0 := by
            intro l
            induction l with
            | nil => intros; rfl
            | cons e' l' ih' =>
              obtain ⟨k', w'⟩ := e'
              intro b hb hlt
              have h1 : b < k' := hlt (k', w') (by simp)
              simp only [cellGet, if_neg (show ¬ k' = b by omega)]
              apply ih'
              · cases l' <;> simp_all [cellsWf]
              · intro e he
                cases l' with
                | nil => simp at he
                | cons e2 l2 =>
                  simp at he; subst he
                  obtain ⟨k2, w2⟩ := e2
                  simp only [cellsWf, Bool.and_eq_true, decide_eq_true_eq] at hb
                  simp only; omega
          exact key ((k, w) :: m) a h (by intro e he; simp at he; subst he; simpa using ‹a < k›)
        · simp [cellGet]
      · rename_i hk _
        simp only [cellGet, if_neg hk]; exact ih hm

theorem cellGet_cellSet_ne (m : List Host.Cell) (a b : Nat) (v : Byte) (h : b ≠ a) :
    cellGet (cellSet m a v) b = cellGet m b := by
  induction m with
  | nil => simp only [cellSet]; split <;> simp [cellGet, Ne.symm h]
  | cons e m ih =>
    obtain ⟨k, w⟩ := e
    simp only [cellSet]
    split
    · subst_vars
      split <;> simp [cellGet, Ne.symm h]
    · split
      · split <;> simp [cellGet, Ne.symm h]
      · simp [cellGet, ih]

/-- An address below every listed one can be put in front. -/
theorem cellsWf_cons (m : List Host.Cell) (k : Nat) (w : Byte) (hw : (w != 0) = true) (hm : cellsWf m = true)
    (hlt : ∀ e ∈ m.head?, k < e.1) : cellsWf ((k, w) :: m) = true := by
  cases m with
  | nil => simpa [cellsWf] using hw
  | cons e m =>
    obtain ⟨k', w'⟩ := e
    simp only [cellsWf, hw, Bool.true_and, Bool.and_eq_true, decide_eq_true_eq]
    exact ⟨hlt (k', w') (by simp), hm⟩

theorem cellsWf_tail {e : Host.Cell} {m : List Host.Cell} (h : cellsWf (e :: m) = true) : cellsWf m = true := by
  obtain ⟨k, w⟩ := e
  cases m with
  | nil => rfl
  | cons e' m' => obtain ⟨k', w'⟩ := e'; simp only [cellsWf, Bool.and_eq_true] at h; exact h.2

theorem cellsWf_head {k : Nat} {w : Byte} {m : List Host.Cell} (h : cellsWf ((k, w) :: m) = true) :
    (w != 0) = true ∧ ∀ e ∈ m, k < e.1 := by
  induction m generalizing k w with
  | nil => exact ⟨by simpa [cellsWf] using h, by simp⟩
  | cons e' m' ih =>
    obtain ⟨k', w'⟩ := e'
    simp only [cellsWf, Bool.and_eq_true, decide_eq_true_eq] at h
    refine ⟨h.1.1, ?_⟩
    intro e he
    rcases List.mem_cons.mp he with rfl | he
    · exact h.1.2
    · exact Nat.lt_trans h.1.2 ((ih h.2).2 e he)

theorem cellSet_lb (m : List Host.Cell) (a b : Nat) (v : Byte) (hb : b < a) (h : ∀ e ∈ m, b < e.1) :
    ∀ e ∈ cellSet m a v, b < e.1 := by
  induction m with
  | nil =>
    intro e he
    simp only [cellSet] at he
    split at he <;> simp_all
  | cons x m ih =>
    obtain ⟨k, w⟩ := x
    have hk : b < k := h (k, w) (by simp)
    have hm : ∀ e ∈ m, b < e.1 := fun e he => h e (by simp [he])
    intro e he
    simp only [cellSet] at he
    split at he
    · split at he
      · exact hm e he
      · rcases List.mem_cons.mp he with rfl | he
        · exact hb
        · exact hm e he
    · split at he
      · split at he
        · exact h e he
        · rcases List.mem_cons.mp he with rfl | he
          · exact hb
          · exact h e he
      · rcases List.mem_cons.mp he with rfl | he
        · exact hk
        · exact ih hm e he

theorem cellsWf_cellSet (m : List Host.Cell) (a : Nat) (v : Byte) (h : cellsWf m = true) :
    cellsWf (cellSet m a v) = true := by
  induction m with
  | nil => simp only [cellSet]; split <;> simp_all [cellsWf]
  | cons e m ih =>
    obtain ⟨k, w⟩ := e
    have hh := cellsWf_head h
    have ht := cellsWf_tail h
    simp only [cellSet]
    split
    · subst_vars
      split
      · exact ht
      · exact cellsWf_cons m k v (by simpa using ‹¬ v = 0›) ht (fun e he => hh.2 e (List.mem_of_mem_head? he))
    · split
      · split
        · exact h
        · refine cellsWf_cons _ a v (by simpa using ‹¬ v = 0›) h ?_
          intro e he; simp at he; subst he; simpa using ‹a < k›
      · refine cellsWf_cons _ k w hh.1 (ih ht) ?_
        intro e he
        exact cellSet_lb m a k v (by omega) hh.2 e (List.mem_of_mem_head? he)

theorem cellsWf_cellsWrite (l : List Byte) (m : List Host.Cell) (a : Nat) (h : cellsWf m = true) :
    cellsWf (cellsWrite m a l) = true := by
  induction l generalizing m a with
  | nil => exact h
  | cons b l ih => exact ih _ _ (cellsWf_cellSet m a b h)

theorem cellGet_cellsWrite_out (l : List Byte) (m : List Host.Cell) (a b : Nat) (h : b < a ∨ a + l.length ≤ b) :
    cellGet (cellsWrite m a l) b = cellGet m b := by
  induction l generalizing m a with
  | nil => rfl
  | cons v l ih =>
    simp only [List.length_cons] at h
    rw [cellsWrite, ih _ _ (by omega), cellGet_cellSet_ne _ _ _ _ (by omega)]

theorem cellGet_cellsWrite_in (l : List Byte) (m : List Host.Cell) (a i : Nat) (hm : cellsWf m = true)
    (h : i < l.length) : cellGet (cellsWrite m a l) (a + i) = l[i] := by
  induction l generalizing m a i with
  | nil => simp at h
  | cons v l ih =>
    rw [cellsWrite]
    cases i with
    | zero =>
      rw [cellGet_cellsWrite_out _ _ _ _ (by omega)]
      exact cellGet_cellSet_self _ _ _ hm
    | succ i =>
      have := ih (cellSet m a v) (a + 1) i (cellsWf_cellSet m a v hm) (by simpa using h)
      rw [show a + (i + 1) = a + 1 + i by omega, this]; rfl

@[simp] theorem cellsRead_length (m : List Host.Cell) (a n : Nat) : (cellsRead m a n).length = n := by
  induction n generalizing a with
  | zero => rfl
  | succ n ih => simp [cellsRead, ih]

theorem cellsRead_eq (m : List Host.Cell) (a n i : Nat) (h : i < n) :
    (cellsRead m a n)[i]'(by simpa using h) = cellGet m (a + i) := by
  induction n generalizing a i with
  | zero => omega
  | succ n ih =>
    cases i with
    | zero => rfl
    | succ i =>
      have := ih (a + 1) i (by omega)
      simpa [cellsRead, show a + 1 + i = a + (i + 1) by omega] using this

/-- Bytes that were written read back. -/
theorem cellsRead_cellsWrite (m : List Host.Cell) (a : Nat) (l : List Byte) (hm : cellsWf m = true) :
    cellsRead (cellsWrite m a l) a l.length = l := by
  apply List.ext_getElem (by simp)
  intro i h1 h2
  rw [cellsRead_eq _ _ _ _ (by simpa using h2), cellGet_cellsWrite_in _ _ _ _ hm h2]

theorem cellsWf_filter (p : Host.Cell → Bool) (m : List Host.Cell) (h : cellsWf m = true) :
    cellsWf (m.filter p) = true := by
  induction m with
  | nil => rfl
  | cons e m ih =>
    obtain ⟨k, w⟩ := e
    have hh := cellsWf_head h
    have ht := cellsWf_tail h
    rw [List.filter_cons]
    split
    · refine cellsWf_cons _ k w hh.1 (ih ht) ?_
      intro e he
      exact hh.2 e (List.mem_filter.mp (List.mem_of_mem_head? he)).1
    · exact ih ht

/-! ### Rising lists of sector numbers -/

theorem risingNat_cons_iff (a : Nat) (l : List Nat) :
    risingNat (a :: l) = true ↔ (∀ b ∈ l, a < b) ∧ risingNat l = true := by
  induction l generalizing a with
  | nil => simp [risingNat]
  | cons b l ih =>
    simp only [risingNat, Bool.and_eq_true, decide_eq_true_eq, ih, List.mem_cons, forall_eq_or_imp]
    constructor
    · rintro ⟨h1, h2, h3⟩; exact ⟨⟨h1, fun c hc => Nat.lt_trans h1 (h2 c hc)⟩, h2, h3⟩
    · rintro ⟨⟨h1, _⟩, h2, h3⟩; exact ⟨h1, h2, h3⟩

theorem sins_mem (l : List Nat) (n x : Nat) : x ∈ sins l n ↔ x = n ∨ x ∈ l := by
  induction l with
  | nil => simp [sins]
  | cons k l ih =>
    simp only [sins]
    split
    · subst_vars; simp
    · split
      · simp
      · simp [ih]; tauto

theorem risingNat_sins (l : List Nat) (n : Nat) (h : risingNat l = true) : risingNat (sins l n) = true := by
  induction l with
  | nil => rfl
  | cons k l ih =>
    have hh := (risingNat_cons_iff k l).mp h
    simp only [sins]
    split
    · exact h
    · split
      · rw [risingNat_cons_iff]
        refine ⟨?_, h⟩
        intro b hb
        rcases List.mem_cons.mp hb with rfl | hb
        · assumption
        · exact Nat.lt_trans (by assumption) (hh.1 b hb)
      · rw [risingNat_cons_iff]
        refine ⟨?_, ih hh.2⟩
        intro b hb
        rcases (sins_mem l n b).mp hb with rfl | hb
        · omega
        · exact hh.1 b hb

theorem risingNat_filter (p : Nat → Bool) (l : List Nat) (h : risingNat l = true) : risingNat (l.filter p) = true := by
  induction l with
  | nil => rfl
  | cons k l ih =>
    have hh := (risingNat_cons_iff k l).mp h
    rw [List.filter_cons]
    split
    · rw [risingNat_cons_iff]
      exact ⟨fun b hb => hh.1 b (List.mem_filter.mp hb).1, ih hh.2⟩
    · exact ih hh.2

theorem risingNat_sdel (l : List Nat) (n : Nat) (h : risingNat l = true) : risingNat (sdel l n) = true :=
  risingNat_filter _ l h

/-! ### The memory operations keep the canonical form -/

theorem Memory.wf_iff (m : Mem) : Memory.wf m = true ↔
    cellsWf m.cells = true ∧ risingNat m.poisF = true ∧ risingNat m.ueF = true ∧ risingNat m.poisS = true ∧
      risingNat m.linkS = true := by
  simp only [Memory.wf, Bool.and_eq_true]; tauto

theorem Memory.wf_reset : Memory.wf State.reset.mem = true := by decide

theorem Memory.wf_zero (m : Mem) (a n : Nat) (h : Memory.wf m = true) : Memory.wf (m.zero a n) = true := by
  rw [Memory.wf_iff] at *
  exact ⟨cellsWf_filter _ _ h.1, risingNat_filter _ _ h.2.1, risingNat_filter _ _ h.2.2.1,
    risingNat_filter _ _ h.2.2.2.1, h.2.2.2.2⟩

@[simp] theorem msixFire_mem (s : State) (v : Nat) : (msixFire s v).mem = s.mem := by
  unfold msixFire; split <;> rfl

@[simp] theorem raiseEvent_mem (s : State) (c u : Nat) (ea eb : W64) : (raiseEvent s c u ea eb).mem = s.mem := by
  unfold raiseEvent; split <;> simp

@[simp] theorem countDown_mem (s : State) (a : Nat) : (countDown s a).mem = s.mem := by
  unfold countDown; split
  · simp
  · split <;> simp

@[simp] theorem openMiss_mem (s : State) (a : LineAccess) : (openMiss s a).mem = s.mem := rfl

/-- Bytes written into memory in canonical form. -/
theorem Memory.wf_put (m : Mem) (a : Nat) (l : List Byte) (pf uf ps ls : List Nat) (h : cellsWf m.cells = true)
    (h2 : risingNat pf = true) (h3 : risingNat uf = true) (h4 : risingNat ps = true) (h5 : risingNat ls = true) :
    Memory.wf { cells := cellsWrite m.cells a l, poisF := pf, ueF := uf, poisS := ps, linkS := ls } = true :=
  (Memory.wf_iff _).mpr ⟨cellsWf_cellsWrite _ _ _ h, h2, h3, h4, h5⟩

theorem Memory.wf_dWriteSec (s : State) (sec : Nat) (upd : List (Option Byte)) (p : Bool)
    (h : Memory.wf s.mem = true) : Memory.wf (dWriteSec s sec upd p).mem = true := by
  obtain ⟨h1, h2, h3, h4, h5⟩ := (Memory.wf_iff _).mp h
  unfold dWriteSec
  simp only []
  split
  · simp only [freezeUe_mem, bumpIf_mem]
    apply Memory.wf_put _ _ _ _ _ _ _ h1
    · split
      · exact risingNat_sins _ _ h2
      · split
        · exact risingNat_sdel _ _ h2
        · exact h2
    · exact risingNat_sdel _ _ h3
    · exact h4
    · exact h5
  · split
    · split
      · exact Memory.wf_put _ _ _ _ _ _ _ h1 h2 h3 (risingNat_sdel _ _ h4) h5
      · exact Memory.wf_put _ _ _ _ _ _ _ h1 h2 h3 h4 h5
    · split
      · exact Memory.wf_put _ _ _ _ _ _ _ h1 h2 h3 (risingNat_sins _ _ h4) h5
      · rw [raiseEvent_mem, bump1_mem]; exact Memory.wf_put _ _ _ _ _ _ _ h1 h2 h3 h4 h5

theorem Memory.wf_dWrite (s : State) (a : Nat) (l : List Byte) (p : Bool)
    (h : Memory.wf s.mem = true) : Memory.wf (dWrite s a l p).mem = true := by
  unfold dWrite
  split
  · exact h
  · split
    · simpa using h
    · simp only []
      split
      · exact Memory.wf_dWriteSec _ _ _ _ h
      · exact Memory.wf_dWriteSec _ _ _ _ (Memory.wf_dWriteSec _ _ _ _ h)

@[simp] theorem dReadSecs_mem (s : State) (a n : Nat) : (dReadSecs s a n).1.mem = s.mem := by
  unfold dReadSecs
  split
  · simp [freeBytes]
  · simp only []; split <;> simp

@[simp] theorem missSector_mem (s : State) (sec : Nat) : (missSector s sec).1.mem = s.mem := by
  unfold missSector
  split
  · rfl
  · split
    · rfl
    · exact dReadSecs_mem _ _ _

@[simp] theorem snoopGate_mem (s : State) (x : Nat) (w : Bool) : (snoopGate s x w).mem = s.mem := by
  unfold snoopGate
  split
  · rfl
  · split <;> rfl

@[simp] theorem snoopExt_mem (s : State) (a n : Nat) (w : Bool) : (snoopExt s a n w).mem = s.mem := by
  unfold snoopExt
  generalize s.rc.snoop.filter _ = l
  induction l generalizing s with
  | nil => rfl
  | cons e l ih => rw [List.foldl_cons, ih, snoopGate_mem]

@[simp] theorem hitHint_mem (s : State) (sl st w : Nat) (l : CLine) (hint : BitVec 2) :
    (hitHint s sl st w l hint).mem = s.mem := by
  unfold hitHint
  simp only []
  split
  · simp
  · split
    · split <;> simp
    · rfl

theorem Memory.wf_writeBack (s : State) (l : CLine) (h : Memory.wf s.mem = true) :
    Memory.wf (writeBack s l).mem = true := Memory.wf_dWrite _ _ _ _ h

theorem Memory.wf_allocLine (s : State) (sl st x : Nat) (hint : BitVec 2) (d p : Bool) (l : List Byte)
    (h : Memory.wf s.mem = true) : Memory.wf (allocLine s sl st x hint d p l).mem = true := by
  unfold allocLine
  split
  · split
    · exact Memory.wf_dWrite _ _ _ _ h
    · exact h
  · simp only []
    split <;>
    · simp only [setLine_mem, touchWay_mem, bumpIf_mem]
      split
      · rw [dropLine_mem]; split
        · exact Memory.wf_writeBack _ _ h
        · exact h
      · exact h

theorem Memory.wf_putLine (s : State) (a : Nat) (l : List Byte) (hint : BitVec 2) (p : Bool)
    (h : Memory.wf s.mem = true) : Memory.wf (putLine s a l hint p).mem = true := by
  unfold putLine
  simp only []
  split
  · rw [hitHint_mem]
    split
    · exact Memory.wf_writeBack _ _ (by simpa using h)
    · simpa using h
  · split
    · exact Memory.wf_allocLine _ _ _ _ _ _ _ _ h
    · exact Memory.wf_dWrite _ _ _ _ h

theorem Memory.wf_afterFill (s : State) (w : Waiting) (h : Memory.wf s.mem = true) :
    Memory.wf (afterFill s w).mem = true := by
  unfold afterFill
  split
  · exact Memory.wf_putLine _ _ _ _ _ h
  · split
    · simpa using h
    · exact h

theorem Memory.wf_foldl {α : Type} (f : State → α → State)
    (hf : ∀ s a, Memory.wf s.mem = true → Memory.wf (f s a).mem = true) (l : List α) (s : State)
    (h : Memory.wf s.mem = true) : Memory.wf (l.foldl f s).mem = true := by
  induction l generalizing s with
  | nil => exact h
  | cons a l ih => exact ih _ (hf _ _ h)

theorem Memory.wf_fillLine (s : State) (x : Nat) (d : List Byte) (b : Bool) (h : Memory.wf s.mem = true) :
    Memory.wf (fillLine s x d b).mem = true := by
  unfold fillLine
  split
  · exact h
  · rename_i m _ _
    simp only []
    refine Memory.wf_foldl _ Memory.wf_afterFill _ _ ?_
    by_cases hw : m.acc.write = true <;> simp only [hw, if_true, if_false, Bool.false_eq_true] <;> split
    all_goals first | exact Memory.wf_allocLine _ _ _ _ _ _ _ _ h | exact h

theorem takeFill_eq (s : State) (x : Nat) :
    takeFill s x = fillLine (missSector (missSector s (2 * x)).1 (2 * x + 1)).1 x
      ((missSector s (2 * x)).2.1 ++ (missSector (missSector s (2 * x)).1 (2 * x + 1)).2.1)
      ((missSector s (2 * x)).2.2 || (missSector (missSector s (2 * x)).1 (2 * x + 1)).2.2) := rfl

theorem Memory.wf_takeFill (s : State) (x : Nat) (h : Memory.wf s.mem = true) :
    Memory.wf (takeFill s x).mem = true := by
  rw [takeFill_eq]
  exact Memory.wf_fillLine _ _ _ _ (by rw [missSector_mem, missSector_mem]; exact h)

theorem Memory.wf_takeFills (s : State) (p : Nat → Bool) (h : Memory.wf s.mem = true) :
    Memory.wf (takeFills s p).mem = true := Memory.wf_foldl _ Memory.wf_takeFill _ _ h

theorem Memory.wf_writeLine (s : State) (a : Nat) (l : List Byte) (hint : BitVec 2) (p : Bool)
    (h : Memory.wf s.mem = true) : Memory.wf (writeLine s a l hint p).mem = true := by
  have hg : ∀ x w, Memory.wf (snoopGate s x w).mem = true := by intro x w; simpa using h
  unfold writeLine
  simp only []
  split
  · exact Memory.wf_dWrite _ _ _ _ (hg _ _)
  · apply Memory.wf_putLine
    split
    · exact Memory.wf_takeFill _ _ (hg _ _)
    · exact hg _ _

theorem Memory.wf_writeExtGo (hint : BitVec 2) (p : Bool) (k : Nat) (s : State) (a : Nat) (l : List Byte)
    (h : Memory.wf s.mem = true) : Memory.wf (writeExtGo hint p k s a l).mem = true := by
  induction k generalizing s a l with
  | zero => exact h
  | succ k ih =>
    unfold writeExtGo
    split
    · exact h
    · exact ih _ _ _ (Memory.wf_writeLine _ _ _ _ _ h)

theorem Memory.wf_writeExt (s : State) (a : Nat) (l : List Byte) (hint : BitVec 2) (p : Bool)
    (h : Memory.wf s.mem = true) : Memory.wf (writeExt s a l hint p).mem = true :=
  Memory.wf_writeExtGo _ _ _ _ _ _ h

theorem Memory.wf_readLine (s : State) (x : Nat) (hint : BitVec 2) (h : Memory.wf s.mem = true) :
    Memory.wf (readLine s x hint).1.mem = true := by
  have hg : Memory.wf (snoopGate s x false).mem = true := by simpa using h
  unfold readLine
  simp only []
  split
  · simpa using h
  · split
    · have hf := Memory.wf_afterFill (bump1 (takeFill (snoopGate s x false) x)
        (ctrSliceRcMiss (homeSlice (snoopGate s x false) x)))
        { x := x, acc := { addr := x * 64, write := false, hint := hint, data := [], poison := false, host := false } }
        (by simpa using Memory.wf_takeFill _ x hg)
      split <;> exact hf
    · split
      · split
        · split <;> simpa using h
        · simpa using h
      · split
        · exact Memory.wf_allocLine _ _ _ _ _ _ _ _ (by simpa using h)
        · simpa using h

theorem Memory.wf_zeroExt (s : State) (a n : Nat) (h : Memory.wf s.mem = true) :
    Memory.wf (zeroExt s a n).mem = true :=
  Memory.wf_zero _ _ _ (Memory.wf_takeFills _ _ (by simpa using h))

end Sys2Proof.Machine
end

