-- ==== Sys2Proof/Laws/Completion.lean ====
section
/-! SUPPORT. What the completion of a mailbox command leaves as it was: everything but the channels, the bytes fetched for
it, the interrupts and the completion line. -/

namespace Sys2Proof.Machine

@[simp] theorem msixFire_pending (s : State) (v : Nat) : (msixFire s v).pending = s.pending := by
  unfold msixFire; split <;> rfl
@[simp] theorem msixFire_err (s : State) (v : Nat) : (msixFire s v).err = s.err := by
  unfold msixFire; split <;> rfl
@[simp] theorem msixFire_mer (s : State) (v : Nat) : (msixFire s v).mer = s.mer := by
  unfold msixFire; split <;> rfl
@[simp] theorem msixFire_evt (s : State) (v : Nat) : (msixFire s v).evt = s.evt := by
  unfold msixFire; split <;> rfl
@[simp] theorem msixFire_scratchHost (s : State) (v : Nat) : (msixFire s v).scratchHost = s.scratchHost := by
  unfold msixFire; split <;> rfl
@[simp] theorem msixFire_scratchMgmt (s : State) (v : Nat) : (msixFire s v).scratchMgmt = s.scratchMgmt := by
  unfold msixFire; split <;> rfl
@[simp] theorem msixFire_ctrs (s : State) (v : Nat) : (msixFire s v).ctrs = s.ctrs := by
  unfold msixFire; split <;> rfl
@[simp] theorem msixFire_tabs (s : State) (v : Nat) : (msixFire s v).tabs = s.tabs := by
  unfold msixFire; split <;> rfl
@[simp] theorem msixFire_mc (s : State) (v : Nat) : (msixFire s v).mc = s.mc := by
  unfold msixFire; split <;> rfl
@[simp] theorem msixFire_alm (s : State) (v : Nat) : (msixFire s v).alm = s.alm := by
  unfold msixFire; split <;> rfl
@[simp] theorem msixFire_xlt (s : State) (v : Nat) : (msixFire s v).xlt = s.xlt := by
  unfold msixFire; split <;> rfl
@[simp] theorem msixFire_str (s : State) (v : Nat) : (msixFire s v).str = s.str := by
  unfold msixFire; split <;> rfl
@[simp] theorem msixFire_hp (s : State) (v : Nat) : (msixFire s v).hp = s.hp := by
  unfold msixFire; split <;> rfl
@[simp] theorem msixFire_tr (s : State) (v : Nat) : (msixFire s v).tr = s.tr := by
  unfold msixFire; split <;> rfl
@[simp] theorem msixFire_orr (s : State) (v : Nat) : (msixFire s v).orr = s.orr := by
  unfold msixFire; split <;> rfl
@[simp] theorem msixFire_tiles (s : State) (v : Nat) : (msixFire s v).tiles = s.tiles := by
  unfold msixFire; split <;> rfl
@[simp] theorem msixFire_sc (s : State) (v : Nat) : (msixFire s v).sc = s.sc := by
  unfold msixFire; split <;> rfl
@[simp] theorem msixFire_ly (s : State) (v : Nat) : (msixFire s v).ly = s.ly := by
  unfold msixFire; split <;> rfl
@[simp] theorem msixFire_load (s : State) (v : Nat) : (msixFire s v).load = s.load := by
  unfold msixFire; split <;> rfl
@[simp] theorem msixFire_draws (s : State) (v : Nat) : (msixFire s v).draws = s.draws := by
  unfold msixFire; split <;> rfl
@[simp] theorem msixFire_frees (s : State) (v : Nat) : (msixFire s v).frees = s.frees := by
  unfold msixFire; split <;> rfl
@[simp] theorem msixFire_aclk (s : State) (v : Nat) : (msixFire s v).aclk = s.aclk := by
  unfold msixFire; split <;> rfl
@[simp] theorem msixFire_aclk0 (s : State) (v : Nat) : (msixFire s v).aclk0 = s.aclk0 := by
  unfold msixFire; split <;> rfl
@[simp] theorem msixFire_ctrBase (s : State) (v : Nat) : (msixFire s v).ctrBase = s.ctrBase := by
  unfold msixFire; split <;> rfl
@[simp] theorem msixFire_pwr (s : State) (v : Nat) : (msixFire s v).pwr = s.pwr := by
  unfold msixFire; split <;> rfl
@[simp] theorem mbComplete_pending (s : State) (c rc : Nat) (l : List (Nat × W64)) : (mbComplete s c rc l).pending = s.pending := by
  unfold mbComplete; simp only []; split
  · simp
  · split <;> simp
@[simp] theorem mbComplete_err (s : State) (c rc : Nat) (l : List (Nat × W64)) : (mbComplete s c rc l).err = s.err := by
  unfold mbComplete; simp only []; split
  · simp
  · split <;> simp
@[simp] theorem mbComplete_mer (s : State) (c rc : Nat) (l : List (Nat × W64)) : (mbComplete s c rc l).mer = s.mer := by
  unfold mbComplete; simp only []; split
  · simp
  · split <;> simp
@[simp] theorem mbComplete_evt (s : State) (c rc : Nat) (l : List (Nat × W64)) : (mbComplete s c rc l).evt = s.evt := by
  unfold mbComplete; simp only []; split
  · simp
  · split <;> simp
@[simp] theorem mbComplete_scratchHost (s : State) (c rc : Nat) (l : List (Nat × W64)) : (mbComplete s c rc l).scratchHost = s.scratchHost := by
  unfold mbComplete; simp only []; split
  · simp
  · split <;> simp
@[simp] theorem mbComplete_scratchMgmt (s : State) (c rc : Nat) (l : List (Nat × W64)) : (mbComplete s c rc l).scratchMgmt = s.scratchMgmt := by
  unfold mbComplete; simp only []; split
  · simp
  · split <;> simp
@[simp] theorem mbComplete_ctrs (s : State) (c rc : Nat) (l : List (Nat × W64)) : (mbComplete s c rc l).ctrs = s.ctrs := by
  unfold mbComplete; simp only []; split
  · simp
  · split <;> simp
@[simp] theorem mbComplete_tabs (s : State) (c rc : Nat) (l : List (Nat × W64)) : (mbComplete s c rc l).tabs = s.tabs := by
  unfold mbComplete; simp only []; split
  · simp
  · split <;> simp
@[simp] theorem mbComplete_mem (s : State) (c rc : Nat) (l : List (Nat × W64)) : (mbComplete s c rc l).mem = s.mem := by
  unfold mbComplete; simp only []; split
  · simp
  · split <;> simp
@[simp] theorem mbComplete_mc (s : State) (c rc : Nat) (l : List (Nat × W64)) : (mbComplete s c rc l).mc = s.mc := by
  unfold mbComplete; simp only []; split
  · simp
  · split <;> simp
@[simp] theorem mbComplete_alm (s : State) (c rc : Nat) (l : List (Nat × W64)) : (mbComplete s c rc l).alm = s.alm := by
  unfold mbComplete; simp only []; split
  · simp
  · split <;> simp
@[simp] theorem mbComplete_xlt (s : State) (c rc : Nat) (l : List (Nat × W64)) : (mbComplete s c rc l).xlt = s.xlt := by
  unfold mbComplete; simp only []; split
  · simp
  · split <;> simp
@[simp] theorem mbComplete_str (s : State) (c rc : Nat) (l : List (Nat × W64)) : (mbComplete s c rc l).str = s.str := by
  unfold mbComplete; simp only []; split
  · simp
  · split <;> simp
@[simp] theorem mbComplete_hp (s : State) (c rc : Nat) (l : List (Nat × W64)) : (mbComplete s c rc l).hp = s.hp := by
  unfold mbComplete; simp only []; split
  · simp
  · split <;> simp
@[simp] theorem mbComplete_tr (s : State) (c rc : Nat) (l : List (Nat × W64)) : (mbComplete s c rc l).tr = s.tr := by
  unfold mbComplete; simp only []; split
  · simp
  · split <;> simp
@[simp] theorem mbComplete_orr (s : State) (c rc : Nat) (l : List (Nat × W64)) : (mbComplete s c rc l).orr = s.orr := by
  unfold mbComplete; simp only []; split
  · simp
  · split <;> simp
@[simp] theorem mbComplete_tiles (s : State) (c rc : Nat) (l : List (Nat × W64)) : (mbComplete s c rc l).tiles = s.tiles := by
  unfold mbComplete; simp only []; split
  · simp
  · split <;> simp
@[simp] theorem mbComplete_sc (s : State) (c rc : Nat) (l : List (Nat × W64)) : (mbComplete s c rc l).sc = s.sc := by
  unfold mbComplete; simp only []; split
  · simp
  · split <;> simp
@[simp] theorem mbComplete_ly (s : State) (c rc : Nat) (l : List (Nat × W64)) : (mbComplete s c rc l).ly = s.ly := by
  unfold mbComplete; simp only []; split
  · simp
  · split <;> simp
@[simp] theorem mbComplete_load (s : State) (c rc : Nat) (l : List (Nat × W64)) : (mbComplete s c rc l).load = s.load := by
  unfold mbComplete; simp only []; split
  · simp
  · split <;> simp
@[simp] theorem mbComplete_draws (s : State) (c rc : Nat) (l : List (Nat × W64)) : (mbComplete s c rc l).draws = s.draws := by
  unfold mbComplete; simp only []; split
  · simp
  · split <;> simp
@[simp] theorem mbComplete_frees (s : State) (c rc : Nat) (l : List (Nat × W64)) : (mbComplete s c rc l).frees = s.frees := by
  unfold mbComplete; simp only []; split
  · simp
  · split <;> simp
@[simp] theorem mbComplete_aclk (s : State) (c rc : Nat) (l : List (Nat × W64)) : (mbComplete s c rc l).aclk = s.aclk := by
  unfold mbComplete; simp only []; split
  · simp
  · split <;> simp
@[simp] theorem mbComplete_aclk0 (s : State) (c rc : Nat) (l : List (Nat × W64)) : (mbComplete s c rc l).aclk0 = s.aclk0 := by
  unfold mbComplete; simp only []; split
  · simp
  · split <;> simp
@[simp] theorem mbComplete_ctrBase (s : State) (c rc : Nat) (l : List (Nat × W64)) : (mbComplete s c rc l).ctrBase = s.ctrBase := by
  unfold mbComplete; simp only []; split
  · simp
  · split <;> simp
@[simp] theorem mbComplete_pwr_pllLock (s : State) (c rc : Nat) (l : List (Nat × W64)) :
    (mbComplete s c rc l).pwr.pllLock = s.pwr.pllLock := by
  unfold mbComplete; simp only []; split
  · simp
  · split <;> simp
@[simp] theorem mbComplete_pwr_pllLost (s : State) (c rc : Nat) (l : List (Nat × W64)) :
    (mbComplete s c rc l).pwr.pllLost = s.pwr.pllLost := by
  unfold mbComplete; simp only []; split
  · simp
  · split <;> simp
@[simp] theorem mbComplete_pwr_sl (s : State) (c rc : Nat) (l : List (Nat × W64)) :
    (mbComplete s c rc l).pwr.sl = s.pwr.sl := by
  unfold mbComplete; simp only []; split
  · simp
  · split <;> simp
@[simp] theorem mbComplete_pwr_park (s : State) (c rc : Nat) (l : List (Nat × W64)) :
    (mbComplete s c rc l).pwr.park = s.pwr.park := by
  unfold mbComplete; simp only []; split
  · simp
  · split <;> simp
@[simp] theorem mbComplete_pwr_wakeHeld (s : State) (c rc : Nat) (l : List (Nat × W64)) :
    (mbComplete s c rc l).pwr.wakeHeld = s.pwr.wakeHeld := by
  unfold mbComplete; simp only []; split
  · simp
  · split <;> simp
@[simp] theorem mbComplete_pwr_held (s : State) (c rc : Nat) (l : List (Nat × W64)) :
    (mbComplete s c rc l).pwr.held = s.pwr.held := by
  unfold mbComplete; simp only []; split
  · simp
  · split <;> simp
@[simp] theorem mbComplete_pwr_cap (s : State) (c rc : Nat) (l : List (Nat × W64)) :
    (mbComplete s c rc l).pwr.cap = s.pwr.cap := by
  unfold mbComplete; simp only []; split
  · simp
  · split <;> simp
@[simp] theorem mbComplete_pwr_ctl (s : State) (c rc : Nat) (l : List (Nat × W64)) :
    (mbComplete s c rc l).pwr.ctl = s.pwr.ctl := by
  unfold mbComplete; simp only []; split
  · simp
  · split <;> simp
@[simp] theorem mbComplete_pwr_railAlert (s : State) (c rc : Nat) (l : List (Nat × W64)) :
    (mbComplete s c rc l).pwr.railAlert = s.pwr.railAlert := by
  unfold mbComplete; simp only []; split
  · simp
  · split <;> simp
@[simp] theorem mbComplete_pwr_railHold (s : State) (c rc : Nat) (l : List (Nat × W64)) :
    (mbComplete s c rc l).pwr.railHold = s.pwr.railHold := by
  unfold mbComplete; simp only []; split
  · simp
  · split <;> simp
@[simp] theorem mbComplete_pwr_temps (s : State) (c rc : Nat) (l : List (Nat × W64)) :
    (mbComplete s c rc l).pwr.temps = s.pwr.temps := by
  unfold mbComplete; simp only []; split
  · simp
  · split <;> simp
@[simp] theorem mbComplete_pwr_trip (s : State) (c rc : Nat) (l : List (Nat × W64)) :
    (mbComplete s c rc l).pwr.trip = s.pwr.trip := by
  unfold mbComplete; simp only []; split
  · simp
  · split <;> simp
@[simp] theorem mbComplete_pwr_restart (s : State) (c rc : Nat) (l : List (Nat × W64)) :
    (mbComplete s c rc l).pwr.restart = s.pwr.restart := by
  unfold mbComplete; simp only []; split
  · simp
  · split <;> simp
@[simp] theorem mbComplete_pwr_fullSr (s : State) (c rc : Nat) (l : List (Nat × W64)) :
    (mbComplete s c rc l).pwr.fullSr = s.pwr.fullSr := by
  unfold mbComplete; simp only []; split
  · simp
  · split <;> simp
@[simp] theorem mbComplete_pwr_evtLine (s : State) (c rc : Nat) (l : List (Nat × W64)) :
    (mbComplete s c rc l).pwr.evtLine = s.pwr.evtLine := by
  unfold mbComplete; simp only []; split
  · simp
  · split <;> simp

/-- Ending class-L commands takes them from the list. -/
theorem endRuns_foldl (es : List LRun) (chan : LRun → Nat) (rc : Nat) (rets : List (Nat × W64)) (s : State)
    (p : State → Prop) (h0 : p s) (hs : ∀ t c, p t → p (mbComplete t c rc rets)) :
    p (es.foldl (fun t r => mbComplete t (chan r) rc rets) s) := by
  induction es generalizing s with
  | nil => exact h0
  | cons e es ih => exact ih _ (hs _ _ h0)

@[simp] theorem endRuns_lruns (s : State) (p : LRun → Bool) (chan : LRun → Nat) (rc : Nat) (rets : List (Nat × W64)) :
    (endRuns s p chan rc rets).mer.lruns = s.mer.lruns.filter (fun r => !p r) := by
  unfold endRuns
  exact endRuns_foldl _ chan rc rets _ (fun t => t.mer.lruns = s.mer.lruns.filter (fun r => !p r)) rfl
    (fun t c h => by simpa using h)
@[simp] theorem endRuns_pending (s : State) (p : LRun → Bool) (chan : LRun → Nat) (rc : Nat) (rets : List (Nat × W64)) :
    (endRuns s p chan rc rets).pending = s.pending :=
  endRuns_foldl _ chan rc rets _ (fun t => t.pending = s.pending) rfl (fun t c h => by simpa using h)
@[simp] theorem endRuns_err (s : State) (p : LRun → Bool) (chan : LRun → Nat) (rc : Nat) (rets : List (Nat × W64)) :
    (endRuns s p chan rc rets).err = s.err :=
  endRuns_foldl _ chan rc rets _ (fun t => t.err = s.err) rfl (fun t c h => by simpa using h)
@[simp] theorem endRuns_evt (s : State) (p : LRun → Bool) (chan : LRun → Nat) (rc : Nat) (rets : List (Nat × W64)) :
    (endRuns s p chan rc rets).evt = s.evt :=
  endRuns_foldl _ chan rc rets _ (fun t => t.evt = s.evt) rfl (fun t c h => by simpa using h)
@[simp] theorem endRuns_scratchHost (s : State) (p : LRun → Bool) (chan : LRun → Nat) (rc : Nat) (rets : List (Nat × W64)) :
    (endRuns s p chan rc rets).scratchHost = s.scratchHost :=
  endRuns_foldl _ chan rc rets _ (fun t => t.scratchHost = s.scratchHost) rfl (fun t c h => by simpa using h)
@[simp] theorem endRuns_scratchMgmt (s : State) (p : LRun → Bool) (chan : LRun → Nat) (rc : Nat) (rets : List (Nat × W64)) :
    (endRuns s p chan rc rets).scratchMgmt = s.scratchMgmt :=
  endRuns_foldl _ chan rc rets _ (fun t => t.scratchMgmt = s.scratchMgmt) rfl (fun t c h => by simpa using h)
@[simp] theorem endRuns_ctrs (s : State) (p : LRun → Bool) (chan : LRun → Nat) (rc : Nat) (rets : List (Nat × W64)) :
    (endRuns s p chan rc rets).ctrs = s.ctrs :=
  endRuns_foldl _ chan rc rets _ (fun t => t.ctrs = s.ctrs) rfl (fun t c h => by simpa using h)
@[simp] theorem endRuns_tabs (s : State) (p : LRun → Bool) (chan : LRun → Nat) (rc : Nat) (rets : List (Nat × W64)) :
    (endRuns s p chan rc rets).tabs = s.tabs :=
  endRuns_foldl _ chan rc rets _ (fun t => t.tabs = s.tabs) rfl (fun t c h => by simpa using h)
@[simp] theorem endRuns_mem (s : State) (p : LRun → Bool) (chan : LRun → Nat) (rc : Nat) (rets : List (Nat × W64)) :
    (endRuns s p chan rc rets).mem = s.mem :=
  endRuns_foldl _ chan rc rets _ (fun t => t.mem = s.mem) rfl (fun t c h => by simpa using h)
@[simp] theorem endRuns_mc (s : State) (p : LRun → Bool) (chan : LRun → Nat) (rc : Nat) (rets : List (Nat × W64)) :
    (endRuns s p chan rc rets).mc = s.mc :=
  endRuns_foldl _ chan rc rets _ (fun t => t.mc = s.mc) rfl (fun t c h => by simpa using h)
@[simp] theorem endRuns_alm (s : State) (p : LRun → Bool) (chan : LRun → Nat) (rc : Nat) (rets : List (Nat × W64)) :
    (endRuns s p chan rc rets).alm = s.alm :=
  endRuns_foldl _ chan rc rets _ (fun t => t.alm = s.alm) rfl (fun t c h => by simpa using h)
@[simp] theorem endRuns_xlt (s : State) (p : LRun → Bool) (chan : LRun → Nat) (rc : Nat) (rets : List (Nat × W64)) :
    (endRuns s p chan rc rets).xlt = s.xlt :=
  endRuns_foldl _ chan rc rets _ (fun t => t.xlt = s.xlt) rfl (fun t c h => by simpa using h)
@[simp] theorem endRuns_str (s : State) (p : LRun → Bool) (chan : LRun → Nat) (rc : Nat) (rets : List (Nat × W64)) :
    (endRuns s p chan rc rets).str = s.str :=
  endRuns_foldl _ chan rc rets _ (fun t => t.str = s.str) rfl (fun t c h => by simpa using h)
@[simp] theorem endRuns_hp (s : State) (p : LRun → Bool) (chan : LRun → Nat) (rc : Nat) (rets : List (Nat × W64)) :
    (endRuns s p chan rc rets).hp = s.hp :=
  endRuns_foldl _ chan rc rets _ (fun t => t.hp = s.hp) rfl (fun t c h => by simpa using h)
@[simp] theorem endRuns_tr (s : State) (p : LRun → Bool) (chan : LRun → Nat) (rc : Nat) (rets : List (Nat × W64)) :
    (endRuns s p chan rc rets).tr = s.tr :=
  endRuns_foldl _ chan rc rets _ (fun t => t.tr = s.tr) rfl (fun t c h => by simpa using h)
@[simp] theorem endRuns_orr (s : State) (p : LRun → Bool) (chan : LRun → Nat) (rc : Nat) (rets : List (Nat × W64)) :
    (endRuns s p chan rc rets).orr = s.orr :=
  endRuns_foldl _ chan rc rets _ (fun t => t.orr = s.orr) rfl (fun t c h => by simpa using h)
@[simp] theorem endRuns_tiles (s : State) (p : LRun → Bool) (chan : LRun → Nat) (rc : Nat) (rets : List (Nat × W64)) :
    (endRuns s p chan rc rets).tiles = s.tiles :=
  endRuns_foldl _ chan rc rets _ (fun t => t.tiles = s.tiles) rfl (fun t c h => by simpa using h)
@[simp] theorem endRuns_sc (s : State) (p : LRun → Bool) (chan : LRun → Nat) (rc : Nat) (rets : List (Nat × W64)) :
    (endRuns s p chan rc rets).sc = s.sc :=
  endRuns_foldl _ chan rc rets _ (fun t => t.sc = s.sc) rfl (fun t c h => by simpa using h)
@[simp] theorem endRuns_ly (s : State) (p : LRun → Bool) (chan : LRun → Nat) (rc : Nat) (rets : List (Nat × W64)) :
    (endRuns s p chan rc rets).ly = s.ly :=
  endRuns_foldl _ chan rc rets _ (fun t => t.ly = s.ly) rfl (fun t c h => by simpa using h)
@[simp] theorem endRuns_load (s : State) (p : LRun → Bool) (chan : LRun → Nat) (rc : Nat) (rets : List (Nat × W64)) :
    (endRuns s p chan rc rets).load = s.load :=
  endRuns_foldl _ chan rc rets _ (fun t => t.load = s.load) rfl (fun t c h => by simpa using h)
@[simp] theorem endRuns_draws (s : State) (p : LRun → Bool) (chan : LRun → Nat) (rc : Nat) (rets : List (Nat × W64)) :
    (endRuns s p chan rc rets).draws = s.draws :=
  endRuns_foldl _ chan rc rets _ (fun t => t.draws = s.draws) rfl (fun t c h => by simpa using h)
@[simp] theorem endRuns_frees (s : State) (p : LRun → Bool) (chan : LRun → Nat) (rc : Nat) (rets : List (Nat × W64)) :
    (endRuns s p chan rc rets).frees = s.frees :=
  endRuns_foldl _ chan rc rets _ (fun t => t.frees = s.frees) rfl (fun t c h => by simpa using h)
@[simp] theorem endRuns_aclk (s : State) (p : LRun → Bool) (chan : LRun → Nat) (rc : Nat) (rets : List (Nat × W64)) :
    (endRuns s p chan rc rets).aclk = s.aclk :=
  endRuns_foldl _ chan rc rets _ (fun t => t.aclk = s.aclk) rfl (fun t c h => by simpa using h)
@[simp] theorem endRuns_aclk0 (s : State) (p : LRun → Bool) (chan : LRun → Nat) (rc : Nat) (rets : List (Nat × W64)) :
    (endRuns s p chan rc rets).aclk0 = s.aclk0 :=
  endRuns_foldl _ chan rc rets _ (fun t => t.aclk0 = s.aclk0) rfl (fun t c h => by simpa using h)
@[simp] theorem endRuns_ctrBase (s : State) (p : LRun → Bool) (chan : LRun → Nat) (rc : Nat) (rets : List (Nat × W64)) :
    (endRuns s p chan rc rets).ctrBase = s.ctrBase :=
  endRuns_foldl _ chan rc rets _ (fun t => t.ctrBase = s.ctrBase) rfl (fun t c h => by simpa using h)
@[simp] theorem endRuns_rc (s : State) (p : LRun → Bool) (chan : LRun → Nat) (rc : Nat) (rets : List (Nat × W64)) :
    (endRuns s p chan rc rets).rc = s.rc :=
  endRuns_foldl _ chan rc rets _ (fun t => t.rc = s.rc) rfl (fun t c h => by simpa using h)
@[simp] theorem endRuns_pwr_pllLock (s : State) (p : LRun → Bool) (chan : LRun → Nat) (rc : Nat) (rets : List (Nat × W64)) :
    (endRuns s p chan rc rets).pwr.pllLock = s.pwr.pllLock :=
  endRuns_foldl _ chan rc rets _ (fun t => t.pwr.pllLock = s.pwr.pllLock) rfl (fun t c h => by simpa using h)
@[simp] theorem endRuns_pwr_pllLost (s : State) (p : LRun → Bool) (chan : LRun → Nat) (rc : Nat) (rets : List (Nat × W64)) :
    (endRuns s p chan rc rets).pwr.pllLost = s.pwr.pllLost :=
  endRuns_foldl _ chan rc rets _ (fun t => t.pwr.pllLost = s.pwr.pllLost) rfl (fun t c h => by simpa using h)
@[simp] theorem endRuns_pwr_sl (s : State) (p : LRun → Bool) (chan : LRun → Nat) (rc : Nat) (rets : List (Nat × W64)) :
    (endRuns s p chan rc rets).pwr.sl = s.pwr.sl :=
  endRuns_foldl _ chan rc rets _ (fun t => t.pwr.sl = s.pwr.sl) rfl (fun t c h => by simpa using h)
@[simp] theorem endRuns_pwr_park (s : State) (p : LRun → Bool) (chan : LRun → Nat) (rc : Nat) (rets : List (Nat × W64)) :
    (endRuns s p chan rc rets).pwr.park = s.pwr.park :=
  endRuns_foldl _ chan rc rets _ (fun t => t.pwr.park = s.pwr.park) rfl (fun t c h => by simpa using h)
@[simp] theorem endRuns_pwr_wakeHeld (s : State) (p : LRun → Bool) (chan : LRun → Nat) (rc : Nat) (rets : List (Nat × W64)) :
    (endRuns s p chan rc rets).pwr.wakeHeld = s.pwr.wakeHeld :=
  endRuns_foldl _ chan rc rets _ (fun t => t.pwr.wakeHeld = s.pwr.wakeHeld) rfl (fun t c h => by simpa using h)
@[simp] theorem endRuns_pwr_held (s : State) (p : LRun → Bool) (chan : LRun → Nat) (rc : Nat) (rets : List (Nat × W64)) :
    (endRuns s p chan rc rets).pwr.held = s.pwr.held :=
  endRuns_foldl _ chan rc rets _ (fun t => t.pwr.held = s.pwr.held) rfl (fun t c h => by simpa using h)
@[simp] theorem endRuns_pwr_cap (s : State) (p : LRun → Bool) (chan : LRun → Nat) (rc : Nat) (rets : List (Nat × W64)) :
    (endRuns s p chan rc rets).pwr.cap = s.pwr.cap :=
  endRuns_foldl _ chan rc rets _ (fun t => t.pwr.cap = s.pwr.cap) rfl (fun t c h => by simpa using h)
@[simp] theorem endRuns_pwr_ctl (s : State) (p : LRun → Bool) (chan : LRun → Nat) (rc : Nat) (rets : List (Nat × W64)) :
    (endRuns s p chan rc rets).pwr.ctl = s.pwr.ctl :=
  endRuns_foldl _ chan rc rets _ (fun t => t.pwr.ctl = s.pwr.ctl) rfl (fun t c h => by simpa using h)
@[simp] theorem endRuns_pwr_railAlert (s : State) (p : LRun → Bool) (chan : LRun → Nat) (rc : Nat) (rets : List (Nat × W64)) :
    (endRuns s p chan rc rets).pwr.railAlert = s.pwr.railAlert :=
  endRuns_foldl _ chan rc rets _ (fun t => t.pwr.railAlert = s.pwr.railAlert) rfl (fun t c h => by simpa using h)
@[simp] theorem endRuns_pwr_railHold (s : State) (p : LRun → Bool) (chan : LRun → Nat) (rc : Nat) (rets : List (Nat × W64)) :
    (endRuns s p chan rc rets).pwr.railHold = s.pwr.railHold :=
  endRuns_foldl _ chan rc rets _ (fun t => t.pwr.railHold = s.pwr.railHold) rfl (fun t c h => by simpa using h)
@[simp] theorem endRuns_pwr_temps (s : State) (p : LRun → Bool) (chan : LRun → Nat) (rc : Nat) (rets : List (Nat × W64)) :
    (endRuns s p chan rc rets).pwr.temps = s.pwr.temps :=
  endRuns_foldl _ chan rc rets _ (fun t => t.pwr.temps = s.pwr.temps) rfl (fun t c h => by simpa using h)
@[simp] theorem endRuns_pwr_trip (s : State) (p : LRun → Bool) (chan : LRun → Nat) (rc : Nat) (rets : List (Nat × W64)) :
    (endRuns s p chan rc rets).pwr.trip = s.pwr.trip :=
  endRuns_foldl _ chan rc rets _ (fun t => t.pwr.trip = s.pwr.trip) rfl (fun t c h => by simpa using h)
@[simp] theorem endRuns_pwr_restart (s : State) (p : LRun → Bool) (chan : LRun → Nat) (rc : Nat) (rets : List (Nat × W64)) :
    (endRuns s p chan rc rets).pwr.restart = s.pwr.restart :=
  endRuns_foldl _ chan rc rets _ (fun t => t.pwr.restart = s.pwr.restart) rfl (fun t c h => by simpa using h)
@[simp] theorem endRuns_pwr_fullSr (s : State) (p : LRun → Bool) (chan : LRun → Nat) (rc : Nat) (rets : List (Nat × W64)) :
    (endRuns s p chan rc rets).pwr.fullSr = s.pwr.fullSr :=
  endRuns_foldl _ chan rc rets _ (fun t => t.pwr.fullSr = s.pwr.fullSr) rfl (fun t c h => by simpa using h)
@[simp] theorem endRuns_pwr_evtLine (s : State) (p : LRun → Bool) (chan : LRun → Nat) (rc : Nat) (rets : List (Nat × W64)) :
    (endRuns s p chan rc rets).pwr.evtLine = s.pwr.evtLine :=
  endRuns_foldl _ chan rc rets _ (fun t => t.pwr.evtLine = s.pwr.evtLine) rfl (fun t c h => by simpa using h)

end Sys2Proof.Machine
end

