-- ==== Sys2Proof/Laws/Frame.lean ====
section
/-! SUPPORT. What an access to the tiers through the row cache can change: the memory, the row cache, counters, the event
logs with their interrupts and the event line, the count of free values, and the freeze that an uncorrectable error starts
(R557). Everything else stays. -/

namespace Sys2Proof.Machine

/-- Everything but the memory, the row cache, counters, the event logs and what they signal, the free count, and a freeze. -/
structure OnlyMem (s t : State) : Prop where
  pending : t.pending = s.pending
  err : { t.err with frozen := s.err.frozen, cause := s.err.cause, cunit := s.err.cunit, settled := s.err.settled,
                     frzPark := s.err.frzPark, frzRestart := s.err.frzRestart } = s.err
  mer : t.mer = s.mer
  chans : t.chans = s.chans
  scratchHost : t.scratchHost = s.scratchHost
  scratchMgmt : t.scratchMgmt = s.scratchMgmt
  tabs : t.tabs = s.tabs
  mc : t.mc = s.mc
  alm : t.alm = s.alm
  xlt : t.xlt = s.xlt
  str : t.str = s.str
  hp : t.hp = s.hp
  tr : t.tr = s.tr
  orr : t.orr = s.orr
  tiles : t.tiles = s.tiles
  got : t.got = s.got
  sc : t.sc = s.sc
  ly : t.ly = s.ly
  load : t.load = s.load
  draws : t.draws = s.draws
  aclk : t.aclk = s.aclk
  aclk0 : t.aclk0 = s.aclk0
  ctrBase : t.ctrBase = s.ctrBase
  pwr : { t.pwr with evtLine := s.pwr.evtLine } = s.pwr

namespace OnlyMem

theorem refl (s : State) : OnlyMem s s := by constructor <;> rfl

theorem trans {s t u : State} (h : OnlyMem s t) (k : OnlyMem t u) : OnlyMem s u := by
  constructor
  · exact k.pending.trans h.pending
  · have h1 := h.err
    have h2 := k.err
    cases hs : s.err; cases ht : t.err; cases hu : u.err
    simp_all
  · exact k.mer.trans h.mer
  · exact k.chans.trans h.chans
  · exact k.scratchHost.trans h.scratchHost
  · exact k.scratchMgmt.trans h.scratchMgmt
  · exact k.tabs.trans h.tabs
  · exact k.mc.trans h.mc
  · exact k.alm.trans h.alm
  · exact k.xlt.trans h.xlt
  · exact k.str.trans h.str
  · exact k.hp.trans h.hp
  · exact k.tr.trans h.tr
  · exact k.orr.trans h.orr
  · exact k.tiles.trans h.tiles
  · exact k.got.trans h.got
  · exact k.sc.trans h.sc
  · exact k.ly.trans h.ly
  · exact k.load.trans h.load
  · exact k.draws.trans h.draws
  · exact k.aclk.trans h.aclk
  · exact k.aclk0.trans h.aclk0
  · exact k.ctrBase.trans h.ctrBase
  · have h1 := h.pwr
    have h2 := k.pwr
    cases hs : s.pwr; cases ht : t.pwr; cases hu : u.pwr
    simp_all

theorem err_merUe {s t : State} (h : OnlyMem s t) : t.err.merUe = s.err.merUe := by
  have := congrArg Err.merUe h.err
  exact this
theorem err_intUe {s t : State} (h : OnlyMem s t) : t.err.intUe = s.err.intUe := by
  have := congrArg Err.intUe h.err
  exact this
theorem err_intSrc {s t : State} (h : OnlyMem s t) : t.err.intSrc = s.err.intSrc := by
  have := congrArg Err.intSrc h.err
  exact this
theorem err_frzCtrl {s t : State} (h : OnlyMem s t) : t.err.frzCtrl = s.err.frzCtrl := by
  have := congrArg Err.frzCtrl h.err
  exact this
theorem pwr_pllLock {s t : State} (h : OnlyMem s t) : t.pwr.pllLock = s.pwr.pllLock := by
  have := congrArg Pwr.pllLock h.pwr
  exact this
theorem pwr_pllLost {s t : State} (h : OnlyMem s t) : t.pwr.pllLost = s.pwr.pllLost := by
  have := congrArg Pwr.pllLost h.pwr
  exact this
theorem pwr_sl {s t : State} (h : OnlyMem s t) : t.pwr.sl = s.pwr.sl := by
  have := congrArg Pwr.sl h.pwr
  exact this
theorem pwr_park {s t : State} (h : OnlyMem s t) : t.pwr.park = s.pwr.park := by
  have := congrArg Pwr.park h.pwr
  exact this
theorem pwr_wakeHeld {s t : State} (h : OnlyMem s t) : t.pwr.wakeHeld = s.pwr.wakeHeld := by
  have := congrArg Pwr.wakeHeld h.pwr
  exact this
theorem pwr_held {s t : State} (h : OnlyMem s t) : t.pwr.held = s.pwr.held := by
  have := congrArg Pwr.held h.pwr
  exact this
theorem pwr_cap {s t : State} (h : OnlyMem s t) : t.pwr.cap = s.pwr.cap := by
  have := congrArg Pwr.cap h.pwr
  exact this
theorem pwr_ctl {s t : State} (h : OnlyMem s t) : t.pwr.ctl = s.pwr.ctl := by
  have := congrArg Pwr.ctl h.pwr
  exact this
theorem pwr_railAlert {s t : State} (h : OnlyMem s t) : t.pwr.railAlert = s.pwr.railAlert := by
  have := congrArg Pwr.railAlert h.pwr
  exact this
theorem pwr_railHold {s t : State} (h : OnlyMem s t) : t.pwr.railHold = s.pwr.railHold := by
  have := congrArg Pwr.railHold h.pwr
  exact this
theorem pwr_temps {s t : State} (h : OnlyMem s t) : t.pwr.temps = s.pwr.temps := by
  have := congrArg Pwr.temps h.pwr
  exact this
theorem pwr_trip {s t : State} (h : OnlyMem s t) : t.pwr.trip = s.pwr.trip := by
  have := congrArg Pwr.trip h.pwr
  exact this
theorem pwr_restart {s t : State} (h : OnlyMem s t) : t.pwr.restart = s.pwr.restart := by
  have := congrArg Pwr.restart h.pwr
  exact this
theorem pwr_fullSr {s t : State} (h : OnlyMem s t) : t.pwr.fullSr = s.pwr.fullSr := by
  have := congrArg Pwr.fullSr h.pwr
  exact this
theorem pwr_complLine {s t : State} (h : OnlyMem s t) : t.pwr.complLine = s.pwr.complLine := by
  have := congrArg Pwr.complLine h.pwr
  exact this

/-- A fold of steps, each of which changes the memory alone. -/
theorem foldl {α : Type} (f : State → α → State) (hf : ∀ s a, OnlyMem s (f s a)) (l : List α) (s : State) :
    OnlyMem s (l.foldl f s) := by
  induction l generalizing s with
  | nil => exact refl s
  | cons a l ih => exact (hf s a).trans (ih (f s a))

end OnlyMem

theorem onlyMem_ctrs (s : State) (c : FMap Nat) : OnlyMem s { s with ctrs := c } := by constructor <;> rfl

theorem onlyMem_bump (s : State) (k n : Nat) : OnlyMem s (bump s k n) := onlyMem_ctrs s _
theorem onlyMem_bump1 (s : State) (k : Nat) : OnlyMem s (bump1 s k) := onlyMem_ctrs s _
theorem onlyMem_bumpIf (s : State) (b : Bool) (k : Nat) : OnlyMem s (bumpIf s b k) := by
  cases b
  · exact OnlyMem.refl s
  · exact onlyMem_ctrs s _

theorem onlyMem_mem (s : State) (m : Mem) : OnlyMem s { s with mem := m } := by constructor <;> rfl
theorem onlyMem_rc (s : State) (c : Cache) : OnlyMem s { s with rc := c } := by constructor <;> rfl

theorem onlyMem_msixFire (s : State) (v : Nat) : OnlyMem s (msixFire s v) := by
  unfold msixFire; split <;> constructor <;> rfl

theorem onlyMem_raiseEvent (s : State) (c u : Nat) (ea eb : W64) : OnlyMem s (raiseEvent s c u ea eb) := by
  unfold raiseEvent
  split
  · exact OnlyMem.refl s
  · refine OnlyMem.trans ?_ (onlyMem_msixFire _ _)
    refine OnlyMem.trans ?_ (onlyMem_bumpIf _ _ _)
    refine OnlyMem.trans ?_ (onlyMem_bumpIf _ _ _)
    constructor <;> rfl

theorem onlyMem_freeBytes (s : State) (n : Nat) : OnlyMem s (freeBytes s n).1 := by constructor <;> rfl

theorem onlyMem_countDown (s : State) (a : Nat) : OnlyMem s (countDown s a) := by
  unfold countDown
  split
  · exact onlyMem_bump1 _ _
  · split
    · exact onlyMem_bump1 _ _
    · exact OnlyMem.refl s

theorem onlyMem_freeze (s : State) (c : BitVec 3) (u : BitVec 8) : OnlyMem s (freeze s c u) := by constructor <;> rfl

theorem onlyMem_freezeOn (s : State) (b : Nat) (c : BitVec 3) (u : BitVec 8) : OnlyMem s (freezeOn s b c u) := by
  unfold freezeOn; split
  · exact onlyMem_freeze _ _ _
  · exact OnlyMem.refl s

theorem onlyMem_freezeUe (s : State) (n : Nat) (u : BitVec 8) : OnlyMem s (freezeUe s n u) := by
  unfold freezeUe; split
  · exact OnlyMem.refl s
  · exact onlyMem_freezeOn _ _ _ _

theorem onlyMem_dReadSecs (s : State) (a n : Nat) : OnlyMem s (dReadSecs s a n).1 := by
  unfold dReadSecs
  split
  · exact (onlyMem_countDown s a).trans (onlyMem_freeBytes _ (32 * n))
  · simp only []
    split
    all_goals exact (((onlyMem_bump _ _ _).trans (onlyMem_bump _ _ _)).trans (onlyMem_bump _ _ _)).trans (onlyMem_freezeUe _ _ _)

theorem onlyMem_dWriteSec (s : State) (sec : Nat) (upd : List (Option Byte)) (p : Bool) :
    OnlyMem s (dWriteSec s sec upd p) := by
  unfold dWriteSec
  simp only []
  split
  · exact ((((onlyMem_mem s _).trans (onlyMem_bumpIf _ _ _)).trans (onlyMem_bumpIf _ _ _)).trans
      (onlyMem_freezeUe _ _ _)).trans (onlyMem_mem _ _)
  · split
    · split <;> exact onlyMem_mem s _
    · split
      · exact onlyMem_mem s _
      · exact ((onlyMem_mem s _).trans (onlyMem_bump1 _ _)).trans (onlyMem_raiseEvent _ _ _ _ _)

theorem onlyMem_dWrite (s : State) (a : Nat) (l : List Byte) (p : Bool) : OnlyMem s (dWrite s a l p) := by
  unfold dWrite
  split
  · exact OnlyMem.refl s
  · split
    · exact onlyMem_countDown s a
    · simp only []
      split
      · exact onlyMem_dWriteSec _ _ _ _
      · exact (onlyMem_dWriteSec _ _ _ _).trans (onlyMem_dWriteSec _ _ _ _)

theorem onlyMem_writeBack (s : State) (l : CLine) : OnlyMem s (writeBack s l) := onlyMem_dWrite _ _ _ _
theorem onlyMem_setLine (s : State) (k : Nat) (l : CLine) : OnlyMem s (setLine s k l) := onlyMem_rc s _
theorem onlyMem_dropLine (s : State) (k : Nat) : OnlyMem s (dropLine s k) := onlyMem_rc s _
theorem onlyMem_touchWay (s : State) (a b w : Nat) : OnlyMem s (touchWay s a b w) := onlyMem_rc s _

theorem onlyMem_snoopGate (s : State) (x : Nat) (w : Bool) : OnlyMem s (snoopGate s x w) := by
  unfold snoopGate
  split
  · exact onlyMem_rc s _
  · split
    · exact onlyMem_rc s _
    · exact OnlyMem.refl s

theorem onlyMem_snoopExt (s : State) (a n : Nat) (w : Bool) : OnlyMem s (snoopExt s a n w) :=
  OnlyMem.foldl _ (fun _ _ => onlyMem_snoopGate _ _ _) _ _

theorem onlyMem_allocLine (s : State) (sl st x : Nat) (hint : BitVec 2) (d p : Bool) (l : List Byte) :
    OnlyMem s (allocLine s sl st x hint d p l) := by
  unfold allocLine
  split
  · split
    · exact onlyMem_dWrite _ _ _ _
    · exact OnlyMem.refl s
  · simp only []
    have h1 : ∀ (k : Nat) (o : Option CLine), OnlyMem s (match o with
        | some l => dropLine (if l.dirty then writeBack s l else s) k
        | none => s) := by
      intro k o
      cases o with
      | none => exact OnlyMem.refl s
      | some l =>
        simp only []
        split
        · exact (onlyMem_writeBack _ _).trans (onlyMem_dropLine _ _)
        · exact onlyMem_dropLine _ _
    split
    · exact ((h1 _ _).trans (onlyMem_bumpIf _ _ _)).trans (onlyMem_setLine _ _ _)
    · exact (((h1 _ _).trans (onlyMem_bumpIf _ _ _)).trans (onlyMem_setLine _ _ _)).trans (onlyMem_touchWay _ _ _ _)

theorem onlyMem_hitHint (s : State) (sl st w : Nat) (l : CLine) (hint : BitVec 2) :
    OnlyMem s (hitHint s sl st w l hint) := by
  unfold hitHint
  simp only []
  split
  · exact onlyMem_touchWay _ _ _ _
  · split
    · split
      · exact (onlyMem_setLine _ _ _).trans (onlyMem_touchWay _ _ _ _)
      · exact (onlyMem_bump1 _ _).trans (onlyMem_touchWay _ _ _ _)
    · exact OnlyMem.refl s

theorem onlyMem_putLine (s : State) (a : Nat) (l : List Byte) (hint : BitVec 2) (p : Bool) :
    OnlyMem s (putLine s a l hint p) := by
  unfold putLine
  simp only []
  split
  · refine OnlyMem.trans ?_ (onlyMem_hitHint _ _ _ _ _ _)
    split
    · exact (onlyMem_setLine _ _ _).trans (onlyMem_writeBack _ _)
    · exact onlyMem_setLine _ _ _
  · split
    · exact onlyMem_allocLine _ _ _ _ _ _ _ _
    · exact onlyMem_dWrite _ _ _ _

theorem onlyMem_afterFill (s : State) (w : Waiting) : OnlyMem s (afterFill s w) := by
  unfold afterFill
  split
  · exact onlyMem_putLine _ _ _ _ _
  · split
    · exact onlyMem_hitHint _ _ _ _ _ _
    · exact OnlyMem.refl s

theorem onlyMem_fillLine (s : State) (x : Nat) (d : List Byte) (b : Bool) : OnlyMem s (fillLine s x d b) := by
  unfold fillLine
  split
  · exact OnlyMem.refl s
  · simp only []
    refine OnlyMem.trans ?_ (OnlyMem.foldl _ onlyMem_afterFill _ _)
    rename_i m _ _
    by_cases hw : m.acc.write = true <;> simp only [hw, if_true, if_false, Bool.false_eq_true] <;> split
    all_goals first
      | exact (onlyMem_rc s _).trans (onlyMem_allocLine _ _ _ _ _ _ _ _)
      | exact onlyMem_rc s _

theorem onlyMem_missSector (s : State) (sec : Nat) : OnlyMem s (missSector s sec).1 := by
  unfold missSector
  split
  · exact OnlyMem.refl s
  · split
    · exact OnlyMem.refl s
    · exact onlyMem_dReadSecs _ _ _

theorem onlyMem_takeFill (s : State) (x : Nat) : OnlyMem s (takeFill s x) := by
  rw [takeFill_eq]
  exact ((onlyMem_missSector _ _).trans (onlyMem_missSector _ _)).trans (onlyMem_fillLine _ _ _ _)

theorem onlyMem_takeFills (s : State) (p : Nat → Bool) : OnlyMem s (takeFills s p) :=
  OnlyMem.foldl _ onlyMem_takeFill _ _

theorem onlyMem_readLine (s : State) (x : Nat) (hint : BitVec 2) : OnlyMem s (readLine s x hint).1 := by
  have g := onlyMem_snoopGate s x false
  unfold readLine
  simp only []
  refine g.trans ?_
  generalize snoopGate s x false = u
  split
  · exact onlyMem_dReadSecs _ _ _
  · split
    · have hf := ((onlyMem_takeFill u x).trans (onlyMem_bump1 _ (ctrSliceRcMiss (homeSlice u x)))).trans (onlyMem_afterFill _
        { x := x, acc := { addr := x * 64, write := false, hint := hint, data := [], poison := false, host := false } })
      split <;> exact hf
    · split
      · split
        · split
          · exact onlyMem_bump1 _ _
          · exact (onlyMem_bump1 _ _).trans (onlyMem_dropLine _ _)
        · exact (onlyMem_bump1 _ _).trans (onlyMem_hitHint _ _ _ _ _ _)
      · split
        · exact ((onlyMem_bump1 _ _).trans (onlyMem_dReadSecs _ _ _)).trans (onlyMem_allocLine _ _ _ _ _ _ _ _)
        · exact (onlyMem_bump1 _ _).trans (onlyMem_dReadSecs _ _ _)

theorem onlyMem_writeLine (s : State) (a : Nat) (l : List Byte) (hint : BitVec 2) (p : Bool) :
    OnlyMem s (writeLine s a l hint p) := by
  have g := onlyMem_snoopGate s (a / 64) true
  unfold writeLine
  simp only []
  refine g.trans ?_
  generalize snoopGate s (a / 64) true = u
  split
  · exact onlyMem_dWrite _ _ _ _
  · refine OnlyMem.trans ?_ (onlyMem_putLine _ _ _ _ _)
    split
    · exact onlyMem_takeFill _ _
    · exact OnlyMem.refl _

theorem onlyMem_readExtGo (hint : BitVec 2) (k : Nat) (s : State) (a n : Nat) : OnlyMem s (readExtGo hint k s a n).1 := by
  induction k generalizing s a n with
  | zero => exact OnlyMem.refl s
  | succ k ih =>
    unfold readExtGo
    split
    · exact OnlyMem.refl s
    · exact (onlyMem_readLine _ _ _).trans (ih _ _ _)

theorem onlyMem_readExt (s : State) (a n : Nat) (hint : BitVec 2) : OnlyMem s (readExt s a n hint).1 :=
  onlyMem_readExtGo _ _ _ _ _

theorem onlyMem_writeExtGo (hint : BitVec 2) (p : Bool) (k : Nat) (s : State) (a : Nat) (l : List Byte) :
    OnlyMem s (writeExtGo hint p k s a l) := by
  induction k generalizing s a l with
  | zero => exact OnlyMem.refl s
  | succ k ih =>
    unfold writeExtGo
    split
    · exact OnlyMem.refl s
    · exact (onlyMem_writeLine _ _ _ _ _).trans (ih _ _ _)

theorem onlyMem_writeExt (s : State) (a : Nat) (l : List Byte) (hint : BitVec 2) (p : Bool) :
    OnlyMem s (writeExt s a l hint p) := onlyMem_writeExtGo _ _ _ _ _ _

theorem onlyMem_readSlotGo (k : Nat) (s : State) (a : Nat) : OnlyMem s (readSlotGo k s a).1 := by
  induction k generalizing s a with
  | zero => exact OnlyMem.refl s
  | succ k ih =>
    unfold readSlotGo
    exact ((onlyMem_snoopGate _ _ _).trans (onlyMem_dReadSecs _ _ _)).trans (ih _ _)

theorem onlyMem_readSlot (s : State) (a n : Nat) : OnlyMem s (readSlot s a n).1 := by
  unfold readSlot
  split
  · exact (onlyMem_countDown s a).trans (onlyMem_freeBytes _ n)
  · exact onlyMem_readSlotGo _ _ _

theorem onlyMem_zeroExt (s : State) (a n : Nat) : OnlyMem s (zeroExt s a n) :=
  have h := (onlyMem_snoopExt s a n true).trans (onlyMem_takeFills _ (fun x => overlap a n (x * 64) 64))
  (h.trans (onlyMem_mem _ (Mem.zero _ a n))).trans (onlyMem_rc _ _)

end Sys2Proof.Machine
end

