-- ==== Sys2Proof/Laws/Undo.lean ====
section
/-! SUPPORT. What the put-back forms of a state say: after a mailbox command's taking and completion, after accesses to the
tiers, and after a change of every companion. -/

namespace Sys2Proof.Machine

theorem OnlyMem.undo {s t : State} (h : OnlyMem s t) : memUndo s t = s := by
  cases s; cases t
  obtain ⟨h1, h2, h3, h4, h5, h6, h7, h8, h9, h10, h11, h12, h13, h14, h15, h16, h17, h18, h19, h20, h21, h22, h23, h24⟩ := h
  simp only at *
  simp only [memUndo]
  subst_vars
  simp_all

theorem mbUndo_msixFire (s t : State) (v : Nat) : mbUndo s (msixFire t v) = mbUndo s t := by
  unfold msixFire; split <;> rfl

/-- Completing a command leaves no more than what `mbUndo` puts back. -/
@[simp] theorem mbUndo_mbComplete (s t : State) (c rc : Nat) (l : List (Nat × W64)) :
    mbUndo s (mbComplete t c rc l) = mbUndo s t := by
  unfold mbComplete
  simp only []
  split
  · rfl
  · split
    · rw [mbUndo_msixFire]; rfl
    · rfl

@[simp] theorem mbUndo_mbTake (s t : State) (m : MbWrite) (o : Nat) : mbUndo s (mbTake t m o) = mbUndo s t := rfl

@[simp] theorem mbUndo_self (s : State) : mbUndo s s = s := rfl

theorem memUndo_mbUndo (s t : State) : memUndo s (mbUndo s t) = mbUndo s (memUndo s t) := rfl

theorem chanOf_mbComplete_ne (s : State) (c rc a : Nat) (l : List (Nat × W64)) (h : a ≠ c) :
    chanOf (mbComplete s c rc l) a = chanOf s a := by
  have hf : ∀ (t : State) v, chanOf (msixFire t v) a = chanOf t a := by
    intro t v; unfold msixFire; split <;> rfl
  have hs : ∀ x, chanOf (setChan s c x) a = chanOf s a := by
    intro x; simp [chanOf, setChan, mget_mset_ne _ _ _ _ _ h]
  have hd : ∀ (t : State) w, chanOf (dropGot t w) a = chanOf t a := fun _ _ => rfl
  have hp : ∀ (t : State) p, chanOf { t with pwr := p } a = chanOf t a := fun _ _ => rfl
  unfold mbComplete
  simp only []
  split
  · rw [hd, hs]
  · split
    · rw [hf, hd, hs]
    · rw [hp, hd, hs]

theorem chanOf_mbTake_ne (s : State) (m : MbWrite) (o a : Nat) (h : a ≠ m.ch) : chanOf (mbTake s m o) a = chanOf s a := by
  simp [chanOf, mbTake, setChan, mget_mset_ne _ _ _ _ _ h]

/-- A completion on channel `ch` of a state whose other channels are those of `s`. -/
theorem mbEnded_mbComplete {s t : State} {ch : Fin 16} {rc : Nat} {l : List (Nat × W64)}
    (h : ∀ c, c ≠ ch.val → chanOf t c = chanOf s c) : MbEnded s (mbComplete t ch rc l) ch rc l :=
  ⟨MbDone_mbComplete _ _ _ _, fun c hc => by rw [chanOf_mbComplete_ne _ _ _ _ _ hc, h c hc]⟩

theorem mbEnded_mbEnds (s : State) (m : MbWrite) (o rc : Nat) (l : List (Nat × W64)) :
    MbEnded s (mbEnds s m o rc l) m.ch rc l :=
  mbEnded_mbComplete (fun c h => chanOf_mbTake_ne s m o c h)

theorem foldl_setLy (f : Nat → Lyush → Lyush) (l : List Nat) (s : State) :
    ∃ y, l.foldl (fun t k => setLy t k (f k (lyOf t k))) s = { s with ly := y } := by
  induction l generalizing s with
  | nil => exact ⟨s.ly, rfl⟩
  | cons k l ih =>
    obtain ⟨y, hy⟩ := ih (setLy s k (f k (lyOf s k)))
    exact ⟨y, by simp only [List.foldl_cons, hy]; rfl⟩

/-- A change of every companion changes nothing else. -/
theorem allLy_eq (s : State) (f : Nat → Lyush → Lyush) : ∃ y, allLy s f = { s with ly := y } :=
  foldl_setLy f (List.range 8) s

/-- Each companion after a change of every companion. -/
theorem lyOf_allLy (s : State) (f : Nat → Lyush → Lyush) (k : Nat) (h : k < 8) : lyOf (allLy s f) k = f k (lyOf s k) := by
  have hs : ∀ (t : State) a b x, lyOf (setLy t a x) b = if b = a then x else lyOf t b := by
    intro t a b x
    by_cases e : b = a
    · subst e; simp [lyOf, setLy]
    · simp [lyOf, setLy, e, mget_mset_ne _ _ _ _ _ e]
  have hk : k = 0 ∨ k = 1 ∨ k = 2 ∨ k = 3 ∨ k = 4 ∨ k = 5 ∨ k = 6 ∨ k = 7 := by omega
  simp only [allLy, List.range, List.range.loop, List.foldl]
  rcases hk with rfl | rfl | rfl | rfl | rfl | rfl | rfl | rfl <;> simp [hs]

end Sys2Proof.Machine
end

