-- ==== Sys2Proof/WellFormed.lean ====
section
/-! DEFINITION. Which commands are well formed: the operand shapes that the spec's interfaces can carry. The
meanings are total on every command; a command that is not well formed cannot reach the block as it stands. -/

namespace Sys2Proof

/-- A register write carries 1 to 8 whole, naturally aligned 8-byte words within one aligned 64-byte block (R572). -/
def wfRegWrite (off n : Nat) : Bool :=
  decide (off % 8 = 0) && decide (1 ≤ n) && decide (n ≤ 8) && decide (off % 64 + 8 * n ≤ 64) &&
    decide (off < 0x1000000)

/-- A Transit message is 1 to 4,095 units of 16 bytes, header included (R429). -/
def TMsg.wf (f : TMsg) : Bool :=
  decide (1 ≤ f.len) && decide (f.len ≤ 4095) && decide (f.leg ≤ 1) && decide (f.cls ≤ 7)

/-- Sectors of one frame lie within one 256-byte granule, each of 32 bytes (R313). -/
def SectorData.wf (d : SectorData) : Bool :=
  decide (d.addr % 32 = 0) && decide (1 ≤ d.sectors.length) &&
    decide (d.addr % 256 + 32 * d.sectors.length ≤ 256) && d.sectors.all (fun x => decide (x.1.length = 32))

/-- A host access names a length, and a write carries that many bytes. -/
def HostAccess.wf (a : HostAccess) : Bool :=
  decide (1 ≤ a.len) && (!a.write || decide (a.data.length = a.len))

/-- An access at a home slice stays within one line (R335). -/
def LineAccess.wf (a : LineAccess) : Bool :=
  !a.write || (decide (1 ≤ a.data.length) && decide (a.addr % 64 + a.data.length ≤ 64))

/-- An array error that a companion does not mark gives a whole sector. -/
def LyOutcome.wf : LyOutcome → Bool
  | .array d => decide (d.length = 32)
  | _ => true

/-- Well-formedness of a command. -/
def Instr.wf : Instr → Bool
  | .registerWrite _ off words => wfRegWrite off words.length
  | .semAddWrite i vs => decide (1 ≤ vs.length) && decide (i.val % 8 + vs.length ≤ 8)
  | .companionRd _ addr found =>
    decide (addr % 32 = 0) && decide (1 ≤ found.length) && decide (addr % 256 + 32 * found.length ≤ 256) &&
      found.all LyOutcome.wf
  | .companionWr _ d => d.wf
  | .wrMask _ addr _ data _ => decide (addr % 32 = 0) && decide (data.length = 32)
  | .rdData _ d => d.wf
  | .homeSliceAccess a _ => a.wf
  | .windowAccess a => a.wf
  | .bar4Access a => a.wf
  | .cxlMemWrite addr data _ => decide (1 ≤ data.length) && decide (addr % 64 + data.length ≤ 64)
  | .chipPortData _ lines => lines.all (fun x => decide (x.1.length = 64))
  | .sl1Entry lanes links => decide (lanes.length = 8) && decide (links.length = 48) &&
      lanes.all (fun n => n == 0 || n == 8 || n == 16)
  | .companionPortRetrain _ n => n == 0 || n == 8 || n == 16
  | .transitRetrain _ n => n == 0 || n == 2 || n == 4 || n == 8
  | .blockRestartEnd st lanes _ => decide (st.length = 6) && decide (lanes.length = 8)
  | .transitReservedMessage f => f.wf
  | .remoteRd f => f.wf
  | .remoteWr f => f.wf
  | .remoteAt f => f.wf
  | .remoteData f => f.wf
  | .remoteAck f => f.wf
  | .remoteErr f => f.wf
  | _ => true

end Sys2Proof
end

