-- ==== Sys2Proof/Tests/Slice0.lean ====
section
/-! SUPPORT. Tests: the well-formedness check by an ill-formed command for each of its conditions, small runs from the
spec's examples, and a state and operands that meet the hypotheses of every clause of every statement. -/

namespace Sys2Proof.Tests
set_option Elab.async false
open Sys2Proof Sys2Proof.Machine

/-- The clocks run; the block is otherwise as after reset, with a seed of 0. -/
def clocked : State := { State.reset with rc := Cache.reset 0, pwr := { Pwr.reset with pllLock := true } }
/-- Firmware runs at SL0. -/
def booted : State := { clocked with mer := { Mer.reset with running := true } }
/-- The block at SL3 with every stack in service and every companion port up. -/
def live : State := { booted with
  pwr := { Pwr.reset with pllLock := true, sl := 3 },
  mc := { MemCtl.reset with stk := (List.range 6).map (fun k => (k, { Stack.reset with inService := true })) },
  ly := (List.range 8).map (fun k => (k, { Lyush.reset with lanes := 16 })) }
/-- A write of `MB_CMD` by the host on channel 0, and by the management controller on channel 12. -/
def mb : MbWrite := { ch := 0, mgmt := false, ien := false, phys := false, token := 0 }
def mbm : MbWrite := { ch := 12, mgmt := true, ien := false, phys := true, token := 0 }
/-- `s` with argument words in both channels. -/
def args (s : State) (l : List W64) : State :=
  let a := (l ++ List.replicate 8 0).take 8
  setChan (setChan s 0 { Chan.reset 0 with args := a }) 12 { Chan.reset 12 with args := a }

/-- `s` with bytes at a physical address. -/
def poke (s : State) (a : Nat) (l : List Byte) : State :=
  { s with mem := { s.mem with cells := cellsWrite s.mem.cells a l } }

/-! ### Buffers of the witnesses: what a read or a write of a buffer goes through -/

def rdOk : RdOut → Bool
  | .ok _ _ => true
  | _ => false
def rdState : RdOut → State
  | .ok s _ => s
  | _ => State.reset
def rdData : RdOut → List (Byte × Bool)
  | .ok _ d => d
  | _ => []
def exOk {ε α : Type} : Except ε (List α) → Bool
  | .ok _ => true
  | .error _ => false
def exGet {ε α : Type} : Except ε (List α) → List α
  | .ok l => l
  | .error _ => []

/-- The read of a mailbox input buffer. -/
def bufRead (s : State) (c : MbCtx) (a n : Nat) : RdOut := readPieces (.chan c.ch) s (exGet (bufPieces s c.phys 0 a n))
def bufIn (s : State) (c : MbCtx) (a n : Nat) : List Byte := (rdData (bufRead s c a n)).map (fun b => b.1)
/-- The write of a mailbox output buffer. -/
def bufOut (s : State) (c : MbCtx) (a n : Nat) : State → List Byte → State :=
  fun t d => writeCuts t (.chan c.ch) (exGet (cutPieces s (.chan c.ch) (exGet (bufPieces s c.phys 1 a n)))) (d.map (fun b => (b, false)))

def bufReadOk (s : State) (c : MbCtx) (a n : Nat) : Bool :=
  (!c.phys || c.mgmt) && exOk (bufPieces s c.phys 0 a n) && rdOk (bufRead s c a n) &&
    (firstPoison a (rdData (bufRead s c a n))).isNone
def bufOutOk (s : State) (c : MbCtx) (a n : Nat) : Bool :=
  (!c.phys || c.mgmt) && exOk (bufPieces s c.phys 1 a n) &&
    exOk (cutPieces s (.chan c.ch) (exGet (bufPieces s c.phys 1 a n)))

theorem bufReads_of {s : State} {c : MbCtx} {a n : Nat} (h : bufReadOk s c a n = true) :
    BufReads s c a n (rdState (bufRead s c a n)) (bufIn s c a n) := by
  intro k
  simp only [bufReadOk, Bool.and_eq_true] at h
  obtain ⟨⟨⟨h0, h1⟩, h2⟩, h3⟩ := h
  have hp : (c.phys && !c.mgmt) = false := by cases hx : c.phys <;> cases hy : c.mgmt <;> simp_all
  simp only [bufIn, bufRead] at h2 h3 ⊢
  cases hb : bufPieces s c.phys 0 a n with
  | error e => simp [hb, exOk] at h1
  | ok ps =>
    simp only [hb, exGet] at h2 h3 ⊢
    cases hr : readPieces (.chan c.ch) s ps with
    | fail e => simp [hr, rdOk] at h2
    | outside p => simp [hr, rdOk] at h2
    | ok u d =>
      simp only [hr, rdData, Option.isNone_iff_eq_none] at h3
      simp [withBuf, hp, hb, hr, h3, rdState, rdData]

theorem bufTakes_of {s : State} {c : MbCtx} {a n : Nat} (h : bufOutOk s c a n = true) :
    BufTakes s c a n (bufOut s c a n) := by
  intro k
  simp only [bufOutOk, Bool.and_eq_true] at h
  obtain ⟨⟨h0, h1⟩, h2⟩ := h
  have hp : (c.phys && !c.mgmt) = false := by cases hx : c.phys <;> cases hy : c.mgmt <;> simp_all
  unfold bufOut
  cases hb : bufPieces s c.phys 1 a n with
  | error e => simp [hb, exOk] at h1
  | ok ps =>
    simp only [hb, exGet] at h2 ⊢
    cases hc : cutPieces s (.chan c.ch) ps with
    | error e => simp [hc, exOk] at h2
    | ok cs => simp [withOut, hp, hb, hc]

/-! ### A table of the witnesses -/

def cb0 : Codebook := { kind := 0, entries := [-1, 0, 1] ++ List.replicate 13 0 }
def pset0 : PSet := { p := List.replicate 8 0, frozen := List.replicate 32 false }
/-- A program of one instruction. -/
def prog0 : Prog := { gfmt := 0, nsv := 0, divb := 0, epsreg := 0, ins := [{ opc := 1, dst := 0, sa := 0, sb := 1, sc := 0 }] }
/-- Table 5: eight rows of 32 columns in class W2, on one chip. -/
def desc0 : Desc := { Desc.reset with
  table := 5, widest := 3, dstate := 2, rows := 8, tver := 1, cb2 := 0, tseed := 1, homeOff := 0x100000, stateOff := 0x200000, stateSz := 2 }
def tabs0 : Tabs := { Tabs.reset with
  groups := [(0, Machine.Group.mk 0 0 [0xFFF])], descs := [(0, desc0)], binding := [(5, 0)], cbs := [(0, cb0)],
  progs := [(0, prog0)], psets := [(0, pset0)] }
/-- `live` with the tables `t`, and the companions loaded with them. -/
def withTabs (t : Tabs) : State := { live with
  tabs := t,
  ly := (List.range 8).map (fun k => (k, { Lyush.reset with
    lanes := 16, ctx := t.descs.map (fun e => (e.1, ctxOfDesc e.2)), progs := t.progs, psets := t.psets, cbs := t.cbs })) }
def tabled : State := withTabs tabs0
/-- As `tabled`, with the descriptor in another state. -/
def tabledIn (n : Nat) : State := withTabs { tabs0 with descs := [(0, { desc0 with dstate := n })], binding := if n = 2 then [(5, 0)] else [] }
/-- A populated slice of the table, of zeros. -/
def slice0 : List Byte := mkHdr 0 0 3 0 false true false false 0 ++ List.replicate 56 0

/-- Line 7 in the row cache, dirty or not. -/
def cachedIn (s : State) (d : Bool) : State := { s with rc := { s.rc with
  lines := [(wayKey (homeSlice s 7) (lineSet s 7) 0,
    { x := 7, dirty := d, keep := false, poison := false, touched := false, data := List.replicate 64 5 })] } }
/-- A range entry over 64 KiB at 0x10000, pinned, readable and writable, on tier F at 0x30000. -/
def range0 : Range := {
  start := 1, length := 1, pbase := 3, p := true, pin := true, rd := true, wr := true, at' := true, smode := false, hint := 0,
  host := false, inval := false }
/-- A command of queue 0. -/
def cmd0 (ws : List W64) (op : Nat) : Cmd := Cmd.new 1 0 1 .queue ws false 0 op
def withCmd0 (s : State) (c : Cmd) : State := { s with orr := { s.orr with cmds := [c] } }

def conf0 : QConf := {
  ring := 0x10000, log2n := 6, cring := 0x11000, log2cn := 6, cseqAddr := 0x12000, lc := true, switch := false,
  tiles := BitVec.allOnes 48, depth := 4, slice := 64, ien := true, ivec := 0, icount := 1, itime := 5, hang := 64, hostRes := false }
/-- `live` with a range and with queue 0 configured over it, running. -/
def queueRun : State := { live with
  xlt := { live.xlt with ranges := [(0, range0)] },
  orr := { live.orr with queues := [(0, { Queue.reset with conf := some conf0, st := .running, tail := 1, intPend := true })] } }

/-! ### Witnesses: the whole block, power and bring-up -/

theorem witness_StepRunsFrontCommand : ({ live with pending := [Instr.identify mb] } : State).pending = [.identify mb] ∧
    live.pending = [] := by decide +kernel

theorem witness_BlockResetsTakeEffect : (State.reset.pwr.pllLost = true ∨ State.reset.pwr.pllLock = false) ∧
    (live.pwr.pllLost = false ∧ live.pwr.pllLock = true ∧ (∀ e ∈ live.rc.lines, e.2.dirty = false) ∧
      ∀ e ∈ live.rc.snoop, e.2 = false) := by decide +kernel

theorem witness_ClockEventsTakeEffect : clocked.pwr.pllLost = false ∧
    ({ clocked with pwr := { clocked.pwr with pllLost := true } } : State).pwr.pllLost = true ∧
    clocked.pwr.pllLock = true ∧ State.reset.pwr.pllLock = false := by decide +kernel

theorem witness_FirmwareEventsTakeEffect : (stopped clocked = false ∧ clocked.rc.need = [] ∧ clocked.mer.running = false ∧
      imageOk [0, 0, 0, 0] = true) ∧ imageOk [0, 0, 0] = false ∧ imageOk [1, 0, 0, 0] = false ∧ merUp booted = true ∧
    booted.mer.running = true ∧ (stopped booted = false ∧ booted.rc.need = []) ∧ merUp clocked = false := by
  decide +kernel

def stackGood : StackTrain := { identity := true, failed := [1], spare := 2, temp := 40, hard := [(0, 1)], soft := [] }
/-- More lanes failed on one pseudo-channel than it has spares for. -/
def stackBad : StackTrain := { stackGood with failed := List.replicate 64 9 }
def noLinks : List LinkTrain := List.replicate 48 { width := 0, chip := 0, link := 0, want := none }
def atSl1 : State := { booted with pwr := { booted.pwr with sl := 1 } }
def atSl2 : State := { live with pwr := { live.pwr with sl := 2 } }

theorem witness_BringUpStepsTakeEffect :
    (stopped booted = false ∧ booted.rc.need = [] ∧ merUp booted = true ∧ booted.pwr.sl = 0 ∧
      (List.replicate 8 16).length = 8 ∧ (∀ n ∈ List.replicate 8 16, n = 8 ∨ n = 16) ∧ ∀ x ∈ noLinks, x.want = none) ∧
    (stopped atSl1 = false ∧ atSl1.rc.need = [] ∧ merUp atSl1 = true ∧ atSl1.pwr.sl = 1 ∧ atSl1.mc.tried.length = 0 ∧
      stackGood.identity = true ∧ lanesOk stackGood = true) ∧
    (stackBad.identity = true ∧ lanesOk stackBad = false) ∧
    (stopped live = false ∧ live.rc.need = [] ∧ (stackOf live 5).inService = true) ∧
    (stopped atSl2 = false ∧ merUp atSl2 = true ∧ atSl2.pwr.sl = 2 ∧ stacksUp atSl2 = true ∧
      atSl2.orr.cmds.all (heldBack atSl2) = true ∧ (sl3Transition atSl2).rc.need = []) := by
  constructorm* _ ∧ _ <;> decide +kernel

/-! ### Witnesses: power, restart, errors -/

def parking (w : Bool) : State := { live with
  pwr := { live.pwr with park := .entering, wakeHeld := w }, mer := { live.mer with lruns := [.park 0] } }
def inPark (p : ParkPhase) : State := { live with pwr := { live.pwr with park := p } }
def queued : State := { live with orr := { live.orr with queues := [(0, { Queue.reset with st := .running })] } }
def frzOn (n : Nat) : State := { live with err := { Err.reset with frzCtrl := BitVec.ofNat 5 n } }
def frozenS : State := { live with err := { Err.reset with frozen := true } }

theorem witness_PowerInputsTakeEffect :
    (MbStarts rowSetPowerCap mb (args live [100]) ∧ (args live [100]).rc.need = [] ∧ (mbCtx (args live [100]) mb).f 0 0 9 = 100) ∧
    (MbStarts rowSetPowerCap mb (args live [340]) ∧ (mbCtx (args live [340]) mb).f 0 0 9 = 340) ∧
    (MbStarts rowSetPowerCap mb (args live [341]) ∧ 340 < (mbCtx (args live [341]) mb).f 0 0 9) ∧
    (MbStarts rowSetPowerCap mb (args live [99]) ∧ (mbCtx (args live [99]) mb).f 0 0 9 < 100) ∧
    (stopped live = false ∧ live.rc.need = [] ∧ live.pwr.railAlert = false ∧ live.pwr.temps.length = 8 ∧
      live.err.frzCtrl.getLsbD 2 = false) ∧
    ({ live with pwr := { live.pwr with railHold := true } } : State).pwr.railHold = true ∧
    (stopped (frzOn 4) = false ∧ (frzOn 4).rc.need = [] ∧ (frzOn 4).pwr.temps.length = 8 ∧
      (frzOn 4).err.frzCtrl.getLsbD 2 = true) := by
  unfold MbStarts; constructorm* _ ∧ _ <;> decide +kernel

theorem witness_ParkAndWakeTakeEffect :
    (MbStarts rowPark mb live ∧ parkQuiet live = true ∧ live.rc.need = []) ∧
    (MbStarts rowPark mb queued ∧ queued.rc.need = [] ∧ parkQuiet queued = false) ∧
    (stopped (parking true) = false ∧ (parking true).rc.need = [] ∧ (parking true).pwr.park = .entering ∧
      (parking true).mer.lruns = [.park 0] ∧ (∀ x ∈ (parking true).rc.mshr, x.acc.write = false) ∧
      (parking true).pwr.wakeHeld = true ∧ (parking false).pwr.wakeHeld = false ∧ (lyOf (parking true) 3).lanes ≠ 0) ∧
    (stopped (inPark .parked) = false ∧ (inPark .parked).pwr.park = .parked ∧ stopped (inPark .waking) = false ∧
      (inPark .waking).rc.need = [] ∧ (inPark .waking).pwr.held = [] ∧ (inPark .waking).pwr.restart = .none) := by
  unfold MbStarts; constructorm* _ ∧ _ <;> decide +kernel

def restarting : State := { live with
  pwr := { live.pwr with restart := .running }, mer := { live.mer with lruns := [.restart 0] } }
/-- A SET_STRIPE of channel 0 has begun and waits for its buffer. -/
def begunF (p : ParkPhase) : State := { live with
  pwr := { live.pwr with park := p, held := [.mailbox 0 0x23 false (List.replicate 8 0) .begun] } }

theorem witness_BlockRestartTakesEffect :
    (MbStarts rowBlockRestart mb live ∧ live.rc.need = [] ∧ live.pwr.park = .running ∧ fsBegun live = false) ∧
    (live.pwr.pllLock = true ∧ live.pwr.pllLost = false ∧ live.err.frozen = false ∧ merUp live = true ∧
      live.pwr.restart = .none) ∧
    (merUp (inPark .parked) = true ∧ (inPark .parked).pwr.park = .parked ∧ (inPark .parked).pwr.restart = .none ∧
      (inPark .entering).pwr.park = .entering ∧ (inPark .waking).pwr.park = .waking) ∧
    ((begunF .running).pwr.park = .running ∧ (begunF .running).pwr.restart = .none ∧ fsBegun (begunF .running) = true) ∧
    (frozenS.err.frozen = true ∧ frozenS.pwr.pllLock = true ∧ merUp clocked = false ∧ restarting.pwr.restart ≠ .none) ∧
    State.reset.pwr.pllLock = false ∧
    (stopped restarting = false ∧ restartMayEnd restarting = true ∧
      (restartEnd restarting (List.replicate 6 stackGood) (List.replicate 8 16) 7).pwr.held = [] ∧
      (restartEnd restarting (List.replicate 6 stackGood) (List.replicate 8 16) 7).mer.lheld = [] ∧
      (restartEnd restarting (List.replicate 6 stackGood) (List.replicate 8 16) 7).rc.need = []) := by
  unfold MbStarts; constructorm* _ ∧ _ <;> decide +kernel

def unit1 : Unit' := {
  uid := 1, jid := 1, expand := false, bag0 := 0, nbags := 1, seg := none, p0 := 0, p1 := 1, cursor := 0,
  st := .running, tile := 3, scratch := none, save := none, pos := [], ents := [], grps := [], bags := [] }
def withUnit : State := { live with orr := { live.orr with units := [unit1] } }
/-- The sources of internal errors have reported, and a sensor stands at 120 degrees. -/
def raised : State := { live with
  err := { Err.reset with frzCtrl := 31, intUe := true, intSrc := 2, merUe := true },
  pwr := { live.pwr with temps := [120, 0, 0, 0, 0, 0, 0, 0] } }
def raised0 : State := { raised with err := { raised.err with frzCtrl := 0 } }

theorem witness_ErrorsAndFreezeTakeEffect :
    (stopped (frzOn 1) = false ∧ (frzOn 1).rc.need = [] ∧ (∀ q, IntSource.mesh ≠ .meshCorrected q) ∧
      IntSource.mesh ≠ .meridianCorrected ∧
      (frzOn 1).err.frzCtrl.getLsbD 0 = true) ∧
    (stopped live = false ∧ live.rc.need = [] ∧ live.err.frzCtrl.getLsbD 0 = false ∧ merUp live = true ∧
      live.pwr.park = .running ∧ live.pwr.restart = .none ∧ fsBegun live = false ∧ live.rc.snoop = []) ∧
    (live.err.frzCtrl.getLsbD 1 = false ∧ stopped (frzOn 2) = false ∧ (frzOn 2).rc.need = [] ∧
      (frzOn 2).err.frzCtrl.getLsbD 1 = true) ∧
    (live.pwr.park ≠ .parked ∧ live.sc.jobs = []) ∧
    (stopped withUnit = false ∧ withUnit.pwr.park ≠ .parked ∧ unitOf withUnit 1 = some unit1 ∧
      unit1.tile = (3 : Fin 48).val ∧ unit1.st = .running ∧
      (scatGo (tileParity withUnit 3 (.other 1))).rc.need = [] ∧ (tileParity withUnit 3 (.other 1)).sc.jobs = []) ∧
    (stopped raised = false ∧ raised.rc.need = [] ∧ raised.err.intUe = true ∧ raised.err.merUe = true ∧
      120 ≤ maxTemp raised.pwr ∧ ∀ b, b < 5 → raised.err.frzCtrl.getLsbD b = true) ∧
    (stopped raised0 = false ∧ raised0.rc.need = [] ∧ raised0.err.intUe = true ∧ raised0.err.merUe = true ∧
      120 ≤ maxTemp raised0.pwr ∧ ∀ b, b < 5 → raised0.err.frzCtrl.getLsbD b = false) ∧
    frozenS.err.frozen = true := by
  constructorm* _ ∧ _ <;> decide +kernel
/-! ### Witnesses: the mailbox, group 0, registers -/

def busy0 : State := setChan live 0 { Chan.reset 0 with busy := true }
def haltedS : State := { live with mer := { live.mer with halted := true } }

theorem witness_EveryMailboxWriteObeysItsChannel :
    mailboxWrite (.identify mb) = some (mb, 0x01) ∧ mailboxWrite (.mailboxOverrun mb 0x7F) = some (mb, 0x7F) ∧
    frozenS.err.frozen = true ∧ (stopped live = false ∧ live.rc.need = [] ∧ mbBehind live mb 0x01 = false ∧ mbm.mgmt = true) ∧
    (mbMaster live { mb with ch := 12 } = false ∧ mbMaster live { mbm with ch := 11 } = false) ∧
    (mbMaster busy0 mb = true ∧ (chanOf busy0 mb.ch).busy = true ∧ stopped busy0 = false ∧ busy0.rc.need = [] ∧
      mbBehind busy0 mb 0x7F = false) ∧
    (mbMaster haltedS mb = true ∧ (chanOf haltedS mb.ch).busy = false ∧ haltedS.mer.halted = true ∧
      stopped haltedS = false ∧ haltedS.rc.need = [] ∧ mbBehind haltedS mb 0x01 = false) ∧
    (mbMaster clocked mb = true ∧ (chanOf clocked mb.ch).busy = false ∧ clocked.mer.halted = false ∧
      clocked.mer.running = false ∧ clocked.pwr.park = .running ∧ clocked.pwr.restart = .none ∧ clocked.mer.lruns = [] ∧
      clocked.pwr.held = [] ∧ stopped clocked = false ∧ clocked.rc.need = [] ∧ mbBehind clocked mb 0x01 = false) := by
  decide +kernel

def evRead : State := args live [0x1000, 1]
def evMany : State := args live [0x1000, 4096]
def ctrRead (n u : W64) : State := args live [n, u, 0x1000]
def lockedS (l : List W64) : State := { args booted l with mer := { booted.mer with locked := true } }

theorem witness_IdentificationCommandsComplete_out :
    BufTakes (mbTake evRead mbm 0x02) (mbCtx evRead mbm) 0x1000 32 (bufOut (mbTake evRead mbm 0x02) (mbCtx evRead mbm) 0x1000 32) ∧
    BufTakes (mbTake (ctrRead 13 0) mbm 0x03) (mbCtx (ctrRead 13 0) mbm) 0x1000 (32 + 8 * ctrWords.getD 13 0)
      (bufOut (mbTake (ctrRead 13 0) mbm 0x03) (mbCtx (ctrRead 13 0) mbm) 0x1000 (32 + 8 * ctrWords.getD 13 0)) :=
  ⟨bufTakes_of (by decide +kernel), bufTakes_of (by decide +kernel)⟩

theorem witness_IdentificationCommandsComplete :
    (MbStarts rowIdentify mb live ∧ live.rc.need = []) ∧
    (MbStarts rowEventRead mbm evRead ∧ (mbCtx evRead mbm).f 1 0 13 = 1 ∧ (mbCtx evRead mbm).p 0 = 0x1000 ∧
      MbStarts rowEventRead mbm evMany ∧ (mbCtx evMany mbm).f 1 0 13 = 4096 ∧
      (eventTake (bufOut (mbTake evRead mbm 0x02) (mbCtx evRead mbm) 0x1000 32 (mbTake evRead mbm 0x02) []) true 0).rc.need = []) ∧
    (MbStarts rowCounterRead mbm (ctrRead 13 0) ∧ (mbCtx (ctrRead 13 0) mbm).f 0 0 8 = 13 ∧
      (mbCtx (ctrRead 13 0) mbm).f 1 0 16 = 0 ∧ 0 < ctrUnits.getD 13 0 ∧ (mbCtx (ctrRead 13 0) mbm).p 2 = 0x1000 ∧
      (bufOut (mbTake (ctrRead 13 0) mbm 0x03) (mbCtx (ctrRead 13 0) mbm) 0x1000 (32 + 8 * ctrWords.getD 13 0)
        (mbTake (ctrRead 13 0) mbm 0x03) (ctrRecord (mbTake (ctrRead 13 0) mbm 0x03) 13 0 0)).rc.need = []) ∧
    (MbStarts rowCounterRead mbm (ctrRead 128 47) ∧ (mbCtx (ctrRead 128 47) mbm).f 0 0 8 = 128 + 0 ∧
      (mbCtx (ctrRead 128 47) mbm).f 1 0 16 = 47 ∧ 47 < ctrUnits.getD 0 0) ∧
    (MbStarts rowCounterRead mbm (ctrRead 1 0xFFFF) ∧ (mbCtx (ctrRead 1 0xFFFF) mbm).f 0 0 8 = 1 ∧
      (mbCtx (ctrRead 1 0xFFFF) mbm).f 1 0 16 = 0xFFFF) ∧
    (MbStarts rowBindChannel mbm (args booted [0x0121]) ∧ (mbCtx (args booted [0x0121]) mbm).f 0 4 2 ≠ 3 ∧
      (mbCtx (args booted [0x0121]) mbm).f 0 0 4 ≠ mbm.ch.val ∧ (args booted [0x0121]).mer.locked = false ∧
      (args booted [0x0121]).rc.need = []) ∧
    (MbStarts rowBindChannel mbm (args booted [0x010C]) ∧ (mbCtx (args booted [0x010C]) mbm).f 0 0 4 = mbm.ch.val ∧
      (mbCtx (args booted [0x010C]) mbm).f 0 4 2 = 0) ∧
    (MbStarts rowBindChannel mbm (args booted [0x0131]) ∧ (mbCtx (args booted [0x0131]) mbm).f 0 4 2 = 3) ∧
    (MbStarts rowBindChannel mbm (lockedS [0x0121]) ∧ (lockedS [0x0121]).rc.need = [] ∧ (lockedS [0x0121]).mer.locked = true) ∧
    (MbStarts rowLockBindings mbm booted ∧ booted.rc.need = []) := by
  unfold MbStarts; constructorm* _ ∧ _ <;> decide +kernel

theorem witness_ReservedOpcodeAndOverrunTakeEffect :
    (stopped live = false ∧ live.rc.need = [] ∧ mbBehind live mb 0x06 = false ∧ mbMaster live mb = true ∧
      (chanOf live mb.ch).busy = false ∧ live.mer.running = true ∧ live.mer.halted = false ∧ mbFind (0x00#8).toNat = none ∧
      mbFind (0x06#8).toNat = none ∧ mbFind (0x74#8).toNat = none) ∧
    (stopped busy0 = false ∧ busy0.rc.need = [] ∧ mbBehind busy0 mb 0x06 = false ∧ mbMaster busy0 mb = true ∧
      (chanOf busy0 mb.ch).busy = true) := by
  decide +kernel

def attached : State := { live with hp := { live.hp with state := 0 } }

theorem witness_RegisterWritesTakeEffect :
    (stopped live = false ∧ live.rc.need = [] ∧ mustWait live (.reg 0x40 [0x10]) = false ∧ winOk live (winBase 0x10) = true) ∧
    (winOk live (winBase 0x7FFFFFF) = false) ∧
    (stopped attached = false ∧ attached.rc.need = [] ∧ hostUp attached = true ∧
      mustWait attached (.reg (0x40008 + 16 * 80) [msixWord attached 80 1 &&& 0xFFFFFFFEFFFFFFFF#64]) = false) ∧
    (mustWait live (.reg 0x68 [7]) = false ∧ mustWait live (.reg 0x20 [7]) = false ∧ mustWait live (.reg 0x10 [128]) = false ∧
      mustWait live (.reg (0x30000 + 8 * 1023) [7]) = false) ∧
    (frozenS.rc.need = [] ∧ frozenS.err.frozen = true) ∧
    ((3 : Nat) % 8 ≠ 0 ∧ 8 < (List.replicate 9 (0 : W64)).length ∧ (64 : Nat) < 56 % 64 + 8 * [0, (0 : W64)].length) := by
  decide +kernel
/-! ### Witnesses: tables -/

def cbBytes : List Byte := cbRecord 0 cb0
def cbS : State := poke (args live [0x1000]) 0x1000 cbBytes
def cbS1 : State := rdState (bufRead (mbTake cbS mbm 0x10) (mbCtx cbS mbm) 0x1000 32)
def cbS2 : State := rdState (bufRead cbS1 (mbCtx cbS mbm) 0x1020 32)
/-- The codebook stands already. -/
def cbAgain : State := { cbS with tabs := { Tabs.reset with cbs := [(0, cb0)] } }
def cbA1 : State := rdState (bufRead (mbTake cbAgain mbm 0x10) (mbCtx cbAgain mbm) 0x1000 32)
def cbA2 : State := rdState (bufRead cbA1 (mbCtx cbAgain mbm) 0x1020 32)

theorem witness_LOAD_CODEBOOK :
    MbStarts rowLoadCodebook mbm cbS ∧ MbStarts rowLoadCodebook mbm cbAgain ∧ (mbCtx cbS mbm).p 0 = 0x1000 ∧
    bufReadOk (mbTake cbS mbm 0x10) (mbCtx cbS mbm) 0x1000 32 = true ∧
    cbHdrOk (bufIn (mbTake cbS mbm 0x10) (mbCtx cbS mbm) 0x1000 32) = true ∧
    2 * cbLen (numAt (bufIn (mbTake cbS mbm 0x10) (mbCtx cbS mbm) 0x1000 32) 0 4 / 1024 % 4) = 32 ∧
    bufReadOk cbS1 (mbCtx cbS mbm) 0x1020 32 = true ∧
    cbCheck cbS2 (bufIn (mbTake cbS mbm 0x10) (mbCtx cbS mbm) 0x1000 32) (bufIn cbS1 (mbCtx cbS mbm) 0x1020 32) = .ok (0, cb0) ∧
    mget? cbS2.tabs.cbs 0 ≠ some cb0 ∧ downPorts cbS2 = [] ∧ (storeCb cbS2 0 cb0).rc.need = [] ∧
    bufReadOk (mbTake cbAgain mbm 0x10) (mbCtx cbAgain mbm) 0x1000 32 = true ∧
    bufReadOk cbA1 (mbCtx cbAgain mbm) 0x1020 32 = true ∧
    cbCheck cbA2 (bufIn (mbTake cbAgain mbm 0x10) (mbCtx cbAgain mbm) 0x1000 32) (bufIn cbA1 (mbCtx cbAgain mbm) 0x1020 32) =
      .ok (0, cb0) ∧
    mget? cbA2.tabs.cbs 0 = some cb0 ∧ cbA2.rc.need = [] := by
  unfold MbStarts; constructorm* _ ∧ _ <;> decide +kernel

/-- The 128-byte image of `desc0`. -/
def descBytes (seed : Nat) : List Byte :=
  toBytes 8 (5 + 3 * 2 ^ 12) ++ toBytes 8 8 ++ toBytes 8 0xFFFFFFFF ++ toBytes 8 0 ++ toBytes 8 0 ++ toBytes 8 seed ++
    toBytes 8 (0x100000 + 0x200000 * 2 ^ 26) ++ toBytes 8 2 ++ List.replicate 64 0
/-- The image with its seed, and the seed 0, of which the command draws one. -/
def defS (seed : Nat) : State :=
  poke (args (withTabs { tabs0 with descs := [], binding := [] }) [0x1000, 4095, 1]) 0x1000 (descBytes seed)
def defS1 (seed : Nat) : State := rdState (bufRead (mbTake (defS seed) mbm 0x11) (mbCtx (defS seed) mbm) 0x1000 128)
def defDesc (seed : Nat) : Desc := { desc0 with dstate := 1, tseed := BitVec.ofNat 64 seed }
def bindS : State := args (tabledIn 1) [5 + 0x10000]
def dropS : State := args tabled [5 + 0x10000]
def grpS : State := poke (args live [1 * 2 ^ 6 + 1 * 2 ^ 9, 0x1000]) 0x1000 [1, 0, 0xFE, 0x0F]
def grpOf : State := { grpS with mer := { grpS.mer with fabric := 0xFFE } }
def grp1 : State := rdState (bufRead (mbTake grpOf mbm 0x1D) (mbCtx grpOf mbm) 0x1000 4)
def grpB : List Byte := bufIn (mbTake grpOf mbm 0x1D) (mbCtx grpOf mbm) 0x1000 4

theorem witness_TableDefinitionsTakeEffect :
    (MbStarts rowDefineTable mbm (defS 1) ∧ (mbCtx (defS 1) mbm).p 0 = 0x1000 ∧ (mbCtx (defS 1) mbm).f 1 0 12 = 4095 ∧
      bufReadOk (mbTake (defS 1) mbm 0x11) (mbCtx (defS 1) mbm) 0x1000 128 = true ∧
      descOfBytes (bufIn (mbTake (defS 1) mbm 0x11) (mbCtx (defS 1) mbm) 0x1000 128) ((mbCtx (defS 1) mbm).f 2 0 16) = defDesc 1 ∧
      (defDesc 1).resident = false ∧ (descOf (defS1 1) 4095).dstate = 0 ∧ findDesc (defS1 1) 5 (fun y => y.tver == 1) = none ∧
      descRefuse (defS1 1) (bufIn (mbTake (defS 1) mbm 0x11) (mbCtx (defS 1) mbm) 0x1000 128) (defDesc 1) = none ∧
      downPorts (defS1 1) = [] ∧ (defDesc 1).tseed ≠ 0 ∧ (defineDesc (defS1 1) 4095 (defDesc 1)).rc.need = []) ∧
    (MbStarts rowDefineTable mbm (defS 0) ∧ (mbCtx (defS 0) mbm).p 0 = 0x1000 ∧ (mbCtx (defS 0) mbm).f 1 0 12 = 4095 ∧
      bufReadOk (mbTake (defS 0) mbm 0x11) (mbCtx (defS 0) mbm) 0x1000 128 = true ∧
      descOfBytes (bufIn (mbTake (defS 0) mbm 0x11) (mbCtx (defS 0) mbm) 0x1000 128) ((mbCtx (defS 0) mbm).f 2 0 16) = defDesc 0 ∧
      (defDesc 0).resident = false ∧ (descOf (defS1 0) 4095).dstate = 0 ∧ findDesc (defS1 0) 5 (fun y => y.tver == 1) = none ∧
      descRefuse (defS1 0) (bufIn (mbTake (defS 0) mbm 0x11) (mbCtx (defS 0) mbm) 0x1000 128) (defDesc 0) = none ∧
      downPorts (defS1 0) = [] ∧ (defDesc 0).tseed = 0) ∧
    (MbStarts rowBindTable mb bindS ∧ liveDesc bindS ((mbCtx bindS mb).f 0 0 12) = none ∧
      findDesc bindS ((mbCtx bindS mb).f 0 0 12) (fun y => y.dstate == 1 && y.tver == BitVec.ofNat 16 ((mbCtx bindS mb).f 0 16 16)) =
        some (0, { desc0 with dstate := 1 }) ∧
      lUsed bindS 0 = false ∧ versionReady bindS 0 { desc0 with dstate := 1 } = true ∧
      (bindDesc (mbTake bindS mb 0x14) 0).rc.need = []) ∧
    (MbStarts rowDropTable mb dropS ∧
      findDesc dropS ((mbCtx dropS mb).f 0 0 12) (fun y => y.dstate != 3 && y.tver == BitVec.ofNat 16 ((mbCtx dropS mb).f 0 16 16)) =
        some (0, desc0) ∧
      lUsed dropS 0 = false ∧ (retireDesc (mbTake dropS mb 0x15) 0).rc.need = []) ∧
    (MbStarts rowSetSplitGroup mb (args live [63]) ∧ (args live [63]).rc.need = [] ∧ (mbCtx (args live [63]) mb).f 0 6 3 = 0 ∧
      (mbCtx (args live [63]) mb).f 0 9 6 = 0 ∧ (mbCtx (args live [63]) mb).p 1 = 0 ∧
      (args live [63]).tabs.descs.any (fun e => e.2.dstate != 0 && e.2.group == (mbCtx (args live [63]) mb).f 0 0 6) = false) ∧
    (MbStarts rowSetSplitGroup mbm grpOf ∧ (mbCtx grpOf mbm).f 0 6 3 = 1 ∧ (mbCtx grpOf mbm).f 0 9 6 = 1 ∧
      (mbCtx grpOf mbm).p 1 = 0x1000 ∧ bufReadOk (mbTake grpOf mbm 0x1D) (mbCtx grpOf mbm) 0x1000 4 = true ∧ grp1.rc.need = [] ∧
      grpOf.tabs.descs.any (fun e => e.2.dstate != 0 && e.2.group == (mbCtx grpOf mbm).f 0 0 6) = false ∧
      (∀ i, i < 2 → numAt grpB (2 * i) 2 < 4095) ∧ numAt grpB (2 * 1) 2 = grp1.mer.fabric.toNat) := by
  unfold MbStarts; constructorm* _ ∧ _ <;> decide +kernel

/-- An image of one row, and of a header of another table. -/
def img1 : List Byte := dumpImage (tabledIn 1) desc0 [{ row := 7, slice := slice0, rec' := [] }]
def imgBad : List Byte := 1 :: img1.drop 1
def loadS (i : List Byte) : State := poke (args (tabledIn 1) [0x1000, BitVec.ofNat 64 i.length, 0]) 0x1000 i
def loadS1 (i : List Byte) : State := rdState (bufRead (mbTake (loadS i) mbm 0x12) (mbCtx (loadS i) mbm) 0x1000 i.length)
def loadB (i : List Byte) : List Byte := bufIn (mbTake (loadS i) mbm 0x12) (mbCtx (loadS i) mbm) 0x1000 i.length
def loadC := loadCbs (descOf (loadS1 img1) 0) (loadB img1) (imgHdr (loadB img1)).slOff (imgHdr (loadB img1)).ncb (imgHdr (loadB img1)).cbOff [] (loadS1 img1)
def loadL := loadSlices 0 (descOf (loadS1 img1) 0) (loadB img1) (imgHdr (loadB img1)).nsl (imgHdr (loadB img1)).slOff 0 []
  (clearAreas loadC.1 (descOf (loadS1 img1) 0))
/-- A load with a state file of one record, and one without any. -/
def stFile (n : Nat) : List Byte :=
  dumpState desc0 ((List.replicate n { row := 7, slice := slice0, rec' := List.replicate 64 0 } : List DumpRow))
def load2 : State := poke (args (tabledIn 1) [0x1000, BitVec.ofNat 64 img1.length, 0, 0x4000, 88]) 0x1000 img1
def load2F : State := poke load2 0x4000 (stFile 1)
def load2a : State := rdState (bufRead (mbTake load2F mbm 0x12) (mbCtx load2F mbm) 0x1000 img1.length)
def load2b : State := rdState (bufRead load2a (mbCtx load2F mbm) 0x4000 88)
def load2B : List Byte := bufIn (mbTake load2F mbm 0x12) (mbCtx load2F mbm) 0x1000 img1.length
def load2S : List Byte := bufIn load2a (mbCtx load2F mbm) 0x4000 88
def load2C := loadCbs (descOf load2b 0) load2B (imgHdr load2B).slOff (imgHdr load2B).ncb (imgHdr load2B).cbOff [] load2b
def load2L := loadSlices 0 (descOf load2b 0) load2B (imgHdr load2B).nsl (imgHdr load2B).slOff 0 [] (clearAreas load2C.1 (descOf load2b 0))
def load2R := loadStates 0 (descOf load2b 0) load2S load2L.2.2.1 1 16 0 0 load2L.1
def dumpS : State := args tabled [0x1000, 2048, 0]
def dumpR := dumpRows 0 8 0 (mbTake dumpS mbm 0x13)
def dump2 : State := args tabled [0x1000, 2048, 0, 0x4000, 1024]
def dump2R := dumpRows 0 8 0 (mbTake dump2 mbm 0x13)
def dump2U : State := bufOut (mbTake dump2 mbm 0x13) (mbCtx dump2 mbm) 0x4000 1024 dump2R.1 (dumpState (descOf dump2 0) dump2R.2)

theorem witness_TableLoadsAndDumpsTakeEffect :
    (MbStarts rowLoadImage mbm (loadS img1) ∧ (mbCtx (loadS img1) mbm).f 2 0 12 = 0 ∧ (mbCtx (loadS img1) mbm).p 3 = 0 ∧
      (mbCtx (loadS img1) mbm).f 4 0 64 = 0 ∧ (descOf (loadS img1) 0).dstate = 1 ∧ lUsed (loadS img1) 0 = false ∧
      (mbCtx (loadS img1) mbm).p 0 = 0x1000 ∧ (mbCtx (loadS img1) mbm).f 1 0 64 = img1.length ∧
      bufReadOk (mbTake (loadS img1) mbm 0x12) (mbCtx (loadS img1) mbm) 0x1000 img1.length = true ∧
      imgHdrOk (loadB img1) (descOf (loadS1 img1) 0) = true ∧ loadC.2 = none ∧ loadL.2.1 = none ∧ loadL.2.2.1 = [7] ∧
      crc32 (bytesAt (loadB img1) (imgHdr (loadB img1)).slOff (loadL.2.2.2 - (imgHdr (loadB img1)).slOff)) = (imgHdr (loadB img1)).slCrc ∧
      loadL.1.rc.need = []) ∧
    (MbStarts rowLoadImage mbm load2F ∧ (mbCtx load2F mbm).f 2 0 12 = 0 ∧ (descOf load2F 0).dstate = 1 ∧ lUsed load2F 0 = false ∧
      (mbCtx load2F mbm).p 0 = 0x1000 ∧ (mbCtx load2F mbm).f 1 0 64 = img1.length ∧
      bufReadOk (mbTake load2F mbm 0x12) (mbCtx load2F mbm) 0x1000 img1.length = true ∧ (mbCtx load2F mbm).p 3 = 0x4000 ∧
      (mbCtx load2F mbm).f 4 0 64 = 88 ∧ bufReadOk load2a (mbCtx load2F mbm) 0x4000 88 = true ∧
      imgHdrOk load2B (descOf load2b 0) = true ∧ load2C.2 = none ∧ load2L.2.1 = none ∧ load2L.2.2.1 = [7] ∧
      crc32 (bytesAt load2B (imgHdr load2B).slOff (load2L.2.2.2 - (imgHdr load2B).slOff)) = (imgHdr load2B).slCrc ∧
      stHdrOk load2S (descOf load2b 0) = true ∧ numAt load2S 8 8 = 1 ∧ load2R.2.1 = none ∧ load2R.2.2 = 1 ∧
      load2R.1.rc.need = []) ∧
    (MbStarts rowLoadImage mbm (loadS imgBad) ∧ (descOf (loadS imgBad) 0).dstate = 1 ∧ lUsed (loadS imgBad) 0 = false ∧
      bufReadOk (mbTake (loadS imgBad) mbm 0x12) (mbCtx (loadS imgBad) mbm) 0x1000 imgBad.length = true ∧ imgHdrOk (loadB imgBad) (descOf (loadS1 imgBad) 0) = false ∧
      (loadS1 imgBad).rc.need = []) ∧
    (MbStarts rowDumpTable mbm dumpS ∧ (mbCtx dumpS mbm).f 2 0 12 = 0 ∧ (mbCtx dumpS mbm).p 3 = 0 ∧ (mbCtx dumpS mbm).f 4 0 64 = 0 ∧
      (descOf dumpS 0).dstate = 2 ∧ lUsed dumpS 0 = false ∧
      64 + (dumpCbs dumpS (descOf dumpS 0)).length + (descOf dumpS 0).rows * (8 + homeSz (descOf dumpS 0)) ≤ (mbCtx dumpS mbm).f 1 0 64 ∧
      bufOutOk dumpR.1 (mbCtx dumpS mbm) 0x1000 2048 = true ∧
      (bufOut dumpR.1 (mbCtx dumpS mbm) 0x1000 2048 dumpR.1 (dumpImage dumpR.1 (descOf dumpS 0) dumpR.2)).rc.need = []) ∧
    (MbStarts rowDumpTable mbm dump2 ∧ (mbCtx dump2 mbm).f 2 0 12 = 0 ∧ (descOf dump2 0).dstate = 2 ∧ lUsed dump2 0 = false ∧
      (mbCtx dump2 mbm).p 0 = 0x1000 ∧ (mbCtx dump2 mbm).p 3 = 0x4000 ∧
      64 + (dumpCbs dump2 (descOf dump2 0)).length + (descOf dump2 0).rows * (8 + homeSz (descOf dump2 0)) ≤ (mbCtx dump2 mbm).f 1 0 64 ∧
      16 + (descOf dump2 0).rows * (8 + (descOf dump2 0).stateSz * 32) ≤ (mbCtx dump2 mbm).f 4 0 64 ∧
      bufOutOk (mbTake dump2 mbm 0x13) (mbCtx dump2 mbm) 0x4000 1024 = true ∧ bufOutOk dump2U (mbCtx dump2 mbm) 0x1000 2048 = true ∧
      (bufOut dump2U (mbCtx dump2 mbm) 0x1000 2048 dump2U (dumpImage dump2U (descOf dump2 0) dump2R.2)).rc.need = []) := by
  unfold MbStarts; constructorm* _ ∧ _ <;> decide +kernel

def prmS : State := args tabled [0x1000, 1]
/-- The descriptor that `prmS` leads to. -/
def prmY : Desc := withParams desc0 1 1 0 0 0
def prmL : State := allLy (mbTake prmS mb 0x16) (fun _ l => lyLoadCtx l 0 (ctxOfDesc prmY))
/-- Companion 3 has an open batch of the descriptor. -/
def prmOpen : State := { prmS with ly := mset prmS.ly 3 { lyOf prmS 3 with batches := [(0, 7)] } }
def prmOpenL : State := allLy (mbTake prmOpen mb 0x16) (fun _ l => lyLoadCtx l 0 (ctxOfDesc prmY))
def progS (w : Nat) : State :=
  poke (args live [0x1000]) 0x1000 (toBytes 4 9 ++ toBytes 4 (crc32 (toBytes 4 w)) ++ toBytes 8 0 ++ toBytes 4 w)
def psS : State := poke (args tabled [0x1000, 0x1040, 32 * 2 ^ 12]) 0x1000 (3 :: List.replicate 47 0)
def psS1 : State := rdState (bufRead (mbTake psS mbm 0x18) (mbCtx psS mbm) 0x1000 48)
def psS2 : State := rdState (bufRead psS1 (mbCtx psS mbm) 0x1040 4)
def progId0 (s : State) : State := poke s 0x1000 (toBytes 4 0 ++ toBytes 4 (crc32 (toBytes 4 (2 ^ 26))) ++ toBytes 8 0 ++ toBytes 4 (2 ^ 26))
/-- Program 0 stands already, or stands with other words and is used by the table. -/
def progSame : State := progId0 (args (withTabs { tabs0 with progs := [(0, progOf 0 (toBytes 4 (2 ^ 26)))] }) [0x1000])
def progUsedS : State := progId0 (args (withTabs { tabs0 with progs := [(0, { prog0 with nsv := 1 })] }) [0x1000])
def progRd1 (s : State) : State := rdState (bufRead (mbTake s mbm 0x17) (mbCtx s mbm) 0x1000 16)
def progRd2 (s : State) : State := rdState (bufRead (progRd1 s) (mbCtx s mbm) 0x1010 4)
def progHd (s : State) : List Byte := bufIn (mbTake s mbm 0x17) (mbCtx s mbm) 0x1000 16
def progBd (s : State) : List Byte := bufIn (progRd1 s) (mbCtx s mbm) 0x1010 4
/-- The premises that the three clauses of LOAD_PROG share. -/
def ProgReads (s : State) : Prop :=
  MbStarts rowLoadProg mbm s ∧ (mbCtx s mbm).p 0 = 0x1000 ∧ bufReadOk (mbTake s mbm 0x17) (mbCtx s mbm) 0x1000 16 = true ∧
    numAt (progHd s) 0 4 / 2 ^ 14 % 4 < 2 ∧ numAt (progHd s) 0 4 / 2 ^ 18 % 4 ≠ 3 ∧ numAt (progHd s) 0 4 < 2 ^ 23 ∧
    numAt (progHd s) 8 8 = 0 ∧ 1 = numAt (progHd s) 0 4 / 2 ^ 8 % 64 + 1 ∧
    bufReadOk (progRd1 s) (mbCtx s mbm) 0x1010 4 = true ∧ crc32 (progBd s) = numAt (progHd s) 4 4 ∧
    (∀ i, i < 1 → insOk (progOf (numAt (progHd s) 0 4) (progBd s)).nsv (numAt (progBd s) (4 * i) 4) = true) ∧
    (progRd2 s).rc.need = []
def mapRec : BagMap := {
  id := 9, cid := 0, owner := 0xFFF, tag := 0, usable := true, relAsked := false, readers := 1, desc := 0, tver := 1, pmode := 0, weighted := false,
  nbags := 1, nidx := 0, off := [0, 0], members := [], nvalid := [0], wins := [], bytes := 0 }
def relS : State := { args live [9] with sc := { live.sc with maps := [mapRec, { mapRec with id := 10 }] } }
def relNone : State := { args live [11] with sc := relS.sc }
def frzRowS : State := poke (args tabled [0, 7, 1]) (homeAddr 0 desc0 7) slice0
def frzRowR := readHdr (mbTake frzRowS mb 0x19) 0 7
def lvlS : State := poke (args tabled [0, 7, 5]) (homeAddr 0 desc0 7) slice0

theorem witness_TableParametersTakeEffect :
    (MbStarts rowTableParams mb prmS ∧ (mbCtx prmS mb).f 0 0 12 = 0 ∧
      (∀ i, i < 4 → (BitVec.ofNat 4 ((mbCtx prmS mb).f 0 12 4)).getLsbD i = false → (mbCtx prmS mb).f (i + 1) 0 27 = 0) ∧
      (descOf prmS 0).dstate = 2 ∧ lUsed prmS 0 = false ∧ downPorts prmS = [] ∧
      prmY = withParams (descOf prmS 0) (BitVec.ofNat 4 ((mbCtx prmS mb).f 0 12 4)) (BitVec.ofNat 27 ((mbCtx prmS mb).f 1 0 27))
        (BitVec.ofNat 27 ((mbCtx prmS mb).f 2 0 27)) (BitVec.ofNat 27 ((mbCtx prmS mb).f 3 0 27)) ((mbCtx prmS mb).f 4 0 8) ∧
      paramsApplied prmL 0 = true ∧ (putDesc prmL 0 prmY).rc.need = []) ∧
    (MbStarts rowTableParams mb prmOpen ∧ (descOf prmOpen 0).dstate = 2 ∧ lUsed prmOpen 0 = false ∧ downPorts prmOpen = [] ∧
      paramsApplied prmOpenL 0 = false ∧ prmOpen.rc.need = []) ∧
    (ProgReads (progS (2 ^ 26)) ∧ mget? (progRd2 (progS (2 ^ 26))).tabs.progs (numAt (progHd (progS (2 ^ 26))) 0 4 % 256) = none ∧
      downPorts (progRd2 (progS (2 ^ 26))) = []) ∧
    (ProgReads progSame ∧ mget? (progRd2 progSame).tabs.progs (numAt (progHd progSame) 0 4 % 256) =
      some (progOf (numAt (progHd progSame) 0 4) (progBd progSame))) ∧
    (ProgReads progUsedS ∧ mget? (progRd2 progUsedS).tabs.progs (numAt (progHd progUsedS) 0 4 % 256) ≠
        some (progOf (numAt (progHd progUsedS) 0 4) (progBd progUsedS)) ∧
      progUsed (progRd2 progUsedS) (numAt (progHd progUsedS) 0 4 % 256) = true ∧
      mget? (progRd2 progUsedS).tabs.progs (numAt (progHd progUsedS) 0 4 % 256) ≠ none) ∧
    (MbStarts rowLoadPset mbm psS ∧ (mbCtx psS mbm).f 2 0 12 = 0 ∧ (mbCtx psS mbm).f 2 12 17 = 32 ∧ (descOf psS 0).dstate ≠ 0 ∧
      32 = 2 ^ (descOf psS 0).log2s * (descOf psS 0).cols ∧ lUsed psS 0 = false ∧ (mbCtx psS mbm).p 0 = 0x1000 ∧
      (mbCtx psS mbm).p 1 = 0x1040 ∧ bufReadOk (mbTake psS mbm 0x18) (mbCtx psS mbm) 0x1000 48 = true ∧
      (bytesAt (bufIn (mbTake psS mbm 0x18) (mbCtx psS mbm) 0x1000 48) 1 15).any (fun b => b != 0) = false ∧
      bufReadOk psS1 (mbCtx psS mbm) 0x1040 4 = true ∧ downPorts psS2 = [] ∧ psS2.rc.need = []) ∧
    (MbStarts rowSetSkewPolicy mb (args live [0x1FFF]) ∧ (args live [0x1FFF]).rc.need = [] ∧ lUsed (args live [0x1FFF]) 4095 = false) ∧
    (MbStarts rowSetScrubPolicy mb (args live [50000000]) ∧ (args live [50000000]).rc.need = [] ∧ (args live [50000001]).rc.need = [] ∧ (mbCtx (args live [50000000]) mb).f 0 0 32 ≤ 50000000 ∧
      MbStarts rowSetScrubPolicy mb (args live [50000001]) ∧ 50000000 < (mbCtx (args live [50000001]) mb).f 0 0 32) ∧
    (MbStarts rowReleaseMap mb relS ∧ BitVec.ofNat 16 ((mbCtx relS mb).f 0 0 16) = 9 ∧ relS.rc.need = [] ∧
      relS.sc.maps.any (fun b => b.id == 9 && !b.relAsked) = true ∧ MbStarts rowReleaseMap mb relNone ∧ relNone.rc.need = [] ∧
      BitVec.ofNat 16 ((mbCtx relNone mb).f 0 0 16) = 11 ∧ relNone.sc.maps.any (fun b => b.id == 11 && !b.relAsked) = false) ∧
    (MbStarts rowFreezeRow mb frzRowS ∧ (mbCtx frzRowS mb).f 0 0 12 = 0 ∧ (mbCtx frzRowS mb).f 1 0 40 = 7 ∧
      (descOf frzRowS 0).dstate ≠ 0 ∧ (descOf frzRowS 0).resident = false ∧ 7 < (descOf frzRowS 0).rows ∧
      scatterBusy frzRowS 0 = false ∧ portUp frzRowS (homeComp 0 (descOf frzRowS 0) 7) = true ∧ frzRowR.2.2 = false ∧
      slPop frzRowR.2.1 = true ∧
      lUsed frzRowS 0 = false ∧ (mbCtx frzRowS mb).f 2 0 1 = 1 ∧
      (writeExt frzRowR.1 (homeAddr 0 (descOf frzRowS 0) 7 + 5)
        (toBytes 1 (numAt frzRowR.2.1 5 1 - numAt frzRowR.2.1 5 1 / 2 % 2 * 2 + 1 * 2)) 0 false).rc.need = []) ∧
    (MbStarts rowLevelRow mb lvlS ∧ (mbCtx lvlS mb).f 0 0 12 = 0 ∧ (mbCtx lvlS mb).f 1 0 40 = 7 ∧
      (descOf lvlS 0).dstate ≠ 0 ∧ 7 < (descOf lvlS 0).rows ∧ lUsed lvlS 0 = false ∧ portUp lvlS (homeComp 0 (descOf lvlS 0) 7) = true ∧
      (sendLevel (mbTake lvlS mb 0x1B) 0 7 ((mbCtx lvlS mb).f 2 0 24)).1.rc.need = [] ∧
      (sendLevel (mbTake lvlS mb 0x1B) 0 7 ((mbCtx lvlS mb).f 2 0 24)).2.result = 8) := by
  unfold ProgReads MbStarts; constructorm* _ ∧ _ <;> decide +kernel

/-! ### Witnesses: memory layout, cache, ranges, streams and faults -/

def maintS : State := cachedIn (args live [1, 0x1C0, 1]) true
def maintMax : State := args live [0, 0, 0x100000000]
def walkS : State := { cachedIn live true with
  rc := { (cachedIn live true).rc with enabled := false, cleaning := true }, mer := { live.mer with lruns := [.cacheDisable 0] } }
def healthS : State := args live [15, 0x1000]

/-! ### A write with the row cache empty and disabled leaves it so, whatever bytes it writes -/

theorem raiseEvent_rc (s : State) (c u : Nat) (a b : W64) : (raiseEvent s c u a b).rc = s.rc := by
  unfold raiseEvent msixFire bumpIf bump
  dsimp only
  repeat' split
  all_goals rfl

theorem dWriteSec_rc (s : State) (sec : Nat) (upd : List (Option Byte)) (p : Bool) : (dWriteSec s sec upd p).rc = s.rc := by
  unfold dWriteSec
  dsimp only
  split
  · unfold freezeUe freezeOn freeze bumpIf bump
    dsimp only
    repeat' split
    all_goals rfl
  · repeat' split
    all_goals first | rfl | exact raiseEvent_rc _ _ _ _ _

theorem dWrite_rc (s : State) (a : Nat) (l : List Byte) (p : Bool) : (dWrite s a l p).rc = s.rc := by
  unfold dWrite countDown bump1 bump
  dsimp only
  repeat' split
  all_goals first | rfl | exact dWriteSec_rc _ _ _ _ | rw [dWriteSec_rc, dWriteSec_rc]

/-- The row cache is empty and disabled, and nothing is open at it. -/
def Idle (c : Cache) : Prop := c.lines = [] ∧ c.mshr = [] ∧ c.snoop = [] ∧ c.enabled = false

theorem writeLine_rc {s : State} (h : Idle s.rc) (a : Nat) (l : List Byte) (hint : BitVec 2) (p : Bool) :
    (writeLine s a l hint p).rc = s.rc := by
  obtain ⟨h1, h2, h3, h4⟩ := h
  have hg : snoopGate s (a / 64) true = s := by simp [snoopGate, h3, sliceFull, h2]
  have hm : missOpen s (a / 64) = false := by simp [missOpen, h2]
  unfold writeLine
  simp only [hg, hm, Bool.false_eq_true, if_false]
  split
  · exact dWrite_rc _ _ _ _
  · have hw : findWay s (homeSlice s (a / 64)) (lineSet s (a / 64)) (a / 64) = none := by
      simp [findWay, h1, mget?, List.find?_eq_none]
    simp only [putLine, hw, h4, Bool.and_false, Bool.false_and, Bool.false_eq_true, if_false]
    exact dWrite_rc _ _ _ _

theorem writeMarkedLine_rc {s : State} (h : Idle s.rc) (a : Nat) (d : List (Byte × Bool)) (hint : BitVec 2) :
    (writeMarkedLine s a d hint).rc = s.rc := by
  unfold writeMarkedLine
  dsimp only
  split
  · rw [writeLine_rc (by rw [writeLine_rc h]; exact h), writeLine_rc h]
  · exact writeLine_rc h _ _ _ _

theorem writeMarkedGo_rc (hint : BitVec 2) (k : Nat) (s : State) (a : Nat) (d : List (Byte × Bool)) (h : Idle s.rc) :
    (writeMarkedGo hint k s a d).rc = s.rc := by
  induction k generalizing s a d with
  | zero => rfl
  | succ k ih =>
    unfold writeMarkedGo
    split
    · rfl
    · rw [ih _ _ _ (by rw [writeMarkedLine_rc h]; exact h), writeMarkedLine_rc h]

/-- A stack's report goes to a buffer at 0x1000. -/
def stackS : State := { args live [5, 0x1000] with rc := { live.rc with enabled := false } }

theorem witness_STACK_HEALTH (n : Nat) (hn : n < 65536) (b : List Byte) :
    BufTakes (mbTake stackS mbm 0x24) (mbCtx stackS mbm) 0x1000 n (bufOut (mbTake stackS mbm 0x24) (mbCtx stackS mbm) 0x1000 n) ∧
    (bufOut (mbTake stackS mbm 0x24) (mbCtx stackS mbm) 0x1000 n (mbTake stackS mbm 0x24) b).rc.need = [] := by
  have hp : (mbCtx stackS mbm).phys = true := by decide +kernel
  have hm : (mbCtx stackS mbm).mgmt = true := by decide +kernel
  have hi : inTiers 0x1000 n = true := by
    have h : inTierF 0x1000 n = true := decide_eq_true (show 0x1000 + n ≤ 0x006000000000 by omega)
    simp [inTiers, h]
  have hc : Idle (mbTake stackS mbm 0x24).rc := ⟨by decide +kernel, by decide +kernel, by decide +kernel, by decide +kernel⟩
  have h0 : (mbTake stackS mbm 0x24).rc.need = [] := by decide +kernel
  constructor
  · exact bufTakes_of (by simp [bufOutOk, bufPieces, hp, hm, hi, exOk, exGet, cutPieces, cutPiece])
  · simp only [bufOut, bufPieces, hp, hi, exGet, cutPieces, cutPiece, if_true, Bool.not_false, Bool.and_self,
      List.flatMap_cons, List.flatMap_nil, List.append_nil]
    simp only [List.find?, hi, Bool.not_true, Bool.and_false, Bool.false_and, writeCuts]
    split
    · exact h0
    · simp only [writePiece, hi, if_true, Bool.false_eq_true, if_false]
      rw [writeMarkedGo_rc _ _ _ _ _ hc]; exact h0

/-- Below the minimum of L, above the space of tier F, and after a power cycle that kept the stacks in self-refresh. -/
def layLow : State := args booted [19]
def layHigh : State := args booted [0, 0xFFFF]
def layKept : State := { booted with pwr := { booted.pwr with fullSr := true } }

theorem witness_MemoryLayoutCommandsTakeEffect :
    (MbStarts rowSetLayout mb booted ∧ booted.rc.need = [] ∧ layoutArgs (mbCtx booted mb) = Layout.default ∧
      layoutMin Layout.default = true ∧ booted.pwr.fullSr = false ∧ layoutSum Layout.default + 0x20000000 ≤ tierFEnd) ∧
    (MbStarts rowSetLayout mb layKept ∧ layKept.rc.need = [] ∧
      layoutArgs (mbCtx layKept mb) = (layKept.mer.nvm.bind (fun n => n.layout)).getD Layout.default) ∧
    (MbStarts rowSetLayout mb layLow ∧ layLow.rc.need = [] ∧ layLow.pwr.fullSr = false ∧
      layoutMin (layoutArgs (mbCtx layLow mb)) = false) ∧
    (MbStarts rowSetLayout mb layHigh ∧ layHigh.rc.need = [] ∧ layHigh.pwr.fullSr = false ∧
      layoutMin (layoutArgs (mbCtx layHigh mb)) = true ∧ tierFEnd < layoutSum (layoutArgs (mbCtx layHigh mb)) + 0x20000000) ∧
    (∀ s ∈ [args booted [18 + 32 + 1024], args booted [0], args booted [1 + 32 + 1024]],
      stopped s = false ∧ s.rc.need = [] ∧ mbChecks s rowSetMemSplit (chanOf s mb.ch) (chanOf s mb.ch).args = none) ∧
    (MbStarts rowSetMemSplit mb (args booted [18 + 32 + 1024]) ∧ (mbCtx (args booted [18 + 32 + 1024]) mb).f 0 0 5 = 18 ∧
      (mbCtx (args booted [18 + 32 + 1024]) mb).f 0 5 5 = 1 ∧ (mbCtx (args booted [18 + 32 + 1024]) mb).f 0 10 5 = 1 ∧
      (mbCtx (args booted [0]) mb).f 0 0 5 = 0 ∧ (mbCtx (args booted [1 + 32 + 1024]) mb).f 0 0 5 = 1) ∧
    (MbStarts rowSetMemPolicy mb (args live [0, 168]) ∧ (args live [0, 168]).rc.need = [] ∧
      (mbCtx (args live [0, 168]) mb).f 1 0 8 = 168 ∧
      MbStarts rowSetMemPolicy mb (args live [0, 169]) ∧ (args live [0, 169]).rc.need = [] ∧
      168 < (mbCtx (args live [0, 169]) mb).f 1 0 8) ∧
    (MbStarts rowSetStripe mb (args live [1 + 2 * 512]) ∧ (mbCtx (args live [1 + 2 * 512]) mb).f 0 9 2 = 2 ∧
      (mbCtx (args live [1 + 2 * 512]) mb).f 0 0 9 = 1 ∧ stripeUsed (args live [1 + 2 * 512]) 1 = false ∧
      mwf (args live [1 + 2 * 512]).rc.lines = true ∧
      (flushExt (mbTake (args live [1 + 2 * 512]) mb 0x23) (1 * 0x30000000) 0x30000000).rc.need = []) ∧
    (MbStarts rowMemHealth mbm healthS ∧ (mbCtx healthS mbm).f 0 0 4 = 7 + 8 ∧ portUp healthS 7 = true ∧
      (mbCtx healthS mbm).p 1 = 0x1000 ∧ bufOutOk (mbTake healthS mbm 0x24) (mbCtx healthS mbm) 0x1000 56 = true ∧
      (bufOut (mbTake healthS mbm 0x24) (mbCtx healthS mbm) 0x1000 56 (mbTake healthS mbm 0x24)
        ((healthWords healthS 7).flatMap (fun x => toBytes 8 x.toNat))).rc.need = []) ∧
    (MbStarts rowMemHealth mbm stackS ∧ (mbCtx stackS mbm).f 0 0 4 = 5 ∧ (mbCtx stackS mbm).p 1 = 0x1000) := by
  unfold MbStarts; constructorm* _ ∧ _ <;> decide +kernel

/-- The report of any stack is short enough for the buffer of `witness_STACK_HEALTH`. -/
theorem witness_STACK_REPORT (l : List Nat) : (Config.stackReport l).length < 65536 := by
  simp [Config.stackReport]

/-- Every set and way of every slice, cleaned; and of slice 47 alone, dropped. -/
def maintAllS : State := args live [4, 63, 4095 * 2 ^ 16, 0xFFFF]
def maintOne : State := args live [5, 47, 0, 1]

theorem witness_CacheMaintenanceTakesEffect :
    (MbStarts rowCacheMaint mb maintS ∧ (mbCtx maintS mb).f 0 0 2 = 1 ∧ lCache maintS = false ∧
      bit ((mbCtx maintS mb).a 0) 2 = false ∧ (mbCtx maintS mb).f 1 0 48 = 0x1C0 ∧ (mbCtx maintS mb).f 2 0 33 = 1 ∧
      inTiers 0x1C0 (64 * 1) = true ∧ (mbCtx maintS mb).a 3 = 0 ∧ mwf maintS.rc.lines = true ∧ maintS.rc.mshr = [] ∧
      maintS.rc.need = []) ∧
    (MbStarts rowCacheMaint mb maintMax ∧ (mbCtx maintMax mb).f 0 0 2 = 0 ∧ lCache maintMax = false ∧
      bit ((mbCtx maintMax mb).a 0) 2 = false ∧ (mbCtx maintMax mb).f 1 0 48 = 0 ∧ (mbCtx maintMax mb).f 2 0 33 = 2 ^ 32 ∧
      inTiers 0 (64 * 2 ^ 32) = true ∧ (mbCtx maintMax mb).a 3 = 0 ∧ maintMax.rc.mshr = [] ∧ maintMax.rc.need = []) ∧
    (∀ s ∈ [maintAllS, maintOne], mbChecks s rowCacheMaint (chanOf s mb.ch) (chanOf s mb.ch).args = none ∧
      (mbCtx s mb).f 0 0 2 ≠ 3 ∧ lCache s = false ∧ bit ((mbCtx s mb).a 0) 2 = true ∧ ((mbCtx s mb).a 1).toNat < 64 ∧
      ((mbCtx s mb).f 1 0 6 < 48 ∨ (mbCtx s mb).f 1 0 6 = 63) ∧ (mbCtx s mb).f 2 0 12 ≤ (mbCtx s mb).f 2 16 12 ∧
      (((mbCtx s mb).a 2).toNat &&& ((2 ^ 64 - 1) ^^^ (mask 0 12 + mask 16 12))) = 0 ∧ mwf s.rc.lines = true ∧
      s.rc.mshr = [] ∧ s.rc.need = []) ∧
    (MbStarts rowCacheMaint mb maintAllS ∧ MbStarts rowCacheMaint mb maintOne) ∧
    (MbStarts rowCacheDisable mb live ∧ live.rc.need = [] ∧ lCache live = false) ∧
    (stopped walkS = false ∧ walkS.rc.cleaning = true ∧ walkS.mer.lruns = [.cacheDisable 0] ∧ (cleanAll walkS).rc.need = []) ∧
    (stopped live = false ∧ live.rc.cleaning = false ∧ MbStarts rowCacheEnable mb live ∧ MbStarts rowCacheEnable mb walkS ∧
      walkS.rc.need = []) := by
  unfold MbStarts; constructorm* _ ∧ _ <;> decide +kernel

def rngS : State := args live [4095, 1, 1, 3, 0x1F]
def rngBad : State := args live [0, 1, 0, 3, 0x1F]
def rngOld : State := { args live [0, 1, 1, 3, 0x1F] with xlt := { live.xlt with ranges := [(0, { range0 with wr := false })] } }
def ranged : State := { live with xlt := { live.xlt with ranges := [(0, range0)] } }
def rngLess : State := { args live [0, 1, 1, 3, 1] with xlt := ranged.xlt }
def rngInval : State := { args live [0, 1, 1, 3, 0x1F] with xlt := { live.xlt with ranges := [(0, { range0 with inval := true })] } }
def invS : State := { args live [1, 1] with xlt := ranged.xlt }
def invHeld : State := withCmd0 invS { cmd0 [] 1 with phase := .running }

theorem witness_RangeCommandsTakeEffect :
    (MbStarts rowSetRange mb rngS ∧ rngS.rc.need = [] ∧ (mbCtx rngS mb).f 0 0 12 = 4095 ∧ rngS.pwr.sl ≠ 0 ∧
      mget? rngS.xlt.ranges 4095 = none ∧
      lExtent rngS (rangeLo (rangeOfArgs (mbCtx rngS mb)))
        (rangeLo (rangeOfArgs (mbCtx rngS mb)) + (rangeOfArgs (mbCtx rngS mb)).length * 65536) = false ∧
      rangeRefuse rngS (mbCtx rngS mb) 4095 (rangeOfArgs (mbCtx rngS mb)) = none) ∧
    (MbStarts rowSetRange mb rngBad ∧ rngBad.rc.need = [] ∧ rngBad.pwr.sl ≠ 0 ∧ mget? rngBad.xlt.ranges 0 = none ∧
      lExtent rngBad (rangeLo (rangeOfArgs (mbCtx rngBad mb)))
        (rangeLo (rangeOfArgs (mbCtx rngBad mb)) + (rangeOfArgs (mbCtx rngBad mb)).length * 65536) = false ∧
      rangeRefuse rngBad (mbCtx rngBad mb) 0 (rangeOfArgs (mbCtx rngBad mb)) = some rcInvalid) ∧
    (MbStarts rowSetRange mb rngOld ∧ rngOld.rc.need = [] ∧ rngOld.pwr.sl ≠ 0 ∧
      mget? rngOld.xlt.ranges 0 = some { range0 with wr := false } ∧
      rangeReserved (mbCtx rngOld mb) = false ∧ rangeMayChange { range0 with wr := false } (rangeOfArgs (mbCtx rngOld mb)) = true) ∧
    (MbStarts rowSetRange mb rngLess ∧ rngLess.rc.need = [] ∧ rngLess.pwr.sl ≠ 0 ∧ mget? rngLess.xlt.ranges 0 = some range0 ∧
      rangeReserved (mbCtx rngLess mb) = false ∧ rangeMayChange range0 (rangeOfArgs (mbCtx rngLess mb)) = false) ∧
    (MbStarts rowSetRange mb rngInval ∧ rngInval.rc.need = [] ∧ rngInval.pwr.sl ≠ 0 ∧
      mget? rngInval.xlt.ranges 0 = some { range0 with inval := true }) ∧
    (MbStarts rowInvalidateRange mb invS ∧ invS.rc.need = [] ∧ (mbCtx invS mb).f 0 0 36 * 65536 = 65536 ∧
      (mbCtx invS mb).f 1 0 36 * 65536 = 65536 ∧ lExtent invS 65536 (65536 + 65536) = false ∧ rangesIn invS 65536 65536 = [0] ∧
      (anyPinned invS [0] && stampHolds (invalMark invS [0]) (invS.xlt.xgen + 1)) = false) ∧
    (MbStarts rowInvalidateRange mb (args live [1, 1]) ∧ (args live [1, 1]).rc.need = [] ∧
      lExtent (args live [1, 1]) 65536 (65536 + 65536) = false ∧ rangesIn (args live [1, 1]) 65536 65536 = []) ∧
    (MbStarts rowInvalidateRange mb invHeld ∧ invHeld.rc.need = [] ∧ lExtent invHeld 65536 (65536 + 65536) = false ∧
      rangesIn invHeld 65536 65536 = [0] ∧
      (anyPinned invHeld [0] && stampHolds (invalMark invHeld [0]) (invHeld.xlt.xgen + 1)) = true) := by
  unfold MbStarts; constructorm* _ ∧ _ <;> decide +kernel

/-- A local stream on queue 3 with its block list at 0x40, and one for a LOOKUP's output. -/
def sd0 : SDesc := { SDesc.reset with queue := 3, tile := 63, bl := 0x40, count := 1, credits := 1 }
def sd3 : SDesc := { SDesc.reset with kind := 3, tile := 47, credits := 1, semC := 1 }
def sdBytes (n : Nat) (d : SDesc) : List Byte :=
  toBytes 8 (n + d.kind * 2 ^ 8 + d.queue * 2 ^ 11 + d.tile * 2 ^ 17) ++ toBytes 8 d.bl ++ toBytes 8 (d.count + d.credits * 2 ^ 32) ++
    toBytes 8 (d.semP + d.semC * 2 ^ 16) ++ List.replicate 32 0
def armS (s : State) (d : SDesc) : State := poke (args s [0x1000]) 0x1000 (sdBytes 255 d)
def armB (s : State) (d : SDesc) : RdOut := bufRead (mbTake (armS s d) mbm 0x32) (mbCtx (armS s d) mbm) 0x1000 64
def strmIn (p : SState) : State := { live with str := { live.str with streams := [(255, { Strm.reset with d := sd0, st := p })] } }
def rearmed : State := { live with str := { live.str with streams := [(255, { Strm.reset with d := sd0, st := .idle, rearm := some sd0 })] } }

theorem witness_ARM_STREAM : ∀ s ∈ [live, strmIn .idle, strmIn .running, strmIn .waiting], ∀ d ∈ [sd0, sd3],
    mbChecks (armS s d) rowArmStream (chanOf (armS s d) mbm.ch) (chanOf (armS s d) mbm.ch).args = none ∧
    bufReadOk (mbTake (armS s d) mbm 0x32) (mbCtx (armS s d) mbm) 0x1000 64 = true ∧
    sdescOf (bufIn (mbTake (armS s d) mbm 0x32) (mbCtx (armS s d) mbm) 0x1000 64) = (255, d) ∧
    (rdState (armB s d)).rc.need = [] ∧ (strmOf (rdState (armB s d)) 255).rearm = none ∧ lStream (rdState (armB s d)) 255 = false ∧
    sdescZero (bufIn (mbTake (armS s d) mbm 0x32) (mbCtx (armS s d) mbm) 0x1000 64) = true ∧
    sdescOk (rdState (armB s d)) 255 d = true ∧ (strmOf (rdState (armB s d)) 255).st = (strmOf s 255).st ∧
    othersHeld (rdState (armB s d)) 255 + max (strmOf (rdState (armB s d)) 255).d.credits d.credits ≤ stagePool (rdState (armB s d)) := by
  decide +kernel

def strmArg (p : SState) : State := { strmIn p with chans := (args live [255]).chans }

theorem witness_StreamCommandsTakeEffect :
    MbStarts rowArmStream mbm (armS live sd0) ∧ MbStarts rowArmStream mbm (armS (strmIn .running) sd3) ∧
    (stopped rearmed = false ∧ rearmed.rc.need = [] ∧ (strmOf rearmed 255).rearm = some sd0 ∧ (strmOf rearmed 255).st = .idle ∧
      lStream rearmed 255 = false) ∧
    (stopped live = false ∧ live.rc.need = [] ∧ (strmOf live 255).rearm = none ∧ (strmOf (strmIn .running) 255).st ≠ .idle) ∧
    (∀ p ∈ [SState.disarmed, .idle, .running, .waiting, .faultParked, .faultSwitched],
      stopped (strmArg p) = false ∧ (strmArg p).rc.need = [] ∧ (mbCtx (strmArg p) mb).f 0 0 8 = 255 ∧
      lStream (strmArg p) 255 = false ∧ (strmOf (strmArg p) 255).st = p ∧
      mbChecks (strmArg p) rowDisarmStream (chanOf (strmArg p) mb.ch) (chanOf (strmArg p) mb.ch).args = none ∧
      (strmAbort (setStrm (mbTake (strmArg p) mb 0x33) 255 { strmOf (strmArg p) 255 with rearm := none }) 255 0x10).rc.need = []) ∧
    (MbStarts rowDisarmStream mb (strmArg .idle) ∧ MbStarts rowStreamQuery mb (strmArg .idle)) ∧
    (MbStarts rowSetStreamPolicy mb (args live [0x1FFFF]) ∧ (args live [0x1FFFF]).rc.need = [] ∧
      (mbCtx (args live [0x1FFFF]) mb).f 0 0 16 = 65535 ∧ MbStarts rowSetStreamPolicy mb (args live [0x10000]) ∧
      (args live [0x10000]).rc.need = [] ∧ (mbCtx (args live [0x10000]) mb).f 0 0 16 = 0) := by
  unfold MbStarts; constructorm* _ ∧ _ <;> decide +kernel

def fault0 : FaultEnt := {
  fid := 5, addr := 0x10000, acc := 0, lc := false, waiters := [63], stream := 255, queue := 3, nwait := 1, reqs := [.stream 255] }
def faulted (l : List W64) : State := { args live l with
  str := { live.str with
    faults := [fault0], streams := [(255, { Strm.reset with d := sd0, st := .waiting, bound := some 1 })] },
  orr := { live.orr with cmds := [{ cmd0 [] 0x80 with q := 3, phase := .running }] } }
def frS (n : W64) : State := args live [0x1000, n]

/-- A request of a dense engine waits for the fault: an atomic. -/
def cp0 : CpRequest := { id := 9, va := 0x10000, len := 8, op := 2, data := List.replicate 8 0, poison := false }
def faultedCp : State := { args live [5 + 65536] with str := { live.str with
  faults := [{ fault0 with waiters := [], stream := 0, queue := 0, reqs := [.cp cp0] }] } }

theorem witness_FaultCommandsTakeEffect :
    (MbStarts rowFaultRead mbm (frS 64) ∧ (mbCtx (frS 64) mbm).f 1 0 7 = 64 ∧ (mbCtx (frS 64) mbm).p 0 = 0x1000 ∧
      bufOutOk (mbTake (frS 64) mbm 0x36) (mbCtx (frS 64) mbm) 0x1000 (32 * 64) = true ∧
      (bufOut (mbTake (frS 64) mbm 0x36) (mbCtx (frS 64) mbm) 0x1000 (32 * 64) (mbTake (frS 64) mbm 0x36)
        (((frS 64).str.faults.take 64).flatMap faultBytes)).rc.need = []) ∧
    (MbStarts rowFaultRead mbm (frS 0) ∧ (frS 0).rc.need = [] ∧ (mbCtx (frS 0) mbm).f 1 0 7 = 0 ∧
      MbStarts rowFaultRead mbm (frS 65) ∧ (frS 65).rc.need = [] ∧ 64 < (mbCtx (frS 65) mbm).f 1 0 7) ∧
    (MbStarts rowFaultResolve mb (args live [5 + 2 * 65536]) ∧ (args live [5 + 2 * 65536]).rc.need = [] ∧
      (mbCtx (args live [5 + 2 * 65536]) mb).f 0 16 2 = 2) ∧
    (MbStarts rowFaultResolve mb (args live [5 + 65536]) ∧ (args live [5 + 65536]).rc.need = [] ∧
      (mbCtx (args live [5 + 65536]) mb).f 0 16 2 = 1 ∧
      (args live [5 + 65536]).str.faults.find? (fun f => f.fid == (mbCtx (args live [5 + 65536]) mb).f 0 0 16) = none) ∧
    (MbStarts rowFaultResolve mb (faulted [5]) ∧ (faulted [5]).rc.need = [] ∧ (mbCtx (faulted [5]) mb).f 0 16 2 = 0 ∧
      (faulted [5]).str.faults.find? (fun f => f.fid == (mbCtx (faulted [5]) mb).f 0 0 16) = some fault0 ∧
      (faultRelease (mbTake (faulted [5]) mb 0x37) fault0 false).rc.need = [] ∧
      (qOf (faulted [5]) (strmOf (faulted [5]) 255).d.queue).st ≠ .switched) ∧
    (MbStarts rowFaultResolve mb (faulted [5 + 65536]) ∧ (faulted [5 + 65536]).rc.need = [] ∧
      (mbCtx (faulted [5 + 65536]) mb).f 0 16 2 = 1 ∧
      (faulted [5 + 65536]).str.faults.find? (fun f => f.fid == (mbCtx (faulted [5 + 65536]) mb).f 0 0 16) = some fault0 ∧
      (strmOf (faulted [5 + 65536]) 255).bound = some 1 ∧ (cmdOf (faulted [5 + 65536]) 1).isSome = true ∧
      (cmdOf (faulted [5 + 65536]) 1).all (fun c => c.phase != .done && c.fail.isNone) = true) ∧
    (MbStarts rowFaultResolve mb faultedCp ∧ faultedCp.rc.need = [] ∧ (mbCtx faultedCp mb).f 0 16 2 = 1 ∧
      (faultedCp.str.faults.find? (fun f => f.fid == (mbCtx faultedCp mb).f 0 0 16)).map (fun f => f.reqs) = some [.cp cp0] ∧
      cp0.op ≠ 0) := by
  unfold MbStarts; constructorm* _ ∧ _ <;> decide +kernel
/-! ### Witnesses: the host and the memory controllers -/

/-- Both decoders committed: tier F at host address 0, tier S high above it. -/
def hdm0 : FMap Nat := [(0, 0), (1, 0x800000000000)]
def hostUpS : State := { live with hp := { live.hp with state := 0, hdm := hdm0 } }
def detached (l : List W64) : State := { args live l with hp := { live.hp with state := 2, hdm := hdm0 } }
def placeS (l : List W64) : State := args live l
def pathS (l : List W64) : State := args live l
def logS : State := { args live [0x1000, 1] with hp := { live.hp with log := [(3, List.replicate 32 7), (3, List.replicate 32 8)] } }
def cleaningS : State := { live with hp := { live.hp with state := 1 } }

theorem witness_HostCommandsTakeEffect :
    (MbStarts rowOpenAperture mbm live ∧ MbStarts rowOpenAperture mb live ∧ live.rc.need = [] ∧ live.pwr.sl = 3 ∧
      MbStarts rowOpenAperture mb booted ∧ booted.rc.need = [] ∧ booted.pwr.sl ≠ 3 ∧ MbStarts rowCloseAperture mb live) ∧
    (MbStarts rowSetPlaceRegion mb (placeS [63]) ∧ (placeS [63]).rc.need = [] ∧ bit ((mbCtx (placeS [63]) mb).a 0) 6 = false ∧
      (placeS [63]).pwr.sl ≠ 0) ∧
    (MbStarts rowSetPlaceRegion mb (placeS [63 + 64 + 128 + 512, 0x10, 1]) ∧ (placeS [63 + 64 + 128 + 512, 0x10, 1]).rc.need = [] ∧
      (placeS [63 + 64 + 128 + 512, 0x10, 1]).pwr.sl ≠ 0 ∧ (mbCtx (placeS [63 + 64 + 128 + 512, 0x10, 1]) mb).f 0 0 6 = 63 ∧
      (mbCtx (placeS [63 + 64 + 128 + 512, 0x10, 1]) mb).f 1 0 27 = 0x10 ∧
      (mbCtx (placeS [63 + 64 + 128 + 512, 0x10, 1]) mb).f 2 0 27 = 1 ∧
      bit ((mbCtx (placeS [63 + 64 + 128 + 512, 0x10, 1]) mb).a 0) 6 = true ∧ inTiers (0x10 * 0x200000) (1 * 0x200000) = true ∧
      (placeS [63 + 64 + 128 + 512, 0x10, 1]).hp.place = [] ∧
      protectedArea (placeS [63 + 64 + 128 + 512, 0x10, 1]) (0x10 * 0x200000) (1 * 0x200000) = false) ∧
    (MbStarts rowSetHostPath mb (pathS [15]) ∧ (pathS [15]).rc.need = [] ∧ (mbCtx (pathS [15]) mb).f 0 5 2 < 2 ∧
      bit ((mbCtx (pathS [15]) mb).a 0) 4 = false) ∧
    (MbStarts rowSetHostPath mb (pathS [15 + 16 + 32, 1, 1]) ∧ (pathS [15 + 16 + 32, 1, 1]).rc.need = [] ∧
      bit ((mbCtx (pathS [15 + 16 + 32, 1, 1]) mb).a 0) 4 = true ∧ (mbCtx (pathS [15 + 16 + 32, 1, 1]) mb).f 0 5 2 = 1 ∧
      (mbCtx (pathS [15 + 16 + 32, 1, 1]) mb).f 2 0 40 * 4096 = 4096 ∧
      (mbCtx (pathS [15 + 16 + 32, 1, 1]) mb).f 1 0 40 * 4096 + 4096 ≤ 2 ^ 52 ∧ (pathS [15 + 16 + 32, 1, 1]).hp.paths = []) ∧
    (MbStarts rowHostAttach mbm (detached []) ∧ (detached []).rc.need = [] ∧ (detached []).pwr.sl ≠ 0 ∧ (detached []).hp.state = 2 ∧
      hdmReady (detached []) = true ∧ MbStarts rowHostAttach mbm hostUpS ∧ hostUpS.rc.need = [] ∧ hostUpS.hp.state = 0 ∧
      MbStarts rowHostAttach mbm live ∧ live.hp.state = 2 ∧ hdmReady live = false ∧ MbStarts rowHostAttach mbm cleaningS ∧
      cleaningS.rc.need = [] ∧ cleaningS.hp.state = 1) ∧
    (MbStarts rowReadHostLog mbm logS ∧ (mbCtx logS mbm).f 1 0 17 = 1 ∧ (mbCtx logS mbm).p 0 = 0x1000 ∧
      bufOutOk (mbTake logS mbm 0x45) (mbCtx logS mbm) 0x1000 (32 * 1) = true ∧
      (bufOut (mbTake logS mbm 0x45) (mbCtx logS mbm) 0x1000 (32 * 1) (mbTake logS mbm 0x45)
        ((logS.hp.log.take 1).flatMap (fun e => e.2))).rc.need = []) := by
  unfold MbStarts; constructorm* _ ∧ _ <;> decide +kernel

def accW : HostAccess :=
  { form := .plain, off := 0x2000000, len := 4, write := true, data := [1, 2, 3, 4], poison := false, requester := 9 }
def accR : HostAccess := { accW with write := false, data := [] }
/-- At an address of no tier, and at one of another chip. -/
def accOut : HostAccess := { accW with off := 0x7000000000 }
def accFar : HostAccess := { accW with off := 0x200000000000 }
def winS : State := { live with hp := { live.hp with win := 0x20000000#64 } }
def placed : State := { live with hp := { live.hp with
  placeEn := true, place := [(0, { base := 0x10, len := 1, rd := true, wr := true, requester := 9 })] } }
def opened : State := { live with hp := { live.hp with aper := true }, tr := { live.tr with
  slots := [(0, { v := true, dchip := 7, rwin := 1 })] } }

theorem witness_HostAccessesTakeEffect :
    (stopped live = false ∧ live.rc.need = [] ∧ ({ accW with form := .atomic } : HostAccess).form ≠ .plain ∧
      ({ accW with form := .translated } : HostAccess).form ≠ .plain) ∧
    (live.pwr.park = .running ∧ live.pwr.restart ≠ .running ∧ accW.form = .plain ∧ mustWait live (.window accW) = false ∧
      mustWait live (.window accR) = false ∧ winEn live.hp.win = false) ∧
    (stopped winS = false ∧ winS.pwr.park = .running ∧ winS.pwr.restart ≠ .running ∧ mustWait winS (.window accW) = false ∧
      mustWait winS (.window accR) = false ∧ winEn winS.hp.win = true ∧
      (writeExt winS (winBase winS.hp.win + accW.off) accW.data (winHint winS.hp.win) accW.poison).rc.need = [] ∧
      (readExt winS (winBase winS.hp.win + accR.off) accR.len (winHint winS.hp.win)).1.rc.need = []) ∧
    (∀ s ∈ [opened, placed], ∀ a ∈ [accW, accR], stopped s = false ∧ s.pwr.park = .running ∧ s.pwr.restart ≠ .running ∧
      mustWait s (.port (bar4Dst s a) a) = false ∧
      ((s.hp.aper = true ∧ inTiers a.off a.len = true) ∨ (s.hp.aper = false ∧ placeOk s a = true)) ∧
      (writeExt s a.off a.data 0 a.poison).rc.need = [] ∧ (readExt s a.off a.len 0).1.rc.need = []) ∧
    (mustWait opened (.port (bar4Dst opened accFar) accFar) = false ∧ inTiers accFar.off accFar.len = false ∧
      inRemote accFar.off accFar.len = true ∧ (bar4Remote opened accFar).rc.need = []) ∧
    (mustWait opened (.port (bar4Dst opened accOut) accOut) = false ∧ inTiers accOut.off accOut.len = false ∧
      inRemote accOut.off accOut.len = false ∧ opened.rc.need = []) ∧
    (mustWait live (.port (bar4Dst live accR) accR) = false ∧ live.hp.aper = false ∧ placeOk live accR = false) ∧
    (hdmPa live 0x1FF = none) ∧
    (stopped hostUpS = false ∧ hostUpS.pwr.park = .running ∧ hostUpS.pwr.restart ≠ .running ∧ hdmPa hostUpS 0x1FF = some 0x1FF ∧
      hdmPa hostUpS 0x800000000040 = some 0x100000000040 ∧ filterVictim hostUpS (0x1FF / 64) = none ∧
      (∀ y ∈ (readLine hostUpS (0x1FF / 64) 0).1.rc.need, y = 0x1FF / 64)) ∧
    (stopped (cachedIn hostUpS true) = false ∧ (cachedIn hostUpS true).pwr.park = .running ∧
      (cachedIn hostUpS true).pwr.restart ≠ .running ∧ hdmPa (cachedIn hostUpS true) 0x1FF = some 0x1FF ∧
      filterVictim (cachedIn hostUpS true) (0x1FF / 64) = none ∧
      (dReadSecs (cleanLine (cachedIn hostUpS true) (0x1FF / 64)) (0x1FF / 64 * 64) 2).1.rc.need = []) ∧
    (mustWait hostUpS (.memWrite 0x5FFFFFFFFF [7] false hostUpS.hp.aper) = false ∧ hdmPa hostUpS 0x5FFFFFFFFF = some 0x5FFFFFFFFF ∧
      protectedArea hostUpS (0x5FFFFFFFFF / 64 * 64) 64 = true ∧ hostUpS.hp.aper = false ∧ hostUpS.rc.need = []) ∧
    (mustWait hostUpS (.memWrite 0x1FF [7] false hostUpS.hp.aper) = false ∧ protectedArea hostUpS (0x1FF / 64 * 64) 64 = false ∧
      (∀ y ∈ (writeLine hostUpS 0x1FF ([7].take (64 - 0x1FF % 64)) 0 false).rc.need, y = 0x1FF / 64)) := by
  constructorm* _ ∧ _ <;> decide +kernel

def hline : HLine := { addr := 5, st := .modified, poison := false, data := List.replicate 64 3, cids := [] }
def hcS : State := { hostUpS with hp := { hostUpS.hp with lines := [(hcSet 5 * 16, hline)] } }
def hread : HostRead := { id := 4, addr := 0x40, len := 8, what := .buf (.chan 0) }
def readOut : State := { hostUpS with hp := { hostUpS.hp with reads := [hread] } }
def reply4 : HostReply := { id := 4, data := List.replicate 8 1, poison := false }
def readUp : State := { readOut with hp := { readOut.hp with reads := readOut.hp.reads.filter (fun y => y.id != reply4.id) } }
def recovS : State := { readOut with hp := { readOut.hp with recov := true } }

theorem witness_HostLinkEventsTakeEffect :
    (stopped hostUpS = false ∧ hostUpS.pwr.park = .running ∧ hcFind hostUpS (0x140 / 64) = none ∧
      hcFind hcS (0x140 / 64) = some (hcSet 5 * 16, hline) ∧ stopped hcS = false ∧ hcS.pwr.park = .running ∧
      frozenS.err.frozen = true) ∧
    (stopped readOut = false ∧ readOut.rc.need = [] ∧ readOut.hp.recov = false ∧
      (readOut.hp.reads.take 512).find? (fun r => r.id == reply4.id) = some hread ∧ readOut.str.cpWait = [] ∧
      (cpResume (readArrive readUp hread reply4.data reply4.poison)).rc.need = []) ∧
    (stopped hostUpS = false ∧ hostUpS.rc.need = [] ∧ (hostUpS.hp.reads.take 512).find? (fun r => r.id == reply4.id) = none ∧
      stopped recovS = false ∧ recovS.rc.need = [] ∧ recovS.hp.recov = true) ∧
    (hostUpS.hp.state = 0 ∧ hostUpS.str.cpWait = [] ∧ (∀ c ∈ hostUpS.orr.cmds, c.usesHost = false) ∧
      (pathLoss hostUpS).rc.need = []) ∧
    (stopped live = false ∧ live.rc.need = [] ∧ live.hp.state ≠ 0 ∧ live.hp.state ≠ 1 ∧ cleaningS.hp.state = 1 ∧
      stopped cleaningS = false ∧ cleaningS.rc.need = []) := by
  constructorm* _ ∧ _ <;> decide +kernel

def lineW : LineAccess := { addr := 0x1FF, write := true, hint := 0, data := [9], poison := false, host := false }
def lineR : LineAccess := { lineW with write := false, data := [] }
/-- The line misses and waits for its fill; one of its sectors may be back. -/
def missS (l : List Nat) : State := { live with rc := { live.rc with mshr := [{ x := 7, acc := lineR }], mret := l } }
def biS : State := { live with rc := { live.rc with biSent := [7], snoop := [(7, true)] } }
def biShared : State := { live with rc := { live.rc with biSent := [7], snoop := [(7, false)] } }
/-- A back-invalidate of a line of the protected areas. -/
def biProt : State := { live with rc := { live.rc with biSent := [0x5FFFFFFFC0 / 64], snoop := [(0x5FFFFFFFC0 / 64, true)] } }
def biAfter : State := { biS with rc := { biS.rc with
  biSent := biS.rc.biSent.filter (fun y => y != 7), snoop := biS.rc.snoop.filter (fun e => e.1 != 7),
  biWait := biS.rc.biWait.filter (fun w => w.x != 7) } }
def candS (n : Nat) : State := { live with mc := { live.mc with
  cands := [(383, 0, 1)], patrol := true,
  stk := (List.range 6).map (fun k => (k, { Stack.reset with inService := true, soft := [(resKey (383, 0, 1), n)] })) } }
def dramU (s : State) : State := (dReadSecs (dramOutcome s 0x1FF .clean) (0x1FF / 32 * 32) 1).1
def dramV (s : State) : State := { dramU s with rc := { (dramU s).rc with mret := (dramU s).rc.mret ++ [0x1FF / 32] } }

theorem witness_MemoryEventsTakeEffect :
    (∀ s ∈ [live, cachedIn live false, cachedIn live true, missS []], ∀ a ∈ [lineW, lineR],
      stopped s = false ∧ inTiers (a.addr / 64 * 64) 64 = true ∧ a.host = false ∧ snooped s a = false ∧
      (∀ w ∈ s.rc.biWait, w.x ≠ a.addr / 64) ∧ memAwake s (a.addr / 64 * 64) = true ∧
      sliceFull s (homeSlice s (a.addr / 64)) = false ∧ passThrough s (a.addr / 64) = false ∧ s.rc.need = []) ∧
    ((sliceErr live lineR .none).rc.need = [] ∧ (sliceErr (cachedIn live true) lineR (.tagLost 0)).rc.need = []) ∧
    (missOpen live (lineW.addr / 64) = false ∧ (writeLine live lineW.addr lineW.data lineW.hint lineW.poison).rc.need = []) ∧
    (missOpen (cachedIn live true) 7 = false ∧
      findWay (cachedIn live true) (homeSlice (cachedIn live true) 7) (lineSet (cachedIn live true) 7) 7 = some 0 ∧
      (readLine (cachedIn live true) 7 lineR.hint).1.rc.need = []) ∧
    (findWay live (homeSlice live 7) (lineSet live 7) 7 = none ∧ memUp live (7 * 64) = true) ∧
    (missOpen (missS []) 7 = true) ∧
    ((mget? (cachedIn live false).rc.lines (wayKey (homeSlice (cachedIn live false) 7) (lineSet (cachedIn live false) 7) 0)).map
        (fun l => l.dirty) = some false ∧
      findWay (cachedIn live false) (homeSlice (cachedIn live false) 7) (lineSet (cachedIn live false) 7) 7 = some 0) ∧
    (stopped biS = false ∧ biS.rc.biSent.contains 7 = true ∧ (∀ w ∈ biS.rc.biWait, w.x ≠ 7) ∧ biS.rc.need = [] ∧
      (7, true) ∈ biS.rc.snoop ∧ biS.hp.aper = false ∧ protectedArea biS (7 * 64) 64 = false ∧
      (writeLine biAfter (7 * 64) (bytesAt (List.replicate 64 1) 0 64) 0 false).rc.need = []) ∧
    (stopped biShared = false ∧ biShared.rc.need = [] ∧ biShared.rc.biSent.contains 7 = true ∧
      (∀ w ∈ biShared.rc.biWait, w.x ≠ 7) ∧ (∀ e ∈ biShared.rc.snoop, e.1 = 7 → e.2 = false) ∧ biShared.rc.biSent.contains 8 = false) ∧
    (stopped biProt = false ∧ biProt.rc.need = [] ∧ biProt.rc.biSent.contains (0x5FFFFFFFC0 / 64) = true ∧
      (∀ w ∈ biProt.rc.biWait, w.x ≠ 0x5FFFFFFFC0 / 64) ∧ (0x5FFFFFFFC0 / 64, true) ∈ biProt.rc.snoop ∧ biProt.hp.aper = false ∧
      protectedArea biProt (0x5FFFFFFFC0 / 64 * 64) 64 = true) ∧
    (∀ l ∈ [[], [14], [15]], stopped (missS l) = false ∧ (missS l).rc.need = [] ∧ inTierF 0x1FF 1 = true ∧
      stackUp (missS l) 0x1FF = true ∧ (missS l).mc.selfRef = false ∧ missOpen (missS l) (0x1FF / 64) = true) ∧
    (missOpen live (0x1FF / 64) = false ∧ stackUp live 0x5FFFFFFFFF = true ∧ live.mc.selfRef = false) ∧
    ((missS [15]).rc.mret.contains (0x1FF / 32) = true ∧ (missS [14]).rc.mret.contains (0x1FF / 32) = false ∧
      missBack (dramV (missS [])) (0x1FF / 64) = false ∧ missBack (dramV (missS [14])) (0x1FF / 64) = true ∧
      (takeFill (dramV (missS [14])) (0x1FF / 64)).rc.need = []) ∧
    (((383 : Nat), (0 : Nat), (1 : Nat)) = (64 * (5 : Fin 6).val + (63 : Fin 64).val, (0 : BitVec 6).toNat, (1 : BitVec 20).toNat) ∧
      (candS 1).mc.cands.contains (383, 0, 1) = true ∧ softFree (candS 1) (383, 0, 1) = true ∧ softFree (candS 0) (383, 0, 1) = false ∧
      (candS 0).mc.cands.contains (383, 0, 1) = true ∧ live.mc.cands.contains (383, 0, 1) = false ∧ stopped (candS 1) = false ∧
      stopped (candS 0) = false ∧ (candS 1).rc.need = [] ∧ (candS 0).rc.need = []) ∧
    ((candS 0).mc.patrol = true ∧ (stackOf (candS 0) 5).inService = true ∧ dramLive (candS 0) = true) := by
  constructorm* _ ∧ _ <;> decide +kernel
/-! ### Witnesses: transit -/

def shares4 : W64 := BitVec.ofNat 64 ((List.range 8).foldl (fun a i => a + 16 * 2 ^ (7 * i)) 0)
def shares6 : W64 := BitVec.ofNat 64 ((List.range 6).foldl (fun a i => a + 16 * 2 ^ (7 * i)) 0)
def polS : State := args live [0x111111, shares4, shares6]
def polBad : State := args live [0x011111, shares4, shares6]
/-- A share of 3 KiB, and shares of more than 224 KiB. -/
def polLow : State := args live [0x111111, shares4 - 13, shares6]
def polSum : State := args live [0x111111, shares4 + 1, shares6]
def rwS (v : W64) : State := args live [255, v, 1 * 2 ^ 27]

/-- The windows below stay below the fixed areas. -/
def rwProt : State := args live [255, 1, 0x5FE0000000 / 0x200000 + 1 * 2 ^ 27]
def rwEarly : State := args booted [255, 1, 1 * 2 ^ 27]
def rwNoTier : State := args live [255, 1, 0x7000000000 / 0x200000 + 1 * 2 ^ 27]

theorem witness_TransitCommandsTakeEffect :
    (MbStarts rowSetFabricId mb (args booted [0xFFE]) ∧ (args booted [0xFFE]).rc.need = [] ∧
      (mbCtx (args booted [0xFFE]) mb).f 0 0 12 = 0xFFE ∧
      MbStarts rowSetFabricId mb (args booted [0xFFF]) ∧ (args booted [0xFFF]).rc.need = [] ∧
      (mbCtx (args booted [0xFFF]) mb).f 0 0 12 = 0xFFF) ∧
    (MbStarts rowSetRoute mb (args live [5 + 4 * 4096, 47]) ∧ (args live [5 + 4 * 4096, 47]).rc.need = [] ∧
      (mbCtx (args live [5 + 4 * 4096, 47]) mb).f 0 12 3 = 4 ∧ (mbCtx (args live [5 + 4 * 4096, 47]) mb).f 1 0 6 = 47 ∧
      (mbCtx (args live [5 + 4 * 4096, 47]) mb).f 1 6 6 = 0 ∧ (mbCtx (args live [5 + 4 * 4096, 47]) mb).f 1 12 6 = 0 ∧
      (mbCtx (args live [5 + 4 * 4096, 47]) mb).f 1 18 6 = 0) ∧
    (MbStarts rowSetRoute mb (args live [5 + 5 * 4096]) ∧ (args live [5 + 5 * 4096]).rc.need = [] ∧
      (mbCtx (args live [5 + 5 * 4096]) mb).f 0 12 3 = 5 ∧ MbStarts rowSetRoute mb (args live [5 + 4096, 48]) ∧
      (args live [5 + 4096, 48]).rc.need = [] ∧ (mbCtx (args live [5 + 4096, 48]) mb).f 0 12 3 = 1 ∧
      (mbCtx (args live [5 + 4096, 48]) mb).f 1 0 6 = 48) ∧
    (MbStarts rowSetTransitPolicy mb polS ∧ polS.rc.need = [] ∧
      (∀ w ∈ (List.range 6).map (fun i => (mbCtx polS mb).f 0 (4 * i) 4), w ≠ 0) ∧
      (∀ x ∈ (List.range 8).map (fun i => (mbCtx polS mb).f 1 (7 * i) 7) ++ (List.range 6).map (fun i => (mbCtx polS mb).f 2 (7 * i) 7),
        4 ≤ x ∧ x ≤ 64) ∧
      ((List.range 8).map (fun i => (mbCtx polS mb).f 1 (7 * i) 7) ++ (List.range 6).map (fun i => (mbCtx polS mb).f 2 (7 * i) 7)).sum = 224 ∧
      MbStarts rowSetTransitPolicy mb polBad ∧ polBad.rc.need = [] ∧ 0 ∈ (List.range 6).map (fun i => (mbCtx polBad mb).f 0 (4 * i) 4)) ∧
    (MbStarts rowSetTransitPolicy mb polLow ∧ polLow.rc.need = [] ∧ (mbCtx polLow mb).f 1 0 7 = 3 ∧
      MbStarts rowSetTransitPolicy mb polSum ∧ polSum.rc.need = [] ∧
      224 < ((List.range 8).map (fun i => (mbCtx polSum mb).f 1 (7 * i) 7) ++ (List.range 6).map (fun i => (mbCtx polSum mb).f 2 (7 * i) 7)).sum) ∧
    (MbStarts rowSetRemoteSlot mb (args live [255, 1]) ∧ (args live [255, 1]).rc.need = []) ∧
    (MbStarts rowSetRemoteWindow mb (rwS 0) ∧ (rwS 0).rc.need = [] ∧ bit ((mbCtx (rwS 0) mb).a 1) 0 = false ∧ (rwS 0).pwr.sl ≠ 0) ∧
    (MbStarts rowSetRemoteWindow mb (rwS 1) ∧ (rwS 1).rc.need = [] ∧ (rwS 1).pwr.sl ≠ 0 ∧ bit ((mbCtx (rwS 1) mb).a 1) 0 = true ∧
      (mbCtx (rwS 1) mb).f 2 27 16 = 1 ∧ inTiers ((mbCtx (rwS 1) mb).f 2 0 27 * 0x200000) (1 * 0x200000) = true ∧
      protectedArea (rwS 1) ((mbCtx (rwS 1) mb).f 2 0 27 * 0x200000) (1 * 0x200000) = false) ∧
    (MbStarts rowSetRemoteWindow mb (args live [255, 1, 0]) ∧ (args live [255, 1, 0]).rc.need = [] ∧
      (args live [255, 1, 0]).pwr.sl ≠ 0 ∧ bit ((mbCtx (args live [255, 1, 0]) mb).a 1) 0 = true ∧
      (mbCtx (args live [255, 1, 0]) mb).f 2 27 16 = 0) ∧
    (MbStarts rowSetRemoteWindow mb rwNoTier ∧ rwNoTier.rc.need = [] ∧ rwNoTier.pwr.sl ≠ 0 ∧
      bit ((mbCtx rwNoTier mb).a 1) 0 = true ∧ (mbCtx rwNoTier mb).f 2 27 16 = 1 ∧
      inTiers ((mbCtx rwNoTier mb).f 2 0 27 * 0x200000) (1 * 0x200000) = false) ∧
    (MbStarts rowSetRemoteWindow mb rwProt ∧ rwProt.rc.need = [] ∧ rwProt.pwr.sl ≠ 0 ∧ bit ((mbCtx rwProt mb).a 1) 0 = true ∧
      (mbCtx rwProt mb).f 2 27 16 = 1 ∧ inTiers ((mbCtx rwProt mb).f 2 0 27 * 0x200000) (1 * 0x200000) = true ∧
      protectedArea rwProt ((mbCtx rwProt mb).f 2 0 27 * 0x200000) (1 * 0x200000) = true) ∧
    (MbStarts rowSetRemoteWindow mb rwEarly ∧ rwEarly.rc.need = [] ∧ rwEarly.pwr.sl = 0 ∧ rwEarly.mer.layout = none) := by
  unfold MbStarts; constructorm* _ ∧ _ <;> decide +kernel

def linkUp : State := { live with tr := { live.tr with links := [(47, { Link.reset with up := true, width := 8 })] } }
def flit0 : TFlit := { seq := 0, ackseq := 4095, nak := false, idle := false, cred := [(2, 0, 4)], fec := 2, msgs := [] }
def linkParked : State := { linkUp with pwr := { linkUp.pwr with park := .parked } }
def linkFrozen : State := { linkUp with err := { Err.reset with frozen := true } }
def rreq : TMsg := {
  cls := 2, leg := 0, dst := 9, src := 0xFFF, mtype := 0, len := 1, tag := 6, arg := 63 * 2 ^ 44, payload := [], poison := [] }
/-- A message that wakes a parked block, one for a chip without a route, and one of the control class. -/
def flitOf (f : TMsg) (b : Bool) : TFlit := { flit0 with msgs := [f], nak := b }
def waiting6 (x : RemoteFor) : State := { live with tr := { live.tr with out := [rreq], wait := [(6, x)] } }

theorem witness_TransitLinkEventsTakeEffect :
    (stopped linkUp = false ∧ linkUp.rc.need = [] ∧ (linkOf linkUp 47).up = true ∧ linkUp.tr.lost = [] ∧
      (linkOf linkUp 47).sendq = [] ∧ linkUp.pwr.park = .running ∧ (∀ m ∈ flit0.msgs, m.dst = linkUp.mer.fabric)) ∧
    (stopped linkParked = false ∧ linkParked.rc.need = [] ∧ linkParked.pwr.park = .parked ∧ (linkOf linkParked 47).up = true ∧
      linkParked.tr.lost = [] ∧ (linkOf linkParked 47).sendq = [] ∧
      (∀ m ∈ (flitOf { rreq with dst := 0xFFF } true).msgs, m.dst = linkParked.mer.fabric) ∧
      (∃ m ∈ (flitOf { rreq with dst := 0xFFF } true).msgs, m.cls ≠ 6) ∧ (flitOf rreq true).idle = false ∧
      (flitOf rreq true).seq = ((linkOf linkParked 47).rcvd + 1) % 4096) ∧
    (rreq.dst ≠ linkUp.mer.fabric ∧ mget? linkUp.tr.routes rreq.dst.toNat = none ∧ (flitOf rreq false).nak = false ∧
      (flitOf rreq false).idle = false ∧ (flitOf rreq false).seq = ((linkOf linkUp 47).rcvd + 1) % 4096 ∧
      ({ flit0 with idle := true } : TFlit).idle = true) ∧
    ((linkOf linkUp 46).up = false ∧ (linkOf linkUp 47).replay = [] ∧
      ∀ e ∈ linkUp.tr.routes, (47 : Fin 48).val ∉ e.2.links.take e.2.nlink) ∧
    (linkFrozen.err.frozen = true ∧ linkFrozen.pwr.pllLock = true ∧ linkFrozen.pwr.pllLost = false) ∧
    (∀ f ∈ [{ rreq with cls := 7 }, { rreq with cls := 0, mtype := 3 }, { rreq with cls := 1, mtype := 1 },
        { rreq with mtype := 2 }, { rreq with cls := 4, mtype := 3 }, { rreq with cls := 3, mtype := 7 },
        { rreq with cls := 5, mtype := 11 }, { rreq with cls := 6, mtype := 11 }],
      reservedMsg f = true) ∧
    (reservedMsg rreq = false ∧ reservedMsg { rreq with cls := 6, mtype := 10 } = false ∧
      reservedMsg { rreq with cls := 3, mtype := 8 } = false) ∧
    (stopped (waiting6 (.buf (.chan 0) 0x40)) = false ∧ (waiting6 (.buf (.chan 0) 0x40)).rc.need = [] ∧
      (waiting6 (.buf (.chan 0) 0x40)).tr.lost = [] ∧ rreq.tag = 6 ∧
      (waiting6 (.buf (.chan 0) 0x40)).tr.out.find? (fun f => f.tag == 6 && f.dst == 9 && (f.cls == 2 || f.cls == 4)) = some rreq ∧
      waitFor (waiting6 (.buf (.chan 0) 0x40)) 6 = some (.buf (.chan 0) 0x40) ∧ (waiting6 (.buf (.chan 0) 0x40)).str.cpWait = []) ∧
    (waitFor (waiting6 (.write (.chan 0))) 6 = some (.write (.chan 0)) ∧ stopped (waiting6 (.write (.chan 0))) = false) ∧
    (live.orr.cmds = [] ∧ live.tr.out = [] ∧ live.tr.lost = [] ∧ live.tr.unreachable.contains (9 : BitVec 12).toNat = false ∧
      ({ live.tr with unreachable := [9] } : Transit).unreachable.contains (9 : BitVec 12).toNat = true) := by
  constructorm* _ ∧ _ <;> decide +kernel

def rwin0 : RWindow := { v := true, rd := true, wr := true, at' := true, hint := 0, src := 0xFFF, lbase := 1, len := 1 }
def remS : State := { live with tr := { live.tr with windows := [(0, rwin0)] } }
def inReq : TMsg := {
  cls := 2, leg := 0, dst := 0xFFF, src := 9, mtype := 0, len := 1, tag := 6, arg := 63 * 2 ^ 44 + (0x200000 - 64) * 2 ^ 8, payload := [], poison := [] }
def inWr : TMsg := { inReq with
  cls := 4, mtype := 1, payload := List.replicate 4 0xFF ++ List.replicate 4 0xFF ++ List.replicate 64 1, poison := [false, false] }
def inAt : TMsg := { inReq with cls := 4, mtype := 2, arg := 3 * 2 ^ 44 + 2 ^ 52, payload := [1, 0, 0, 0] }

/-- A queue's command waits for what another chip does. -/
def cmdWaits (x : RemoteFor) : State := withCmd0 (waiting6 x) (cmd0 [] 1)

theorem witness_RemoteAccessesTakeEffect :
    (mget? remS.tr.windows (fld inReq.arg 0 8) = some rwin0) ∧
    (stopped remS = false ∧ remS.pwr.park = .running ∧ remS.pwr.restart ≠ .running ∧ remS.rc.need = [] ∧
      windowOk remS inReq 0 = some rwin0 ∧ mustWait remS (.remote inReq (some rwin0)) = false ∧
      rwin0.lbase * 0x200000 + fld inReq.arg 8 36 = 0x3FFFC0 ∧ fld inReq.arg 44 8 + 1 = 64 ∧
      (readTier remS { host := false, pa := 0x3FFFC0, len := 64, hint := rwin0.hint, va := 0, ent := 0 }).1.rc.need = []) ∧
    (windowOk remS inWr 1 = some rwin0 ∧ mustWait remS (.remote inWr (some rwin0)) = false ∧
      rwin0.lbase * 0x200000 + fld inWr.arg 8 36 = 0x3FFFC0 ∧ fld inWr.arg 44 8 + 1 = 64 ∧
      (writeRuns rwin0.hint ((remoteBytes 0x3FFFC0 64 inWr).length + 1) remS 0x3FFFC0 (remoteBytes 0x3FFFC0 64 inWr)).rc.need = []) ∧
    (inAt.cls = 4 ∧ fld inAt.arg 52 2 < 2 ∧ windowOk remS inAt 2 = some rwin0 ∧ mustWait remS (.remote inAt (some rwin0)) = false ∧
      (atomicTier remS (rwin0.lbase * 0x200000 + fld inAt.arg 8 36) (fld inAt.arg 52 2 == 1) inAt.payload rwin0.hint).1.rc.need = []) ∧
    (stopped live = false ∧ live.rc.need = [] ∧ live.pwr.park = .running ∧ live.pwr.restart ≠ .running ∧
      windowOk live inReq 0 = none ∧ mustWait live (.remote inReq none) = false ∧ windowOk live inWr 1 = none ∧
      mustWait live (.remote inWr none) = false ∧ windowOk live inAt 2 = none ∧ mustWait live (.remote inAt none) = false ∧
      windowOk remS { inReq with arg := inReq.arg + 2 ^ 8 } 0 = none ∧ inReq.cls ≠ 4 ∧
      mustWait live (.remote inReq (windowOk live inReq 2)) = false ∧ 2 ≤ fld ({ inAt with arg := 2 ^ 53 } : TMsg).arg 52 2 ∧
      mustWait live (.remote { inAt with arg := 2 ^ 53 } (windowOk live { inAt with arg := 2 ^ 53 } 2)) = false) ∧
    (waitFor (waiting6 (.buf (.chan 0) 0x40)) inReq.tag = some (.buf (.chan 0) 0x40) ∧
      (waiting6 (.buf (.chan 0) 0x40)).str.cpWait = [] ∧
      waitFor (waiting6 (.write (.chan 0))) inReq.tag = some (.write (.chan 0)) ∧ waitFor live inReq.tag = none) ∧
    (∀ x ∈ [RemoteFor.write (.cmd 1), .buf (.cmd 1) 0x40], waitFor (cmdWaits x) inReq.tag = some x ∧
      cmdOf (cmdWaits x) 1 = some (cmd0 [] 1) ∧ (cmd0 [] 1).own = .queue ∧ (cmd0 [] 1).phase = .fetched ∧ (cmd0 [] 1).fail = none ∧
      stopped (cmdWaits x) = false ∧ (cmdWaits x).rc.need = []) := by
  constructorm* _ ∧ _ <;> decide +kernel
/-! ### Witnesses: queues and plans -/

def qcfgS : State := { args queueRun [63, 0x10000, 0x11000, 0x12000, 6 + 6 * 32 + 16 * 4096, 0, 64 * 65536] with orr := live.orr }
def qcfgBusy : State := { qcfgS with orr := { live.orr with cmds := [{ cmd0 [] 1 with q := 63 }] } }
def taskS : State := args live [63 + 64, 5]
def migBytes : List Byte := toBytes 1 1 ++ toBytes 1 218 ++ toBytes 1 48 ++ toBytes 1 64 ++ toBytes 4 64 ++
  [8, 4, 16384, 1024, 128, 4096, 16384, 100, 8192, 8192].flatMap (fun x => toBytes 2 x) ++ toBytes 3 65536 ++ toBytes 1 0 ++
  toBytes 4 1000000 ++ List.replicate 12 0
def migS (d : W64) : State := poke (args live [d, 0x1000]) 0x1000 migBytes
def migR (d : W64) : State := rdState (bufRead (mbTake (migS d) mbm 0x70) (mbCtx (migS d) mbm) 0x1000 48)
def migB (d : W64) : List Byte := bufIn (mbTake (migS d) mbm 0x70) (mbCtx (migS d) mbm) 0x1000 48

theorem witness_QUEUE_ABORT : ∃ u rets, bodyQueueAbort (mbTake (args live [63]) mb 0x61) (mbCtx (args live [63]) mb) = .done u rcOk rets ∧
    u.rc.need = [] := ⟨_, _, rfl, by decide +kernel⟩

/-- A QUEUE_ABORT of queue 63 is still running; a record out of range; a word outside every range entry. -/
def qAborting (l : List W64) : State := { args queueRun l with pwr := { queueRun.pwr with
  held := [.mailbox 5 0x61 false (63 :: List.replicate 7 0) .begun] } }
def qcfgAbort : State := { qAborting [63, 0x10000, 0x11000, 0x12000, 6 + 6 * 32 + 16 * 4096, 0, 64 * 65536] with orr := live.orr }
def qcfgBad : State := { args queueRun [63, 0x10001] with orr := live.orr }
def qcfgOut : State := { args queueRun [63, 0x10000, 0x11000, 0x40000, 6 + 6 * 32 + 16 * 4096, 0, 64 * 65536] with orr := live.orr }
/-- HOT equal to COLD. -/
def migLow : State := poke (args live [0x1FFF, 0x1000]) 0x1000
  (toBytes 4 (1 + 218 * 256 + 48 * 65536 + 64 * 2 ^ 24) ++ toBytes 4 64 ++ List.replicate 40 0)
def migLowB : List Byte := bufIn (mbTake migLow mbm 0x70) (mbCtx migLow mbm) 0x1000 48

theorem witness_QueueConfigurationsTakeEffect :
    (MbStarts rowQueueConfig mb qcfgS ∧ qcfgS.rc.need = [] ∧ (mbCtx qcfgS mb).f 0 0 6 = 63 ∧
      queueOk (queueRecord (mbCtx qcfgS mb) false) = true ∧
      (oneEntry qcfgS 0 0x10000 (2 ^ 6 * 64)).isSome = true ∧ (oneEntry qcfgS 1 0x11000 (2 ^ 6 * 32)).isSome = true ∧
      (oneEntry qcfgS 1 0x12000 8).isSome = true ∧ (queueRecord (mbCtx qcfgS mb) false).ring = 0x10000 ∧
      (queueRecord (mbCtx qcfgS mb) false).cring = 0x11000 ∧ (queueRecord (mbCtx qcfgS mb) false).cseqAddr = 0x12000 ∧
      (queueRecord (mbCtx qcfgS mb) false).log2n = 6 ∧ (queueRecord (mbCtx qcfgS mb) false).log2cn = 6 ∧
      inflight qcfgS 63 = 0 ∧ lQueue qcfgS 63 = false) ∧
    (MbStarts rowQueueConfig mb qcfgBusy ∧ qcfgBusy.rc.need = [] ∧ queueOk (queueRecord (mbCtx qcfgBusy mb) false) = true ∧
      (oneEntry qcfgBusy 0 0x10000 (2 ^ 6 * 64)).isSome = true ∧ (oneEntry qcfgBusy 1 0x11000 (2 ^ 6 * 32)).isSome = true ∧
      (oneEntry qcfgBusy 1 0x12000 8).isSome = true ∧ inflight qcfgBusy 63 ≠ 0) ∧
    (MbStarts rowQueueConfig mbm qcfgAbort ∧ qcfgAbort.rc.need = [] ∧ queueOk (queueRecord (mbCtx qcfgAbort mbm) false) = true ∧
      inflight qcfgAbort 63 = 0 ∧ lQueue qcfgAbort 63 = true) ∧
    (MbStarts rowQueueConfig mb qcfgBad ∧ qcfgBad.rc.need = [] ∧ queueOk (queueRecord (mbCtx qcfgBad mb) false) = false) ∧
    (MbStarts rowQueueConfig mb qcfgOut ∧ qcfgOut.rc.need = [] ∧ queueOk (queueRecord (mbCtx qcfgOut mb) false) = true ∧
      oneEntry qcfgOut 1 (queueRecord (mbCtx qcfgOut mb) false).cseqAddr 8 = none) ∧
    (MbStarts rowQueueAbort mb (args live [63]) ∧ (mbCtx (args live [63]) mb).f 0 0 6 = 63 ∧ lQueue (args live [63]) 63 = false ∧
      MbStarts rowQueueAbort mbm (qAborting [63]) ∧ (mbCtx (qAborting [63]) mbm).f 0 0 6 = 63 ∧ lQueue (qAborting [63]) 63 = true ∧
      (qAborting [63]).rc.need = []) ∧
    (MbStarts rowTaskConfig mb taskS ∧ taskS.rc.need = [] ∧ (mbCtx taskS mb).f 0 0 6 = 63) ∧
    (MbStarts rowSetMigPolicy mbm (migS 0x1FFF) ∧ (mbCtx (migS 0x1FFF) mbm).f 0 0 13 = 0x1FFF ∧ (mbCtx (migS 0x1FFF) mbm).p 1 = 0x1000 ∧
      bufReadOk (mbTake (migS 0x1FFF) mbm 0x70) (mbCtx (migS 0x1FFF) mbm) 0x1000 48 = true ∧ migZeros (migB 0x1FFF) = true ∧
      migOk (migOfBytes (migB 0x1FFF)) = true ∧ (migR 0x1FFF).rc.need = []) ∧
    (MbStarts rowSetMigPolicy mbm (migS 4095) ∧ (mbCtx (migS 4095) mbm).f 0 0 13 = 4095 ∧ (mbCtx (migS 4095) mbm).p 1 = 0x1000 ∧
      bufReadOk (mbTake (migS 4095) mbm 0x70) (mbCtx (migS 4095) mbm) 0x1000 48 = true ∧ (migR 4095).rc.need = [] ∧
      migZeros (migB 4095) = true ∧
      migOk { (migR 4095).load.mig with
        en := (migOfBytes (migB 4095)).en, hot := (migOfBytes (migB 4095)).hot, cold := (migOfBytes (migB 4095)).cold,
        t16 := (migOfBytes (migB 4095)).t16, t8 := (migOfBytes (migB 4095)).t8, t4 := (migOfBytes (migB 4095)).t4 } = true) ∧
    (MbStarts rowSetMigPolicy mbm migLow ∧ (mbCtx migLow mbm).f 0 0 13 = 0x1FFF ∧ (mbCtx migLow mbm).p 1 = 0x1000 ∧
      bufReadOk (mbTake migLow mbm 0x70) (mbCtx migLow mbm) 0x1000 48 = true ∧
      (rdState (bufRead (mbTake migLow mbm 0x70) (mbCtx migLow mbm) 0x1000 48)).rc.need = [] ∧ migZeros migLowB = true ∧
      migOk (migOfBytes migLowB) = false) := by
  unfold MbStarts; constructorm* _ ∧ _ <;> decide +kernel

/-- A node that signals semaphore 0. -/
def node0 : Node := { words := [8, 1, 0, 0, 0, 0, 0, 0], deps := [] }
def nodeBytes : List Byte := toBytes 8 8 ++ toBytes 8 1 ++ List.replicate 64 0
def planFull : Plan := { vers := (List.range 4).map (fun i => { ver := BitVec.ofNat 16 i, nodes := [], pins := 1 }), next := 4, dropped := false }
def plan0 : Plan := { vers := [{ ver := 0, nodes := [node0], pins := 1 }], next := 1, dropped := false }
def planned (s : State) : State := { s with orr := { s.orr with plans := [(255, plan0)] } }
def stoS : State := poke (args (planned live) [255, 0x1000, 1]) 0x1000 nodeBytes
def stoR : State := rdState (bufRead (mbTake stoS mbm 0x62) (mbCtx stoS mbm) 0x1000 80)
def stoB : List Byte := bufIn (mbTake stoS mbm 0x62) (mbCtx stoS mbm) 0x1000 80
def patS : State := poke (args (planned live) [255, 0x1000, 1]) 0x1000 (List.replicate 16 0 ++ nodeBytes)
def patR : State := rdState (bufRead (mbTake patS mbm 0x63) (mbCtx patS mbm) 0x1000 96)
def patB : List Byte := bufIn (mbTake patS mbm 0x63) (mbCtx patS mbm) 0x1000 96
def patFull : State := { args live [255, 0x1000, 1] with orr := { live.orr with plans := [(255, planFull)] } }
def launchC : Cmd := { cmd0 [0x09 + 255 * 256, 0, 0, 0, 0, 0, 0, 0] 9 with plan := 255 }
def launchS : State := withCmd0 (planned queueRun) launchC
def launching : State := withCmd0 (planned queueRun) { launchC with phase := .running }
def task0 : Task := { en := true, plan := 255, queue := 0, sem := 1023, t := 0, step := 1, flight := none, late := false }
def tasked (x : Task) : State := { planned queueRun with orr := { (planned queueRun).orr with tasks := [(63, x)] } }

theorem witness_PlanCommandsTakeEffect :
    (MbStarts rowPlanStore mbm stoS ∧ (mbCtx stoS mbm).f 0 0 8 = 255 ∧ (mbCtx stoS mbm).f 2 0 11 = 1 ∧ (mbCtx stoS mbm).p 1 = 0x1000 ∧
      bufReadOk (mbTake stoS mbm 0x62) (mbCtx stoS mbm) 0x1000 (80 * 1) = true ∧ nodesOf stoB 1 = some [node0] ∧
      [node0].all (nodeOk stoR) = true ∧
      ((mget stoR.orr.plans 255 { vers := [], next := 0, dropped := false }).vers.filter (fun v => 0 < v.pins)).length ≤ 3 ∧
      planBytes (planCommit stoR 255 [node0]).1 ≤ planArea stoR ∧ stoR.rc.need = []) ∧
    (MbStarts rowPlanPatch mbm patS ∧ (mbCtx patS mbm).f 0 0 8 = 255 ∧ (mbCtx patS mbm).f 2 0 11 = 1 ∧ (mbCtx patS mbm).p 1 = 0x1000 ∧
      (planCurrent patS 255).isSome = true ∧ plan0.vers.length < 4 ∧
      bufReadOk (mbTake patS mbm 0x63) (mbCtx patS mbm) 0x1000 (96 * 1) = true ∧ patR.orr = patS.orr ∧
      patchAll [node0] ((List.range 1).map (fun i => bytesAt patB (96 * i) 96)) = some [node0] ∧ [node0].all (nodeOk patR) = true ∧
      planBytes (planCommit patR 255 [node0]).1 ≤ planArea patR ∧ patR.rc.need = []) ∧
    (MbStarts rowPlanPatch mbm patFull ∧ patFull.rc.need = [] ∧ (mbCtx patFull mbm).f 0 0 8 = 255 ∧ (mbCtx patFull mbm).f 2 0 11 = 1 ∧
      (planCurrent patFull 255).map (fun x => x.1) = some planFull ∧ 4 ≤ planFull.vers.length) ∧
    (MbStarts rowPlanDrop mb (args live [255]) ∧ (args live [255]).rc.need = [] ∧ mget? (args live [255]).orr.plans 255 = none) ∧
    (MbStarts rowPlanDrop mb (args (planned live) [255]) ∧ (args (planned live) [255]).rc.need = [] ∧
      (mbCtx (args (planned live) [255]) mb).f 0 0 8 = 255 ∧ mget? (args (planned live) [255]).orr.plans 255 = some plan0 ∧
      plan0.dropped = false ∧ (args (planned live) [255]).orr.tasks.any (fun e => e.2.en && e.2.plan == 255) = false) ∧
    (MbStarts rowPlanDrop mb (args (tasked task0) [255]) ∧ (args (tasked task0) [255]).rc.need = [] ∧
      mget? (args (tasked task0) [255]).orr.plans 255 = some plan0 ∧
      (args (tasked task0) [255]).orr.tasks.any (fun e => e.2.en && e.2.plan == 255) = true) ∧
    (stopped launchS = false ∧ launchS.rc.need = [] ∧ cmdOf launchS 1 = some launchC ∧ launchC.badLine = false ∧ launchC.op = 0x09 ∧
      mayStart launchS launchC = true ∧ controlOk launchC = true ∧ launchC.f 0 8 8 = 255 ∧ (planCurrent launchS 255).isSome = true) ∧
    (stopped launching = false ∧ launching.rc.need = [] ∧ cmdOf launching 1 = some { launchC with phase := .running } ∧
      (launchNodes launching { launchC with phase := .running })[0]? = some node0 ∧
      (launching.orr.cmds.filter (fun d => match d.own with | .node l _ => l == 1 | _ => false)).length < 16 ∧
      0 ∉ launchC.nodesDone ∧ 0 ∉ launchC.nodesSkipped ∧ (∀ d ∈ node0.deps, d ∈ launchC.nodesDone) ∧
      (∀ d ∈ launching.orr.cmds, d.own ≠ .node 1 0) ∧ launching.pwr.park = .running ∧ launching.pwr.restart ≠ .running) ∧
    (∀ x ∈ [task0, { task0 with flight := some 3 }, { task0 with flight := some 3, late := true }],
      stopped (tasked x) = false ∧ (tasked x).rc.need = [] ∧ mget? (tasked x).orr.tasks (63 : Fin 64) = some x ∧ x.en = true ∧
      reached (semOf (tasked x) x.sem) x.t = true ∧ (tasked x).pwr.park = .running ∧ (tasked x).pwr.restart ≠ .running ∧
      (tasked x).pwr.sl ≠ 0) ∧
    ((qOf (tasked task0) 0).conf = some conf0 ∧ (qOf (tasked task0) 0).st = .running ∧ inflight (tasked task0) 0 < conf0.depth ∧
      (qOf (tasked task0) 0).nextSeq - (qOf (tasked task0) 0).cack.toNat ≤ 2 ^ conf0.log2cn) := by
  unfold MbStarts; constructorm* _ ∧ _ <;> decide +kernel

def idleQ : State := { queueRun with
  orr := { queueRun.orr with queues := [(0, { Queue.reset with conf := some conf0, st := .idle, tail := 1, pendingDb := true })] } }
def fetchP : Piece := { host := false, pa := 0x30000, len := 64, hint := 0, va := 0x10000, ent := 0 }

/-- Parked, with queue 0 idle; an earlier posted write of the host is held; semaphore 7 has been set in this ACLK. -/
def idleParked : State := { idleQ with pwr := { idleQ.pwr with park := .parked } }
def posted : State := { queueRun with pwr := { queueRun.pwr with held := [.reg 0x20000 [1]] } }
def semSet (o : List Nat) : State := { live with orr := { live.orr with semSets := [(7, o)] } }
def cacked : State := { queueRun with orr := { queueRun.orr with queues := [(0, { Queue.reset with cack := 5 })] } }

theorem witness_DoorbellsAndSemaphoresTakeEffect :
    (stopped queueRun = false ∧ queueRun.rc.need = [] ∧ mustWait queueRun (.reg 0x20000 [64]) = false ∧
      doorbellOk (qOf queueRun 0) 64 = true ∧ doorbellOk (qOf queueRun 0) 65 = false ∧
      doorbellOk (qOf queueRun 1) 1 = false ∧ queueRun.pwr.park = .running) ∧
    (((64 : W64).truncate 32 - (qOf queueRun 0).fetch).toNat < ((65 : W32) - (qOf queueRun 0).fetch).toNat) ∧
    (stopped posted = false ∧ posted.rc.need = [] ∧ mustWait posted (.reg (0x20000 + 0x40 * 63) [64]) = true) ∧
    (stopped idleParked = false ∧ idleParked.rc.need = [] ∧ mustWait idleParked (.reg 0x20000 [64]) = false ∧
      doorbellOk (qOf idleParked 0) 64 = true ∧ idleParked.pwr.park = .parked ∧ (qOf idleParked 0).st = .idle ∧
      (64 : W32) ≠ (qOf idleParked 0).fetch) ∧
    (stopped idleQ = false ∧ (qOf idleQ (0 : Fin 64)).st = .idle ∧ (qOf idleQ (0 : Fin 64)).pendingDb = true ∧
      idleQ.pwr.park = .running ∧ idleQ.pwr.restart ≠ .running ∧
      (fetchQ (setQ idleQ (0 : Fin 64) { qOf idleQ (0 : Fin 64) with st := .running, pendingDb := false }) (0 : Fin 64)).rc.need = []) ∧
    (mustWait queueRun (.reg 0x20008 [5]) = false ∧ (qOf queueRun 0).cack.toNat ≤ (5 : W64).toNat ∧ stopped cacked = false ∧
      cacked.rc.need = [] ∧ mustWait cacked (.reg 0x20008 [4]) = false ∧ (4 : W64).toNat < (qOf cacked 0).cack.toNat) ∧
    (stopped live = false ∧ live.rc.need = [] ∧ mustWait live (.reg (0x30000 + 8 * 1023) [9]) = false ∧
      live.orr.semSets = [] ∧ mustWait (semSet [1, 0]) (.reg (0x30000 + 8 * 7) [9]) = false ∧ ¬ [1, 0] < [0]) ∧
    ((1016 : Fin 1024).val + (List.replicate 8 (1 : W64)).length ≤ 1024 ∧
      mustWait live (.reg (0x32000 + 8 * 1016) (List.replicate 8 1)) = false) ∧
    (mget? live.orr.semSets (7 : Fin 1024) = none ∧ mget? (semSet [0]).orr.semSets (7 : Fin 1024) = some [0] ∧
      [0] < [1, (3 : Fin 8).val] ∧ ¬ [2, 0, 0, 0] < [1, (3 : Fin 8).val]) := by
  constructorm* _ ∧ _ <;> decide +kernel

def resC : Cmd := cmd0 [0x0B] 0x0B
def doneC : Cmd := { cmd0 [] 1 with phase := .done }

/-- The ring lies in host memory. -/
def hostRing : State := { queueRun with
  xlt := { queueRun.xlt with ranges := [(0, { range0 with host := true })] }, hp := { live.hp with state := 0 } }
def remoteWr : State := { withCmd0 queueRun doneC with tr := { live.tr with wait := [(6, .write (.cmd 1))] } }

theorem witness_QueueFetchAndCompletionTakeEffect :
    (stopped queueRun = false ∧ mayFetch queueRun 0 = true ∧ (qOf queueRun (0 : Fin 64)).conf = some conf0 ∧
      exGet (extPieces queueRun true 0 (conf0.ring + (qOf queueRun 0).fetch.toNat % 2 ^ conf0.log2n * 64) 64) = [fetchP] ∧
      exOk (extPieces queueRun true 0 (conf0.ring + (qOf queueRun 0).fetch.toNat % 2 ^ conf0.log2n * 64) 64) = true ∧
      fetchP.host = false ∧ inTiers fetchP.pa 64 = true ∧ (readExt queueRun fetchP.pa 64 0).1.rc.need = [] ∧
      stopped live = false ∧ live.rc.need = [] ∧ mayFetch live 0 = false) ∧
    (stopped hostRing = false ∧ hostRing.rc.need = [] ∧ mayFetch hostRing 0 = true ∧ (qOf hostRing (0 : Fin 64)).conf = some conf0 ∧
      exOk (extPieces hostRing true 0 0x10000 64) = true ∧
      (exGet (extPieces hostRing true 0 0x10000 64)).map (fun p => p.host) = [true]) ∧
    (stopped (withCmd0 live resC) = false ∧ (withCmd0 live resC).rc.need = [] ∧ cmdOf (withCmd0 live resC) 1 = some resC ∧
      mayStart (withCmd0 live resC) resC = true ∧ 0x0B ≤ resC.op ∧
      (cmd0 [0] 0).op = 0 ∧ ({ resC with badLine := true } : Cmd).badLine = true) ∧
    (stopped (withCmd0 queueRun doneC) = false ∧ cmdOf (withCmd0 queueRun doneC) 1 = some doneC ∧ doneC.phase = .done ∧
      doneC.own = .queue ∧ (withCmd0 queueRun doneC).pwr.restart ≠ .running ∧
      remoteOpen (withCmd0 queueRun doneC) 1 = false ∧ hostLineOpen (withCmd0 queueRun doneC) 1 = false ∧
      hostWritesOf (flushFor (evictFor (withCmd0 queueRun doneC) 1) 1) 1 = [] ∧
      (completeNow (flushFor (evictFor (withCmd0 queueRun doneC) 1) 1) doneC).rc.need = [] ∧
      (qOf (withCmd0 queueRun doneC) doneC.q).written = [] ∧ doneC.seq = (qOf (withCmd0 queueRun doneC) doneC.q).cseq + 1) ∧
    (stopped remoteWr = false ∧ cmdOf remoteWr 1 = some doneC ∧ remoteWr.pwr.restart ≠ .running ∧ remoteOpen remoteWr 1 = true ∧
      remoteWr.rc.need = []) ∧
    (conf0.ien = true ∧ conf0.itime ≠ 0 ∧ (qOf queueRun 0).intPend = true ∧ queueRun.pwr.park = .running ∧
      (qOf idleQ (0 : Fin 64)).conf = some conf0 ∧ (qOf idleQ 0).intPend = false ∧ idleQ.rc.need = []) := by
  constructorm* _ ∧ _ <;> decide +kernel

def waitC (v : W64) : Cmd := cmd0 [0x07 + 1023 * 256, v, 0, 0, 0, 0, 0, 0] 7
def sigC (add : W64) : Cmd := cmd0 [0x08 + 1023 * 256 + add * 2 ^ 18, 1, 0, 0, 0, 0, 0, 0] 8
def fenceC : Cmd := cmd0 [0x0A, 0, 0, 0, 0, 0, 0, 0] 10
def badC (op : Nat) : Cmd := cmd0 [BitVec.ofNat 64 op, 0, 1, 0, 0, 0, 0, 0] op

/-- `queueRun` with the command; with an earlier command of the queue; and with a SET of its semaphore in this ACLK. -/
def qWith (c : Cmd) : State := withCmd0 queueRun c
def qBehind (c : Cmd) : State := { queueRun with orr := { queueRun.orr with
  cmds := [{ cmd0 [] 1 with cid := 2, seq := 0 }, c] } }
def qSet (o : List Nat) (c : Cmd) : State := { qWith c with orr := { (qWith c).orr with semSets := [(1023, o)] } }

theorem witness_QueueControlTakesEffect :
    (∀ c ∈ [waitC 0, waitC 1, sigC 0, sigC 1, fenceC], stopped (qWith c) = false ∧ (qWith c).rc.need = [] ∧
      cmdOf (qWith c) 1 = some c ∧ c.badLine = false ∧ mayStart (qWith c) c = true ∧ controlOk c = true ∧
      earlierDone (qWith c) c = true ∧ mget? (qWith c).orr.semSets 1023 = none) ∧
    ((waitC 0).op = 0x07 ∧ (waitC 0).f 0 8 10 = 1023 ∧ reached (semOf (qWith (waitC 0)) 1023) (((waitC 0).w 1).truncate 32) = true ∧
      reached (semOf (qWith (waitC 1)) 1023) (((waitC 1).w 1).truncate 32) = false) ∧
    (stopped (qWith { waitC 1 with phase := .waiting }) = false ∧
      cmdOf (qWith { waitC 1 with phase := .waiting }) 1 = some { waitC 1 with phase := .waiting }) ∧
    ((sigC 1).op = 0x08 ∧ bit ((sigC 1).w 0) 18 = true ∧ (sigC 0).op = 0x08 ∧ bit ((sigC 0).w 0) 18 = false ∧ fenceC.op = 0x0A) ∧
    (∀ c ∈ [sigC 0, fenceC], stopped (qBehind c) = false ∧ (qBehind c).rc.need = [] ∧ cmdOf (qBehind c) 1 = some c ∧
      mayStart (qBehind c) c = true ∧ c.own = .queue ∧ earlierDone (qBehind c) c = false) ∧
    (∀ o ∈ [[0], [2, 63, 0, 0]], stopped (qSet o (sigC 0)) = false ∧ (qSet o (sigC 0)).rc.need = [] ∧
      cmdOf (qSet o (sigC 0)) 1 = some (sigC 0) ∧ mayStart (qSet o (sigC 0)) (sigC 0) = true ∧
      earlierDone (qSet o (sigC 0)) (sigC 0) = true ∧ mget? (qSet o (sigC 0)).orr.semSets 1023 = some o) ∧
    (∀ op ∈ [7, 8, 9, 10], stopped (qWith (badC op)) = false ∧ (qWith (badC op)).rc.need = [] ∧
      cmdOf (qWith (badC op)) 1 = some (badC op) ∧ (badC op).badLine = false ∧ mayStart (qWith (badC op)) (badC op) = true ∧
      controlOk (badC op) = false ∧ (badC op).op = op) := by
  constructorm* _ ∧ _ <;> decide +kernel

/-! ### Witnesses: scheduling and fan-out space -/

/-- Indices 1, 2 and -1, and offsets 0, 2, 3, in the range of `queueRun`; two zero rows of the table. -/
def lkMem (s : State) : State :=
  poke (poke (poke (poke s 0x34000 ([1, 2, 0xFFFFFFFF].flatMap (toBytes 4))) 0x35000 ([0, 2, 3].flatMap (toBytes 4)))
    (homeAddr 0 desc0 1) slice0) (homeAddr 0 desc0 2) slice0
/-- `tabled` with queue 0 running over those lists. -/
def lkBase : State := lkMem { tabled with xlt := queueRun.xlt, orr := queueRun.orr }
def lkWords : List W64 := [1 + 5 * 256, 2 + 3 * 2 ^ 32, 0x14000, 0x15000, 0, 0x16000, 192, 0]
def lkC : Cmd := cmd0 lkWords 1
def lkS (p : Phase) : State := withCmd0 lkBase { lkC with phase := p }
/-- The job of that command, and its one unit. -/
def job1 : LkJob := ownJob lkBase lkC 0 desc0 [0, 2, 3]
def unit2 (st : UState) (cur : Nat) : Unit' :=
  { newUnit 1 false 2 { bag0 := 0, nbags := 2, seg := none, p0 := 0, p1 := 3 } with st := st, cursor := cur }
def withUnits (s : State) (js : List LkJob) (us : List Unit') : State :=
  { s with orr := { s.orr with jobs := js, units := us, nextUid := 9 } }
def lkUp (st : UState) : State := withUnits (lkS .running) [job1] [unit2 st 0]
/-- A second queue's job over one tile, with a ready unit beside the running one. -/
def twoQ (lc0 lc1 : Bool) : State :=
  let s := withUnits (lkS .running) [{ job1 with lc := lc0, tiles := 1 }, { job1 with jid := 7, q := 1, lc := lc1, tiles := 1 }]
    [unit2 .running 0, { unit2 .ready 0 with uid := 8, jid := 7 }]
  { s with orr := { s.orr with
      started := [2], queues := [(0, { Queue.reset with conf := some { conf0 with lc := lc0 }, st := .running })] } }
def mine (s : State) : List Unit' :=
  s.orr.units.filter (fun u => u.st == .running && (unitHome s u).q == 0 && (contended s 0 (qLc s 0)).contains u.tile)
def savedS : State := withUnits (lkS .running) [job1] [{ unit2 .saved 1 with save := some 0 }]
def hangNow (s : State) : List Nat :=
  ctr s (ctrQueueQProg 0) :: (queueTiles s 0).flatMap (fun t => [t, ctr s (ctrTileTProg t)])

/-- Every save record is taken; the check has met this work before. -/
def savesFull : State := { twoQ false true with orr := { (twoQ false true).orr with saves := List.range 192 } }
def beReady : State := withUnits (lkS .running) [{ job1 with lc := false }] [unit2 .ready 0]
def hangSeen : State := setQ (lkUp .running) 0 { qOf (lkUp .running) 0 with seenProg := [0, 0, 0] }
def tileSeen : State := { lkUp .running with orr := { (lkUp .running).orr with seenTile := [(0, 0)] } }

theorem witness_SchedulingTakesEffect :
    (stopped (lkUp .ready) = false ∧ (lkUp .ready).rc.need = [] ∧ Machine.live (lkUp .ready) = true ∧
      nextUnit (lkUp .ready) 0 true = some (unit2 .ready 0, 0)) ∧
    (stopped beReady = false ∧ beReady.rc.need = [] ∧ Machine.live beReady = true ∧ nextUnit beReady 3 true = none ∧
      (nextUnit beReady 3 false).isSome = true) ∧
    (stopped (inPark .parked) = false ∧ (inPark .parked).rc.need = [] ∧ Machine.live (inPark .parked) = false ∧
      stopped lkBase = false ∧ lkBase.rc.need = [] ∧ nextUnit lkBase 3 true = none ∧ nextUnit lkBase 3 false = none) ∧
    (∀ s ∈ [twoQ true true, twoQ false false], stopped s = false ∧ s.rc.need = [] ∧ Machine.live s = true ∧ queueCommits s 0 = false ∧
      mine s = [unit2 .running 0]) ∧
    (mine lkBase = [] ∧ qLc (twoQ true true) 0 = true ∧ qLc (twoQ false false) 0 = false ∧
      ((mine (twoQ false false)).foldl preempt (twoQ false false)).rc.need = []) ∧
    (stopped (twoQ false true) = false ∧ Machine.live (twoQ false true) = true ∧
      preemptTarget (twoQ false true) = some (unit2 .running 0) ∧ lowestFree (twoQ false true).orr.saves 192 = some 0 ∧
      (preempt (twoQ false true) (unit2 .running 0)).rc.need = []) ∧
    (stopped savesFull = false ∧ savesFull.rc.need = [] ∧ Machine.live savesFull = true ∧
      preemptTarget savesFull = some (unit2 .running 0) ∧ lowestFree savesFull.orr.saves 192 = none ∧
      lowestFree (List.range 191) 192 = some 191) ∧
    (stopped savedS = false ∧ savedS.rc.need = [] ∧ Machine.live savedS = true ∧
      unitOf savedS 2 = some { unit2 .saved 1 with save := some 0 } ∧
      (unitHome savedS { unit2 .saved 1 with save := some 0 }).tiles.getLsbD 47 = true ∧
      busyTile savedS 47 = false ∧ (qOf savedS (unitHome savedS { unit2 .saved 1 with save := some 0 }).q).st ≠ .switched ∧
      (∀ v ∈ savedS.orr.units, (unitHome savedS v).lc = true → unitReady savedS v = false)) ∧
    (∀ s ∈ [lkBase, lkUp .running, hangSeen], stopped s = false ∧ s.rc.need = [] ∧ s.pwr.park = .running) ∧
    (hangEval lkBase 0 = false ∧ hangEval (lkUp .running) 0 = true ∧ (qOf (lkUp .running) 0).seenProg ≠ hangNow (lkUp .running) ∧
      (qOf hangSeen 0).seenProg = hangNow hangSeen ∧ hangEval hangSeen 0 = true) ∧
    (tileWork (lkUp .running) 47 = [] ∧ tileWork (lkUp .running) 0 = [0] ∧
      mget? (lkUp .running).orr.seenTile 0 ≠ some (ctr (lkUp .running) (ctrTileTProg 0)) ∧ stopped tileSeen = false ∧
      tileSeen.rc.need = [] ∧ tileSeen.pwr.park = .running ∧ tileWork tileSeen 0 ≠ [] ∧
      mget? tileSeen.orr.seenTile 0 = some (ctr tileSeen (ctrTileTProg 0))) ∧
    (inPark .parked).pwr.park ≠ .running := by
  constructorm* _ ∧ _ <;> decide +kernel

/-- The table split over four chips, and the LOOKUP that asks them. -/
def descS : Desc := { desc0 with log2s := 2, rank := 0 }
def splitT : State := lkMem { (withTabs { tabs0 with
    descs := [(0, descS)], groups := [(0, Machine.Group.mk 2 0 [0xFFF, 7, 8, 9])] }) with
  xlt := queueRun.xlt, orr := queueRun.orr }
def jobS : LkJob := { ownJob splitT lkC 0 descS [0, 2, 3] with rankDrops := [0, 0, 0, 0] }
def askC (l : List Nat) : Cmd := { lkC with phase := .waiting, ranks := l }
def askS (l : List Nat) : State :=
  let s := withUnits (withCmd0 splitT (askC l)) [jobS] []
  { s with tr := { s.tr with fiRes := [(1, 65536)] } }
def scAskC (l : List Nat) : Cmd := { cmd0 [2 + 5 * 256, 1, 0, 0, 0, 0, 0, 0] 2 with phase := .waiting, ranks := l, plan := 0 }
def scAskS (l : List Nat) : State := withCmd0 splitT (scAskC l)
def grantT (l : List Nat) : State := updCmd (askS l) 1 (fun c => { c with ranks := sins (askC l).ranks 1 })
def grantC (l : List Nat) : Cmd := { askC l with ranks := sins (askC l).ranks 1 }
def scGrantT (l : List Nat) : State := updCmd (scAskS l) 1 (fun c => { c with ranks := sins (scAskC l).ranks 65 })
def scGrantC (l : List Nat) : Cmd := { scAskC l with ranks := sins (scAskC l).ranks 65 }
def fiS (n : Nat) : State :=
  let s := withUnits (withCmd0 splitT (askC [])) [jobS] []
  { s with tr := { s.tr with fiRes := [(2, n)], fiWait := [1] } }
def rec0 (b : Nat) : FanRec := { bag := b, nvalid := 0, npos := 0, empty := true, poison := false, dropped := false, vals := [] }
/-- A fanned-out job of 4097 empty bags whose last record waits. -/
def heldJob (l : List FanRec) : LkJob :=
  { newJob splitT 0 0 false true false false 0 { idx := [], off := List.replicate 4098 0, wgt := [], win := [] } with
    owner := 7, tag := 1, heldRecs := l }
def heldS (l : List FanRec) : State := withUnits splitT [heldJob l] []

/-- A request that does not fit waits already. -/
def foBehind : State := { live with tr := { live.tr with
  foRes := [FoRes.mk 7 2 (fanoutArea live)], foWait := [FoRes.mk 7 3 65536] } }
def foFull : State := { live with tr := { live.tr with foRes := [FoRes.mk 7 2 (fanoutArea live)] } }

theorem witness_FanOutSpaceTakesEffect :
    (stopped live = false ∧ live.rc.need = [] ∧ fanoutArea live < (FoRes.mk 7 1 (roundUp (fanoutArea live + 1) 65536)).bytes ∧
      live.tr.foWait = [] ∧ foUsed live + (FoRes.mk 7 1 (roundUp (fanoutArea live) 65536)).bytes ≤ fanoutArea live) ∧
    (stopped foFull = false ∧ foFull.rc.need = [] ∧ foFull.tr.foWait = [] ∧ (FoRes.mk 7 1 65536).bytes ≤ fanoutArea foFull ∧
      fanoutArea foFull < foUsed foFull + (FoRes.mk 7 1 65536).bytes) ∧
    (stopped foBehind = false ∧ foBehind.rc.need = [] ∧ foBehind.tr.foWait = [FoRes.mk 7 3 65536] ∧
      (FoRes.mk 7 1 65536).bytes ≤ fanoutArea foBehind ∧ fanoutArea foBehind < foUsed foBehind + (FoRes.mk 7 3 65536).bytes) ∧
    (stopped (askS []) = false ∧ (askS []).rc.need = [] ∧ cmdOf (askS []) 1 = some (askC []) ∧ (askC []).op = 0x01 ∧
      (askC []).phase = .waiting ∧ jobOfCmd (askS []) 1 = some jobS ∧
      (1, 65536) ∈ (askS []).tr.fiRes ∧ otherRanks (askS []) (descOf (askS []) jobS.desc) = [(1, 7), (2, 8), (3, 9)] ∧
      2 ∉ sins (askC []).ranks 1 ∧ 2 ∉ jobS.lost) ∧
    (stopped (askS [2, 3]) = false ∧ cmdOf (askS [2, 3]) 1 = some (askC [2, 3]) ∧ jobOfCmd (askS [2, 3]) 1 = some jobS ∧
      (1, 65536) ∈ (askS [2, 3]).tr.fiRes ∧
      (∀ x ∈ otherRanks (askS [2, 3]) (descOf (askS [2, 3]) jobS.desc), x.1 ∈ sins (askC [2, 3]).ranks 1 ∨ x.1 ∈ jobS.lost) ∧
      (lkSend (grantT [2, 3]) (grantC [2, 3]) jobS).rc.need = []) ∧
    (stopped (scAskS []) = false ∧ (scAskS []).rc.need = [] ∧ cmdOf (scAskS []) 1 = some (scAskC []) ∧
      scAsking (scAskS []) (scAskC []) = true ∧ (1, 7) ∈ otherRanks (scAskS []) (descOf (scAskS []) (scAskC []).plan) ∧
      64 + 2 ∉ sins (scAskC []).ranks (64 + 1) ∧
      (scatGo (failCmd (scCancelAll (scAskS []) 1 (scAskC []).plan) 1 0x40)).rc.need = [] ∧ (scAskS []).sc.jobs = []) ∧
    (stopped (scAskS [66, 67]) = false ∧ cmdOf (scAskS [66, 67]) 1 = some (scAskC [66, 67]) ∧
      scAsking (scAskS [66, 67]) (scAskC [66, 67]) = true ∧ descOf (scAskS [66, 67]) (scAskC [66, 67]).plan = descS ∧
      (∀ y ∈ otherRanks (scAskS [66, 67]) descS, 64 + y.1 ∈ sins (scAskC [66, 67]).ranks (64 + 1)) ∧
      (scSend (scOffsets (scGrantT [66, 67]) (scGrantC [66, 67])).1 (scGrantC [66, 67]) descS
        ((scOffsets (scGrantT [66, 67]) (scGrantC [66, 67])).2.map (fun n => n.1))).rc.need = []) ∧
    (∀ n ∈ [0, faninArea live], stopped (fiS n) = false ∧ (fiS n).rc.need = [] ∧ cmdOf (fiS n) 1 = some (askC []) ∧
      jobOfCmd (fiS n) 1 = some jobS ∧ (fiS n).tr.fiWait = [1]) ∧
    (fiRoom (fiS 0) (fiBytes (descOf (fiS 0) jobS.desc) (lkNbags (askC []))) = true ∧
      fiRoom (fiS (faninArea live)) (fiBytes (descOf (fiS (faninArea live)) jobS.desc) (lkNbags (askC []))) = false ∧
      (fiReserve (fiS 0) 1 (fiBytes (descOf (fiS 0) jobS.desc) (lkNbags (askC []))) (descOf (fiS 0) jobS.desc)
        (lkListBytes (askC []))).rc.need = []) ∧
    (stopped (heldS [rec0 4096]) = false ∧ (heldS [rec0 4096]).rc.need = [] ∧ stopped (heldS []) = false ∧ (heldS []).rc.need = []) := by
  constructorm* _ ∧ _ <;> decide +kernel

theorem witness_WINDOW : (∀ l, (heldS l).orr.jobs.find? (fun j => j.cid.isNone && j.owner == 7 && j.tag == 1) = some (heldJob l)) ∧
    (∀ l, inWindow (heldJob l) 4096 = false) ∧ (∀ l, inWindow (heldJob l) 4095 = true) ∧
    (∀ l, inWindow { heldJob l with base := 1 } 4096 = true) := by
  have h : ∀ l, (heldJob l).lists.off.length = 4098 := fun l => List.length_replicate
  refine ⟨fun l => rfl, fun l => ?_, fun l => ?_, fun l => ?_⟩
  · show decide (4096 < 0 + min ((heldJob l).lists.off.length - 1) 4096) = false; rw [h]; decide
  · show decide (4095 < 0 + min ((heldJob l).lists.off.length - 1) 4096) = true; rw [h]; decide
  · show decide (4096 < 1 + min ((heldJob l).lists.off.length - 1) 4096) = true; rw [h]; decide

/-! ### Witnesses: LOOKUP, the gather engines and the pooling unit -/

def lkWith (w : List W64) : State := withCmd0 lkBase (cmd0 w 1)
def lkOk : List W64 := lkWords
/-- An unbound table, an output that no range covers, an offset list that does not end with the index count. -/
def lkNoTable : List W64 := [1 + 6 * 256, 2 + 3 * 2 ^ 32, 0x14000, 0x15000, 0, 0x16000, 192, 0]
def lkNoOut : List W64 := [1 + 5 * 256, 2 + 3 * 2 ^ 32, 0x14000, 0x15000, 0, 0x20000, 192, 0]
def lkBadOff : List W64 := [1 + 5 * 256, 2 + 2 * 2 ^ 32, 0x14000, 0x15000, 0, 0x16000, 192, 0]
/-- Output to stream 3, which is armed and serves command 9. -/
def lkStrm : List W64 := [1 + 5 * 256 + 2 ^ 25, 2 + 3 * 2 ^ 32, 0x14000, 0x15000, 0, 3, 192, 0]
def lkStrmS : State := withCmd0 (setStrm lkBase 3 { Strm.reset with
  st := .idle, bound := some 9, d := { Strm.reset.d with kind := 3, credits := 1 } }) (cmd0 lkStrm 1)
def lkRead (w : List W64) : State × List (Byte × Bool) := readList (lkWith w) ((cmd0 w 1).f 3 0 52) (4 * (lkNbags (cmd0 w 1) + 1))
def lkOff (w : List W64) : List (Nat × Bool) := numsOf 4 (lkRead w).2
def fan0 (v : BitVec 16) : FanLookup := {
  owner := 7, tag := 1, table := 5, tver := v, pmode := 0, weighted := false, keepMap := true, nospec := false, lc := true,
  mapId := 0, nblkM1 := 0, lists := { idx := [(1, false), (2, false), (-1, false)], off := [0, 2, 3], wgt := [], win := [] } }
def fanS : State := { lkBase with tr := { lkBase.tr with foRes := [FoRes.mk 7 1 65536] } }
def recS : State := withUnits (withCmd0 splitT { lkC with phase := .running }) [jobS] []

theorem witness_LookupCommandsTakeEffect :
    (∀ w ∈ [lkOk, lkNoTable, lkNoOut, lkBadOff], stopped (lkWith w) = false ∧ (lkWith w).rc.need = [] ∧
      cmdOf (lkWith w) 1 = some (cmd0 w 1) ∧ (cmd0 w 1).badLine = false ∧ (cmd0 w 1).op = 1 ∧ mayStart (lkWith w) (cmd0 w 1) = true) ∧
    (lkResolve (lkWith lkNoTable) (cmd0 lkNoTable 1) = none) ∧
    (lkResolve (lkWith lkNoOut) (cmd0 lkNoOut 1) = some (0, desc0) ∧ lkExtents (lkWith lkNoOut) (cmd0 lkNoOut 1) = false) ∧
    (stopped lkStrmS = false ∧ lkStrmS.rc.need = [] ∧ cmdOf lkStrmS 1 = some (cmd0 lkStrm 1) ∧
      lkResolve lkStrmS (cmd0 lkStrm 1) = some (0, desc0) ∧ lkExtents lkStrmS (cmd0 lkStrm 1) = true ∧ lkOutk (cmd0 lkStrm 1) = true ∧
      mayBind lkStrmS (lkStream (cmd0 lkStrm 1)) 1 = false ∧ mayStart lkStrmS (cmd0 lkStrm 1) = true) ∧
    (lkResolve (lkWith lkBadOff) (cmd0 lkBadOff 1) = some (0, desc0) ∧ lkExtents (lkWith lkBadOff) (cmd0 lkBadOff 1) = true ∧
      lkOutk (cmd0 lkBadOff 1) = false ∧ (lkRead lkBadOff).1.rc.need = [] ∧
      ((lkOff lkBadOff).any (fun v => v.2) || !offsetsOk ((lkOff lkBadOff).map (fun v => v.1)) (lkNidx (cmd0 lkBadOff 1))) = true) ∧
    (lkResolve (lkWith lkOk) (cmd0 lkOk 1) = some (0, desc0) ∧ lkExtents (lkWith lkOk) (cmd0 lkOk 1) = true ∧
      lkOutk (cmd0 lkOk 1) = false ∧ desc0.log2s = 0 ∧ (lkRead lkOk).1.rc.need = [] ∧
      ((lkOff lkOk).any (fun v => v.2) || !offsetsOk ((lkOff lkOk).map (fun v => v.1)) (lkNidx (cmd0 lkOk 1))) = false ∧
      (lkStart (lkRead lkOk).1 (cmd0 lkOk 1) 0 desc0 ((lkOff lkOk).map (fun v => v.1))).rc.need = []) ∧
    (stopped fanS = false ∧ fanS.rc.need = [] ∧ foHeld fanS 7 1 = true ∧ fanS.orr.jobs = [] ∧ fanS.pwr.park = .running ∧
      fanS.pwr.restart ≠ .running ∧ fanDesc fanS 5 1 = some (0, desc0) ∧ fanDesc fanS 5 2 = none ∧
      (fan0 2).lists.off.length ≤ 4097 ∧ fanS.tr.foWait = []) ∧
    (stopped recS = false ∧ jobOfCmd recS 1 = some jobS ∧ 3 < (descOf recS jobS.desc).ranks ∧ 3 ≠ (descOf recS jobS.desc).rank ∧
      jobS.nextOut ≤ 1 ∧ 1 ∉ jobS.released ∧ recOf jobS 3 1 = none ∧ 3 ∉ jobS.lost ∧ 1 < jobS.lists.off.length - 1 ∧
      (ownerRelease (updJob recS jobS.jid (fun j => { j with
        recs := j.recs ++ [(3, rec0 1)],
        rankDrops := j.rankDrops.set 3 (j.rankDrops.getD 3 0 + ((rec0 1).npos - (rec0 1).nvalid)) })) 1 1).rc.need = [] ∧
      bagComplete (descOf recS jobS.desc) { jobS with recs := jobS.recs ++ [(3, rec0 1)] } 1 = false ∧
      (cmdOf recS 1).map (fun c => c.phase) = some .running ∧ jobS.nextOut < lkNbags lkC) := by
  constructorm* _ ∧ _ <;> decide +kernel

/-- An entry of the unit, for a row. -/
def entP (row : Nat) (src : RowSrc) (p : ProbeSt) (d : Option (List Byte × Bool)) (conf queued : Bool) : RowEnt := {
  row := row, dedup := true, size := 64, src := src, probe := p, data := d, conf := conf, queued := queued, unpop := false,
  poisoned := false, win := 0, defer := [], late := none }
def posP (pos bag row : Nat) (ent : Option Nat) (entered : Bool) : PosRec := {
  pos := pos, bag := bag, row := row, ent := ent, w := 0x3F80, wOk := true, flush := false, nonfin := false, wbad := false,
  held := false, raised := false, entered := entered }
def acc0 (b grp : Nat) (rel : Bool) : BagAcc := {
  bag := b, nextGrp := grp, acc := none, wins := [], nvalid := 0, poison := false, released := rel }
/-- The running unit at a cursor, with entries and positions. -/
def gUnit (cur : Nat) (es : List RowEnt) (ps : List PosRec) : Unit' := { unit2 .running cur with ents := es, pos := ps }
def gS (u : Unit') : State := withUnits (lkS .running) [job1] [u]
/-- What an intake at the unit's cursor leaves. -/
def intake (u : Unit') : State :=
  let s := gS u
  let b := bagOfPos job1 u u.cursor
  let (s1, v, bad) := indexAt (notePass s u.tile) u.tile job1 u.cursor
  let (s2, w, wbad) := weightAt s1 u.tile job1 u.cursor
  enterReady (if bad then dropPos s2 2 job1 u.cursor b (ctrTableDropPoison job1.desc) true
    else if v < 0 then dropPos s2 2 job1 u.cursor b (ctrTableDropNeg job1.desc) false
    else if (descOf s job1.desc).rows ≤ v.toNat then dropPos s2 2 job1 u.cursor b (ctrTableDropOor job1.desc) false
    else takeRow s2 2 job1 u.cursor b v.toNat w wbad) 2
def uPend : Unit' := gUnit 1 [entP 1 .none .pending none false false] [posP 0 0 1 (some 0) false]
/-- A row read speculatively, its data still out or there; of an entry that stands, or that does not. -/
def uSpec (d : Option (List Byte × Bool)) : Unit' :=
  gUnit 1 [entP 1 (.spec 3 1 3 0) .pending d false false] [posP 0 0 1 (some 0) false]
def uHome (q : Bool) : Unit' := gUnit 1 [entP 1 .home .absent none false q] [posP 0 0 1 (some 0) false]
def uLate : Unit' := gUnit 1 [{ entP 1 .home .absent none false true with late := some (.spec 3 1 3 0, 0) }] [posP 0 0 1 (some 0) false]
def almEnt : AEnt := { row := 1, desc := 0, state := 1, wclass := 3, version := 1, slot := 3, keep := false, epoch := 5 }
def almS (u : Unit') : State := poke (gS u) (bucketAddr (gS u) (almBucket (gS u) 0 1 0)) almEnt.bytes
def gcqS (n : Nat) : State :=
  { gS (uHome true) with tiles := [(0, { Tile.reset with beUsed := 1152, lcUsed := n, gcq := [(true, 2, 0, 2)] })] }

theorem witness_GatherEventsTakeEffect :
    (∀ n ∈ [0, 2], stopped (gS (gUnit n [] [])) = false ∧ runningLk (gS (gUnit n [] [])) 2 = some (gUnit n [] [], job1) ∧
      mayTake (gS (gUnit n [] [])) (gUnit n [] []) = true ∧ (intake (gUnit n [] [])).rc.need = []) ∧
    (bagOfPos job1 (gUnit 0 [] []) 0 = 0 ∧ (indexAt (notePass (gS (gUnit 0 [] [])) 0) 0 job1 0).2 = (1, false) ∧
      bagOfPos job1 (gUnit 2 [] []) 2 = 1 ∧ (indexAt (notePass (gS (gUnit 2 [] [])) 0) 0 job1 2).2 = (-1, false)) ∧
    (∀ n ∈ [382, 383], stopped (gcqS n) = false ∧ (gcqS n).rc.need = [] ∧ gcqNext (gcqS n) 0 = some (true, 2, 0, 2) ∧
      unitOf (gcqS n) 2 = some (uHome true)) ∧
    (creditsFree (tileOf (gcqS 382) 0) true 2 = true ∧ creditsFree (tileOf (gcqS 383) 0) true 2 = false ∧
      (uHome true).ents[0]? = some (entP 1 .home .absent none false true)) ∧
    (stopped (gS uPend) = false ∧ runningLk (gS uPend) 2 = some (uPend, job1) ∧
      uPend.ents[0]? = some (entP 1 .none .pending none false false) ∧ (probe (gS uPend) 0 1).2 = none ∧
      (probeBack (gS uPend) 2 0).rc.need = []) ∧
    (∀ d ∈ [none, some (slice0, false)], (uSpec d).ents[0]? = some (entP 1 (.spec 3 1 3 0) .pending d false false) ∧
      stopped (gS (uSpec d)) = false ∧ runningLk (gS (uSpec d)) 2 = some (uSpec d, job1) ∧ (probe (gS (uSpec d)) 0 1).2 = none ∧
      (probeBack (gS (uSpec d)) 2 0).rc.need = [] ∧
      stopped (almS (uSpec d)) = false ∧ runningLk (almS (uSpec d)) 2 = some (uSpec d, job1) ∧
      (probe (almS (uSpec d)) 0 1).2.any (fun p => specMatch p.ent 3 1 3 0) = true ∧ (probeBack (almS (uSpec d)) 2 0).rc.need = []) ∧
    (stopped (gS (uHome false)) = false ∧ runningLk (gS (uHome false)) 2 = some (uHome false, job1) ∧
      (uHome false).ents[0]? = some (entP 1 .home .absent none false false) ∧ (rowArrive (gS (uHome false)) 2 0).rc.need = [] ∧
      RowSrc.home ≠ RowSrc.none ∧ stageFull job1 (uHome false) (entP 1 .home .absent none false false) = false ∧
      stageFull job1 (uSpec none) (entP 1 (.spec 3 1 3 0) .pending none false false) = false ∧
      (rowArrive (gS (uSpec none)) 2 0).rc.need = []) ∧
    (stopped (gS uLate) = false ∧ runningLk (gS uLate) 2 = some (uLate, job1) ∧
      (uLate.ents[0]?).map (fun e => e.late) = some (some (.spec 3 1 3 0, 0)) ∧ (rowArrive (gS uLate) 2 0).rc.need = []) := by
  constructorm* _ ∧ _ <;> decide +kernel

/-- Both rows of bag 0 have arrived, and its positions are in its group; position 2 was dropped. -/
def uFull (grp : Nat) : Unit' := {
  gUnit 3 [entP 1 .home .absent (some (slice0, false)) true false, entP 2 .home .absent (some (slice0, false)) true false]
    [posP 0 0 1 (some 0) true, posP 1 0 2 (some 1) true, { posP 2 1 0 none false with wOk := false }] with
  bags := [acc0 0 grp false, acc0 1 0 false] }
/-- A segment of bag 0 that is settled, and one that is done; the fold of the latter is complete. -/
def uSeg (st : UState) : Unit' := { uFull 1 with nbags := 1, seg := some 0, p1 := 2, cursor := 2, st := st, scratch := some 0 }
def segS (st : UState) : State := gS (uSeg st)
def segJ : LkJob := { job1 with folds := [(0, (1, 0, acc0 0 1 true))] }
def foldS : State := withUnits (lkS .running) [segJ] [uSeg .done]

theorem witness_PoolingEventsTakeEffect :
    (stopped (gS (uFull 0)) = false ∧ (gS (uFull 0)).rc.need = [] ∧ runningLk (gS (uFull 0)) 2 = some (uFull 0, job1) ∧
      job1.pmode.toNat < 2 ∧ inUnit (uFull 0) 0 = true ∧ nextGroup (gS (uFull 0)) job1 (uFull 0) 0 0 = true ∧
      (notePass (closeGroup (gS (uFull 0)) job1 (uFull 0) 0 0) (uFull 0).tile).rc.need = [] ∧ (∀ e ∈ (uFull 0).ents, e.dedup = true) ∧
      (membersAt (gS (uFull 0)) job1 (uFull 0) (groupPos (gS (uFull 0)) job1 (uFull 0) 0 0)).length = 2) ∧
    (stopped (gS (uFull 1)) = false ∧ runningLk (gS (uFull 1)) 2 = some (uFull 1, job1) ∧
      (uFull 1).seg = none ∧ bagReady (gS (uFull 1)) job1 (uFull 1) 0 = true ∧ mayGive job1 0 = true ∧
      (releaseBag (gS (uFull 1)) (uFull 1) job1 0).rc.need = [] ∧ inUnit (uFull 1) 0 = true ∧ inUnit (uFull 1) 1 = true ∧
      inUnit (uFull 1) 2 = false ∧ bagReady (gS (uFull 0)) job1 (uFull 0) 0 = false ∧
      bagReady (gS (uFull 1)) job1 (uFull 1) 1 = true ∧ mayGive job1 1 = true ∧ (releaseBag (gS (uFull 1)) (uFull 1) job1 1).rc.need = []) ∧
    (stopped (segS .running) = false ∧ unitOf (segS .running) 2 = some (uSeg .running) ∧ jobOf (segS .running) 1 = some job1 ∧
      (uSeg .running).expand = false ∧ (uSeg .running).seg = some 0 ∧
      bagReady (segS .running) job1 (uSeg .running) 0 = true ∧ segCount job1 0 = 1 ∧
      (foldEnd (foldGo 1 0 0 (segCount job1 0) (segEnd (segS .running) (uSeg .running) job1)) 1 0).rc.need = []) ∧
    (stopped foldS = false ∧ unitOf foldS 2 = some (uSeg .done) ∧ jobOf foldS 1 = some segJ ∧ (foldEnd foldS 1 0).rc.need = []) := by
  constructorm* _ ∧ _ <;> decide +kernel

/-! ### Witnesses: SCATTER, skew and scrub -/

/-- A SCATTER of two bags with a supplied map of three positions; with a kept map; of an unbound table; with a gradient that
no range covers; with an offset list that does not end with the index count; with its gradient from stream 3. -/
def scW : List W64 := [2 + 5 * 256 + 2 ^ 20, 2 + 3 * 2 ^ 32, 0x14000, 0x15000, 0, 0x17000, 128, 0]
def scWMap : List W64 := [2 + 5 * 256, 2, 0, 0, 0, 0x17000, 128, 0]
def scWTable : List W64 := [2 + 6 * 256, 2, 0, 0, 0, 0x17000, 128, 0]
def scWGrad : List W64 := [2 + 5 * 256, 2, 0, 0, 0, 0x20000, 128, 0]
def scWOff : List W64 := [2 + 5 * 256 + 2 ^ 20, 2 + 2 * 2 ^ 32, 0x14000, 0x15000, 0, 0x17000, 128, 0]
def scWSplit : List W64 := [2 + 5 * 256 + 2 ^ 20, 2 + 3 * 2 ^ 32, 0x14000, 0x15000, 0, 0x17000, 512, 0]
def scWStrm : List W64 := [2 + 5 * 256 + 2 ^ 21, 2, 0, 0, 0, 3, 128, 0]
def scC (w : List W64) : Cmd := cmd0 w 2
def scWith (s : State) (w : List W64) : State := withCmd0 s (scC w)
def map0 : BagMap := {
  id := 0, cid := 9, owner := 0xFFF, tag := 9, usable := true, relAsked := false, readers := 0, desc := 0, tver := 1, pmode := 0, weighted := false, nbags := 2,
  nidx := 3, off := [0, 2, 3], members := [(0, 1, 0x3F80), (1, 2, 0x3F80)], nvalid := [2, 0], wins := [], bytes := 65536 }
def mapS : State := { lkBase with sc := { lkBase.sc with maps := [map0] } }
def scStrmS : State := scWith (setStrm lkBase 3 { Strm.reset with
  st := .idle, bound := some 9, d := { Strm.reset.d with kind := 4, credits := 1 } }) scWStrm
def swapS : State := { lkBase with orr := { lkBase.orr with
  cmds := [scC scWMap, { cmd0 [4 + 5 * 256] 4 with cid := 2, phase := .running }] } }
def scSend0 (s0 s : State) : State :=
  let v := updCmd s 1 (fun c => { c with phase := .waiting, bound := none, plan := 0, ord := s0.sc.nextOrd })
  { v with sc := { v.sc with nextOrd := v.sc.nextOrd + 1 } }
def scMapT (s : State) : State := scSend0 (scWith s scWMap) (scBind (scWith s scWMap) (scC scWMap))
def scSupT (w : List W64) : State :=
  scSend0 (scOffsets (scWith lkBase w) (scC w)).1 (scBind (scOffsets (scWith lkBase w) (scC w)).1 (scC w))
def scSupOff (w : List W64) : List (Nat × Bool) := (scOffsets (scWith lkBase w) (scC w)).2
def noLists : FanLists := FanLists.mk [] [] [] []
def req0 (src : Bool) : ScatReq := {
  owner := 7, tag := 1, table := 5, tver := 1, nbags := 2, mapsrc := src, mapId := 0, pmode := 0, weighted := false, release := false,
  lc := true, lists := if src then { idx := [(1, false), (2, false), (-1, false)], off := [0, 2, 3], wgt := [], win := [] } else noLists }
/-- A job of the kept map: of the command, or of a request of chip 7. -/
def scJ (cid : Option Nat) : ScJob := { scJob mapS (req0 false) cid 0 desc0 (some map0) with jid := 1 }
def withSc (s : State) (l : List ScJob) : State := { s with sc := { s.sc with jobs := l, nextJid := 2 } }
def awaitS : State := withSc (withCmd0 splitT { scC scWMap with phase := .waiting }) [scJ (some 1)]
def runSc (l : List (List Byte)) (j : ScJob) : State :=
  withSc (withCmd0 { splitT with sc := mapS.sc } { scC scWMap with phase := .running }) [{ j with ready := true, digests := l.map (fun _ => 5) }]

def fullPool : State := withSc mapS [{ scJ none with bytes := (layoutOf mapS).scat + 65536 }]

theorem witness_ScatterCommandsTakeEffect :
    (∀ w ∈ [scWMap, scWTable, scWGrad, scW, scWOff], stopped (scWith lkBase w) = false ∧ (scWith lkBase w).rc.need = [] ∧
      cmdOf (scWith lkBase w) 1 = some (scC w) ∧ (scC w).badLine = false ∧ (scC w).op = 2 ∧
      mayStart (scWith lkBase w) (scC w) = true ∧ swapHeld (scWith lkBase w) ((scC w).f 0 8 12) = false) ∧
    (stopped swapS = false ∧ swapS.rc.need = [] ∧ swapHeld swapS ((scC scWMap).f 0 8 12) = true ∧
      cmdOf swapS 1 = some (scC scWMap) ∧ mayStart swapS (scC scWMap) = true) ∧
    scResolve (scWith lkBase scWTable) (scC scWTable) = none ∧
    (scResolve (scWith lkBase scWGrad) (scC scWGrad) = some (0, desc0) ∧ scExtents (scWith lkBase scWGrad) (scC scWGrad) desc0 = false) ∧
    (stopped scStrmS = false ∧ scStrmS.rc.need = [] ∧ cmdOf scStrmS 1 = some (scC scWStrm) ∧
      swapHeld scStrmS ((scC scWStrm).f 0 8 12) = false ∧
      scResolve scStrmS (scC scWStrm) = some (0, desc0) ∧ scExtents scStrmS (scC scWStrm) desc0 = true ∧ scGsrc (scC scWStrm) = true ∧
      mayBind scStrmS (scStream (scC scWStrm)) 1 = false ∧ mayStart scStrmS (scC scWStrm) = true) ∧
    (stopped (scWith mapS scWMap) = false ∧ (scWith mapS scWMap).rc.need = [] ∧ cmdOf (scWith mapS scWMap) 1 = some (scC scWMap) ∧
      mayStart (scWith mapS scWMap) (scC scWMap) = true ∧ swapHeld (scWith mapS scWMap) ((scC scWMap).f 0 8 12) = false ∧
      scResolve (scWith mapS scWMap) (scC scWMap) = some (0, desc0) ∧ scExtents (scWith mapS scWMap) (scC scWMap) desc0 = true ∧
      scGsrc (scC scWMap) = false ∧ scSupplied (scC scWMap) = false ∧ desc0.log2s = 0 ∧
      reqServe (scMapT mapS) (scReq (scMapT mapS) (scC scWMap) desc0 noLists) = some (0, desc0, some map0) ∧
      (scSend (scMapT mapS) (scC scWMap) desc0 []).rc.need = []) ∧
    (scResolve (scWith lkBase scWMap) (scC scWMap) = some (0, desc0) ∧ scExtents (scWith lkBase scWMap) (scC scWMap) desc0 = true ∧
      reqServe (scMapT lkBase) (scReq (scMapT lkBase) (scC scWMap) desc0 noLists) = none ∧
      (scSend (scMapT lkBase) (scC scWMap) desc0 []).rc.need = []) ∧
    (scResolve (scWith lkBase scW) (scC scW) = some (0, desc0) ∧ scExtents (scWith lkBase scW) (scC scW) desc0 = true ∧
      scGsrc (scC scW) = false ∧ scSupplied (scC scW) = true ∧ (scOffsets (scWith lkBase scW) (scC scW)).1.rc.need = [] ∧
      ((scSupOff scW).any (fun v => v.2) || !offsetsOk ((scSupOff scW).map (fun v => v.1)) (scNidx (scC scW))) = false ∧
      (scSend (scSupT scW) (scC scW) desc0 ((scSupOff scW).map (fun v => v.1))).rc.need = []) ∧
    (scResolve (scWith lkBase scWOff) (scC scWOff) = some (0, desc0) ∧ scExtents (scWith lkBase scWOff) (scC scWOff) desc0 = true ∧
      scGsrc (scC scWOff) = false ∧ scSupplied (scC scWOff) = true ∧ (scOffsets (scWith lkBase scWOff) (scC scWOff)).1.rc.need = [] ∧
      ((scSupOff scWOff).any (fun v => v.2) || !offsetsOk ((scSupOff scWOff).map (fun v => v.1)) (scNidx (scC scWOff))) = true) ∧
    (stopped (scWith splitT scWSplit) = false ∧ (scWith splitT scWSplit).rc.need = [] ∧
      mayStart (scWith splitT scWSplit) (scC scWSplit) = true ∧
      scResolve (scWith splitT scWSplit) (scC scWSplit) = some (0, descS) ∧ scExtents (scWith splitT scWSplit) (scC scWSplit) descS = true ∧
      0 < descS.log2s ∧ (scOffsets (scWith splitT scWSplit) (scC scWSplit)).1.rc.need = [] ∧
      (scOffsets (scWith splitT scWSplit) (scC scWSplit)).2.any (fun v => v.2) = false ∧
      offsetsOk ((scOffsets (scWith splitT scWSplit) (scC scWSplit)).2.map (fun v => v.1)) (scNidx (scC scWSplit)) = true) ∧
    (∀ s ∈ [fanS, mapS], stopped s = false ∧ s.rc.need = [] ∧ s.pwr.park = .running ∧ s.pwr.restart ≠ .running ∧ s.sc.jobs = []) ∧
    (foHeld fanS 7 1 = true ∧ (req0 true).mapsrc = true ∧ reqServe fanS (req0 true) = some (0, desc0, none) ∧ (req0 false).mapsrc = false ∧
      reqServe mapS (req0 false) = some (0, desc0, some map0) ∧ reqServe fanS (req0 false) = none ∧ (req0 false).release = false) ∧
    (stopped (withSc mapS [scJ none]) = false ∧ (withSc mapS [scJ none]).rc.need = [] ∧
      (withSc mapS [scJ none]).sc.jobs.find? (fun j => !j.ready) = some (scJ none) ∧
      poolUsed (withSc mapS [scJ none]) + (scJ none).bytes ≤ (layoutOf (withSc mapS [scJ none])).scat ∧
      stopped fullPool = false ∧ fullPool.rc.need = [] ∧
      (fullPool.sc.jobs.find? (fun j => !j.ready)).map (fun j => j.bytes) = some ((layoutOf mapS).scat + 65536) ∧
      (layoutOf fullPool).scat < poolUsed fullPool + ((layoutOf mapS).scat + 65536)) ∧
    (stopped awaitS = false ∧ awaitS.rc.need = [] ∧ scAwaits awaitS 1 = some ({ scC scWMap with phase := .waiting }, scJ (some 1)) ∧
      3 ≠ (descOf awaitS (scJ (some 1)).desc).rank ∧ 3 < (descOf awaitS (scJ (some 1)).desc).ranks) ∧
    ((scCancel (withSc mapS [scJ none]) 7 1).rc.need = [] ∧ stopped (withSc mapS [scJ none]) = false ∧
      (withSc mapS [scJ none]).sc.jobs.find? (fun j => j.cid.isNone && j.owner == 7 && j.tag == 1) = some (scJ none)) ∧
    (∀ l ∈ [[], [[], [], []]], stopped (runSc l (scJ (some 1))) = false ∧ (runSc l (scJ (some 1))).rc.need = [] ∧
      cmdOf (runSc l (scJ (some 1))) 1 = some { scC scWMap with phase := .running } ∧
      (scOfCmd (runSc l (scJ (some 1))) 1).map (fun j => j.digests.length) = some l.length ∧
      3 ≠ (descOf (runSc l (scJ (some 1))) 0).rank ∧ 3 < (descOf (runSc l (scJ (some 1))) 0).ranks ∧ 128 + 3 ∉ (scC scWMap).ranks) ∧
    (decide ((descOf (runSc [] (scJ (some 1))) 0).ranks ≤ 0 + 1) = false ∧
      decide ((descOf (runSc [[], [], []] (scJ (some 1))) 0).ranks ≤ 3 + 1) = true) := by
  constructorm* _ ∧ _ <;> decide +kernel

/-- A running SCATTER of two bags whose gradients are at 0x17000, bag 0's not finite. -/
def gradJ (n : Nat) : ScJob := { scJ (some 1) with ready := true, nextBag := n }
def gradAt (n : Nat) : State := withSc (withCmd0 (poke lkBase 0x37000 [0, 0, 0x80, 0x7F]) { scC scWMap with phase := .running }) [gradJ n]
def gradVals (n : Nat) : List F32 :=
  match gradRead (gradAt n) { scC scWMap with phase := .running } 32 n with
  | some (_, l) => (numsOf 4 l).map (fun v => BitVec.ofNat 32 v.1)
  | none => []
def gradNeed (n : Nat) : Bool :=
  match gradRead (gradAt n) { scC scWMap with phase := .running } 32 n with
  | some (t, _) => t.rc.need.isEmpty
  | none => false
def con (row pos : Nat) : Contrib := { row := row, pos := pos, bag := 0, wmask := false, w := 0x3F80 }
def xUnit : Unit' := { newUnit 1 true 2 { bag0 := 0, nbags := 2, seg := none, p0 := 0, p1 := 3 } with st := .running }
/-- A ready job with something of tile 47's changed. -/
def dJ : ScJob := { scJ (some 1) with
  ready := true, nextBag := 2, slab := [(0, List.replicate 32 0x3F800000), (1, List.replicate 32 0)], expanded := true }
def infJ : ScJob := { dJ with slab := [(0, List.replicate 32 0x7F800000)] }
def dS (j : ScJob) : State := withSc (withCmd0 lkBase { scC scWMap with phase := .running }) [j]
def xS : State := { dS dJ with orr := { (dS dJ).orr with units := [xUnit] } }
def fullJ : ScJob := { dJ with flying := [(47, [con 1 2])], runBuf := [(47, List.replicate 8192 (con 1 0))], expanded := false }
def sortJ : ScJob := { dJ with runBuf := [(47, [con 2 1, con 1 3, con 1 0])] }
def mergeJ (j : ScJob) : ScJob := { j with runs := [(47, [[con 1 0, con 2 1], [con 1 3]])], ubatch := some 3 }
def ent1 : MergeEnt := { tile := 47, row := 1, hi := List.replicate 32 0, lo := List.replicate 32 0, count := 2, lc := true }
def mergeOf (j : ScJob) : MergeEnt :=
  (rowRecords j 47 1).foldl (mergeAdd j) (MergeEnt.mk 47 1 (List.replicate 32 0) (List.replicate 32 0) 0 j.lc)
def delJ (rows last : Bool) : ScJob := { dJ with ubatch := some 3, lastGo := last, runs := if rows then [(47, [[con 2 1]])] else [] }
/-- A second job whose report is still out keeps the last delivery back. -/
def otherJ : ScJob := { dJ with jid := 7, ubatch := some 3, lastGo := true, reported := false, sent := 1 }
def delS (js : List ScJob) : State :=
  let s := withSc (withCmd0 lkBase { scC scWMap with phase := .running }) js
  { s with sc := { s.sc with entries := [ent1], entriesJob := [1] } }
def lastS (j : ScJob) : State := updSc (delS [j]) 1 (fun j => { j with lastGo := true, held := false })

/-- BE work whose state of tile 47 is in a save record; a buffer that is empty, expansion having ended; one that fills. -/
def savedJ : ScJob := { dJ with lc := false }
def savedT : State := { dS savedJ with sc := { (dS savedJ).sc with saved := [(47, 2)] } }
def openJ : ScJob := { dJ with runBuf := [(47, [con 1 0])], expanded := false }
/-- The tile's entries are all taken. -/
def entFull : State := { dS (mergeJ dJ) with sc := { (dS (mergeJ dJ)).sc with
  entries := List.replicate 32 { ent1 with row := 9 }, entriesJob := List.replicate 32 9 } }
def heldJ : ScJob := { delJ false false with held := true }

theorem witness_ScatterDataTakeEffect :
    (∀ n ∈ [0, 1], stopped (gradAt n) = false ∧ cmdOf (gradAt n) 1 = some { scC scWMap with phase := .running } ∧
      scOfCmd (gradAt n) 1 = some (gradJ n) ∧ (gradJ n).nextBag = n ∧ n < (gradJ n).nbags ∧ (gradAt n).pwr.restart ≠ .running ∧
      descOf (gradAt n) (gradJ n).desc = desc0 ∧ desc0.ranks * desc0.cols = 32 ∧ gradNeed n = true ∧ (gradVals n).length = 32) ∧
    ((gradVals 0).any (fun v => !f32Finite v) = true ∧ (gradVals 1).any (fun v => !f32Finite v) = false) ∧
    (stopped (withSc mapS [{ scJ none with ready := true }]) = false ∧ (withSc mapS [{ scJ none with ready := true }]).rc.need = [] ∧
      (withSc mapS [{ scJ none with ready := true }]).sc.jobs.find? (fun j => j.cid.isNone && j.owner == 7 && j.tag == 1) =
      some { scJ none with ready := true } ∧ (scJ none).nextBag = 0 ∧ 0 < (scJ none).nbags) ∧
    (stopped xS = false ∧ unitOf xS 2 = some xUnit ∧ scOf xS xUnit.jid = some dJ ∧ xUnit.expand = true ∧ xUnit.st = .running ∧
      xUnit.bag0 + xUnit.nbags ≤ dJ.nextBag ∧ xS.pwr.restart ≠ .running ∧ (expandUnit xS xUnit dJ).rc.need = []) ∧
    (∀ j ∈ [dJ, sortJ, openJ], stopped (dS j) = false ∧ (dS j).rc.need = [] ∧ scOf (dS j) 1 = some j ∧
      tileSaved (dS j) 47 j.lc = false ∧ mget j.flying 47 [] = [] ∧ 47 ∉ j.passed) ∧
    (stopped savedT = false ∧ savedT.rc.need = [] ∧ scOf savedT 1 = some savedJ ∧ tileSaved savedT 47 savedJ.lc = true) ∧
    (mget sortJ.runBuf 47 [] ≠ [] ∧ sortJ.expanded = true ∧ mget dJ.runBuf 47 [] = [] ∧ dJ.expanded = true ∧
      (mget openJ.runBuf 47 []).length < 8192 ∧ openJ.expanded = false) ∧
    (∀ j ∈ [mergeJ dJ, mergeJ infJ], stopped (dS j) = false ∧ (dS j).rc.need = [] ∧ scOf (dS j) 1 = some j ∧
      (dS j).pwr.restart ≠ .running ∧ nextRow j 47 = some 1 ∧ (descOf (dS j) j.desc).cols = 32 ∧
      mayMerge (dS j) 47 j = true ∧ entryFree (dS j) 47 j.lc = true) ∧
    (mergeBad (mergeOf (mergeJ dJ)) = false ∧ mergeBad (mergeOf (mergeJ infJ)) = true) ∧
    (stopped entFull = false ∧ entFull.rc.need = [] ∧ scOf entFull 1 = some (mergeJ dJ) ∧ entFull.pwr.restart ≠ .running ∧
      entryFree entFull 47 (mergeJ dJ).lc = false ∧ rowDue entFull 47 (mergeJ dJ) = true) ∧
    (∀ j ∈ [delJ true false, delJ false true, delJ false false], stopped (delS [j]) = false ∧ scOf (delS [j]) 1 = some j ∧
      j.ubatch ≠ none ∧ (delS [j]).pwr.restart ≠ .running ∧ tileSaved (delS [j]) 47 j.lc = false ∧
      nextEntry (delS [j]) 47 j.jid = some (0, ent1) ∧ homeComp j.desc (descOf (delS [j]) j.desc) ent1.row = homeComp 0 desc0 1 ∧
      (∀ m ∈ (delS [j]).sc.jobs, m.jid ≠ j.jid → m.held = false) ∧ (lyOf (delS [j]) (homeComp 0 desc0 1)).outstanding < 128 ∧
      portUp (delS [j]) (homeComp 0 desc0 1) = true ∧ (scatGo (sendDelivery (delS [j]) j 0 ent1)).rc.need = []) ∧
    (scRows (delJ true false) = true ∧ scRows (delJ false true) = false ∧ (delJ false true).lastGo = true) ∧
    (scRows (delJ false false) = false ∧ (entriesOf (delS [delJ false false]) 1).length = 1 ∧ (delJ false false).lastGo = false ∧
      holdOver (delS [delJ false false]) (delJ false false) = true ∧
      (scatGo (sendDelivery (lastS (delJ false false)) (delJ false false) 0 ent1)).rc.need = []) ∧
    (stopped (delS [delJ false false, otherJ]) = false ∧ (delS [delJ false false, otherJ]).rc.need = [] ∧
      scOf (delS [delJ false false, otherJ]) 1 = some (delJ false false) ∧ nextEntry (delS [delJ false false, otherJ]) 47 1 = some (0, ent1) ∧
      holdOver (delS [delJ false false, otherJ]) (delJ false false) = false ∧
      (∀ m ∈ (delS [delJ false false, otherJ]).sc.jobs, m.jid ≠ 1 → m.held = false)) ∧
    (stopped (delS [heldJ]) = false ∧ (delS [heldJ]).rc.need = [] ∧ (delS [heldJ]).sc.jobs.find? (fun j => j.held) = some heldJ ∧
      holdOver (delS [heldJ]) heldJ = true ∧ stopped (delS [heldJ, otherJ]) = false ∧ (delS [heldJ, otherJ]).rc.need = [] ∧
      (delS [heldJ, otherJ]).sc.jobs.find? (fun j => j.held) = some heldJ ∧ holdOver (delS [heldJ, otherJ]) heldJ = false) := by
  constructorm* _ ∧ _ <;> decide +kernel

theorem witness_CONTRIBUTION_RECORD : scOf (dS fullJ) 1 = some fullJ ∧ (∀ l : List Contrib, l.length = 8192 → min 1 (8192 - l.length) = 0) ∧
    (mget fullJ.runBuf 47 []).length = 8192 := by
  refine ⟨rfl, fun l h => by rw [h]; decide, ?_⟩
  show (List.replicate 8192 (con 1 0)).length = 8192
  exact List.length_replicate

def log1 (n : Nat) : List RowStep := List.replicate n { desc := 0, row := 1, step := 1 }
def skewS (l : List Nat) : State := { tabled with mer := { tabled.mer with skewDue := [(0, [log1 1])], earlyScrub := l } }
def scrubOn : State := { tabled with mer := { tabled.mer with scrubRate := 1 } }

theorem witness_SkewAndScrubTakeEffect :
    (stopped (skewS []) = false ∧ (mget? (skewS []).mer.skewDue 0).isSome = true ∧ merUp (skewS []) = true ∧
      Machine.live (skewS []) = true ∧ (skewHandoff (skewS []) 0 [log1 2] [(1, [{ rank := 1, step := 2 }])]).rc.need = [] ∧
      (fitLogs (layoutOf (skewS [])).skew [log1 1, log1 2]).2 = 0 ∧ (fitLogs 15 [log1 2]).2 = 1 ∧ (fitLogs 16 [log1 2]).2 = 0) ∧
    (∀ s ∈ [skewS [0], scrubOn], stopped s = false ∧ merUp s = true ∧ Machine.live s = true ∧ descOf s 0 = desc0 ∧
      portUp s (homeComp 0 desc0 7) = true ∧ (scrubRow s 0 7 []).rc.need = []) ∧
    (desc0.dstate ≠ 0 ∧ 7 < desc0.rows ∧ 7 + 1 = desc0.rows ∧ desc0.log2s = 0 ∧ 0 ∈ (skewS [0]).mer.earlyScrub ∧
      scrubOn.mer.scrubRate ≠ 0) := by
  constructorm* _ ∧ _ <;> decide +kernel

/-! ### Witnesses: the companions -/

def upd (d : Nat) : UpdMsg := { desc := d, row := 1, ncontrib := 1, gfmt := 0, ubatch := 3, nblkM1 := 0, body := List.replicate 128 0 }
/-- `lkBase` with a change to companion 4, which holds row 1 of the table. -/
def ly4 (f : Lyush → Lyush) : State := setLy lkBase 4 (f (lyOf lkBase 4))
/-- With a state record large enough for the program. -/
def updS (q : List UpdMsg) : State := ly4 (fun l => { l with updq := q, ctx := [(0, { ctxOfDesc desc0 with stateSz := 8 })] })
def updTook (u : UpdMsg) : State × UpdDone := lyUpdate (updS []) 4 u
def batchS : State := withSc (ly4 (fun l => l)) [{ dJ with runs := [], ubatch := some 3, lastGo := true, ports := [4] }]
def ack4 (r : BitVec 4) : AckMsg := { desc := 0, row := 1, ubatch := 3, step := 1, result := r }
def batchT : State :=
  let s1 := updScat batchS (inBatch 3) (fun j => { j with ended := sins j.ended 4 })
  scatGo (checkParams (setLy s1 4 (lyClose { lyOf batchS 4 with dones := (lyOf batchS 4).dones ++ [3] })))
def ackT (r : BitVec 4) : State :=
  scatGo (ackTake (setLy (ly4 (fun l => { l with acks := [ack4 r] })) 4 { lyOf lkBase 4 with acks := [] }) 4 (ack4 r))
def step1 : RowStep := { desc := 0, row := 1, step := 1 }
def clogS : State :=
  let s := ly4 (fun l => { l with recent := [step1] })
  { s with pwr := { s.pwr with restart := .running } }

def batchDown : State := setLy batchS 4 { lyOf batchS 4 with lanes := 0 }
/-- An acknowledgement of a row command on the link, and one that its row's COPY is still ahead of. -/
def rackS (r : BitVec 4) : State := ly4 (fun l => { l with racks := [ack4 r] })
def behindCopy : State := ly4 (fun l => { l with acks := [ack4 0], copies := [(0, 1, slice0)] })
def copyS4 : State := ly4 (fun l => { l with copies := [(0, 1, slice0)] })

theorem witness_CompanionUpdatesTakeEffect :
    (stopped (ly4 (fun l => { l with flying := [upd 0] })) = false ∧ (ly4 (fun l => { l with flying := [upd 0] })).rc.need = [] ∧
      portUp (ly4 (fun l => { l with flying := [upd 0] })) 4 = true ∧ (lyOf (ly4 (fun l => { l with flying := [upd 0] })) 4).selfRef = false ∧
      takeFirst (fun v => v == upd 0) (lyOf (ly4 (fun l => { l with flying := [upd 0] })) 4).flying = some (upd 0, [])) ∧
    (stopped (updS [upd 0]) = false ∧ portUp (updS [upd 0]) 4 = true ∧ (lyOf (updS [upd 0]) 4).selfRef = false ∧
      (updS [upd 0]).pwr.restart ≠ .running ∧ (lyOf (updS [upd 0]) 4).updq = [upd 0] ∧
      (engineTake (updS [upd 0]) 4).rc.need = [] ∧ (updTook (upd 0)).2.ack.result = 0 ∧ (updS [upd 0]).mer.lruns = []) ∧
    (updTook (upd 9)).2.ack.result ≠ 0 ∧
    (∀ s ∈ [batchS, batchDown], stopped s = false ∧ (lyOf s 4).flying = [] ∧
      ∃ j ∈ s.sc.jobs, inBatch 3 j = true ∧ inCommit s j = true ∧ 4 ∈ j.ports ∧ 4 ∉ j.ended) ∧
    (portUp batchS 4 = true ∧ batchT.rc.need = [] ∧ portUp batchDown 4 = false ∧
      (scatGo (countPort (updScat batchDown (inBatch 3) (fun j => { j with ended := sins j.ended 4 })) 4)).rc.need = []) ∧
    (stopped (ly4 (fun l => { l with dones := [3] })) = false ∧ (ly4 (fun l => { l with dones := [3] })).rc.need = [] ∧
      3 ∈ (lyOf (ly4 (fun l => { l with dones := [3] })) 4).dones ∧
      (∀ u ∈ (lyOf (ly4 (fun l => { l with dones := [3] })) 4).updq, u.ubatch ≠ 3) ∧
      (∀ a ∈ (lyOf (ly4 (fun l => { l with dones := [3] })) 4).acks, a.ubatch ≠ 3) ∧
      3 ∈ (lyOf (ly4 (fun l => { l with dones := [3], acks := [ack4 8] })) 4).dones ∧
      ∃ a ∈ (lyOf (ly4 (fun l => { l with dones := [3], acks := [ack4 8] })) 4).acks, a.ubatch = 3) ∧
    (∀ r ∈ [(0 : BitVec 4), 5], stopped (ly4 (fun l => { l with acks := [ack4 r] })) = false ∧
      takeFirst (fun b => b == ack4 r) (lyOf (ly4 (fun l => { l with acks := [ack4 r] })) 4).acks = some (ack4 r, []) ∧
      (lyOf (ly4 (fun l => { l with acks := [ack4 r] })) 4).copies = [] ∧ (ackT r).rc.need = []) ∧
    (∀ r ∈ [(8 : BitVec 4), 5], stopped (rackS r) = false ∧ (rackS r).rc.need = [] ∧
      takeFirst (fun b => b == ack4 r) (lyOf (rackS r) 4).acks = none ∧
      takeFirst (fun b => b == ack4 r) (lyOf (rackS r) 4).racks = some (ack4 r, []) ∧ (lyOf (rackS r) 4).copies = []) ∧
    (stopped behindCopy = false ∧ behindCopy.rc.need = [] ∧ ∃ c ∈ (lyOf behindCopy 4).copies, c.1 = (ack4 0).desc ∧ c.2.1 = (ack4 0).row) ∧
    (stopped copyS4 = false ∧ copyS4.rc.need = [] ∧
      takeFirst (fun c => c == (0, 1, slice0)) (lyOf copyS4 4).copies = some ((0, 1, slice0), [])) ∧
    (stopped clogS = false ∧ clogS.pwr.restart = .running ∧ portUp clogS 4 = true ∧ (∀ x ∈ [step1], x ∈ (lyOf clogS 4).recent) ∧
      ([step1].foldl requantRow (setLy clogS 4 { lyOf clogS 4 with
        recent := (lyOf clogS 4).recent.filter (fun x => !([step1].contains x)) })).rc.need = []) := by
  constructorm* _ ∧ _ <;> decide +kernel

def down4 : State := ly4 (fun l => { l with lanes := 0 })
def lctx : LyCtx := { ctxOfDesc desc0 with pset := 255 }
def poisoned4 : State := { lkBase with mem := { lkBase.mem with poisS := [homeAddr 0 desc0 1 / 32] } }

def sr4 : State := ly4 (fun l => { l with selfRef := true })
def serve0 : ServeMsg := { desc := 0, row := 1, prom := false, pclass := 0, pversion := 0 }
def rowBehind : State := ly4 (fun l => { l with updq := [upd 0] })
def open4 : State := ly4 (fun l => { l with batches := [(0, 3)] })
def noCtx4 : State := ly4 (fun l => { l with ctx := [] })

theorem witness_CompanionRowCommandsTakeEffect :
    (stopped down4 = false ∧ down4.rc.need = [] ∧ portUp down4 4 = false) ∧
    (stopped sr4 = false ∧ sr4.rc.need = [] ∧ portUp sr4 4 = true ∧ (lyOf sr4 4).selfRef = true ∧
      stopped clogS = false ∧ clogS.rc.need = [] ∧ portUp clogS 4 = true ∧ clogS.pwr.restart = .running) ∧
    (stopped rowBehind = false ∧ rowBehind.rc.need = [] ∧ rowBehind.rc.snoop = [] ∧ portUp rowBehind 4 = true ∧
      (lyOf rowBehind 4).selfRef = false ∧ rowBehind.pwr.restart ≠ .running ∧ serve0.desc = (0 : Fin 4096).val ∧ serve0.row = 1 ∧
      ∃ u ∈ (lyOf rowBehind 4).updq, u.desc = (0 : Fin 4096).val ∧ u.row = 1) ∧
    (∀ s ∈ [lkBase, poisoned4, noCtx4], stopped s = false ∧ s.rc.need = [] ∧ portUp s 4 = true ∧ (lyOf s 4).selfRef = false ∧
      s.pwr.restart ≠ .running ∧ (lyOf s 4).updq = [] ∧ (lySetServe s 4 serve0).rc.need = [] ∧ (lyReseed s 4 0 1 slice0).1.rc.need = [] ∧
      (lyRequant s 4 0 1).1.rc.need = [] ∧ (lyLevel s 4 0 1 9).1.rc.need = []) ∧
    (mget? (lyOf noCtx4 4).ctx (0 : Fin 4096).val = none ∧ mget? (lyOf lkBase 4).ctx (0 : Fin 4096).val = some (ctxOfDesc desc0)) ∧
    (((lyRead lkBase 4 (ctxOfDesc desc0) 1).2.homeBad || (lyRead lkBase 4 (ctxOfDesc desc0) 1).2.recBad) = false ∧
      (dReadSecs lkBase (lyHome 4 (ctxOfDesc desc0) 1) 1).2.2.any id = false ∧
      ((lyRead poisoned4 4 (ctxOfDesc desc0) 1).2.homeBad || (lyRead poisoned4 4 (ctxOfDesc desc0) 1).2.recBad) = true ∧
      (dReadSecs poisoned4 (lyHome 4 (ctxOfDesc desc0) 1) 1).2.2.any id = true) ∧
    ((descOf lkBase 0).dstate ≠ 0 ∧ 1 < (descOf lkBase 0).rows ∧ homeComp 0 (descOf lkBase 0) 1 = (4 : Fin 8).val ∧
      (readHome lkBase 0 1).1.rc.need = []) ∧
    (stopped open4 = false ∧ open4.rc.need = [] ∧ portUp open4 4 = true ∧ (lyOf open4 4).selfRef = false ∧ open4.pwr.restart ≠ .running ∧
      lyOpenDesc (lyOf lkBase 4) 0 = false ∧ lyOpenDesc (lyOf open4 4) 0 = true ∧
      mget? (lyOf open4 4).ctx 0 = some (ctxOfDesc desc0) ∧ (ctxOfDesc desc0).pset ≠ lctx.pset ∧
      lyOpenPset (lyOf lkBase 4) 0 = false ∧ lyOpenPset (lyOf open4 4) 0 = true) := by
  constructorm* _ ∧ _ <;> decide +kernel

def secs0 : SectorData := { addr := homeAddr 0 desc0 1, sectors := [(List.replicate 32 1, false), (List.replicate 32 2, true)] }
def resvS : State := ly4 (fun l => { l with acks := [ack4 9] })
def resvR : State := ly4 (fun l => { l with racks := [ack4 9] })
def outcomes : List LyOutcome := [.clean, .linkCe, .linkUe, .clean, .clean, .clean, .clean, .linkUe]
def answerS : State := ly4 (fun l => { l with answers := [secs0], wrAcks := 1, srDones := 1, healths := [[1]] })
def replayS : State := ly4 (fun l => { l with replays := 1025 })

theorem witness_CompanionAccessesTakeEffect :
    (outcomes.length = 8 ∧ onComp 4 (homeAddr 0 desc0 1) (32 * 8) = true ∧ homeAddr 0 desc0 1 % 256 + 32 * 8 ≤ 256 ∧
      homeAddr 0 desc0 1 % 32 = 0 ∧ (∀ o ∈ outcomes, o = .clean ∨ o = .linkCe ∨ o = .linkUe)) ∧
    (stopped down4 = false ∧ down4.rc.need = [] ∧ portUp down4 4 = false ∧ down4.rc.mshr = []) ∧
    (∀ s ∈ [lkBase, resvS, resvR, answerS, replayS], stopped s = false ∧ s.rc.need = [] ∧ portUp s 4 = true ∧
      (lyOf s 4).selfRef = false ∧ s.pwr.restart ≠ .running ∧ s.rc.mshr = [] ∧ (lyOf s 4).updq = []) ∧
    (Memory.wf lkBase.mem = true ∧ onComp 4 secs0.addr (32 * secs0.sectors.length) = true ∧ secs0.addr % 32 = 0 ∧ secs0.sectors ≠ [] ∧
      secs0.sectors[0]? = some (List.replicate 32 1, false)) ∧
    (onComp 4 (homeAddr 0 desc0 1) 32 = true ∧ (1 : W32).getLsbD 0 = true ∧ (1 : W32).getLsbD 31 = false) ∧
    (stopped rowBehind = false ∧ rowBehind.rc.need = [] ∧ portUp rowBehind 4 = true ∧ (lyOf rowBehind 4).selfRef = false ∧
      (lyOf rowBehind 4).updq ≠ []) ∧
    (frameReserved 0x3C = true ∧ frameReserved 0x20 = false ∧ 9 ≤ (9 : BitVec 4).toNat ∧ (lyOf resvS 4).acks = [ack4 9] ∧
      (scatGo (ackTake (setLy (bump1 resvS (ctrCompLyProtoErr 4)) 4 { lyOf resvS 4 with acks := [] }) 4 { ack4 9 with result := 5 })).rc.need = [] ∧
      (lyOf resvR 4).acks = [] ∧ (lyOf resvR 4).racks = [ack4 9] ∧ 1024 < (lyOf replayS 4).replays) ∧
    (takeFirst (fun x => x == secs0) (lyOf answerS 4).answers = some (secs0, []) ∧
      (fillSectors (setLy answerS 4 { lyOf answerS 4 with answers := [] }) secs0).rc.need = [] ∧
      takeFirst (fun x => x == [1]) (lyOf answerS 4).healths = some ([1], [])) := by
  constructorm* _ ∧ _ <;> decide +kernel

/-! ### Witnesses: REPLACE, swaps, migration, epochs -/

def srcKind : SrcRead → Nat
  | .ok _ _ false => 0
  | .ok _ _ true => 1
  | .wait _ => 2
  | .denied => 3
  | .lost => 4
def srcState : SrcRead → State
  | .ok t _ _ => t
  | .wait t => t
  | _ => State.reset
def srcData : SrcRead → List Byte
  | .ok _ l _ => l
  | _ => []
/-- REPLACE of row 1 from a BF16 source, or from an encoded one (bit 21). -/
def rpW (src enc : W64) : List W64 := [3 + 5 * 256 + enc * 2 ^ 21 + (1 - enc) * 3 * 2 ^ 22, 1, src, 0, 0, 0, 0, 0]
def rpC (src enc : W64) : Cmd := cmd0 (rpW src enc) 3
/-- The source at 0x18000 is zeros, and at 0x19000 an encoded slice; VA 0x20000 is a page of the host's. -/
def rpBase : State := poke lkBase 0x39000 slice0
def hostBase (st : Nat) : State := { rpBase with
  hp := { rpBase.hp with state := st },
  xlt := { rpBase.xlt with ranges := [(0, range0), (1, { range0 with start := 2, host := true })] } }
def rpS (s : State) (src enc : W64) : State := withCmd0 s (rpC src enc)
def rpWait (src enc : W64) : Cmd := { rpC src enc with phase := .waiting }
def rpWS (src enc : W64) : State := withCmd0 rpBase (rpWait src enc)
def rpBadC : Cmd := cmd0 [3 + 5 * 256 + 3 * 2 ^ 24, 1, 0x18000, 0, 0, 0, 0, 0] 3
def rpRowC : Cmd := cmd0 [3 + 5 * 256 + 3 * 2 ^ 22, 8, 0x18000, 0, 0, 0, 0, 0] 3
def rpClsC : Cmd := cmd0 [3 + 5 * 256 + 2 * 2 ^ 22, 1, 0x18000, 0, 0, 0, 0, 0] 3
/-- A SCATTER delivers on the descriptor; the source of a waiting command that a host gave. -/
def lockS : State := { rpWS 0x18000 0 with sc := (dS { dJ with ubatch := some 3 }).sc }
def rpHad : Cmd := { rpWait 0x18000 0 with src := some (List.replicate 64 0) }
/-- An encoded slice of class 0, of two lines, at the range's last line and at 0x19000; one that is not populated; a
poisoned source. -/
def wideS (s : State) (a : Nat) : State := poke s a (mkHdr 0 0 0 0 false true false false 0)
def badMem (s : State) (a : Nat) : State := { s with mem := { s.mem with ueF := [a / 32] } }
def rdAgain (s : State) (src : W64) : SrcRead :=
  let r := rpRead s (rpC src 1) 9
  rpRead (srcState r) (rpC src 1) (slotSize (slClass (srcData r)) 32)

/-- A pool of four slots of 64 bytes, one of them row 1's. -/
def cutBase : State := { lkBase with alm := { lkBase.alm with cut := [(0 * 128 + 2, poolBase lkBase, 4)] } }
def promS : State := (promoteRow cutBase 0 1 3 false).1

/-- A second version of table 5, loading as version 2. -/
def swBase : State := { lkBase with
  tabs := { tabs0 with descs := [(0, desc0), (1, { desc0 with dstate := 1, tver := 2, homeOff := 0x140000, stateOff := 0x240000 })] } }
def swW (res : W64) : List W64 := [4 + 5 * 256 + res * 2 ^ 21, 2 + 1 * 2 ^ 16, 0, 0, 0, 0, 0, 0]
def swC (res : W64) (p : Phase) : Cmd := { cmd0 (swW res) 4 with phase := p, plan := 1, pver := 0 }
def swS (res : W64) (p : Phase) : State := withCmd0 swBase (swC res p)
def swScat : State := { swS 0 .fetched with orr := { (swS 0 .fetched).orr with
  cmds := [swC 0 .fetched, { scC scWMap with cid := 2, phase := .running }] } }
/-- Row 1 of the old version is promoted, and the swap asks for the warm set, which TABLE_PARAMS may hold. -/
def warmBase (held : Bool) : State := { swBase with
  mem := promS.mem, rc := promS.rc, alm := promS.alm,
  mer := { swBase.mer with lruns := if held then [.params 0 1 0 0 0 0 0] else [] } }
def warmC : Cmd := cmd0 [4 + 5 * 256 + 2 ^ 20, 2 + 1 * 2 ^ 16, 0, 0, 0, 0, 0, 0] 4
def warmC2 : Cmd := { warmC with phase := .waiting, plan := 1, pver := 0, warm := some [(1, 3)] }
def swWarmed (s : State) (c : Cmd) : State × List (Nat × Nat) :=
  swWarm 1 (if bit (c.w 0) 20 then warmSet (swLoad s 1) 0 1 else []) (swLoad s 1)
def retS (l : List Retired) : State := { swBase with
  tabs := { swBase.tabs with descs := [(0, { desc0 with dstate := 3 })], binding := [] }, alm := { swBase.alm with retire := l } }
def retProm : State := { promS with tabs := { promS.tabs with descs := [(0, { desc0 with dstate := 3 })], binding := [] } }
/-- A FREE descriptor with one TOMBSTONE. -/
def freeS : State := poke { lkBase with tabs := { lkBase.tabs with descs := [], binding := [] } }
  (bucketAddr lkBase (almBucket lkBase 0 1 0)) { almEnt with state := 2 }.bytes

theorem witness_ReplaceCommandsTakeEffect :
    (stopped (rpS rpBase 0x18000 0) = false ∧ (rpS rpBase 0x18000 0).rc.need = [] ∧ cmdOf (rpS rpBase 0x18000 0) 1 = some (rpC 0x18000 0) ∧
      (rpC 0x18000 0).badLine = false ∧ (rpC 0x18000 0).op = 3 ∧ mayStart (rpS rpBase 0x18000 0) (rpC 0x18000 0) = true) ∧
    (rpFields rpBadC = false ∧ rpFields rpRowC = true ∧ rpResolve (withCmd0 rpBase rpRowC) rpRowC = none ∧ rpFields rpClsC = true ∧
      rpResolve (withCmd0 rpBase rpClsC) rpClsC = some (0, desc0) ∧ rpClassOk (withCmd0 rpBase rpClsC) rpClsC desc0 = false) ∧
    (rpFields (rpC 0x18000 0) = true ∧ rpResolve (rpS rpBase 0x18000 0) (rpC 0x18000 0) = some (0, desc0) ∧
      rpClassOk (rpS rpBase 0x18000 0) (rpC 0x18000 0) desc0 = true ∧ rpEncoded (rpC 0x18000 0) = false ∧
      srcKind (rpRead (rpS rpBase 0x18000 0) (rpC 0x18000 0) (2 * desc0.cols)) = 0 ∧
      (srcState (rpRead (rpS rpBase 0x18000 0) (rpC 0x18000 0) (2 * desc0.cols))).rc.need = [] ∧
      srcKind (rpRead (badMem (rpS rpBase 0x18000 0) 0x38000) (rpC 0x18000 0) (2 * desc0.cols)) = 1 ∧
      (srcState (rpRead (badMem (rpS rpBase 0x18000 0) 0x38000) (rpC 0x18000 0) (2 * desc0.cols))).rc.need = []) ∧
    (srcKind (rpRead (rpS rpBase 0x20000 0) (rpC 0x20000 0) (2 * desc0.cols)) = 3 ∧
      srcKind (rpRead (rpS (hostBase 1) 0x20000 0) (rpC 0x20000 0) (2 * desc0.cols)) = 4 ∧
      srcKind (rpRead (rpS (hostBase 0) 0x20000 0) (rpC 0x20000 0) (2 * desc0.cols)) = 2 ∧
      (srcState (rpRead (rpS (hostBase 0) 0x20000 0) (rpC 0x20000 0) (2 * desc0.cols))).rc.need = []) ∧
    (rpFields (rpC 0x19000 1) = true ∧ rpResolve (rpS rpBase 0x19000 1) (rpC 0x19000 1) = some (0, desc0) ∧
      rpClassOk (rpS rpBase 0x19000 1) (rpC 0x19000 1) desc0 = true ∧
      rpEncoded (rpC 0x19000 1) = true ∧ (8 + desc0.cols / 32 = 9) ∧ srcKind (rpRead (rpS rpBase 0x19000 1) (rpC 0x19000 1) 9) = 0 ∧
      slClass (srcData (rpRead (rpS rpBase 0x19000 1) (rpC 0x19000 1) 9)) = 3 ∧
      srcKind (rdAgain (rpS rpBase 0x19000 1) 0x19000) = 0 ∧ (srcState (rdAgain (rpS rpBase 0x19000 1) 0x19000)).rc.need = [] ∧
      rpSliceOk (srcState (rdAgain (rpS rpBase 0x19000 1) 0x19000)) desc0 (srcData (rdAgain (rpS rpBase 0x19000 1) 0x19000)) = true ∧
      srcKind (rdAgain (rpS rpBase 0x18000 1) 0x18000) = 0 ∧ (srcState (rdAgain (rpS rpBase 0x18000 1) 0x18000)).rc.need = [] ∧
      rpSliceOk (srcState (rdAgain (rpS rpBase 0x18000 1) 0x18000)) desc0 (srcData (rdAgain (rpS rpBase 0x18000 1) 0x18000)) = false ∧
      srcKind (rdAgain (badMem (wideS (rpS rpBase 0x18000 1) 0x38000) 0x38040) 0x18000) = 1) ∧
    (∀ s ∈ [rpS rpBase 0x1FFC0 1, rpS (hostBase 1) 0x1FFC0 1, rpS (hostBase 0) 0x1FFC0 1],
      rpFields (rpC 0x1FFC0 1) = true ∧ rpResolve (wideS s 0x3FFC0) (rpC 0x1FFC0 1) = some (0, desc0) ∧
      rpClassOk (wideS s 0x3FFC0) (rpC 0x1FFC0 1) desc0 = true ∧ srcKind (rpRead (wideS s 0x3FFC0) (rpC 0x1FFC0 1) 9) = 0) ∧
    (srcKind (rdAgain (wideS (rpS rpBase 0x1FFC0 1) 0x3FFC0) 0x1FFC0) = 3 ∧
      srcKind (rdAgain (wideS (rpS (hostBase 1) 0x1FFC0 1) 0x3FFC0) 0x1FFC0) = 4 ∧
      srcKind (rdAgain (wideS (rpS (hostBase 0) 0x1FFC0 1) 0x3FFC0) 0x1FFC0) = 2 ∧
      (srcState (rdAgain (wideS (rpS (hostBase 0) 0x1FFC0 1) 0x3FFC0) 0x1FFC0)).rc.need = []) ∧
    (stopped lockS = false ∧ cmdOf lockS 1 = some (rpWait 0x18000 0) ∧ (rpWait 0x18000 0).phase = .waiting ∧
      rpMayRun lockS (rpWait 0x18000 0) = false ∧ lockS.rc.need = [] ∧ descOf lockS (rpWait 0x18000 0).plan = desc0) ∧
    (stopped (withCmd0 rpBase rpHad) = false ∧ cmdOf (withCmd0 rpBase rpHad) 1 = some rpHad ∧ rpHad.badLine = false ∧ rpHad.op = 3 ∧
      rpHad.phase = .waiting ∧ rpMayRun (withCmd0 rpBase rpHad) rpHad = true ∧ rpHad.src = some (List.replicate 64 0) ∧
      (rpGo (withCmd0 rpBase rpHad) rpHad rpHad.plan desc0 (List.replicate 64 0)).rc.need = []) ∧
    (stopped (rpWS 0x18000 0) = false ∧ rpMayRun (rpWS 0x18000 0) (rpWait 0x18000 0) = true ∧ (rpWait 0x18000 0).src = none ∧
      descOf (rpWS 0x18000 0) (rpWait 0x18000 0).plan = desc0 ∧
      srcKind (rpRead (rpWS 0x18000 0) (rpWait 0x18000 0) (2 * desc0.cols)) = 0 ∧
      (rpGo (srcState (rpRead (rpWS 0x18000 0) (rpWait 0x18000 0) (2 * desc0.cols))) (rpWait 0x18000 0) 0 desc0
        (srcData (rpRead (rpWS 0x18000 0) (rpWait 0x18000 0) (2 * desc0.cols)))).rc.need = []) ∧
    (rpMayRun (rpWS 0x19000 1) (rpWait 0x19000 1) = true ∧ srcKind (rpRead (rpWS 0x19000 1) (rpWait 0x19000 1) 9) = 0 ∧
      srcKind (rpRead (srcState (rpRead (rpWS 0x19000 1) (rpWait 0x19000 1) 9)) (rpWait 0x19000 1) 64) = 0 ∧
      srcData (rpRead (srcState (rpRead (rpWS 0x19000 1) (rpWait 0x19000 1) 9)) (rpWait 0x19000 1) 64) = slice0 ∧
      slotSize 3 32 = 64 ∧ rpSliceOk rpBase desc0 slice0 = true ∧
      rpSliceOk (srcState (rpRead (rpWS 0x19000 1) (rpWait 0x19000 1) 64)) desc0 slice0 = true ∧
      (rpGo (srcState (rpRead (rpWS 0x19000 1) (rpWait 0x19000 1) 64)) (rpWait 0x19000 1) 0 desc0 slice0).rc.need = []) := by
  constructorm* _ ∧ _ <;> decide +kernel

theorem witness_SWAP_VERSION :
    (∀ s ∈ [swS 0 .fetched, swScat, { swS 0 .fetched with pwr := { swBase.pwr with park := .parked } }],
      stopped s = false ∧ s.rc.need = [] ∧ cmdOf s 1 = some (swC 0 .fetched)) ∧
    ((swC 0 .fetched).badLine = false ∧ (swC 0 .fetched).op = 4 ∧
      Machine.live { swS 0 .fetched with pwr := { swBase.pwr with park := .parked } } = false ∧ Machine.live (swS 0 .fetched) = true ∧
      mayStart (swS 0 .fetched) (swC 0 .fetched) = true ∧ (swC 0 .fetched).warm = none ∧ swFields (swC 0 .fetched) = true ∧
      swFields (swC 1 .fetched) = false ∧ mayStart (swS 1 .fetched) (swC 1 .fetched) = true ∧
      swResolve (swS 0 .fetched) (swC 0 .fetched) = some (0, 1) ∧ swResolve (withCmd0 lkBase (swC 0 .fetched)) (swC 0 .fetched) = none ∧
      Machine.live swScat = true ∧ mayStart swScat (swC 0 .fetched) = true ∧
      swScatters swScat 5 = true ∧ (swC 0 .fetched).f 0 8 12 = 5 ∧ swResolve swScat (swC 0 .fetched) = some (0, 1) ∧
      swScatters (swS 0 .fetched) 5 = false ∧
      (swWarmed (swS 0 .fetched) (swC 0 .fetched)).1.rc.need = [] ∧ (swWarmed (swS 0 .fetched) (swC 0 .fetched)).2 = []) ∧
    (∀ h ∈ [true, false], stopped (withCmd0 (warmBase h) warmC) = false ∧ (withCmd0 (warmBase h) warmC).rc.need = [] ∧
      Machine.live (withCmd0 (warmBase h) warmC) = true ∧ mayStart (withCmd0 (warmBase h) warmC) warmC = true ∧ swFields warmC = true ∧
      swResolve (withCmd0 (warmBase h) warmC) warmC = some (0, 1) ∧ swScatters (withCmd0 (warmBase h) warmC) 5 = false ∧
      (swWarmed (withCmd0 (warmBase h) warmC) warmC).1.rc.need = [] ∧
      (swWarmed (withCmd0 (warmBase h) warmC) warmC).2 = (if h then [(1, 3)] else []) ∧
      cmdOf (withCmd0 (warmBase h) warmC2) 1 = some warmC2 ∧ Machine.live (withCmd0 (warmBase h) warmC2) = true ∧
      (swWarm 1 [(1, 3)] (withCmd0 (warmBase h) warmC2)).1.rc.need = []) ∧
    (stopped (swS 0 .running) = false ∧ cmdOf (swS 0 .running) 1 = some (swC 0 .running) ∧ Machine.live (swS 0 .running) = true ∧
      (swC 0 .running).phase = .running ∧ swResolve (swS 0 .running) (swC 0 .running) = some ((swC 0 .running).pver, (swC 0 .running).plan) ∧
      (finish (bindDesc (retireDesc (swS 0 .running) 0) 1) 1).rc.need = [] ∧
      swResolve (withCmd0 lkBase (swC 0 .running)) (swC 0 .running) ≠ some ((swC 0 .running).pver, (swC 0 .running).plan)) ∧
    (stopped (retS []) = false ∧ (descOf (retS []) 0).dstate = 3 ∧ 0 ∉ (retS []).orr.retiring ∧ descBound (retS []) 0 = false ∧
      merUp (retS []) = true ∧ Machine.live (retS []) = true ∧
      almOf (retS []) 0 = [] ∧ (freeDesc { retS [] with orr := { (retS []).orr with retiring := sins (retS []).orr.retiring 0 } } 0).rc.need = [] ∧
      almOf (retS [{ addr := 4, size := 64, epoch := 0, desc := 0 }]) 0 = [] ∧
      (retS [{ addr := 4, size := 64, epoch := 0, desc := 0 }]).alm.retire.any (fun r => r.desc == 0) = true ∧
      (retS [{ addr := 4, size := 64, epoch := 0, desc := 0 }]).rc.need = []) ∧
    ((descOf lkBase 0).dstate ≠ 3 ∧ lkBase.rc.need = [] ∧ (descOf lkBase 0).dstate ≠ 0) ∧
    (stopped freeS = false ∧ (descOf freeS 0).dstate = 0 ∧ merUp freeS = true ∧ Machine.live freeS = true ∧ freeS.pwr.sl = 3 ∧
      (almEntries freeS (fun e => e.state == 2 && e.desc == 0)).length = 1 ∧
      ((almEntries freeS (fun e => e.state == 2 && e.desc == 0)).foldl (fun u p =>
        if probedPast u p.bucket then u else writeEnt u p.bucket p.idx (AEnt.ofNat 0)) freeS).rc.need = []) := by
  constructorm* _ ∧ _ <;> decide +kernel

/-- The journal's share of the row's quadrant is full, so the promoted row's entry stays. -/
def jrec0 : JRec := { quad := ownerQuad 0 desc0 1, idx := 0, desc := 0, row := 1, shadow := 0, old := none, stage := .alloc, epoch := 0, commit := false }
def jfull (s : State) : State := { s with alm := { s.alm with journal := List.replicate 4032 jrec0 } }

theorem journal_full (s : State) : journalRoom (jfull s) (ownerQuad 0 desc0 1) false = false := by
  have h : journalUse (jfull s) (ownerQuad 0 desc0 1) false = 4032 := by
    show ((List.replicate 4032 jrec0).filter _).length = 4032
    rw [List.filter_replicate]
    have : (jrec0.quad == ownerQuad 0 desc0 1 && jrec0.commit == false) = true := by decide +kernel
    simp only [this, if_true, List.length_replicate]
  simp only [journalRoom, h]; rfl

theorem witness_TOMBSTONE_RETIRING : stopped (jfull retProm) = false ∧ (descOf (jfull retProm) 0).dstate = 3 ∧
    0 ∉ (jfull retProm).orr.retiring ∧ descBound (jfull retProm) 0 = false ∧ merUp (jfull retProm) = true ∧
    Machine.live (jfull retProm) = true ∧ almOf ((almOf (jfull retProm) 0).foldl retireOne (jfull retProm)) 0 ≠ [] ∧
    ((almOf (jfull retProm) 0).foldl retireOne (jfull retProm)).rc.need = [] := by
  have h1 : ∀ p : APlace, p.ent.desc = 0 → p.ent.row = 1 → retireOne (jfull retProm) p = jfull retProm := by
    intro p hd hr
    have hq : ownerQuad p.ent.desc (descOf (jfull retProm) p.ent.desc) p.ent.row = ownerQuad 0 desc0 1 := by
      rw [hd, hr]; decide +kernel
    simp only [retireOne, hq, journal_full]; rfl
  have h2 : ∀ p ∈ almOf (jfull retProm) 0, p.ent.desc = 0 ∧ p.ent.row = 1 := by decide +kernel
  have h3 : (almOf (jfull retProm) 0).foldl retireOne (jfull retProm) = jfull retProm := by
    generalize almOf (jfull retProm) 0 = l at h2
    induction l with
    | nil => rfl
    | cons p l ih =>
      have hp := h2 p (List.mem_cons_self ..)
      simp only [List.foldl_cons, h1 p hp.1 hp.2]
      exact ih (fun q hq => h2 q (List.mem_cons_of_mem _ hq))
  rw [h3]
  constructorm* _ ∧ _ <;> decide +kernel

def opS (o : MigOp) : State := { cutBase with load := { cutBase.load with ops := [o] } }
def opW (o : MigOp) : State := { opS o with load := { (opS o).load with ops := [] } }
def opP (o : MigOp) : State := { promS with load := { promS.load with ops := [o] } }
def opPW (o : MigOp) : State := { opP o with load := { (opP o).load with ops := [] } }
def copyS : State := { cutBase with alm := { cutBase.alm with copies := [(0, 1, slice0)] } }

theorem witness_MigrationOperationsTakeEffect :
    (stopped (opS (.promote 0 1 3)) = false ∧ MigOp.promote 0 1 3 ∈ (opS (.promote 0 1 3)).load.ops ∧
      rowOpFree (opS (.promote 0 1 3)) 0 = true ∧ journalRoom (opS (.promote 0 1 3)) (ownerQuad 0 (descOf cutBase 0) 1) false = true ∧
      Machine.live (opS (.promote 0 1 3)) = true ∧ (descOf (opS (.promote 0 1 3)) 0).dstate = 2 ∧
      (opS (.promote 0 1 3)).load.ops.erase (.promote 0 1 3) = (opW (.promote 0 1 3)).load.ops) ∧
    ((probe (opW (.promote 0 1 3)) 0 1).2 = none ∧
      (promoteRow (probe (opW (.promote 0 1 3)) 0 1).1 0 1 3 false).1.rc.need = [] ∧
      (probe (opPW (.promote 0 1 3)) 0 1).2.isSome = true ∧ (probe (opPW (.promote 0 1 3)) 0 1).1.rc.need = []) ∧
    (∀ o ∈ [MigOp.promote 0 1 3, .demote 0 1, .move 0 1, .reclass 0 1 3, .pin 0 1 true], stopped (opP o) = false ∧
      o ∈ (opP o).load.ops ∧ rowOpFree (opP o) 0 = true ∧ journalRoom (opP o) (ownerQuad 0 (descOf (opP o) 0) 1) false = true ∧
      Machine.live (opP o) = true ∧ (descOf (opP o) 0).dstate = 2 ∧ (opP o).load.ops.erase o = (opPW o).load.ops) ∧
    (demoteRow (opPW (.demote 0 1)) 0 1 (clampCls (opPW (.demote 0 1)) 0 3) false).rc.need = [] ∧
    (coolPch (opP (.move 0 1)) 0 = true ∧ onPch (opP (.move 0 1)) 0 1 0 = false ∧ coolPch (opP (.move 0 1)) 383 = false ∧
      (moveRow (opPW (.move 0 1)) 0 1 0).rc.need = []) ∧
    (reclassRow (opPW (.reclass 0 1 3)) 0 1 3).rc.need = [] ∧ (pinRow (opPW (.pin 0 1 true)) 0 1 true).rc.need = [] ∧
    (stopped lockS = false ∧ lockS.rc.need = [] ∧ rowOpFree lockS 0 = false) ∧
    (stopped copyS = false ∧ journalRoom copyS (ownerQuad 0 (descOf copyS 0) 1) true = true ∧ Machine.live copyS = true ∧
      takeFirst (fun c => c.1 == 0 && c.2.1 == 1) copyS.alm.copies = some ((0, 1, slice0), []) ∧ (installNext copyS 0 1).rc.need = []) ∧
    (Machine.live { copyS with pwr := { copyS.pwr with park := .parked } } = false ∧
      stopped { copyS with pwr := { copyS.pwr with park := .parked } } = false) := by
  constructorm* _ ∧ _ <;> decide +kernel

def epochS : State := { lkBase with alm := { lkBase.alm with
  used := [(4, 64), (8, 64)],
  retire := [{ addr := 4, size := 64, epoch := 0, desc := 0 }, { addr := 8, size := 64, epoch := 0xFFFFFFFF, desc := 0 }] } }
def parkedS : State := { lkBase with pwr := { lkBase.pwr with park := .parked } }

theorem witness_EpochsAndWindowsTakeEffect :
    (stopped epochS = false ∧ epochS.pwr.sl = 3 ∧ epochDue epochS = true ∧ Machine.live epochS = true ∧
      (closeEpoch epochS).rc.need = [] ∧ epochS.orr.retiring = []) ∧
    (stopped (gS uPend) = false ∧ (gS uPend).rc.need = [] ∧ epochDue (gS uPend) = false ∧
      Machine.live (gS uPend) = true ∧ 0 ∉ (gS uPend).alm.passed ∧ 0 ∉ (gS uPend).alm.draining ∧ tileQuiet (gS uPend) 0 = false ∧
      tileQuiet (gS uPend) 47 = true ∧ 48 ≤ (51 : Fin 52).val ∧ 51 ∉ (gS uPend).alm.passed ∧ 51 ∉ (gS uPend).alm.draining) ∧
    (stopped lkBase = false ∧ lkBase.rc.need = [] ∧ lkBase.pwr.park ≠ .parked ∧ lkBase.pwr.park ≠ .waking) ∧
    (stopped parkedS = false ∧ parkedS.rc.need = [] ∧ parkedS.pwr.park = .parked ∧ Machine.live parkedS = false) ∧
    (merUp lkBase = true ∧ Machine.live lkBase = true ∧ lkBase.pwr.sl = 3) := by
  constructorm* _ ∧ _ <;> decide +kernel

/-! ### Witnesses: streams, extents and the chip port -/

/-- Stream 255 under way for command 1 over the lists of `lkBase`. -/
def strmX (st : SState) (k : Nat) (cur : Option BlEntry) : Strm := { Strm.reset with
  d := { SDesc.reset with kind := k, queue := 0, count := if cur.isSome then 1 else 0, wgroup := 3, bl := 0x14000, credits := 1, tile := 47 },
  st := st, bound := some 1, cur := cur, moved := if cur.isSome then 64 else 0 }
def strmC : Cmd := { cmd0 [0, 0, 0, 0, 0, 0, 0, 0] 0 with phase := .running, opc := 0x80 }
def strmSt (x : Strm) : State :=
  let s := withCmd0 lkBase strmC
  { s with str := { s.str with streams := [(255, x)] } }
def ble (src : Nat) : BlEntry := { src := src, dst := 0x16000, len := 64 }
/-- An entry whose source no range covers, not yet begun. -/
def missX : Strm := { strmX .running 0 (some (ble 0x20000)) with moved := 0 }
def stall (lc : Bool) (va : Nat) : Stalled := { addr := va, right := 0, lc := lc, engine := 47, req := .stream 255 }
def fe0 (va : Nat) : FaultEnt := {
  fid := 0, addr := va, acc := 0, lc := false, waiters := [], stream := 255, queue := 0, nwait := 0, reqs := [.stream 255] }
def stallS (l : List Stalled) (f : List FaultEnt) : State := { lkBase with str := { lkBase.str with stalled := l, faults := f } }
def groupX (q : Nat) : Strm := { strmX .waiting 0 none with quiet := q }
def groupS (q : Nat) (ro : Bool) (rep : List Nat) : State :=
  let s := strmSt (groupX q)
  { s with str := { s.str with reportOnly := ro, groupRep := rep } }

/-- What `streamEntry` starts from on stream 255's turn. -/
def turned (s : State) : State := { s with str := { s.str with turn := mset s.str.turn 47 255 } }
def mine255 (s : State) : Bool := (turnOrder s 47).find? (strmRunnable s) == some 255
/-- A producer with a line that is not visible: the host port holds its line MODIFIED. -/
def flushX (n : Nat) (cur : Option BlEntry) : Strm :=
  let x := strmX .running 0 cur
  { x with d := { x.d with lrole := 2, linkcap := 1, semP := 4, semC := 5 }, lines := n }
def flushS (n : Nat) (cur : Option BlEntry) : State :=
  let s := strmSt (flushX n cur)
  { s with hp := { s.hp with lines := [(0, { addr := 7, st := .modified, poison := false, data := List.replicate 64 5, cids := [1] })] } }
/-- An entry under way whose reads have the right to the range, or whose range has lost it. -/
def readX : Strm := { strmX .running 0 (some (ble 0x14000)) with moved := 0 }
def noRead : State :=
  let s := strmSt readX
  { s with xlt := { s.xlt with ranges := [(0, { range0 with rd := false })] } }
def fillS (c : FMap (List Nat)) : State := { lkBase with xlt := { lkBase.xlt with caches := c } }
/-- Every fault entry that a BE request may have is taken. -/
def stallFull : State := stallS [stall false 0x20000] ((List.range 56).map (fun i => fe0 ((i + 2) * 0x200000)))

theorem witness_StreamEventsTakeEffect :
    (∀ s ∈ [strmSt (strmX .running 0 none), strmSt (strmX .running 1 none), strmSt (strmX .running 0 (some (ble 0x14000))),
        flushS 64 (some (ble 0x14000)), flushS 1 none],
      stopped s = false ∧ s.rc.need = [] ∧ strmTile 255 (strmOf s 255).d = 47 ∧ mine255 s = true) ∧
    (mine255 (strmSt (strmX .idle 0 none)) = false ∧ stopped (strmSt (strmX .idle 0 none)) = false ∧
      (strmSt (strmX .idle 0 none)).rc.need = []) ∧
    ((streamEntry (turned (strmSt readX)) 255).rc.need = [] ∧ mine255 (strmSt readX) = true) ∧
    (strmProduces (strmX .running 0 none).d = false ∧ (strmX .running 0 none).cur = none ∧
      (strmX .running 0 none).d.count ≤ (strmX .running 0 none).entry ∧
      (strmX .running 0 none).total % 64 = 0 ∧ strmOf (strmSt (strmX .running 0 none)) 255 = strmX .running 0 none ∧
      strmProduces (strmX .running 1 none).d = true ∧ (strmX .running 1 none).lines ≤ (strmX .running 1 none).added) ∧
    ((ble 0x14000).len ≤ (strmX .running 0 (some (ble 0x14000))).moved ∧
      strmProduces (strmX .running 0 (some (ble 0x14000))).d = false) ∧
    (∀ s ∈ [flushS 64 (some (ble 0x14000)), flushS 1 none], strmProduces (strmOf s 255).d = true ∧
      (strmOf s 255).added < (strmOf s 255).lines ∧ strmVisible s 255 = false ∧
      (64 ≤ (strmOf s 255).lines - (strmOf s 255).added ∨ (strmOf s 255).cur = none) ∧ (strmFlush (turned s) 255).rc.need = []) ∧
    (∀ k ∈ [2, 3, 4], stopped (strmSt (strmX .waiting k none)) = false ∧ (strmSt (strmX .waiting k none)).rc.need = [] ∧
      (strmOf (strmSt (strmX .waiting k none)) 255).st = .waiting ∧ (strmSt (strmX .waiting k none)).pwr.park = .running ∧
      (strmSt (strmX .waiting k none)).pwr.restart ≠ .running ∧ (strmX .waiting k none).d.kind = k) ∧
    ((streamEntry (strmSt (strmX .waiting 2 none)) 255).rc.need = [] ∧
      (strmX .waiting 3 none).bound = some 1 ∧ (lkEnd (pump (strmSt (strmX .waiting 3 none)) 255) 1).rc.need = [] ∧
      (pump (strmSt { strmX .waiting 3 none with bound := none }) 255).rc.need = [] ∧
      mayConsume (strmSt (strmX .waiting 4 none)) (strmX .waiting 4 none) = false ∧ (strmX .idle 0 none).st ≠ .waiting) ∧
    (rangeAt lkBase false (0x1FFFF : BitVec 52).toNat = some (0, range0) ∧ rangeAt lkBase false (0x10000 : BitVec 52).toNat = some (0, range0) ∧
      mget? lkBase.xlt.ranges 0 = some range0 ∧ 0 ∉ mget lkBase.xlt.caches 48 [] ∧ 0 ∈ mget (fillS [(47, [0])]).xlt.caches 47 [] ∧
      rangeAt lkBase false (0x20000 : BitVec 52).toNat = none ∧ rangeAt lkBase false (0xFFFF : BitVec 52).toNat = none ∧
      hasRight range0 2 = true ∧ hasRight { range0 with at' := false } 2 = false) ∧
    (rangeAt noRead false (0x14000 : BitVec 52).toNat = some (0, { range0 with rd := false }) ∧ hasRight { range0 with rd := false } 0 = false ∧
      stopped noRead = false ∧ noRead.rc.need = [] ∧ (streamEntry noRead 255).rc.need = [] ∧
      ((strmOf (streamEntry noRead 255) 255).bound.bind (cmdOf (streamEntry noRead 255))).any (fun c => c.fail == some 0x11) = true) ∧
    (rangeAt (strmSt missX) false (0x20000 : BitVec 52).toNat = none ∧ (strmOf (streamEntry (strmSt missX) 255) 255).st = .faultParked ∧
      (streamEntry (strmSt missX) 255).rc.need = []) ∧
    ((∀ x ∈ (stallS [] []).str.stalled, faultFor (stallS [] []) x.addr = none ∧ faultRoom (stallS [] []) x.lc = false) ∧
      (∀ x ∈ stallFull.str.stalled, faultFor stallFull x.addr = none ∧ faultRoom stallFull x.lc = false) ∧ stallFull.str.stalled ≠ [] ∧
      stopped stallFull = false ∧ stallFull.rc.need = [] ∧
      (stallS [stall true 0x20000] []).str.stalled.find? (fun x => x.lc &&
        ((faultFor (stallS [stall true 0x20000] []) x.addr).isSome || faultRoom (stallS [stall true 0x20000] []) x.lc)) = some (stall true 0x20000) ∧
      faultFor (stallS [stall true 0x20000] []) 0x20000 = none ∧
      (stallS [stall false 0x20000] [fe0 0x30000]).str.stalled.find? (fun x => x.lc &&
        ((faultFor (stallS [stall false 0x20000] [fe0 0x30000]) x.addr).isSome || faultRoom (stallS [stall false 0x20000] [fe0 0x30000]) x.lc)) = none ∧
      (stallS [stall false 0x20000] [fe0 0x30000]).str.stalled.find? (fun x => !x.lc &&
        ((faultFor (stallS [stall false 0x20000] [fe0 0x30000]) x.addr).isSome || faultRoom (stallS [stall false 0x20000] [fe0 0x30000]) x.lc)) =
          some (stall false 0x20000) ∧
      faultFor (stallS [stall false 0x20000] [fe0 0x30000]) 0x20000 = some (fe0 0x30000)) ∧
    (∀ s ∈ [groupS 1022 false [], groupS 1023 false [], groupS 1023 false [3], groupS 1023 true []], stopped s = false ∧ s.rc.need = []) ∧
    (groupStuck (groupNote (groupS 1022 false []) 3) 3 = false ∧ groupStuck (groupNote (groupS 1023 false []) 3) 3 = true ∧
      groupStuck (groupNote (groupS 1023 false [3]) 3) 3 = true ∧ 3 ∉ (groupNote (groupS 1023 false []) 3).str.groupRep ∧
      3 ∈ (groupNote (groupS 1023 false [3]) 3).str.groupRep ∧ 3 ∉ (groupNote (groupS 1023 true []) 3).str.groupRep ∧
      (groupS 1023 true []).str.reportOnly = true ∧ groupStuck (groupNote (groupS 1023 true []) 3) 3 = true ∧
      (groupS 1023 false []).str.reportOnly = false ∧
      merUp (groupS 1023 false []) = true ∧ groupVictim (groupNote (groupS 1023 false []) 3) 3 = some (255, groupX 1024) ∧
      strmOf (groupNote (groupS 1023 false []) 3) 255 = groupX 1024 ∧
      (groupX 1024).d.kind < 3 ∧ (groupX 1024).bound = some 1 ∧ cmdOf (groupS 1023 false []) 1 = some strmC ∧ strmC.phase ≠ .done) := by
  constructorm* _ ∧ _ <;> decide +kernel

def extC (op : Nat) (w0 len : W64) : Cmd := cmd0 [BitVec.ofNat 64 op + w0, 0x14000, len, 0, 0, 0, 0, 0] op
def extS (op : Nat) (w0 len : W64) : State := withCmd0 lkBase (extC op w0 len)
def cpr (op : BitVec 2) (va : BitVec 52) : CpRequest := { id := 1, va := va, len := 4, op := op, data := [1, 0, 0, 0], poison := false }
/-- The part of a chip-port access that its first range entry translates. -/
def cpPart (r : CpRequest) : State × Except ExtFail Piece := xltPart lkBase 48 (cpRight r) r.va.toNat r.len
def cpState (r : CpRequest) : State := (cpPart r).1
def cpPieces (r : CpRequest) : List Piece := match (cpPart r).2 with
  | .ok p => [p]
  | .error _ => []
/-- The access lies whole in one entry that grants the right. -/
def cpWhole (r : CpRequest) : Bool := (cpPieces r).any (fun p => p.len == r.len)
def cpCuts (r : CpRequest) : List Piece := exGet (cutPieces (cpState r) (.cp r.id) (cpPieces r))
def cpAtom (r : CpRequest) (p : Piece) : State := (atomicTier (cpState r) p.pa (r.op == 3) r.data p.hint).1
/-- A held request of the same address, and an entry that lacks the right. -/
def cpBehind : State := hold lkBase (.chipPort (cpr 0 0x14000))
def cpDenied : State := { lkBase with xlt := { lkBase.xlt with ranges := [(0, { range0 with at' := false })] } }
def recvX : Strm := { strmX .idle 4 none with d := { (strmX .idle 4 none).d with cpch := 63, linkcap := 1, semC := 5 } }
/-- As many lines staged as the link holds. -/
def recvFull : Strm := { recvX with lines := 1024 }

/-- Its link is CLOSED. -/
def closedS : State :=
  let s := strmSt recvX
  { s with str := { s.str with closedLinks := [{ p := recvX.d.semP, c := 5, pSet := false, cSet := false }] } }

theorem witness_ExtentCommandsAndChipPortTakeEffect :
    (stopped (extS 5 0 1) = false ∧ (extS 5 0 1).rc.need = [] ∧ cmdOf (extS 5 0 1) 1 = some (extC 5 0 1) ∧ (extC 5 0 1).badLine = false ∧
      mayStart (extS 5 0 1) (extC 5 0 1) = true ∧ extCmdOk (extC 5 (3 * 256) 1) = false ∧ extCmdOk (extC 6 0 0) = false ∧
      (extC 6 0 0).op = 6 ∧ mayStart (extS 6 0 0) (extC 6 0 0) = true ∧ mayStart (extS 5 (3 * 256) 1) (extC 5 (3 * 256) 1) = true ∧
      extCmdOk (extC 5 0 1) = true ∧ extCmdOk (extC 6 512 65) = true ∧ extLines (extC 5 0 1) = 1 ∧ extLines (extC 6 512 65) = 2) ∧
    (((List.range (extLines (extC 5 0 1))).foldl (fun u i => prefetchOne (extTile (extS 5 0 1) (extC 5 0 1))
        (BitVec.ofNat 2 ((extC 5 0 1).f 0 8 2)) u ((extC 5 0 1).f 1 0 52 / 64 + i)) (extS 5 0 1)).rc.need = [] ∧
      ((List.range (extLines (extC 6 512 65))).foldl (fun u i => adviseOne (extTile (extS 6 512 65) (extC 6 512 65))
        ((extC 6 512 65).f 0 8 2) u ((extC 6 512 65).f 1 0 52 / 64 + i)) (extS 6 512 65)).rc.need = []) ∧
    ((inPark .parked).pwr.park ≠ .running ∧ stopped (inPark .parked) = false ∧ (inPark .parked).rc.need = [] ∧
      mustWait cpBehind (.chipPort (cpr 1 0x14000)) = true ∧ stopped cpBehind = false ∧ cpBehind.rc.need = []) ∧
    (∀ r ∈ [cpr 0 0x20000, cpr 0 0x1FFFC, cpr 1 0x14000, cpr 2 0x14000, cpr 3 0x14000], mustWait lkBase (.chipPort r) = false ∧ r.len ≠ 0) ∧
    (stopped lkBase = false ∧ lkBase.rc.need = [] ∧ lkBase.pwr.park = .running ∧ lkBase.pwr.restart ≠ .running ∧
      rangeAt lkBase false (cpr 0 0x20000).va.toNat = none ∧
      cpWhole (cpr 0 0x1FFFC) = true ∧ exOk (cutPieces (cpState (cpr 0 0x1FFFC)) (.cp 1) (cpPieces (cpr 0 0x1FFFC))) = true ∧
      rdOk (readCuts (.cp 1) (cpState (cpr 0 0x1FFFC)) (cpCuts (cpr 0 0x1FFFC))) = true ∧
      (rdState (readCuts (.cp 1) (cpState (cpr 0 0x1FFFC)) (cpCuts (cpr 0 0x1FFFC)))).rc.need = [] ∧
      (cpStart lkBase (cpr 0 0x1FFFE)).rc.need = []) ∧
    (mustWait cpDenied (.chipPort (cpr 2 0x14000)) = false ∧ cpDenied.pwr.restart ≠ .running ∧
      rangeAt cpDenied false (cpr 2 0x14000).va.toNat = some (0, { range0 with at' := false }) ∧
      hasRight { range0 with at' := false } (cpRight (cpr 2 0x14000)) = false) ∧
    (cpWhole (cpr 1 0x14000) = true ∧ exOk (cutPieces (cpState (cpr 1 0x14000)) (.cp 1) (cpPieces (cpr 1 0x14000))) = true ∧
      (writeCuts (cpState (cpr 1 0x14000)) (.cp 1) (cpCuts (cpr 1 0x14000)) (((cpr 1 0x14000).data.take 4).map (fun b => (b, false)))).rc.need = []) ∧
    (∀ r ∈ [cpr 2 0x14000, cpr 3 0x14000], cpWhole r = true ∧ 2 ≤ r.op.toNat ∧
      (∀ p ∈ cpPieces r, p.host = false ∧ inTiers p.pa p.len = true ∧ (cpAtom r p).rc.need = [])) ∧
    (∀ s ∈ [strmSt recvX, strmSt recvFull, closedS], stopped s = false ∧ s.rc.need = [] ∧ s.pwr.park = .running ∧ s.pwr.restart ≠ .running ∧
      cpReceiver s 63 = some (255, strmOf s 255)) ∧
    (cpRoom (strmSt recvX) recvX = true ∧ strmClosed (strmSt recvX) recvX = false ∧ cpRoom (strmSt recvFull) recvFull = false ∧
      strmClosed closedS (strmOf closedS 255) = true ∧ cpReceiver (strmSt recvX) 62 = none) := by
  constructorm* _ ∧ _ <;> decide +kernel

/-! ### Witnesses: the whole block, the row cache, tier F, statuses -/

theorem witness_FrozenBlockKeepsItsState : frozenS.err.frozen = true ∧ isReset .freezeSettled = false ∧ isReset .pllLock = false ∧
    isReset (.registerWrite false 0x1C0 [1]) = false := by
  decide +kernel

theorem witness_StoppedBlockStaysStopped : StaysStopped State.reset ∧
    StaysStopped { frozenS with pending := [.freezeSettled, .lookup 1] } ∧
    StaysStopped { State.reset with pending := [.freezeLine, .mwRollover] } := by
  refine ⟨?_, ?_, ?_⟩ <;> (unfold StaysStopped; decide +kernel)

theorem witness_ResetStateIsStopped : isReset .freezeLine = false ∧ Instr.freezeLine ≠ Instr.pllLock := by decide +kernel

theorem witness_RowCacheStatements : CacheOk lkBase ∧ CacheOk (cachedIn live true) ∧ CacheOk (cachedIn (poke live (7 * 64) (List.replicate 64 5)) false) ∧
    missOpen lkBase 0 = false ∧ missOpen lkBase (homeAddr 0 desc0 1 / 64) = false ∧
    missOpen lkBase (0x5FFFFFFFFF / 64) = false ∧ [(7 : Byte)] ≠ [] ∧ (readLine lkBase 0 0).2.2 = false ∧ (readLine lkBase (homeAddr 0 desc0 1 / 64) 2).2.2 = false ∧
    memUp lkBase (0 / 64 * 64) = true ∧ memUp lkBase (0x5FFFFFFFFF / 64 * 64) = true ∧ 63 % 64 + [(7 : Byte)].length ≤ 64 ∧
    0 % 64 + (List.replicate 64 (7 : Byte)).length ≤ 64 := by
  have h : ∀ s : State, Memory.wf s.mem = true → mwf s.rc.lines = true → (∀ e ∈ s.rc.lines, e.2.data.length = 64 ∧ e.2.poison = false ∧
      passThrough s e.2.x = false ∧ memUp s (e.2.x * 64) = true ∧
      (e.2.dirty = false → e.2.data = cellsRead s.mem.cells (e.2.x * 64) 64) ∧ e.1 = wayKey (homeSlice s e.2.x) (lineSet s e.2.x) 0) →
      (∀ e ∈ s.rc.lines, ∀ f ∈ s.rc.lines, e.2.x = f.2.x → e.1 = f.1) → CacheOk s :=
    fun s h1 h2 h3 h4 => ⟨h1, h2, fun e he => by
      obtain ⟨a, b, c, d, f, g⟩ := h3 e he
      exact ⟨a, b, c, d, f, 0, by decide, g⟩, h4⟩
  refine ⟨h _ ?_ ?_ ?_ ?_, h _ ?_ ?_ ?_ ?_, h _ ?_ ?_ ?_ ?_, ?_⟩
  iterate 12 · decide +kernel
  · constructorm* _ ∧ _ <;> decide +kernel

def stripedS (m : BitVec 2) : State := { live with mc := { live.mc with stripes := (List.range 512).map (fun i => (i, { mode := m, seed := 5 })) } }

theorem witness_TierFDecodeIsABijection : (0x5FFFFFFFFF : Nat) < tierFEnd ∧ ¬0x6000000000 < tierFEnd ∧ (stripeOf (stripedS 0) 511).mode = 0 ∧
    (stripeOf (stripedS 1) 511).mode = 1 ∧ (stripeOf (stripedS 2) 0).mode = 2 := by
  constructorm* _ ∧ _ <;> decide +kernel

theorem witness_FailureStatusTakesPrecedence : ({ cmd0 [] 1 with fail := some 0x40, poison := true, drops := true } : Cmd).fail = some 0x40 ∧
    (({ cmd0 [] 1 with poison := true, drops := true } : Cmd).fail = none ∧ ({ cmd0 [] 1 with poison := true } : Cmd).poison = true) ∧
    ({ cmd0 [] 1 with drops := true } : Cmd).poison = false ∧ ((cmd0 [] 1).fail = none ∧ (cmd0 [] 1).drops = false) ∧
    cmdOf (withCmd0 live (cmd0 [] 1)) 1 = some (cmd0 [] 1) := by
  constructorm* _ ∧ _ <;> decide +kernel

theorem witness_StructuresAreLittleEndian : (63 : Nat) < 8 * 8 ∧ (toBytes 8 0x0102030405060708).getD 0 0 = 8 := by decide +kernel

/-! ### Tests: an ill-formed command for each check of `Instr.wf` (R313, R335, R429, R572) -/

def dacc (w : Bool) (n : Nat) (l : List Byte) : HostAccess := { form := .plain, off := 0, len := n, write := w, data := l, poison := false, requester := 0 }

theorem test_wf_registers : (Instr.registerWrite false 4 [0]).wf = false ∧ (Instr.registerWrite false 8 []).wf = false ∧
    (Instr.registerWrite false 0 (List.replicate 9 0)).wf = false ∧ (Instr.registerWrite false 56 [0, 0]).wf = false ∧
    (Instr.registerWrite false 0x1000000 [0]).wf = false ∧ (Instr.registerWrite false 0 (List.replicate 8 0)).wf = true ∧
    (Instr.semAddWrite 7 []).wf = false ∧ (Instr.semAddWrite 7 [1, 1]).wf = false ∧ (Instr.semAddWrite 7 [1]).wf = true := by
  decide +kernel

theorem test_wf_companions : (Instr.companionRd 0 16 [.clean]).wf = false ∧ (Instr.companionRd 0 32 []).wf = false ∧
    (Instr.companionRd 0 224 [.clean, .clean]).wf = false ∧ (Instr.companionRd 0 0 (List.replicate 8 .clean)).wf = true ∧ (Instr.companionRd 0 0 [.array []]).wf = false ∧ (Instr.companionWr 0 ⟨0, []⟩).wf = false ∧
    (Instr.companionWr 0 ⟨1, [(List.replicate 32 0, false)]⟩).wf = false ∧ (Instr.wrMask 0 8 0 (List.replicate 32 0) false).wf = false ∧
    (Instr.wrMask 0 32 0 [] false).wf = false ∧ (Instr.rdData 0 ⟨0, [([], false)]⟩).wf = false ∧
    (Instr.rdData 0 ⟨224, List.replicate 2 (List.replicate 32 0, false)⟩).wf = false ∧ (Instr.companionPortRetrain 0 4).wf = false := by
  decide +kernel

theorem test_wf_hosts : (Instr.homeSliceAccess { addr := 63, write := true, hint := 0, data := [0, 0], poison := false, host := false } .none).wf = false ∧
    (Instr.homeSliceAccess { addr := 0, write := true, hint := 0, data := [], poison := false, host := false } .none).wf = false ∧
    (Instr.windowAccess (dacc false 0 [])).wf = false ∧ (Instr.bar4Access (dacc true 2 [0])).wf = false ∧
    (Instr.cxlMemWrite 60 (List.replicate 5 0) false).wf = false ∧ (Instr.cxlMemWrite 60 [] false).wf = false ∧
    (Instr.chipPortData 0 [([], false)]).wf = false := by
  decide +kernel

def tmsg (len leg cls : Nat) : TMsg := { rreq with len := len, leg := leg, cls := cls }

/-- A stack whose training finds nothing amiss. -/
def okTrain : StackTrain := { identity := true, failed := [], spare := 4, temp := 40, hard := [], soft := [] }

theorem test_wf_links : (Instr.sl1Entry [] []).wf = false ∧ (Instr.sl1Entry (List.replicate 8 16) []).wf = false ∧
    (Instr.transitRetrain 0 3).wf = false ∧ (Instr.blockRestartEnd [] [] 0).wf = false ∧
    (Instr.blockRestartEnd (List.replicate 6 okTrain) [] 0).wf = false ∧ (Instr.transitReservedMessage (tmsg 0 0 0)).wf = false ∧
    (Instr.remoteRd (tmsg 4096 0 0)).wf = false ∧ (Instr.remoteWr (tmsg 1 2 0)).wf = false ∧ (Instr.remoteAt (tmsg 1 0 8)).wf = false ∧
    (Instr.remoteData (tmsg 0 0 2)).wf = false ∧ (Instr.remoteAck (tmsg 0 0 2)).wf = false ∧ (Instr.remoteErr (tmsg 0 0 2)).wf = false ∧
    (Instr.remoteRd (tmsg 4095 1 7)).wf = true := by
  decide +kernel

/-- The table gives its rows no bits: no word spells a command. -/
theorem test_decode_none : decodeTableWord 16 0x1234 = none ∧ (State.reset.withFetchWord 16 0x1234) = State.reset := ⟨rfl, rfl⟩

/-! ### Tests: the spec's worked examples -/

/-- The codebook of the encode example (chapter 2). -/
def cbEx : Codebook := { kind := 1, entries := [-1792, -1280, -896, -640, -448, -256, -128, 0, 128, 256, 448, 640, 896, 1280, 1792] }
def encEx : EncParams := {
  c := 32, widest := 1, cb := fun w => if w = 2 then some cbEx else none, qp := fun _ => BitVec.ofNat 27 (200 + 2 * 2 ^ 12 + 160 * 2 ^ 15) }
def inEx : List BF16 := [0x3FC0, 0xBEA0, 0, 0x3F30, 0xBF90] ++ List.replicate 27 0
def sliceEx : List Byte := [1, 0, 0, 0, 0x60, 4, 0, 0, 0x7F, 0x5F, 0xB7, 0x71] ++ List.replicate 13 0x77 ++ [0, 0, 0xC0, 0x3F] ++
  List.replicate 35 0

/-- The encode example of chapter 2: the 64-byte slot, and what it decodes to. -/
theorem test_encode_example : encodedSlice encEx (encode encEx 2 inEx) 1 0 false = sliceEx ∧
    ((decodeSlice sliceEx cbEx 32).map (fun x => x.f)).take 6 = [0x3FC00000, 0xBE800000, 0, 0x3F200000, 0xBFA00000, 0] := by
  decide +kernel

/-- The Almanac entry of chapter 3. -/
theorem test_almanac_example : ({ row := 901, desc := 17, state := 1, wclass := 2, version := 5, slot := 0x20000080, keep := false, epoch := 3 } :
    AEnt).bytes = toBytes 8 0x0590110000000385 ++ toBytes 8 0x0000030200000800 := by
  decide +kernel

/-- The home slot of row 77,412 of chapter 3, on the companion that the seed gives. -/
def descEx : Desc := { Desc.reset with table := 17, widest := 1, nblkM1 := 3, homeOff := 0x100, rows := 100000 }
theorem test_home_example :
    homeAddr 17 descEx 77412 = 0x100000000000 + homeComp 17 descEx 77412 * 0x4000000000 + 0x100000 + 0x1C5900 := by
  decide +kernel

/-- A member of the pooling examples of chapter 5: block exponent, entry of column 0, weight. -/
def memEx (weighted : Bool) (e : Nat) (c0 : Int) (w : BF16) : PMember := {
  poison := false, cols := (weightCol weighted w { m := c0, ux := (e : Int) - 137, f := 0 }) :: List.replicate 31 (0, 0),
  tops := [blockTop weighted w e], live := [true] }

/-- The alignment-loss example of chapter 5. -/
theorem test_pool_loss_example :
    (weightOf 0x3DCCCCCD).w = 0x3DCD ∧
    (closeSub (groupPrec 0) [memEx true 127 1280 0x3F40, memEx true 125 448 0x3DCD] 32).1.head? = some 0x3F72CE00 ∧
    (closeSub (groupPrec 0) [memEx true 127 1280 0x3F40, memEx true 125 448 0x3DCD] 32).2 = 1 := by
  decide +kernel

/-- The group-split example of chapter 5: two subgroups, and the MEAN over three rows. -/
theorem test_pool_split_example :
    (let g := subgroups [memEx false 127 1280 0, memEx false 112 1792 0, memEx false 111 256 0] 32
     g.map List.length = [1, 2] ∧
     (((g.map (fun m => (closeSub (groupPrec 0) m 32).1)).foldl (fun a f => some (accAdd a f)) none).getD []).head?.map (fun x => f32DivNat x 3) =
       some 0x3ED557D5) := by
  decide +kernel

/-- The MAX and MIN example of chapter 5. -/
theorem test_pool_max_example :
    pickAll true 2 [(0, [0x3F200000, 0xBE800000]), (1, [0x3F200000, 0xBE000000]), (2, [0x3F200000, 0xBE800000])] =
      ([0x3F200000, 0xBE000000], [0, 1]) ∧
    (pickAll false 2 [(0, [0x3F200000, 0xBE800000]), (1, [0x3F200000, 0xBE000000]), (2, [0x3F200000, 0xBE800000])]).2 = [0, 0] := by
  decide +kernel

/-- The merge example of chapter 6: the two-word sum keeps 3 × 2^-24, and the delivery of row 7. -/
theorem test_merge_example :
    [(0x33800000 : F32), 0x33800000, 0x33800000, 0xBF800000].foldl (fun a e => twoSum a.1 a.2 e) (twoSum 0 0 0x3F800000) = (0, 0x34400000) ∧
    gradBody 0 (0x34400000 :: List.replicate 31 0) = 0x68 :: List.replicate 15 0 ++ [0x60] ++ List.replicate 31 0 := by
  decide +kernel

/-- The programs of chapter 7's examples. -/
def progEx (hdr : Nat) (l : List Nat) : Prog := progOf hdr (l.flatMap (toBytes 4))
def sgnEx : Prog := progEx 0x00014503 [0x0C089000, 0x114A8800, 0x242A0000, 0x10299840, 0x0C218000, 0x09290800]
def adaEx : Prog := progEx 0x00561307 [0x0C089000, 0x114A8800, 0x0C284000, 0x0C21A000, 0x116B9840, 0x43110000, 0x0B1EC000, 0x33180000,
  0x43330000, 0x0B3EC800, 0x33390000, 0x0C4BC800, 0x2C420000, 0x0442A800, 0x30420000, 0x0C6AC000, 0x0C631000, 0x1069B0C0, 0x0C638000, 0x09291800]
def psEx (l : List F32) : PSet := { p := l, frozen := List.replicate 32 false }

theorem test_sign_program_example :
    (let r := runProg sgnEx (psEx [0x39800000, 0x3F600000, 0x3E000000, 0, 0, 0, 0, 0]) 1 1 1 [0xBF800000] [0x3F000000] [[0x3D800000]]
     r.m = [0x3F001000] ∧ r.us = [[0xBD900000]] ∧ r.ok = true) := by
  decide +kernel

theorem test_adaptive_program_example :
    (let r := runProg adaEx (psEx [0x3A800000, 0x3F600000, 0x3E000000, 0x3F700000, 0x3D800000, 0x35800000, 0, 0]) 1 1 1 [0x3F000000]
      [0x3E800000] [[0], [0]]
     r.m = [0x3E7F0000] ∧ r.us = [[0x3D800000], [0x3C800000]] ∧ r.ok = true) := by
  decide +kernel

/-- The NEAR address of chapter 9's example. -/
theorem test_tierF_example : (stripeOf live 3).mode = 0 ∧ pchOf live 0x99000900 = 73 ∧ chanAddr live 0x99000900 = 0x600100 := by decide +kernel

/-- The tree of chapter 10's example. -/
theorem test_plru_example :
    treeWalk (fun _ => true) 16 0 4 1 = 0 ∧ treeTouch 4 16 0 = 2 + 4 + 16 + 256 ∧ treeWalk (fun _ => true) 16 (2 + 4 + 16 + 256) 4 1 = 8 ∧
    treeWalk (fun w => w != 8) 16 (2 + 4 + 16 + 256) 4 1 = 9 ∧ treeWalk (fun w => w != 8 && w != 9) 16 (2 + 4 + 16 + 256) 4 1 = 10 := by
  decide +kernel

/-- The remote window of chapter 13's example. -/
theorem test_window_example : windowPa { rwin0 with lbase := 0x4C8, len := 8 } { inReq with arg := 0x100040 * 2 ^ 8 } = 0x99100040 := by
  decide +kernel

end Sys2Proof.Tests
end

section
/-! PROOFS. Structures in memory (R8), the completion record (R18, R460), the identification word and the step. -/

namespace Sys2Proof.Machine

/-! ### Little-endian bytes (R8) -/

/-- Byte `i` of the bytes of `v` holds its bits from `8 * i` on. -/
theorem toBytes_getD (n v i : Nat) (h : i < n) : (toBytes n v).getD i 0 = BitVec.ofNat 8 (v >>> (8 * i)) := by
  induction n generalizing v i with
  | zero => omega
  | succ n ih =>
    cases i with
    | zero => rfl
    | succ i =>
      have hs : v / 256 = v >>> 8 := (Nat.shiftRight_eq_div_pow v 8).symm
      rw [toBytes, List.getD_cons_succ, ih _ _ (by omega), hs, ← Nat.shiftRight_add, Nat.mul_succ, Nat.add_comm 8]

/-- Bit `i` of a value lies in bit `i % 8` of byte `i / 8`. -/
theorem toBytes_bit (n v i : Nat) (h : i < 8 * n) :
    ((toBytes n v).getD (i / 8) 0).getLsbD (i % 8) = v.testBit i := by
  have hi : 8 * (i / 8) + i % 8 = i := Nat.div_add_mod i 8
  rw [toBytes_getD _ _ _ (by omega), BitVec.getLsbD_ofNat, Nat.testBit_shiftRight, hi]
  simp [Nat.mod_lt]

/-- The bytes of a value that is too wide for them keep its low part. -/
theorem ofBytes_toBytes_mod (n v : Nat) : ofBytes (toBytes n v) = v % 256 ^ n := by
  induction n generalizing v with
  | zero => simp [toBytes, ofBytes, Nat.mod_one]
  | succ n ih =>
    rw [toBytes, ofBytes, ih, BitVec.toNat_ofNat, pow_succ' 256]
    exact Nat.mod_mul.symm

theorem toBytes_ofBytes (l : List Byte) : toBytes l.length (ofBytes l) = l := by
  induction l with
  | nil => rfl
  | cons b l ih =>
    have hq : (b.toNat + 256 * ofBytes l) / 256 = ofBytes l := by omega
    have hb : BitVec.ofNat 8 (b.toNat + 256 * ofBytes l) = b := by
      apply BitVec.eq_of_toNat_eq; simp; omega
    simp only [List.length_cons, toBytes, ofBytes, hq, hb, ih]

/-- The first bytes of a value are the bytes of its low part. -/
theorem take_toBytes (n k v : Nat) (h : n ≤ k) : (toBytes k v).take n = toBytes n v := by
  induction n generalizing k v with
  | zero => simp [toBytes]
  | succ n ih =>
    obtain ⟨k, rfl⟩ : ∃ m, k = m + 1 := ⟨k - 1, by omega⟩
    simp [toBytes, ih k _ (by omega)]

/-- A field that begins behind the first part of a structure is a field of the rest. -/
theorem numAt_append (l m : List Byte) (off n : Nat) (h : l.length ≤ off) :
    numAt (l ++ m) off n = numAt m (off - l.length) n := by
  unfold numAt bytesAt
  rw [List.drop_append, List.drop_eq_nil_of_le h, List.nil_append]

/-- A field at the front of a structure that begins with the bytes of `v`. -/
theorem numAt_toBytes_append (k v n : Nat) (m : List Byte) (h : n ≤ k) : numAt (toBytes k v ++ m) 0 n = v % 256 ^ n := by
  have ht : (toBytes k v ++ m).take n = toBytes n v := by
    rw [List.take_append_of_le_length (by simpa using h), take_toBytes n k v h]
  simp [numAt, bytesAt, ht, ofBytes_toBytes_mod]

theorem numAt_toBytes (k v n : Nat) (h : n ≤ k) : numAt (toBytes k v) 0 n = v % 256 ^ n := by
  simpa using numAt_toBytes_append k v n [] h

/-- Settles O60, from the bits of each byte, by induction on the number of bytes. -/
theorem structuresAreLittleEndian : Obligations.StructuresAreLittleEndian :=
  ⟨toBytes_length, toBytes_bit, ofBytes_toBytes_mod, toBytes_ofBytes⟩

/-! ### The completion record (R18, R460) -/

theorem cmdRecord_length (c : Cmd) : (cmdRecord c).length = 32 := by simp [cmdRecord]

/-- Byte 8 of the record is the status. -/
theorem numAt_cmdRecord_status (c : Cmd) : numAt (cmdRecord c) 8 1 = (statusOf c.fail c.poison c.drops).toNat := by
  have hs := (statusOf c.fail c.poison c.drops).isLt
  simp only [cmdRecord, List.append_assoc]
  rw [numAt_append _ _ _ _ (by simp), toBytes_length, numAt_toBytes_append _ _ _ _ (by omega)]
  omega

theorem numAt_cmdRecord_cnt0 (c : Cmd) : numAt (cmdRecord c) 16 4 = c.cnt0 % 2 ^ 32 := by
  simp only [cmdRecord, List.append_assoc]
  rw [numAt_append _ _ _ _ (by simp), numAt_append _ _ _ _ (by simp)]
  simp only [toBytes_length, Nat.reduceSub]
  exact numAt_toBytes_append _ _ _ _ (by omega)

theorem numAt_cmdRecord_cnt1 (c : Cmd) : numAt (cmdRecord c) 20 4 = c.cnt1 % 2 ^ 32 := by
  simp only [cmdRecord, List.append_assoc]
  rw [numAt_append _ _ _ _ (by simp), numAt_append _ _ _ _ (by simp), numAt_append _ _ _ _ (by simp)]
  simp only [toBytes_length, Nat.reduceSub]
  exact numAt_toBytes_append _ _ _ _ (by omega)

theorem numAt_cmdRecord_cnt2 (c : Cmd) : numAt (cmdRecord c) 24 8 = c.cnt2 % 2 ^ 64 := by
  rw [cmdRecord, numAt_append _ _ _ _ (by simp)]
  simpa using numAt_toBytes 8 c.cnt2 8 (by omega)

/-! ### A command that fails (R18) -/

/-- A change of a command that keeps its number is what is found at that number. -/
theorem cmdOf_updCmd_self (s : State) (cid : Nat) (f : Cmd → Cmd) (hf : ∀ c, (f c).cid = c.cid) :
    cmdOf (updCmd s cid f) cid = (cmdOf s cid).map f := by
  unfold cmdOf updCmd
  generalize s.orr.cmds = l
  induction l with
  | nil => rfl
  | cons c l ih =>
    by_cases h : c.cid = cid
    · simp [h, hf]
    · simpa [h] using ih

theorem cmdOf_updCmd_ne (s : State) (cid d : Nat) (f : Cmd → Cmd) (hf : ∀ c, (f c).cid = c.cid) (h : d ≠ cid) :
    cmdOf (updCmd s cid f) d = cmdOf s d := by
  unfold cmdOf updCmd
  generalize s.orr.cmds = l
  induction l with
  | nil => rfl
  | cons c l ih =>
    by_cases hc : c.cid = cid
    · simpa [hc, hf, Ne.symm h] using ih
    · by_cases hd : c.cid = d <;> simp_all

/-- The first failure status of a command stays, and so do its counts and marks. -/
theorem cmdOf_failCmd_self {s : State} {cid : Nat} {c : Cmd} (st : BitVec 8) (h : cmdOf s cid = some c) :
    cmdOf (failCmd s cid st) cid =
      some { c with phase := .done, fail := c.fail.orElse (fun _ => some st), ended := true } := by
  refine (cmdOf_updCmd_self s cid _ ?_).trans ?_
  · exact fun _ => rfl
  · rw [h]; rfl

theorem cmdOf_failCmd_ne (s : State) (cid d : Nat) (st : BitVec 8) (h : d ≠ cid) :
    cmdOf (failCmd s cid st) d = cmdOf s d := by
  refine cmdOf_updCmd_ne s cid d _ ?_ h
  exact fun _ => rfl

/-- Settles O57, field by field of the record and by what is found of a command that fails. -/
theorem failureStatusTakesPrecedence : Obligations.FailureStatusTakesPrecedence := by
  refine ⟨?failed, ?poisoned, ?dropped, ?ok, fun c => ⟨cmdRecord_length c, numAt_cmdRecord_cnt0 c,
    numAt_cmdRecord_cnt1 c, numAt_cmdRecord_cnt2 c⟩, ?failing⟩
  case failed => intro c f hf; simp [numAt_cmdRecord_status, statusOf, hf]
  case poisoned => intro c hf hp; simp [numAt_cmdRecord_status, statusOf, hf, hp]
  case dropped => intro c hf hp hd; simp [numAt_cmdRecord_status, statusOf, hf, hp, hd]
  case ok => intro c hf hp hd; simp [numAt_cmdRecord_status, statusOf, hf, hp, hd]
  case failing =>
    intro s cid st c hc
    refine ⟨?_, fun d hd => cmdOf_failCmd_ne s cid d st hd⟩
    rw [cmdOf_failCmd_self st hc]
    cases c.fail <;> rfl

/-! ### The identification word (R577) and the step (R9) -/

theorem regRead_aihId (s : State) (mgmt : Bool) : regRead s mgmt 0 = Config.aihId := rfl

/-- Settles O58: the word does not depend on the state, so its fields are those of the constant. -/
theorem identificationRegisterReads : Obligations.IdentificationRegisterReads := by
  intro s mgmt
  rw [regRead_aihId]
  decide

/-- Settles O1, by the two cases of the queue of commands. -/
theorem stepRunsFrontCommand : Obligations.StepRunsFrontCommand := by
  refine ⟨?front, ?empty⟩
  case front => intro c rest s hp; rw [step, hp]
  case empty => intro s hp; rw [step, hp]

end Sys2Proof.Machine
end

section
/-! PROOFS. What the operations on queues and on commands in flight change in Orrery's state, and what they leave
as it was (R451 to R462). -/

namespace Sys2Proof.Machine

/-- A fold of steps, each of which leaves a part of the state as it was. -/
theorem foldl_keeps {α β : Type} (part : State → β) (f : State → α → State) (hf : ∀ s a, part (f s a) = part s)
    (l : List α) (s : State) : part (l.foldl f s) = part s := by
  induction l generalizing s with
  | nil => rfl
  | cons a l ih => rw [List.foldl_cons, ih, hf]

/-! ### Queues and commands -/

@[simp] theorem qOf_setQ_self (s : State) (q : Nat) (x : Queue) : qOf (setQ s q x) q = x := by simp [qOf, setQ]

/-- A refresh sets STATE and CFULL of its queue. -/
theorem qRefresh_eq (s : State) (q : Nat) :
    ∃ st cf, qRefresh s q = setQ s q { qOf s q with st := st, cfull := cf } := ⟨_, _, rfl⟩

/-- Progress counts, and may set STATE of its queue. -/
theorem qProg_eq (s : State) (q : Nat) :
    qProg s q = bumpProg s (ctrQueueQProg q) 1 ∨
      qProg s q = setQ (bumpProg s (ctrQueueQProg q) 1) q { qOf s q with st := .running } := by
  by_cases h : (qOf s q).st = .hung
  · exact .inr (if_pos h)
  · exact .inl (if_neg h)

/-- Progress and the refresh after it: counters, and STATE and CFULL of the queue. -/
theorem qRefresh_qProg_eq (s : State) (q : Nat) : ∃ cs qs st cf,
    qRefresh (qProg s q) q = { s with ctrs := cs, orr := { s.orr with queues := qs } } ∧
    mget qs q Queue.reset = { qOf s q with st := st, cfull := cf } := by
  obtain ⟨st, cf, hr⟩ := qRefresh_eq (qProg s q) q
  rw [hr]
  rcases qProg_eq s q with h | h <;> rw [h]
  · exact ⟨_, _, st, cf, rfl, mget_mset_self _ _ _ _⟩
  · rw [qOf_setQ_self]
    exact ⟨_, _, st, cf, rfl, mget_mset_self _ _ _ _⟩

theorem qOf_eq_of_queues {s t : State} (h : t.orr.queues = s.orr.queues) (q : Nat) : qOf t q = qOf s q := by
  rw [qOf, qOf, h]

theorem qOf_eq_of_orr {s t : State} (h : t.orr = s.orr) (q : Nat) : qOf t q = qOf s q := by rw [qOf, qOf, h]

theorem cmdOf_eq_of_orr {s t : State} (h : t.orr = s.orr) (cid : Nat) : cmdOf t cid = cmdOf s cid := by
  rw [cmdOf, cmdOf, h]

theorem cmdOf_cid {s : State} {cid : Nat} {c : Cmd} (h : cmdOf s cid = some c) : c.cid = cid := by
  simpa using List.find?_some h

@[simp] theorem cmdOf_dropCmd_self (s : State) (cid : Nat) : cmdOf (dropCmd s cid) cid = none := by
  simp [cmdOf, dropCmd]

/-! ### Fetching -/

/-- A command that enters Orrery is the last of those in flight and takes the next number. -/
theorem fetchIn_eq (s : State) (q seq : Nat) (own : Owner) (ws : List W64) (bad : Bool) (opc : Nat) : ∃ x,
    fetchIn s q seq own ws bad opc =
      { s with orr := { s.orr with cmds := s.orr.cmds ++ [x], nextCid := s.orr.nextCid + 1 } } ∧
    x.cid = s.orr.nextCid ∧ x.q = q ∧ x.seq = seq ∧ x.stamp = s.xlt.xgen ∧ x.own = own ∧ x.badLine = bad ∧
    x.words = ws := by
  refine ⟨_, rfl, ?_⟩
  split <;> exact ⟨rfl, rfl, rfl, rfl, rfl, rfl, rfl⟩

@[simp] theorem qOf_fetchIn (s : State) (q seq k : Nat) (own : Owner) (ws : List W64) (bad : Bool) (opc : Nat) :
    qOf (fetchIn s q seq own ws bad opc) k = qOf s k := rfl

/-- A queue whose entry F has been taken. -/
def Queue.taken (x : Queue) : Queue := { x with fetch := x.fetch + 1, nextSeq := x.nextSeq + 1 }

/-- The eight words of a descriptor's bytes. -/
def descriptorWords (d : List Byte) : List W64 := (List.range 8).map (fun i => BitVec.ofNat 64 (numAt d (8 * i) 8))

theorem fetchTake_def (s : State) (q : Nat) (d : List Byte) (bad : Bool) :
    fetchTake s q d bad = qRefresh (qProg (fetchIn (setQ s q (qOf s q).taken) q (qOf s q).nextSeq .queue
      (descriptorWords d) bad (numAt d 0 1)) q) q := rfl

/-- Taking entry F adds one command to those in flight, advances the queue, and counts its progress. -/
theorem fetchTake_eq (s : State) (q : Nat) (d : List Byte) (bad : Bool) : ∃ x cs qs,
    fetchTake s q d bad = { s with
      ctrs := cs, orr := { s.orr with cmds := s.orr.cmds ++ [x], nextCid := s.orr.nextCid + 1, queues := qs } } ∧
    (x.cid = s.orr.nextCid ∧ x.q = q ∧ x.seq = (qOf s q).nextSeq ∧ x.stamp = s.xlt.xgen ∧ x.own = .queue ∧
      x.badLine = bad ∧ x.words = descriptorWords d) ∧
    ∃ st cf, mget qs q Queue.reset = { (qOf s q).taken with st := st, cfull := cf } := by
  obtain ⟨x, hin, hx⟩ := fetchIn_eq (setQ s q (qOf s q).taken) q (qOf s q).nextSeq .queue (descriptorWords d) bad
    (numAt d 0 1)
  obtain ⟨cs, qs, st, cf, hp, hq⟩ := qRefresh_qProg_eq (fetchIn (setQ s q (qOf s q).taken) q (qOf s q).nextSeq .queue
    (descriptorWords d) bad (numAt d 0 1)) q
  rw [qOf_fetchIn, qOf_setQ_self] at hq
  rw [hin] at hp
  exact ⟨x, cs, qs, (by rw [fetchTake_def, hin]; exact hp), hx, st, cf, hq⟩

/-! ### Traffic to memory, to the host and to other chips leaves Orrery's state -/

@[simp] theorem hostWrite_orr (s : State) (pa : Nat) (d : List Byte) (p : Bool) (op : Option CxlOp) (cs : List Nat) :
    (hostWrite s pa d p op cs).orr = s.orr := by
  unfold hostWrite
  split
  · rfl
  · cases op <;> rfl

@[simp] theorem hcPut_orr (s : State) (x : Nat) (m : Merge) : (hcPut s x m).orr = s.orr := by
  unfold hcPut
  split
  · rfl
  split
  · rfl
  split
  · split
    · exact hostWrite_orr ..
    · split <;> rfl
  · split
    · exact hostWrite_orr ..
    · rfl

@[simp] theorem hostPutGo_orr (w : Who) (k : Nat) (s : State) (pa : Nat) (l : List (Byte × Bool)) :
    (hostPutGo w k s pa l).orr = s.orr := by
  induction k generalizing s pa l with
  | zero => rfl
  | succ k ih =>
    unfold hostPutGo
    split
    · rfl
    · rw [ih]
      split
      · exact hcPut_orr ..
      · exact hostWrite_orr ..

@[simp] theorem hostPut_orr (s : State) (pa : Nat) (l : List (Byte × Bool)) (w : Who) :
    (hostPut s pa l w).orr = s.orr := hostPutGo_orr ..

theorem linkPump_orr (l k : Nat) (s : State) : (linkPump l k s).orr = s.orr := by
  induction k generalizing s with
  | zero => rfl
  | succ k ih =>
    unfold linkPump
    simp only []
    split
    · rfl
    · split
      · rfl
      · exact ih _

@[simp] theorem transitSend_orr (s : State) (f : TMsg) : (transitSend s f).orr = s.orr := by
  unfold transitSend routeMsg
  simp only []
  split
  · rfl
  · split
    · rfl
    · exact linkPump_orr ..

@[simp] theorem remoteReq_orr (s : State) (cls mt pa len opc : Nat) (d : List (Byte × Bool)) (w : RemoteFor) :
    (remoteReq s cls mt pa len opc d w).orr = s.orr := transitSend_orr ..

theorem onlyMem_writeMarkedLine (s : State) (a : Nat) (d : List (Byte × Bool)) (hint : BitVec 2) :
    OnlyMem s (writeMarkedLine s a d hint) := by
  unfold writeMarkedLine
  simp only []
  split
  · exact (onlyMem_writeLine ..).trans (onlyMem_writeLine ..)
  · exact onlyMem_writeLine ..

theorem onlyMem_writeMarkedGo (hint : BitVec 2) (k : Nat) (s : State) (a : Nat) (l : List (Byte × Bool)) :
    OnlyMem s (writeMarkedGo hint k s a l) := by
  induction k generalizing s a l with
  | zero => exact OnlyMem.refl s
  | succ k ih =>
    unfold writeMarkedGo
    split
    · exact OnlyMem.refl s
    · exact (onlyMem_writeMarkedLine ..).trans (ih _ _ _)

@[simp] theorem writePiece_orr (s : State) (w : Who) (p : Piece) (d : List (Byte × Bool)) :
    (writePiece s w p d).orr = s.orr := by
  unfold writePiece
  split
  · exact hostPut_orr ..
  split
  · exact (onlyMem_writeMarkedGo ..).orr
  · exact remoteReq_orr ..

theorem writeCuts_orr (s : State) (w : Who) (ps : List Piece) (d : List (Byte × Bool)) :
    (writeCuts s w ps d).orr = s.orr := by
  induction ps generalizing s d with
  | nil => rfl
  | cons p ps ih =>
    unfold writeCuts
    split
    · rfl
    · rw [ih, writePiece_orr]

@[simp] theorem writePieces_orr (s : State) (w : Who) (ps : List Piece) (d : List Byte) :
    (writePieces s w ps d).orr = s.orr := by
  unfold writePieces writeMarked
  split
  · exact writeCuts_orr ..
  · rfl

@[simp] theorem hostLog_orr (s : State) (q : Nat) (r : List Byte) : (hostLog s q r).orr = s.orr := by
  unfold hostLog; split <;> rfl

/-- A completion record or a sequence word on its way changes nothing of Orrery's. -/
@[simp] theorem ringWrite_orr (s : State) (q v : Nat) (d : List Byte) (log : Bool) :
    (ringWrite s q v d log).orr = s.orr := by
  unfold ringWrite
  split
  · split
    · split
      · exact hostPut_orr ..
      · split
        · exact hostLog_orr ..
        · rfl
    · exact writePieces_orr ..
  · rfl

/-- The writes that a completion sends first, and its flushing read, change nothing of Orrery's. -/
@[simp] theorem flushFor_evictFor_orr (s : State) (cid : Nat) : (flushFor (evictFor s cid) cid).orr = s.orr := by
  have he : (evictFor s cid).orr = s.orr := by
    refine foldl_keeps State.orr _ (fun t e => ?_) _ s
    split
    · exact hostWrite_orr ..
    · rfl
  unfold flushFor
  split <;> exact he

/-! ### Completion -/

theorem qInterrupt_cseq (s : State) (q : Nat) : (qOf (qInterrupt s q) q).cseq = (qOf s q).cseq := by
  unfold qInterrupt
  simp only []
  split
  · rfl
  split
  · rfl
  split
  · rw [qOf_eq_of_orr (msixFire_orr ..), qOf_setQ_self]
  · rw [qOf_setQ_self]

/-- The record of the command that is next advances the completed sequence number to it (R461). -/
theorem seqWritten_cseq_of_next {s : State} {q seq : Nat} (hw : (qOf s q).written = [])
    (hs : seq = (qOf s q).cseq + 1) : (qOf (seqWritten s q seq) q).cseq = seq := by
  have hgo : cseqGo ((qOf s q).written.length + 1) (qOf s q).cseq (sins (qOf s q).written seq) = (seq, []) := by
    simp [hw, sins, cseqGo, sdel, hs]
  unfold seqWritten
  simp only [hgo]
  split
  · rw [qOf_setQ_self]
  · rw [if_neg (by omega), qInterrupt_cseq, qOf_eq_of_orr (ringWrite_orr ..), qOf_setQ_self]

theorem dropLookup_queues (ok : Bool) (s : State) (j : LkJob) : (dropLookup s j ok).orr.queues = s.orr.queues := rfl

theorem dropScat_queues (s : State) (j : ScJob) : (dropScat s j).orr.queues = s.orr.queues := by
  unfold dropScat
  simp only []
  split <;> rfl

@[simp] theorem strmIdle_orr (s : State) (n : Nat) : (strmIdle s n).orr = s.orr := by
  unfold strmIdle
  simp only []
  split
  · exact endRuns_orr ..
  · rfl

@[simp] theorem unbind_orr (s : State) (cid : Nat) : (unbind s cid).orr = s.orr := by
  refine foldl_keeps State.orr _ (fun t e => ?_) _ s
  split
  · exact strmIdle_orr ..
  · unfold strmRest
    simp only []
    split
    · exact strmIdle_orr ..
    · rfl

@[simp] theorem cmdRelease_orr (s : State) (c : Cmd) : (cmdRelease s c).orr = s.orr := by
  unfold cmdRelease scatRelease
  split
  · split <;> rfl
  · rfl

/-- Giving back what a command holds leaves the queues. -/
@[simp] theorem endWork_queues (s : State) (c : Cmd) : (endWork s c).orr.queues = s.orr.queues := by
  unfold endWork
  simp only [cmdRelease_orr, unbind_orr]
  rw [foldl_keeps (fun t => t.orr.queues) _ dropScat_queues,
    foldl_keeps (fun t => t.orr.queues) _ (dropLookup_queues _)]

@[simp] theorem invalDone_orr (s : State) (r : LRun) : (invalDone s r).orr = s.orr := by
  cases r with
  | invalidate => exact mbComplete_orr ..
  | _ => rfl

@[simp] theorem checkInvals_orr (s : State) : (checkInvals s).orr = s.orr := by
  refine foldl_keeps State.orr _ (fun t r => ?_) _ s
  split
  · split
    · rfl
    · exact invalDone_orr ..
  · rfl

/-- A retired command is no longer in flight. -/
theorem cmdOf_retire (s : State) (c : Cmd) : cmdOf (retire s c) c.cid = none := by
  obtain ⟨cs, qs, st, cf, hp, -⟩ := qRefresh_qProg_eq (dropGot (dropCmd (endWork s c) c.cid) (.cmd c.cid)) c.q
  rw [retire, cmdOf_eq_of_orr (checkInvals_orr _), hp]
  exact cmdOf_dropCmd_self (endWork s c) c.cid

theorem qOf_retire_cseq (s : State) (c : Cmd) : (qOf (retire s c) c.q).cseq = (qOf s c.q).cseq := by
  obtain ⟨cs, qs, st, cf, hp, hq⟩ := qRefresh_qProg_eq (dropGot (dropCmd (endWork s c) c.cid) (.cmd c.cid)) c.q
  have hd : qOf (dropGot (dropCmd (endWork s c) c.cid) (.cmd c.cid)) c.q = qOf s c.q := qOf_eq_of_queues (endWork_queues s c) c.q
  rw [retire, qOf_eq_of_orr (checkInvals_orr _), hp, qOf, hq, hd]

@[simp] theorem unpin_queues (s : State) (p v : Nat) : (unpin s p v).orr.queues = s.orr.queues := by
  unfold unpin; split <;> rfl

/-- The state after a command's record has been written to its completion ring. -/
def recordWritten (s : State) (c : Cmd) : State :=
  match (qOf s c.q).conf with
  | some k => ringWrite s c.q (k.cring + c.seq % 2 ^ k.log2cn * 32) (cmdRecord c) true
  | none => s

@[simp] theorem recordWritten_orr (s : State) (c : Cmd) : (recordWritten s c).orr = s.orr := by
  unfold recordWritten
  split
  · exact ringWrite_orr ..
  · rfl

/-- The state after a launch has let go of its plan version (R464). -/
def unpinned (s : State) (c : Cmd) : State := if c.op = 0x09 && c.fail != some 0x40 then unpin s c.plan c.pver else s

@[simp] theorem unpinned_queues (s : State) (c : Cmd) : (unpinned s c).orr.queues = s.orr.queues := by
  unfold unpinned
  split
  · exact unpin_queues ..
  · rfl

/-- A command of a queue writes its record, its queue counts it, and it leaves. -/
theorem completeNow_queue (s : State) {c : Cmd} (h : c.own = .queue) :
    completeNow s c = retire (unpinned (seqWritten (recordWritten s c) c.q c.seq) c) c := by
  unfold completeNow
  simp only [h]
  rfl

/-- The command that is next advances its queue's completed sequence number to its own. -/
theorem qOf_completeNow_cseq {s : State} {c : Cmd} (h : c.own = .queue) (hw : (qOf s c.q).written = [])
    (hs : c.seq = (qOf s c.q).cseq + 1) : (qOf (completeNow s c) c.q).cseq = c.seq := by
  have hq : qOf (recordWritten s c) c.q = qOf s c.q := qOf_eq_of_orr (recordWritten_orr s c) c.q
  rw [completeNow_queue s h, qOf_retire_cseq, qOf_eq_of_queues (unpinned_queues ..)]
  exact seqWritten_cseq_of_next (by rw [hq, hw]) (by rw [hq, hs])

theorem cmdOf_completeNow (s : State) {c : Cmd} (h : c.own = .queue) : cmdOf (completeNow s c) c.cid = none := by
  rw [completeNow_queue s h, cmdOf_retire]

/-! ### The meanings of the events in a running block -/

/-- A running block takes the event whose operation leads to `t`, with no back-invalidate due first. -/
theorem act_eq_next {s t : State} {f : State → State} (hs : stopped s = false) (hf : f s = t) (hn : t.rc.need = []) :
    act s f = .next t := by
  rw [act_live hs (by rw [hf]; exact hn), hf]

/-- What QUEUE_RESERVED_OPCODE does to a running block. -/
def endReserved (cid : Nat) (s : State) : State :=
  match cmdOf s cid with
  | some c => if mayStart s c && (c.badLine || c.op == 0 || decide (0x0B ≤ c.op)) then failCmd s cid 0x40 else s
  | none => s

/-- What INTERRUPT_DELAY_EXPIRY does to a running block. -/
def endDelay (q : Nat) (s : State) : State :=
  match (qOf s q).conf with
  | some c => if c.ien && c.itime != 0 && (qOf s q).intPend && s.pwr.park == .running then
      msixFire (setQ s q { qOf s q with signalled := (qOf s q).cseq, intPend := false }) c.ivec else s
  | none => s

section
variable {s t : State} (hs : stopped s = false)
include hs

theorem exec_queueFetch_next {q : Fin 64} (h : fetchQ s q = t) (hn : t.rc.need = []) :
    exec (.queueFetch q) s = .next t :=
  act_eq_next (f := fun s => fetchQ s q) hs h hn

theorem exec_queueReservedOpcode_next {cid : Nat} (h : endReserved cid s = t) (hn : t.rc.need = []) :
    exec (.queueReservedOpcode cid) s = .next t :=
  act_eq_next (f := endReserved cid) hs h hn

theorem exec_commandCompletion_next {cid : Nat} (h : complete s cid = t) (hn : t.rc.need = []) :
    exec (.commandCompletion cid) s = .next t :=
  act_eq_next (f := fun s => complete s cid) hs h hn

theorem exec_interruptDelayExpiry_next {q : Fin 64} (h : endDelay q s = t) (hn : t.rc.need = []) :
    exec (.interruptDelayExpiry q) s = .next t :=
  act_eq_next (f := endDelay q) hs h hn

end

/-! ### QUEUE_FETCH (R451) -/

theorem fetchQ_of_not_mayFetch {s : State} {q : Nat} (h : mayFetch s q = false) : fetchQ s q = s := by
  simp [fetchQ, h]

section
variable {s : State} {q : Nat} {c : QConf} {p : Piece} (hm : mayFetch s q = true) (hc : (qOf s q).conf = some c)
  (hp : extPieces s true 0 (c.ring + (qOf s q).fetch.toNat % 2 ^ c.log2n * 64) 64 = .ok [p])
include hm hc hp

/-- Entry F of a ring in host memory is asked for. -/
theorem fetchQ_host (hh : p.host = true) : fetchQ s q = hostRead s p.pa 64 (.fetch q) := by
  simp [fetchQ, hm, hc, hp, hh]

/-- Entry F of a ring in the tiers is taken at once. -/
theorem fetchQ_device (hh : p.host = false) (ht : inTiers p.pa 64 = true) :
    fetchQ s q = fetchTake (readExt s p.pa 64 0).1 q (readExt s p.pa 64 0).2.1 ((readExt s p.pa 64 0).2.2.any id) := by
  simp [fetchQ, hm, hc, hp, hh, ht]

end

/-- What taking entry F after a read of the tiers leaves: one new command of the queue, the queue advanced, and
nothing else changed beside what the read touches. -/
theorem fetchTake_after_read {s s1 : State} (hr : OnlyMem s s1) (q : Nat) (d : List Byte) (bad : Bool) :
    ∃ x, (fetchTake s1 q d bad).orr.cmds = s.orr.cmds ++ [x] ∧ x.cid = s.orr.nextCid ∧ x.q = q ∧
      x.seq = (qOf s q).nextSeq ∧ x.stamp = s.xlt.xgen ∧ x.own = .queue ∧ x.badLine = bad ∧
      x.words = descriptorWords d ∧ (fetchTake s1 q d bad).orr.nextCid = s.orr.nextCid + 1 ∧
      (qOf (fetchTake s1 q d bad) q).fetch = (qOf s q).fetch + 1 ∧
      (qOf (fetchTake s1 q d bad) q).nextSeq = (qOf s q).nextSeq + 1 ∧
      (qOf (fetchTake s1 q d bad) q).tail = (qOf s q).tail ∧ (fetchTake s1 q d bad).mem = s1.mem ∧
      (fetchTake s1 q d bad).rc = s1.rc ∧
      { memUndo s (fetchTake s1 q d bad) with orr := { (fetchTake s1 q d bad).orr with
          cmds := s.orr.cmds, nextCid := s.orr.nextCid, queues := s.orr.queues } } = s := by
  obtain ⟨x, cs, qs, ht, hx, st, cf, hq⟩ := fetchTake_eq s1 q d bad
  have hqs : qOf s1 q = qOf s q := qOf_eq_of_orr hr.orr q
  have hqt : qOf (fetchTake s1 q d bad) q = { (qOf s q).taken with st := st, cfull := cf } := by rw [ht, ← hqs, ← hq]; rfl
  have hundo : { memUndo s s1 with orr := s.orr } = s := by rw [hr.undo]
  obtain ⟨hcid, hxq, hseq, hstamp, hown, hbad, hwords⟩ := hx
  rw [hr.orr] at hcid
  rw [hqs] at hseq
  rw [hr.xlt] at hstamp
  refine ⟨x, ?_, hcid, hxq, hseq, hstamp, hown, hbad, hwords, ?_, ?_, ?_, ?_, ?_, ?_, ?_⟩
  · rw [ht, ← hr.orr]
  · rw [ht, ← hr.orr]
  · rw [hqt]; rfl
  · rw [hqt]; rfl
  · rw [hqt]; rfl
  · rw [ht]
  · rw [ht]
  · rw [ht]
    refine Eq.trans ?_ hundo
    simp only [hr.orr]
    rfl

/-! ### COMMAND_COMPLETION (R459) -/

section
variable {s : State} {cid : Nat} {c : Cmd} (hc : cmdOf s cid = some c)
include hc

theorem complete_of_remoteOpen (h : remoteOpen s cid = true) : complete s cid = s := by
  simp [complete, hc, h]

/-- With every write visible, the command writes its record. -/
theorem complete_of_visible (hd : c.phase = .done) (hr : s.pwr.restart ≠ .running) (h : remoteOpen s cid = false)
    (hl : hostLineOpen s cid = false) (hw : hostWritesOf (flushFor (evictFor s cid) cid) cid = []) :
    complete s cid = completeNow (flushFor (evictFor s cid) cid) c := by
  simp [complete, hc, hd, hr, h, hl, hw]

end

/-! ### QUEUE_RESERVED_OPCODE (R456) and INTERRUPT_DELAY_EXPIRY (R462) -/

theorem endReserved_eq_failCmd {s : State} {cid : Nat} {c : Cmd} (hc : cmdOf s cid = some c) (hm : mayStart s c = true)
    (hb : c.badLine = true ∨ c.op = 0 ∨ 0x0B ≤ c.op) : endReserved cid s = failCmd s cid 0x40 := by
  simp only [endReserved, hc]
  exact if_pos (by simpa [hm, or_assoc] using hb)

section
variable {s : State} {q : Nat} {c : QConf} (hc : (qOf s q).conf = some c)
include hc

theorem endDelay_of_running (hi : c.ien = true) (ht : c.itime ≠ 0) (hp : (qOf s q).intPend = true)
    (hk : s.pwr.park = .running) :
    endDelay q s = msixFire (setQ s q { qOf s q with signalled := (qOf s q).cseq, intPend := false }) c.ivec := by
  simp only [endDelay, hc]
  exact if_pos (by simp [hi, ht, hp, hk])

/-- A delay that does not run, or stands still in Park, does not end. -/
theorem endDelay_of_not_running
    (h : c.ien = false ∨ c.itime = 0 ∨ (qOf s q).intPend = false ∨ s.pwr.park ≠ .running) : endDelay q s = s := by
  simp only [endDelay, hc]
  refine if_neg ?_
  rcases h with h | h | h | h <;> simp [h]

end

/-- Settles O33: each event takes place by one operation of the block, whose lemma says what it leaves. -/
theorem queueFetchAndCompletionTakeEffect : Obligations.QueueFetchAndCompletionTakeEffect := by
  refine ⟨?fetch, ?noFetch, ?reserved, ?completion, ?interrupt⟩
  case fetch =>
    intro s s1 q c p hs hm hc hp
    refine ⟨fun hh hn => exec_queueFetch_next hs (fetchQ_host hm hc hp hh) hn, fun d marks hh ht hr hn => ?_⟩
    have hf := fetchQ_device hm hc hp hh ht
    have hmem := onlyMem_readExt s p.pa 64 0
    rw [hr] at hf hmem
    obtain ⟨x, hcmds, hcid, hxq, hseq, hstamp, hown, hbad, hwords, hnext, hfetch, hnseq, htail, htm, hrc, hundo⟩ :=
      fetchTake_after_read hmem q d (marks.any id)
    exact ⟨_, x, exec_queueFetch_next hs hf (by rw [hrc]; exact hn), hcmds, hcid, hxq, hseq, hstamp, hown, hbad, hwords,
      hnext, hfetch, hnseq, htail, htm, hrc, hundo⟩
  case noFetch =>
    intro s q hs hn hm
    exact exec_queueFetch_next hs (fetchQ_of_not_mayFetch hm) hn
  case reserved =>
    intro s cid c hs hn hc hm hb
    exact ⟨_, _, exec_queueReservedOpcode_next hs (endReserved_eq_failCmd hc hm hb) hn, cmdOf_failCmd_self 0x40 hc, rfl,
      fun d hd => cmdOf_failCmd_ne s cid d 0x40 hd, rfl⟩
  case completion =>
    intro s cid c hs hc hd ho hr
    refine ⟨fun hopen hn => exec_commandCompletion_next hs (complete_of_remoteOpen hc hopen) hn, ?_⟩
    rintro u hopen hline rfl hwr hn
    have hq : qOf (flushFor (evictFor s cid) cid) c.q = qOf s c.q := qOf_eq_of_orr (flushFor_evictFor_orr s cid) c.q
    refine ⟨_, exec_commandCompletion_next hs (complete_of_visible hc hd hr hopen hline hwr) hn, rfl, ?_,
      fun hw hseq => qOf_completeNow_cseq ho (by rw [hq, hw]) (by rw [hq, hseq])⟩
    rw [← cmdOf_cid hc]
    exact cmdOf_completeNow _ ho
  case interrupt =>
    intro s q c hs hn hc
    refine ⟨fun hi ht hp hk => ?_, fun h => ?_⟩
    · exact exec_interruptDelayExpiry_next hs (endDelay_of_running hc hi ht hp hk) (by rw [msixFire_rc]; exact hn)
    · exact exec_interruptDelayExpiry_next hs (endDelay_of_not_running hc h) hn

end Sys2Proof.Machine
end

section
/-! PROOFS. Tiles and quadrants (R20). -/

namespace Sys2Proof.Machine

/-- The column of the k-th tile of a quadrant. -/
theorem quadTile_mod (q k : Nat) : quadTile q k % 8 = q % 2 * 4 + k % 4 := by
  unfold quadTile
  omega

/-- The row of the k-th tile of a quadrant. -/
theorem quadTile_div (q k : Nat) : quadTile q k / 8 = q / 2 * 3 + k / 4 := by
  unfold quadTile
  omega

/-- A quadrant's number gives the half of its columns and the half of its rows. -/
theorem quadOf_eq_iff (t a b : Nat) (ha : a < 2) (hb : b < 2) :
    quadOf t = a + 2 * b ↔ (4 ≤ t % 8 ↔ a = 1) ∧ (3 ≤ t / 8 ↔ b = 1) := by
  unfold quadOf
  split <;> split <;> omega

theorem quadOf_lt (t : Nat) : quadOf t < 4 := by
  unfold quadOf
  split <;> split <;> omega

theorem quadTile_lt {q k : Nat} (hq : q < 4) (hk : k < 12) : quadTile q k < 48 := by
  unfold quadTile
  omega

theorem quadOf_quadTile {q k : Nat} (hq : q < 4) (hk : k < 12) : quadOf (quadTile q k) = q := by
  have h := (quadOf_eq_iff (quadTile q k) (q % 2) (q / 2) (by omega) (by omega)).mpr
    (by rw [quadTile_mod, quadTile_div]; omega)
  rw [h, Nat.mod_add_div]

/-- The tiles of a quadrant rise with their place. -/
theorem quadTile_strictMono (q : Nat) : StrictMono (quadTile q) := by
  intro j k h
  unfold quadTile
  omega

/-- The place of a tile in its quadrant. -/
def quadPlace (t : Nat) : Nat := t / 8 % 3 * 4 + t % 4

theorem quadPlace_lt (t : Nat) : quadPlace t < 12 := by
  unfold quadPlace
  omega

theorem quadTile_quadPlace {t : Nat} (ht : t < 48) : quadTile (quadOf t) (quadPlace t) = t := by
  unfold quadTile quadOf quadPlace
  split <;> split <;> omega

/-- Settles O59, from the column and the row that a quadrant and a place in it give. -/
theorem eachTileLiesInOneQuadrant : Obligations.EachTileLiesInOneQuadrant := by
  refine ⟨fun t _ => ⟨?q0, ?q1, ?q2, ?q3, quadOf_lt t⟩, fun q k hq hk => ⟨quadTile_lt hq hk, quadOf_quadTile hq hk⟩,
    fun q j k _ hjk _ => quadTile_strictMono q hjk, fun t ht => ⟨quadPlace t, quadPlace_lt t, quadTile_quadPlace ht⟩⟩
  case q0 => rw [quadOf_eq_iff t 0 0 (by omega) (by omega)]; omega
  case q1 => rw [quadOf_eq_iff t 1 0 (by omega) (by omega)]; omega
  case q2 => rw [quadOf_eq_iff t 0 1 (by omega) (by omega)]; omega
  case q3 => rw [quadOf_eq_iff t 1 1 (by omega) (by omega)]; omega

end Sys2Proof.Machine
end

section
/-! PROOFS. Accesses of the host: the window, BAR4 and CXL.mem (R392, R395 to R404, R353). -/

namespace Sys2Proof.Machine

/-! ### Arrival at the host port -/

/-- A running block serves a memory access of the host port, with no back-invalidate due first. -/
theorem portKeep_eq_next {s t : State} {h : Held} {w : Bool} {n : Nat} {f : State → State} (hs : stopped s = false)
    (hf : f s = t) (hn : t.rc.need = []) : portKeep s h w n f = .next t := by
  subst hf
  simp [portKeep, not_frozen_of_live hs, hs, settleIn_clear _ _ hn]

@[simp] theorem hostUr_rc (s : State) : (hostUr s).rc = s.rc := rfl

@[simp] theorem hostAnswer_rc (s : State) (d : List Byte) (p : Bool) : (hostAnswer s d p).rc = s.rc := rfl

@[simp] theorem bar4Refuse_rc (s : State) (a : HostAccess) : (bar4Refuse s a).rc = s.rc := by
  unfold bar4Refuse
  simp only []
  split <;> rfl

section
variable {s t : State} {h : Held} {a : HostAccess} {serve : State → State} (hs : stopped s = false)
include hs

/-- An AtomicOp or a translated address (R392). -/
theorem portArrive_not_plain (hn : s.rc.need = []) (ha : a.form ≠ .plain) : portArrive h a serve s = .next (hostUr s) :=
  portKeep_eq_next hs (if_pos (by simpa using ha)) hn

theorem portArrive_plain (ha : a.form = .plain) (hw : mustWait s h = false) (ht : serve s = t) (hn : t.rc.need = []) :
    portArrive h a serve s = .next t :=
  portKeep_eq_next hs (by simp [ha, hw, ht]) hn

end

/-- What an access to a known place waits for, one through the window waits for too (R398, R410). -/
theorem mustWait_port_of_window {s : State} {a : HostAccess} (dst : PortDst) (h : mustWait s (.window a) = false) :
    mustWait s (.port dst a) = false := by
  simp only [mustWait, heldPosted, heldReg, heldWin, heldKeyed] at h ⊢
  simp only [Bool.and_eq_false_iff, List.any_eq_false] at h ⊢
  refine h.imp_right (fun h k hk => ?_)
  have := h k hk
  cases k <;> simp_all

/-- A host's read of a line, or its request to own one, waits behind nothing that is held. -/
theorem mustWait_memRead (s : State) (pa : Nat) : mustWait s (.memRead pa) = false := by
  simp [mustWait, heldPosted, heldReg, heldWin, heldKeyed]

theorem mustWait_memOwn (s : State) (pa : Nat) : mustWait s (.memOwn pa) = false := by
  simp [mustWait, heldPosted, heldReg, heldWin, heldKeyed]

/-! ### The window and BAR4 -/

section
variable {s : State} (hp : s.pwr.park = .running) (hr : s.pwr.restart ≠ .running)
include hp hr

/-- A block that is neither parked nor restarting serves at once. -/
theorem portWaits_eq_none (h : Held) (w : Bool) (n : Nat) : portWaits s h w n = none := by simp [portWaits, hp, hr]

theorem portServe_tier (pa : Nat) (hint : BitVec 2) (a : HostAccess) :
    portServe s (.tier pa hint) a = portAccess s pa a hint := by
  simp [portServe, portWaits_eq_none hp hr]

theorem portServe_remote (a : HostAccess) : portServe s .remote a = bar4Remote s a := by
  simp [portServe, portWaits_eq_none hp hr]

theorem portServe_winOff (a : HostAccess) :
    portServe s .winOff a = if a.write then bump1 s ctrChipHwWinOff else hostUr s := by
  simp [portServe, portWaits_eq_none hp hr]

theorem portServe_refused (a : HostAccess) : portServe s .refused a = bar4Refuse s a := by
  simp [portServe, portWaits_eq_none hp hr]

end

theorem portAccess_write {s : State} {a : HostAccess} (h : a.write = true) (pa : Nat) (hint : BitVec 2) :
    portAccess s pa a hint = writeExt s pa a.data hint a.poison := if_pos h

theorem portAccess_read {s s1 : State} {a : HostAccess} {pa : Nat} {hint : BitVec 2} {d : List Byte} {marks : List Bool}
    (h : a.write = false) (hr : readExt s pa a.len hint = (s1, d, marks)) :
    portAccess s pa a hint = hostAnswer s1 d (marks.any id) := by
  simp [portAccess, h, hr]

theorem exec_windowAccess_eq (a : HostAccess) (s : State) : exec (.windowAccess a) s =
    portArrive (if mustWait s (.window a) && s.pwr.held.any heldReg then .window a else .port (windowDst s a) a) a
      (fun t => portServe t (windowDst s a) a) s := rfl

theorem exec_bar4Access_eq (a : HostAccess) (s : State) : exec (.bar4Access a) s =
    portArrive (.port (bar4Dst s a) a) a (fun t => portServe t (bar4Dst s a) a) s := rfl

section
variable {s t : State} {a : HostAccess} (hs : stopped s = false) (ha : a.form = .plain)
include hs ha

theorem exec_windowAccess_next (hw : mustWait s (.window a) = false) (h : portServe s (windowDst s a) a = t)
    (hn : t.rc.need = []) : exec (.windowAccess a) s = .next t := by
  rw [exec_windowAccess_eq, hw]
  exact portArrive_plain hs ha (mustWait_port_of_window _ hw) h hn

theorem exec_bar4Access_next (hw : mustWait s (.port (bar4Dst s a) a) = false) (h : portServe s (bar4Dst s a) a = t)
    (hn : t.rc.need = []) : exec (.bar4Access a) s = .next t := by
  rw [exec_bar4Access_eq]
  exact portArrive_plain hs ha hw h hn

end

section
variable {s : State} {a : HostAccess}

theorem windowDst_on (h : winEn s.hp.win = true) :
    windowDst s a = .tier (winBase s.hp.win + a.off) (winHint s.hp.win) := if_pos h

theorem windowDst_off (h : winEn s.hp.win = false) : windowDst s a = .winOff := by simp [windowDst, h]

/-- Within the tiers with the aperture open, or in a region that grants the access (R400, R401). -/
theorem bar4Dst_tier (h : (s.hp.aper = true ∧ inTiers a.off a.len = true) ∨ (s.hp.aper = false ∧ placeOk s a = true)) :
    bar4Dst s a = .tier a.off 0 := by
  rcases h with ⟨ho, ht⟩ | ⟨hc, hk⟩
  · simp [bar4Dst, ho, ht]
  · simp [bar4Dst, hc, hk]

theorem bar4Dst_remote (ho : s.hp.aper = true) (ht : inTiers a.off a.len = false) (hr : inRemote a.off a.len = true) :
    bar4Dst s a = .remote := by
  simp [bar4Dst, ho, ht, hr]

theorem bar4Dst_refused (h : (s.hp.aper = true ∧ inTiers a.off a.len = false ∧ inRemote a.off a.len = false) ∨
    (s.hp.aper = false ∧ placeOk s a = false)) : bar4Dst s a = .refused := by
  rcases h with ⟨ho, ht, hr⟩ | ⟨hc, hk⟩
  · simp [bar4Dst, ho, ht, hr]
  · simp [bar4Dst, hc, hk]

end

/-! ### What an answer after accesses to the tiers changes -/

theorem hostAnswer_hp {s s1 : State} (h : OnlyMem s s1) (d : List Byte) (p : Bool) :
    (hostAnswer s1 d p).hp = { s.hp with answers := s.hp.answers ++ [(d, p)] } := by
  rw [← h.hp]
  rfl

/-- Nothing but the answer, and what the accesses before it touch. -/
theorem hostAnswer_undo {s s1 : State} (h : OnlyMem s s1) (d : List Byte) (p : Bool) :
    { memUndo s (hostAnswer s1 d p) with hp := s.hp } = s := by
  have hu : { memUndo s s1 with hp := s.hp } = s := by rw [h.undo]
  exact hu

/-! ### CXL.mem -/

section
variable {s t : State} {addr pa : Nat} {w : Bool} {held : Nat → Held} {serve : Nat → State → State}
  (hs : stopped s = false)
include hs

/-- No committed decoder covers the address. -/
theorem memArrive_uncovered (hn : s.rc.need = []) (h : hdmPa s addr = none) :
    memArrive addr w held serve s = .next (hostUr s) := by
  simp only [memArrive, h]
  exact portKeep_eq_next hs rfl hn

theorem memArrive_covered (h : hdmPa s addr = some pa) (hw : mustWait s (held pa) = false) (ht : serve pa s = t)
    (hn : t.rc.need = []) : memArrive addr w held serve s = .next t := by
  simp only [memArrive, h]
  exact portKeep_eq_next hs (by simp [hw, ht]) hn

end

theorem exec_cxlMemRead_eq (addr : Nat) (s : State) :
    exec (.cxlMemRead addr) s = memArrive addr false .memRead (fun pa t => memRead t pa) s := rfl

theorem exec_cxlMemOwn_eq (addr : Nat) (s : State) :
    exec (.cxlMemOwn addr) s = memArrive addr false .memOwn (fun pa t => memOwn t pa) s := rfl

theorem exec_cxlMemWrite_eq (addr : Nat) (data : List Byte) (poison : Bool) (s : State) :
    exec (.cxlMemWrite addr data poison) s = memArrive addr true (fun pa => .memWrite pa data poison s.hp.aper)
      (fun pa t => memWrite t pa data poison s.hp.aper) s := rfl

section
variable {s t : State} {addr pa : Nat} (hs : stopped s = false) (hd : hdmPa s addr = some pa)
include hs hd

theorem exec_cxlMemRead_next (h : memRead s pa = t) (hn : t.rc.need = []) : exec (.cxlMemRead addr) s = .next t := by
  rw [exec_cxlMemRead_eq]
  exact memArrive_covered hs hd (mustWait_memRead s pa) h hn

theorem exec_cxlMemOwn_next (h : memOwn s pa = t) (hn : t.rc.need = []) : exec (.cxlMemOwn addr) s = .next t := by
  rw [exec_cxlMemOwn_eq]
  exact memArrive_covered hs hd (mustWait_memOwn s pa) h hn

theorem exec_cxlMemWrite_next {data : List Byte} {poison : Bool}
    (hw : mustWait s (.memWrite pa data poison s.hp.aper) = false) (h : memWrite s pa data poison s.hp.aper = t)
    (hn : t.rc.need = []) : exec (.cxlMemWrite addr data poison) s = .next t := by
  rw [exec_cxlMemWrite_eq]
  exact memArrive_covered hs hd hw h hn

end

/-- The line stands in the snoop filter, and only as it was recorded (R353). -/
theorem mem_filterPut (s : State) (x : Nat) (owned : Bool) : (x, owned) ∈ (filterPut s x owned).rc.snoop := by
  simp [filterPut]

theorem eq_owned_of_mem_filterPut {s : State} {x : Nat} {owned : Bool} :
    ∀ e ∈ (filterPut s x owned).rc.snoop, e.1 = x → e.2 = owned := by
  intro e he hx
  simp only [filterPut, List.mem_append, List.mem_filter, List.mem_singleton] at he
  rcases he with ⟨-, hne⟩ | rfl
  · simp [hx] at hne
  · rfl

@[simp] theorem filterPut_need (s : State) (x : Nat) (owned : Bool) : (filterPut s x owned).rc.need = s.rc.need := rfl

/-- With no other line due, the host's own record of the line holds up nothing. -/
theorem ownGate_rc {s : State} {x : Nat} (h : ∀ y ∈ s.rc.need, y = x) : (ownGate s x).rc = { s.rc with need := [] } := by
  have hf : s.rc.need.filter (fun y => y != x) = [] := by
    rw [List.filter_eq_nil_iff]
    intro y hy
    simp [h y hy]
  rw [ownGate, hf]

theorem onlyMem_ownGate (s : State) (x : Nat) : OnlyMem s (ownGate s x) := onlyMem_rc s _

theorem onlyMem_filterPut (s : State) (x : Nat) (owned : Bool) : OnlyMem s (filterPut s x owned) := onlyMem_rc s _

theorem onlyMem_cleanLine (s : State) (x : Nat) : OnlyMem s (cleanLine s x) := by
  unfold cleanLine
  split
  · exact OnlyMem.refl s
  simp only []
  split
  · exact OnlyMem.refl s
  split
  · exact (onlyMem_writeBack s _).trans (onlyMem_dropLine _ _)
  · exact onlyMem_dropLine s _

section
variable {s : State} (hp : s.pwr.park = .running) (hr : s.pwr.restart ≠ .running)
include hp hr

/-- With room in the snoop filter, a request is served at once. -/
theorem memRequest_room {x : Nat} (hv : filterVictim s x = none) (h : Held) (f : State → State) :
    memRequest s h x f = f s := by
  simp [memRequest, portWaits_eq_none hp hr, hv]

theorem memRead_room {s1 : State} {pa : Nat} {d : List Byte} {bad : Bool} (hv : filterVictim s (pa / 64) = none)
    (hd : readLine s (pa / 64) 0 = (s1, d, bad)) :
    memRead s pa = hostAnswer (filterPut (ownGate s1 (pa / 64)) (pa / 64) false) d bad := by
  simp only [memRead, memRequest_room hp hr hv, hd]

theorem memOwn_room {s1 : State} {pa : Nat} {d : List Byte} {p : List Bool} (hv : filterVictim s (pa / 64) = none)
    (hd : dReadSecs (cleanLine s (pa / 64)) (pa / 64 * 64) 2 = (s1, d, p)) :
    memOwn s pa = hostAnswer (filterPut s1 (pa / 64) true) d (p.any id) := by
  simp only [memOwn, memRequest_room hp hr hv, hd]

/-- A write to a protected area with the aperture closed (R403). -/
theorem memWrite_protected {pa : Nat} (h : protectedArea s (pa / 64 * 64) 64 = true) (data : List Byte) (poison : Bool) :
    memWrite s pa data poison false = bump1 s ctrChipHpMemRej := by
  simp [memWrite, portWaits_eq_none hp hr, h]

theorem memWrite_open {pa : Nat} {aper : Bool} (h : aper = true ∨ protectedArea s (pa / 64 * 64) 64 = false)
    (data : List Byte) (poison : Bool) :
    memWrite s pa data poison aper = ownGate (writeLine s pa (data.take (64 - pa % 64)) 0 poison) (pa / 64) := by
  rcases h with h | h <;> simp [memWrite, portWaits_eq_none hp hr, h]

end

/-- Settles O24: each access takes place by one operation of the host port, which the lemmas above follow to the tiers. -/
theorem hostAccessesTakeEffect : Obligations.HostAccessesTakeEffect := by
  refine ⟨?notPlain, ?winOff, ?winOn, ?bar4, ?uncovered, ?memRead, ?memOwn, ?memWrite, ?commit⟩
  case notPlain =>
    intro s a hs hn ha
    rw [exec_windowAccess_eq, exec_bar4Access_eq]
    exact ⟨portArrive_not_plain hs hn ha, portArrive_not_plain hs hn ha⟩
  case winOff =>
    intro s a hs hp hr hn ha hw hoff
    refine exec_windowAccess_next hs ha hw (by rw [windowDst_off hoff, portServe_winOff hp hr]) ?_
    split <;> exact hn
  case winOn =>
    intro s a hs hp hr ha hw hon
    have hserve : portServe s (windowDst s a) a = portAccess s (winBase s.hp.win + a.off) a (winHint s.hp.win) := by
      rw [windowDst_on hon, portServe_tier hp hr]
    refine ⟨?_, fun s1 d marks hwr hread hn => ?_⟩
    · rintro t hwr rfl hn
      exact ⟨exec_windowAccess_next hs ha hw (hserve.trans (portAccess_write hwr _ _)) hn, (onlyMem_writeExt ..).undo⟩
    · have hmem := onlyMem_readExt s (winBase s.hp.win + a.off) a.len (winHint s.hp.win)
      rw [hread] at hmem
      exact ⟨_, exec_windowAccess_next hs ha hw (hserve.trans (portAccess_read hwr hread)) hn, hostAnswer_hp hmem _ _,
        rfl, rfl, hostAnswer_undo hmem _ _⟩
  case bar4 =>
    intro s a hs hp hr ha hw
    refine ⟨fun htier => ?tier, fun ho ht hrem hn => ?remote, fun href hn => ?refused⟩
    case tier =>
      have hserve : portServe s (bar4Dst s a) a = portAccess s a.off a 0 := by
        rw [bar4Dst_tier htier, portServe_tier hp hr]
      refine ⟨?_, fun s1 d marks hwr hread hn => ?_⟩
      · rintro t hwr rfl hn
        exact ⟨exec_bar4Access_next hs ha hw (hserve.trans (portAccess_write hwr _ _)) hn, (onlyMem_writeExt ..).undo⟩
      · exact exec_bar4Access_next hs ha hw (hserve.trans (portAccess_read hwr hread)) hn
    case remote =>
      exact exec_bar4Access_next hs ha hw (by rw [bar4Dst_remote ho ht hrem, portServe_remote hp hr]) hn
    case refused =>
      have hserve : portServe s (bar4Dst s a) a = bar4Refuse s a := by
        rw [bar4Dst_refused href, portServe_refused hp hr]
      have hneed : (bar4Refuse s a).rc.need = [] := by rw [bar4Refuse_rc, hn]
      exact exec_bar4Access_next hs ha hw hserve hneed
  case uncovered =>
    intro s addr data poison hs hn hd
    rw [exec_cxlMemRead_eq, exec_cxlMemOwn_eq, exec_cxlMemWrite_eq]
    exact ⟨memArrive_uncovered hs hn hd, memArrive_uncovered hs hn hd, memArrive_uncovered hs hn hd⟩
  case memRead =>
    intro s s1 addr pa d bad hs hp hr hd hv hread hneed
    have hline := onlyMem_readLine s (pa / 64) 0
    rw [hread] at hline
    have hmem := (hline.trans (onlyMem_ownGate s1 (pa / 64))).trans (onlyMem_filterPut _ (pa / 64) false)
    have hn : (ownGate s1 (pa / 64)).rc.need = [] := by rw [ownGate_rc hneed]
    exact ⟨_, exec_cxlMemRead_next hs hd (memRead_room hp hr hv hread) hn, hostAnswer_hp hmem _ _,
      eq_owned_of_mem_filterPut, mem_filterPut .., rfl, hostAnswer_undo hmem _ _⟩
  case memOwn =>
    intro s s1 addr pa d p hs hp hr hd hv hread hn
    have hline := onlyMem_dReadSecs (cleanLine s (pa / 64)) (pa / 64 * 64) 2
    rw [hread] at hline
    have hmem := ((onlyMem_cleanLine s _).trans hline).trans (onlyMem_filterPut s1 (pa / 64) true)
    exact ⟨_, exec_cxlMemOwn_next hs hd (memOwn_room hp hr hv hread) hn, hostAnswer_hp hmem _ _,
      eq_owned_of_mem_filterPut, mem_filterPut .., rfl, hostAnswer_undo hmem _ _⟩
  case memWrite =>
    intro s addr pa data poison hs hp hr hd hw
    refine ⟨fun hc hprot hn => ?_, ?_⟩
    · have hrej : memWrite s pa data poison s.hp.aper = bump1 s ctrChipHpMemRej := by
        rw [hc]
        exact memWrite_protected hp hr hprot data poison
      exact exec_cxlMemWrite_next hs hd hw hrej hn
    · rintro u hopen rfl hneed
      have hrc := ownGate_rc hneed
      have hmem := (onlyMem_writeLine s pa (data.take (64 - pa % 64)) 0 poison).trans (onlyMem_ownGate _ (pa / 64))
      exact ⟨_, exec_cxlMemWrite_next hs hd hw (memWrite_open hp hr hopen data poison) (by rw [hrc]), rfl, hrc, hmem.undo⟩
  case commit =>
    intro s hs hn
    exact hostAct_live (f := fun t => { t with hp := { t.hp with hdm := t.hp.hdmProg } }) hs hn

end Sys2Proof.Machine
end

section
/-! PROOFS. The chip port: a request without translation, behind a fault that switches a queue out (R353, R382, R383). -/

namespace Sys2Proof.Machine

/-! ### No step leaves a back-invalidate due -/

theorem lockWaits_rc (s : State) (need : List Nat) : (lockWaits s need).rc = s.rc := by
  refine foldl_keeps State.rc _ (fun t k => ?_) _ s
  exact bump1_rc t _

theorem sendSnoops_need (s : State) (need : List Nat) : (sendSnoops s need).rc.need = s.rc.need := by
  refine foldl_keeps (fun t => t.rc.need) _ (fun t x => ?_) _ s
  rfl

/-- An event takes place with no back-invalidate due, or waits in the state before it (R353). -/
theorem settleIn_need {base : State} (h : base.rc.need = []) (t : State) : (settleIn base t).rc.need = [] := by
  unfold settleIn
  split
  · exact List.isEmpty_iff.mp ‹_›
  · rw [sendSnoops_need, lockWaits_rc, h]

theorem exec_chipPortRequest_need {s t : State} {r : CpRequest} (hn : s.rc.need = [])
    (h : exec (.chipPortRequest r) s = .next t) : t.rc.need = [] := by
  cases h
  split
  · exact hn
  · exact settleIn_need (base := hold s (.chipPort r)) hn _

/-! ### A state in which a request without translation waits -/

namespace SwitchedOut

/-- A queue whose task is switched out at a fault (R383). -/
def conf : QConf := {
  ring := 0, log2n := 6, cring := 0, log2cn := 6, cseqAddr := 0, lc := false, switch := true, tiles := BitVec.allOnes 48,
  depth := 4, slice := 64, ien := false, ivec := 0, icount := 1, itime := 0, hang := 64, hostRes := false }

def job : LkJob :=
  { newJob State.reset 0 0 false false false false 0 { idx := [], off := [0, 1], wgt := [], win := [] } with q := 0 }

/-- A discarded speculative read of the slot at address 0 is still under way (R131). -/
def entry : RowEnt := {
  row := 0, dedup := true, size := 64, src := .none, probe := .absent, data := none, conf := false, queued := true,
  unpop := false, poisoned := false, win := 0, defer := [], late := some (.slot 0 0 3 false, 0) }

def work : Unit' :=
  { newUnit job.jid false 2 { bag0 := 0, nbags := 1, seg := none, p0 := 0, p1 := 1 } with st := .running, ents := [entry] }

/-- The unit runs, the host owns line 0, and a fault of stream 0, which serves queue 0, has stalled (R384). -/
def state : State :=
  { State.reset with
    pwr := { Pwr.reset with pllLock := true }
    mc := { MemCtl.reset with stk := [(0, { Stack.reset with inService := true })] }
    rc := { State.reset.rc with snoop := [(0, true)] }
    str := { Streams.reset with
      streams := [(0, { Strm.reset with st := .running })],
      stalled := [{ addr := 0, right := 0, lc := false, engine := 0, req := .stream 0 }] }
    orr := { Orrery.reset with
      queues := [(0, { Queue.reset with conf := some conf, st := .running })], jobs := [job], units := [work] } }

/-- A read of address 0, which no range entry translates. -/
def request : CpRequest := { id := 1, va := 0, len := 4, op := 0, data := [], poison := false }

theorem state_serves : stopped state = false ∧ mustWait state (.chipPort request) = false ∧ state.pwr.park = .running ∧
    state.pwr.restart ≠ .running ∧ state.rc.need = [] ∧ rangeAt state false 0 = none := by
  decide +kernel

/-- The stalled fault takes its entry first and switches queue 0 out; what its unit drains reads line 0, which the host
owns. -/
theorem takeFault_needs_backInvalidate :
    (takeFault (bump1 state (xltMissCtr 48)) 0 0 false 48 (.cp request)).rc.need ≠ [] := by
  decide +kernel

end SwitchedOut

/-- Refutes O50: the clause on an address without an entry says nothing of back-invalidates. The request's fault comes
behind those that have stalled; one of these switches its queue's task out, the read that its unit drains needs a line that
the host owns, and the request waits for the back-invalidate. -/
theorem not_extentCommandsAndChipPortTakeEffect : ¬ Obligations.ExtentCommandsAndChipPortTakeEffect := by
  rintro ⟨-, hport, -⟩
  obtain ⟨hs, hw, hp, hr, hn, hnone⟩ := SwitchedOut.state_serves
  obtain ⟨-, hgo⟩ := hport SwitchedOut.state SwitchedOut.request SwitchedOut.request 0 hs rfl rfl
  obtain ⟨-, hmiss, -⟩ := hgo hw hp hr
  exact SwitchedOut.takeFault_needs_backInvalidate (exec_chipPortRequest_need hn (hmiss (by decide) hn hnone))

end Sys2Proof.Machine
end

section
/-! PROOFS. Commands that define tables: codebooks, descriptors, bindings and split groups (R44, R45, R67, R71, R72,
R277). -/

namespace Sys2Proof.Machine

/-! ### Buffers, channels and descriptors -/

/-- A command goes on with the bytes of its input buffer (R493). -/
theorem BufReads.withBuf_eq {s s1 : State} {c : MbCtx} {a n : Nat} {l : List Byte} (h : BufReads s c a n s1 l)
    (k : State → List Byte → MbOut) : withBuf s c a n k = k s1 l := h k

/-- A command goes on with what writes its output buffer (R493). -/
theorem BufTakes.withOut_eq {s : State} {c : MbCtx} {a n : Nat} {w : State → List Byte → State} (h : BufTakes s c a n w)
    (k : (State → List Byte → State) → MbOut) : withOut s c a n k = k w := h k

theorem chanOf_eq_of_chans {s t : State} (h : t.chans = s.chans) (c : Nat) : chanOf t c = chanOf s c := by
  rw [chanOf, chanOf, h]

theorem descOf_eq_mset_self {t : State} {l : FMap Desc} {d : Nat} {x : Desc} (h : t.tabs.descs = mset l d x) :
    descOf t d = x := by
  rw [descOf, h, mget_mset_self]

theorem descOf_eq_mset_ne {s t : State} {d e : Nat} {x : Desc} (h : t.tabs.descs = mset s.tabs.descs d x) (he : e ≠ d) :
    descOf t e = descOf s e := by
  rw [descOf, h, mget_mset_ne _ _ _ _ _ he, descOf]

/-- A command whose effect leaves the channels ends on its own channel alone. -/
theorem mbEnded_of_chans {s t : State} (h : t.chans = s.chans) (ch : Fin 16) (rc : Nat) (rets : List (Nat × W64)) :
    MbEnded s (mbComplete t ch rc rets) ch rc rets :=
  mbEnded_mbComplete (fun c _ => chanOf_eq_of_chans h c)

/-- As `mbEnded_of_chans`, from the state in which the command was taken. -/
theorem mbEnded_of_chans_mbTake {s t : State} {m : MbWrite} {opc : Nat} (h : t.chans = (mbTake s m opc).chans) (rc : Nat)
    (rets : List (Nat × W64)) : MbEnded s (mbComplete t m.ch rc rets) m.ch rc rets :=
  mbEnded_mbComplete (fun c hc => (chanOf_eq_of_chans h c).trans (chanOf_mbTake_ne s m opc c hc))

/-! ### Writing a descriptor -/

/-- An access to the tiers is the same under other tables. -/
theorem OnlyMem.withTabs {s t : State} (h : OnlyMem s t) (x : Tabs) :
    OnlyMem { s with tabs := x } { t with tabs := x } := { h with tabs := rfl }

/-- An access to the tiers is the same beside other companions. -/
theorem OnlyMem.withLy {s t : State} (h : OnlyMem s t) (x : FMap Lyush) :
    OnlyMem { s with ly := x } { t with ly := x } := { h with ly := rfl }

/-- The descriptor's bytes go to memory behind the change of the cached copy. -/
theorem onlyMem_putDesc (s : State) (d : Nat) (x : Desc) :
    OnlyMem { s with tabs := { s.tabs with descs := mset s.tabs.descs d x } } (putDesc s d x) := onlyMem_writeExt ..

theorem putDesc_tabs (s : State) (d : Nat) (x : Desc) :
    (putDesc s d x).tabs = { s.tabs with descs := mset s.tabs.descs d x } := (onlyMem_putDesc s d x).tabs

theorem onlyMem_clearAreas (s : State) (x : Desc) : OnlyMem s (clearAreas s x) := by
  have h8 := OnlyMem.foldl (fun t k => zeroExt (zeroExt t (tierSBase + k * compSpan + x.homeOff * 4096) (homeBytes x))
      (tierSBase + k * compSpan + x.stateOff * 4096) (stateBytes x))
    (fun t k => (onlyMem_zeroExt t _ _).trans (onlyMem_zeroExt _ _ _)) (List.range 8) s
  unfold clearAreas
  simp only []
  split
  · exact h8.trans (OnlyMem.foldl _ (fun t q => onlyMem_zeroExt t _ _) _ _)
  · exact h8

/-! ### LOAD_CODEBOOK (R44, R45) -/

/-- The codebook under its number on the chip, and in no tile's cache (R45, R46). -/
def cbOnChip (s : State) (id : Nat) (c : Codebook) : State :=
  { s with
    tabs := { s.tabs with cbs := mset s.tabs.cbs id c },
    tiles := mmap s.tiles (fun _ t => { t with cb := t.cb.filter (fun x => x.1 != id) }) }

/-- A companion with the codebook. -/
def cbInCompanion (id : Nat) (c : Codebook) (l : Lyush) : Lyush := { l with cbs := mset l.cbs id c }

theorem storeCb_def (s : State) (id : Nat) (c : Codebook) : storeCb s id c =
    allLy (writeExt (cbOnChip s id c) (cbBase (cbOnChip s id c) + 1024 * id) (cbRecord id c) 0 false)
      (fun _ => cbInCompanion id c) := rfl

theorem onlyMem_storeCb (s : State) (id : Nat) (c : Codebook) :
    ∃ ly, OnlyMem { cbOnChip s id c with ly := ly } (storeCb s id c) := by
  have h := onlyMem_writeExt (cbOnChip s id c) (cbBase (cbOnChip s id c) + 1024 * id) (cbRecord id c) 0 false
  obtain ⟨y, hy⟩ := allLy_eq (writeExt (cbOnChip s id c) (cbBase (cbOnChip s id c) + 1024 * id) (cbRecord id c) 0 false)
    (fun _ => cbInCompanion id c)
  rw [storeCb_def, hy]
  exact ⟨y, h.withLy y⟩

/-- Every companion takes the codebook. -/
theorem mget?_cbs_lyOf_storeCb (s : State) (id : Nat) (c : Codebook) {k : Nat} (hk : k < 8) :
    mget? (lyOf (storeCb s id c) k).cbs id = some c := by
  rw [storeCb_def, lyOf_allLy _ _ k hk]
  exact mget?_mset_self _ _ _

theorem withPeers_up {s : State} (h : downPorts s = []) (k : State → MbOut) : withPeers s k = k s := by
  simp [withPeers, h]

section
variable {s s1 s2 : State} {c : MbCtx} {h ent : List Byte} {id : Nat} {cb : Codebook}
  (hh : BufReads s c (c.p 0) 32 s1 h) (hok : cbHdrOk h = true)
  (he : BufReads s1 c (c.p 0 + 32) (2 * cbLen (numAt h 0 4 / 1024 % 4)) s2 ent) (hc : cbCheck s2 h ent = .ok (id, cb))
include hh hok he hc

theorem bodyLoadCodebook_same (hm : mget? s2.tabs.cbs id = some cb) : bodyLoadCodebook s c = .done s2 rcOk [] := by
  simp [bodyLoadCodebook, hh.withBuf_eq, hok, he.withBuf_eq, hc, hm]

theorem bodyLoadCodebook_new (hm : mget? s2.tabs.cbs id ≠ some cb) (hd : downPorts s2 = []) :
    bodyLoadCodebook s c = .done (storeCb s2 id cb) rcOk [] := by
  simp [bodyLoadCodebook, hh.withBuf_eq, hok, he.withBuf_eq, hc, hm, withPeers_up hd]

end

/-! ### DEFINE_TABLE (R71, R506) -/

/-- The counters of a new version at 0, and no load of it failed (R506, R549). -/
def versionFresh (s : State) (d : Nat) : State :=
  { s with
    ctrs := clearUnit s.ctrs 1 d, tabs := { s.tabs with loadFailed := sdel (sdel s.tabs.loadFailed d) (4096 + d) } }

/-- A companion with the context of descriptor `d`. -/
def ctxInCompanion (d : Nat) (x : Desc) (l : Lyush) : Lyush :=
  { l with ctx := mset l.ctx d (ctxOfDesc x), pendCtx := l.pendCtx.filter (fun y => y.1 != d) }

theorem defineDesc_def (s : State) (d : Nat) (x : Desc) : defineDesc s d x =
    allLy (putDesc (versionFresh (clearAreas s x) d) d x) (fun _ => ctxInCompanion d x) := rfl

/-- The tables with a new version: descriptor `d`, of which no load failed. -/
def tabsDefined (s : State) (d : Nat) (x : Desc) : Tabs :=
  { s.tabs with
    descs := mset s.tabs.descs d x, loadFailed := sdel (sdel s.tabs.loadFailed d) (4096 + d) }

theorem onlyMem_defineDesc (s : State) (d : Nat) (x : Desc) :
    ∃ ly, OnlyMem { s with tabs := tabsDefined s d x, ly := ly } (defineDesc s d x) := by
  have hc := onlyMem_clearAreas s x
  have ht : tabsDefined (clearAreas s x) d x = tabsDefined s d x := by simp only [tabsDefined, hc.tabs]
  have hp := onlyMem_putDesc (versionFresh (clearAreas s x) d) d x
  have hf : OnlyMem { s with tabs := tabsDefined s d x } { clearAreas s x with
      ctrs := clearUnit (clearAreas s x).ctrs 1 d, tabs := tabsDefined s d x } :=
    (hc.withTabs _).trans (onlyMem_ctrs _ _)
  obtain ⟨y, hy⟩ := allLy_eq (putDesc (versionFresh (clearAreas s x) d) d x) (fun _ => ctxInCompanion d x)
  rw [defineDesc_def, hy]
  rw [← ht] at hf ⊢
  exact ⟨y, (hf.trans hp).withLy y⟩

/-- Every companion takes the context. -/
theorem mget?_ctx_lyOf_defineDesc (s : State) (d : Nat) (x : Desc) {k : Nat} (hk : k < 8) :
    mget? (lyOf (defineDesc s d x) k).ctx d = some (ctxOfDesc x) := by
  rw [defineDesc_def, lyOf_allLy _ _ k hk]
  exact mget?_mset_self _ _ _

/-- The seed is the image's or is drawn: beside the count of draws nothing changes. -/
theorem eq_draws_of_seed {s u : State} {x : W64} {seed : W64}
    (h : (u, seed) = if x = 0 then draw s else (s, x)) : u = { s with draws := u.draws } := by
  split at h
  · rw [(Prod.mk.inj h).1]
  · rw [(Prod.mk.inj h).1]

theorem bodyDefineTable_new {s s1 u : State} {c : MbCtx} {l : List Byte} {d : Nat} {x : Desc} {seed : W64}
    (hl : BufReads s c (c.p 0) 128 s1 l) (hd : c.f 1 0 12 = d) (hx : descOfBytes l (c.f 2 0 16) = x)
    (hr : x.resident = true → s1.pwr.sl = 3) (hfree : (descOf s1 d).dstate = 0)
    (hv : findDesc s1 x.table (fun y => y.tver == x.tver) = none) (hrefuse : descRefuse s1 l x = none)
    (hp : downPorts s1 = []) (hu : (u, seed) = if x.tseed = 0 then draw s1 else (s1, x.tseed)) :
    bodyDefineTable s c = .done (defineDesc u d { x with tseed := seed }) rcOk [(0, seed)] := by
  have hres : (x.resident && s1.pwr.sl != 3) = false := by
    cases hx : x.resident with
    | false => rfl
    | true => simp [hr hx]
  simp only [bodyDefineTable, hl.withBuf_eq, hd, hx, hres, hfree, hv, hrefuse, withPeers_up hp, ← hu, bne_self_eq_false,
    Option.isSome_none, Bool.false_eq_true, if_false]

/-! ### BIND_TABLE and DROP_TABLE (R72, R277) -/

/-- The tables with descriptor `d` LIVE under its table number. -/
def tabsBound (s : State) (d : Nat) : Tabs :=
  { s.tabs with
    descs := mset s.tabs.descs d { descOf s d with dstate := 2 }, binding := mset s.tabs.binding (descOf s d).table d }

/-- The tables with descriptor `d` RETIRING, and unbound if it was LIVE. -/
def tabsRetired (s : State) (d : Nat) : Tabs :=
  { s.tabs with
    descs := mset s.tabs.descs d { descOf s d with dstate := 3 },
    binding := if (descOf s d).dstate = 2 then mdel s.tabs.binding (descOf s d).table else s.tabs.binding }

theorem onlyMem_bindDesc (s : State) (d : Nat) : OnlyMem { s with tabs := tabsBound s d } (bindDesc s d) := by
  have h := (onlyMem_putDesc s d { descOf s d with dstate := 2 }).withTabs (tabsBound s d)
  have hb : bindDesc s d = { putDesc s d { descOf s d with dstate := 2 } with tabs := tabsBound s d } := by
    simp only [bindDesc, putDesc_tabs, tabsBound]
  rw [hb]
  exact h

theorem onlyMem_retireDesc (s : State) (d : Nat) : OnlyMem { s with tabs := tabsRetired s d } (retireDesc s d) := by
  have h := (onlyMem_putDesc s d { descOf s d with dstate := 3 }).withTabs (tabsRetired s d)
  have hr : retireDesc s d = { putDesc s d { descOf s d with dstate := 3 } with tabs := tabsRetired s d } := by
    unfold retireDesc tabsRetired
    simp only []
    split
    · simp only [putDesc_tabs]
    · rw [← putDesc_tabs]
  rw [hr]
  exact h

theorem bodyBindTable_ready {s : State} {c : MbCtx} {d : Nat} {x : Desc} (hl : liveDesc s (c.f 0 0 12) = none)
    (hf : findDesc s (c.f 0 0 12) (fun y => y.dstate == 1 && y.tver == BitVec.ofNat 16 (c.f 0 16 16)) = some (d, x))
    (hu : lUsed s d = false) (hr : versionReady s d x = true) :
    bodyBindTable s c = .done (bindDesc s d) rcOk [] := by
  simp [bodyBindTable, hl, hf, hu, hr]

theorem bodyDropTable_found {s : State} {c : MbCtx} {d : Nat} {x : Desc}
    (hf : findDesc s (c.f 0 0 12) (fun y => y.dstate != 3 && y.tver == BitVec.ofNat 16 (c.f 0 16 16)) = some (d, x))
    (hu : lUsed s d = false) : bodyDropTable s c = .done (retireDesc s d) rcOk [] := by
  simp [bodyDropTable, hf, hu]

/-! ### SET_SPLIT_GROUP (R67) -/

/-- The split group `g` stands as the record `r`. -/
def withGroup (s : State) (g : Nat) (r : Group) : State :=
  { s with tabs := { s.tabs with groups := mset s.tabs.groups g r } }

/-- The chips of a split group of 2^l, as its buffer names them. -/
def groupChips (l : Nat) (b : List Byte) : List (BitVec 12) :=
  (List.range (2 ^ l)).map (fun i => BitVec.ofNat 12 (numAt b (2 * i) 2))

theorem setGroup_ok {s : State} {g : Nat} {r : Group} (hc : ∀ x ∈ r.chips, x ≠ 4095)
    (hr : r.chips.getD r.rank 0 = s.mer.fabric) : setGroup s g r = .done (withGroup s g r) rcOk [] := by
  have hany : r.chips.any (fun c => c == 4095) = false := by simpa using hc
  simp only [setGroup, hany, hr, bne_self_eq_false, Bool.or_self, Bool.false_eq_true, if_false, withGroup]

theorem ne_4095_of_mem_groupChips {l : Nat} {b : List Byte} (h : ∀ i, i < 2 ^ l → numAt b (2 * i) 2 < 4095) :
    ∀ x ∈ groupChips l b, x ≠ 4095 := by
  intro x hx he
  obtain ⟨i, hi, rfl⟩ := List.mem_map.mp hx
  have hlt := h i (List.mem_range.mp hi)
  have hn : numAt b (2 * i) 2 % 2 ^ 12 = 4095 := congrArg BitVec.toNat he
  omega

theorem getD_groupChips {l k : Nat} {b : List Byte} {f : BitVec 12} (hk : k < 2 ^ l)
    (h : numAt b (2 * k) 2 = f.toNat) : (groupChips l b).getD k 0 = f := by
  simp [groupChips, hk, h]

theorem bodySetSplitGroup_alone {s : State} {c : MbCtx} (hl : c.f 0 6 3 = 0) (hk : c.f 0 9 6 = 0) (hp : c.p 1 = 0)
    (hu : s.tabs.descs.any (fun e => e.2.dstate != 0 && e.2.group == c.f 0 0 6) = false) :
    bodySetSplitGroup s c =
      .done (withGroup s (c.f 0 0 6) { log2s := 0, rank := 0, chips := [s.mer.fabric] }) rcOk [] := by
  simp only [bodySetSplitGroup, hl, hk, hp, hu]
  rfl

theorem bodySetSplitGroup_shared {s s1 : State} {c : MbCtx} {b : List Byte} {l k : Nat} (hl : c.f 0 6 3 = l)
    (hk : c.f 0 9 6 = k) (h1 : 1 ≤ l) (h7 : l < 7) (hkl : k < 2 ^ l)
    (hu : s.tabs.descs.any (fun e => e.2.dstate != 0 && e.2.group == c.f 0 0 6) = false)
    (hb : BufReads s c (c.p 1) (2 * 2 ^ l) s1 b) (hc : ∀ i, i < 2 ^ l → numAt b (2 * i) 2 < 4095)
    (hr : numAt b (2 * k) 2 = s1.mer.fabric.toNat) :
    bodySetSplitGroup s c = .done (withGroup s1 (c.f 0 0 6) ⟨l, k, groupChips l b⟩) rcOk [] := by
  have hbad : (l = 7 || decide (2 ^ l ≤ k)) = false := by simp; omega
  have hnum : (List.range (2 ^ l)).any (fun i => decide (4094 < numAt b (2 * i) 2)) = false := by
    simp only [List.any_eq_false, List.mem_range, decide_eq_true_eq]
    intro i hi
    have := hc i hi
    omega
  have hg : setGroup s1 (c.f 0 0 6) ⟨l, k, groupChips l b⟩ = _ :=
    setGroup_ok (ne_4095_of_mem_groupChips hc) (getD_groupChips hkl hr)
  have h0 : l ≠ 0 := by omega
  simp only [bodySetSplitGroup, hl, hk, hbad, hu, h0, hb.withBuf_eq, hnum, Bool.false_eq_true, if_false]
  exact hg

/-! ### The commands that define tables -/

/-- A completed LOAD_CODEBOOK leaves, beside what accesses to the tiers touch, the codebooks, the companions and the tiles'
caches alone. -/
theorem storeCb_undo (s : State) (id : Nat) (cb : Codebook) (c rc : Nat) (rets : List (Nat × W64)) :
    { memUndo s (mbUndo s (mbComplete (storeCb s id cb) c rc rets)) with
      tabs := { (mbComplete (storeCb s id cb) c rc rets).tabs with cbs := s.tabs.cbs },
      ly := s.ly, tiles := s.tiles } = s := by
  obtain ⟨y, h⟩ := onlyMem_storeCb s id cb
  rw [mbUndo_mbComplete, mbComplete_tabs, h.tabs]
  exact congrArg (fun v => { mbUndo s v with tabs := s.tabs, ly := s.ly, tiles := s.tiles }) h.undo

/-- A completed command that changes the tables, and nothing else beside what accesses to the tiers touch. -/
theorem OnlyMem.undo_withTabs {s t : State} {m : MbWrite} {opc : Nat} {x : Tabs}
    (h : OnlyMem { mbTake s m opc with tabs := x } t) (c rc : Nat) (rets : List (Nat × W64)) :
    { memUndo s (mbUndo s (mbComplete t c rc rets)) with tabs := s.tabs } = s := by
  rw [mbUndo_mbComplete]
  exact congrArg (fun v : State => { mbUndo s v with tabs := s.tabs }) h.undo

/-- Settles O15: each command's own part answers one state, of which the lemmas above say what it holds. -/
theorem tableDefinitionsTakeEffect : Obligations.TableDefinitionsTakeEffect := by
  refine ⟨?loadCodebook, ?defineTable, ?bindTable, ?dropTable, ?groupAlone, ?groupShared⟩
  case loadCodebook =>
    intro s s1 s2 m h ent id cb hm hh hok he hc
    refine ⟨fun hsame hn => mbox_done hm (bodyLoadCodebook_same hh hok he hc hsame) hn, fun hnew hp hn => ?_⟩
    obtain ⟨y, ho⟩ := onlyMem_storeCb s2 id cb
    have htabs : (mbComplete (storeCb s2 id cb) m.ch rcOk []).tabs.cbs = mset s2.tabs.cbs id cb := by
      rw [mbComplete_tabs, ho.tabs]; rfl
    refine ⟨_, mbox_done hm (bodyLoadCodebook_new hh hok he hc hnew hp) hn, mbEnded_of_chans ho.chans _ _ _, ?_, ?_, ?_,
      storeCb_undo ..⟩
    · rw [htabs, mget?_mset_self]
    · intro j hj
      rw [htabs, mget?_mset_ne _ _ _ _ hj]
    · intro k hk
      rw [lyOf, mbComplete_ly]
      exact mget?_cbs_lyOf_storeCb s2 id cb hk
  case defineTable =>
    intro s s1 u m l d x seed hm hl hd hx hr hfree hv hrefuse hp hu hn
    have hud := eq_draws_of_seed hu
    obtain ⟨y, ho⟩ := onlyMem_defineDesc u d { x with tseed := seed }
    have hbody := bodyDefineTable_new hl hd hx hr hfree hv hrefuse hp hu
    generalize hw : defineDesc u d { x with tseed := seed } = w at ho hn hbody
    rw [hud] at ho
    have htabs : (mbComplete w m.ch rcOk [(0, seed)]).tabs = tabsDefined s1 d { x with tseed := seed } := by
      rw [mbComplete_tabs, ho.tabs]; rfl
    have hdesc : descOf (mbComplete w m.ch rcOk [(0, seed)]) d = { x with tseed := seed } :=
      descOf_eq_mset_self (congrArg Tabs.descs htabs)
    refine ⟨_, mbox_done hm hbody hn, mbEnded_of_chans ho.chans _ _ _, hdesc, ?_, ?_, ?_, ?_, ?_⟩
    · rw [hdesc, ← hx]; rfl
    · exact fun e he => descOf_eq_mset_ne (congrArg Tabs.descs htabs) he
    · rw [htabs]; rfl
    · intro k hk
      rw [lyOf, mbComplete_ly, ← hw]
      exact mget?_ctx_lyOf_defineDesc u d _ hk
    · rw [mbUndo_mbComplete]
      exact congrArg (fun v => { mbUndo s1 v with tabs := s1.tabs, ly := s1.ly, draws := s1.draws }) ho.undo
  case bindTable =>
    intro s m d x hm hl hf hu hr hn
    have ho := onlyMem_bindDesc (mbTake s m 0x14) d
    have htabs : (mbComplete (bindDesc (mbTake s m 0x14) d) m.ch rcOk []).tabs = tabsBound s d := by
      rw [mbComplete_tabs, ho.tabs]; rfl
    refine ⟨mbComplete (bindDesc (mbTake s m 0x14) d) m.ch rcOk [], mbox_done hm (bodyBindTable_ready hl hf hu hr) hn,
      mbEnded_of_chans_mbTake ho.chans _ _, descOf_eq_mset_self (congrArg Tabs.descs htabs),
      fun e he => descOf_eq_mset_ne (congrArg Tabs.descs htabs) he,
      ?_, ?_, ho.undo_withTabs ..⟩
    · rw [htabs]; exact mget?_mset_self _ _ _
    · intro n hne
      rw [htabs]; exact mget?_mset_ne _ _ _ _ hne
  case dropTable =>
    intro s m d x hm hf hu hn
    have ho := onlyMem_retireDesc (mbTake s m 0x15) d
    have htabs : (mbComplete (retireDesc (mbTake s m 0x15) d) m.ch rcOk []).tabs = tabsRetired s d := by
      rw [mbComplete_tabs, ho.tabs]; rfl
    refine ⟨mbComplete (retireDesc (mbTake s m 0x15) d) m.ch rcOk [], mbox_done hm (bodyDropTable_found hf hu) hn,
      mbEnded_of_chans_mbTake ho.chans _ _, descOf_eq_mset_self (congrArg Tabs.descs htabs),
      fun e he => descOf_eq_mset_ne (congrArg Tabs.descs htabs) he,
      ?_, ho.undo_withTabs ..⟩
    · rw [htabs]; rfl
  case groupAlone =>
    intro s m hm hn hl hk hp hu
    exact mbox_done hm (bodySetSplitGroup_alone hl hk hp hu) hn
  case groupShared =>
    intro s s1 m b l k hm hl hk h1 h7 hkl hu hb hn hc hr
    exact mbox_done hm (bodySetSplitGroup_shared hl hk h1 h7 hkl hu hb hc hr) hn

end Sys2Proof.Machine
end

section
/-! PROOFS. Loads and dumps of tables (R60, R62, R63, R506, R513). -/

namespace Sys2Proof.Machine

/-! ### Loads change codebooks and memory -/

/-- Beside accesses to the tiers, only the codebooks, the tiles' caches and the companions may differ. -/
def OnlyCbs (s t : State) : Prop :=
  ∃ cbs tiles ly, OnlyMem { s with tabs := { s.tabs with cbs := cbs }, tiles := tiles, ly := ly } t

theorem OnlyMem.onlyCbs {s t : State} (h : OnlyMem s t) : OnlyCbs s t := ⟨s.tabs.cbs, s.tiles, s.ly, h⟩

theorem onlyCbs_storeCb (s : State) (id : Nat) (c : Codebook) : OnlyCbs s (storeCb s id c) := by
  obtain ⟨y, h⟩ := onlyMem_storeCb s id c
  exact ⟨(cbOnChip s id c).tabs.cbs, (cbOnChip s id c).tiles, y, h⟩

namespace OnlyCbs

theorem trans {s t u : State} (h : OnlyCbs s t) (k : OnlyCbs t u) : OnlyCbs s u := by
  obtain ⟨c1, q1, y1, h⟩ := h
  obtain ⟨c2, q2, y2, k⟩ := k
  have hs : OnlyMem { s with tabs := { s.tabs with cbs := c2 }, tiles := q2, ly := y2 }
      { t with tabs := { t.tabs with cbs := c2 }, tiles := q2, ly := y2 } :=
    { h with tabs := by rw [h.tabs], tiles := rfl, ly := rfl }
  exact ⟨c2, q2, y2, hs.trans k⟩

theorem descs {s t : State} (h : OnlyCbs s t) : t.tabs.descs = s.tabs.descs := by
  obtain ⟨c, q, y, h⟩ := h
  rw [h.tabs]

theorem binding {s t : State} (h : OnlyCbs s t) : t.tabs.binding = s.tabs.binding := by
  obtain ⟨c, q, y, h⟩ := h
  rw [h.tabs]

/-- Nothing but the tables, the companions, the tiles' caches and what accesses to the tiers touch. -/
theorem undo {s t : State} (h : OnlyCbs s t) (x : Tabs) :
    { memUndo s (mbUndo s { t with tabs := x }) with tabs := s.tabs, ly := s.ly, tiles := s.tiles } = s := by
  obtain ⟨c, q, y, h⟩ := h
  exact congrArg (fun v : State => { mbUndo s v with tabs := s.tabs, ly := s.ly, tiles := s.tiles }) h.undo

end OnlyCbs

/-- The codebooks of an image, where each record passes (R63). -/
theorem onlyCbs_loadCbs {x : Desc} {img : List Byte} {lim n off : Nat} {seen : List Nat} {s t : State}
    (h : loadCbs x img lim n off seen s = (t, none)) : OnlyCbs s t := by
  induction n generalizing off seen s with
  | zero =>
    unfold loadCbs at h
    split at h
    · cases h
      exact (OnlyMem.refl _).onlyCbs
    · cases h
  | succ n ih =>
    unfold loadCbs at h
    simp only [] at h
    split at h
    · cases h
    split at h
    · cases h
    split at h
    · cases h
    split at h
    · exact ih h
    split at h
    · cases h
    · exact (onlyCbs_storeCb _ _ _).trans (ih h)

theorem onlyMem_writeSlice (s : State) (d : Nat) (x : Desc) (row : Nat) (sl : List Byte) :
    OnlyMem s (writeSlice s d x row sl) := by
  unfold writeSlice
  simp only []
  split
  · exact (onlyMem_writeExt ..).trans (OnlyMem.foldl _ (fun t q => onlyMem_writeExt ..) _ _)
  · exact onlyMem_writeExt ..

theorem onlyMem_loadSlices (d : Nat) (x : Desc) (img : List Byte) (n off lo : Nat) (rows : List Nat) (s : State) :
    OnlyMem s (loadSlices d x img n off lo rows s).1 := by
  induction n generalizing off lo rows s with
  | zero => exact OnlyMem.refl s
  | succ n ih =>
    unfold loadSlices
    simp only []
    split
    · exact OnlyMem.refl s
    · exact (onlyMem_writeSlice ..).trans (ih ..)

/-- A load that passes its third step has written one row for each slice record. -/
theorem length_of_loadSlices_ok {d : Nat} {x : Desc} {img : List Byte} {n off lo stop : Nat} {rows rows' : List Nat}
    {s t : State} (h : loadSlices d x img n off lo rows s = (t, none, rows', stop)) :
    rows'.length = rows.length + n := by
  induction n generalizing off lo rows s with
  | zero => cases h; rfl
  | succ n ih =>
    unfold loadSlices at h
    simp only [] at h
    split at h
    · cases h
    · rw [ih h, List.length_cons]
      omega

theorem onlyMem_loadStates (d : Nat) (x : Desc) (file : List Byte) (rows : List Nat) (n off lo k : Nat) (s : State) :
    OnlyMem s (loadStates d x file rows n off lo k s).1 := by
  induction n generalizing off lo k s with
  | zero => exact OnlyMem.refl s
  | succ n ih =>
    unfold loadStates
    simp only []
    split
    · exact OnlyMem.refl s
    · exact (onlyMem_writeExt ..).trans (ih ..)

/-! ### LOAD_IMAGE -/

/-- Every end of a load is the command's end. -/
theorem loadDone_eq_done (s : State) (f : Option LoadFail) (a b : Nat) :
    ∃ rc rets, loadDone s f a b = .done s rc rets := by
  cases f with
  | none => exact ⟨_, _, rfl⟩
  | some e => exact ⟨_, _, rfl⟩

/-- A load runs to its end in one go, whatever it finds. -/
theorem loadImage_eq_done (s : State) (d : Nat) (img : List Byte) (file : Option (List Byte)) :
    ∃ t rc rets, loadImage s d img file = .done t rc rets := by
  have hd (s : State) (f : Option LoadFail) (a b : Nat) : ∃ t rc rets, loadDone s f a b = .done t rc rets :=
    ⟨s, loadDone_eq_done s f a b⟩
  unfold loadImage
  simp only []
  split
  · exact hd ..
  split
  · exact hd ..
  split
  · exact hd ..
  split
  · exact hd ..
  split
  · exact hd ..
  split <;> exact hd ..

/-- An image whose header fails changes nothing. -/
theorem loadImage_of_bad_header {s : State} {d : Nat} {img : List Byte} (h : imgHdrOk img (descOf s d) = false)
    (file : Option (List Byte)) :
    loadImage s d img file = .done s rcFormat [(0, 0), (1, 0), (2, 0), (3, 0)] := by
  simp only [loadImage, h]
  rfl

theorem mem_sdel {l : List Nat} {n k : Nat} : k ∈ sdel l n ↔ k ∈ l ∧ k ≠ n := by simp [sdel]

/-- The state in which a load ends, `failed` being the versions that cannot be committed. -/
def loadedState (s : State) (failed : List Nat) : State := { s with tabs := { s.tabs with loadFailed := failed } }

section
variable {s s1 s2 : State} {d stop : Nat} {img : List Byte} {rows : List Nat}
  (hh : imgHdrOk img (descOf s d) = true)
  (hc : loadCbs (descOf s d) img (imgHdr img).slOff (imgHdr img).ncb (imgHdr img).cbOff [] s = (s1, none))
  (hs : loadSlices d (descOf s d) img (imgHdr img).nsl (imgHdr img).slOff 0 [] (clearAreas s1 (descOf s d)) =
    (s2, none, rows, stop))
include hc hs

/-- The three steps of an image change the codebooks and the memory. -/
theorem onlyCbs_of_image_ok : OnlyCbs s s2 := by
  have hm := onlyMem_loadSlices d (descOf s d) img (imgHdr img).nsl (imgHdr img).slOff 0 []
    (clearAreas s1 (descOf s d))
  rw [hs] at hm
  exact (onlyCbs_loadCbs hc).trans ((onlyMem_clearAreas ..).trans hm).onlyCbs

variable (hcrc : crc32 (bytesAt img (imgHdr img).slOff (stop - (imgHdr img).slOff)) = (imgHdr img).slCrc)
include hh hcrc

theorem loadImage_of_ok : loadImage s d img none =
    .done (loadedState s2 (sdel s2.tabs.loadFailed d)) rcOk [(1, BitVec.ofNat 64 rows.length), (2, BitVec.ofNat 64 0)] := by
  simp only [loadImage, hh, hc, hs, hcrc, bne_self_eq_false]
  rfl

theorem loadImage_of_ok_states {s3 : State} {f : List Byte} {n : Nat} (hf : stHdrOk f (descOf s d) = true)
    (hst : loadStates d (descOf s d) f rows (numAt f 8 8) 16 0 0 s2 = (s3, none, n)) : loadImage s d img (some f) =
      .done (loadedState s3 (sdel (sdel s3.tabs.loadFailed d) (4096 + d))) rcOk
        [(1, BitVec.ofNat 64 rows.length), (2, BitVec.ofNat 64 n)] := by
  simp only [loadImage, hh, hc, hs, hcrc, hst, Option.any_some, hf, bne_self_eq_false]
  rfl

end

/-- An image and a state file that pass their steps: what the load leaves and what it returns (R62, R63, R513). -/
theorem loadImage_ok {s s1 s2 s3 : State} {d stop n : Nat} {img : List Byte} {file : Option (List Byte)}
    {rows : List Nat} (hh : imgHdrOk img (descOf s d) = true)
    (hc : loadCbs (descOf s d) img (imgHdr img).slOff (imgHdr img).ncb (imgHdr img).cbOff [] s = (s1, none))
    (hs : loadSlices d (descOf s d) img (imgHdr img).nsl (imgHdr img).slOff 0 [] (clearAreas s1 (descOf s d)) =
      (s2, none, rows, stop))
    (hcrc : crc32 (bytesAt img (imgHdr img).slOff (stop - (imgHdr img).slOff)) = (imgHdr img).slCrc)
    (hf : (file = none ∧ s3 = s2 ∧ n = 0) ∨ (∃ f, file = some f ∧ stHdrOk f (descOf s d) = true ∧
      loadStates d (descOf s d) f rows (numAt f 8 8) 16 0 0 s2 = (s3, none, n))) :
    OnlyCbs s s3 ∧ ∃ failed, d ∉ failed ∧ loadImage s d img file =
      .done (loadedState s3 failed) rcOk [(1, BitVec.ofNat 64 rows.length), (2, BitVec.ofNat 64 n)] := by
  have himg := onlyCbs_of_image_ok hc hs
  rcases hf with ⟨rfl, rfl, rfl⟩ | ⟨f, rfl, hok, hst⟩
  · exact ⟨himg, _, by simp [mem_sdel], loadImage_of_ok hh hc hs hcrc⟩
  · have hm := onlyMem_loadStates d (descOf s d) f rows (numAt f 8 8) 16 0 0 s2
    rw [hst] at hm
    exact ⟨himg.trans hm.onlyCbs, _, by simp [mem_sdel], loadImage_of_ok_states hh hc hs hcrc hok hst⟩

/-- The buffers of a load: the image, and the state file where its address is not zero (R493, R506). -/
theorem bodyLoadImage_eq {s s1 s2 : State} {c : MbCtx} {d : Nat} {img : List Byte} {file : Option (List Byte)}
    (hd : c.f 2 0 12 = d) (hload : (descOf s d).dstate = 1) (hu : lUsed s d = false)
    (hi : BufReads s c (c.p 0) (c.f 1 0 64) s1 img)
    (hf : (c.p 3 = 0 ∧ c.f 4 0 64 = 0 ∧ file = none ∧ s2 = s1) ∨
      (c.p 3 ≠ 0 ∧ ∃ f, file = some f ∧ BufReads s1 c (c.p 3) (c.f 4 0 64) s2 f)) :
    bodyLoadImage s c = loadImage s2 d img file := by
  rcases hf with ⟨hp, hn, rfl, rfl⟩ | ⟨hp, f, rfl, hb⟩
  · simp [bodyLoadImage, hd, hload, hu, hi.withBuf_eq, hp, hn]
  · simp [bodyLoadImage, hd, hload, hu, hi.withBuf_eq, hp, hb.withBuf_eq]

/-! ### DUMP_TABLE -/

theorem onlyMem_rowGate (s : State) (k d row : Nat) : OnlyMem s (rowGate s k d row) := by
  unfold rowGate
  split
  · exact onlyMem_rc s _
  · exact OnlyMem.refl s

theorem onlyMem_rowTurn (s : State) (d row : Nat) : OnlyMem s (rowTurn s d row) := onlyMem_rowGate ..

theorem onlyMem_readHome (s : State) (d row : Nat) : OnlyMem s (readHome s d row).1 :=
  (onlyMem_rowTurn s d row).trans (onlyMem_readSlot ..)

theorem onlyMem_readRec (s : State) (d row n : Nat) : OnlyMem s (readRec s d row n).1 :=
  ((onlyMem_rowTurn s d row).trans (onlyMem_snoopExt ..)).trans (onlyMem_dReadSecs ..)

theorem onlyMem_readCopy (s : State) (d : Nat) (e : AEnt) : OnlyMem s (readCopy s d e).1 := onlyMem_readExt ..

/-- What a structural recursion over the naturals gives, from what each of its steps makes of the value before. -/
theorem brecOn_induction {α : Type} {p : α → Prop} (f : (n : Nat) → Nat.below (motive := fun _ => α) n → α)
    (zero : ∀ b, p (f 0 b)) (succ : ∀ n (b : Nat.below (motive := fun _ => α) (n + 1)), p b.1 → p (f (n + 1) b))
    (n : Nat) : p (Nat.brecOn n f) := by
  induction n with
  | zero => exact zero _
  | succ n ih => exact succ n _ ih

/-! The places of the Almanac and of the home slots are hashes (R73, R81), which the kernel must not evaluate when it
checks a match on what is read there. So each of the next definitions is unfolded as a function, and the reads in it are
replaced by variables before it is reduced. -/

theorem onlyMem_probeGo (d row k i : Nat) (s : State) : OnlyMem s (probeGo d row k i s).1 := by
  have hdef : @probeGo._f = @probeGo._f := rfl
  conv_rhs at hdef => delta probeGo._f
  delta probeGo
  refine brecOn_induction (p := fun f => ∀ i s, OnlyMem s (f i s).1) (probeGo._f d row) ?zero ?succ k i s
  case zero =>
    rw [hdef]
    exact fun _ _ s => OnlyMem.refl s
  case succ =>
    intro n b ih i s
    have hl := onlyMem_readLine
    obtain ⟨line, hline⟩ := exists_eq (a' := @readLine)
    rw [hdef]
    rw [← hline] at hl ⊢
    simp only []
    split
    · exact ((hl ..).trans (onlyMem_bump1 ..)).trans (ih ..)
    split
    · exact (hl ..).trans (onlyMem_bump ..)
    split
    · exact (hl ..).trans (onlyMem_bump ..)
    · exact ((hl ..).trans (onlyMem_bump ..)).trans (ih ..)

theorem onlyMem_probe (s : State) (d row : Nat) : OnlyMem s (probe s d row).1 := onlyMem_probeGo ..

/-- A dump reads a row's home slot, its record, its bucket and its copy, and changes no more than these reads do. -/
theorem onlyMem_dumpRow (s : State) (d row : Nat) : OnlyMem s (dumpRow s d row).1 := by
  have hdef : @dumpRow = @dumpRow := rfl
  conv_rhs at hdef => delta dumpRow
  have hh := onlyMem_readHome
  have hr := onlyMem_readRec
  have hp := onlyMem_probe
  have hc := onlyMem_readCopy
  obtain ⟨home, hhome⟩ := exists_eq (a' := @readHome)
  obtain ⟨record, hrecord⟩ := exists_eq (a' := @readRec)
  obtain ⟨find, hfind⟩ := exists_eq (a' := @probe)
  obtain ⟨copy, hcopy⟩ := exists_eq (a' := @readCopy)
  rw [hdef]
  rw [← hhome] at hh ⊢
  rw [← hrecord] at hr ⊢
  rw [← hfind] at hp ⊢
  rw [← hcopy] at hc ⊢
  simp only []
  split
  · exact hh s d row
  have hfound := ((hh s d row).trans (hr _ d row (descOf s d).stateSz)).trans (hp _ d row)
  split
  · next s3 heq =>
    rw [heq] at hfound
    exact hfound
  · next s3 p heq =>
    rw [heq] at hfound
    exact hfound.trans (hc s3 d p.ent)

theorem onlyMem_dumpRows (d n row : Nat) (s : State) : OnlyMem s (dumpRows d n row s).1 := by
  have hdef : @dumpRows._f = @dumpRows._f := rfl
  conv_rhs at hdef => delta dumpRows._f
  delta dumpRows
  refine brecOn_induction (p := fun f => ∀ row s, OnlyMem s (f row s).1) (dumpRows._f d) ?zero ?succ n row s
  case zero =>
    rw [hdef]
    exact fun _ _ s => OnlyMem.refl s
  case succ =>
    intro n b ih row s
    have hr := onlyMem_dumpRow
    obtain ⟨one, hone⟩ := exists_eq (a' := @dumpRow)
    rw [hdef]
    rw [← hone] at hr ⊢
    exact (hr s d row).trans (ih ..)

/-- The end of a dump whose buffers are large enough (R506). -/
theorem bodyDumpTable_eq {s s1 u : State} {c : MbCtx} {w w1 : State → List Byte → State} {rows : List DumpRow}
    {st : List Byte} {d : Nat} (hd : c.f 2 0 12 = d) (hlive : 2 ≤ (descOf s d).dstate) (hu : lUsed s d = false)
    (hmax : 64 + (dumpCbs s (descOf s d)).length + (descOf s d).rows * (8 + homeSz (descOf s d)) ≤ c.f 1 0 64)
    (hrows : dumpRows d (descOf s d).rows 0 s = (s1, rows))
    (hst : (c.p 3 = 0 ∧ c.f 4 0 64 = 0 ∧ st = [] ∧ u = s1) ∨
      (c.p 3 ≠ 0 ∧ 16 + (descOf s d).rows * (8 + (descOf s d).stateSz * 32) ≤ c.f 4 0 64 ∧
        BufTakes s c (c.p 3) (c.f 4 0 64) w1 ∧ st = dumpState (descOf s d) rows ∧ u = w1 s1 st))
    (hw : BufTakes u c (c.p 0) (c.f 1 0 64) w) :
    bodyDumpTable s c = .done (w u (dumpImage u (descOf s d) rows)) rcOk
      [(0, BitVec.ofNat 64 (dumpImage u (descOf s d) rows).length), (1, BitVec.ofNat 64 st.length),
       (2, BitVec.ofNat 64 rows.length)] := by
  have hlive' : ¬ (descOf s d).dstate < 2 := Nat.not_lt.mpr hlive
  have hmax' := Nat.not_lt.mpr hmax
  rcases hst with ⟨hp, hn, rfl, rfl⟩ | ⟨hp, hsz, hb, rfl, rfl⟩
  · simp [bodyDumpTable, hd, hlive', hu, hmax', hp, hn, hrows, hw.withOut_eq]
  · have hsz' := Nat.not_lt.mpr hsz
    simp [bodyDumpTable, hd, hlive', hu, hmax', hp, hsz', hrows, hb.withOut_eq, hw.withOut_eq]

/-- Settles O16: a load's and a dump's own part in closed form, by the steps of R63 and R513 and by the reads of R506. -/
theorem tableLoadsAndDumpsTakeEffect : Obligations.TableLoadsAndDumpsTakeEffect := by
  refine ⟨?load, ?dump⟩
  case load =>
    intro s s1 s2 m img file d hm hd hload hu hi hf
    have hbody : bodyLoadImage (mbTake s m 0x12) (mbCtx s m) = loadImage s2 d img file :=
      bodyLoadImage_eq hd hload hu hi hf
    refine ⟨?ends, fun hbad hn => ?badHeader, fun s3 s4 s5 rows stop n hh hc hs hcrc hst hn => ?passes⟩
    case ends =>
      obtain ⟨t, rc, rets, ht⟩ := loadImage_eq_done s2 d img file
      exact ⟨t, rc, rets, ht, fun hn => mbox_done hm (hbody.trans ht) hn⟩
    case badHeader => exact mbox_done hm (hbody.trans (loadImage_of_bad_header hbad file)) hn
    case passes =>
      obtain ⟨ho, failed, hd', ht⟩ := loadImage_ok hh hc hs hcrc hst
      have hlen : rows.length = (imgHdr img).nsl := by simpa using length_of_loadSlices_ok hs
      rw [hlen] at ht
      refine ⟨_, mbox_done hm (hbody.trans ht) hn, MbDone_mbComplete .., hlen, ?_, ?_, ?_, ?_, ?_, ?_⟩
      · rw [mbComplete_mem]; rfl
      · rw [mbComplete_rc]; rfl
      · rw [mbComplete_tabs]; exact hd'
      · rw [mbComplete_tabs]; exact ho.descs
      · rw [mbComplete_tabs]; exact ho.binding
      · rw [mbUndo_mbComplete]; exact ho.undo _
  case dump =>
    intro s s1 u m w w1 rows st d hm hd hlive hu hmax hrows hst hw hn
    have hr := onlyMem_dumpRows d (descOf s d).rows 0 (mbTake s m 0x13)
    rw [hrows] at hr
    exact ⟨_, mbox_done hm (bodyDumpTable_eq hd hlive hu hmax hrows hst hw) hn, rfl, hr.tabs⟩

end Sys2Proof.Machine
end

section
/-! PROOFS. What the gather engines' operations change in a unit, in its entries and in the credits of the tiles, and what
they leave as it was (R124 to R131, R146). -/

namespace Sys2Proof.Machine

/-! ### Units and jobs -/

/-- Looking an element up after a change that the test does not see. -/
theorem find?_map_of_eq {α : Type} {p : α → Bool} {f : α → α} (h : ∀ a, p (f a) = p a) (l : List α) :
    (l.map f).find? p = (l.find? p).map f := by
  rw [List.find?_map, show p ∘ f = p from funext h]

theorem unitOf_uid {s : State} {uid : Nat} {u : Unit'} (h : unitOf s uid = some u) : u.uid = uid := by
  simpa using List.find?_some h

theorem unitOf_eq_of_orr {s t : State} (h : t.orr = s.orr) (uid : Nat) : unitOf t uid = unitOf s uid := by
  rw [unitOf, unitOf, h]

theorem jobOf_eq_of_jobs {s t : State} (h : t.orr.jobs = s.orr.jobs) (jid : Nat) : jobOf t jid = jobOf s jid := by
  rw [jobOf, jobOf, h]

theorem unitOf_updUnit {s : State} {uid : Nat} {u : Unit'} (f : Unit' → Unit') (h : unitOf s uid = some u)
    (hf : ∀ v, v.uid = uid → (f v).uid = uid) : unitOf (updUnit s uid f) uid = some (f u) := by
  have hp : ∀ v : Unit', ((if v.uid = uid then f v else v).uid == uid) = (v.uid == uid) := by
    intro v
    split
    · next hv => simp [hf v hv, hv]
    · rfl
  have hfind : unitOf (updUnit s uid f) uid = (unitOf s uid).map (fun v => if v.uid = uid then f v else v) :=
    find?_map_of_eq hp s.orr.units
  rw [hfind, h, Option.map_some, if_pos (unitOf_uid h)]

theorem jobOf_updJob (s : State) (n jid : Nat) (f : LkJob → LkJob) (hf : ∀ j, (f j).jid = j.jid) :
    jobOf (updJob s n f) jid = (jobOf s jid).map (fun j => if j.jid = n then f j else j) :=
  find?_map_of_eq (fun j => by split <;> simp [hf]) s.orr.jobs

theorem runningLk_eq_some {s : State} {uid : Nat} {u : Unit'} {j : LkJob} :
    runningLk s uid = some (u, j) ↔
      unitOf s uid = some u ∧ u.st = .running ∧ u.expand = false ∧ jobOf s u.jid = some j := by
  unfold runningLk
  cases unitOf s uid with
  | none => simp
  | some v =>
    simp only [Option.some.injEq]
    constructor
    · intro h
      split at h
      · cases h
      · next hr =>
        obtain ⟨k, hk, hu⟩ := Option.map_eq_some_iff.mp h
        cases hu
        simp only [Bool.or_eq_true, bne_iff_ne, not_or, ne_eq, not_not, Bool.not_eq_true] at hr
        exact ⟨rfl, hr.1, hr.2, hk⟩
    · rintro ⟨rfl, hr, he, hj⟩
      simp [hr, he, hj]

/-- The entries of a unit after a change of one of them. -/
theorem zipIdx_map_eq_modify {α : Type} (l : List α) (i : Nat) (f : α → α) :
    l.zipIdx.map (fun x => if x.2 = i then f x.1 else x.1) = l.modify i f := by
  apply List.ext_getElem?
  intro k
  simp only [List.getElem?_map, List.getElem?_zipIdx, List.getElem?_modify, Nat.zero_add, Option.map_map]
  cases l[k]? with
  | none => rfl
  | some a => by_cases h : k = i <;> simp [h, eq_comm]

theorem updEnt_eq (s : State) (uid i : Nat) (f : RowEnt → RowEnt) :
    updEnt s uid i f = updUnit s uid (fun u => { u with ents := u.ents.modify i f }) := by
  simp only [updEnt, zipIdx_map_eq_modify]

theorem unitOf_updEnt {s : State} {uid : Nat} {u : Unit'} (i : Nat) (f : RowEnt → RowEnt) (h : unitOf s uid = some u) :
    unitOf (updEnt s uid i f) uid = some { u with ents := u.ents.modify i f } := by
  rw [updEnt_eq]
  exact unitOf_updUnit _ h (fun _ hv => hv)

/-! ### Steps beside the units -/

/-- Every tile has the credits in use that it had. -/
structure SameCredits (s t : State) : Prop where
  lc : ∀ k, (tileOf t k).lcUsed = (tileOf s k).lcUsed
  be : ∀ k, (tileOf t k).beUsed = (tileOf s k).beUsed

theorem tileOf_eq_of_tiles {s t : State} (h : t.tiles = s.tiles) (k : Nat) : tileOf t k = tileOf s k := by
  rw [tileOf, tileOf, h]

theorem SameCredits.of_tiles {s t : State} (h : t.tiles = s.tiles) : SameCredits s t :=
  ⟨fun k => by rw [tileOf_eq_of_tiles h], fun k => by rw [tileOf_eq_of_tiles h]⟩

theorem SameCredits.trans {s t u : State} (h : SameCredits s t) (k : SameCredits t u) : SameCredits s u :=
  ⟨fun n => (k.lc n).trans (h.lc n), fun n => (k.be n).trans (h.be n)⟩

@[simp] theorem tileOf_setTile_self (s : State) (k : Nat) (x : Tile) : tileOf (setTile s k x) k = x :=
  mget_mset_self ..

theorem tileOf_setTile_ne {s : State} {k a : Nat} (x : Tile) (h : a ≠ k) : tileOf (setTile s k x) a = tileOf s a :=
  mget_mset_ne _ _ _ _ _ h

/-- The step changes neither Orrery's state nor the credits of a tile. -/
structure SameWork (s t : State) : Prop where
  orr : t.orr = s.orr
  credits : SameCredits s t

theorem SameWork.of_tiles {s t : State} (ho : t.orr = s.orr) (ht : t.tiles = s.tiles) : SameWork s t :=
  ⟨ho, SameCredits.of_tiles ht⟩

theorem OnlyMem.sameWork {s t : State} (h : OnlyMem s t) : SameWork s t := SameWork.of_tiles h.orr h.tiles

namespace SameWork

theorem refl (s : State) : SameWork s s := of_tiles rfl rfl

theorem trans {s t u : State} (h : SameWork s t) (k : SameWork t u) : SameWork s u :=
  ⟨k.orr.trans h.orr, h.credits.trans k.credits⟩

theorem foldl {α : Type} (f : State → α → State) (hf : ∀ s a, SameWork s (f s a)) (l : List α) (s : State) :
    SameWork s (l.foldl f s) := by
  induction l generalizing s with
  | nil => exact refl s
  | cons a l ih => exact (hf s a).trans (ih _)

end SameWork

theorem winCtr_eq (s : State) (win : W32) (k n : Nat) : ∃ cs, winCtr s win k n = { s with ctrs := cs } := by
  unfold winCtr
  split
  · exact ⟨_, rfl⟩
  · split <;> exact ⟨_, rfl⟩

theorem onlyMem_winCtr (s : State) (win : W32) (k n : Nat) : OnlyMem s (winCtr s win k n) := by
  obtain ⟨cs, h⟩ := winCtr_eq s win k n
  rw [h]
  exact onlyMem_ctrs s cs

theorem onlyMem_reRise (s : State) (win : W32) (conf : Bool) (l : List (Nat × Nat)) : OnlyMem s (reRise s win conf l) :=
  OnlyMem.foldl _ (fun t x => by
    split
    · exact onlyMem_winCtr ..
    · split
      · exact onlyMem_bump ..
      · exact OnlyMem.refl t) l s

theorem onlyMem_rowRead (s : State) (d tile row : Nat) (src : RowSrc) : OnlyMem s (rowRead s d tile row src).1 := by
  cases src with
  | none => exact OnlyMem.refl s
  | kept w => exact OnlyMem.refl s
  | home => exact onlyMem_readHome ..
  | spec slot ver w ep => exact onlyMem_readExt ..
  | slot a ver w keep => exact onlyMem_readExt ..
  | resident => exact onlyMem_readExt ..

theorem onlyMem_quietRead (s : State) (d tile row : Nat) (src : RowSrc) : OnlyMem s (quietRead s d tile row src).1 :=
  (onlyMem_rowRead s d tile row src).trans (onlyMem_ctrs _ _)

theorem sameWork_notePass (s : State) (t : Nat) : SameWork s (notePass s t) := by
  unfold notePass
  split <;> exact SameWork.of_tiles rfl rfl

theorem sameWork_hintWrite (s : State) (t d row : Nat) (e : AEnt) : SameWork s (hintWrite s t d row e) :=
  SameWork.of_tiles rfl rfl

theorem sameWork_hintDrop (s : State) (t d row : Nat) : SameWork s (hintDrop s t d row) := by
  unfold hintDrop
  split <;> exact SameWork.of_tiles rfl rfl

theorem sketchHit_eq (s : State) (win : W32) (d row : Nat) (promoted : Bool) :
    ∃ ld, sketchHit s win d row promoted = { s with load := ld } := by
  unfold sketchHit
  split
  · exact ⟨_, rfl⟩
  · split
    · exact ⟨_, rfl⟩
    · split <;> exact ⟨_, rfl⟩

theorem loadCount_eq (s : State) (win : W32) (d row n : Nat) (tierF promoted : Bool) :
    ∃ cs ld, loadCount s win d row n tierF promoted = { s with ctrs := cs, load := ld } := by
  have hctr : ∃ cs, (if tierF then winCtr s win (ctrTableTblFRd d) n
      else winCtr (winCtr s win (ctrTableTblSRd d) n) win (ctrTableShardRd d (homeComp d (descOf s d) row)) n) =
        { s with ctrs := cs } := by
    split
    · exact winCtr_eq ..
    · obtain ⟨c1, h1⟩ := winCtr_eq s win (ctrTableTblSRd d) n
      obtain ⟨c2, h2⟩ := winCtr_eq { s with ctrs := c1 } win (ctrTableShardRd d (homeComp d (descOf s d) row)) n
      exact ⟨c2, by rw [h1, h2]⟩
  obtain ⟨cs, hcs⟩ := hctr
  obtain ⟨ld, hld⟩ := sketchHit_eq { s with ctrs := cs } win d row promoted
  exact ⟨cs, ld, by rw [loadCount, hcs, hld]⟩

/-- A row read counts in the window counters, the sketch and the candidate tables (R285 to R287). -/
theorem countRead_eq (s : State) (j : LkJob) (e : RowEnt) :
    ∃ cs ld, countRead s j e = { s with ctrs := cs, load := ld } := by
  unfold countRead
  simp only []
  split <;> exact loadCount_eq ..

theorem sameWork_countRead (s : State) (j : LkJob) (e : RowEnt) : SameWork s (countRead s j e) := by
  obtain ⟨cs, ld, h⟩ := countRead_eq s j e
  rw [h]
  exact SameWork.of_tiles rfl rfl

theorem sameCredits_setTile {s : State} {t : Nat} {x : Tile} (hl : x.lcUsed = (tileOf s t).lcUsed)
    (hb : x.beUsed = (tileOf s t).beUsed) : SameCredits s (setTile s t x) := by
  constructor <;> intro k <;> by_cases hk : k = t
  · rw [hk, tileOf_setTile_self, hl]
  · rw [tileOf_setTile_ne x hk]
  · rw [hk, tileOf_setTile_self, hb]
  · rw [tileOf_setTile_ne x hk]

/-- A tile's codec that uses a codebook changes no more than its cache of them. -/
theorem sameWork_cbTouch (s : State) (t id : Nat) (c : Codebook) : SameWork s (cbTouch s t id c) := by
  unfold cbTouch
  extract_lets x keep s1
  refine SameWork.trans (t := s1) ?_ ⟨rfl, sameCredits_setTile rfl rfl⟩
  unfold s1
  split
  · exact SameWork.refl s
  · exact ((onlyMem_bump1 ..).trans (onlyMem_readExt ..)).sameWork

theorem sameWork_cbDecode (s : State) (t : Nat) (x : Desc) (sl : List Byte) : SameWork s (cbDecode s t x sl) := by
  unfold cbDecode
  split
  · exact sameWork_cbTouch ..
  · exact SameWork.refl s

end Sys2Proof.Machine
end

section
/-! PROOFS. Data that enter the lanes (R141, R146, R149): what an entry keeps when its row is read again, and what a unit keeps
when its positions enter their groups. -/

namespace Sys2Proof.Machine

/-! ### What an entry and a unit keep -/

/-- What a row's entry keeps when the row is read again for the lanes: only a row that has no dedup entry gets new data, and
an address that was not given up stands (R131, R149). -/
structure EntKept (e f : RowEnt) : Prop where
  row : f.row = e.row
  probe : f.probe = e.probe
  conf : f.conf = e.conf
  late : f.late = e.late
  dedup : f.dedup = e.dedup
  data : f.data = none ↔ e.data = none
  stored : e.dedup = true → f.data = e.data
  src : (∀ w, e.src ≠ .kept w) → f.src = e.src

namespace EntKept

theorem refl (e : RowEnt) : EntKept e e := ⟨rfl, rfl, rfl, rfl, rfl, Iff.rfl, fun _ => rfl, fun _ => rfl⟩

theorem trans {e f g : RowEnt} (h : EntKept e f) (k : EntKept f g) : EntKept e g where
  row := k.row.trans h.row
  probe := k.probe.trans h.probe
  conf := k.conf.trans h.conf
  late := k.late.trans h.late
  dedup := k.dedup.trans h.dedup
  data := k.data.trans h.data
  stored hd := (k.stored (h.dedup.trans hd)).trans (h.stored hd)
  src hs := (k.src (fun w => by rw [h.src hs]; exact hs w)).trans (h.src hs)

end EntKept

/-- What a unit keeps when data enter its lanes. -/
structure UnitKept (u v : Unit') : Prop where
  jid : v.jid = u.jid
  expand : v.expand = u.expand
  st : v.st = u.st
  cursor : v.cursor = u.cursor
  pos : v.pos.length = u.pos.length
  ents : ∀ (i : Nat) (e : RowEnt), u.ents[i]? = some e → ∃ f, v.ents[i]? = some f ∧ EntKept e f

namespace UnitKept

theorem of_ents {u v : Unit'} (hj : v.jid = u.jid) (hx : v.expand = u.expand) (hs : v.st = u.st)
    (hc : v.cursor = u.cursor) (hp : v.pos.length = u.pos.length) (he : v.ents = u.ents) : UnitKept u v :=
  ⟨hj, hx, hs, hc, hp, fun _ e h => ⟨e, by rw [he]; exact h, EntKept.refl e⟩⟩

theorem refl (u : Unit') : UnitKept u u := of_ents rfl rfl rfl rfl rfl rfl

theorem trans {u v w : Unit'} (h : UnitKept u v) (k : UnitKept v w) : UnitKept u w where
  jid := k.jid.trans h.jid
  expand := k.expand.trans h.expand
  st := k.st.trans h.st
  cursor := k.cursor.trans h.cursor
  pos := k.pos.trans h.pos
  ents i e he := by
    obtain ⟨f, hf, hef⟩ := h.ents i e he
    obtain ⟨g, hg, hfg⟩ := k.ents i f hf
    exact ⟨g, hg, hef.trans hfg⟩

end UnitKept

/-- The step does no more than put data of unit `uid` in the lanes, as far as Orrery and the credits tell. -/
structure LanesOnly (uid : Nat) (s t : State) : Prop where
  jobs : t.orr.jobs = s.orr.jobs
  credits : SameCredits s t
  unit : ∀ u, unitOf s uid = some u → ∃ v, unitOf t uid = some v ∧ UnitKept u v

theorem SameWork.lanesOnly {s t : State} (h : SameWork s t) (uid : Nat) : LanesOnly uid s t :=
  ⟨by rw [h.orr], h.credits, fun u hu => ⟨u, (unitOf_eq_of_orr h.orr uid).trans hu, UnitKept.refl u⟩⟩

namespace LanesOnly

variable {uid : Nat}

theorem refl (s : State) : LanesOnly uid s s := (SameWork.refl s).lanesOnly uid

theorem trans {s t u : State} (h : LanesOnly uid s t) (k : LanesOnly uid t u) : LanesOnly uid s u where
  jobs := k.jobs.trans h.jobs
  credits := h.credits.trans k.credits
  unit x hx := by
    obtain ⟨y, hy, hxy⟩ := h.unit x hx
    obtain ⟨z, hz, hyz⟩ := k.unit y hy
    exact ⟨z, hz, hxy.trans hyz⟩

theorem foldl {α : Type} (f : State → α → State) (hf : ∀ s a, LanesOnly uid s (f s a)) (l : List α) (s : State) :
    LanesOnly uid s (l.foldl f s) := by
  induction l generalizing s with
  | nil => exact refl s
  | cons a l ih => exact (hf s a).trans (ih _)

end LanesOnly

theorem lanesOnly_updUnit {s : State} {uid : Nat} {f : Unit' → Unit'} (hid : ∀ u, u.uid = uid → (f u).uid = uid)
    (hf : ∀ u, unitOf s uid = some u → UnitKept u (f u)) : LanesOnly uid s (updUnit s uid f) :=
  ⟨rfl, SameCredits.of_tiles rfl, fun u hu => ⟨f u, unitOf_updUnit f hu hid, hf u hu⟩⟩

theorem lanesOnly_updEnt {s : State} {uid i : Nat} {f : RowEnt → RowEnt}
    (hf : ∀ u e, unitOf s uid = some u → u.ents[i]? = some e → EntKept e (f e)) : LanesOnly uid s (updEnt s uid i f) := by
  rw [updEnt_eq]
  refine lanesOnly_updUnit (fun _ h => h) (fun u hu => ⟨rfl, rfl, rfl, rfl, rfl, fun k e he => ?_⟩)
  by_cases hk : k = i
  · subst hk
    exact ⟨f e, by simp [he], hf u e hu he⟩
  · exact ⟨e, by simp [he, Ne.symm hk], EntKept.refl e⟩

/-! ### Rows that are read again (R131, R146, R149) -/

/-- An address that was not given up stands: no new probe. -/
theorem findAgain_of_not_kept {e : RowEnt} (h : ∀ w, e.src ≠ .kept w) (s : State) (d tile : Nat) :
    findAgain s d tile e = (s, e.src) := by
  cases hs : e.src with
  | kept w => exact absurd hs (h w)
  | _ => rw [findAgain, hs]

theorem findAgain_absent {s s1 : State} {d w : Nat} {e : RowEnt} (h : e.src = .kept w)
    (hr : probe s d e.row = (s1, none)) (tile : Nat) : findAgain s d tile e = (hintDrop s1 tile d e.row, .home) := by
  rw [findAgain, h, hr]

theorem findAgain_found {s s1 : State} {d w : Nat} {e : RowEnt} {p : APlace} (h : e.src = .kept w)
    (hr : probe s d e.row = (s1, some p)) (tile : Nat) : findAgain s d tile e =
      (hintWrite s1 tile d e.row p.ent, .slot (p.ent.slot * 32) p.ent.version p.ent.wclass p.ent.keep) := by
  rw [findAgain, h, hr]

theorem sameWork_findAgain (s : State) (d tile : Nat) (e : RowEnt) : SameWork s (findAgain s d tile e).1 := by
  by_cases h : ∀ w, e.src ≠ .kept w
  · rw [findAgain_of_not_kept h]
    exact SameWork.refl s
  · obtain ⟨w, hw⟩ : ∃ w, e.src = .kept w := by simpa using h
    have hp := (onlyMem_probe s d e.row).sameWork
    cases hr : probe s d e.row with
    | mk s1 r =>
      rw [hr] at hp
      cases r with
      | none =>
        rw [findAgain_absent hw hr]
        exact hp.trans (sameWork_hintDrop ..)
      | some p =>
        rw [findAgain_found hw hr]
        exact hp.trans (sameWork_hintWrite ..)

/-- The source that a row read again is left with: an address that was not given up stands. -/
theorem src_after_reread {e : RowEnt} (h : ∀ w, e.src ≠ .kept w) (s : State) (d tile : Nat) :
    (if e.src.isSlot then (findAgain s d tile e).2 else (findAgain s d tile e).2.drop) = e.src := by
  rw [findAgain_of_not_kept h]
  cases hs : e.src with
  | kept w => exact absurd hs (h w)
  | _ => rfl

/-- An entry is put back after steps beside the units. -/
theorem lanesOnly_putEnt {s t : State} {uid i : Nat} {u : Unit'} {e g : RowEnt} (hs : SameWork s t)
    (hu : unitOf s uid = some u) (he : u.ents[i]? = some e) (hk : EntKept e g) :
    LanesOnly uid s (updEnt t uid i (fun _ => g)) := by
  refine (hs.lanesOnly uid).trans (lanesOnly_updEnt (fun v f hv hf => ?_))
  rw [unitOf_eq_of_orr hs.orr, hu] at hv
  cases hv
  rw [he] at hf
  cases hf
  exact hk

/-- A row without a dedup entry is read again. -/
theorem lanesOnly_rereadEnt {s : State} {uid i : Nat}
    (h : ∀ u e, unitOf s uid = some u → u.ents[i]? = some e → e.dedup = false) : LanesOnly uid s (rereadEnt s uid i) := by
  unfold rereadEnt
  split
  · exact LanesOnly.refl s
  next u j hrun =>
  obtain ⟨hu, -, -, -⟩ := runningLk_eq_some.mp hrun
  split
  · exact LanesOnly.refl s
  next e he =>
  split
  · exact LanesOnly.refl s
  next hdata =>
  have hs := (sameWork_findAgain s j.desc u.tile e).trans
    (onlyMem_quietRead _ j.desc u.tile e.row (findAgain s j.desc u.tile e).2).sameWork
  have hsome (d : List Byte × Bool) : some d = none ↔ e.data = none := by simpa using hdata
  have hstored (d : List Byte × Bool) (hd : e.dedup = true) : some d = e.data := by
    rw [h u e hu he] at hd
    cases hd
  have hsrc (hk : ∀ w, e.src ≠ .kept w) := src_after_reread hk s j.desc u.tile
  simp only
  split
  · refine LanesOnly.trans ?_ ((sameWork_countRead ..).lanesOnly uid)
    refine LanesOnly.trans ?_ ((onlyMem_reRise ..).sameWork.lanesOnly uid)
    exact lanesOnly_putEnt hs hu he ⟨rfl, rfl, rfl, rfl, rfl, hsome _, hstored _, hsrc⟩
  · exact lanesOnly_putEnt hs hu he ⟨rfl, rfl, rfl, rfl, rfl, hsome _, hstored _, hsrc⟩

theorem lanesOnly_foldl_rereadEnt {uid : Nat} (l : List Nat) {s : State} {u : Unit'} (hu : unitOf s uid = some u)
    (h : ∀ i ∈ l, ∃ e, u.ents[i]? = some e ∧ e.dedup = false) :
    LanesOnly uid s (l.foldl (fun t i => rereadEnt t uid i) s) := by
  induction l generalizing s u with
  | nil => exact LanesOnly.refl s
  | cons i l ih =>
    have hi : LanesOnly uid s (rereadEnt s uid i) := lanesOnly_rereadEnt (fun v f hv hf => by
      obtain ⟨e, he, hd⟩ := h i List.mem_cons_self
      rw [hu] at hv
      cases hv
      rw [he] at hf
      cases hf
      exact hd)
    obtain ⟨v, hv, huv⟩ := hi.unit u hu
    refine hi.trans (ih hv (fun k hk => ?_))
    obtain ⟨e, he, hd⟩ := h k (List.mem_cons_of_mem i hk)
    obtain ⟨f, hf, hef⟩ := huv.ents k e he
    exact ⟨f, hf, hef.dedup.trans hd⟩

theorem lanesOnly_rereadAll (s : State) (uid : Nat) (is : List Nat) : LanesOnly uid s (rereadAll s uid is) := by
  unfold rereadAll
  split
  · exact LanesOnly.refl s
  next u hu =>
  refine lanesOnly_foldl_rereadEnt _ hu (fun i hi => ?_)
  obtain ⟨-, hi⟩ := List.mem_filter.mp hi
  simpa [Option.any_eq_true] using hi

/-! ### Positions enter their groups (R141, R146) -/

theorem lanesOnly_rebuildAt (s : State) (uid bag k : Nat) : LanesOnly uid s (rebuildAt s uid bag k) := by
  unfold rebuildAt
  split
  · exact LanesOnly.refl s
  · exact lanesOnly_updUnit (fun _ h => h) (fun u _ => UnitKept.of_ents rfl rfl rfl rfl rfl rfl)

theorem lanesOnly_enterOne (s : State) (uid pos : Nat) : LanesOnly uid s (enterOne s uid pos) := by
  unfold enterOne
  split
  · exact LanesOnly.refl s
  split
  · exact LanesOnly.refl s
  split
  · exact LanesOnly.refl s
  simp only
  split
  · exact LanesOnly.refl s
  refine LanesOnly.trans ?_ ((onlyMem_bumpIf ..).sameWork.lanesOnly uid)
  refine LanesOnly.trans ?_ (lanesOnly_rebuildAt ..)
  refine LanesOnly.trans ?_ (lanesOnly_updUnit (fun _ h => h) (fun u _ =>
    UnitKept.of_ents rfl rfl rfl rfl (List.length_map _) rfl))
  split
  · exact lanesOnly_rereadAll ..
  · exact LanesOnly.refl s

theorem lanesOnly_enterReady (s : State) (uid : Nat) : LanesOnly uid s (enterReady s uid) := by
  unfold enterReady
  split
  · exact LanesOnly.refl s
  split
  · exact LanesOnly.refl s
  · exact LanesOnly.foldl _ (fun t p => lanesOnly_enterOne t uid p) _ s

end Sys2Proof.Machine
end

section
/-! PROOFS. One entry of a running unit: confirmation, probes and arrivals (R47, R88, R89, R124 to R131). -/

namespace Sys2Proof.Machine

/-- Unit `uid` of a LOOKUP runs, and its entry `i` is `e`. -/
def Serves (s : State) (uid i : Nat) (e : RowEnt) : Prop := ∃ u j, runningLk s uid = some (u, j) ∧ u.ents[i]? = some e

namespace Serves

variable {s t : State} {uid i : Nat} {e f : RowEnt}

theorem unit (h : Serves s uid i e) : ∃ x, unitOf s uid = some x ∧ x.ents[i]? = some e := by
  obtain ⟨u, j, hrun, he⟩ := h
  exact ⟨u, (runningLk_eq_some.mp hrun).1, he⟩

/-- A unit that stays a running one of its job. -/
theorem of_unit (h : Serves s uid i e) (hj : ∀ k, (jobOf s k).isSome → (jobOf t k).isSome)
    (hu : ∀ u, unitOf s uid = some u → u.ents[i]? = some e → ∃ v, unitOf t uid = some v ∧ v.st = u.st ∧
      v.expand = u.expand ∧ v.jid = u.jid ∧ v.ents[i]? = some f) : Serves t uid i f := by
  obtain ⟨u, j, hrun, he⟩ := h
  obtain ⟨hunit, hst, hexp, hjob⟩ := runningLk_eq_some.mp hrun
  obtain ⟨v, hv, hst', hexp', hjid', hf⟩ := hu u hunit he
  obtain ⟨k, hk⟩ := Option.isSome_iff_exists.mp (hj u.jid (by rw [hjob]; rfl))
  exact ⟨v, k, runningLk_eq_some.mpr ⟨hv, hst'.trans hst, hexp'.trans hexp, by rw [hjid', hk]⟩, hf⟩

theorem sameWork (h : Serves s uid i e) (k : SameWork s t) : Serves t uid i e :=
  h.of_unit (fun n hn => by rwa [jobOf_eq_of_jobs (congrArg Orrery.jobs k.orr) n])
    (fun u hu he => ⟨u, (unitOf_eq_of_orr k.orr uid).trans hu, rfl, rfl, rfl, he⟩)

theorem onlyMem (h : Serves s uid i e) (k : OnlyMem s t) : Serves t uid i e := h.sameWork k.sameWork

theorem lanes (h : Serves s uid i e) (k : LanesOnly uid s t) : ∃ f, Serves t uid i f ∧ EntKept e f := by
  obtain ⟨u, hu, he⟩ := h.unit
  obtain ⟨v, hv, huv⟩ := k.unit u hu
  obtain ⟨f, hf, hef⟩ := huv.ents i e he
  refine ⟨f, h.of_unit (fun n hn => by rwa [jobOf_eq_of_jobs k.jobs n]) (fun x hx _ => ?_), hef⟩
  rw [hu] at hx
  cases hx
  exact ⟨v, hv, huv.st, huv.expand, huv.jid, hf⟩

theorem setTile (h : Serves s uid i e) (k : Nat) (x : Tile) : Serves (setTile s k x) uid i e :=
  h.of_unit (fun _ hn => hn) (fun u hu he => ⟨u, hu, rfl, rfl, rfl, he⟩)

theorem updUnit {g : Unit' → Unit'} (h : Serves s uid i e) (hid : ∀ v, v.uid = uid → (g v).uid = uid)
    (hg : ∀ u, unitOf s uid = some u → u.ents[i]? = some e → (g u).st = u.st ∧ (g u).expand = u.expand ∧
      (g u).jid = u.jid ∧ (g u).ents[i]? = some f) : Serves (updUnit s uid g) uid i f :=
  h.of_unit (fun _ hn => hn) (fun u hu he => ⟨g u, unitOf_updUnit g hu hid, hg u hu he⟩)

theorem updEnt (h : Serves s uid i e) (g : RowEnt → RowEnt) : Serves (updEnt s uid i g) uid i (g e) := by
  rw [updEnt_eq]
  exact h.updUnit (fun _ hv => hv) (fun u _ he => ⟨rfl, rfl, rfl, by simp [he]⟩)

theorem updJob (h : Serves s uid i e) (n : Nat) {g : LkJob → LkJob} (hg : ∀ j, (g j).jid = j.jid) :
    Serves (updJob s n g) uid i e :=
  h.of_unit (fun k hk => by rw [jobOf_updJob s n k g hg]; simpa using hk)
    (fun u hu he => ⟨u, hu, rfl, rfl, rfl, he⟩)

theorem weightsTake (h : Serves s uid i e) (d : Nat) (ps : List PosRec) : Serves (weightsTake s uid d ps) uid i e :=
  (h.onlyMem ((onlyMem_bump ..).trans (onlyMem_bump ..))).updUnit (fun _ hv => hv)
    (fun _ _ he => ⟨rfl, rfl, rfl, he⟩)

end Serves

/-! ### Confirmation (R129, R130) -/

/-- What confirmation makes of an entry. -/
structure Confirmed (e f : RowEnt) : Prop where
  row : f.row = e.row
  probe : f.probe = e.probe
  dedup : f.dedup = e.dedup
  data : f.data = e.data
  conf : f.conf = true

/-- What the reads of a confirmed row had still to count. -/
theorem sameWork_confirmDeferred (s : State) (e : RowEnt) (k n : Nat) :
    SameWork s (bump (e.defer.foldl (fun t l => reRise t e.win true l) s) k n) :=
  ((OnlyMem.foldl _ (fun _ _ => onlyMem_reRise ..) _ _).trans (onlyMem_bump ..)).sameWork

/-- What the checks of a confirmed row count, and its decode. -/
theorem sameWork_confirmChecks (s : State) (t : Nat) (x : Desc) (b : List Byte) (bad stored fmt : Bool) (k l m : Nat) :
    SameWork s (if bad then bump1 s k else bumpIf (bumpIf (cbDecode s t x b) stored l) fmt m) := by
  split
  · exact (onlyMem_bump1 ..).sameWork
  · exact (sameWork_cbDecode ..).trans ((onlyMem_bumpIf ..).trans (onlyMem_bumpIf ..)).sameWork

theorem sameCredits_updEnt (s : State) (uid i : Nat) (g : RowEnt → RowEnt) : SameCredits s (updEnt s uid i g) :=
  SameCredits.of_tiles rfl

theorem sameCredits_updJob (s : State) (n : Nat) (g : LkJob → LkJob) : SameCredits s (updJob s n g) :=
  SameCredits.of_tiles rfl

theorem sameCredits_weightsTake (s : State) (uid d : Nat) (ps : List PosRec) : SameCredits s (weightsTake s uid d ps) :=
  SameCredits.of_tiles rfl

/-- A row with data is confirmed, and no tile's credits change. -/
theorem confirmEnt_confirms {s : State} {uid i : Nat} {e : RowEnt} (h : Serves s uid i e) (hd : e.data ≠ none) :
    SameCredits s (confirmEnt s uid i) ∧ ∃ f, Serves (confirmEnt s uid i) uid i f ∧ Confirmed e f := by
  obtain ⟨u, j, hrun, he⟩ := id h
  obtain ⟨⟨b, bad⟩, hdata⟩ := Option.ne_none_iff_exists'.mp hd
  simp only [confirmEnt, hrun, he, hdata]
  split
  · next hc => exact ⟨SameCredits.of_tiles rfl, e, h, rfl, rfl, rfl, rfl, hc⟩
  have hdefer := sameWork_confirmDeferred s e (ctrTilePoolRescale u.tile) ((servedBy u i).filter (fun p => p.raised)).length
  split
  · have hs := hdefer.trans (onlyMem_bump _ (ctrTableDropUnpop j.desc) (servedBy u i).length).sameWork
    exact ⟨(hs.credits.trans (sameCredits_updEnt ..)).trans (sameCredits_updJob ..), _, ((h.sameWork hs).updEnt _).updJob _ (fun _ => rfl),
      rfl, rfl, rfl, rfl, rfl⟩
  · have hs (stored fmt : Bool) := hdefer.trans (sameWork_confirmChecks _ u.tile (descOf s j.desc) b bad stored fmt
      (ctrTableRowPoisonRd j.desc) (ctrTableStoredPoison j.desc) (ctrTableFmtErr j.desc))
    exact ⟨((hs _ _).credits.trans (sameCredits_updEnt ..)).trans (sameCredits_weightsTake ..), _, ((h.sameWork (hs _ _)).updEnt _).weightsTake _ _,
      rfl, rfl, rfl, rfl, rfl⟩

/-! ### Where an unconfirmed row is read (R89, R131) -/

/-- Where a probe's result places a row. -/
def probedSrc (found : Option APlace) : RowSrc :=
  match found with
  | some p => .slot (p.ent.slot * 32) p.ent.version p.ent.wclass p.ent.keep
  | none => .home

def probedSt (found : Option APlace) : ProbeSt := if found.isSome then .found else .absent

theorem Serves.issueRead {s : State} {uid i : Nat} {e : RowEnt} (h : Serves s uid i e) {u : Unit'} (hu : u.uid = uid)
    (lc : Bool) (n : Nat) : ∃ q, Serves (issueRead s u lc i n) uid i { e with queued := q } := by
  subst hu
  unfold Machine.issueRead
  simp only
  split <;> exact ⟨_, (h.setTile _ _).updEnt _⟩

/-- The entry of a row that its probe has placed, but for a read that the probe discarded. -/
def placedEnt (s : State) (x : Desc) (u : Unit') (e : RowEnt) (found : Option APlace) : RowEnt :=
  let n := srcSectors x (probedSrc found)
  let fits := decide (dedupUse u - e.size + 32 * n ≤ 262144)
  { e with src := probedSrc found, probe := probedSt found, win := s.load.mwNum, dedup := e.dedup && fits,
           size := if e.dedup && fits then 32 * n else 0 }

/-- The row of an entry has been placed, and its read issued or queued. -/
def placeRow (s : State) (u : Unit') (j : LkJob) (uid i : Nat) (e : RowEnt) (found : Option APlace) : State :=
  let x := descOf s j.desc
  let n := srcSectors x (probedSrc found)
  issueRead (bumpIf (updEnt s uid i (fun y => { placedEnt s x u e found with late := y.late }))
    (e.dedup && !decide (dedupUse u - e.size + 32 * n ≤ 262144)) (ctrTileDedupFull u.tile)) u j.lc i n

theorem afterProbe_eq {s : State} {uid i : Nat} {u : Unit'} {j : LkJob} {e : RowEnt} (hrun : runningLk s uid = some (u, j))
    (he : u.ents[i]? = some e) (found : Option APlace) :
    afterProbe s uid i found = placeRow s u j uid i e found ∨
      afterProbe s uid i found =
        countRead (placeRow s u j uid i e found) j (placedEnt s (descOf s j.desc) u e found) := by
  simp only [afterProbe, hrun, he]
  cases found with
  | none => exact ite_eq_or_eq ..
  | some p => exact ite_eq_or_eq ..

/-- What the placing of a row by its probe makes of its entry. -/
structure Placed (found : Option APlace) (e f : RowEnt) : Prop where
  row : f.row = e.row
  probe : f.probe = probedSt found
  src : f.src = probedSrc found
  data : f.data = e.data
  late : f.late = e.late

theorem afterProbe_places {s : State} {uid i : Nat} {e : RowEnt} (h : Serves s uid i e) (found : Option APlace) :
    ∃ f, Serves (afterProbe s uid i found) uid i f ∧ Placed found e f := by
  obtain ⟨u, j, hrun, he⟩ := id h
  have hu : u.uid = uid := unitOf_uid (runningLk_eq_some.mp hrun).1
  obtain ⟨q, hq⟩ := ((h.updEnt (fun y => { placedEnt s (descOf s j.desc) u e found with late := y.late })).onlyMem
    (onlyMem_bumpIf ..)).issueRead hu j.lc (srcSectors (descOf s j.desc) (probedSrc found))
  rcases afterProbe_eq hrun he found with hplace | hplace <;> rw [hplace]
  · exact ⟨_, hq, rfl, rfl, rfl, rfl, rfl⟩
  · exact ⟨_, hq.sameWork (sameWork_countRead ..), rfl, rfl, rfl, rfl, rfl⟩

end Sys2Proof.Machine
end

section
/-! PROOFS. PROBE_RETURN and ROW_DATA_ARRIVAL (R88, R89, R129 to R131, R260). -/

namespace Sys2Proof.Machine

/-! ### Data that a probe discards (R131) -/

theorem getElem?_clearGroups {s : State} {j : LkJob} {u : Unit'} {lost : Nat → Bool} {i : Nat} {e : RowEnt}
    (he : u.ents[i]? = some e) (hl : lost i = true) :
    (clearGroups s j u lost).ents[i]? = some { e with data := none, defer := [] } := by
  simp [clearGroups, he, hl]

theorem discardSpec_empties {s : State} {uid i : Nat} {e : RowEnt} (h : Serves s uid i e) (g : RowEnt) :
    ∃ f, Serves (discardSpec s uid i g) uid i f ∧ f.row = e.row ∧ f.data = none := by
  obtain ⟨u, j, hrun, he⟩ := id h
  have hunit := (runningLk_eq_some.mp hrun).1
  have hclear : Serves (updUnit s uid (fun _ => clearGroups s j u (fun k => k == i))) uid i
      { e with data := none, defer := [] } := by
    refine h.updUnit (fun _ _ => (unitOf_uid hunit : u.uid = uid)) (fun v hv _ => ?_)
    rw [hunit] at hv
    cases hv
    exact ⟨rfl, rfl, rfl, getElem?_clearGroups he (by simp)⟩
  simp only [discardSpec, hrun]
  obtain ⟨f, hf, hk⟩ := (hclear.onlyMem (OnlyMem.foldl _ (fun t l => onlyMem_reRise t s.load.mwNum false l) _ _)).lanes
    ((lanesOnly_rereadAll ..).trans (LanesOnly.foldl _ (fun t (g : Sys2Proof.Machine.Grp) => lanesOnly_rebuildAt t uid g.bag g.k) _ _))
  exact ⟨f, hf.onlyMem (onlyMem_bump ..), hk.row, hk.data.mpr rfl⟩

/-! ### A probe's return (R88, R89, R131, R263) -/

/-- The hint of a row after its probe. -/
def probeHint (s : State) (t d row : Nat) (found : Option APlace) : State :=
  match found with
  | some p => hintWrite s t d row p.ent
  | none => hintDrop s t d row

/-- The probe's result confirms the speculative read of the entry. -/
def specHit (e : RowEnt) (found : Option APlace) : Bool :=
  match e.src with
  | .spec slot ver w ep => found.any (fun p => specMatch p.ent slot ver w ep)
  | _ => false

/-- What a probe's result makes of an entry. -/
def probeSettled (s : State) (uid : Nat) (u : Unit') (j : LkJob) (i : Nat) (e : RowEnt) (found : Option APlace) : State :=
  if e.conf then probeAgain s u j i found else
  match e.src with
  | .spec slot ver w ep =>
    if found.any (fun p => specMatch p.ent slot ver w ep) then specConfirm s u j i e else specMiss s u i e found
  | _ => afterProbe s uid i found

/-- PROBE_RETURN of a probe that is out. The place of a probe is a hash (R81), which the kernel must not evaluate when it
checks the match on the probe's result: the probe is replaced by a variable before the definition is reduced. -/
theorem probeBack_eq {s s1 : State} {uid i : Nat} {u : Unit'} {j : LkJob} {e : RowEnt} {found : Option APlace}
    (hrun : runningLk s uid = some (u, j)) (he : u.ents[i]? = some e) (hp : e.probe = .pending) (hq : e.queued = false)
    (hprobe : probe s j.desc e.row = (s1, found)) :
    probeBack s uid i = notePass (enterReady (probeSettled
      (probeHint (tProg (returnCredits s1 u.tile j.lc 2) u.tile 1) u.tile j.desc e.row found) uid u j i e found) uid)
      u.tile := by
  have hdef : @probeBack = @probeBack := rfl
  conv_rhs at hdef => delta probeBack
  obtain ⟨find, hfind⟩ := exists_eq (a' := @probe)
  rw [hdef]
  rw [← hfind] at hprobe ⊢
  simp only [hrun, he, hp, hq, hprobe]
  cases found <;> rfl

theorem specConfirm_confirms {s : State} {uid i : Nat} {u : Unit'} {e : RowEnt} (h : Serves s uid i e) (hu : u.uid = uid)
    (j : LkJob) : ∃ f, Serves (specConfirm s u j i e) uid i f ∧ f.row = e.row ∧ f.probe = .found ∧
      (e.data = none → f.src = e.src ∧ f.data = none) ∧ (e.data ≠ none → f.conf = true) := by
  subst hu
  have hf := ((h.updEnt (fun _ => { e with probe := .found, win := s.load.mwNum })).onlyMem
    (onlyMem_bump1 _ (ctrTileSpecConfirmed u.tile))).sameWork
      (SameWork.foldl _ (fun t _ => sameWork_countRead t j { e with probe := .found, win := s.load.mwNum })
        (List.range (max 1 e.defer.length)) _)
  unfold specConfirm
  simp only
  split
  · next hd =>
    have hn : e.data ≠ none := Option.isSome_iff_ne_none.mp hd
    obtain ⟨-, g, hg, hc⟩ := confirmEnt_confirms hf hn
    exact ⟨g, hg, hc.row, hc.probe, fun h0 => absurd h0 hn, fun _ => hc.conf⟩
  · next hd =>
    have hn : e.data = none := by simpa using hd
    exact ⟨_, hf, rfl, rfl, fun _ => ⟨rfl, hn⟩, fun h0 => absurd hn h0⟩

theorem specMiss_places {s : State} {uid i : Nat} {u : Unit'} {e : RowEnt} (h : Serves s uid i e) (hu : u.uid = uid)
    (found : Option APlace) : ∃ f, Serves (specMiss s u i e found) uid i f ∧ f.row = e.row ∧ f.probe = probedSt found ∧
      f.src = probedSrc found ∧ f.data = none ∧ (e.data = none → f.late = some (e.src, s.load.mwNum)) := by
  subst hu
  have hb := h.onlyMem (onlyMem_bump1 s (ctrTileSpecMismatch u.tile))
  unfold specMiss
  simp only
  split
  · next hd =>
    have hn : e.data ≠ none := Option.isSome_iff_ne_none.mp hd
    obtain ⟨g, hg, hrow, hnone⟩ := discardSpec_empties hb e
    obtain ⟨f, hf, hp⟩ := afterProbe_places hg found
    exact ⟨f, hf, hp.row.trans hrow, hp.probe, hp.src, hp.data.trans hnone, fun h0 => absurd h0 hn⟩
  · next hd =>
    have hn : e.data = none := by simpa using hd
    obtain ⟨f, hf, hp⟩ := afterProbe_places (hb.updEnt (fun y => { y with late := some (e.src, s.load.mwNum) })) found
    exact ⟨f, hf, hp.row, hp.probe, hp.src, hp.data.trans hn, fun _ => hp.late⟩

/-- What a probe's result makes of an entry. -/
structure ProbeSettles (e : RowEnt) (found : Option APlace) (win : W32) (f : RowEnt) : Prop where
  row : f.row = e.row
  probe : f.probe = probedSt found
  placed : e.conf = false → specHit e found = false → f.src = probedSrc found
  gaveUp : e.conf = false → specHit e found = false → (∃ a b c d, e.src = .spec a b c d) →
    f.data = none ∧ (e.data = none → f.late = some (e.src, win))
  kept : e.conf = false → specHit e found = true → e.data = none → f.src = e.src ∧ f.data = none
  confirmed : e.conf = false → specHit e found = true → e.data ≠ none → f.conf = true

theorem specHit_of_not_spec {e : RowEnt} (h : ¬ ∃ a b c d, e.src = .spec a b c d) (found : Option APlace) :
    specHit e found = false := by
  unfold specHit
  split
  · next a b c d hs => exact absurd ⟨a, b, c, d, hs⟩ h
  · rfl

theorem probeSettled_of_not_spec {e : RowEnt} (hc : e.conf = false) (h : ¬ ∃ a b c d, e.src = .spec a b c d) (s : State)
    (uid : Nat) (u : Unit') (j : LkJob) (i : Nat) (found : Option APlace) :
    probeSettled s uid u j i e found = afterProbe s uid i found := by
  unfold probeSettled
  rw [hc]
  split
  · contradiction
  split
  · next a b c d hs => exact absurd ⟨a, b, c, d, hs⟩ h
  · rfl

theorem probeSettled_of_spec {e : RowEnt} (hc : e.conf = false) {a b c d : Nat} (h : e.src = .spec a b c d) (s : State)
    (uid : Nat) (u : Unit') (j : LkJob) (i : Nat) (found : Option APlace) : probeSettled s uid u j i e found =
      if specHit e found then specConfirm s u j i e else specMiss s u i e found := by
  simp only [probeSettled, specHit, hc, h]
  rfl

theorem probedSt_of_specHit {e : RowEnt} {found : Option APlace} (h : specHit e found = true) :
    probedSt found = .found := by
  cases found with
  | some p => rfl
  | none =>
    unfold specHit at h
    split at h <;> cases h

theorem probeSettled_settles {s : State} {uid i : Nat} {u : Unit'} {e : RowEnt} (h : Serves s uid i e) (hu : u.uid = uid)
    (j : LkJob) (found : Option APlace) :
    ∃ f, Serves (probeSettled s uid u j i e found) uid i f ∧ ProbeSettles e found s.load.mwNum f := by
  cases hc : e.conf with
  | true =>
    have hagain : probeSettled s uid u j i e found = probeAgain s u j i found := by rw [probeSettled, if_pos hc]
    rw [hagain]
    subst hu
    exact ⟨_, h.updEnt _, rfl, rfl, by simp [hc], by simp [hc], by simp [hc], by simp [hc]⟩
  | false =>
    by_cases hs : ∃ a b c d, e.src = .spec a b c d
    · obtain ⟨a, b, c, d, hsrc⟩ := id hs
      rw [probeSettled_of_spec hc hsrc]
      cases hhit : specHit e found with
      | true =>
        obtain ⟨f, hf, hrow, hprobe, hnone, hsome⟩ := specConfirm_confirms h hu j
        exact ⟨f, hf, hrow, hprobe.trans (probedSt_of_specHit hhit).symm, by simp [hhit], by simp [hhit],
          fun _ _ => hnone, fun _ _ => hsome⟩
      | false =>
        obtain ⟨f, hf, hrow, hprobe, hplace, hdata, hlate⟩ := specMiss_places h hu found
        exact ⟨f, hf, hrow, hprobe, fun _ _ => hplace, fun _ _ _ => ⟨hdata, hlate⟩, by simp [hhit], by simp [hhit]⟩
    · have hhit := specHit_of_not_spec hs found
      rw [probeSettled_of_not_spec hc hs]
      obtain ⟨f, hf, hp⟩ := afterProbe_places h found
      exact ⟨f, hf, hp.row, hp.probe, fun _ _ => hp.src, fun _ _ h0 => absurd h0 hs, by simp [hhit], by simp [hhit]⟩

theorem sameWork_probeHint (s : State) (t d row : Nat) (found : Option APlace) :
    SameWork s (probeHint s t d row found) := by
  cases found with
  | none => exact sameWork_hintDrop ..
  | some p => exact sameWork_hintWrite ..

theorem probeHint_load (s : State) (t d row : Nat) (found : Option APlace) :
    (probeHint s t d row found).load = s.load := by
  cases found with
  | none =>
    unfold probeHint hintDrop
    simp only
    split <;> rfl
  | some p => rfl

/-- The entry that lanes filled after a step on it leave. -/
theorem Serves.enterAndPass {s : State} {uid i : Nat} {f : RowEnt} (h : Serves s uid i f) (tile : Nat) :
    ∃ g, Serves (notePass (enterReady s uid) tile) uid i g ∧ EntKept f g := by
  obtain ⟨g, hg, hk⟩ := h.lanes (lanesOnly_enterReady s uid)
  exact ⟨g, hg.sameWork (sameWork_notePass ..), hk⟩

theorem probeBack_settles {s s1 : State} {uid i : Nat} {u : Unit'} {j : LkJob} {e : RowEnt} {found : Option APlace}
    (hrun : runningLk s uid = some (u, j)) (he : u.ents[i]? = some e) (hp : e.probe = .pending) (hq : e.queued = false)
    (hprobe : probe s j.desc e.row = (s1, found)) :
    ∃ f g, Serves (probeBack s uid i) uid i g ∧ ProbeSettles e found s.load.mwNum f ∧ EntKept f g := by
  have hmem : OnlyMem s s1 := by
    have := onlyMem_probe s j.desc e.row
    rwa [hprobe] at this
  have hs : Serves s uid i e := ⟨u, j, hrun, he⟩
  have hhint := (((hs.onlyMem hmem).setTile u.tile (giveCredits (tileOf s1 u.tile) j.lc 2)).onlyMem
    (onlyMem_ctrs _ (mset s1.ctrs (ctrTileTProg u.tile) ((mget s1.ctrs (ctrTileTProg u.tile) 0 + 1) % 2 ^ 32)))).sameWork
      (sameWork_probeHint _ u.tile j.desc e.row found)
  obtain ⟨f, hf, hset⟩ := probeSettled_settles hhint (unitOf_uid (runningLk_eq_some.mp hrun).1) j found
  obtain ⟨g, hg, hk⟩ := hf.enterAndPass u.tile
  rw [probeHint_load] at hset
  rw [probeBack_eq hrun he hp hq hprobe]
  exact ⟨f, g, hg, hmem.load ▸ hset, hk⟩

/-! ### Arrival of a row's data (R124, R129 to R131, R155) -/

/-- The credits of a read go back to its tile, after steps that change no tile. -/
theorem tileOf_returnCredits {s t : State} (h : t.tiles = s.tiles) (k : Nat) (lc : Bool) (n : Nat) :
    tileOf (returnCredits t k lc n) k = giveCredits (tileOf s k) lc n := by
  rw [returnCredits, tileOf_setTile_self, tileOf_eq_of_tiles h]

theorem rowArrive_late {s : State} {uid i : Nat} {u : Unit'} {j : LkJob} {e : RowEnt} {src : RowSrc} {win : W32}
    (hrun : runningLk s uid = some (u, j)) (he : u.ents[i]? = some e) (hl : e.late = some (src, win)) :
    rowArrive s uid i = notePass (lateArrive s u j i e src win) u.tile := by
  simp only [rowArrive, hrun, he, hl]

/-- The data of a read that its probe gave up only give their credits back. -/
theorem lateArrive_returns {s : State} {uid i : Nat} {e : RowEnt} (h : Serves s uid i e) {u : Unit'} (hu : u.uid = uid)
    (j : LkJob) (src : RowSrc) (win : W32) :
    Serves (lateArrive s u j i e src win) uid i { e with late := none } ∧
      tileOf (lateArrive s u j i e src win) u.tile =
        giveCredits (tileOf s u.tile) j.lc (srcSectors (descOf s j.desc) src) := by
  subst hu
  have hmem := (onlyMem_quietRead s j.desc u.tile e.row src).trans
    (onlyMem_reRise _ win false (quietRead s j.desc u.tile e.row src).2.2.2)
  exact ⟨((h.onlyMem hmem).setTile _ _).updEnt _, tileOf_returnCredits hmem.tiles ..⟩

/-- The entry of a row whose data have come. -/
def arrivedEnt (s : State) (e : RowEnt) (d : List Byte × Bool) : RowEnt :=
  { e with data := some d, win := if e.probe = .noProbe then s.load.mwNum else e.win }

/-- The data of a row's read stand in its entry, and are confirmed unless its probe is out; `l` is what the read has still
to count, and `win` the window of the moment. -/
def dataTaken (s : State) (j : LkJob) (uid i : Nat) (e : RowEnt) (l : List (Nat × Nat)) : State :=
  if e.probe == .pending then updEnt s uid i (fun _ => { e with defer := e.defer ++ [l] })
  else
    let t := reRise (updEnt s uid i (fun _ => e)) e.win true l
    confirmEnt (if e.probe == .noProbe then countRead t j e else t) uid i

theorem rowArrive_eq {s s1 : State} {uid i : Nat} {u : Unit'} {j : LkJob} {e : RowEnt} {b : List Byte} {bad : Bool}
    (hrun : runningLk s uid = some (u, j)) (he : u.ents[i]? = some e) (hl : e.late = none) (hq : e.queued = false)
    (hd : e.data = none) (hsrc : e.src ≠ .none) (hst : stageFull j u e = false)
    (hread : rowRead s j.desc u.tile e.row e.src = (s1, b, bad)) :
    rowArrive s uid i = notePass (enterReady (dataTaken
      (returnCredits (unRise s s1) u.tile j.lc (srcSectors (descOf s j.desc) e.src)) j uid i
      (arrivedEnt s e (b, bad)) (ctrRise s s1)) uid) u.tile := by
  simp only [rowArrive, hrun, he]
  split
  · next hl' =>
    rw [hl] at hl'
    cases hl'
  · rw [if_neg (by simp [hq, hd, hsrc, hst])]
    simp only [quietRead, hread]
    rfl

/-- What the arrival of a row's data makes of its entry. -/
structure Arrived (e : RowEnt) (d : List Byte × Bool) (f : RowEnt) : Prop where
  dedup : f.dedup = e.dedup
  data : f.data = some d
  settled : e.probe ≠ .pending → f.conf = true
  open' : e.probe = .pending → f.conf = e.conf

theorem dataTaken_arrives {s : State} {uid i : Nat} {e : RowEnt} (h : Serves s uid i e) (r : State) (j : LkJob)
    (d : List Byte × Bool) (l : List (Nat × Nat)) :
    SameCredits s (dataTaken s j uid i (arrivedEnt r e d) l) ∧
      ∃ f, Serves (dataTaken s j uid i (arrivedEnt r e d) l) uid i f ∧ Arrived e d f := by
  unfold dataTaken
  split
  · next hp =>
    have hp : e.probe = .pending := by simpa [arrivedEnt] using hp
    exact ⟨sameCredits_updEnt .., _, h.updEnt _, rfl, rfl, fun h0 => absurd hp h0, fun _ => rfl⟩
  · next hp =>
    have hp : e.probe ≠ .pending := by simpa [arrivedEnt] using hp
    have hput := (h.updEnt (fun _ => arrivedEnt r e d)).onlyMem (onlyMem_reRise _ (arrivedEnt r e d).win true l)
    have hcount : SameWork (reRise (updEnt s uid i (fun _ => arrivedEnt r e d)) (arrivedEnt r e d).win true l)
        (if (arrivedEnt r e d).probe == .noProbe then
          countRead (reRise (updEnt s uid i (fun _ => arrivedEnt r e d)) (arrivedEnt r e d).win true l) j (arrivedEnt r e d)
        else reRise (updEnt s uid i (fun _ => arrivedEnt r e d)) (arrivedEnt r e d).win true l) := by
      split
      · exact sameWork_countRead ..
      · exact SameWork.refl _
    obtain ⟨hcred, f, hf, hc⟩ := confirmEnt_confirms (hput.sameWork hcount) (by simp [arrivedEnt])
    exact ⟨(((sameCredits_updEnt ..).trans (onlyMem_reRise ..).sameWork.credits).trans hcount.credits).trans hcred,
      f, hf, hc.dedup, hc.data, fun _ => hc.conf, fun h0 => absurd h0 hp⟩

end Sys2Proof.Machine
end

section
/-! PROOFS. POSITION_INTAKE and GCQ_GRANT (R117 to R122, R126, R128, R260, R285). -/

namespace Sys2Proof.Machine

/-! ### Where a unit stands in its positions -/

/-- Unit `uid` has taken `n` positions, and takes position `c` next. -/
def Walked (s : State) (uid c n : Nat) : Prop := ∃ u, unitOf s uid = some u ∧ u.cursor = c ∧ u.pos.length = n

namespace Walked

variable {s t : State} {uid c n : Nat}

theorem of_orr (h : Walked s uid c n) (ho : t.orr = s.orr) : Walked t uid c n := by
  obtain ⟨u, hu, hc, hn⟩ := h
  exact ⟨u, (unitOf_eq_of_orr ho uid).trans hu, hc, hn⟩

theorem onlyMem (h : Walked s uid c n) (k : OnlyMem s t) : Walked t uid c n := h.of_orr k.orr

theorem lanes (h : Walked s uid c n) (k : LanesOnly uid s t) : Walked t uid c n := by
  obtain ⟨u, hu, hc, hn⟩ := h
  obtain ⟨v, hv, huv⟩ := k.unit u hu
  exact ⟨v, hv, huv.cursor.trans hc, huv.pos.trans hn⟩

theorem updUnit {g : Unit' → Unit'} (h : Walked s uid c n) (hid : ∀ v, (g v).uid = v.uid)
    (hc : ∀ v, (g v).cursor = v.cursor) (hp : ∀ v, (g v).pos = v.pos) : Walked (updUnit s uid g) uid c n := by
  obtain ⟨u, hu, hcu, hn⟩ := h
  exact ⟨g u, unitOf_updUnit g hu (fun v hv => (hid v).trans hv), (hc u).trans hcu, by rw [hp, hn]⟩

theorem updEnt (h : Walked s uid c n) (i : Nat) (g : RowEnt → RowEnt) : Walked (updEnt s uid i g) uid c n :=
  h.updUnit (fun _ => rfl) (fun _ => rfl) (fun _ => rfl)

theorem updJob (h : Walked s uid c n) (k : Nat) (g : LkJob → LkJob) : Walked (updJob s k g) uid c n := h

theorem setTile (h : Walked s uid c n) (k : Nat) (x : Tile) : Walked (setTile s k x) uid c n := h

theorem weightsTake (h : Walked s uid c n) (d : Nat) (ps : List PosRec) : Walked (weightsTake s uid d ps) uid c n :=
  (h.onlyMem ((onlyMem_bump ..).trans (onlyMem_bump ..))).updUnit (fun _ => rfl) (fun _ => rfl) (fun _ => rfl)

theorem issueRead (h : Walked s uid c n) {u : Unit'} (hu : u.uid = uid) (lc : Bool) (i k : Nat) :
    Walked (issueRead s u lc i k) uid c n := by
  subst hu
  unfold Machine.issueRead
  simp only
  split <;> exact (h.setTile _ _).updEnt _ _

end Walked

/-! ### POSITION_INTAKE (R117 to R122) -/

theorem touchBag_eq (s : State) (j : LkJob) (u : Unit') (b : Nat) (poison : Bool) :
    ∃ bs, touchBag s j u b poison = { u with bags := bs } := by
  unfold touchBag
  split <;> exact ⟨_, rfl⟩

theorem walked_addPos {s : State} {uid : Nat} {u : Unit'} (hu : unitOf s uid = some u) (j : LkJob) (p : PosRec)
    (poison : Bool) : Walked (addPos s uid j p poison) uid (p.pos + 1) (u.pos.length + 1) := by
  refine ⟨_, unitOf_updUnit _ hu (fun v hv => ?_), rfl, List.length_append⟩
  obtain ⟨bs, h⟩ := touchBag_eq s j v p.bag poison
  rw [h]
  exact hv

theorem walked_dropPos {s : State} {uid : Nat} {u : Unit'} (hu : unitOf s uid = some u) (j : LkJob) (p b k : Nat)
    (poison : Bool) : Walked (dropPos s uid j p b k poison) uid (p + 1) (u.pos.length + 1) :=
  ((walked_addPos hu j _ poison).onlyMem (onlyMem_bump1 ..)).updJob _ _

theorem hintLookup_orr (s : State) (t d row : Nat) : (hintLookup s t d row).1.orr = s.orr := by
  unfold hintLookup
  split <;> rfl

/-- A row read that is issued takes no position: with a speculative read, or with none. -/
theorem walked_newRow {s : State} {uid c n : Nat} (h : Walked s uid c n) (j : LkJob) (row : Nat) :
    Walked (newRow s uid j row) uid c n := by
  unfold newRow
  split
  · exact h
  next u hu =>
  extract_lets d x t i direct src
  split
  next s1 hint heq =>
  extract_lets bytes dd e s2 s3 tl
  have hs1 : s1.orr = s.orr := by
    split at heq
    · cases heq
      rfl
    · rw [← hintLookup_orr s t d row, heq]
  have hs2 : Walked s2 uid c n :=
    ((h.of_orr hs1).updUnit (g := fun v => { v with ents := v.ents ++ [e] }) (fun _ => rfl) (fun _ => rfl)
      (fun _ => rfl)).onlyMem (onlyMem_bumpIf ..)
  have hs3 : Walked s3 uid c n := hs2.issueRead (unitOf_uid hu) j.lc i _
  split
  · exact hs3
  split
  · exact hs3
  extract_lets k
  split
  · exact hs3.onlyMem (onlyMem_bump1 ..)
  split
  · exact hs3.onlyMem (onlyMem_bump1 ..)
  · exact ((hs3.setTile _ _).updEnt _ _).onlyMem (onlyMem_bump1 ..)

theorem walked_takeRow {s : State} {uid : Nat} {u : Unit'} (hu : unitOf s uid = some u) (j : LkJob) (p b row : Nat)
    (w : F32) (wbad : Bool) : Walked (takeRow s uid j p b row w wbad) uid (p + 1) (u.pos.length + 1) := by
  unfold takeRow
  rw [hu]
  dsimp only
  split
  · next k hk =>
    have hadd := (walked_addPos hu j (posRec p b row (some k)
      (if !j.weighted then Weight.one else if wbad then { Weight.one with w := 0, ok := false } else weightOf w) wbad)
      false).onlyMem (onlyMem_bump1 _ (ctrTileDedupHit u.tile))
    split
    · exact hadd
    split
    · exact hadd
    split
    · exact (hadd.onlyMem (onlyMem_bump1 ..)).updJob _ _
    · exact hadd.weightsTake _ _
  · exact walked_newRow (walked_addPos hu j _ false) j row

theorem xltUse_orr (s : State) (k e : Nat) : (xltUse s k e).orr = s.orr := by
  unfold xltUse
  dsimp only
  split <;> exact bumpIf_orr ..

theorem listRead_orr (s : State) (tile va n : Nat) : (listRead s tile va n).1.orr = s.orr := by
  unfold listRead
  split
  · exact (onlyMem_readExt ..).orr.trans (xltUse_orr ..)
  · rfl

theorem indexAt_orr (s : State) (tile : Nat) (j : LkJob) (p : Nat) : (indexAt s tile j p).1.orr = s.orr := by
  unfold indexAt
  split
  · exact listRead_orr ..
  · rfl

theorem weightAt_orr (s : State) (tile : Nat) (j : LkJob) (p : Nat) : (weightAt s tile j p).1.orr = s.orr := by
  unfold weightAt
  split
  · rfl
  split
  · exact listRead_orr ..
  · rfl

/-- What a position with index `v` and weight `w` makes of the state in which both have been read: `s` is the state before. -/
def positionTaken (s s2 : State) (uid : Nat) (u : Unit') (j : LkJob) (v : Int) (bad : Bool) (w : F32) (wbad : Bool) :
    State :=
  let b := bagOfPos j u u.cursor
  if bad then dropPos s2 uid j u.cursor b (ctrTableDropPoison j.desc) true
  else if v < 0 then dropPos s2 uid j u.cursor b (ctrTableDropNeg j.desc) false
  else if (descOf s j.desc).rows ≤ v.toNat then dropPos s2 uid j u.cursor b (ctrTableDropOor j.desc) false
  else takeRow s2 uid j u.cursor b v.toNat w wbad

theorem walked_positionTaken {s s2 : State} {uid : Nat} {u : Unit'} (hu : unitOf s2 uid = some u) (j : LkJob) (v : Int)
    (bad : Bool) (w : F32) (wbad : Bool) :
    Walked (positionTaken s s2 uid u j v bad w wbad) uid (u.cursor + 1) (u.pos.length + 1) := by
  unfold positionTaken
  dsimp only
  split
  · exact walked_dropPos hu ..
  split
  · exact walked_dropPos hu ..
  split
  · exact walked_dropPos hu ..
  · exact walked_takeRow hu ..

theorem intake_eq {s s1 s2 : State} {uid : Nat} {u : Unit'} {j : LkJob} {v : Int} {bad wbad : Bool} {w : F32}
    (hrun : runningLk s uid = some (u, j)) (hm : mayTake s u = true)
    (hidx : indexAt (notePass s u.tile) u.tile j u.cursor = (s1, v, bad))
    (hw : weightAt s1 u.tile j u.cursor = (s2, w, wbad)) :
    intake s uid = enterReady (positionTaken s s2 uid u j v bad w wbad) uid := by
  simp only [intake, hrun, hm, hidx, hw]
  rfl

/-- An intake takes one position of the unit. -/
theorem walked_intake {s s1 s2 : State} {uid : Nat} {u : Unit'} {j : LkJob} {v : Int} {bad wbad : Bool} {w : F32}
    (hrun : runningLk s uid = some (u, j))
    (hidx : indexAt (notePass s u.tile) u.tile j u.cursor = (s1, v, bad))
    (hw : weightAt s1 u.tile j u.cursor = (s2, w, wbad)) :
    Walked (enterReady (positionTaken s s2 uid u j v bad w wbad) uid) uid (u.cursor + 1) (u.pos.length + 1) := by
  have h1 := indexAt_orr (notePass s u.tile) u.tile j u.cursor
  have h2 := weightAt_orr s1 u.tile j u.cursor
  rw [hidx] at h1
  rw [hw] at h2
  have h2 : s2.orr = s.orr := h2.trans (h1.trans (sameWork_notePass ..).orr)
  have hu : unitOf s2 uid = some u := (unitOf_eq_of_orr h2 uid).trans (runningLk_eq_some.mp hrun).1
  exact (walked_positionTaken hu j v bad w wbad).lanes (lanesOnly_enterReady ..)

/-! ### GCQ_GRANT (R126, R260, R285) -/

theorem takeCredits_used (t : Tile) (lc : Bool) (n : Nat) :
    (takeCredits t lc n).lcUsed + (takeCredits t lc n).beUsed = t.lcUsed + t.beUsed + n := by
  cases lc <;> simp only [takeCredits, Bool.false_eq_true, if_true, if_false] <;> omega

theorem gcqGrant_lacking {s : State} {k : Nat} {r : Bool × Nat × Nat × Nat} (hr : gcqNext s k = some r)
    (hc : creditsFree (tileOf s k) r.1 r.2.2.2 = false) : gcqGrant s k = s := by
  simp only [gcqGrant, hr, hc]
  rfl

/-- The request has its credits and has left the queue. -/
def granted (s : State) (k : Nat) (r : Bool × Nat × Nat × Nat) : State :=
  updEnt (setTile s k { takeCredits (tileOf s k) r.1 r.2.2.2 with gcq := (tileOf s k).gcq.erase r }) r.2.1 r.2.2.1
    (fun e => { e with queued := false })

/-- A grant changes the tile and the entry, and may count the read. -/
theorem gcqGrant_eq {s : State} {k : Nat} {r : Bool × Nat × Nat × Nat} (hr : gcqNext s k = some r)
    (hc : creditsFree (tileOf s k) r.1 r.2.2.2 = true) :
    ∃ cs ld, gcqGrant s k = { granted s k r with ctrs := cs, load := ld } := by
  simp only [gcqGrant, hr, hc]
  rw [if_neg (by decide)]
  split
  · exact ⟨_, _, rfl⟩
  split
  · split
    · exact ⟨_, _, rfl⟩
    · exact countRead_eq ..
  · exact ⟨_, _, rfl⟩

theorem unitOf_granted {s : State} {k : Nat} {r : Bool × Nat × Nat × Nat} {u : Unit'} {e : RowEnt}
    (hu : unitOf s r.2.1 = some u) (he : u.ents[r.2.2.1]? = some e) :
    ∃ x, unitOf (granted s k r) r.2.1 = some x ∧ x.ents[r.2.2.1]? = some { e with queued := false } :=
  ⟨_, unitOf_updEnt _ _ (s := setTile s k _) hu, by simp [he]⟩

end Sys2Proof.Machine
end

section
/-! PROOFS. The gather engines' events (R81, R88, R89, R117, R126, R129 to R131, R155, R260, R284, R285). -/

namespace Sys2Proof.Machine

section
variable {s t : State} (hs : stopped s = false)
include hs

theorem exec_positionIntake_next {uid : Nat} (h : intake s uid = t) (hn : t.rc.need = []) :
    exec (.positionIntake uid) s = .next t :=
  act_eq_next (f := fun s => intake s uid) hs h hn

theorem exec_gcqGrant_next {k : Fin 48} (h : gcqGrant s k = t) (hn : t.rc.need = []) :
    exec (.gcqGrant k) s = .next t :=
  act_eq_next (f := fun s => gcqGrant s k) hs h hn

theorem exec_probeReturn_next {uid ent : Nat} (hn : (probeBack s uid ent).rc.need = []) :
    exec (.probeReturn uid ent) s = .next (probeBack s uid ent) :=
  act_eq_next (f := fun s => probeBack s uid ent) hs rfl hn

theorem exec_rowDataArrival_next {uid ent : Nat} (hn : (rowArrive s uid ent).rc.need = []) :
    exec (.rowDataArrival uid ent) s = .next (rowArrive s uid ent) :=
  act_eq_next (f := fun s => rowArrive s uid ent) hs rfl hn

end

theorem probedSrc_ne_kept (found : Option APlace) (w : Nat) : probedSrc found ≠ .kept w := by
  cases found <;> simp [probedSrc]

theorem src_ne_kept_of_specHit {e : RowEnt} {found : Option APlace} (h : specHit e found = true) (w : Nat) :
    e.src ≠ .kept w := by
  intro hs
  simp [specHit, hs] at h

/-- Settles O38: each event in closed form, and what the lanes that are filled after it leave of the entry. -/
theorem gatherEventsTakeEffect : Obligations.GatherEventsTakeEffect := by
  refine ⟨?intake, ?grant, ?probe, ?arrival⟩
  case intake =>
    rintro s s1 s2 t uid b u j v bad wbad w hs hrun hm rfl hidx hw rfl hn
    obtain ⟨x, hx, hcur, hpos⟩ := walked_intake hrun hidx hw
    exact ⟨x, exec_positionIntake_next hs (intake_eq hrun hm hidx hw) hn, hx, hcur, hpos⟩
  case grant =>
    intro s k r hs hn hr
    refine ⟨fun hc => exec_gcqGrant_next hs (gcqGrant_lacking hr hc) hn, fun hc => ?_⟩
    obtain ⟨cs, ld, ht⟩ := gcqGrant_eq hr hc
    have htile (a : Nat) : tileOf { granted s k r with ctrs := cs, load := ld } a =
        tileOf (setTile s k { takeCredits (tileOf s k) r.1 r.2.2.2 with gcq := (tileOf s k).gcq.erase r }) a := rfl
    refine ⟨_, exec_gcqGrant_next hs ht hn, ?_, ?_, fun a ha => ?_, fun u e hu he => unitOf_granted hu he, rfl⟩
    · rw [htile, tileOf_setTile_self]
    · rw [htile, tileOf_setTile_self]
      exact takeCredits_used ..
    · rw [htile, tileOf_setTile_ne _ ha]
  case probe =>
    intro s s1 uid ent u j e found ok hs hrun he hp hq hprobe hok hn
    obtain ⟨f, g, hg, hset, hk⟩ := probeBack_settles hrun he hp hq hprobe
    obtain ⟨x, hx, hy⟩ := hg.unit
    have hok : ok = specHit e found := hok
    subst hok
    refine ⟨_, x, g, exec_probeReturn_next hs hn, hx, hy, hk.row.trans hset.row, hk.probe.trans hset.probe,
      fun hc h0 => ?_, fun hc h0 hspec => ?_, fun hc h1 hd => ?_, fun hc h1 hd => hk.conf.trans (hset.confirmed hc h1 hd)⟩
    · have hsrc := hset.placed hc h0
      exact (hk.src (fun w => hsrc ▸ probedSrc_ne_kept found w)).trans hsrc
    · obtain ⟨hdata, hlate⟩ := hset.gaveUp hc h0 hspec
      exact ⟨hk.data.mpr hdata, fun hd => hk.late.trans (hlate hd)⟩
    · obtain ⟨hsrc, hdata⟩ := hset.kept hc h1 hd
      exact ⟨(hk.src (fun w => hsrc ▸ src_ne_kept_of_specHit h1 w)).trans hsrc, hk.data.mpr hdata⟩
  case arrival =>
    intro s s1 uid ent u j e b bad hs hrun he hn
    have hserves : Serves s uid ent e := ⟨u, j, hrun, he⟩
    refine ⟨fun src win hl => ?late, fun hl hq hd hsrc hst hread => ?data⟩
    case late =>
      obtain ⟨hlate, htile⟩ := lateArrive_returns hserves (unitOf_uid (runningLk_eq_some.mp hrun).1) j src win
      have hpass := sameWork_notePass (lateArrive s u j ent e src win) u.tile
      obtain ⟨x, hx, hy⟩ := (hlate.sameWork hpass).unit
      have hrow := rowArrive_late hrun he hl
      refine ⟨_, x, _, exec_rowDataArrival_next hs hn, ?_, hy, rfl, ?_, ?_⟩ <;> rw [hrow]
      · exact hx
      · rw [hpass.credits.lc, htile]
      · rw [hpass.credits.be, htile]
    case data =>
      have hmem : OnlyMem s (unRise s s1) := by
        have := onlyMem_rowRead s j.desc u.tile e.row e.src
        rw [hread] at this
        exact this.trans (onlyMem_ctrs _ _)
      have hret := (hserves.onlyMem hmem).setTile u.tile
        (giveCredits (tileOf (unRise s s1) u.tile) j.lc (srcSectors (descOf s j.desc) e.src))
      have htile := tileOf_returnCredits hmem.tiles u.tile j.lc (srcSectors (descOf s j.desc) e.src)
      obtain ⟨hcred, f, hf, ha⟩ := dataTaken_arrives hret s j (b, bad) (ctrRise s s1)
      have hrow := rowArrive_eq hrun he hl hq hd hsrc hst hread
      have hlanes := (hcred.trans (lanesOnly_enterReady _ uid).credits).trans (sameWork_notePass _ u.tile).credits
      obtain ⟨g, hg, hk⟩ := hf.enterAndPass u.tile
      obtain ⟨x, hx, hy⟩ := hg.unit
      refine ⟨_, x, g, exec_rowDataArrival_next hs hn, ?_, hy, fun h0 => ?_, fun hdd => ?_,
        fun hp => hk.conf.trans (ha.settled hp), fun hp => hk.conf.trans (ha.open' hp), ?_, ?_⟩
      · rw [hrow]
        exact hx
      · exact absurd (ha.data.symm.trans (hk.data.mp h0)) (by simp)
      · exact (hk.stored (ha.dedup.trans hdd)).trans ha.data
      · rw [hrow]
        exact (hlanes.lc _).trans (congrArg Tile.lcUsed htile)
      · rw [hrow]
        exact (hlanes.be _).trans (congrArg Tile.beUsed htile)

end Sys2Proof.Machine
end

section
/-! PROOFS. Messages and lists: what sending a message changes, and reading the lists of a command (R424 to R433). -/

namespace Sys2Proof.Machine

/-! ### Sending (R424, R429, R433) -/

theorem linkPump_eq (l k : Nat) (s : State) :
    ∃ ls, linkPump l k s = { s with tr := { s.tr with links := ls } } := by
  induction k generalizing s with
  | zero => exact ⟨_, rfl⟩
  | succ k ih =>
    unfold linkPump
    simp only []
    split
    · exact ⟨_, rfl⟩
    split
    · exact ⟨_, rfl⟩
    · obtain ⟨ls, h⟩ := ih (setLink s l _)
      exact ⟨ls, h⟩

/-- A message is sent, and waits on its link or is lost. -/
theorem transitSend_eq (s : State) (f : TMsg) : ∃ ls lost, transitSend s f =
    { s with tr := { s.tr with out := s.tr.out ++ [f], links := ls, lost := lost } } := by
  unfold transitSend routeMsg
  simp only []
  split
  · exact ⟨_, _, rfl⟩
  split
  · exact ⟨_, _, rfl⟩
  · next l _ =>
    obtain ⟨ls, h⟩ := linkPump_eq l _ (setLink { s with tr := { s.tr with out := s.tr.out ++ [f] } } l _)
    exact ⟨ls, _, h⟩

theorem sendMsg_tr (s : State) (cls mt : Nat) (dst : BitVec 12) (tag arg : Nat) (l : List (Byte × Bool)) :
    ∃ tr, sendMsg s cls mt dst tag arg l = { s with tr := tr } := by
  obtain ⟨ls, lost, h⟩ := transitSend_eq s _
  exact ⟨_, h⟩

@[simp] theorem sendMsg_orr (s : State) (cls mt : Nat) (dst : BitVec 12) (tag arg : Nat) (l : List (Byte × Bool)) :
    (sendMsg s cls mt dst tag arg l).orr = s.orr := transitSend_orr ..

@[simp] theorem sendBig_orr (s : State) (cls mt : Nat) (dst : BitVec 12) (tag arg : Nat) (l : List (Byte × Bool)) :
    (sendBig s cls mt dst tag arg l).orr = s.orr := foldl_keeps State.orr _ (fun _ _ => sendMsg_orr ..) _ s

@[simp] theorem foAsk_orr (s : State) (x : Desc) (cid n : Nat) : (foAsk s x cid n).orr = s.orr :=
  foldl_keeps State.orr _ (fun _ _ => sendMsg_orr ..) _ s

theorem foServeGo_tr (k : Nat) (s : State) : ∃ tr, foServeGo k s = { s with tr := tr } := by
  induction k generalizing s with
  | zero => exact ⟨_, rfl⟩
  | succ k ih =>
    unfold foServeGo
    split
    · exact ⟨_, rfl⟩
    split
    · next r rs _ _ =>
      obtain ⟨tr, h⟩ := sendMsg_tr { s with tr := { s.tr with foWait := rs, foRes := s.tr.foRes ++ [r] } } clsCtl mtFoGrant
        r.owner r.tag 0 []
      obtain ⟨tr', h'⟩ := ih { s with tr := tr }
      exact ⟨tr', (congrArg (foServeGo k) h).trans h'⟩
    · exact ⟨_, rfl⟩

/-- Granting fan-out space changes Transit's state alone. -/
theorem foServe_tr (s : State) : ∃ tr, foServe s = { s with tr := tr } := foServeGo_tr ..

theorem foServe_of_nobody {s : State} (h : s.tr.foWait = []) : foServe s = s := by
  rw [foServe, h]
  rfl

/-! ### Lists (R113) -/

theorem onlyMem_readTier (s : State) (p : Piece) : OnlyMem s (readTier s p).1 := onlyMem_readExt ..

theorem onlyMem_readMarked (s : State) (ps : List Piece) : OnlyMem s (readMarked s ps).1 := by
  induction ps generalizing s with
  | nil => exact OnlyMem.refl s
  | cons p ps ih => exact (onlyMem_readTier s p).trans (ih _)

theorem onlyMem_readList (s : State) (va n : Nat) : OnlyMem s (readList s va n).1 := by
  unfold readList
  split
  · exact onlyMem_readMarked ..
  · exact OnlyMem.refl s

end Sys2Proof.Machine
end

section
/-! PROOFS. LOOKUP: its checks and its start (R95, R113, R114, R371). -/

namespace Sys2Proof.Machine

/-! ### The checks of R113 -/

theorem exec_lookup_next {s t : State} {cid : Nat} {c : Cmd} (hs : stopped s = false) (hc : cmdOf s cid = some c)
    (hbad : c.badLine = false) (hop : c.op = 0x01) (hm : mayStart s c = true) (h : lkRun s c = t) (hn : t.rc.need = []) :
    exec (.lookup cid) s = .next t :=
  act_eq_next (f := fun s => withStart s cid 0x01 (fun c s => lkRun s c)) hs
    (by simp only [withStart, hc, hbad, hop, hm]; exact h) hn

theorem lkRun_unresolved {s : State} {c : Cmd} (hr : lkResolve s c = none) : lkRun s c = failCmd s c.cid 0x40 := by
  delta lkRun
  rw [hr]

/-- What a LOOKUP does once its descriptor is known and its extents and its stream are free for it. -/
def lkBegin (s : State) (c : Cmd) (d : Nat) (x : Desc) : State :=
  let (s1, l) := readList s (c.f 3 0 52) (4 * (lkNbags c + 1))
  let ns := numsOf 4 l
  let off := ns.map (fun v => v.1)
  if !s1.rc.need.isEmpty then s1
  else if ns.any (fun v => v.2) || !offsetsOk off (lkNidx c) then failCmd s c.cid 0x40
  else lkStart s1 c d x off

theorem lkRun_resolved {s : State} {c : Cmd} {d : Nat} {x : Desc} (hr : lkResolve s c = some (d, x)) : lkRun s c =
    if !lkExtents s c then failCmd s c.cid 0x11
    else if lkOutk c && !mayBind s (lkStream c) c.cid then
      updCmd s c.cid (fun c => { c with phase := .waiting, bound := some (lkStream c) })
    else lkBegin s c d x := by
  delta lkRun
  rw [hr]
  rfl

section
variable {s : State} {c : Cmd} {d : Nat} {x : Desc} (hr : lkResolve s c = some (d, x))
include hr

theorem lkRun_uncovered (he : lkExtents s c = false) : lkRun s c = failCmd s c.cid 0x11 := by
  rw [lkRun_resolved hr, he]
  rfl

theorem lkRun_streamTaken (he : lkExtents s c = true) (ho : lkOutk c = true) (hb : mayBind s (lkStream c) c.cid = false) :
    lkRun s c = updCmd s c.cid (fun c => { c with phase := .waiting, bound := some (lkStream c) }) := by
  rw [lkRun_resolved hr, he, ho, hb]
  rfl

/-- With its offsets read, a command fails or starts. -/
theorem lkRun_offsets {s1 : State} {l : List (Byte × Bool)} (he : lkExtents s c = true)
    (ho : lkOutk c = false ∨ mayBind s (lkStream c) c.cid = true)
    (hread : readList s (c.f 3 0 52) (4 * (lkNbags c + 1)) = (s1, l)) (hn : s1.rc.need = []) :
    lkRun s c =
      if (numsOf 4 l).any (fun v => v.2) || !offsetsOk ((numsOf 4 l).map (fun v => v.1)) (lkNidx c) then
        failCmd s c.cid 0x40
      else lkStart s1 c d x ((numsOf 4 l).map (fun v => v.1)) := by
  have hfree : ¬ (lkOutk c && !mayBind s (lkStream c) c.cid) = true := by
    rcases ho with ho | ho <;> simp [ho]
  rw [lkRun_resolved hr, he, if_neg (by decide), if_neg hfree, lkBegin, hread]
  dsimp only
  rw [hn, if_neg (by decide)]

end

/-! ### The start of a LOOKUP (R95, R114) -/

/-- Keeping a map changes counters, the maps and a job's `keepMap` mark: every job keeps its name, its command and its
descriptor (R174). -/
theorem keepMap_eq (s : State) (j : LkJob) (x : Desc) : ∃ cs sc js,
    keepMap s j x = { s with ctrs := cs, sc := sc, orr := { s.orr with jobs := js } } ∧
    ∀ k ∈ s.orr.jobs, ∃ m ∈ js, m.cid = k.cid ∧ m.desc = k.desc ∧ m.jid = k.jid := by
  unfold keepMap
  split
  · exact ⟨_, _, _, rfl, fun k hk => ⟨k, hk, rfl, rfl, rfl⟩⟩
  dsimp only
  split
  · refine ⟨_, _, _, rfl, fun k hk => ⟨_, List.mem_map_of_mem hk, ?_⟩⟩
    split <;> exact ⟨rfl, rfl, rfl⟩
  · exact ⟨_, _, _, rfl, fun k hk => ⟨k, hk, rfl, rfl, rfl⟩⟩

/-- The job of a command stands, with its map and its stream. -/
def jobAdded (s : State) (c : Cmd) (j : LkJob) (x : Desc) : State :=
  let s1 := keepMap (addJob s j) j x
  if j.outk then setStrm s1 (lkStream c) { strmOf s1 (lkStream c) with bound := some c.cid, st := .running } else s1

theorem jobAdded_orr (s : State) (c : Cmd) (j : LkJob) (x : Desc) : ∃ js,
    (jobAdded s c j x).orr = { s.orr with jobs := js, nextUid := s.orr.nextUid + 1 } ∧
    ∃ m ∈ js, m.cid = j.cid ∧ m.desc = j.desc ∧ m.jid = j.jid := by
  obtain ⟨cs, sc, js, hk, hj⟩ := keepMap_eq (addJob s j) j x
  refine ⟨js, ?_, hj j (List.mem_append_right _ List.mem_cons_self)⟩
  unfold jobAdded
  dsimp only
  rw [hk]
  split <;> rfl

theorem lkLists_orr (s : State) (c : Cmd) : (lkLists s c).1.orr = s.orr := by
  unfold lkLists
  dsimp only
  split
  · exact (((onlyMem_readList ..).trans (onlyMem_readList ..)).trans (onlyMem_readList ..)).orr
  · exact ((onlyMem_readList ..).trans (onlyMem_readList ..)).orr

/-- The lists of a command go out, its units are added, and it runs: nothing else of Orrery changes. -/
theorem lkSend_orr (s : State) (c : Cmd) (j : LkJob) : (lkSend s c j).orr =
    (updCmd (addUnits s j.jid false j.lists.off) c.cid (fun c => { c with phase := .running })).orr := by
  unfold lkSend
  extract_lets x rs head
  split
  next s1 l heq =>
  extract_lets s2
  have h1 : s1.orr = s.orr := by
    split at heq
    · cases heq
      rfl
    · rw [← lkLists_orr s c, heq]
  have h2 : s2.orr = s.orr := (foldl_keeps State.orr _ (fun _ _ => sendBig_orr ..) rs s1).trans h1
  simp only [updCmd, addUnits, h2]

theorem lkSend_jobs (s : State) (c : Cmd) (j : LkJob) : (lkSend s c j).orr.jobs = s.orr.jobs := by rw [lkSend_orr]; rfl

theorem lkGo_jobs (s : State) (cid : Nat) : (lkGo s cid).orr.jobs = s.orr.jobs := by
  unfold lkGo
  split
  · split
    · exact lkSend_jobs ..
    · rfl
  · rfl

theorem fiReserve_jobs (s : State) (cid n : Nat) (x : Desc) (bytes : Nat) :
    (fiReserve s cid n x bytes).orr.jobs = s.orr.jobs :=
  (lkGo_jobs ..).trans (congrArg Orrery.jobs (foAsk_orr ..))

theorem lkStart_unsplit (s : State) (c : Cmd) (d : Nat) {x : Desc} (h : x.log2s = 0) (off : List Nat) :
    lkStart s c d x off = lkSend (jobAdded s c (ownJob s c d x off) x) c (ownJob s c d x off) := by
  unfold lkStart
  rw [if_pos h]
  rfl

theorem lkStart_split (s : State) (c : Cmd) (d : Nat) {x : Desc} (h : x.log2s ≠ 0) (off : List Nat) :
    ∃ t, t.orr.jobs = (jobAdded s c (ownJob s c d x off) x).orr.jobs ∧
      (lkStart s c d x off = fiReserve t c.cid (fiBytes x (lkNbags c)) x (lkListBytes c) ∨
        lkStart s c d x off = { t with tr := { t.tr with fiWait := t.tr.fiWait ++ [c.cid] } }) := by
  refine ⟨updCmd (jobAdded s c (ownJob s c d x off) x) c.cid (fun c => { c with phase := .waiting, bound := none }), rfl, ?_⟩
  unfold lkStart
  rw [if_neg h]
  exact ite_eq_or_eq ..

/-- However a LOOKUP starts, its job stands. -/
theorem lkStart_jobs (s : State) (c : Cmd) (d : Nat) (x : Desc) (off : List Nat) :
    (lkStart s c d x off).orr.jobs = (jobAdded s c (ownJob s c d x off) x).orr.jobs := by
  by_cases h : x.log2s = 0
  · rw [lkStart_unsplit s c d h, lkSend_jobs]
  · obtain ⟨t, ht, hstart | hstart⟩ := lkStart_split s c d h off <;> rw [hstart]
    · exact (fiReserve_jobs ..).trans ht
    · exact ht

theorem lkStart_job (s : State) (c : Cmd) (d : Nat) (x : Desc) (off : List Nat) :
    ∃ j ∈ (lkStart s c d x off).orr.jobs, j.cid = some c.cid ∧ j.desc = d ∧ j.jid = s.orr.nextUid := by
  obtain ⟨js, horr, j, hj, hcid, hdesc, hjid⟩ := jobAdded_orr s c (ownJob s c d x off) x
  refine ⟨j, ?_, hcid, hdesc, hjid⟩
  rw [lkStart_jobs, horr]
  exact hj

theorem cmdOf_eq_of_cmds {s t : State} (h : t.orr.cmds = s.orr.cmds) (cid : Nat) : cmdOf t cid = cmdOf s cid := by
  rw [cmdOf, cmdOf, h]

/-- A LOOKUP of a table that is not split has its units, and runs (R114). -/
theorem lkStart_units {s : State} {c : Cmd} {d : Nat} {x : Desc} (h : x.log2s = 0) (hc : cmdOf s c.cid = some c)
    (off : List Nat) : cmdOf (lkStart s c d x off) c.cid = some { c with phase := .running } ∧
      (lkStart s c d x off).orr.units = s.orr.units ++ (cutBags off).zipIdx.map (fun y =>
        newUnit s.orr.nextUid false (s.orr.nextUid + 1 + y.2) y.1) := by
  obtain ⟨js, horr, -⟩ := jobAdded_orr s c (ownJob s c d x off) x
  have hsend := lkSend_orr (jobAdded s c (ownJob s c d x off) x) c (ownJob s c d x off)
  rw [lkStart_unsplit s c d h]
  constructor
  · have hcmd : cmdOf (addUnits (jobAdded s c (ownJob s c d x off) x) (ownJob s c d x off).jid false
        (ownJob s c d x off).lists.off) c.cid = some c := by
      have hcmds : (jobAdded s c (ownJob s c d x off) x).orr.cmds = s.orr.cmds := by rw [horr]
      exact (cmdOf_eq_of_cmds hcmds c.cid).trans hc
    rw [cmdOf_eq_of_orr hsend]
    exact (cmdOf_updCmd_self _ c.cid (fun c => { c with phase := .running }) (fun _ => rfl)).trans (congrArg (Option.map _) hcmd)
  · rw [hsend]
    simp only [updCmd, addUnits, horr]
    rfl

end Sys2Proof.Machine
end

section
/-! PROOFS. LOOKUP: what a rank answers to another chip's request, the records that reach the owner, and O37 (R95 to R98,
R113, R114, R371). -/

namespace Sys2Proof.Machine

/-! ### The records a rank sends (R97, R111) -/

/-- A fan-in record of `n` columns for a command of another chip. -/
def IsAnswer (owner : BitVec 12) (tag n : Nat) (m : TMsg) : Prop :=
  m.cls = 1 ∧ m.dst = owner ∧ m.tag = tag ∧ m.payload.length = 16 + 4 * n

theorem recBytes_length (r : FanRec) :
    (bagHeader r ++ r.vals.flatMap (fun v => toBytes 4 v.toNat)).length = 16 + 4 * r.vals.length := by
  simp [bagHeader, List.length_flatMap]
  omega

/-- Sending a record changes Transit's state alone. -/
theorem sendRec_tr (s : State) (j : LkJob) (r : FanRec) : ∃ tr m, sendRec s j r = { s with tr := tr } ∧
    tr.foWait = s.tr.foWait ∧ tr.out = s.tr.out ++ [m] ∧ IsAnswer j.owner j.tag r.vals.length m := by
  obtain ⟨ls, lost, h⟩ := transitSend_eq s _
  refine ⟨_, _, h, rfl, rfl, rfl, rfl, rfl, ?_⟩
  simpa using recBytes_length r

theorem sendRecs_tr (j : LkJob) (n : Nat) (rs : List FanRec) (hrs : ∀ r ∈ rs, r.vals.length = n) (s : State) :
    ∃ tr ms, rs.foldl (fun t r => sendRec t j r) s = { s with tr := tr } ∧ tr.foWait = s.tr.foWait ∧
      tr.out = s.tr.out ++ ms ∧ ms.length = rs.length ∧ ∀ m ∈ ms, IsAnswer j.owner j.tag n m := by
  induction rs generalizing s with
  | nil => exact ⟨s.tr, [], rfl, rfl, by simp, rfl, by simp⟩
  | cons r rs ih =>
    obtain ⟨hr, hrest⟩ := List.forall_mem_cons.mp hrs
    obtain ⟨tr1, m, h1, hw1, ho1, hm⟩ := sendRec_tr s j r
    obtain ⟨tr, ms, h2, hw2, ho2, hlen, hms⟩ := ih hrest { s with tr := tr1 }
    refine ⟨tr, m :: ms, ?_, hw2.trans hw1, ?_, by simp [hlen], List.forall_mem_cons.mpr ⟨hr ▸ hm, hms⟩⟩
    · rw [List.foldl_cons, h1]
      exact h2
    · simpa [ho1] using ho2

/-! ### A rank without the version (R96) -/

/-- The record of a rank without the version for a bag: C zero columns with POISON. -/
def missingRec (f : FanLookup) (b : Nat) : FanRec :=
  let n := f.lists.off.getD (b + 1) 0 - f.lists.off.getD b 0
  { bag := b, nvalid := 0, npos := n, empty := true, poison := true, dropped := decide (0 < n),
    vals := List.replicate (32 * (f.nblkM1.toNat + 1)) 0 }

/-- The job that a rank without the version has while it answers. -/
def missingJob (s : State) (f : FanLookup) : LkJob :=
  { newJob s 4096 f.pmode.toNat f.weighted f.lc f.nospec false 0 f.lists with
    owner := f.owner, tag := f.tag, heldRecs := (List.range (f.lists.off.length - 1)).map (missingRec f) }

theorem missingJob_cols {s : State} {f : FanLookup} {r : FanRec} (h : r ∈ (missingJob s f).heldRecs) :
    r.vals.length = 32 * (f.nblkM1.toNat + 1) := by
  obtain ⟨b, -, rfl⟩ := List.mem_map.mp h
  exact List.length_replicate

/-- The window of an owner that has raised nothing reaches every bag of a request of at most 4096 bags (R434). -/
theorem missingJob_inWindow {s : State} {f : FanLookup} (hoff : f.lists.off.length ≤ 4097) :
    ∀ r ∈ (missingJob s f).heldRecs, inWindow (missingJob s f) r.bag = true := by
  intro r h
  obtain ⟨b, hb, rfl⟩ := List.mem_map.mp h
  have hb := List.mem_range.mp hb
  show decide (b < 0 + min (f.lists.off.length - 1) 4096) = true
  simp
  omega

theorem dropLookup_frame (s : State) (j : LkJob) (ok : Bool) : ∃ js us scr sv tiles fr sc, dropLookup s j ok =
    { s with orr := { s.orr with jobs := js, units := us, scratch := scr, saves := sv }, tiles := tiles,
             tr := { s.tr with foRes := fr }, sc := sc } :=
  ⟨_, _, _, _, _, _, _, rfl⟩

/-- Sending held records leaves the counters, memory, the row cache, the tables and the commands, and it sends those
records that the window reaches and nothing else where no other chip waits for space. -/
theorem sendHeld_tr (s : State) (j : LkJob) (n : Nat) (hcols : ∀ r ∈ j.heldRecs, r.vals.length = n) :
    ((sendHeld s j).ctrs = s.ctrs ∧ (sendHeld s j).mem = s.mem ∧ (sendHeld s j).rc = s.rc ∧ (sendHeld s j).tabs = s.tabs ∧
      (sendHeld s j).orr.cmds = s.orr.cmds) ∧
    (s.tr.foWait = [] → ∃ ms, (sendHeld s j).tr.out = s.tr.out ++ ms ∧
      ms.length = (j.heldRecs.filter (fun r => inWindow j r.bag)).length ∧ ∀ m ∈ ms, IsAnswer j.owner j.tag n m) := by
  unfold sendHeld
  rw [List.partition_eq_filter_filter]
  dsimp only
  obtain ⟨tr, ms, hsend, hw, hout, hlen, hms⟩ := sendRecs_tr j n (j.heldRecs.filter (fun r => inWindow j r.bag))
    (fun r hr => hcols r (List.mem_of_mem_filter hr))
    (updJob s j.jid (fun k => { k with heldRecs := j.heldRecs.filter (not ∘ fun r => inWindow j r.bag) }))
  rw [hsend]
  split
  · obtain ⟨js, us, scr, sv, tiles, fr, sc, hdrop⟩ := dropLookup_frame
      { updJob s j.jid (fun k => { k with heldRecs := j.heldRecs.filter (not ∘ fun r => inWindow j r.bag) }) with tr := tr }
      j true
    rw [hdrop]
    constructor
    · obtain ⟨tr', hserve⟩ := foServe_tr _
      rw [hserve]
      exact ⟨rfl, rfl, rfl, rfl, rfl⟩
    · intro hnone
      rw [foServe_of_nobody (hw.trans hnone)]
      exact ⟨ms, hout, hlen, hms⟩
  · exact ⟨⟨rfl, rfl, rfl, rfl, rfl⟩, fun _ => ⟨ms, hout, hlen, hms⟩⟩

/-! ### LOOKUP_FAN_OUT (R95, R96) -/

section
variable {s : State} {f : FanLookup} (hheld : foHeld s f.owner f.tag = true)
  (hnew : ∀ j ∈ s.orr.jobs, j.cid ≠ none ∨ j.owner ≠ f.owner ∨ j.tag ≠ f.tag)
  (hpark : s.pwr.park = .running) (hrestart : s.pwr.restart ≠ .running)
include hheld hnew hpark hrestart

theorem fanOut_accepted : ¬ (!foHeld s f.owner f.tag ||
    s.orr.jobs.any (fun j => j.cid.isNone && j.owner == f.owner && j.tag == f.tag) ||
      s.pwr.park != .running || s.pwr.restart == .running) = true := by
  have hjobs : s.orr.jobs.any (fun j => j.cid.isNone && j.owner == f.owner && j.tag == f.tag) = false := by
    refine List.any_eq_false.mpr fun j hj => ?_
    simpa [or_iff_not_imp_left] using hnew j hj
  simp [hheld, hjobs, hpark, hrestart]

theorem lkFanned_some {d : Nat} {x : Desc} (hd : fanDesc s f.table.toNat f.tver = some (d, x)) {j : LkJob}
    (hj : j = { newJob s d f.pmode.toNat f.weighted f.lc f.nospec f.keepMap f.mapId.toNat f.lists with
      owner := f.owner, tag := f.tag }) :
    lkFanned s f = addUnits (keepMap (addJob s j) j x) s.orr.nextUid false f.lists.off := by
  unfold lkFanned
  rw [if_neg (fanOut_accepted hheld hnew hpark hrestart), hd, hj]
  rfl

theorem lkFanned_none (hd : fanDesc s f.table.toNat f.tver = none) :
    lkFanned s f = sendHeld (addJob (bump1 s ctrChipSplitVerMiss) (missingJob s f)) (missingJob s f) := by
  unfold lkFanned
  rw [if_neg (fanOut_accepted hheld hnew hpark hrestart), hd]
  rfl

end

theorem keepMap_rc (s : State) (j : LkJob) (x : Desc) : (keepMap s j x).rc = s.rc := by
  obtain ⟨cs, sc, js, h, -⟩ := keepMap_eq s j x
  rw [h]

/-! ### FAN_IN_RECORD (R98) -/

theorem jobOfCmd_updJob (s : State) (jid cid : Nat) {g : LkJob → LkJob} (hg : ∀ j, (g j).cid = j.cid) :
    jobOfCmd (updJob s jid g) cid = (jobOfCmd s cid).map (fun j => if j.jid = jid then g j else j) :=
  find?_map_of_eq (fun j => by split <;> simp [hg]) s.orr.jobs

theorem jobOfCmd_updJob_self {s : State} {cid : Nat} {j : LkJob} (h : jobOfCmd s cid = some j) {g : LkJob → LkJob}
    (hg : ∀ j, (g j).cid = j.cid) : jobOfCmd (updJob s j.jid g) cid = some (g j) := by
  rw [jobOfCmd_updJob s j.jid cid hg, h, Option.map_some, if_pos rfl]

/-- An incomplete bag is not released. -/
theorem releaseGo_incomplete {s : State} {cid b : Nat} {j : LkJob} (hj : jobOfCmd s cid = some j)
    (hb : bagComplete (descOf s j.desc) j b = false) (k : Nat) : releaseGo cid k b s = s := by
  cases k with
  | zero => rfl
  | succ k =>
    unfold releaseGo
    rw [hj]
    cases cmdOf s cid with
    | none => rfl
    | some c => simp [hb]

/-- A command that does not run, or has records to come, does not end. -/
theorem lkEnd_unfinished {s : State} {cid : Nat} {c : Cmd} {j : LkJob} (hc : cmdOf s cid = some c)
    (hj : jobOfCmd s cid = some j) (h : c.phase ≠ .running ∨ j.nextOut < lkNbags c) : lkEnd s cid = s := by
  unfold lkEnd
  rw [hc, hj]
  refine if_pos ?_
  rcases h with h | h <;> simp [h]

theorem ownerRelease_incomplete {s : State} {cid b : Nat} {c : Cmd} {j : LkJob} (hj : jobOfCmd s cid = some j)
    (hb : bagComplete (descOf s j.desc) j b = false) (hc : cmdOf s cid = some c)
    (h : c.phase ≠ .running ∨ j.nextOut < lkNbags c) : ownerRelease s cid b = s := by
  unfold ownerRelease
  rw [hj]
  exact (congrArg (lkEnd · cid) (releaseGo_incomplete hj hb _)).trans (lkEnd_unfinished hc hj h)

/-- The job with a rank's record and the positions that the rank left out. -/
def withRec (rank : Nat) (r : FanRec) (j : LkJob) : LkJob :=
  { j with recs := j.recs ++ [(rank, r)],
           rankDrops := j.rankDrops.set rank (j.rankDrops.getD rank 0 + (r.npos - r.nvalid)) }

/-- A record that is the first of its rank for a bag still to come is kept. -/
theorem takeRec_kept {s : State} {cid rank : Nat} {r : FanRec} {j : LkJob} (hj : jobOfCmd s cid = some j)
    (hnext : j.nextOut ≤ r.bag) (hrel : r.bag ∉ j.released) (hfirst : recOf j rank r.bag = none) (hlost : rank ∉ j.lost)
    (hbag : r.bag < j.lists.off.length - 1) : takeRec s cid rank r =
      ownerRelease (updJob s j.jid (withRec rank r)) cid r.bag := by
  have hrel : j.released.contains r.bag = false := by simpa using hrel
  have hlost : j.lost.contains rank = false := by simpa using hlost
  unfold takeRec
  rw [hj]
  refine if_neg ?_
  simp only [hrel, hlost, hfirst]
  simp
  omega

theorem exec_fanInRecord_next {s t : State} {cid rank : Nat} {r : FanRec} {j : LkJob} (hs : stopped s = false)
    (hj : jobOfCmd s cid = some j) (hrank : rank < (descOf s j.desc).ranks) (hother : rank ≠ (descOf s j.desc).rank)
    (h : takeRec s cid rank r = t) (hn : t.rc.need = []) : exec (.fanInRecord cid rank r) s = .next t := by
  refine act_eq_next (f := fun s => match jobOfCmd s cid with
    | some j =>
      let x := descOf s j.desc
      if rank < x.ranks && rank != x.rank then takeRec s cid rank r else s
    | none => s) hs ?_ hn
  have hto : (decide (rank < (descOf s j.desc).ranks) && rank != (descOf s j.desc).rank) = true := by
    simp [hrank, hother]
  simp only [hj]
  exact (if_pos hto).trans h

/-- The bag of an incomplete record waits for the others. -/
theorem fanIn_incomplete {s : State} {cid rank : Nat} {r : FanRec} {j : LkJob} {c : Cmd} (hj : jobOfCmd s cid = some j)
    (hb : bagComplete (descOf s j.desc) { j with recs := j.recs ++ [(rank, r)] } r.bag = false)
    (hc : cmdOf s cid = some c) (h : c.phase ≠ .running ∨ j.nextOut < lkNbags c) :
    ownerRelease (updJob s j.jid (withRec rank r)) cid r.bag = updJob s j.jid (withRec rank r) :=
  ownerRelease_incomplete (jobOfCmd_updJob_self hj (fun _ => rfl)) hb hc h

/-! ### O37 -/

/-- Settles O37, one clause for each of LOOKUP, LOOKUP_FAN_OUT and FAN_IN_RECORD, each from the lemmas about its
operation. -/
theorem lookupCommandsTakeEffect : Obligations.LookupCommandsTakeEffect := by
  unfold Obligations.LookupCommandsTakeEffect
  refine ⟨?lookup, ?fanOut, ?fanIn⟩
  case lookup =>
    intro s cid c hs hneed hc hbad hop hm
    have hcid : c.cid = cid := cmdOf_cid hc
    subst hcid
    have run {t : State} (h : lkRun s c = t) (hn : t.rc.need = []) : exec (.lookup c.cid) s = .next t :=
      exec_lookup_next hs hc hbad hop hm h hn
    refine ⟨fun hr => run (lkRun_unresolved hr) hneed, fun d x hr => ⟨fun he => run (lkRun_uncovered hr he) hneed,
      fun he ho hb => run (lkRun_streamTaken hr he ho hb) hneed, ?_⟩⟩
    rintro s1 u l ns he ho hread hn1 rfl
    have hoffs := lkRun_offsets hr he ho hread hn1
    refine ⟨fun hwrong => run (hoffs.trans (if_pos hwrong)) hneed, ?_⟩
    rintro hright rfl hn
    have horr : s1.orr = s.orr := by
      have h := (onlyMem_readList s (c.f 3 0 52) (4 * (lkNbags c + 1))).orr
      rwa [hread] at h
    have hjob := lkStart_job s1 c d x ((numsOf 4 l).map (fun v => v.1))
    rw [horr] at hjob
    refine ⟨run (hoffs.trans (if_neg (Bool.eq_false_iff.mp hright))) hn, hjob, fun hsplit => ?_⟩
    have hunits := lkStart_units hsplit ((cmdOf_eq_of_orr horr c.cid).trans hc) (d := d) ((numsOf 4 l).map (fun v => v.1))
    rw [horr] at hunits
    exact ⟨_, hunits.1, rfl, hunits.2⟩
  case fanOut =>
    intro s f hs hneed hheld hnew hpark hrestart
    constructor
    · intro d x j hd hj
      refine act_eq_next (f := fun s => lkFanned s f) hs (lkFanned_some hheld hnew hpark hrestart hd hj) ?_
      exact (congrArg Cache.need (keepMap_rc ..)).trans hneed
    · intro hd
      obtain ⟨⟨hctrs, hmem, hrc, htabs, hcmds⟩, hout⟩ := sendHeld_tr
        (addJob (bump1 s ctrChipSplitVerMiss) (missingJob s f)) (missingJob s f) _ (fun _ => missingJob_cols)
      refine ⟨_, act_eq_next (f := fun s => lkFanned s f) hs (lkFanned_none hheld hnew hpark hrestart hd)
        ((congrArg Cache.need hrc).trans hneed), hctrs, fun hoff hwait => ?_, hmem, hrc, htabs, hcmds⟩
      obtain ⟨ms, hms, hlen, hall⟩ := hout hwait
      refine ⟨ms, hms, hlen.trans ?_, hall⟩
      rw [List.filter_eq_self.mpr (missingJob_inWindow hoff)]
      simp [missingJob]
  case fanIn =>
    intro s t cid rank r j hs hj hrank hother hnext hrel hfirst hlost hbag ht hn
    have hkept : takeRec s cid rank r = t := (takeRec_kept hj hnext hrel hfirst hlost hbag).trans ht.symm
    refine ⟨exec_fanInRecord_next hs hj hrank hother hkept hn, ?_⟩
    rintro hinc ⟨c, hc, hmore⟩
    have hwaits : t = updJob s j.jid (withRec rank r) := ht.trans (fanIn_incomplete hj hinc hc hmore)
    rw [hwaits]
    exact ⟨_, jobOfCmd_updJob_self hj (fun _ => rfl), rfl, rfl⟩

end Sys2Proof.Machine
end

section
/-! PROOFS. What stands while a unit's lanes fill and its groups close: its bags and its cursor, and all but counters and the
units where no row is read again (R121, R141, R146, R149). -/

namespace Sys2Proof.Machine

/-! ### A unit whose lanes fill -/

theorem unitOf_updUnit_self (s : State) (uid : Nat) {f : Unit' → Unit'} (hf : ∀ v, (f v).uid = v.uid) :
    unitOf (updUnit s uid f) uid = (unitOf s uid).map f := by
  have hfind : unitOf (updUnit s uid f) uid = (unitOf s uid).map (fun v => if v.uid = uid then f v else v) :=
    find?_map_of_eq (fun v => by split <;> simp [hf]) s.orr.units
  rw [hfind]
  exact Option.map_congr (fun v hv => if_pos (unitOf_uid hv))

/-- The bags and the cursor of a unit. -/
def bagsAndCursor (s : State) (uid : Nat) : Option (List BagAcc × Nat) :=
  (unitOf s uid).map (fun u => (u.bags, u.cursor))

theorem bagsAndCursor_of_orr {s t : State} (h : t.orr = s.orr) (uid : Nat) : bagsAndCursor t uid = bagsAndCursor s uid := by
  rw [bagsAndCursor, bagsAndCursor, unitOf_eq_of_orr h]

theorem bagsAndCursor_updUnit (s : State) (uid : Nat) {f : Unit' → Unit'} (hid : ∀ v, (f v).uid = v.uid)
    (hb : ∀ v, (f v).bags = v.bags) (hc : ∀ v, (f v).cursor = v.cursor) :
    bagsAndCursor (updUnit s uid f) uid = bagsAndCursor s uid := by
  rw [bagsAndCursor, unitOf_updUnit_self s uid hid, Option.map_map]
  exact Option.map_congr (fun v _ => Prod.ext (hb v) (hc v))

theorem bagsAndCursor_updEnt (s : State) (uid i : Nat) (f : RowEnt → RowEnt) :
    bagsAndCursor (updEnt s uid i f) uid = bagsAndCursor s uid :=
  bagsAndCursor_updUnit s uid (fun _ => rfl) (fun _ => rfl) (fun _ => rfl)

/-- Every row of the unit has a dedup entry, so that a replay reads none again (R149). -/
def AllStored (s : State) (uid : Nat) : Prop := ∀ u, unitOf s uid = some u → ∀ e ∈ u.ents, e.dedup = true

/-- The step changes no more than counters and units. -/
def OnlyUnits (s t : State) : Prop := ∃ cs us, t = { s with ctrs := cs, orr := { s.orr with units := us } }

theorem OnlyUnits.refl (s : State) : OnlyUnits s s := ⟨_, _, rfl⟩

theorem OnlyUnits.trans {s t u : State} (h : OnlyUnits s t) (k : OnlyUnits t u) : OnlyUnits s u := by
  obtain ⟨cs, us, rfl⟩ := h
  obtain ⟨cs', us', rfl⟩ := k
  exact ⟨cs', us', rfl⟩

/-- The step leaves the unit's bags and cursor, and changes no more than counters and units if every row of the unit has a
dedup entry, which it then still has. -/
structure LaneFill (uid : Nat) (s t : State) : Prop where
  bags : bagsAndCursor t uid = bagsAndCursor s uid
  stored : AllStored s uid → OnlyUnits s t ∧ AllStored t uid

namespace LaneFill

variable {uid : Nat}

theorem refl (s : State) : LaneFill uid s s := ⟨rfl, fun h => ⟨OnlyUnits.refl s, h⟩⟩

theorem trans {s t u : State} (h : LaneFill uid s t) (k : LaneFill uid t u) : LaneFill uid s u where
  bags := k.bags.trans h.bags
  stored hs := by
    obtain ⟨hst, ht⟩ := h.stored hs
    obtain ⟨htu, hu⟩ := k.stored ht
    exact ⟨hst.trans htu, hu⟩

theorem foldl {α : Type} (f : State → α → State) (hf : ∀ s a, LaneFill uid s (f s a)) (l : List α) (s : State) :
    LaneFill uid s (l.foldl f s) := by
  induction l generalizing s with
  | nil => exact refl s
  | cons a l ih => exact (hf s a).trans (ih _)

theorem unit {s t : State} (h : LaneFill uid s t) {u : Unit'} (hu : unitOf s uid = some u) :
    ∃ v, unitOf t uid = some v ∧ v.bags = u.bags ∧ v.cursor = u.cursor := by
  have hb : (unitOf t uid).map (fun v => (v.bags, v.cursor)) = some (u.bags, u.cursor) := by
    rw [← bagsAndCursor, h.bags, bagsAndCursor, hu, Option.map_some]
  obtain ⟨v, hv, hvu⟩ := Option.map_eq_some_iff.mp hb
  exact ⟨v, hv, (Prod.mk.inj hvu).1, (Prod.mk.inj hvu).2⟩

end LaneFill

theorem laneFill_ctrs (uid : Nat) (s : State) (cs : FMap Nat) : LaneFill uid s { s with ctrs := cs } :=
  ⟨rfl, fun h => ⟨⟨_, _, rfl⟩, h⟩⟩

theorem laneFill_bumpIf (uid : Nat) (s : State) (b : Bool) (k : Nat) : LaneFill uid s (bumpIf s b k) := by
  cases b
  · exact LaneFill.refl s
  · exact laneFill_ctrs ..

theorem AllStored.updUnit {s : State} {uid : Nat} (h : AllStored s uid) {f : Unit' → Unit'} (hid : ∀ v, (f v).uid = v.uid)
    (he : ∀ v, ∀ e ∈ (f v).ents, ∃ d ∈ v.ents, e.dedup = d.dedup) : AllStored (updUnit s uid f) uid := by
  intro u hu e hmem
  rw [unitOf_updUnit_self s uid hid] at hu
  obtain ⟨v, hv, rfl⟩ := Option.map_eq_some_iff.mp hu
  obtain ⟨d, hd, hed⟩ := he v e hmem
  exact hed.trans (h v hv d hd)

theorem laneFill_updUnit (s : State) (uid : Nat) {f : Unit' → Unit'} (hid : ∀ v, (f v).uid = v.uid)
    (hb : ∀ v, (f v).bags = v.bags) (hc : ∀ v, (f v).cursor = v.cursor)
    (he : ∀ v, ∀ e ∈ (f v).ents, ∃ d ∈ v.ents, e.dedup = d.dedup) : LaneFill uid s (updUnit s uid f) where
  bags := bagsAndCursor_updUnit s uid hid hb hc
  stored hs := ⟨⟨_, _, rfl⟩, hs.updUnit hid he⟩

/-! ### Rows that are read again (R149) -/

theorem bagsAndCursor_rereadEnt (s : State) (uid i : Nat) :
    bagsAndCursor (rereadEnt s uid i) uid = bagsAndCursor s uid := by
  unfold rereadEnt
  split
  · rfl
  next u j _ =>
  split
  · rfl
  next e _ =>
  split
  · rfl
  have hs := ((sameWork_findAgain s j.desc u.tile e).trans
    (onlyMem_quietRead _ j.desc u.tile e.row (findAgain s j.desc u.tile e).2).sameWork).orr
  simp only
  split
  · refine (bagsAndCursor_of_orr (sameWork_countRead ..).orr uid).trans ?_
    refine (bagsAndCursor_of_orr (onlyMem_reRise ..).orr uid).trans ?_
    exact (bagsAndCursor_updEnt ..).trans (bagsAndCursor_of_orr hs uid)
  · exact (bagsAndCursor_updEnt ..).trans (bagsAndCursor_of_orr hs uid)

/-- Where every row has a dedup entry, none is read again. -/
theorem rereadAll_of_stored {s : State} {uid : Nat} (h : AllStored s uid) (is : List Nat) : rereadAll s uid is = s := by
  unfold rereadAll
  split
  · rfl
  next u hu =>
  have hnone : is.eraseDups.filter (fun i => (u.ents[i]?).any (fun e => !e.dedup)) = [] := by
    refine List.filter_eq_nil_iff.mpr fun i _ => ?_
    cases he : u.ents[i]? with
    | none => simp
    | some e => simp [h u hu e (List.mem_of_getElem? he)]
  rw [hnone]
  rfl

theorem laneFill_rereadAll (s : State) (uid : Nat) (is : List Nat) : LaneFill uid s (rereadAll s uid is) where
  bags := by
    unfold rereadAll
    split
    · rfl
    · exact foldl_keeps (fun t => bagsAndCursor t uid) _ (fun t i => bagsAndCursor_rereadEnt t uid i) _ s
  stored h := by
    rw [rereadAll_of_stored h]
    exact ⟨OnlyUnits.refl s, h⟩

/-! ### Positions enter their groups (R141, R146) -/

theorem laneFill_rebuildAt (s : State) (uid bag k : Nat) : LaneFill uid s (rebuildAt s uid bag k) := by
  unfold rebuildAt
  split
  · exact LaneFill.refl s
  · exact laneFill_updUnit s uid (fun _ => rfl) (fun _ => rfl) (fun _ => rfl) (fun _ e he => ⟨e, he, rfl⟩)

theorem laneFill_enterOne (s : State) (uid pos : Nat) : LaneFill uid s (enterOne s uid pos) := by
  unfold enterOne
  split
  · exact LaneFill.refl s
  split
  · exact LaneFill.refl s
  split
  · exact LaneFill.refl s
  simp only
  split
  · exact LaneFill.refl s
  refine LaneFill.trans ?_ (laneFill_bumpIf ..)
  refine LaneFill.trans ?_ (laneFill_rebuildAt ..)
  refine LaneFill.trans ?_ (laneFill_updUnit _ uid (fun _ => rfl) (fun _ => rfl) (fun _ => rfl) (fun _ e he => ⟨e, he, rfl⟩))
  split
  · exact laneFill_rereadAll ..
  · exact LaneFill.refl s

theorem laneFill_enterReady (s : State) (uid : Nat) : LaneFill uid s (enterReady s uid) := by
  unfold enterReady
  split
  · exact LaneFill.refl s
  split
  · exact LaneFill.refl s
  · exact LaneFill.foldl _ (fun t p => laneFill_enterOne t uid p) _ s

end Sys2Proof.Machine
end

section
/-! PROOFS. GROUP_CLOSE (R139, R141, R149, R150). -/

namespace Sys2Proof.Machine

/-! ### Subgroups (R148, R149) -/

theorem flatten_splitGo (nb : Nat) (ms cur : List PMember) (r : List (Option (Int × Int))) :
    (splitGo nb ms cur r).flatten = cur.reverse ++ ms := by
  induction ms generalizing cur r with
  | nil =>
    unfold splitGo
    split
    · next h => simp [List.isEmpty_iff.mp h]
    · simp
  | cons m ms ih =>
    unfold splitGo
    simp only []
    split <;> simp [ih]

/-- The subgroups hold the group's members, in order. -/
theorem flatten_subgroups (ms : List PMember) (c : Nat) : (subgroups ms c).flatten = ms := flatten_splitGo ..

theorem cutLike_flatten {α : Type} (l : List (List α)) : cutLike l l.flatten = l := by
  induction l with
  | nil => rfl
  | cons g l ih => simp [cutLike, ih]

theorem any_subgroups (ms : List PMember) (c : Nat) (p : PMember → Bool) :
    (subgroups ms c).any (fun g => g.any p) = ms.any p := by
  rw [← List.any_flatten, flatten_subgroups]

/-! ### The bag's accumulator -/

/-- The accumulator of a bag that has none yet. -/
def freshAcc (s : State) (j : LkJob) (u : Unit') (b : Nat) : BagAcc :=
  { bag := b, nextGrp := if u.seg.isSome then (u.p0 - bagStart j b) / groupLen (descOf s j.desc).gsize else 0, acc := none,
    wins := [], nvalid := 0, poison := false, released := false }

theorem bagAcc_eq (s : State) (j : LkJob) (u : Unit') (b : Nat) :
    bagAcc s j u b = (u.bags.find? (fun x => x.bag == b)).getD (freshAcc s j u b) := by
  unfold bagAcc
  cases h : u.bags.find? (fun x => x.bag == b) with
  | some a => rfl
  | none =>
    have hany : ¬ u.bags.any (fun x => x.bag == b) = true := by simpa using h
    simp [touchBag, hany, List.find?_append, h, freshAcc]

theorem bagAcc_bag (s : State) (j : LkJob) (u : Unit') (b : Nat) : (bagAcc s j u b).bag = b := by
  rw [bagAcc_eq]
  cases h : u.bags.find? (fun x => x.bag == b) with
  | none => rfl
  | some a => simpa using List.find?_some h

theorem bagAcc_released (s : State) (j : LkJob) (u : Unit') (b : Nat) :
    (bagAcc s j u b).released = (u.bags.find? (fun x => x.bag == b)).any (fun a => a.released) := by
  rw [bagAcc_eq]
  cases u.bags.find? (fun x => x.bag == b) <;> rfl

/-- The accumulators of a unit after one of them is written. -/
def putAcc (a : BagAcc) (l : List BagAcc) : List BagAcc :=
  if l.any (fun x => x.bag == a.bag) then l.map (fun x => if x.bag = a.bag then a else x) else l ++ [a]

theorem mem_putAcc (a : BagAcc) (l : List BagAcc) : a ∈ putAcc a l := by
  unfold putAcc
  split
  · next h =>
    obtain ⟨x, hx, hb⟩ := List.any_eq_true.mp h
    exact List.mem_map.mpr ⟨x, hx, if_pos (beq_iff_eq.mp hb)⟩
  · exact List.mem_append_right _ List.mem_cons_self

/-! ### A group closes (R149, R150) -/

/-- The accumulator after the given subgroups have closed. -/
def closedAcc (s : State) (j : LkJob) (u : Unit') (b k : Nat) (subs : List (List PMember)) : BagAcc :=
  { bagAcc s j u b with
    nextGrp := k + 1
    acc := (subs.map (fun g => closeSub (groupPrec (descOf s j.desc).gsize) g (descOf s j.desc).cols)).foldl
      (fun v c => some (accAdd v c.1)) (bagAcc s j u b).acc
    poison := (bagAcc s j u b).poison || subs.any (fun g => g.any (fun m => m.poison)) }

theorem laneFill_closeSubs (s : State) (j : LkJob) (u : Unit') (b k : Nat) (subs : List (List PMember)) :
    LaneFill u.uid (setAcc s u (closedAcc s j u b k subs)) (closeSubs s j u b k subs) := by
  unfold closeSubs
  extract_lets x cl a acc loss mine s1 s2
  have hgrp : LaneFill u.uid s1 s2 := by
    refine laneFill_updUnit s1 u.uid (fun _ => rfl) (fun _ => rfl) (fun _ => rfl) (fun v e he => ?_)
    obtain ⟨⟨d, i⟩, hd, rfl⟩ := List.mem_map.mp he
    refine ⟨d, List.mem_of_getElem? (List.mem_zipIdx_iff_getElem?.mp hd), ?_⟩
    split <;> rfl
  exact hgrp.trans (laneFill_ctrs ..)

theorem unitOf_setAcc_fill {s t : State} {u : Unit'} {a : BagAcc} (hu : unitOf s u.uid = some u)
    (h : LaneFill u.uid (setAcc s u a) t) : ∃ x, unitOf t u.uid = some x ∧ a ∈ x.bags ∧ x.cursor = u.cursor := by
  have hset : unitOf (setAcc s u a) u.uid = some { u with bags := putAcc a u.bags } := unitOf_updUnit _ hu (fun _ h => h)
  obtain ⟨x, hx, hbags, hcur⟩ := h.unit hset
  exact ⟨x, hx, hbags ▸ mem_putAcc a u.bags, hcur⟩

/-- The state in which a group's subgroups close: after the rows of a split group have been read again (R149). -/
def replayed (s : State) (j : LkJob) (u : Unit') (b k : Nat) : State :=
  if decide (1 < (subgroups (membersAt s j u (groupPos s j u b k)) (descOf s j.desc).cols).length) then
    rereadAll s u.uid (((groupPos s j u b k).filter (posIn u)).filterMap (fun p => p.ent))
  else s

theorem laneFill_replayed (s : State) (j : LkJob) (u : Unit') (b k : Nat) : LaneFill u.uid s (replayed s j u b k) := by
  unfold replayed
  split
  · exact laneFill_rereadAll ..
  · exact LaneFill.refl s

theorem replayed_of_stored {s : State} {u : Unit'} (h : AllStored s u.uid) (j : LkJob) (b k : Nat) :
    replayed s j u b k = s := by
  unfold replayed
  split
  · exact rereadAll_of_stored h _
  · rfl

/-- The subgroups that close in a state: the members that it gives, cut as the group was (R149). -/
def replayedSubs (s : State) (j : LkJob) (u : Unit') (b k : Nat) (s0 : State) (v : Unit') : List (List PMember) :=
  let subs := subgroups (membersAt s j u (groupPos s j u b k)) (descOf s j.desc).cols
  if decide (1 < subs.length) then cutLike subs (membersAt s0 j v (groupPos s j u b k)) else subs

theorem replayedSubs_self (s : State) (j : LkJob) (u : Unit') (b k : Nat) :
    replayedSubs s j u b k s u = subgroups (membersAt s j u (groupPos s j u b k)) (descOf s j.desc).cols := by
  have hcut := cutLike_flatten (subgroups (membersAt s j u (groupPos s j u b k)) (descOf s j.desc).cols)
  rw [flatten_subgroups] at hcut
  rw [replayedSubs, hcut, ite_self]

/-- The subgroups add to the bag's accumulator; after that only lanes fill. -/
theorem laneFill_closeGroup {s : State} {j : LkJob} {u v : Unit'} {b k : Nat}
    (hv : unitOf (replayed s j u b k) u.uid = some v) :
    LaneFill u.uid (setAcc (replayed s j u b k) v
        (closedAcc (replayed s j u b k) j v b k (replayedSubs s j u b k (replayed s j u b k) v)))
      (closeGroup s j u b k) := by
  unfold closeGroup
  extract_lets x ps subs split s0 w s1 s2
  have hs0 : replayed s j u b k = s0 := rfl
  rw [hs0] at hv ⊢
  have hw : w = v := by simp [w, hv]
  have hclose : LaneFill v.uid _ (closeSubs s0 j v b k (replayedSubs s j u b k s0 v)) := laneFill_closeSubs ..
  rw [unitOf_uid hv] at hclose
  have hs1 : s1 = closeSubs s0 j v b k (replayedSubs s j u b k s0 v) := by
    unfold s1
    rw [hw]
    rfl
  rw [← hs1] at hclose
  have hcount : LaneFill u.uid s1 s2 := (laneFill_bumpIf ..).trans (laneFill_bumpIf ..)
  exact (hclose.trans hcount).trans ((laneFill_ctrs ..).trans (laneFill_enterReady ..))

/-- The group's subgroups are in the bag's accumulator, and the bag goes on with the next group. -/
theorem closeGroup_advances {s : State} {u : Unit'} (hu : unitOf s u.uid = some u) (j : LkJob) (b k : Nat) :
    ∃ x a, unitOf (closeGroup s j u b k) u.uid = some x ∧ a ∈ x.bags ∧ a.bag = b ∧ a.nextGrp = k + 1 ∧
      a.released = (bagAcc s j u b).released ∧ x.cursor = u.cursor := by
  obtain ⟨v, hv, hbags, hcur⟩ := (laneFill_replayed s j u b k).unit hu
  have hvid := unitOf_uid hv
  have hfill := laneFill_closeGroup hv
  rw [← hvid] at hv hfill
  obtain ⟨x, hx, ha, hxc⟩ := unitOf_setAcc_fill hv hfill
  refine ⟨x, _, hvid ▸ hx, ha, bagAcc_bag .., rfl, ?_, hxc.trans hcur⟩
  rw [bagAcc_released, ← hbags]
  exact bagAcc_released ..

/-- Where no row is read again, the group's own subgroups are in the bag's accumulator, and only counters and units change. -/
theorem closeGroup_of_stored {s : State} {u : Unit'} (hu : unitOf s u.uid = some u) (hst : AllStored s u.uid) (j : LkJob)
    (b k : Nat) : OnlyUnits s (closeGroup s j u b k) ∧ ∃ x, unitOf (closeGroup s j u b k) u.uid = some x ∧
      closedAcc s j u b k (subgroups (membersAt s j u (groupPos s j u b k)) (descOf s j.desc).cols) ∈ x.bags := by
  have hs0 := replayed_of_stored hst j b k
  have hfill := laneFill_closeGroup (hs0.symm ▸ hu : unitOf (replayed s j u b k) u.uid = some u)
  rw [hs0, replayedSubs_self] at hfill
  obtain ⟨x, hx, ha, -⟩ := unitOf_setAcc_fill hu hfill
  have hset (a : BagAcc) : AllStored (setAcc s u a) u.uid := hst.updUnit (fun _ => rfl) (fun _ e he => ⟨e, he, rfl⟩)
  exact ⟨OnlyUnits.trans ⟨_, _, rfl⟩ (hfill.stored (hset _)).1, x, hx, ha⟩

theorem notePass_eq (s : State) (t : Nat) : ∃ al, notePass s t = { s with alm := al } := by
  unfold notePass
  split <;> exact ⟨_, rfl⟩

end Sys2Proof.Machine
end

section
/-! PROOFS. A bag that leaves its tile (R98, R112, R130, R153, R158): its record changes no unit, and the ends of units and jobs
that follow add none. -/

namespace Sys2Proof.Machine

/-! ### Records leave the units as they are (R97, R98, R112) -/

theorem wakeUp_orr (s : State) : (wakeUp s).orr = s.orr := by
  unfold wakeUp
  split <;> rfl

theorem semChange_units (s : State) (i : Nat) (add : Bool) (v : W32) : (semChange s i add v).orr.units = s.orr.units := by
  have hlink (t : State) : (if add then t else linkSet t i).orr = t.orr := by split <;> rfl
  unfold semChange
  simp only []
  rw [apply_ite State.orr, wakeUp_orr, ite_self, hlink]

theorem pumpGo_units (n k : Nat) (s : State) : (pumpGo n k s).orr.units = s.orr.units := by
  induction k generalizing s with
  | zero => rfl
  | succ k ih =>
    unfold pumpGo
    simp only []
    split
    · rfl
    split
    · exact ih _
    split
    · exact (ih _).trans (semChange_units ..)
    · rfl

theorem strmRest_orr (s : State) (n : Nat) : (strmRest s n).orr = s.orr := by
  unfold strmRest
  simp only []
  split
  · exact strmIdle_orr ..
  · rfl

theorem putRecord_units (s : State) (c : Cmd) (j : LkJob) (r : FanRec) :
    (putRecord s c j r).orr.units = s.orr.units := by
  unfold putRecord
  simp only []
  split
  · exact (congrArg Orrery.units (strmRest_orr ..)).trans (pumpGo_units ..)
  split
  · rw [writePieces_orr]
    exact congrArg Orrery.units (foldl_keeps State.orr _ (fun t p => xltUse_orr ..) _ s)
  · rfl

theorem fillMap_orr (s : State) (j : LkJob) : (fillMap s j).orr = s.orr := by
  unfold fillMap
  split <;> rfl

theorem lkEnd_units (s : State) (cid : Nat) : (lkEnd s cid).orr.units = s.orr.units := by
  unfold lkEnd
  split
  · next c j _ _ =>
    split
    · rfl
    · exact (congrArg Orrery.units (fillMap_orr s j) :)
  · rfl

theorem releaseGo_units (cid k b : Nat) (s : State) : (releaseGo cid k b s).orr.units = s.orr.units := by
  induction k generalizing b s with
  | zero => rfl
  | succ k ih =>
    unfold releaseGo
    cases cmdOf s cid with
    | none => rfl
    | some c =>
    cases jobOfCmd s cid with
    | none => rfl
    | some j =>
    obtain ⟨⟨r, skew⟩, hr⟩ : ∃ p, assemble (descOf s j.desc) j b = p := ⟨_, rfl⟩
    obtain ⟨⟨n, l⟩, hn⟩ : ∃ p, advanceGo (j.released.length + 1) j.nextOut (sins j.released b) = p := ⟨_, rfl⟩
    have hput := putRecord_units (bumpIf s skew (ctrTableSplitPopSkew j.desc)) c j r
    have hwin (t : State) (l : List (Nat × BitVec 12)) : (if n = j.nextOut then t else
        l.foldl (fun t y => sendMsg t clsCtl mtWindow y.2 cid n []) t).orr = t.orr := by
      split
      · rfl
      · exact foldl_keeps State.orr _ (fun _ _ => sendMsg_orr ..) l t
    rw [bumpIf_orr] at hput
    simp only [hr, hn]
    split
    · rfl
    split
    · rw [ih, hwin]
      exact hput
    · rw [hwin]
      exact hput

theorem ownerRelease_units (s : State) (cid b : Nat) : (ownerRelease s cid b).orr.units = s.orr.units := by
  unfold ownerRelease
  split
  · rw [lkEnd_units, releaseGo_units]
  · rfl

theorem takeRec_units (s : State) (cid rank : Nat) (r : FanRec) : (takeRec s cid rank r).orr.units = s.orr.units := by
  unfold takeRec
  split
  · rfl
  split
  · rfl
  · exact ownerRelease_units ..

theorem giveRec_units (s : State) (j : LkJob) (tile : Nat) (r : FanRec) :
    (giveRec s j tile r).orr.units = s.orr.units := by
  unfold giveRec
  split
  · exact takeRec_units ..
  · exact congrArg Orrery.units (sendMsg_orr ..)

theorem mapTake_units (s : State) (j : LkJob) (u : Unit') (b : Nat) : (mapTake s j u b).orr.units = s.orr.units := by
  unfold mapTake
  split <;> rfl

/-- A finished bag leaves its tile: the units stand. -/
theorem bagOut_units (s : State) (j : LkJob) (tile b : Nat) (a : BagAcc) :
    (bagOut s j tile b a).orr.units = s.orr.units := by
  have hmap (t : State) : (mapBag t j b a).orr.units = t.orr.units := by
    unfold mapBag
    split <;> rfl
  unfold bagOut
  rw [giveRec_units, hmap, bumpIf_orr]

/-! ### Units and jobs that end (R153, R158, R433) -/

theorem notePass_units (s : State) (t : Nat) : (notePass s t).orr.units = s.orr.units :=
  congrArg Orrery.units (sameWork_notePass s t).orr

theorem qProg_units (s : State) (q : Nat) : (qProg s q).orr.units = s.orr.units := by
  rcases qProg_eq s q with h | h <;> rw [h] <;> rfl

/-- A job that ends takes its units along. -/
theorem jobRest_units_subset (s : State) (jid : Nat) : (jobRest s jid).orr.units ⊆ s.orr.units := by
  unfold jobRest
  split
  · exact List.Subset.refl _
  split
  · exact List.Subset.refl _
  next j _ _ =>
  obtain ⟨tr, h⟩ := foServe_tr (dropLookup (fillMap s j) j true)
  rw [h]
  exact fun u hu => fillMap_orr s j ▸ List.mem_of_mem_filter hu

theorem unitOf_unitGone (s : State) (uid : Nat) : unitOf (unitGone s uid) uid = none := by
  unfold unitGone
  simp only []
  split
  · assumption
  next u hu =>
  have hgone (t : State) (h : t.orr.units = (drainUnit s uid).orr.units.filter (fun v => v.uid != uid)) (tile : Nat) :
      unitOf (notePass t tile) uid = none := by
    rw [unitOf, notePass_units, h]
    simp
  apply hgone
  split
  · exact qProg_units ..
  · rfl

theorem segFree_units_subset (s : State) (u : Unit') : (segFree s u).orr.units ⊆ s.orr.units :=
  List.filter_subset_self _

/-! ### BAG_RELEASE (R130, R153) -/

section
variable {s t : State} {u : Unit'}

/-- Any unit with the written unit's number holds the accumulator. -/
theorem mem_bags_of_setAcc {a : BagAcc} {x : Unit'} (hx : x ∈ (setAcc s u a).orr.units) (hid : x.uid = u.uid) :
    a ∈ x.bags := by
  obtain ⟨v, -, hv⟩ := List.mem_map.mp hx
  split at hv
  · exact hv ▸ mem_putAcc a v.bags
  · next hne => exact absurd (hv ▸ hid) hne

theorem finalAcc_bag (s : State) (j : LkJob) (u : Unit') (b : Nat) : (finalAcc s j u b).bag = b := by
  unfold finalAcc
  simp only []
  split <;> exact bagAcc_bag ..

theorem unitOf_eq_none_of_subset {uid : Nat} (h : t.orr.units ⊆ s.orr.units) (hs : unitOf s uid = none) :
    unitOf t uid = none :=
  List.find?_eq_none.mpr (fun x hx => List.find?_eq_none.mp hs x (h hx))

/-- The unit has ended once its bag is released, or it holds the bag as released. -/
theorem releaseBag_releases (s : State) (u : Unit') (j : LkJob) (b : Nat) :
    unitOf (releaseBag s u j b) u.uid = none ∨
      ∃ x a, unitOf (releaseBag s u j b) u.uid = some x ∧ a ∈ x.bags ∧ a.bag = b ∧ a.released = true := by
  unfold releaseBag
  extract_lets a s1 s2 s3
  have h3 : s3.orr.units = (setAcc s u { a with released := true }).orr.units := by
    unfold s3 s2
    rw [bagOut_units, mapTake_units]
    rfl
  split
  · next hnone => exact .inl hnone
  next v hv =>
  split
  · rw [← unitOf_uid hv]
    exact .inl (unitOf_eq_none_of_subset (jobRest_units_subset ..) (unitOf_unitGone ..))
  · have hmem : v ∈ (setAcc s u { a with released := true }).orr.units := h3 ▸ List.mem_of_find?_eq_some hv
    exact .inr ⟨v, _, hv, mem_bags_of_setAcc hmem (unitOf_uid hv), finalAcc_bag .., rfl⟩

end

/-! ### SEGMENT_FOLD (R157, R158) -/

theorem onlyMem_segWrite (s : State) (j : LkJob) (u : Unit') : OnlyMem s (segWrite s j u) := by
  unfold segWrite
  split
  · exact OnlyMem.refl s
  · exact (onlyMem_freeBytes s (partBytes s j)).trans (onlyMem_writeExt ..)

theorem onlyMem_segFoldIo (s : State) (j : LkJob) (b : Nat) (u : Unit') : OnlyMem s (segFoldIo s j b u) := by
  have hread (t : State) (v : Unit') : OnlyMem t (segRead t j v) := by
    unfold segRead
    split
    · exact OnlyMem.refl t
    · exact onlyMem_readExt ..
  unfold segFoldIo
  split
  · exact hread s u
  · next f _ => exact ((hread s u).trans (hread _ f)).trans (onlyMem_segWrite ..)

theorem foldGo_units_subset (jid b tile n : Nat) (s : State) : (foldGo jid b tile n s).orr.units ⊆ s.orr.units := by
  induction n generalizing s with
  | zero => exact List.Subset.refl _
  | succ n ih =>
    unfold foldGo
    split
    · exact List.Subset.refl _
    next j _ =>
    split
    next k tl run _ =>
    split
    · exact List.Subset.refl _
    next u _ =>
    extract_lets part run' s1
    refine List.Subset.trans (ih _) ?_
    split
    · exact List.Subset.refl _
    · refine List.Subset.trans (segFree_units_subset ..) ?_
      rw [(onlyMem_segFoldIo ..).orr]
      exact List.Subset.refl _

theorem foldEnd_units_subset (s : State) (jid b : Nat) : (foldEnd s jid b).orr.units ⊆ s.orr.units := by
  unfold foldEnd
  split
  · exact List.Subset.refl _
  next j _ =>
  split
  · next k tile run _ =>
    split
    · exact List.Subset.refl _
    extract_lets s1 s2
    have h2 : s2.orr.units ⊆ s1.orr.units := by
      unfold s2
      split
      · exact segFree_units_subset ..
      · exact List.Subset.refl _
    refine List.Subset.trans (jobRest_units_subset ..) ?_
    rw [bagOut_units]
    exact h2
  · exact List.Subset.refl _

/-- A segment that is settled becomes a partial: its unit is done. -/
theorem segEnd_done (s : State) (u : Unit') (j : LkJob) {x : Unit'} (hx : x ∈ (segEnd s u j).orr.units)
    (hid : x.uid = u.uid) : x.st = .done := by
  unfold segEnd at hx
  extract_lets b a s0 s1 s2 s3 o s4 at hx
  have hprog : (if j.q < 64 then qProg s4 j.q else s4).orr.units = s3.orr.units := by
    split
    · exact qProg_units ..
    · rfl
  rw [notePass_units, hprog] at hx
  obtain ⟨v, -, hv⟩ := List.mem_map.mp hx
  split at hv
  · rw [← hv]
  · next hne => exact absurd (hv ▸ hid) hne

end Sys2Proof.Machine
end

section
/-! PROOFS. The pooling unit's events (R139, R141, R149, R150, R153, R157, R158). -/

namespace Sys2Proof.Machine

section
variable {s t : State} {uid : Nat} {u : Unit'} {j : LkJob} (hs : stopped s = false)
include hs

theorem exec_groupClose_next {bag grp : Nat} (hrun : runningLk s uid = some (u, j)) (hp : j.pmode.toNat < 2)
    (hin : inUnit u bag = true) (hnext : nextGroup s j u bag grp = true)
    (h : notePass (closeGroup s j u bag grp) u.tile = t) (hn : t.rc.need = []) :
    exec (.groupClose uid bag grp) s = .next t := by
  show execGroupClose uid bag grp s = _
  unfold execGroupClose
  refine act_eq_next hs ?_ hn
  simp only [hrun, hp, hin, hnext]
  exact h

theorem exec_bagRelease_next {bag : Nat} (hrun : runningLk s uid = some (u, j)) (hseg : u.seg = none)
    (hin : inUnit u bag = true) (hready : bagReady s j u bag = true) (hgive : mayGive j bag = true)
    (h : releaseBag s u j bag = t) (hn : t.rc.need = []) : exec (.bagRelease uid bag) s = .next t := by
  show execBagRelease uid bag s = _
  unfold execBagRelease
  refine act_eq_next hs ?_ hn
  simp only [hrun, hseg, hin, hready, hgive]
  exact h

section
variable (hu : unitOf s uid = some u) (hj : jobOf s u.jid = some j) (hexp : u.expand = false) {k : Nat} (hseg : u.seg = some k)
include hu hj hexp hseg

theorem exec_segmentFold_running (hrun : u.st = .running) (hready : bagReady s j u u.bag0 = true)
    (h : foldEnd (foldGo u.jid u.bag0 u.tile (segCount j u.bag0) (segEnd s u j)) u.jid u.bag0 = t) (hn : t.rc.need = []) :
    exec (.segmentFold uid) s = .next t := by
  show execSegmentFold uid s = _
  unfold execSegmentFold
  refine act_eq_next hs ?_ hn
  simp only [hu, hj, hexp, hseg, hrun, hready]
  exact h

theorem exec_segmentFold_done (hdone : u.st = .done) (h : foldEnd s u.jid u.bag0 = t) (hn : t.rc.need = []) :
    exec (.segmentFold uid) s = .next t := by
  show execSegmentFold uid s = _
  unfold execSegmentFold
  refine act_eq_next hs ?_ hn
  simp only [hu, hj, hexp, hseg, hdone]
  exact h

end

end

/-- Settles O39: a group's closing and a bag's release by what they leave of the unit's accumulators, a segment's fold by the
state that its unit is left in. -/
theorem poolingEventsTakeEffect : Obligations.PoolingEventsTakeEffect := by
  refine ⟨?closes, ?stored, ?releases, ?folds⟩
  case closes =>
    intro s t uid bag grp u j hs hrun hp hin hnext ht hn
    obtain ⟨hu, -, -, -⟩ := runningLk_eq_some.mp hrun
    obtain rfl := unitOf_uid hu
    obtain ⟨x, a, hx, ha, hbag, hgrp, hrel, hcur⟩ := closeGroup_advances hu j bag grp
    refine ⟨x, a, exec_groupClose_next hs hrun hp hin hnext ht.symm hn, ?_, ha, hbag, hgrp, hrel, hcur⟩
    rw [ht, unitOf_eq_of_orr (sameWork_notePass ..).orr, hx]
  case stored =>
    intro s uid bag grp u j ms hs hneed hrun hp hin hnext hst hms
    obtain ⟨hu, -, -, -⟩ := runningLk_eq_some.mp hrun
    obtain rfl := unitOf_uid hu
    have hall : AllStored s u.uid := fun v hv => by rwa [← Option.some.inj (hu.symm.trans hv)]
    obtain ⟨⟨cs, us, ht⟩, x, hx, ha⟩ := closeGroup_of_stored hu hall j bag grp
    obtain ⟨al, hpass⟩ := notePass_eq (closeGroup s j u bag grp) u.tile
    refine ⟨_, x, _, exec_groupClose_next hs hrun hp hin hnext hpass ?_, hx, ha, bagAcc_bag .., ?_, ?_, ?_⟩
    · rw [ht]
      exact hneed
    · rw [hms]
      exact congrArg ((bagAcc s j u bag).poison || ·) (any_subgroups ..)
    · rw [hms]
      rfl
    · rw [ht]
  case releases =>
    intro s t uid bag u j hs hrun hseg hin hready hgive ht hn
    obtain rfl := unitOf_uid (runningLk_eq_some.mp hrun).1
    exact ⟨exec_bagRelease_next hs hrun hseg hin hready hgive ht.symm hn, ht ▸ releaseBag_releases s u j bag⟩
  case folds =>
    intro s t uid v j k hs hv hj hexp hseg
    refine ⟨fun hrun hready ht hn => ⟨exec_segmentFold_running hs hv hj hexp hseg hrun hready ht.symm hn, ?_⟩,
      fun hdone ht hn => exec_segmentFold_done hs hv hj hexp hseg hdone ht.symm hn⟩
    cases hx : unitOf t uid with
    | none => exact .inl rfl
    | some x =>
      have hmem : x ∈ (segEnd s v j).orr.units :=
        foldGo_units_subset _ _ _ _ _ (foldEnd_units_subset _ _ _ (ht ▸ List.mem_of_find?_eq_some hx))
      exact .inr ⟨x, rfl, segEnd_done s v j hmem ((unitOf_uid hx).trans (unitOf_uid hv).symm)⟩

end Sys2Proof.Machine
end

section
/-! PROOFS. The commands that set a table's parameters (R174, R229 to R232, R234, R238, R239, R506). -/

namespace Sys2Proof.Machine

/-! ### TABLE_PARAMS (R232) -/

/-- The change of the context in every companion. -/
def paramsSent (s : State) (d : Nat) (y : Desc) : State := allLy s (fun _ l => lyLoadCtx l d (ctxOfDesc y))

section
variable {s : State} {c : MbCtx} {d : Nat} {y : Desc} (hd : c.f 0 0 12 = d)
  (hm : ∀ i, i < 4 → (BitVec.ofNat 4 (c.f 0 12 4)).getLsbD i = false → c.f (i + 1) 0 27 = 0)
  (hs : (descOf s d).dstate = 1 ∨ (descOf s d).dstate = 2) (hl : lUsed s d = false) (hp : downPorts s = [])
  (hy : y = withParams (descOf s d) (BitVec.ofNat 4 (c.f 0 12 4)) (BitVec.ofNat 27 (c.f 1 0 27))
    (BitVec.ofNat 27 (c.f 2 0 27)) (BitVec.ofNat 27 (c.f 3 0 27)) (c.f 4 0 8))
include hd hm hs hl hp hy

theorem bodyTableParams_accepted : bodyTableParams s c =
    if paramsApplied (paramsSent s d y) d then .done (putDesc (paramsSent s d y) d y) rcOk []
    else .wait (paramsSent s d y) (.params c.ch d (BitVec.ofNat 4 (c.f 0 12 4)) (BitVec.ofNat 27 (c.f 1 0 27))
      (BitVec.ofNat 27 (c.f 2 0 27)) (BitVec.ofNat 27 (c.f 3 0 27)) (c.f 4 0 8)) := by
  have hmask : (List.range 4).any (fun i => !(BitVec.ofNat 4 (c.f 0 12 4)).getLsbD i && c.f (i + 1) 0 27 != 0) = false := by
    simp only [List.any_eq_false, List.mem_range, Bool.and_eq_true, Bool.not_eq_true', bne_iff_ne]
    exact fun i hi h => h.2 (hm i hi h.1)
  have hst : ((descOf s d).dstate != 1 && (descOf s d).dstate != 2) = false := by
    rcases hs with h | h <;> rw [h] <;> decide
  simp only [bodyTableParams, hmask, hd, hst, hl, withPeers_up hp, ← hy, Bool.false_eq_true, if_false]
  rfl

end

/-! ### LOAD_PROG and LOAD_PSET (R229 to R232) -/

/-- The program stored on the chip. -/
def progOnChip (s : State) (id : Nat) (g : Prog) : State := { s with tabs := { s.tabs with progs := mset s.tabs.progs id g } }

/-- The program stored on the chip and in every companion. -/
def storeProg (s : State) (id : Nat) (g : Prog) : State :=
  allLy (progOnChip s id g) (fun _ l => { l with progs := mset l.progs id g })

theorem storeProg_eq (s : State) (id : Nat) (g : Prog) : ∃ y, storeProg s id g = { progOnChip s id g with ly := y } :=
  allLy_eq ..

theorem mget?_progs_lyOf_storeProg (s : State) (id : Nat) (g : Prog) {k : Nat} (hk : k < 8) :
    mget? (lyOf (storeProg s id g) k).progs id = some g := by
  rw [storeProg, lyOf_allLy _ _ _ hk]
  exact mget?_mset_self ..

section
variable {s s1 s2 : State} {c : MbCtx} {h body : List Byte} {n : Nat} (hh : BufReads s c (c.p 0) 16 s1 h)
  (h14 : numAt h 0 4 / 2 ^ 14 % 4 < 2) (h18 : numAt h 0 4 / 2 ^ 18 % 4 ≠ 3) (h23 : numAt h 0 4 < 2 ^ 23)
  (h8 : numAt h 8 8 = 0) (hn : n = numAt h 0 4 / 2 ^ 8 % 64 + 1) (hb : BufReads s1 c (c.p 0 + 16) (4 * n) s2 body)
  (hc : crc32 body = numAt h 4 4)
  (hi : ∀ i, i < n → insOk (progOf (numAt h 0 4) body).nsv (numAt body (4 * i) 4) = true)
include hh h14 h18 h23 h8 hn hb hc hi

/-- A record that passes the checks of R229. -/
theorem bodyLoadProg_checked : bodyLoadProg s c =
    if mget? s2.tabs.progs (numAt h 0 4 % 256) = some (progOf (numAt h 0 4) body) then .done s2 rcOk []
    else if progUsed s2 (numAt h 0 4 % 256) && (mget? s2.tabs.progs (numAt h 0 4 % 256)).isSome then .done s2 rcInUse []
    else withPeers s2 (fun t => .done (storeProg t (numAt h 0 4 % 256) (progOf (numAt h 0 4) body)) rcOk []) := by
  have hhead : (decide (2 ≤ numAt h 0 4 / 2 ^ 14 % 4) || numAt h 0 4 / 2 ^ 18 % 4 == 3 || decide (2 ^ 23 ≤ numAt h 0 4) ||
      numAt h 8 8 != 0) = false := by
    simp only [Bool.or_eq_false_iff, decide_eq_false_iff_not, beq_eq_false_iff_ne, bne_eq_false_iff_eq, not_le]
    exact ⟨⟨⟨h14, h18⟩, h23⟩, h8⟩
  have hins : (List.range n).all (fun i => insOk (progOf (numAt h 0 4) body).nsv (numAt body (4 * i) 4)) = true := by
    simpa only [List.all_eq_true, List.mem_range] using hi
  simp only [bodyLoadProg, hh.withBuf_eq, hhead, ← hn, hb.withBuf_eq, hc, hins, bne_self_eq_false, Bool.not_true,
    Bool.false_eq_true, if_false]
  rfl

end

/-- This chip's parameter set of a LOAD_PSET: the words, and its part of the mask (R231). -/
def psetOf (x : Desc) (l mk : List Byte) : PSet :=
  { p := (List.range 8).map (fun i => BitVec.ofNat 32 (numAt l (16 + 4 * i) 4)),
    frozen := (List.range x.cols).map (fun j => (numAt mk ((x.rank * x.cols + j) / 8) 1).testBit ((x.rank * x.cols + j) % 8)) }

/-- The parameter set stored on the chip. -/
def psetOnChip (s : State) (id : Nat) (p : PSet) : State := { s with tabs := { s.tabs with psets := mset s.tabs.psets id p } }

/-- The parameter set stored on the chip, and offered to every companion. -/
def storePset (s : State) (id : Nat) (p : PSet) : State := allLy (psetOnChip s id p) (fun _ l => lyLoadPset l id p)

theorem storePset_eq (s : State) (id : Nat) (p : PSet) : ∃ y, storePset s id p = { psetOnChip s id p with ly := y } :=
  allLy_eq ..

/-- A companion stores the set at once unless an open batch uses its number (R232). -/
theorem mget?_psets_lyOf_storePset (s : State) (id : Nat) (p : PSet) {k : Nat} (hk : k < 8)
    (h : lyOpenPset (lyOf s k) id = false) : mget? (lyOf (storePset s id p) k).psets id = some p := by
  have h' : lyOpenPset (lyOf (psetOnChip s id p) k) id = false := h
  rw [storePset, lyOf_allLy _ _ _ hk, lyLoadPset, h']
  exact mget?_mset_self ..

theorem bodyLoadPset_new {s s1 s2 : State} {c : MbCtx} {l mk : List Byte} {d w : Nat} (hd : c.f 2 0 12 = d)
    (hw : c.f 2 12 17 = w) (hs : (descOf s d).dstate ≠ 0) (hwd : w = 2 ^ (descOf s d).log2s * (descOf s d).cols)
    (hl : lUsed s d = false) (hb : BufReads s c (c.p 0) 48 s1 l) (hz : (bytesAt l 1 15).any (fun b => b != 0) = false)
    (hm : BufReads s1 c (c.p 1) ((w + 7) / 8) s2 mk) (hp : downPorts s2 = []) :
    bodyLoadPset s c = .done (storePset s2 (numAt l 0 1) (psetOf (descOf s d) l mk)) rcOk [] := by
  simp only [bodyLoadPset, hd, hs, hw, ← hwd, hl, hb.withBuf_eq, hz, hm.withBuf_eq, withPeers_up hp, bne_self_eq_false,
    Bool.false_eq_true, if_false]
  rfl

/-! ### RELEASE_MAP (R174) -/

/-- A map that stays after RELEASE_MAP of its number is marked, and is read. -/
theorem releaseMap_marked {s : State} {id : BitVec 16} {b : BagMap} (hb : b ∈ (releaseMap s id).sc.maps) (hid : b.id = id) :
    b.relAsked = true ∧ b.readers ≠ 0 := by
  obtain ⟨a, ha, rfl⟩ := List.mem_map.1 hb
  have hr := (List.mem_filter.1 ha).2
  by_cases e : a.id = id
  · simpa [e] using hr
  · simp [e] at hid

theorem releaseMap_others {s : State} {id : BitVec 16} {b : BagMap} (hb : b ∈ s.sc.maps) (hid : b.id ≠ id) :
    b ∈ (releaseMap s id).sc.maps :=
  List.mem_map.2 ⟨b, List.mem_filter.2 ⟨hb, by simp [hid]⟩, by simp [hid]⟩

/-! ### FREEZE_ROW and LEVEL_ROW (R234, R239) -/

theorem onlyMem_readHdr (s : State) (d row : Nat) : OnlyMem s (readHdr s d row).1 :=
  (onlyMem_rowTurn s d row).trans (onlyMem_readSlot _ _ _)

/-- FREEZE_ROW of a populated row: byte 5 of its home header with the mark, and the old mark. -/
theorem bodyFreezeRow_populated {s s1 : State} {c : MbCtx} {d row : Nat} {x : Desc} {h : List Byte} (hx : descOf s d = x) (hd : c.f 0 0 12 = d)
    (hrow : c.f 1 0 40 = row) (hs : x.dstate ≠ 0) (hres : x.resident = false)
    (hlt : row < x.rows) (hl : lUsed s d = false) (hb : scatterBusy s d = false)
    (hp : portUp s (homeComp d x row) = true) (hh : readHdr s d row = (s1, h, false)) (hpop : slPop h = true) :
    bodyFreezeRow s c = .done (writeExt s1 (homeAddr d x row + 5)
      (toBytes 1 (numAt h 5 1 - numAt h 5 1 / 2 % 2 * 2 + c.f 2 0 1 * 2)) 0 false) rcOk
      [(0, BitVec.ofNat 64 (numAt h 5 1 / 2 % 2))] := by
  have hst : ¬(x.dstate = 0 || x.resident) = true := by simp [hs, hres]
  have hin : ¬decide (x.rows ≤ row) = true := by simp [hlt]
  have hup : ¬(!portUp s (homeComp d x row)) = true := by simp [hp]
  have hgood : ¬(false || !slPop h) = true := by simp [hpop]
  subst hx hd hrow
  unfold bodyFreezeRow
  refine (if_neg hst).trans <| (if_neg hin).trans <| (if_neg (Bool.eq_false_iff.1 hl)).trans <|
    (if_neg (Bool.eq_false_iff.1 hb)).trans <| (if_neg hup).trans ?_
  rw [hh]
  exact if_neg hgood

theorem bodyLevelRow_applied {s : State} {c : MbCtx} {d row : Nat} (hd : c.f 0 0 12 = d) (hrow : c.f 1 0 40 = row)
    (hs : (descOf s d).dstate ≠ 0) (hlt : row < (descOf s d).rows) (hl : lUsed s d = false)
    (hp : portUp s (homeComp d (descOf s d) row) = true) (hr : (sendLevel s d row (c.f 2 0 24)).2.result = 8) :
    bodyLevelRow s c = .done (sendLevel s d row (c.f 2 0 24)).1 rcOk
      [(0, BitVec.ofNat 64 (sendLevel s d row (c.f 2 0 24)).2.step)] := by
  have hlt' : decide ((descOf s d).rows ≤ row) = false := by simp [hlt]
  simp only [bodyLevelRow, hd, hrow, hs, hlt', hl, hp, hr, bne_self_eq_false, Bool.not_true, Bool.false_eq_true, if_false]

/-! ### The commands -/

/-- The parameters in the companions, and in the descriptor on the chip and in memory. -/
theorem onlyMem_putDesc_paramsSent (s : State) (d : Nat) (y : Desc) :
    ∃ l, OnlyMem { s with tabs := { s.tabs with descs := mset s.tabs.descs d y }, ly := l } (putDesc (paramsSent s d y) d y) := by
  obtain ⟨l, hl⟩ := allLy_eq s (fun _ l => lyLoadCtx l d (ctxOfDesc y))
  rw [paramsSent, hl]
  exact ⟨l, onlyMem_putDesc { s with ly := l } d y⟩

/-- A TABLE_PARAMS that the companions took at once. -/
theorem tableParams_done (s : State) (m : MbWrite) (d : Nat) (y : Desc) (t : State)
    (ht : t = mbComplete (putDesc (paramsSent (mbTake s m 0x16) d y) d y) m.ch rcOk []) :
    MbEnded s t m.ch rcOk [] ∧ descOf t d = y ∧ (∀ e, e ≠ d → descOf t e = descOf s e) ∧
      t.tabs.binding = s.tabs.binding ∧ { memUndo s (mbUndo s t) with tabs := s.tabs, ly := s.ly } = s := by
  obtain ⟨l, ho⟩ := onlyMem_putDesc_paramsSent (mbTake s m 0x16) d y
  generalize putDesc (paramsSent (mbTake s m 0x16) d y) d y = w at ho ht
  have htabs : t.tabs = { s.tabs with descs := mset s.tabs.descs d y } := by rw [ht, mbComplete_tabs, ho.tabs]; rfl
  have hdescs := congrArg Tabs.descs htabs
  refine ⟨?_, descOf_eq_mset_self hdescs, fun e he => descOf_eq_mset_ne hdescs he, ?_, ?_⟩
  · rw [ht]; exact mbEnded_of_chans_mbTake ho.chans _ _
  · rw [htabs]
  · rw [ht, mbUndo_mbComplete]
    exact congrArg (fun v : State => { mbUndo s v with tabs := s.tabs, ly := s.ly }) ho.undo

/-- A TABLE_PARAMS that an open batch holds up stays acknowledged. -/
theorem tableParams_kept (s : State) (m : MbWrite) (d : Nat) (y : Desc) (l : LRun) (t : State)
    (ht : t = { mbAck (paramsSent (mbTake s m 0x16) d y) m.ch with
      mer := { (paramsSent (mbTake s m 0x16) d y).mer with lruns := (paramsSent (mbTake s m 0x16) d y).mer.lruns ++ [l] } }) :
    (chanOf t m.ch).ack = true ∧ (chanOf t m.ch).busy = true ∧ t.mer.lruns = s.mer.lruns ++ [l] ∧ t.tabs = s.tabs ∧
      t.mem = s.mem ∧ t.rc = s.rc := by
  obtain ⟨y, hy⟩ := allLy_eq (mbTake s m 0x16) (fun _ l => lyLoadCtx l d (ctxOfDesc y))
  rw [paramsSent, hy] at ht
  have hc : chanOf t m.ch = { chanOf (mbTake s m 0x16) m.ch with ack := true } := by
    rw [ht]; exact chanOf_setChan_self ..
  rw [chanOf_mbTake] at hc
  exact ⟨by rw [hc], by rw [hc], by rw [ht]; rfl, by rw [ht]; rfl, by rw [ht]; rfl, by rw [ht]; rfl⟩

theorem storeProg_done (s : State) (ch : Fin 16) (id : Nat) (g : Prog) (t : State)
    (ht : t = mbComplete (storeProg s id g) ch rcOk []) :
    MbEnded s t ch rcOk [] ∧ mget? t.tabs.progs id = some g ∧ (∀ k, k < 8 → mget? (lyOf t k).progs id = some g) ∧
      { mbUndo s t with tabs := { t.tabs with progs := s.tabs.progs }, ly := s.ly } = s := by
  have hk := fun k hk => mget?_progs_lyOf_storeProg s id g (k := k) hk
  obtain ⟨y, hy⟩ := storeProg_eq s id g
  rw [hy] at ht hk
  have htabs : t.tabs = { s.tabs with progs := mset s.tabs.progs id g } := by rw [ht, mbComplete_tabs]; rfl
  have hly : t.ly = y := by rw [ht, mbComplete_ly]
  refine ⟨?_, ?_, fun k h8 => ?_, ?_⟩
  · rw [ht]; exact mbEnded_of_chans rfl _ _ _
  · rw [htabs]; exact mget?_mset_self ..
  · rw [lyOf, hly]; exact hk k h8
  · rw [htabs, ht, mbUndo_mbComplete]; rfl

theorem storePset_done (s : State) (ch : Fin 16) (id : Nat) (p : PSet) (t : State)
    (ht : t = mbComplete (storePset s id p) ch rcOk []) :
    MbEnded s t ch rcOk [] ∧ mget? t.tabs.psets id = some p ∧
      (∀ k, k < 8 → lyOpenPset (lyOf s k) id = false → mget? (lyOf t k).psets id = some p) ∧
      { mbUndo s t with tabs := { t.tabs with psets := s.tabs.psets }, ly := s.ly } = s := by
  have hk := fun k hk => mget?_psets_lyOf_storePset s id p (k := k) hk
  obtain ⟨y, hy⟩ := storePset_eq s id p
  rw [hy] at ht hk
  have htabs : t.tabs = { s.tabs with psets := mset s.tabs.psets id p } := by rw [ht, mbComplete_tabs]; rfl
  have hly : t.ly = y := by rw [ht, mbComplete_ly]
  refine ⟨?_, ?_, fun k h8 ho => ?_, ?_⟩
  · rw [ht]; exact mbEnded_of_chans rfl _ _ _
  · rw [htabs]; exact mget?_mset_self ..
  · rw [lyOf, hly]; exact hk k h8 ho
  · rw [htabs, ht, mbUndo_mbComplete]; rfl

/-- A command that is done after accesses to the tiers. -/
theorem OnlyMem.mbEnded {s w : State} {m : MbWrite} {opc : Nat} (h : OnlyMem (mbTake s m opc) w) (rc : Nat)
    (rets : List (Nat × W64)) :
    MbEnded s (mbComplete w m.ch rc rets) m.ch rc rets ∧ (mbComplete w m.ch rc rets).mem = w.mem ∧
      memUndo s (mbUndo s (mbComplete w m.ch rc rets)) = s := by
  refine ⟨mbEnded_of_chans_mbTake h.chans _ _, mbComplete_mem _ _ _ _, ?_⟩
  rw [mbUndo_mbComplete]
  exact congrArg (mbUndo s) h.undo

/-- Settles O17: each command's own part answers one state, of which the lemmas above say what it holds. -/
theorem tableParametersTakeEffect : Obligations.TableParametersTakeEffect := by
  refine ⟨?tableParams, ?loadProg, ?loadPset, ?skewPolicy, ?scrubPolicy, ?releaseMap, ?freezeRow, ?levelRow⟩
  case tableParams =>
    intro s m d y hm hd hmask hs hl hp hy
    have hbody := bodyTableParams_accepted (s := mbTake s m 0x16) (c := mbCtx s m) hd hmask hs hl hp hy
    refine ⟨fun ha hn => ?_, fun ha hn => ?_⟩
    · rw [if_pos (show paramsApplied (paramsSent (mbTake s m 0x16) d y) d = true from ha)] at hbody
      exact ⟨_, mbox_done hm hbody hn, tableParams_done s m d y _ rfl⟩
    · rw [if_neg (Bool.eq_false_iff.1 (show paramsApplied (paramsSent (mbTake s m 0x16) d y) d = false from ha))] at hbody
      have hn' : (paramsSent (mbTake s m 0x16) d y).rc.need = [] := by
        obtain ⟨l, hl⟩ := allLy_eq (mbTake s m 0x16) (fun _ l => lyLoadCtx l d (ctxOfDesc y))
        rw [paramsSent, hl]; exact hn
      exact ⟨_, mbox_wait hm hbody hn', tableParams_kept s m d y _ _ rfl⟩
  case loadProg =>
    intro s s1 s2 m h body n hm hh h14 h18 h23 h8 hn hb hc hi hneed
    have hbody := bodyLoadProg_checked hh h14 h18 h23 h8 hn hb hc hi
    refine ⟨fun hsame => ?_, fun hnew hu hold => ?_, fun hnew hu hp => ?_⟩
    · exact mbox_done hm (hbody.trans (if_pos hsame)) hneed
    · rw [if_neg hnew, if_pos (by simpa [hu, Option.isSome_iff_ne_none] using hold)] at hbody
      exact mbox_done hm hbody hneed
    · have hfree : ¬(progUsed s2 (numAt h 0 4 % 256) && (mget? s2.tabs.progs (numAt h 0 4 % 256)).isSome) = true := by
        rcases hu with hu | hu <;> simp [hu]
      rw [if_neg hnew, if_neg hfree, withPeers_up hp] at hbody
      refine ⟨_, mbox_done hm hbody ?_, storeProg_done s2 m.ch _ _ _ rfl⟩
      obtain ⟨y, hy⟩ := storeProg_eq s2 (numAt h 0 4 % 256) (progOf (numAt h 0 4) body)
      rw [hy]; exact hneed
  case loadPset =>
    intro s s1 s2 m l mk d w hm hd hw hs hwd hl hb hz hmk hp hneed
    have hbody := bodyLoadPset_new (s := mbTake s m 0x18) (c := mbCtx s m) hd hw hs hwd hl hb hz hmk hp
    have hneed' : (storePset s2 (numAt l 0 1) (psetOf (descOf s d) l mk)).rc.need = [] := by
      obtain ⟨y, hy⟩ := storePset_eq s2 (numAt l 0 1) (psetOf (descOf s d) l mk)
      rw [hy]; exact hneed
    obtain ⟨hend, hchip, hly, hundo⟩ := storePset_done s2 m.ch (numAt l 0 1) (psetOf (descOf s d) l mk) _ rfl
    exact ⟨_, psetOf (descOf s d) l mk, mbox_done hm hbody hneed', hend, hchip, rfl, rfl, hly, hundo⟩
  case skewPolicy =>
    intro s m hm hn hl
    exact mbox_done hm (if_neg (Bool.eq_false_iff.1 hl)) hn
  case scrubPolicy =>
    intro s m hm hn
    refine ⟨fun h => ?_, fun h => ?_⟩
    · have h' : ¬decide (50000000 < (mbCtx s m).f 0 0 32) = true := by simpa using h
      exact mbox_done hm (if_neg h') hn
    · exact mbox_done (t := mbTake s m 0x1E) hm (if_pos (decide_eq_true h)) hn
  case releaseMap =>
    intro s m id hm hn hid
    refine ⟨fun h => ?_, fun h => ?_⟩
    · refine ⟨mbComplete (releaseMap (mbTake s m 0x1C) id) m.ch rcOk [], mbox_done hm ?_ hn, rfl, ?_, ?_⟩
      · simp only [bodyReleaseMap, hid]; exact if_pos h
      · exact fun b hb => releaseMap_marked (s := mbTake s m 0x1C) (by rwa [mbComplete_sc] at hb)
      · exact fun b hb hne => by rw [mbComplete_sc]; exact releaseMap_others hb hne
    · refine mbox_done (t := mbTake s m 0x1C) hm ?_ hn
      simp only [bodyReleaseMap, hid]
      exact if_neg (Bool.eq_false_iff.1 h)
  case freezeRow =>
    intro s s1 m d row h hm hd hrow hs hres hlt hl hb hp hh hpop hn
    have hbody := bodyFreezeRow_populated (s := mbTake s m 0x19) (c := mbCtx s m) (x := descOf s d) rfl hd hrow hs hres hlt hl hb hp hh hpop
    have ho := onlyMem_readHdr (mbTake s m 0x19) d row
    rw [hh] at ho
    exact ⟨_, mbox_done hm hbody hn, (ho.trans (onlyMem_writeExt ..)).mbEnded _ _⟩
  case levelRow =>
    intro s m d row hm hd hrow hs hlt hl hp hn hr
    exact mbox_done hm (bodyLevelRow_applied (s := mbTake s m 0x1B) (c := mbCtx s m) hd hrow hs hlt hl hp hr) hn

end Sys2Proof.Machine
end

section
/-! PROOFS. What SCATTERs do by themselves, behind any event that concerns them (R176 to R178, R197, R200 to R202): the state
that this leaves alone, the jobs, and the commands that have ended. -/

namespace Sys2Proof.Machine

/-! ### The frame -/

/-- `t` differs from `s` in no more than SCATTERs change by themselves: commands, units with their save records, the state of
SCATTERs, messages, and the logs that wait for Meridian. -/
def ScatFrame (s t : State) : Prop :=
  ∃ cs us sv n sc tr due, t = { s with
    orr := { s.orr with cmds := cs, units := us, saves := sv, nextUid := n }, sc := sc, tr := tr,
    mer := { s.mer with skewDue := due } }

namespace ScatFrame

variable {s t u : State}

theorem refl (s : State) : ScatFrame s s := ⟨_, _, _, _, _, _, _, rfl⟩

theorem trans (h : ScatFrame s t) (k : ScatFrame t u) : ScatFrame s u := by
  obtain ⟨_, _, _, _, _, _, _, rfl⟩ := h
  obtain ⟨_, _, _, _, _, _, _, rfl⟩ := k
  exact ⟨_, _, _, _, _, _, _, rfl⟩

theorem rc (h : ScatFrame s t) : t.rc = s.rc := by obtain ⟨_, _, _, _, _, _, _, rfl⟩ := h; rfl
theorem mem (h : ScatFrame s t) : t.mem = s.mem := by obtain ⟨_, _, _, _, _, _, _, rfl⟩ := h; rfl
theorem tabs (h : ScatFrame s t) : t.tabs = s.tabs := by obtain ⟨_, _, _, _, _, _, _, rfl⟩ := h; rfl
theorem ly (h : ScatFrame s t) : t.ly = s.ly := by obtain ⟨_, _, _, _, _, _, _, rfl⟩ := h; rfl
theorem jobs (h : ScatFrame s t) : t.orr.jobs = s.orr.jobs := by obtain ⟨_, _, _, _, _, _, _, rfl⟩ := h; rfl

theorem of_tr (h : ∃ tr, t = { s with tr := tr }) : ScatFrame s t := by
  obtain ⟨_, rfl⟩ := h
  exact ⟨_, _, _, _, _, _, _, rfl⟩

end ScatFrame

/-! ### Jobs -/

/-- A job but for how far its request, its delivery phase and the reports have come. -/
def ScJob.core (j : ScJob) : ScJob :=
  { j with ready := false, ubatch := none, lastGo := false, reported := false, digests := [] }

theorem ScJob.jid_eq_of_core {j k : ScJob} (h : k.core = j.core) : k.jid = j.jid := by
  change k.core.jid = j.core.jid; rw [h]
theorem ScJob.records_eq_of_core {j k : ScJob} (h : k.core = j.core) : k.records = j.records := by
  change k.core.records = j.core.records; rw [h]
theorem ScJob.runs_eq_of_core {j k : ScJob} (h : k.core = j.core) : k.runs = j.runs := by
  change k.core.runs = j.core.runs; rw [h]
theorem ScJob.runBuf_eq_of_core {j k : ScJob} (h : k.core = j.core) : k.runBuf = j.runBuf := by
  change k.core.runBuf = j.core.runBuf; rw [h]
theorem ScJob.passed_eq_of_core {j k : ScJob} (h : k.core = j.core) : k.passed = j.passed := by
  change k.core.passed = j.core.passed; rw [h]
theorem ScJob.poison_eq_of_core {j k : ScJob} (h : k.core = j.core) : k.poison = j.poison := by
  change k.core.poison = j.core.poison; rw [h]

theorem scOf_jid {s : State} {jid : Nat} {j : ScJob} (h : scOf s jid = some j) : j.jid = jid := by
  simpa using List.find?_some h

theorem scOf_eq_of_jobs {s t : State} (h : t.sc.jobs = s.sc.jobs) (jid : Nat) : scOf t jid = scOf s jid := by
  rw [scOf, scOf, h]

theorem scOf_eq_none_iff {s : State} {jid : Nat} : scOf s jid = none ↔ ∀ k ∈ s.sc.jobs, k.jid ≠ jid := by
  simp [scOf]

theorem scOf_updSc (s : State) (jid n : Nat) {f : ScJob → ScJob} (hf : ∀ j, (f j).jid = j.jid) :
    scOf (updSc s jid f) n = (scOf s n).map (fun j => if j.jid = jid then f j else j) :=
  find?_map_of_eq (fun j => by split <;> simp [hf]) s.sc.jobs

theorem scOf_updSc_self {s : State} {jid : Nat} {j : ScJob} (h : scOf s jid = some j) {f : ScJob → ScJob}
    (hf : ∀ j, (f j).jid = j.jid) : scOf (updSc s jid f) jid = some (f j) := by
  rw [scOf_updSc s jid jid hf, h, Option.map_some, if_pos (scOf_jid h)]

theorem dropScat_jobs (s : State) (j : ScJob) : (dropScat s j).sc.jobs = s.sc.jobs.filter (fun k => k.jid != j.jid) := by
  unfold dropScat
  simp only []
  split <;> rfl

theorem scOf_dropScat_self (s : State) (j : ScJob) : scOf (dropScat s j) j.jid = none := by
  rw [scOf_eq_none_iff, dropScat_jobs]
  intro k hk
  simpa using (List.mem_filter.1 hk).2

theorem scOf_dropScat {s : State} {j k : ScJob} {jid : Nat} (h : scOf (dropScat s j) jid = some k) : scOf s jid = some k := by
  have hne : jid ≠ j.jid := by
    rintro rfl
    simp [scOf_dropScat_self] at h
  rw [scOf, dropScat_jobs, List.find?_filter] at h
  rw [scOf, ← h]
  congr 1
  funext a
  by_cases e : a.jid = jid <;> simp [e, hne]

/-! ### What goes on -/

/-- From `s` to `t` SCATTERs have only gone on by themselves: each job of `t` is one of `s`, and commands that had ended stand
as they did. -/
structure ScatOn (s t : State) : Prop where
  frame : ScatFrame s t
  job : ∀ jid k, scOf t jid = some k → ∃ j, scOf s jid = some j ∧ k.core = j.core
  ended : ∀ cid c, cmdOf s cid = some c → c.phase = .done → cmdOf t cid = some c

namespace ScatOn

variable {s t u : State}

theorem refl (s : State) : ScatOn s s := ⟨ScatFrame.refl s, fun _ k h => ⟨k, h, rfl⟩, fun _ _ h _ => h⟩

theorem trans (h : ScatOn s t) (k : ScatOn t u) : ScatOn s u where
  frame := h.frame.trans k.frame
  job jid x hx := by
    obtain ⟨y, hy, hc⟩ := k.job jid x hx
    obtain ⟨z, hz, hd⟩ := h.job jid y hy
    exact ⟨z, hz, hc.trans hd⟩
  ended cid c hc hp := k.ended cid c (h.ended cid c hc hp) hp

theorem foldl {α : Type} {f : State → α → State} (hf : ∀ s a, ScatOn s (f s a)) (l : List α) (s : State) :
    ScatOn s (l.foldl f s) := by
  induction l generalizing s with
  | nil => exact refl s
  | cons a l ih => exact (hf s a).trans (ih _)

theorem of_tr (h : ∃ tr, t = { s with tr := tr }) : ScatOn s t := by
  refine ⟨ScatFrame.of_tr h, ?_, ?_⟩
  all_goals
    obtain ⟨tr, rfl⟩ := h
  · exact (refl s).job
  · exact fun _ _ h _ => h

theorem updSc (s : State) (jid : Nat) {f : ScJob → ScJob} (hf : ∀ j, (f j).core = j.core) : ScatOn s (updSc s jid f) where
  frame := ⟨_, _, _, _, _, _, _, rfl⟩
  job n k hk := by
    rw [scOf_updSc s jid n (fun j => ScJob.jid_eq_of_core (hf j))] at hk
    obtain ⟨j, hj, rfl⟩ := Option.map_eq_some_iff.1 hk
    refine ⟨j, hj, ?_⟩
    split
    · exact hf j
    · rfl
  ended _ _ h _ := h

theorem updCmd {cid : Nat} (h : ∀ c, cmdOf s cid = some c → c.phase ≠ .done) {f : Cmd → Cmd} (hf : ∀ c, (f c).cid = c.cid) :
    ScatOn s (updCmd s cid f) where
  frame := ⟨_, _, _, _, _, _, _, rfl⟩
  job := (refl s).job
  ended d c hc hp := by
    have hne : d ≠ cid := by
      rintro rfl
      exact h c hc hp
    rw [cmdOf_updCmd_ne s cid d f hf hne, hc]

theorem jid_ne (h : ScatOn s t) {jid : Nat} (hs : scOf s jid = none) : ∀ k ∈ t.sc.jobs, k.jid ≠ jid := by
  rw [← scOf_eq_none_iff, Option.eq_none_iff_forall_ne_some]
  intro k hk
  obtain ⟨j, hj, -⟩ := h.job jid k hk
  simp [hs] at hj

end ScatOn

/-! ### Single steps -/

theorem scatOn_sendMsg (s : State) (cls mt : Nat) (dst : BitVec 12) (tag arg : Nat) (l : List (Byte × Bool)) :
    ScatOn s (sendMsg s cls mt dst tag arg l) := ScatOn.of_tr (sendMsg_tr ..)

theorem scatOn_foServe (s : State) : ScatOn s (foServe s) := ScatOn.of_tr (foServe_tr s)

theorem scatFrame_dropScat (s : State) (j : ScJob) : ScatFrame s (dropScat s j) := by
  unfold dropScat
  simp only []
  split
  · exact ⟨_, _, _, _, _, _, _, rfl⟩
  · exact ⟨_, _, _, _, _, _, _, rfl⟩

theorem dropScat_cmds (s : State) (j : ScJob) : (dropScat s j).orr.cmds = s.orr.cmds := by
  unfold dropScat
  simp only []
  split <;> rfl

theorem scatOn_dropScat (s : State) (j : ScJob) : ScatOn s (dropScat s j) where
  frame := scatFrame_dropScat s j
  job _ k h := ⟨k, scOf_dropScat h, rfl⟩
  ended cid _ h _ := (cmdOf_eq_of_cmds (dropScat_cmds s j) cid).trans h

theorem scatOn_startDelivery (s : State) (j : ScJob) : ScatOn s (startDelivery s j) := by
  unfold startDelivery
  split
  · exact ScatOn.refl s
  · exact ScatOn.trans (t := { s with sc := { s.sc with ubatch := (s.sc.ubatch + 1) % 65536 } })
      ⟨⟨_, _, _, _, _, _, _, rfl⟩, (ScatOn.refl s).job, fun _ _ h _ => h⟩ (ScatOn.updSc _ _ (fun _ => rfl))

theorem scatOn_skewDue (s : State) (m : FMap (List (List RowStep))) : ScatOn s { s with mer := { s.mer with skewDue := m } } :=
  ⟨⟨_, _, _, _, _, _, _, rfl⟩, (ScatOn.refl s).job, fun _ _ h _ => h⟩

/-- A report with its counts in the command and its digest in the job. -/
def reportCounted (s : State) (cid rank : Nat) (r : CommitRep) (j : ScJob) : State :=
  updCmd (updSc s j.jid (fun k => { k with digests := j.digests ++ [r.digest] })) cid (fun c => { c with
    ranks := sins c.ranks (128 + rank), cnt0 := c.cnt0 + r.rows, cnt1 := c.cnt1 + r.excluded, cnt2 := c.cnt2 + r.records,
    drops := c.drops || r.drops, poison := c.poison || r.poison })

/-- The logs that wait for Meridian once every rank has reported: this rank's joins them where digests differ (R237). -/
def skewAfter (s : State) (r : CommitRep) (j : ScJob) : FMap (List (List RowStep)) :=
  if (j.digests ++ [r.digest]).any (fun d => d != r.digest) then
    mset s.mer.skewDue j.desc (mget s.mer.skewDue j.desc [] ++ [j.log]) else s.mer.skewDue

/-- A report of a command that waits for it (R201, R202). -/
theorem takeReport_eq {s : State} {cid : Nat} {c : Cmd} {j : ScJob} (rank : Nat) (r : CommitRep) (hc : cmdOf s cid = some c)
    (hj : scOfCmd s cid = some j) : takeReport s cid rank r =
      if c.ranks.contains (128 + rank) || decide ((descOf s j.desc).ranks ≤ rank) || c.phase == .done then s
      else if j.digests.length + 1 < (descOf s j.desc).ranks then reportCounted s cid rank r j
      else finish { reportCounted s cid rank r j with mer := { s.mer with skewDue := skewAfter s r j } } cid := by
  simp only [takeReport, hc, hj, List.length_append, List.length_singleton]
  refine if_congr Iff.rfl rfl (if_congr Iff.rfl rfl ?_)
  unfold skewAfter
  split <;> rfl

theorem takeReport_of_none {s : State} {cid rank : Nat} {r : CommitRep} (h : cmdOf s cid = none ∨ scOfCmd s cid = none) :
    takeReport s cid rank r = s := by
  unfold takeReport
  split
  next hc hj => rcases h with h | h <;> simp_all
  · rfl

theorem cmdOf_reportCounted (s : State) (cid rank : Nat) (r : CommitRep) (j : ScJob) :
    cmdOf (reportCounted s cid rank r j) cid = (cmdOf s cid).map (fun c => { c with
      ranks := sins c.ranks (128 + rank), cnt0 := c.cnt0 + r.rows, cnt1 := c.cnt1 + r.excluded,
      cnt2 := c.cnt2 + r.records, drops := c.drops || r.drops, poison := c.poison || r.poison }) := by
  rw [reportCounted, cmdOf_updCmd_self]
  · rfl
  · exact fun _ => rfl

theorem scatOn_takeReport (s : State) (cid rank : Nat) (r : CommitRep) : ScatOn s (takeReport s cid rank r) := by
  rcases hc : cmdOf s cid with _ | c
  · rw [takeReport_of_none (.inl hc)]; exact ScatOn.refl s
  rcases hj : scOfCmd s cid with _ | j
  · rw [takeReport_of_none (.inr hj)]; exact ScatOn.refl s
  rw [takeReport_eq rank r hc hj]
  split
  · exact ScatOn.refl s
  next hgo =>
    have hp : c.phase ≠ .done := by
      intro h
      simp [h] at hgo
    have hcount : ScatOn s (reportCounted s cid rank r j) := by
      refine (ScatOn.updSc s j.jid ?_).trans (ScatOn.updCmd (fun e he => ?_) ?_)
      · exact fun _ => rfl
      · obtain rfl : c = e := by simpa using hc.symm.trans he
        exact hp
      · exact fun _ => rfl
    split
    · exact hcount
    · refine (hcount.trans (scatOn_skewDue _ _)).trans (ScatOn.updCmd (fun e he => ?_) ?_)
      · have he' : cmdOf (reportCounted s cid rank r j) cid = some e := he
        rw [cmdOf_reportCounted, hc] at he'
        obtain rfl := Option.some.inj he'
        exact hp
      · exact fun _ => rfl

theorem scatOn_report (s : State) (j : ScJob) : ScatOn s (report s j) := by
  have h1 : ScatOn s (updSc s j.jid (fun j => { j with reported := true })) := ScatOn.updSc s j.jid (fun _ => rfl)
  unfold report
  split
  · exact h1.trans (scatOn_takeReport ..)
  · simp only []
    refine ScatOn.trans ?_ (scatOn_foServe _)
    refine ScatOn.trans ?_ (scatOn_dropScat _ j)
    have h2 (b : List (Byte × Bool)) := h1.trans (scatOn_sendMsg _ clsCtl mtCommit j.owner j.tag 0 b)
    split
    · exact h2 _
    · exact (h2 _).trans (scatOn_sendMsg ..)

theorem scatOn_scatRound (s : State) : ScatOn s (scatRound s) := by
  unfold scatRound
  extract_lets s1
  have h1 : ScatOn s s1 := ScatOn.foldl (fun t j => by
    split
    · exact scatOn_startDelivery ..
    · exact ScatOn.refl t) _ s
  refine h1.trans (ScatOn.foldl (fun t j => ?_) _ s1)
  split
  · split
    · exact scatOn_report ..
    · exact ScatOn.refl t
  · exact ScatOn.refl t

theorem scatOn_scatGo (s : State) : ScatOn s (scatGo s) := by
  unfold scatGo
  generalize s.sc.jobs.length + 1 = n
  induction n with
  | zero => exact ScatOn.refl s
  | succ n ih => exact ih.trans (scatOn_scatRound _)

/-! ### The units -/

theorem dropScat_units_subset (s : State) (j : ScJob) : (dropScat s j).orr.units ⊆ s.orr.units := by
  have h : (dropScat s j).orr.units = s.orr.units.filter (fun u => !(u.expand && u.jid == j.jid)) := by
    unfold dropScat
    simp only []
    split <;> rfl
  rw [h]
  exact fun _ => List.mem_of_mem_filter

theorem startDelivery_units (s : State) (j : ScJob) : (startDelivery s j).orr.units = s.orr.units := by
  unfold startDelivery
  split <;> rfl

theorem takeReport_units (s : State) (cid rank : Nat) (r : CommitRep) :
    (takeReport s cid rank r).orr.units = s.orr.units := by
  rcases hc : cmdOf s cid with _ | c
  · rw [takeReport_of_none (.inl hc)]
  rcases hj : scOfCmd s cid with _ | j
  · rw [takeReport_of_none (.inr hj)]
  rw [takeReport_eq rank r hc hj]
  split
  · rfl
  · split <;> rfl

theorem report_units_subset (s : State) (j : ScJob) : (report s j).orr.units ⊆ s.orr.units := by
  have hdrop (t : State) (h : t.orr = s.orr) : (foServe (dropScat t j)).orr.units ⊆ s.orr.units := by
    obtain ⟨tr, htr⟩ := foServe_tr (dropScat t j)
    rw [htr, ← h]
    exact dropScat_units_subset t j
  unfold report
  split
  · rw [takeReport_units]; exact fun _ h => h
  · refine hdrop _ ?_
    split
    · exact sendMsg_orr ..
    · exact (sendMsg_orr ..).trans (sendMsg_orr ..)

theorem foldl_units_subset {α : Type} {f : State → α → State} (hf : ∀ s a, (f s a).orr.units ⊆ s.orr.units) (l : List α)
    (s : State) : (l.foldl f s).orr.units ⊆ s.orr.units := by
  induction l generalizing s with
  | nil => exact fun _ h => h
  | cons a l ih => exact fun _ h => hf s a (ih _ h)

theorem scatRound_units_subset (s : State) : (scatRound s).orr.units ⊆ s.orr.units := by
  unfold scatRound
  extract_lets s1
  have h1 : s1.orr.units = s.orr.units := foldl_keeps (fun t => t.orr.units) _ (fun t j => by
    split
    · exact startDelivery_units ..
    · rfl) _ s
  rw [← h1]
  refine foldl_units_subset (fun t j => ?_) _ s1
  split
  · split
    · exact report_units_subset ..
    · exact fun _ h => h
  · exact fun _ h => h

/-- SCATTERs that go on make no unit. -/
theorem scatGo_units_subset (s : State) : (scatGo s).orr.units ⊆ s.orr.units := by
  unfold scatGo
  generalize s.sc.jobs.length + 1 = n
  induction n with
  | zero => exact fun _ h => h
  | succ n ih => exact fun _ h => ih (scatRound_units_subset _ h)

end Sys2Proof.Machine
end

section
/-! PROOFS. What a companion's and the Almanac's row operations leave alone (R217, R240 to R245, R252 to R255, R268). -/

namespace Sys2Proof.Machine

/-! ### Accesses of a companion to its rows -/

/-! A row's addresses must not be evaluated by the kernel when it checks a match on what is read there: each definition that
reads is unfolded as a function, and the reads in it are replaced by variables before it is reduced. -/

theorem onlyMem_lyRead (s : State) (k : Nat) (c : LyCtx) (row : Nat) : OnlyMem s (lyRead s k c row).1 := by
  have hdef : @lyRead = @lyRead := rfl
  conv_rhs at hdef => delta lyRead
  have hr := onlyMem_dReadSecs
  obtain ⟨rd, hrd⟩ := exists_eq (a' := @dReadSecs)
  rw [hdef]
  rw [← hrd] at hr ⊢
  exact (((onlyMem_snoopExt ..).trans (onlyMem_snoopExt ..)).trans (hr ..)).trans (hr ..)

theorem onlyMem_lyWriteGo (n : Nat) (s : State) (a : Nat) (l : List Byte) : OnlyMem s (lyWriteGo n s a l) := by
  induction n generalizing s a l with
  | zero => exact OnlyMem.refl s
  | succ n ih =>
    unfold lyWriteGo
    split
    · exact OnlyMem.refl s
    · exact (onlyMem_dWrite ..).trans (ih ..)

theorem onlyMem_lyWrite (s : State) (a : Nat) (l : List Byte) : OnlyMem s (lyWrite s a l) :=
  (onlyMem_snoopExt ..).trans (onlyMem_lyWriteGo ..)

theorem onlyMem_countEnc (s : State) (d : Nat) (e : Encoded) : OnlyMem s (countEnc s d e) :=
  ((onlyMem_bump ..).trans (onlyMem_bumpIf ..)).trans (onlyMem_bump ..)

theorem onlyMem_lyEncode (s : State) (k d : Nat) (c : LyCtx) (w : Nat) (v : List BF16) (version step : Nat) (f : Bool) :
    OnlyMem s (lyEncode s k d c w v version step f).1 := onlyMem_countEnc ..

theorem onlyMem_lyCommit (s : State) (k d row : Nat) (c : LyCtx) (x : LyRow) (m : List F32) (us : List (List F32))
    (step : Nat) : OnlyMem s (lyCommit s k d row c x m us step).1 := by
  have hdef : @lyCommit = @lyCommit := rfl
  conv_rhs at hdef => delta lyCommit
  have he := onlyMem_lyEncode
  have hw := onlyMem_lyWrite
  obtain ⟨en, hen⟩ := exists_eq (a' := @lyEncode)
  obtain ⟨wr, hwr⟩ := exists_eq (a' := @lyWrite)
  rw [hdef]
  rw [← hen] at he ⊢
  rw [← hwr] at hw ⊢
  simp only []
  split
  · exact ((he ..).trans (hw ..)).trans (hw ..)
  · exact ((he ..).trans (hw ..)).trans (hw ..)

theorem onlyMem_lyRequant (s : State) (k d row : Nat) : OnlyMem s (lyRequant s k d row).1 := by
  have hdef : @lyRequant = @lyRequant := rfl
  conv_rhs at hdef => delta lyRequant
  have hr := onlyMem_lyRead
  have hc := onlyMem_lyCommit
  obtain ⟨rd, hrd⟩ := exists_eq (a' := @lyRead)
  obtain ⟨cm, hcm⟩ := exists_eq (a' := @lyCommit)
  rw [hdef]
  rw [← hrd] at hr ⊢
  rw [← hcm] at hc ⊢
  simp only []
  split
  · exact OnlyMem.refl s
  split
  · exact hr ..
  split
  · exact hr ..
  · exact (hr ..).trans (hc ..)

theorem onlyMem_lySetServe (s : State) (k : Nat) (f : ServeMsg) : OnlyMem s (lySetServe s k f) := by
  have hdef : @lySetServe = @lySetServe := rfl
  conv_rhs at hdef => delta lySetServe
  have hr := onlyMem_lyRead
  have he := onlyMem_lyEncode
  have hw := onlyMem_lyWrite
  obtain ⟨rd, hrd⟩ := exists_eq (a' := @lyRead)
  obtain ⟨en, hen⟩ := exists_eq (a' := @lyEncode)
  obtain ⟨wr, hwr⟩ := exists_eq (a' := @lyWrite)
  rw [hdef]
  rw [← hrd] at hr ⊢
  rw [← hen] at he ⊢
  rw [← hwr] at hw ⊢
  simp only []
  split
  · exact OnlyMem.refl s
  split
  · exact (((hr ..).trans (hw ..)).trans (he ..)).trans (hw ..)
  split
  · exact (((hr ..).trans (hw ..)).trans (he ..)).trans (hw ..)
  · exact (hr ..).trans (hw ..)

theorem onlyMem_lyReseed (s : State) (k d row : Nat) (sl : List Byte) : OnlyMem s (lyReseed s k d row sl).1 := by
  have hdef : @lyReseed = @lyReseed := rfl
  conv_rhs at hdef => delta lyReseed
  have hr := onlyMem_lyRead
  have hw := onlyMem_lyWrite
  obtain ⟨rd, hrd⟩ := exists_eq (a' := @lyRead)
  obtain ⟨wr, hwr⟩ := exists_eq (a' := @lyWrite)
  rw [hdef]
  rw [← hrd] at hr ⊢
  rw [← hwr] at hw ⊢
  simp only []
  split
  · exact OnlyMem.refl s
  · exact ((hr ..).trans (hw ..)).trans (hw ..)

theorem onlyMem_ackRow (s : State) (a : AckMsg) : OnlyMem s (ackRow s a) := by
  unfold ackRow
  split
  · exact OnlyMem.refl s
  · exact onlyMem_bump1 ..

theorem onlyMem_sendServe (s : State) (d row : Nat) (p : Bool) (cls ver : Nat) : OnlyMem s (sendServe s d row p cls ver) := by
  unfold sendServe
  simp only []
  split
  · exact (onlyMem_rowGate ..).trans (onlyMem_lySetServe ..)
  · exact onlyMem_bump1 ..

theorem onlyMem_sendReseed (s : State) (d row : Nat) (sl : List Byte) : OnlyMem s (sendReseed s d row sl).1 := by
  have hdef : @sendReseed = @sendReseed := rfl
  conv_rhs at hdef => delta sendReseed
  have hr := onlyMem_lyReseed
  obtain ⟨rs, hrs⟩ := exists_eq (a' := @lyReseed)
  rw [hdef]
  rw [← hrs] at hr ⊢
  simp only []
  split
  · exact ((onlyMem_rowGate ..).trans (hr ..)).trans (onlyMem_ackRow ..)
  · exact onlyMem_bump1 ..

theorem onlyMem_sendRequant (s : State) (d row : Nat) : OnlyMem s (sendRequant s d row).1 := by
  have hdef : @sendRequant = @sendRequant := rfl
  conv_rhs at hdef => delta sendRequant
  have hr := onlyMem_lyRequant
  obtain ⟨rq, hrq⟩ := exists_eq (a' := @lyRequant)
  rw [hdef]
  rw [← hrq] at hr ⊢
  simp only []
  split
  · exact ((onlyMem_rowGate ..).trans (hr ..)).trans (onlyMem_ackRow ..)
  · exact onlyMem_bump1 ..

/-! ### Row operations leave the companions' links alone -/

theorem cbTouch_ly (s : State) (t id : Nat) (c : Codebook) : (cbTouch s t id c).ly = s.ly := by
  have hr := onlyMem_readExt
  have hdef : @cbTouch = @cbTouch := rfl
  conv_rhs at hdef => delta cbTouch
  obtain ⟨rd, hrd⟩ := exists_eq (a' := @readExt)
  rw [hdef]
  rw [← hrd] at hr ⊢
  simp only [setTile_ly]
  split
  · rfl
  · exact (hr ..).ly

theorem cbDecode_ly (s : State) (t : Nat) (x : Desc) (sl : List Byte) : (cbDecode s t x sl).ly = s.ly := by
  unfold cbDecode
  split
  · exact cbTouch_ly ..
  · rfl

theorem cbEncode_ly (s : State) (t : Nat) (x : Desc) (e : Encoded) : (cbEncode s t x e).ly = s.ly :=
  foldl_keeps State.ly _ (fun u i => by
    simp only []
    split
    · exact cbTouch_ly ..
    · rfl) _ s

theorem codecRecode_ly (s : State) (d row w : Nat) (sl : List Byte) (v : Nat) : (codecRecode s d row w sl v).1.ly = s.ly := by
  unfold codecRecode codecEncode
  exact ((onlyMem_countEnc _ _ _).ly.trans (cbEncode_ly ..)).trans (cbDecode_ly ..)

theorem onlyMem_insertGo (d row k i : Nat) (s : State) : OnlyMem s (insertGo d row k i s).1 := by
  have hdef : @insertGo._f = @insertGo._f := rfl
  conv_rhs at hdef => delta insertGo._f
  delta insertGo
  refine brecOn_induction (p := fun f => ∀ i s, OnlyMem s (f i s).1) (insertGo._f d row) ?zero ?succ k i s
  case zero =>
    rw [hdef]
    exact fun _ _ s => OnlyMem.refl s
  case succ =>
    intro n b ih i s
    have hl := onlyMem_readLine
    obtain ⟨line, hline⟩ := exists_eq (a' := @readLine)
    rw [hdef]
    rw [← hline] at hl ⊢
    simp only []
    split
    · exact (hl ..).trans (ih ..)
    split
    · exact hl ..
    · exact (hl ..).trans (ih ..)

theorem onlyMem_writeEnt (s : State) (b i : Nat) (e : AEnt) : OnlyMem s (writeEnt s b i e) := onlyMem_writeExt ..

theorem onlyMem_journalWrite (s : State) (j : JRec) : OnlyMem s (journalWrite s j) := onlyMem_writeExt ..

theorem journalTake_ly (s : State) (d row shadow : Nat) (old : Option Nat) (commit : Bool) :
    (journalTake s d row shadow old commit).1.ly = s.ly := by
  have hdef : @journalTake = @journalTake := rfl
  conv_rhs at hdef => delta journalTake
  have hw := onlyMem_journalWrite
  obtain ⟨jw, hjw⟩ := exists_eq (a' := @journalWrite)
  rw [hdef]
  rw [← hjw] at hw ⊢
  exact (hw ..).ly

theorem journalStage_ly (s : State) (q i : Nat) (st : Stage) : (journalStage s q i st).ly = s.ly := by
  unfold journalStage
  simp only []
  split
  · exact (onlyMem_journalWrite ..).ly
  · rfl

theorem retireSlot_ly (s : State) (d old sz q i : Nat) : (retireSlot s d old sz q i).ly = s.ly := journalStage_ly ..

theorem flip_ly (s : State) (found : Option APlace) (d row a : Nat) (sl : List Byte) (keep : Option Bool) (q i : Nat) :
    (flip s found d row a sl keep q i).1.ly = s.ly := by
  have hdef : @flip = @flip := rfl
  conv_rhs at hdef => delta flip
  have hi := onlyMem_insertGo
  have hw := onlyMem_writeEnt
  have hs := journalStage_ly
  obtain ⟨ins, hins⟩ := exists_eq (a' := @insertGo)
  obtain ⟨wr, hwr⟩ := exists_eq (a' := @writeEnt)
  rw [hdef]
  rw [← hins] at hi ⊢
  rw [← hwr] at hw ⊢
  simp only []
  split
  · exact (retireSlot_ly ..).trans ((hs ..).trans (hw ..).ly)
  split
  · rfl
  have hi' := hi d row 4 0 s
  split
  next s1 b n he =>
    rw [he] at hi'
    exact (hs ..).trans ((hw ..).ly.trans hi'.ly)
  next s1 he =>
    rw [he] at hi'
    exact hi'.ly

theorem installSlice_ly (s : State) (d row : Nat) (sl : List Byte) (keep : Option Bool) (commit : Bool) (pch : Option Nat) :
    (installSlice s d row sl keep commit pch).1.ly = s.ly := by
  have hdef : @installSlice = @installSlice := rfl
  conv_rhs at hdef => delta installSlice
  have hp := onlyMem_probe
  have hj := journalTake_ly
  have hw := onlyMem_writeExt
  have hf := flip_ly
  have hs := journalStage_ly
  obtain ⟨pr, hpr⟩ := exists_eq (a' := @probe)
  obtain ⟨jt, hjt⟩ := exists_eq (a' := @journalTake)
  obtain ⟨wr, hwr⟩ := exists_eq (a' := @writeExt)
  rw [hdef]
  rw [← hpr] at hp ⊢
  rw [← hjt] at hj ⊢
  rw [← hwr] at hw ⊢
  simp only []
  split
  · exact (hp ..).ly
  · exact (hf ..).trans ((hs ..).trans ((hw ..).ly.trans ((hj ..).trans (hp ..).ly)))

theorem tombstone_ly (s : State) (p : APlace) (commit : Bool) : (tombstone s p commit).ly = s.ly := by
  have hdef : @tombstone = @tombstone := rfl
  conv_rhs at hdef => delta tombstone
  have hj := journalTake_ly
  obtain ⟨jt, hjt⟩ := exists_eq (a' := @journalTake)
  rw [hdef]
  rw [← hjt] at hj ⊢
  simp only []
  exact (retireSlot_ly ..).trans ((journalStage_ly ..).trans ((onlyMem_writeEnt ..).ly.trans (hj ..)))

theorem rowMvalid_ly (s : State) (d row : Nat) : (rowMvalid s d row).1.ly = s.ly := by
  have hdef : @rowMvalid = @rowMvalid := rfl
  conv_rhs at hdef => delta rowMvalid
  have hr := onlyMem_readRec
  obtain ⟨rr, hrr⟩ := exists_eq (a' := @readRec)
  rw [hdef]
  rw [← hrr] at hr ⊢
  exact (hr ..).ly

theorem demoteRow_ly (s : State) (d row cls : Nat) (commit : Bool) : (demoteRow s d row cls commit).ly = s.ly := by
  have hdef : @demoteRow = @demoteRow := rfl
  conv_rhs at hdef => delta demoteRow
  have hp := onlyMem_probe
  have hm := rowMvalid_ly
  have hh := onlyMem_readHome
  have hc := codecRecode_ly
  have hs := onlyMem_sendServe
  have hr := onlyMem_sendReseed
  have ht := tombstone_ly
  obtain ⟨pr, hpr⟩ := exists_eq (a' := @probe)
  obtain ⟨mv, hmv⟩ := exists_eq (a' := @rowMvalid)
  obtain ⟨rh, hrh⟩ := exists_eq (a' := @readHome)
  obtain ⟨rc, hrc⟩ := exists_eq (a' := @codecRecode)
  rw [hdef]
  rw [← hpr] at hp ⊢
  rw [← hmv] at hm ⊢
  rw [← hrh] at hh ⊢
  rw [← hrc] at hc ⊢
  simp only []
  have hq := hp s d row
  split
  next s1 he =>
    rw [he] at hq
    exact hq.ly
  next s1 p he =>
    rw [he] at hq
    have h4 : (rh (sendServe (mv s1 d row).1 d row false cls p.ent.version) d row).1.ly = s.ly :=
      (hh ..).ly.trans ((hs ..).ly.trans ((hm ..).trans hq.ly))
    rw [ht]
    split
    · exact (hh ..).ly.trans ((hr ..).ly.trans ((hc ..).trans h4))
    · exact h4

theorem installCopy_ly (s : State) (d row : Nat) (sl : List Byte) (commit : Bool) :
    (installCopy s d row sl commit).ly = s.ly := by
  have hdef : @installCopy = @installCopy := rfl
  conv_rhs at hdef => delta installCopy
  have hi := installSlice_ly s d row sl none commit none
  have hd := demoteRow_ly
  obtain ⟨ins, hins⟩ := exists_eq (a' := @installSlice)
  rw [hdef]
  rw [← hins] at hi ⊢
  simp only []
  split
  next s1 he =>
    rw [he] at hi
    exact hi
  next s1 e hne he =>
    rw [he] at hi
    exact (hd ..).trans hi

/-- The rows of a commit log are brought to the master's version behind the companions' links (R245). -/
theorem requantRow_ly (s : State) (x : RowStep) : (requantRow s x).ly = s.ly := by
  have hdef : @requantRow = @requantRow := rfl
  conv_rhs at hdef => delta requantRow
  have hp := onlyMem_probe
  have hr := onlyMem_sendRequant
  have hi := installCopy_ly
  obtain ⟨pr, hpr⟩ := exists_eq (a' := @probe)
  obtain ⟨rq, hrq⟩ := exists_eq (a' := @sendRequant)
  rw [hdef]
  rw [← hpr] at hp ⊢
  rw [← hrq] at hr ⊢
  simp only []
  have hp' := hp s x.desc x.row
  split
  next s1 he =>
    rw [he] at hp'
    exact hp'.ly
  next s1 p he =>
    rw [he] at hp'
    split
    · exact (hi ..).trans ((hr ..).ly.trans hp'.ly)
    · exact (hr ..).ly.trans hp'.ly

end Sys2Proof.Machine
end

section
/-! PROOFS. Updates, batches, acknowledgements and commit logs of a companion (R198, R199, R209, R217, R219, R232, R245). -/

namespace Sys2Proof.Machine

/-! ### The companions of a state -/

theorem lyOf_eq_of_ly {s t : State} (h : t.ly = s.ly) (k : Nat) : lyOf t k = lyOf s k := by rw [lyOf, lyOf, h]

@[simp] theorem lyOf_setLy_self (s : State) (k : Nat) (l : Lyush) : lyOf (setLy s k l) k = l := mget_mset_self ..

theorem lyOf_setLy_ne (s : State) {k n : Nat} (l : Lyush) (h : n ≠ k) : lyOf (setLy s k l) n = lyOf s n := mget_mset_ne _ _ _ _ _ h

theorem lyOf_scatGo (s : State) (k : Nat) : lyOf (scatGo s) k = lyOf s k := lyOf_eq_of_ly (scatOn_scatGo s).frame.ly k

theorem checkParams_ly (s : State) : (checkParams s).ly = s.ly := by
  unfold checkParams
  generalize s.mer.lruns = l
  refine foldl_keeps State.ly _ (fun t r => ?_) l s
  split
  · split
    · exact (mbComplete_ly ..).trans (onlyMem_putDesc ..).ly
    · rfl
  · rfl

theorem checkParams_of_nothing {s : State} (h : s.mer.lruns = []) : checkParams s = s := by
  rw [checkParams, h]
  rfl

/-- Pending changes that follow concern the loaded values of a companion alone (R232). -/
theorem lyApplyPending_eq (l : Lyush) : ∃ ps pp cs pc,
    lyApplyPending l = { l with psets := ps, pendPset := pp, ctx := cs, pendCtx := pc } := by
  have hpset (rs : List (Nat × PSet)) (m : Lyush) :
      ∃ ps, rs.foldl (fun (m : Lyush) x => { m with psets := mset m.psets x.1 x.2 }) m = { m with psets := ps } := by
    induction rs generalizing m with
    | nil => exact ⟨m.psets, rfl⟩
    | cons x rs ih => exact ih _
  have hctx (rs : List (Nat × LyCtx)) (m : Lyush) :
      ∃ cs, rs.foldl (fun (m : Lyush) x => { m with ctx := mset m.ctx x.1 x.2 }) m = { m with ctx := cs } := by
    induction rs generalizing m with
    | nil => exact ⟨m.ctx, rfl⟩
    | cons x rs ih => exact ih _
  unfold lyApplyPending
  split
  next hs rs _ =>
  extract_lets l1
  split
  next hc rc _ =>
  obtain ⟨ps, hps⟩ := hpset rs { l with pendPset := hs }
  obtain ⟨cs, hcs⟩ := hctx rc { l1 with pendCtx := hc }
  exact ⟨ps, hs, cs, hc, hcs.trans (by simp only [l1, hps])⟩

/-- Closing batches leaves everything that is on the link. -/
theorem lyClose_eq (l : Lyush) : ∃ bs ps pp cs pc,
    lyClose l = { l with batches := bs, psets := ps, pendPset := pp, ctx := cs, pendCtx := pc } := by
  obtain ⟨ps, pp, cs, pc, h⟩ := lyApplyPending_eq { l with batches := l.batches.filter (fun b =>
    !(l.dones.contains b.2 && !l.updq.any (fun u => u.ubatch == b.2))) }
  exact ⟨_, ps, pp, cs, pc, h⟩

/-! ### One update (R217) -/

/-- What an update on companion k leaves: `r` is the state after it, with what it answers. -/
structure UpdateMade (s : State) (k : Nat) (u : UpdMsg) (r : State × UpdDone) : Prop where
  frame : ∃ y, OnlyMem { s with ly := y } r.1
  link : ∃ l, lyOf r.1 k = { lyOf s k with recent := l }
  names : r.2.ack.desc = u.desc ∧ r.2.ack.row = u.row ∧ r.2.ack.ubatch = u.ubatch
  undone : r.2.ack.result ≠ 0 → r.1.mem = s.mem ∧ r.2.copy = none

/-- An update that ends with a result other than COMMITTED. -/
theorem updateMade_refused {s t : State} {k : Nat} {u : UpdMsg} (h : OnlyMem s t) (hm : t.mem = s.mem) (step : Nat)
    (e : BitVec 4) : UpdateMade s k u (t, { ack := mkAck u step e, copy := none }) :=
  ⟨⟨s.ly, h⟩, ⟨(lyOf s k).recent, lyOf_eq_of_ly h.ly k⟩, ⟨rfl, rfl, rfl⟩, fun _ => ⟨hm, rfl⟩⟩

/-- An update goes on from a state after reads. -/
theorem UpdateMade.after_read {s t : State} {k : Nat} {u : UpdMsg} {r : State × UpdDone} (h : OnlyMem s t)
    (hm : t.mem = s.mem) (hr : UpdateMade t k u r) : UpdateMade s k u r where
  frame := by
    obtain ⟨y, hy⟩ := hr.frame
    exact ⟨y, (h.withLy y).trans hy⟩
  link := by
    rw [← lyOf_eq_of_ly h.ly k]
    exact hr.link
  names := hr.names
  undone := hm ▸ hr.undone

theorem lyRead_mem (s : State) (k : Nat) (c : LyCtx) (row : Nat) : (lyRead s k c row).1.mem = s.mem := by
  have hdef : @lyRead = @lyRead := rfl
  conv_rhs at hdef => delta lyRead
  have hr := dReadSecs_mem
  obtain ⟨rd, hrd⟩ := exists_eq (a' := @dReadSecs)
  rw [hdef]
  rw [← hrd] at hr ⊢
  simp only [hr, snoopExt_mem]

theorem lyRecent_eq (l : Lyush) (x : RowStep) : ∃ r, lyRecent l x = { l with recent := r } := by
  unfold lyRecent
  exact ⟨_, rfl⟩

theorem updateMade_lyRun (s : State) (k : Nat) (u : UpdMsg) (c : LyCtx) (g : Prog) (p : PSet) (x : LyRow) :
    UpdateMade s k u (lyRun s k u c g p x) := by
  have hdef : @lyRun = @lyRun := rfl
  conv_rhs at hdef => delta lyRun
  have hc := onlyMem_lyCommit
  obtain ⟨cm, hcm⟩ := exists_eq (a' := @lyCommit)
  rw [hdef]
  rw [← hcm] at hc ⊢
  have hb (t : State) (a b : Bool) (m n : Nat) : OnlyMem t (bumpIf (bumpIf t a m) b n) :=
    (onlyMem_bumpIf ..).trans (onlyMem_bumpIf ..)
  have hbm (t : State) (a b : Bool) (m n : Nat) : (bumpIf (bumpIf t a m) b n).mem = t.mem :=
    (bumpIf_mem ..).trans (bumpIf_mem ..)
  beta_reduce
  extract_lets d n mv m us old nstep r s1 s2
  split
  · exact updateMade_refused (OnlyMem.refl s) rfl _ _
  split
  · exact updateMade_refused (hb ..) (hbm ..) _ _
  · have hs2 : OnlyMem s s2 := (hb ..).trans (onlyMem_bumpIf ..)
    have h3 := hs2.trans (hc s2 k d u.row c x r.m r.us nstep)
    generalize cm s2 k d u.row c x r.m r.us nstep = q at h3 ⊢
    obtain ⟨s3, cp⟩ := q
    refine ⟨⟨_, h3.withLy _⟩, ?_, ⟨rfl, rfl, rfl⟩, fun h => absurd rfl h⟩
    have h4 : lyOf s3 k = lyOf s k := lyOf_eq_of_ly h3.ly k
    rw [lyOf_setLy_self, h4]
    exact lyRecent_eq ..

theorem updateMade_lyUpdate (s : State) (k : Nat) (u : UpdMsg) : UpdateMade s k u (lyUpdate s k u) := by
  have hdef : @lyUpdate = @lyUpdate := rfl
  conv_rhs at hdef => delta lyUpdate
  have hr := onlyMem_lyRead
  have hm := lyRead_mem
  obtain ⟨rd, hrd⟩ := exists_eq (a' := @lyRead)
  rw [hdef]
  rw [← hrd] at hr hm ⊢
  simp only []
  split
  · exact updateMade_refused (OnlyMem.refl s) rfl _ _
  split
  · exact updateMade_refused (hr ..) (hm ..) _ _
  split
  · exact updateMade_refused (hr ..) (hm ..) _ _
  split
  · exact updateMade_refused (hr ..) (hm ..) _ _
  · exact (updateMade_lyRun ..).after_read (hr ..) (hm ..)

/-! ### The queue, the engine and the batches -/

/-- An update that arrives joins the queue, and its batch is open (R232). -/
theorem mem_openBatches (bs : List (Nat × Nat)) (b : Nat × Nat) : b ∈ (if bs.contains b then bs else bs ++ [b]) := by
  split
  next h => simpa using h
  · simp

theorem openBatches_subset (bs : List (Nat × Nat)) (b : Nat × Nat) : bs ⊆ (if bs.contains b then bs else bs ++ [b]) := by
  split
  · exact fun _ h => h
  · exact List.subset_append_left _ _

/-- A COPY goes on the link when there is one. -/
theorem pushCopy_eq (s : State) (k d row : Nat) (c : Option (List Byte)) : pushCopy s k d row c = s ∧ c = none ∨
    pushCopy s k d row c = setLy s k { lyOf s k with copies := (lyOf s k).copies ++ (c.map (fun x => (d, row, x))).toList } := by
  cases c with
  | none => exact .inl ⟨rfl, rfl⟩
  | some x => exact .inr rfl

theorem lyOf_pushCopy (s : State) (k d row : Nat) (c : Option (List Byte)) : lyOf (pushCopy s k d row c) k =
    { lyOf s k with copies := (lyOf s k).copies ++ (c.map (fun x => (d, row, x))).toList } := by
  rcases pushCopy_eq s k d row c with ⟨h, rfl⟩ | h
  · rw [h]; simp
  · rw [h, lyOf_setLy_self]

/-- The engine's next update, with its COPY and its acknowledgement on the link (R209). -/
theorem engineTake_cons {s : State} {k : Nat} {u : UpdMsg} {us : List UpdMsg} (hp : portUp s k = true)
    (hs : (lyOf s k).selfRef = false) (hr : s.pwr.restart ≠ .running) (hu : (lyOf s k).updq = u :: us) :
    ∃ l, engineTake s k = checkParams (setLy (pushAck (pushCopy (lyUpdate (setLy s k { lyOf s k with updq := us }) k u).1 k
        u.desc u.row (lyUpdate (setLy s k { lyOf s k with updq := us }) k u).2.copy) k
        (lyUpdate (setLy s k { lyOf s k with updq := us }) k u).2.ack) k l) ∧
      l.updq = us ∧ l.acks = (lyOf s k).acks ++ [(lyUpdate (setLy s k { lyOf s k with updq := us }) k u).2.ack] ∧
      l.copies = (lyOf s k).copies ++
        ((lyUpdate (setLy s k { lyOf s k with updq := us }) k u).2.copy.map (fun c => (u.desc, u.row, c))).toList := by
  have hgo : ¬(!portUp s k || (lyOf s k).selfRef || s.pwr.restart == .running) = true := by simp [hp, hs, hr]
  have hdef : @engineTake = @engineTake := rfl
  conv_rhs at hdef => delta engineTake
  have hm := updateMade_lyUpdate
  obtain ⟨up, hup⟩ := exists_eq (a' := @lyUpdate)
  rw [hdef]
  rw [← hup] at hm ⊢
  simp only [hu]
  rw [if_neg hgo]
  have hv : lyOf (setLy s k { lyOf s k with updq := us }) k = { lyOf s k with updq := us } := lyOf_setLy_self ..
  obtain ⟨l, hl⟩ := (hm (setLy s k { lyOf s k with updq := us }) k u).link
  generalize up (setLy s k { lyOf s k with updq := us }) k u = q at *
  obtain ⟨s1, r⟩ := q
  have h2 : lyOf (pushAck (pushCopy s1 k u.desc u.row r.copy) k r.ack) k = { lyOf s k with
      updq := us, recent := l, copies := (lyOf s k).copies ++ (r.copy.map (fun c => (u.desc, u.row, c))).toList,
      acks := (lyOf s k).acks ++ [r.ack] } := by
    rw [pushAck, lyOf_setLy_self, lyOf_pushCopy, hl, hv]
  obtain ⟨bs, ps, pp, cs, pc, h3⟩ := lyClose_eq (lyOf (pushAck (pushCopy s1 k u.desc u.row r.copy) k r.ack) k)
  refine ⟨_, rfl, ?_, ?_, ?_⟩
  all_goals rw [h3, h2]

theorem pushCopy_mem (s : State) (k d row : Nat) (c : Option (List Byte)) : (pushCopy s k d row c).mem = s.mem := by
  cases c <;> rfl

theorem pushCopy_mer (s : State) (k d row : Nat) (c : Option (List Byte)) : (pushCopy s k d row c).mer = s.mer := by
  cases c <;> rfl

/-- With no TABLE_PARAMS acknowledged, the engine changes memory by the update alone. -/
theorem engineTake_mem {s : State} {k : Nat} {u : UpdMsg} {us : List UpdMsg} (hp : portUp s k = true)
    (hs : (lyOf s k).selfRef = false) (hr : s.pwr.restart ≠ .running) (hu : (lyOf s k).updq = u :: us)
    (hl : s.mer.lruns = []) :
    (engineTake s k).mem = (lyUpdate (setLy s k { lyOf s k with updq := us }) k u).1.mem := by
  obtain ⟨l, h, -⟩ := engineTake_cons hp hs hr hu
  obtain ⟨y, hy⟩ := (updateMade_lyUpdate (setLy s k { lyOf s k with updq := us }) k u).frame
  generalize lyUpdate (setLy s k { lyOf s k with updq := us }) k u = r at h hy ⊢
  have hmer : (setLy (pushAck (pushCopy r.1 k u.desc u.row r.2.copy) k r.2.ack) k l).mer = s.mer :=
    (pushCopy_mer ..).trans hy.mer
  rw [h, checkParams_of_nothing (by rw [hmer, hl])]
  exact pushCopy_mem ..

/-- BATCH_END of a batch whose deliveries have all arrived (R199). -/
theorem batchEnd_step {s : State} {p : Fin 8} {ub : BitVec 16}
    (hj : ∃ j ∈ s.sc.jobs, inBatch ub.toNat j = true ∧ inCommit s j = true ∧ p.val ∈ j.ports ∧ p.val ∉ j.ended)
    (hf : ∀ u ∈ (lyOf s p).flying, u.ubatch ≠ ub.toNat) (hs : stopped s = false) (t : State) (hn : t.rc.need = [])
    (ht : t = scatGo (if !portUp s p then countPort (updScat s (inBatch ub.toNat) (fun j => { j with ended := sins j.ended p })) p
      else checkParams (setLy (updScat s (inBatch ub.toNat) (fun j => { j with ended := sins j.ended p })) p
        (lyClose { lyOf s p with dones := (lyOf s p).dones ++ [ub.toNat] })))) : exec (.batchEnd p ub) s = .next t := by
  have hany : ¬(!s.sc.jobs.any (fun j =>
      inBatch ub.toNat j && inCommit s j && j.ports.contains p.val && !j.ended.contains p.val)) = true := by
    obtain ⟨j, hm, hb, hc, hp, he⟩ := hj
    rw [Bool.not_eq_true, Bool.not_eq_false', List.any_eq_true]
    exact ⟨j, hm, by simp [hb, hc, hp, he]⟩
  have hfly : ¬((lyOf s p).flying.any (fun u => u.ubatch == ub.toNat)) = true := by
    simpa using hf
  show execBatchEnd p ub s = _
  unfold execBatchEnd
  exact act_eq_next hs ((if_neg hany).trans ((if_neg hfly).trans ht.symm)) hn

theorem lyOf_batchEnd (s : State) (p : Nat) (ub : Nat) :
    (lyOf (scatGo (checkParams (setLy s p (lyClose { lyOf s p with dones := (lyOf s p).dones ++ [ub] })))) p).dones =
        (lyOf s p).dones ++ [ub] ∧
      (lyOf (scatGo (checkParams (setLy s p (lyClose { lyOf s p with dones := (lyOf s p).dones ++ [ub] })))) p).updq =
        (lyOf s p).updq := by
  obtain ⟨bs, ps, pp, cs, pc, h⟩ := lyClose_eq { lyOf s p with dones := (lyOf s p).dones ++ [ub] }
  rw [lyOf_scatGo, lyOf_eq_of_ly (checkParams_ly _), lyOf_setLy_self, h]
  exact ⟨rfl, rfl⟩

/-! ### Acknowledgements and COPYs -/

theorem no_copy_waits {l : List (Nat × Nat × List Byte)} {d row : Nat} (h : ∀ c ∈ l, c.1 ≠ d ∨ c.2.1 ≠ row) :
    ¬(l.any (fun c => c.1 == d && c.2.1 == row)) = true := by
  simp only [Bool.not_eq_true, List.any_eq_false, Bool.and_eq_true, beq_iff_eq, not_and_or]
  exact h

theorem copy_waits {l : List (Nat × Nat × List Byte)} {d row : Nat} (h : ∃ c ∈ l, c.1 = d ∧ c.2.1 = row) :
    l.any (fun c => c.1 == d && c.2.1 == row) = true := by
  simpa using h

/-- The acknowledgement of an update is off the link, and the recent-commit list without the commit (R245). -/
def ackOff (s : State) (p : Nat) (a : AckMsg) (rest : List AckMsg) : State :=
  setLy s p { lyOf s p with
    acks := rest,
    recent := if a.result = 0 then (lyOf s p).recent.filter (fun r => r != RowStep.mk a.desc a.row a.step)
      else (lyOf s p).recent }

theorem updAckTake_ack {s : State} {p : Nat} {a b : AckMsg} {rest : List AckMsg}
    (ha : takeFirst (fun b => b == a) (lyOf s p).acks = some (b, rest))
    (hc : ∀ c ∈ (lyOf s p).copies, c.1 ≠ a.desc ∨ c.2.1 ≠ a.row) :
    updAckTake s p a = scatGo (ackTake (ackOff s p a rest) p a) := by
  simp only [updAckTake, ha]
  exact if_neg (no_copy_waits hc)

theorem updAckTake_rack {s : State} {p : Nat} {a b : AckMsg} {rest : List AckMsg}
    (ha : takeFirst (fun b => b == a) (lyOf s p).acks = none)
    (hr : takeFirst (fun b => b == a) (lyOf s p).racks = some (b, rest))
    (hc : ∀ c ∈ (lyOf s p).copies, c.1 ≠ a.desc ∨ c.2.1 ≠ a.row) :
    updAckTake s p a = ackRow (setLy s p { lyOf s p with racks := rest }) a := by
  simp only [updAckTake, ha, hr]
  exact if_neg (no_copy_waits hc)

theorem updAckTake_waits {s : State} {p : Nat} {a : AckMsg} (hc : ∃ c ∈ (lyOf s p).copies, c.1 = a.desc ∧ c.2.1 = a.row) :
    updAckTake s p a = s := by
  unfold updAckTake
  split
  · split
    · rfl
    · exact if_pos (copy_waits hc)
  · exact if_pos (copy_waits hc)

theorem lyOf_ackTake (s : State) (k : Nat) (a : AckMsg) :
    lyOf (ackTake s k a) k = { lyOf s k with outstanding := (lyOf s k).outstanding - 1 } :=
  lyOf_setLy_self (bump1 s (resultCtr a.desc a.result)) k _

/-- The jobs that wait for the flips of a descriptor's COPYs. -/
def awaitsCopy (d : Nat) (j : ScJob) : Bool := j.desc == d && j.ubatch.isSome && !j.reported

theorem copyTake_taken {s : State} {p d row : Nat} {sl : List Byte} {c : Nat × Nat × List Byte}
    {rest : List (Nat × Nat × List Byte)} (h : takeFirst (fun c => c == (d, row, sl)) (lyOf s p).copies = some (c, rest)) :
    copyTake s p d row sl = { updScat (setLy s p { lyOf s p with copies := rest }) (awaitsCopy d)
      (fun j => { j with toInstall := j.toInstall + 1 }) with alm := { s.alm with copies := s.alm.copies ++ [(d, row, sl)] } } := by
  simp only [copyTake, h]
  rfl

/-- COMMIT_LOG of entries that the recent-commit list holds (R245). -/
theorem commitLog_step {s : State} {p : Fin 8} {l : List RowStep} (hr : s.pwr.restart = .running) (hp : portUp s p = true)
    (hl : ∀ x ∈ l, x ∈ (lyOf s p).recent) (hs : stopped s = false) {t : State} (hn : t.rc.need = [])
    (ht : t = l.foldl requantRow (setLy s p { lyOf s p with recent := (lyOf s p).recent.filter (fun x => !l.contains x) })) :
    exec (.commitLog p l) s = .next t := by
  have hgo : ¬(s.pwr.restart != .running || !portUp s p || !l.all (fun x => (lyOf s p).recent.contains x)) = true := by
    simpa [hr, hp] using hl
  show execCommitLog p l s = _
  unfold execCommitLog
  exact act_eq_next hs ((if_neg hgo).trans ht.symm) hn

/-- Settles O43, event by event. -/
theorem companionUpdatesTakeEffect : Obligations.CompanionUpdatesTakeEffect := by
  refine ⟨?update, ?engine, fun s k u h => (updateMade_lyUpdate s k u).undone h, ?batchEnd, ?batchDone, ?updAck, ?copy,
    ?commitLog⟩
  case update =>
    intro s p u v rest hs hn hp hr ht
    have hgo : ¬(!portUp s p || (lyOf s p).selfRef) = true := by simp [hp, hr]
    have hstep : exec (.update p u) s = .next (setLy s p { lyOf s p with
        flying := rest, updq := (lyOf s p).updq ++ [u],
        batches := if (lyOf s p).batches.contains (u.desc, u.ubatch) then (lyOf s p).batches
          else (lyOf s p).batches ++ [(u.desc, u.ubatch)] }) := by
      show execUpdate p u s = _
      unfold execUpdate
      refine act_eq_next hs ?_ hn
      simp only [ht]
      exact if_neg hgo
    refine ⟨_, hstep, ?_⟩
    rw [lyOf_setLy_self]
    exact ⟨rfl, rfl, mem_openBatches .., openBatches_subset _ _, fun k hk => lyOf_setLy_ne _ _ hk, rfl⟩
  case engine =>
    intro s s1 t p u us r hs hp hself hr hu hup ht hn
    obtain ⟨l, htake, hq, ha, hc⟩ := engineTake_cons hp hself hr hu
    have hmade := updateMade_lyUpdate (setLy s p { lyOf s p with updq := us }) p u
    have hmem := engineTake_mem hp hself hr hu
    rw [← ht] at htake hmem
    rw [hup] at htake ha hc hmade hmem
    have hl : lyOf t p = l := by rw [htake, lyOf_eq_of_ly (checkParams_ly _), lyOf_setLy_self]
    obtain ⟨hd, hrow, hub⟩ := hmade.names
    refine ⟨?_, ?_⟩
    · exact act_eq_next (f := fun s => engineTake s p) hs ht.symm hn
    · rw [hl]
      exact ⟨hq, ha, hc, hmem, hd, hrow, hub⟩
  case batchEnd =>
    intro s s1 t p ub hs hj hf hs1 hn
    subst hs1
    refine ⟨fun hp ht => ?_, fun hp ht => ?_⟩
    · refine ⟨batchEnd_step hj hf hs t hn (by rw [hp]; exact ht), ?_⟩
      rw [ht]
      exact lyOf_batchEnd (updScat s (inBatch ub.toNat) (fun j => { j with ended := sins j.ended p })) p ub.toNat
    · exact batchEnd_step hj hf hs t hn (by rw [hp]; exact ht)
  case batchDone =>
    intro s p ub hs hn hd
    show (_ → _ → execBatchDone p ub s = _) ∧ (_ → execBatchDone p ub s = _)
    unfold execBatchDone
    refine ⟨fun hq ha => act_eq_next hs (if_pos ?_) hn, fun ha => act_eq_next hs (if_neg ?_) hn⟩
    · simpa [hd] using ⟨hq, ha⟩
    · obtain ⟨a, hm, hb⟩ := ha
      simp only [Bool.and_eq_true, Bool.not_eq_true', List.any_eq_false, not_and, beq_iff_eq]
      exact fun _ h => h a hm hb
  case updAck =>
    intro s p a hs
    have hnext {t : State} : updAckTake s p a = t → t.rc.need = [] → exec (.updAck p a) s = .next t :=
      act_eq_next (f := fun s => updAckTake s p a) hs
    refine ⟨fun b rest t ha hc ht hn => ?_, fun b rest hn ha hr hc => ?_, fun hn hc => ?_⟩
    · refine ⟨hnext ((updAckTake_ack ha hc).trans ht.symm) hn, ?_⟩
      rw [ht, lyOf_scatGo, lyOf_ackTake, lyOf_setLy_self]
      exact ⟨rfl, rfl⟩
    · refine hnext (updAckTake_rack ha hr hc) ?_
      split
      · exact hn
      · exact hn
    · exact hnext (updAckTake_waits hc) hn
  case copy =>
    intro s p d row sl c rest hs hn h
    refine ⟨_, act_eq_next (f := fun s => copyTake s p d row sl) hs (copyTake_taken h) hn, rfl, ?_, rfl, rfl⟩
    exact congrArg Lyush.copies (lyOf_setLy_self s p { lyOf s p with copies := rest })
  case commitLog =>
    intro s t p l hs hr hp hl ht hn
    refine ⟨commitLog_step hr hp hl hs hn ht, fun x hx => ?_⟩
    have hly : t.ly = (setLy s p { lyOf s p with recent := (lyOf s p).recent.filter (fun x => !l.contains x) }).ly := by
      rw [ht]
      exact foldl_keeps State.ly _ requantRow_ly l _
    rw [lyOf_eq_of_ly hly, lyOf_setLy_self]
    simp [hx]

end Sys2Proof.Machine
end

section
/-! PROOFS. SCATTER's data on a rank: gradients, records, sorting, merging, delivery (R179 to R192, R197, R204, R472). -/

namespace Sys2Proof.Machine

/-! ### Jobs and commands -/

theorem scOfCmd_eq_of_jobs {s t : State} (h : t.sc.jobs = s.sc.jobs) (cid : Nat) : scOfCmd t cid = scOfCmd s cid := by
  rw [scOfCmd, scOfCmd, h]

theorem scOfCmd_updSc (s : State) (jid cid : Nat) {f : ScJob → ScJob} (hf : ∀ j, (f j).cid = j.cid) :
    scOfCmd (updSc s jid f) cid = (scOfCmd s cid).map (fun j => if j.jid = jid then f j else j) :=
  find?_map_of_eq (fun j => by split <;> simp [hf]) s.sc.jobs

theorem scOfCmd_updSc_self {s : State} {cid : Nat} {j : ScJob} (h : scOfCmd s cid = some j) {f : ScJob → ScJob}
    (hf : ∀ j, (f j).cid = j.cid) : scOfCmd (updSc s j.jid f) cid = some (f j) := by
  rw [scOfCmd_updSc s j.jid cid hf, h, Option.map_some, if_pos rfl]

/-- The job after SCATTERs have gone on is, in what they do not change, the job before. -/
theorem scOf_scatGo {s : State} {jid : Nat} {j k : ScJob} (hj : scOf s jid = some j) (hk : scOf (scatGo s) jid = some k) :
    k.core = j.core := by
  obtain ⟨i, hi, hc⟩ := (scatOn_scatGo s).job jid k hk
  obtain rfl := Option.some.inj (hj.symm.trans hi)
  exact hc

/-! ### Gradients (R179, R180) -/

theorem wakeUp_sc (s : State) : (wakeUp s).sc = s.sc := by
  unfold wakeUp
  split <;> rfl

theorem semChange_sc (s : State) (i : Nat) (add : Bool) (v : W32) : (semChange s i add v).sc = s.sc := by
  have hlink (t : State) : (if add then t else linkSet t i).sc = t.sc := by split <;> rfl
  unfold semChange
  simp only []
  rw [apply_ite State.sc, wakeUp_sc, ite_self, hlink]

theorem semChange_cmds (s : State) (i : Nat) (add : Bool) (v : W32) : (semChange s i add v).orr.cmds = s.orr.cmds := by
  have hlink (t : State) : (if add then t else linkSet t i).orr = t.orr := by split <;> rfl
  unfold semChange
  simp only []
  rw [apply_ite State.orr, wakeUp_orr, ite_self, hlink]

/-- A gradient record is read from memory or from the stream, beside the commands and the SCATTERs. -/
theorem gradRead_keeps {s s1 : State} {c : Cmd} {d b : Nat} {l : List (Byte × Bool)} (h : gradRead s c d b = some (s1, l)) :
    s1.sc = s.sc ∧ s1.orr.cmds = s.orr.cmds := by
  have hdef : @gradRead = @gradRead := rfl
  conv_rhs at hdef => delta gradRead
  have hr := onlyMem_readList
  obtain ⟨rd, hrd⟩ := exists_eq (a' := @readList)
  rw [hdef] at h
  rw [← hrd] at hr h
  simp only [] at h
  split at h
  · have hm := hr s (c.f 5 0 52 + b * scStride c) (4 * d)
    rw [Option.some.inj h] at hm
    exact ⟨hm.sc, congrArg Orrery.cmds hm.orr⟩
  split at h
  · obtain ⟨rfl, -⟩ := Prod.mk.inj (Option.some.inj h)
    exact ⟨rfl, rfl⟩
  split at h
  · simp at h
  · obtain ⟨rfl, -⟩ := Prod.mk.inj (Option.some.inj h)
    exact ⟨semChange_sc .., semChange_cmds ..⟩

theorem foldl_tr {α : Type} {f : State → α → State} (hf : ∀ s a, ∃ tr, f s a = { s with tr := tr }) (l : List α) (s : State) :
    ∃ tr, l.foldl f s = { s with tr := tr } := by
  induction l generalizing s with
  | nil => exact ⟨s.tr, rfl⟩
  | cons a l ih =>
    obtain ⟨tr, h⟩ := hf s a
    obtain ⟨tr', h'⟩ := ih (f s a)
    exact ⟨tr', h'.trans (by rw [h])⟩

/-- A gradient that is not finite, or poisoned, marks its command (R179). -/
def gradMarked (s : State) (cid d : Nat) (bad : Bool) : State :=
  if bad then updCmd (bump1 s (ctrTableScatBadGrad d)) cid (fun c => { c with poison := true }) else s

/-- The next bag's gradient goes to the slab, and to the other ranks. -/
theorem gradIntake_read {s s1 : State} {cid b : Nat} {c : Cmd} {j : ScJob} {x : Desc} {l : List (Byte × Bool)} {vs : List F32}
    {bad : Bool} (hc : cmdOf s cid = some c) (hj : scOfCmd s cid = some j) (hp : c.phase = .running) (hb : j.nextBag = b)
    (hlt : b < j.nbags) (hr : s.pwr.restart ≠ .running) (hx : descOf s j.desc = x)
    (hread : gradRead s c (x.ranks * x.cols) b = some (s1, l)) (hvs : vs = (numsOf 4 l).map (fun v => BitVec.ofNat 32 v.1))
    (hbad : bad = (l.any (fun v => v.2) || vs.any (fun v => !f32Finite v))) : ∃ tr, gradIntake s cid =
      slabPut { gradMarked s1 cid j.desc bad with tr := tr } j.jid b bad ((vs.drop (x.rank * x.cols)).take x.cols) := by
  have hgo : ¬(c.phase != .running || decide (j.nbags ≤ b) || s.pwr.restart == .running) = true := by
    simp [hp, hr, hlt]
  obtain ⟨tr, htr⟩ := foldl_tr (f := fun t (r : Nat × BitVec 12) => sendMsg t clsIfo mtGradient r.2 cid (b + b2n bad * 2 ^ 32)
      (if bad then [] else (((vs.drop (r.1 * x.cols)).take x.cols).flatMap (fun v =>
        (toBytes 4 v.toNat).map (fun y => (y, false))))))
    (fun t r => sendMsg_tr ..) (otherRanks s x) (gradMarked s1 cid j.desc bad)
  refine ⟨tr, ?_⟩
  rw [← htr]
  subst hb hx hvs hbad
  unfold gradIntake
  simp only [hc, hj]
  refine (if_neg hgo).trans ?_
  rw [hread]
  rfl

theorem cmdOf_gradMarked {s : State} {cid : Nat} {c : Cmd} (d : Nat) (bad : Bool) (h : cmdOf s cid = some c) :
    ∃ e, cmdOf (gradMarked s cid d bad) cid = some e ∧ (bad = true → e.poison = true) := by
  cases bad with
  | false => exact ⟨c, h, fun hb => by simp at hb⟩
  | true =>
    refine ⟨{ c with poison := true }, ?_, fun _ => rfl⟩
    have h' : cmdOf (bump1 s (ctrTableScatBadGrad d)) cid = some c := h
    rw [gradMarked, if_pos rfl, cmdOf_updCmd_self, h']
    · rfl
    · exact fun _ => rfl

theorem gradMarked_rest (s : State) (cid d : Nat) (bad : Bool) : (gradMarked s cid d bad).sc = s.sc ∧
    (gradMarked s cid d bad).mem = s.mem ∧ (gradMarked s cid d bad).rc = s.rc := by
  cases bad <;> exact ⟨rfl, rfl, rfl⟩

/-! ### Expansion (R181 to R184) -/

/-- The counts of a unit leave the job's records as they are. -/
theorem scOf_supCounts {s : State} {j : ScJob} (h : scOf s j.jid = some j) (u : Unit') (ps : List (Nat × Nat)) :
    ∃ k, scOf (supCounts s j u ps) j.jid = some k ∧ k.records = j.records := by
  unfold supCounts
  split
  · exact ⟨j, h, rfl⟩
  · extract_lets x qs drops keep bags wd s1
    have hs1 : scOf s1 j.jid = some j := h
    clear_value s1
    exact ⟨_, scOf_updSc_self hs1 (fun _ => rfl), rfl⟩

theorem qProg_sc (s : State) (q : Nat) : (qProg s q).sc = s.sc := by
  rcases qProg_eq s q with h | h <;> rw [h] <;> rfl

/-- The state in which a unit has emitted its records and is gone, before SCATTERs go on. -/
theorem expandUnit_eq {s : State} {u : Unit'} {j : ScJob} (hj : scOf s j.jid = some j) : ∃ v k,
    expandUnit s u j = scatGo v ∧ v.orr.units ⊆ (supCounts s j u (unitPositions j u)).orr.units.filter (fun v => v.uid != u.uid) ∧
      scOf v j.jid = some k ∧ k.records = j.records + (unitRecords s j (unitPositions j u)).length := by
  obtain ⟨k, hk, hrec⟩ := scOf_supCounts hj u (unitPositions j u)
  unfold expandUnit
  extract_lets ps s1 rs s2 q orr s3 s4 gone
  have hs2 : scOf s2 j.jid = some _ := scOf_updSc_self (s := s1) hk (fun _ => rfl)
  have hs4 : s4.sc = s2.sc ∧ s4.orr.units = s1.orr.units.filter (fun v => v.uid != u.uid) := by
    simp only [s4]
    split
    · exact ⟨qProg_sc .., qProg_units ..⟩
    · exact ⟨rfl, rfl⟩
  have h4 : scOf s4 j.jid = some _ := (scOf_eq_of_jobs (congrArg Scatter.jobs hs4.1) _).trans hs2
  refine ⟨_, _, rfl, ?_, scOf_updSc_self h4 (fun _ => rfl), ?_⟩
  · exact fun _ h => hs4.2 ▸ h
  · exact congrArg (· + rs.length) hrec

theorem unitOf_expandUnit {s : State} {u : Unit'} {j : ScJob} (hj : scOf s j.jid = some j) :
    unitOf (expandUnit s u j) u.uid = none := by
  obtain ⟨v, k, he, hsub, -, -⟩ := expandUnit_eq (u := u) hj
  rw [he, unitOf, List.find?_eq_none]
  intro w hw
  simpa using (List.mem_filter.1 (hsub (scatGo_units_subset v hw))).2

theorem records_expandUnit {s : State} {u : Unit'} {j k : ScJob} (hj : scOf s j.jid = some j)
    (hk : scOf (expandUnit s u j) j.jid = some k) :
    k.records = j.records + (unitRecords s j (unitPositions j u)).length := by
  obtain ⟨v, m, he, -, hm, hrec⟩ := expandUnit_eq (u := u) hj
  rw [he] at hk
  rw [ScJob.records_eq_of_core (scOf_scatGo hm hk), hrec]

/-! ### Sorting (R185, R186) -/

theorem recIns_eq_orderedInsert (x : Contrib) (l : List Contrib) :
    recIns x l = l.orderedInsert (fun a b => recLe a b = true) x := by
  induction l with
  | nil => rfl
  | cons y l ih => rw [recIns, List.orderedInsert_cons, ih]

theorem foldr_recIns (l : List Contrib) : l.foldr recIns [] = l.insertionSort (fun a b => recLe a b = true) := by
  rw [List.insertionSort, show recIns = _ from funext₂ recIns_eq_orderedInsert]

theorem recLe_iff (a b : Contrib) : recLe a b = true ↔ a.row < b.row ∨ a.row = b.row ∧ a.pos ≤ b.pos := by
  simp [recLe]

theorem total_recLe : Std.Total (fun a b : Contrib => recLe a b = true) :=
  ⟨fun a b => by simp only [recLe_iff]; omega⟩

theorem isTrans_recLe : IsTrans Contrib (fun a b => recLe a b = true) :=
  ⟨fun a b c => by simp only [recLe_iff]; omega⟩

/-- A run is in order of row and position. -/
theorem pairwise_foldr_recIns (l : List Contrib) : (l.foldr recIns []).Pairwise (fun a b => recLe a b = true) := by
  have := total_recLe
  have := isTrans_recLe
  rw [foldr_recIns]
  exact List.pairwise_insertionSort _ l

theorem perm_foldr_recIns (l : List Contrib) : (l.foldr recIns []).Perm l := by
  rw [foldr_recIns]
  exact List.perm_insertionSort _ l

/-- The job with the runs `rs` on a tile and nothing left in the tile's buffer; the last of them if so. -/
def withRuns (t : Nat) (rs : List (List Contrib)) (last : Bool) (j : ScJob) : ScJob :=
  { j with runs := mset j.runs t rs, runBuf := mset j.runBuf t [], passed := if last then sins j.passed t else j.passed }

section
variable {s : State} {t : Nat} {j : ScJob} {buf : List Contrib} {last : Bool} (hb : mget j.runBuf t [] = buf)
  (hl : last = (j.expanded && (mget j.flying t []).isEmpty && !j.passed.contains t)) (hdue : 8192 ≤ buf.length ∨ last = true)
include hb hl hdue

/-- A full buffer, or the last of a tile, is made a run; an empty one makes none. -/
theorem sortRun_eq : ∃ v, sortRun s t j = scatGo v ∧ v.rc = s.rc ∧ v.sc = (updSc s j.jid
    (withRuns t (mget j.runs t [] ++ (if buf.isEmpty then [] else [buf.foldr recIns []])) last)).sc := by
  have hgo : ¬(!last && decide (buf.length < 8192)) = true := by
    rcases hdue with h | h <;> simp [h]
  subst hb hl
  unfold sortRun
  simp only []
  rw [if_neg hgo]
  refine ⟨_, rfl, ?_⟩
  split
  next h => rw [h]; exact ⟨rfl, rfl⟩
  next h => rw [Bool.eq_false_iff.2 h]; exact ⟨rfl, rfl⟩

theorem sortRun_rc : (sortRun s t j).rc = s.rc := by
  obtain ⟨v, hv, hrc, -⟩ := sortRun_eq (s := s) hb hl hdue
  rw [hv, (scatOn_scatGo v).frame.rc, hrc]

theorem scOf_sortRun {k : ScJob} (hj : scOf s j.jid = some j) (hk : scOf (sortRun s t j) j.jid = some k) :
    k.core = (withRuns t (mget j.runs t [] ++ (if buf.isEmpty then [] else [buf.foldr recIns []])) last j).core := by
  obtain ⟨v, hv, -, hsc⟩ := sortRun_eq (s := s) hb hl hdue
  rw [hv] at hk
  refine scOf_scatGo ?_ hk
  rw [scOf_eq_of_jobs (congrArg Scatter.jobs hsc)]
  exact scOf_updSc_self hj (fun _ => rfl)

end

theorem sortRun_waits {s : State} {t : Nat} {j : ScJob} {buf : List Contrib} (hb : mget j.runBuf t [] = buf)
    (hl : (j.expanded && (mget j.flying t []).isEmpty && !j.passed.contains t) = false) (hlt : buf.length < 8192) :
    sortRun s t j = s := by
  unfold sortRun
  simp only [hl, hb]
  exact if_pos (by simp [hlt])

theorem runs_of_sorted {t : Nat} {rs : List (List Contrib)} {last : Bool} {j k : ScJob}
    (h : k.core = (withRuns t rs last j).core) :
    mget k.runs t [] = rs ∧ mget k.runBuf t [] = [] ∧ (last = true → t ∈ k.passed) := by
  rw [ScJob.runs_eq_of_core h, ScJob.runBuf_eq_of_core h, ScJob.passed_eq_of_core h]
  refine ⟨mget_mset_self .., mget_mset_self .., fun hl => ?_⟩
  show t ∈ if last then sins j.passed t else j.passed
  rw [if_pos hl]
  exact (sins_mem ..).2 (.inl rfl)

/-! ### Merging (R188 to R192) -/

theorem foldl_mergeAdd (j : ScJob) (rs : List Contrib) (e : MergeEnt) :
    (rs.foldl (mergeAdd j) e).row = e.row ∧ (rs.foldl (mergeAdd j) e).count = e.count + rs.length := by
  induction rs generalizing e with
  | nil => exact ⟨rfl, rfl⟩
  | cons x rs ih =>
    obtain ⟨hrow, hcount⟩ := ih (mergeAdd j e x)
    refine ⟨hrow, hcount.trans ?_⟩
    rw [List.length_cons]
    show e.count + 1 + rs.length = _
    omega

/-- The entry of a job's next row on a tile, with all the row's records added. -/
def mergedRow (s : State) (t row : Nat) (j : ScJob) : MergeEnt :=
  (rowRecords j t row).foldl (mergeAdd j) (MergeEnt.mk t row (List.replicate (descOf s j.desc).cols 0)
    (List.replicate (descOf s j.desc).cols 0) 0 j.lc)

/-- The row's records have left the runs, and its place the merge queue. -/
def rowTaken (s : State) (t row : Nat) (j : ScJob) : State :=
  tProg (updSc { s with sc := { s.sc with mq := s.sc.mq.erase (t, j.jid) } } j.jid (fun j => { j with
    runs := mset j.runs t ((mget j.runs t []).map (fun r => r.dropWhile (fun y => y.row == row))) })) t
    (rowRecords j t row).length

theorem mergeRow_finite {s : State} {t row : Nat} {j : ScJob} (hn : nextRow j t = some row)
    (hb : mergeBad (mergedRow s t row j) = false) : mergeRow s t j = { rowTaken s t row j with sc := { (rowTaken s t row j).sc with
      entries := s.sc.entries ++ [mergedRow s t row j], entriesJob := s.sc.entriesJob ++ [j.jid] } } := by
  unfold mergeRow
  simp only [hn]
  exact if_neg (Bool.eq_false_iff.1 hb)

/-- A row whose entry is not finite marks its job (R192). -/
def mergePoisoned (s : State) (t row : Nat) (j : ScJob) : State :=
  bump1 (updSc (rowTaken s t row j) j.jid (fun j => { j with poison := true })) (ctrTableScatNonfinite j.desc)

theorem scOf_mergePoisoned {s : State} {t row : Nat} {j : ScJob} (hj : scOf s j.jid = some j) :
    ∃ k, scOf (mergePoisoned s t row j) j.jid = some k ∧ k.poison = true := by
  have h2 : scOf (rowTaken s t row j) j.jid = some _ :=
    scOf_updSc_self (s := { s with sc := { s.sc with mq := s.sc.mq.erase (t, j.jid) } }) hj (fun _ => rfl)
  exact ⟨_, scOf_updSc_self h2 (fun _ => rfl), rfl⟩

theorem mergeRow_bad {s : State} {t row : Nat} {j k : ScJob} (hn : nextRow j t = some row)
    (hb : mergeBad (mergedRow s t row j) = true) (hk : scOf (mergePoisoned s t row j) j.jid = some k) :
    mergeRow s t j = scatGo (if scEmpty (mergePoisoned s t row j) k then
      updSc (mergePoisoned s t row j) j.jid (fun j => { j with lastGo := true, held := false }) else mergePoisoned s t row j) := by
  unfold mergeRow
  simp only [hn]
  refine (if_pos hb).trans ?_
  show (match scOf (mergePoisoned s t row j) j.jid with | some k => _ | none => _) = _
  rw [hk]
  rfl

theorem mergeRow_rc (s : State) (t : Nat) (j : ScJob) (hj : scOf s j.jid = some j) : (mergeRow s t j).rc = s.rc := by
  rcases hn : nextRow j t with _ | row
  · unfold mergeRow
    simp only [hn]
  rcases hb : mergeBad (mergedRow s t row j) with _ | _
  · rw [mergeRow_finite hn hb]
    rfl
  · obtain ⟨k, hk, -⟩ := scOf_mergePoisoned (t := t) (row := row) hj
    rw [mergeRow_bad hn hb hk, (scatOn_scatGo _).frame.rc]
    split <;> rfl

/-- An entry that is not finite is dropped, and its command ends with poison (R192). -/
theorem poison_of_mergeRow_bad {s : State} {t row : Nat} {j m : ScJob} (hj : scOf s j.jid = some j)
    (hn : nextRow j t = some row) (hb : mergeBad (mergedRow s t row j) = true) (hm : scOf (mergeRow s t j) j.jid = some m) :
    m.poison = true := by
  obtain ⟨k, hk, hp⟩ := scOf_mergePoisoned (t := t) (row := row) hj
  rw [mergeRow_bad hn hb hk] at hm
  split at hm
  · have hlast := scOf_updSc_self hk (f := fun j => { j with lastGo := true, held := false }) (fun _ => rfl)
    rw [ScJob.poison_eq_of_core (scOf_scatGo hlast hm)]
    exact hp
  · rw [ScJob.poison_eq_of_core (scOf_scatGo hk hm)]
    exact hp

/-! ### Delivery (R193 to R197, R472) -/

section
variable {s : State} {t k i : Nat} {j : ScJob} {e : MergeEnt} (he : nextEntry s t j.jid = some (i, e))
  (hk : homeComp j.desc (descOf s j.desc) e.row = k) (hheld : ∀ m ∈ s.sc.jobs, m.jid ≠ j.jid → m.held = false)
  (hw : (lyOf s k).outstanding < 128)
include he hk hheld hw

/-- A delivery within its port's window, with no other SCATTER's last one held. -/
theorem deliver_admitted : deliver s t j =
    if !scRows j && (entriesOf s j.jid).length == 1 && !j.lastGo then
      if holdOver s j then scatGo (sendDelivery (updSc s j.jid (fun j => { j with lastGo := true, held := false })) j i e)
      else updSc s j.jid (fun j => { j with held := true })
    else scatGo (sendDelivery s j i e) := by
  have hgo : ¬(s.sc.jobs.any (fun m => m.jid != j.jid && m.held) || decide (128 ≤ (lyOf s k).outstanding)) = true := by
    simp only [Bool.or_eq_true, List.any_eq_true, Bool.and_eq_true, bne_iff_ne, decide_eq_true_eq, not_or, not_exists, not_and]
    exact ⟨fun m hm hne => Bool.eq_false_iff.1 (hheld m hm hne), by omega⟩
  have hdef : @deliver = @deliver := rfl
  conv_rhs at hdef => delta deliver
  rw [hdef]
  simp only [he, hk]
  exact if_neg hgo

end

theorem portUp_setLy {s : State} {k : Nat} {l : Lyush} (h : l.lanes = (lyOf s k).lanes) :
    portUp (setLy s k l) k = portUp s k := by
  show ((lyOf (setLy s k l) k).lanes != 0) = ((lyOf s k).lanes != 0)
  rw [lyOf_setLy_self, h]

/-- A delivery is on its way to a companion whose port is up, and counts in the port's window (R197). -/
theorem lyOf_sendDelivery {s : State} {j : ScJob} {i k : Nat} {e : MergeEnt} (hk : homeComp j.desc (descOf s j.desc) e.row = k)
    (hp : portUp s k = true) : lyOf (sendDelivery s j i e) k = { lyOf s k with
      outstanding := (lyOf s k).outstanding + 1, flying := (lyOf s k).flying ++ [delivery s j e],
      sent := (lyOf s k).sent ++ [deliveryBytes (delivery s j e)] } := by
  have hdef : @sendDelivery = @sendDelivery := rfl
  conv_rhs at hdef => delta sendDelivery
  rw [hdef]
  simp only [hk]
  generalize hv : updSc (bump1 (dropEntry s i) (ctrTableSdeliv j.desc)) j.jid
    (fun j => { j with sent := j.sent + 1, ports := sins j.ports k }) = v
  have hly : lyOf v k = lyOf s k := by rw [← hv]; rfl
  have hup : portUp (setLy v k { lyOf v k with outstanding := (lyOf v k).outstanding + 1 }) k = true := by
    rw [portUp_setLy, ← hp, ← hv]
    · rfl
    · rfl
  rw [if_pos hup, lyOf_setLy_self, lyOf_setLy_self, hly]

/-! ### The events -/

/-- Settles O41, event by event. -/
theorem scatterDataTakeEffect : Obligations.ScatterDataTakeEffect := by
  refine ⟨?gradientIntake, ?gradientSlice, ?expansionUnit, ?contributionRecord, ?runSort, ?mergeEntryGrant, ?deliverySend,
    ?commitHoldRelease⟩
  case gradientIntake =>
    intro s s1 cid b c j x l vs bad hs hc hj hp hb hlt hr hx hread hn hvs hbad
    obtain ⟨tr, ht⟩ := gradIntake_read hc hj hp hb hlt hr hx hread hvs hbad
    obtain ⟨hsc, hcmds⟩ := gradRead_keeps hread
    obtain ⟨hmsc, hmmem, hmrc⟩ := gradMarked_rest s1 cid j.desc bad
    obtain ⟨e, he, hpoison⟩ := cmdOf_gradMarked j.desc bad ((cmdOf_eq_of_cmds hcmds cid).trans hc)
    have hj' : scOfCmd { gradMarked s1 cid j.desc bad with tr := tr } cid = some j :=
      (scOfCmd_eq_of_jobs (congrArg Scatter.jobs (hmsc.trans hsc)) cid).trans hj
    have hk := scOfCmd_updSc_self hj' (f := fun j => { j with
      slab := if bad then j.slab else mset j.slab b ((vs.drop (x.rank * x.cols)).take x.cols),
      excluded := if bad then j.excluded ++ [b] else j.excluded, nextBag := b + 1 }) (fun _ => rfl)
    exact ⟨_, e, _, act_eq_next (f := fun s => gradIntake s cid) hs ht (hmrc ▸ hn), he, hk, hpoison, rfl, hmmem, hmrc⟩
  case gradientSlice =>
    intro s owner tag bag excl vals j hs hn hj hready hbag hlt
    have hgo : (j.ready && bag == j.nextBag && decide (bag < j.nbags)) = true := by simp [hready, hbag.symm, hlt]
    show execGradientSlice owner tag bag excl vals s = _
    unfold execGradientSlice
    refine act_eq_next hs ?_ hn
    simp only [hj]
    exact if_pos hgo
  case expansionUnit =>
    intro s t uid u j hs hu hj hexp hst hbags hr ht hn
    have hgo : (u.expand && u.st == .running && decide (u.bag0 + u.nbags ≤ j.nextBag) && s.pwr.restart != .running) = true := by
      simp [hexp, hst, hbags, hr]
    have hjid := scOf_jid hj
    rw [← hjid] at hj
    refine ⟨?_, ?_, fun k hk => ?_⟩
    · show execExpansionUnit uid s = _
      unfold execExpansionUnit
      refine act_eq_next hs ?_ hn
      simp only [hu, ← hjid, hj]
      exact (if_pos hgo).trans ht.symm
    · rw [ht, ← unitOf_uid hu]
      exact unitOf_expandUnit hj
    · rw [ht, ← hjid] at hk
      exact records_expandUnit hj hk
  case contributionRecord =>
    intro s tile jid n j fl buf hs hn hj hfl hbuf hnum
    refine ⟨fun hsv => ⟨?_, ?_, ?_⟩, fun hsv => ?_⟩
    · show execContributionRecord tile jid s = _
      unfold execContributionRecord
      refine act_eq_next hs ?_ hn
      simp only [hj]
      exact if_pos hsv
    · show execRunSort tile jid s = _
      unfold execRunSort
      refine act_eq_next hs ?_ hn
      simp only [hj]
      exact if_pos hsv
    · show execDeliverySend tile jid s = _
      unfold execDeliverySend
      refine act_eq_next hs ?_ hn
      simp only [hj]
      exact if_neg (by simp [hsv])
    · refine ⟨_, ?_, rfl, ?_⟩
      · show execContributionRecord tile jid s = _
        unfold execContributionRecord
        refine act_eq_next hs ?_ hn
        simp only [hj]
        refine (if_neg (Bool.eq_false_iff.1 hsv)).trans ?_
        subst hfl hbuf hnum
        rw [takeRecords, scOf_jid hj]
      · intro hlen
        rw [List.length_append, List.length_take]
        omega
  case runSort =>
    intro s tile jid j buf last hs hn hj hsv hbuf hlast
    have hjid := scOf_jid hj
    subst hjid
    have hnext {t : State} (h : sortRun s tile j = t) (hn : t.rc.need = []) : exec (.runSort tile j.jid) s = .next t := by
      show execRunSort tile j.jid s = _
      unfold execRunSort
      refine act_eq_next hs ?_ hn
      simp only [hj]
      exact (if_neg (Bool.eq_false_iff.1 hsv)).trans h
    refine ⟨fun hne hdue => ?_, fun he hl => ?_, fun hlt hl => ?_⟩
    · refine ⟨_, buf.foldr recIns [], hnext rfl (by rw [sortRun_rc hbuf hlast hdue, hn]), perm_foldr_recIns buf,
        pairwise_foldr_recIns buf, fun k hk => ?_⟩
      have hk := scOf_sortRun hbuf hlast hdue hj hk
      rw [if_neg (by simpa using hne)] at hk
      exact runs_of_sorted hk
    · refine ⟨_, hnext rfl (by rw [sortRun_rc hbuf hlast (.inr hl), hn]), fun k hk => ?_⟩
      have hk := scOf_sortRun hbuf hlast (.inr hl) hj hk
      rw [he, List.isEmpty_nil, if_pos rfl, List.append_nil] at hk
      obtain ⟨hruns, -, hpass⟩ := runs_of_sorted hk
      exact ⟨hruns, hpass hl⟩
    · exact hnext (sortRun_waits hbuf (hlast.symm.trans hl) hlt) hn
  case mergeEntryGrant =>
    intro s tile jid row j e z hs hn hj hr hrow hz he
    have hjid := scOf_jid hj
    subst hjid hz
    have he : mergedRow s tile row j = e := he.symm
    have hr' : ¬(s.pwr.restart == .running) = true := by simpa using hr
    have hnext (h : mayMerge s tile j = true) (hf : entryFree s tile j.lc = true) :
        exec (.mergeEntryGrant tile j.jid) s = .next (mergeRow s tile j) := by
      show execMergeEntryGrant tile j.jid s = _
      unfold execMergeEntryGrant
      refine act_eq_next hs ?_ (by rw [mergeRow_rc _ _ _ hj, hn])
      simp only [hj]
      exact (if_neg hr').trans (if_pos (by rw [h, hf]; rfl))
    refine ⟨fun hm hf hb => ?_, fun hm hf hb => ?_, fun hno hdue => ?_⟩
    · rw [← he] at hb
      have hmerge := mergeRow_finite hrow hb
      obtain ⟨herow, hcount⟩ := foldl_mergeAdd j (rowRecords j tile row) (MergeEnt.mk tile row
        (List.replicate (descOf s j.desc).cols 0) (List.replicate (descOf s j.desc).cols 0) 0 j.lc)
      refine ⟨_, hnext hm hf, ?_⟩
      rw [hmerge, ← he]
      exact ⟨rfl, rfl, herow, hcount.trans (Nat.zero_add _), rfl⟩
    · rw [← he] at hb
      exact ⟨_, hnext hm hf, fun k hk => poison_of_mergeRow_bad hj hrow hb hk⟩
    · have hno' : ¬(mayMerge s tile j && entryFree s tile j.lc) = true := by
        rcases hno with h | h <;> simp [h]
      have hrc : (mqJoin s tile j.jid).rc = s.rc := by
        unfold mqJoin
        split <;> rfl
      show execMergeEntryGrant tile j.jid s = _
      unfold execMergeEntryGrant
      refine act_eq_next hs ?_ (by rw [hrc, hn])
      simp only [hj]
      exact (if_neg hr').trans ((if_neg hno').trans (if_pos hdue))
  case deliverySend =>
    intro s tile jid i k j e hs hj hub hr hsv he hk hheld hw
    have hjid := scOf_jid hj
    subst hjid
    have hgo : (j.ubatch.isSome && s.pwr.restart != .running && !tileSaved s tile j.lc) = true := by
      simpa [hr, hsv, Option.isSome_iff_ne_none] using hub
    have hnext {t : State} (h : deliver s tile j = t) (hn : t.rc.need = []) :
        exec (.deliverySend tile j.jid) s = .next t := by
      show execDeliverySend tile j.jid s = _
      unfold execDeliverySend
      refine act_eq_next hs ?_ hn
      simp only [hj]
      exact (if_pos hgo).trans h
    have hdel := deliver_admitted he hk hheld hw
    refine ⟨fun t hnot hp ht hn => ?_, fun hrows hlen hgo hhold hn => ?_, fun t hrows hlen hgo hhold ht hn => ?_⟩
    · have hmore : ¬(!scRows j && (entriesOf s j.jid).length == 1 && !j.lastGo) = true := by
        rcases hnot with h | h | h <;> simp [h]
      rw [if_neg hmore] at hdel
      refine ⟨hnext (hdel.trans ht.symm) hn, ?_⟩
      rw [ht, lyOf_scatGo, lyOf_sendDelivery hk hp]
      exact ⟨rfl, rfl⟩
    · have hlast : (!scRows j && (entriesOf s j.jid).length == 1 && !j.lastGo) = true := by simp [hrows, hlen, hgo]
      rw [if_pos hlast, if_neg (Bool.eq_false_iff.1 hhold)] at hdel
      exact hnext hdel hn
    · have hlast : (!scRows j && (entriesOf s j.jid).length == 1 && !j.lastGo) = true := by simp [hrows, hlen, hgo]
      rw [if_pos hlast, if_pos hhold] at hdel
      exact hnext (hdel.trans ht.symm) hn
  case commitHoldRelease =>
    intro s j hs hn hj
    refine ⟨fun h => ?_, fun h => ?_⟩
    all_goals
      show execCommitHoldRelease s = _
      unfold execCommitHoldRelease
      refine act_eq_next hs ?_ hn
      simp only [hj]
    · exact if_pos h
    · exact if_neg (Bool.eq_false_iff.1 h)

end Sys2Proof.Machine
end

section
/-! PROOFS. What the answers to a unit's reads and probes leave of the jobs (R125 to R131, R175): no SCATTER's job changes, and no
LOOKUP's job is new. -/

namespace Sys2Proof.Machine

/-- What names a LOOKUP's job on this rank: its number, and the command that it serves. -/
def LkJob.key (j : LkJob) : Nat × Option Nat × BitVec 12 × Nat := (j.jid, j.cid, j.owner, j.tag)

/-- From `s` to `t` SCATTERs keep their jobs, and no LOOKUP gets one. -/
structure NoNewJob (s t : State) : Prop where
  scats : t.sc.jobs = s.sc.jobs
  keys : t.orr.jobs.map LkJob.key ⊆ s.orr.jobs.map LkJob.key

namespace NoNewJob

variable {s t u : State}

theorem of_eq (hs : t.sc.jobs = s.sc.jobs) (hj : t.orr.jobs = s.orr.jobs) : NoNewJob s t :=
  ⟨hs, by rw [hj]; exact List.Subset.refl _⟩

theorem refl (s : State) : NoNewJob s s := of_eq rfl rfl

theorem trans (h : NoNewJob s t) (k : NoNewJob t u) : NoNewJob s u :=
  ⟨k.scats.trans h.scats, fun _ hx => h.keys (k.keys hx)⟩

theorem foldl {α : Type} {f : State → α → State} (hf : ∀ s a, NoNewJob s (f s a)) (l : List α) (s : State) :
    NoNewJob s (l.foldl f s) := by
  induction l generalizing s with
  | nil => exact refl s
  | cons a l ih => exact (hf s a).trans (ih _)

theorem onlyMem (h : OnlyMem s t) : NoNewJob s t := of_eq (by rw [h.sc]) (by rw [h.orr])

theorem updJob (s : State) (n : Nat) {f : LkJob → LkJob} (hf : ∀ j, (f j).key = j.key) : NoNewJob s (updJob s n f) := by
  refine ⟨rfl, ?_⟩
  have hkey : (Machine.updJob s n f).orr.jobs.map LkJob.key = s.orr.jobs.map LkJob.key := by
    simp only [Machine.updJob, List.map_map]
    refine List.map_congr_left fun j _ => ?_
    simp only [Function.comp_apply]
    split
    · exact hf j
    · rfl
  rw [hkey]
  exact List.Subset.refl _

theorem mem_jobs (h : NoNewJob s t) {k : LkJob} (hk : k ∈ t.orr.jobs) : ∃ j ∈ s.orr.jobs, j.key = k.key :=
  List.mem_map.1 (h.keys (List.mem_map_of_mem hk))

end NoNewJob

/-! ### Single steps -/

theorem noNewJob_updUnit (s : State) (uid : Nat) (f : Unit' → Unit') : NoNewJob s (updUnit s uid f) := NoNewJob.of_eq rfl rfl

theorem noNewJob_updEnt (s : State) (uid i : Nat) (f : RowEnt → RowEnt) : NoNewJob s (updEnt s uid i f) :=
  NoNewJob.of_eq rfl rfl

theorem noNewJob_returnCredits (s : State) (t : Nat) (lc : Bool) (n : Nat) : NoNewJob s (returnCredits s t lc n) :=
  NoNewJob.of_eq rfl rfl

theorem noNewJob_issueRead (s : State) (u : Unit') (lc : Bool) (i n : Nat) : NoNewJob s (issueRead s u lc i n) := by
  unfold issueRead
  simp only []
  split <;> exact NoNewJob.of_eq rfl rfl

theorem noNewJob_notePass (s : State) (t : Nat) : NoNewJob s (notePass s t) := by
  unfold notePass
  split <;> exact NoNewJob.of_eq rfl rfl

theorem noNewJob_probeHint (s : State) (t d row : Nat) (found : Option APlace) :
    NoNewJob s (probeHint s t d row found) := by
  refine NoNewJob.of_eq ?_ (by rw [(sameWork_probeHint s t d row found).orr])
  cases found with
  | some p => rfl
  | none =>
    unfold probeHint hintDrop
    simp only []
    split <;> rfl

theorem noNewJob_countRead (s : State) (j : LkJob) (e : RowEnt) : NoNewJob s (countRead s j e) := by
  obtain ⟨cs, ld, h⟩ := countRead_eq s j e
  rw [h]
  exact NoNewJob.of_eq rfl rfl

theorem cbTouch_sc (s : State) (t id : Nat) (c : Codebook) : (cbTouch s t id c).sc = s.sc := by
  have hr := onlyMem_readExt
  have hdef : @cbTouch = @cbTouch := rfl
  conv_rhs at hdef => delta cbTouch
  obtain ⟨rd, hrd⟩ := exists_eq (a' := @readExt)
  rw [hdef]
  rw [← hrd] at hr ⊢
  simp only [setTile_sc]
  split
  · rfl
  · exact (hr ..).sc

theorem noNewJob_confirmChecks (s : State) (t : Nat) (x : Desc) (b : List Byte) (bad stored fmt : Bool) (k l m : Nat) :
    NoNewJob s (if bad then bump1 s k else bumpIf (bumpIf (cbDecode s t x b) stored l) fmt m) := by
  refine NoNewJob.of_eq ?_ (by rw [(sameWork_confirmChecks s t x b bad stored fmt k l m).orr])
  split
  · rfl
  · rw [bumpIf_sc, bumpIf_sc, cbDecode]
    split
    · rw [cbTouch_sc]
    · rfl

/-! ### Rows that are read again, and data that enter the lanes (R131, R141, R146) -/

theorem noNewJob_findAgain (s : State) (d tile : Nat) (e : RowEnt) : NoNewJob s (findAgain s d tile e).1 := by
  by_cases h : ∀ w, e.src ≠ .kept w
  · rw [findAgain_of_not_kept h]
    exact NoNewJob.refl s
  · obtain ⟨w, hw⟩ : ∃ w, e.src = .kept w := by simpa using h
    have hp := onlyMem_probe s d e.row
    cases hr : probe s d e.row with
    | mk s1 r =>
      rw [hr] at hp
      cases r with
      | none =>
        rw [findAgain_absent hw hr]
        exact (NoNewJob.onlyMem hp).trans (noNewJob_probeHint s1 tile d e.row none)
      | some p =>
        rw [findAgain_found hw hr]
        exact (NoNewJob.onlyMem hp).trans (noNewJob_probeHint s1 tile d e.row (some p))

theorem noNewJob_rereadEnt (s : State) (uid i : Nat) : NoNewJob s (rereadEnt s uid i) := by
  unfold rereadEnt
  split
  · exact NoNewJob.refl s
  next u j _ =>
  split
  · exact NoNewJob.refl s
  next e _ =>
  split
  · exact NoNewJob.refl s
  have hread := (noNewJob_findAgain s j.desc u.tile e).trans
    (NoNewJob.onlyMem (onlyMem_quietRead _ j.desc u.tile e.row (findAgain s j.desc u.tile e).2))
  simp only
  split
  · refine NoNewJob.trans ?_ (noNewJob_countRead ..)
    refine NoNewJob.trans ?_ (NoNewJob.onlyMem (onlyMem_reRise ..))
    exact hread.trans (noNewJob_updEnt ..)
  · exact hread.trans (noNewJob_updEnt ..)

theorem noNewJob_rereadAll (s : State) (uid : Nat) (is : List Nat) : NoNewJob s (rereadAll s uid is) := by
  unfold rereadAll
  split
  · exact NoNewJob.refl s
  · exact NoNewJob.foldl (fun t i => noNewJob_rereadEnt t uid i) _ s

theorem noNewJob_rebuildAt (s : State) (uid bag k : Nat) : NoNewJob s (rebuildAt s uid bag k) := by
  unfold rebuildAt
  split
  · exact NoNewJob.refl s
  · exact noNewJob_updUnit ..

theorem noNewJob_enterOne (s : State) (uid pos : Nat) : NoNewJob s (enterOne s uid pos) := by
  unfold enterOne
  split
  · exact NoNewJob.refl s
  split
  · exact NoNewJob.refl s
  split
  · exact NoNewJob.refl s
  simp only
  split
  · exact NoNewJob.refl s
  refine NoNewJob.trans ?_ (NoNewJob.onlyMem (onlyMem_bumpIf ..))
  refine NoNewJob.trans ?_ (noNewJob_rebuildAt ..)
  refine NoNewJob.trans ?_ (noNewJob_updUnit ..)
  split
  · exact noNewJob_rereadAll ..
  · exact NoNewJob.refl s

theorem noNewJob_enterReady (s : State) (uid : Nat) : NoNewJob s (enterReady s uid) := by
  unfold enterReady
  split
  · exact NoNewJob.refl s
  split
  · exact NoNewJob.refl s
  · exact NoNewJob.foldl (fun t p => noNewJob_enterOne t uid p) _ s

theorem noNewJob_enterAndPass (s : State) (uid t : Nat) : NoNewJob s (notePass (enterReady s uid) t) :=
  (noNewJob_enterReady s uid).trans (noNewJob_notePass ..)

/-! ### Confirmation (R129, R130) -/

theorem noNewJob_weightsTake (s : State) (uid d : Nat) (ps : List PosRec) : NoNewJob s (weightsTake s uid d ps) :=
  NoNewJob.of_eq rfl rfl

theorem noNewJob_confirmEnt (s : State) (uid i : Nat) : NoNewJob s (confirmEnt s uid i) := by
  unfold confirmEnt
  split
  · exact NoNewJob.refl s
  next u j _ =>
  split
  · exact NoNewJob.refl s
  next e _ =>
  split
  · exact NoNewJob.refl s
  split
  · exact NoNewJob.refl s
  have hdefer := (NoNewJob.foldl (f := fun t l => reRise t e.win true l)
    (fun t l => NoNewJob.onlyMem (onlyMem_reRise t e.win true l)) e.defer s).trans
      (NoNewJob.onlyMem (onlyMem_bump _ (ctrTilePoolRescale u.tile) ((servedBy u i).filter (fun p => p.raised)).length))
  simp only
  split
  · exact ((hdefer.trans (NoNewJob.onlyMem (onlyMem_bump ..))).trans (noNewJob_updEnt ..)).trans
      (NoNewJob.updJob _ _ (fun _ => rfl))
  · exact ((hdefer.trans (noNewJob_confirmChecks ..)).trans (noNewJob_updEnt ..)).trans (noNewJob_weightsTake ..)

/-! ### A probe's return (R88, R89, R131, R263) -/

theorem noNewJob_discardSpec (s : State) (uid i : Nat) (e : RowEnt) : NoNewJob s (discardSpec s uid i e) := by
  unfold discardSpec
  split
  · exact NoNewJob.refl s
  next u j _ =>
  simp only
  refine NoNewJob.trans ?_ (NoNewJob.onlyMem (onlyMem_bump ..))
  refine NoNewJob.trans ?_ (NoNewJob.foldl (fun t (g : Sys2Proof.Machine.Grp) => noNewJob_rebuildAt t uid g.bag g.k) _ _)
  refine NoNewJob.trans ?_ (noNewJob_rereadAll ..)
  exact (noNewJob_updUnit ..).trans (NoNewJob.foldl (fun t l => NoNewJob.onlyMem (onlyMem_reRise t s.load.mwNum false l)) _ _)

theorem noNewJob_placeRow (s : State) (u : Unit') (j : LkJob) (uid i : Nat) (e : RowEnt) (found : Option APlace) :
    NoNewJob s (placeRow s u j uid i e found) :=
  ((noNewJob_updEnt ..).trans (NoNewJob.onlyMem (onlyMem_bumpIf ..))).trans (noNewJob_issueRead ..)

theorem noNewJob_afterProbe (s : State) (uid i : Nat) (found : Option APlace) : NoNewJob s (afterProbe s uid i found) := by
  rcases hrun : runningLk s uid with _ | ⟨u, j⟩
  · simp only [afterProbe, hrun]
    exact NoNewJob.refl s
  rcases he : u.ents[i]? with _ | e
  · simp only [afterProbe, hrun, he]
    exact NoNewJob.refl s
  rcases afterProbe_eq hrun he found with h | h <;> rw [h]
  · exact noNewJob_placeRow ..
  · exact (noNewJob_placeRow ..).trans (noNewJob_countRead ..)

theorem noNewJob_specConfirm (s : State) (u : Unit') (j : LkJob) (i : Nat) (e : RowEnt) :
    NoNewJob s (specConfirm s u j i e) := by
  have hcount := ((noNewJob_updEnt s u.uid i (fun _ => { e with probe := .found, win := s.load.mwNum })).trans
    (NoNewJob.onlyMem (onlyMem_bump1 _ (ctrTileSpecConfirmed u.tile)))).trans
      (NoNewJob.foldl (fun t (_ : Nat) => noNewJob_countRead t j { e with probe := .found, win := s.load.mwNum })
        (List.range (max 1 e.defer.length)) _)
  unfold specConfirm
  simp only
  split
  · exact hcount.trans (noNewJob_confirmEnt ..)
  · exact hcount

theorem noNewJob_specMiss (s : State) (u : Unit') (i : Nat) (e : RowEnt) (found : Option APlace) :
    NoNewJob s (specMiss s u i e found) := by
  have hbump := NoNewJob.onlyMem (onlyMem_bump1 s (ctrTileSpecMismatch u.tile))
  unfold specMiss
  simp only
  refine NoNewJob.trans (hbump.trans ?_) (noNewJob_afterProbe ..)
  split
  · exact noNewJob_discardSpec ..
  · exact noNewJob_updEnt ..

theorem noNewJob_probeSettled (s : State) (uid : Nat) (u : Unit') (j : LkJob) (i : Nat) (e : RowEnt) (found : Option APlace) :
    NoNewJob s (probeSettled s uid u j i e found) := by
  unfold probeSettled
  split
  · exact noNewJob_updEnt ..
  split
  · split
    · exact noNewJob_specConfirm ..
    · exact noNewJob_specMiss ..
  · exact noNewJob_afterProbe ..

theorem probeBack_idle {s : State} {uid i : Nat} {u : Unit'} {j : LkJob} {e : RowEnt}
    (hrun : runningLk s uid = some (u, j)) (he : u.ents[i]? = some e) (h : (e.probe != .pending || e.queued) = true) :
    probeBack s uid i = s := by
  have hdef : @probeBack = @probeBack := rfl
  conv_rhs at hdef => delta probeBack
  obtain ⟨find, hfind⟩ := exists_eq (a' := @probe)
  rw [hdef]
  rw [← hfind]
  simp only [hrun, he]
  exact if_pos h

theorem noNewJob_probeBack (s : State) (uid i : Nat) : NoNewJob s (probeBack s uid i) := by
  rcases hrun : runningLk s uid with _ | ⟨u, j⟩
  · rw [probeBack, hrun]
    exact NoNewJob.refl s
  rcases he : u.ents[i]? with _ | e
  · simp only [probeBack, hrun, he]
    exact NoNewJob.refl s
  cases hgo : e.probe != .pending || e.queued with
  | true => rw [probeBack_idle hrun he hgo]; exact NoNewJob.refl s
  | false =>
    obtain ⟨hp, hq⟩ : e.probe = .pending ∧ e.queued = false := by simpa using hgo
    have hmem := onlyMem_probe s j.desc e.row
    cases hprobe : probe s j.desc e.row with
    | mk s1 found =>
      rw [hprobe] at hmem
      rw [probeBack_eq hrun he hp hq hprobe]
      refine NoNewJob.trans ?_ (noNewJob_enterAndPass ..)
      refine NoNewJob.trans ?_ (noNewJob_probeSettled ..)
      refine NoNewJob.trans ?_ (noNewJob_probeHint ..)
      exact (NoNewJob.onlyMem hmem).trans (NoNewJob.of_eq rfl rfl)

/-! ### Arrival of a row's data (R124, R129 to R131, R155) -/

theorem noNewJob_lateArrive (s : State) (u : Unit') (j : LkJob) (i : Nat) (e : RowEnt) (src : RowSrc) (win : W32) :
    NoNewJob s (lateArrive s u j i e src win) :=
  (NoNewJob.onlyMem ((onlyMem_quietRead s j.desc u.tile e.row src).trans
    (onlyMem_reRise _ win false (quietRead s j.desc u.tile e.row src).2.2.2))).trans (NoNewJob.of_eq rfl rfl)

theorem noNewJob_dataTaken (s : State) (j : LkJob) (uid i : Nat) (e : RowEnt) (l : List (Nat × Nat)) :
    NoNewJob s (dataTaken s j uid i e l) := by
  unfold dataTaken
  split
  · exact noNewJob_updEnt ..
  · refine NoNewJob.trans ?_ (noNewJob_confirmEnt ..)
    refine NoNewJob.trans ((noNewJob_updEnt s uid i (fun _ => e)).trans (NoNewJob.onlyMem (onlyMem_reRise _ e.win true l))) ?_
    split
    · exact noNewJob_countRead ..
    · exact NoNewJob.refl _

theorem noNewJob_rowArrive (s : State) (uid i : Nat) : NoNewJob s (rowArrive s uid i) := by
  rcases hrun : runningLk s uid with _ | ⟨u, j⟩
  · rw [rowArrive, hrun]
    exact NoNewJob.refl s
  rcases he : u.ents[i]? with _ | e
  · simp only [rowArrive, hrun, he]
    exact NoNewJob.refl s
  rcases hl : e.late with _ | ⟨src, win⟩
  · cases hgo : e.queued || e.data.isSome || e.src == .none || stageFull j u e with
    | true =>
      simp only [rowArrive, hrun, he, hl, hgo]
      exact NoNewJob.refl s
    | false =>
      obtain ⟨⟨⟨hq, hd⟩, hsrc⟩, hst⟩ : ((e.queued = false ∧ e.data = none) ∧ e.src ≠ .none) ∧ stageFull j u e = false := by
        simpa using hgo
      have hmem := onlyMem_rowRead s j.desc u.tile e.row e.src
      rcases hread : rowRead s j.desc u.tile e.row e.src with ⟨s1, b, bad⟩
      rw [hread] at hmem
      rw [rowArrive_eq hrun he hl hq hd hsrc hst hread]
      refine NoNewJob.trans ?_ (noNewJob_enterAndPass ..)
      refine NoNewJob.trans ?_ (noNewJob_dataTaken ..)
      exact (NoNewJob.onlyMem (hmem.trans (onlyMem_ctrs _ _))).trans (noNewJob_returnCredits ..)
  · rw [rowArrive_late hrun he hl]
    exact (noNewJob_lateArrive ..).trans (noNewJob_notePass ..)

/-! ### A job drains and leaves (R175) -/

theorem noNewJob_drainUnit (s : State) (uid : Nat) : NoNewJob s (drainUnit s uid) := by
  unfold drainUnit
  extract_lets n s1 s2
  have hprobes : NoNewJob s s1 := NoNewJob.foldl (fun t i => noNewJob_probeBack t uid i) _ s
  have hreads : NoNewJob s1 s2 :=
    NoNewJob.foldl (fun t i => (noNewJob_rowArrive t uid i).trans (noNewJob_rowArrive _ uid i)) _ s1
  exact (hprobes.trans hreads).trans (NoNewJob.of_eq rfl rfl)

theorem noNewJob_drainJob (s : State) (jid : Nat) : NoNewJob s (drainJob s jid) :=
  NoNewJob.foldl (fun t (u : Unit') => noNewJob_drainUnit t u.uid) _ s

theorem noNewJob_dropLookup (s : State) (j : LkJob) (ok : Bool) : NoNewJob s (dropLookup s j ok) :=
  ⟨rfl, List.map_subset _ (List.filter_subset_self _)⟩

theorem noNewJob_releaseMap (s : State) (id : BitVec 16) : NoNewJob s (releaseMap s id) := NoNewJob.of_eq rfl rfl

/-- Each of the jobs drains, and leaves with its units. -/
def drainAll (s : State) (js : List LkJob) : State := js.foldl (fun t j => dropLookup (drainJob t j.jid) j false) s

theorem noNewJob_drainAll (js : List LkJob) (s : State) : NoNewJob s (drainAll s js) :=
  NoNewJob.foldl (fun t (j : LkJob) => (noNewJob_drainJob t j.jid).trans (noNewJob_dropLookup _ j false)) js s

theorem drainAll_leave {js : List LkJob} {s : State} {j k : LkJob} (hj : j ∈ js) (hk : k ∈ (drainAll s js).orr.jobs) :
    k.jid ≠ j.jid := by
  induction js generalizing s with
  | nil => simp at hj
  | cons a js ih =>
    rcases List.mem_cons.1 hj with rfl | hj
    · obtain ⟨i, hi, hkey⟩ := (noNewJob_drainAll js (dropLookup (drainJob s j.jid) j false)).mem_jobs hk
      have hjid : i.jid = k.jid := congrArg Prod.fst hkey
      have hi : i ∈ (drainJob s j.jid).orr.jobs.filter (fun k => k.jid != j.jid) := hi
      rw [← hjid]
      simpa using (List.mem_filter.1 hi).2
    · exact ih hj hk

end Sys2Proof.Machine
end

section
/-! PROOFS. SCATTER between its owner and the ranks (R175 to R178, R200 to R202, R278). -/

namespace Sys2Proof.Machine

/-! ### Space in the pool (R177) -/

theorem scatOn_takeReady (s : State) (cid rank : Nat) : ScatOn s (takeReady s cid rank) := by
  unfold takeReady
  split
  next c j hc _ =>
    simp only []
    split
    · exact ScatOn.refl s
    next hgo =>
      refine ScatOn.updCmd (fun e he => ?_) ?_
      · obtain rfl : c = e := by simpa using hc.symm.trans he
        intro hp
        simp [hp] at hgo
      · exact fun _ => rfl
  · exact ScatOn.refl s

theorem takeReady_sc (s : State) (cid rank : Nat) : (takeReady s cid rank).sc = s.sc := by
  unfold takeReady
  split
  · simp only []
    split <;> rfl
  · rfl

theorem sendMsg_sc (s : State) (cls mt : Nat) (dst : BitVec 12) (tag arg : Nat) (l : List (Byte × Bool)) :
    (sendMsg s cls mt dst tag arg l).sc = s.sc := by
  obtain ⟨tr, h⟩ := sendMsg_tr s cls mt dst tag arg l
  rw [h]

theorem scatOn_addUnits (s : State) (jid : Nat) (expand : Bool) (off : List Nat) : ScatOn s (addUnits s jid expand off) :=
  ⟨⟨_, _, _, _, _, _, _, rfl⟩, (ScatOn.refl s).job, fun _ _ h _ => h⟩

theorem scatOn_scReady (s : State) (j : ScJob) : ScatOn s (scReady s j) := by
  have hunits : ScatOn s (addUnits (updSc s j.jid (fun j => { j with ready := true })) j.jid true j.off) :=
    (ScatOn.updSc s j.jid (f := fun j => { j with ready := true }) (fun _ => rfl)).trans (scatOn_addUnits ..)
  unfold scReady
  simp only []
  split
  · exact hunits.trans (scatOn_takeReady ..)
  · exact hunits.trans (scatOn_sendMsg ..)

theorem scReady_sc (s : State) (j : ScJob) : (scReady s j).sc = (updSc s j.jid (fun j => { j with ready := true })).sc := by
  unfold scReady
  simp only []
  split
  · exact takeReady_sc ..
  · exact sendMsg_sc ..

/-- From `s` to `t` jobs have got pool space, which sends their READY and cuts their units. -/
structure PoolOn (s t : State) : Prop where
  on : ScatOn s t
  sc : ∃ js, t.sc = { s.sc with jobs := js }
  kept : ∀ j ∈ s.sc.jobs, j ∈ t.sc.jobs ∨ { j with ready := true } ∈ t.sc.jobs

namespace PoolOn

variable {s t u : State}

theorem refl (s : State) : PoolOn s s := ⟨ScatOn.refl s, ⟨_, rfl⟩, fun _ h => .inl h⟩

theorem trans (h : PoolOn s t) (k : PoolOn t u) : PoolOn s u where
  on := h.on.trans k.on
  sc := by
    obtain ⟨_, hs⟩ := h.sc
    obtain ⟨js, ht⟩ := k.sc
    exact ⟨js, by rw [ht, hs]⟩
  kept j hj := by
    rcases h.kept j hj with hj | hj
    · exact k.kept j hj
    · exact .inr ((k.kept _ hj).elim id id)

end PoolOn

theorem mem_updSc {s : State} {j : ScJob} (h : j ∈ s.sc.jobs) (n : Nat) (f : ScJob → ScJob) :
    (if j.jid = n then f j else j) ∈ (updSc s n f).sc.jobs :=
  List.mem_map_of_mem (f := fun k : ScJob => if k.jid = n then f k else k) h

theorem poolOn_scReady (s : State) (j : ScJob) : PoolOn s (scReady s j) where
  on := scatOn_scReady s j
  sc := ⟨_, scReady_sc s j⟩
  kept k hk := by
    rw [scReady_sc]
    have hmem := mem_updSc hk j.jid (fun j => { j with ready := true })
    split at hmem
    · exact .inr hmem
    · exact .inl hmem

theorem poolOn_poolGo (n : Nat) (s : State) : PoolOn s (poolGo n s) := by
  induction n generalizing s with
  | zero => exact PoolOn.refl s
  | succ n ih =>
    unfold poolGo
    split
    · exact PoolOn.refl s
    · split
      · exact (poolOn_scReady s _).trans (ih _)
      · exact PoolOn.refl s

theorem poolOn_poolServe (s : State) : PoolOn s (poolServe s) := poolOn_poolGo ..

section
variable {s : State} {j : ScJob} (hj : s.sc.jobs.find? (fun j => !j.ready) = some j)
include hj

/-- The oldest request without pool space gets it when it fits. -/
theorem poolServe_fits (h : poolUsed s + j.bytes ≤ (layoutOf s).scat) : PoolOn (scReady s j) (poolServe s) := by
  have hmem : j ∈ s.sc.jobs := List.mem_of_find?_eq_some hj
  obtain ⟨n, hn⟩ : ∃ n, s.sc.jobs.length = n + 1 := Nat.exists_eq_succ_of_ne_zero (List.length_pos_of_mem hmem).ne'
  rw [poolServe, hn, poolGo, hj]
  simp only [if_pos h]
  exact poolOn_poolGo n (scReady s j)

theorem poolServe_full (h : (layoutOf s).scat < poolUsed s + j.bytes) : poolServe s = s := by
  unfold poolServe
  cases s.sc.jobs.length with
  | zero => rfl
  | succ n =>
    rw [poolGo, hj]
    exact if_neg (Nat.not_le.2 h)

theorem mem_scReady : { j with ready := true } ∈ (scReady s j).sc.jobs := by
  have hmem := mem_updSc (List.mem_of_find?_eq_some hj) j.jid (fun j => { j with ready := true })
  rwa [if_pos rfl, ← scReady_sc] at hmem

end

/-! ### A refused command (R175) -/

theorem scCancelAll_tr (s : State) (cid d : Nat) : ∃ tr, scCancelAll s cid d = { s with tr := tr } :=
  foldl_tr (fun _ _ => sendMsg_tr ..) _ s

/-- A command ends with status 0x40 once it has given up its job. -/
theorem takeRefuse_eq (s : State) (cid d : Nat) : ∃ v, takeRefuse s cid d = scatGo (failCmd v cid 0x40) ∧ ScatFrame s v ∧
    v.orr.cmds = s.orr.cmds ∧ ∀ j, scOfCmd s cid = some j → scOf v j.jid = none := by
  obtain ⟨tr, htr⟩ := scCancelAll_tr s cid d
  have hjob : scOfCmd { s with tr := tr } cid = scOfCmd s cid := rfl
  unfold takeRefuse
  rw [htr]
  simp only [hjob]
  cases hj : scOfCmd s cid with
  | none => exact ⟨_, rfl, ScatFrame.of_tr ⟨tr, rfl⟩, rfl, by simp⟩
  | some j =>
    refine ⟨_, rfl, (ScatFrame.of_tr ⟨tr, rfl⟩).trans (scatFrame_dropScat _ j), dropScat_cmds _ j, ?_⟩
    rintro k ⟨⟩
    exact scOf_dropScat_self _ j

theorem scatFrame_failCmd (s : State) (cid : Nat) (st : BitVec 8) : ScatFrame s (failCmd s cid st) :=
  ⟨_, _, _, _, _, _, _, rfl⟩

theorem scatFrame_takeRefuse (s : State) (cid d : Nat) : ScatFrame s (takeRefuse s cid d) := by
  obtain ⟨v, h, hv, -, -⟩ := takeRefuse_eq s cid d
  rw [h]
  exact (hv.trans (scatFrame_failCmd v cid 0x40)).trans (scatOn_scatGo _).frame

theorem cmdOf_takeRefuse {s : State} {cid : Nat} {c : Cmd} (hc : cmdOf s cid = some c) (d : Nat) :
    cmdOf (takeRefuse s cid d) cid =
      some { c with phase := .done, fail := c.fail.orElse (fun _ => some 0x40), ended := true } := by
  obtain ⟨v, h, -, hcmds, -⟩ := takeRefuse_eq s cid d
  have hv : cmdOf v cid = some c := (cmdOf_eq_of_cmds hcmds cid).trans hc
  rw [h]
  exact (scatOn_scatGo _).ended cid _ (cmdOf_failCmd_self 0x40 hv) rfl

theorem scOf_takeRefuse {s : State} {cid : Nat} {j : ScJob} (hj : scOfCmd s cid = some j) (d : Nat) :
    scOf (takeRefuse s cid d) j.jid = none := by
  obtain ⟨v, h, -, -, hv⟩ := takeRefuse_eq s cid d
  rw [h, scOf_eq_none_iff]
  exact (scatOn_scatGo _).jid_ne (hv j hj)

/-! ### SCATTER on its owner (R175, R278) -/

theorem phase_of_mayStart {s : State} {c : Cmd} (h : mayStart s c = true) : c.phase = .fetched := by
  simp only [mayStart, Bool.and_eq_true, beq_iff_eq] at h
  obtain ⟨⟨⟨hp, -⟩, -⟩, -⟩ := h
  exact hp

/-- A command that goes on to the ranks: its stream is bound, and it has its place in the order of SCATTERs. -/
def scStart (s : State) (c : Cmd) (d : Nat) : State :=
  let u := updCmd (scBind s c) c.cid (fun c => { c with phase := .waiting, bound := none, plan := d, ord := s.sc.nextOrd })
  { u with sc := { u.sc with nextOrd := u.sc.nextOrd + 1 } }

theorem scBind_str (s : State) (c : Cmd) : ∃ y, scBind s c = { s with str := y } := by
  unfold scBind
  split <;> exact ⟨_, rfl⟩

theorem scStart_rc (s : State) (c : Cmd) (d : Nat) : (scStart s c d).rc = s.rc := by
  obtain ⟨y, hy⟩ := scBind_str s c
  simp only [scStart, hy]
  rfl

theorem cmdOf_scStart {s : State} {cid : Nat} {c : Cmd} (hc : cmdOf s cid = some c) (d : Nat) :
    cmdOf (scStart s c d) cid = some { c with phase := .waiting, bound := none, plan := d, ord := s.sc.nextOrd } := by
  obtain ⟨y, hy⟩ := scBind_str s c
  have hcid := cmdOf_cid hc
  have hupd := cmdOf_updCmd_self { s with str := y } cid
    (fun c => { c with phase := .waiting, bound := none, plan := d, ord := s.sc.nextOrd }) (fun _ => rfl)
  subst hcid
  simp only [scStart, hy]
  exact hupd.trans (congrArg (Option.map _) hc)

theorem scStart_nextJid (s : State) (c : Cmd) (d : Nat) : (scStart s c d).sc.nextJid = s.sc.nextJid := by
  obtain ⟨y, hy⟩ := scBind_str s c
  simp only [scStart, hy]
  rfl

section
variable {s : State} {c : Cmd}

theorem scRun_held (hm : mayStart s c = true) (h : swapHeld s (c.f 0 8 12) = true) : scRun s c = s := by
  unfold scRun
  exact if_pos (by rw [phase_of_mayStart hm, h]; rfl)

theorem stream_free (h : scGsrc c = false ∨ mayBind s (scStream c) c.cid = true) :
    ¬ (scGsrc c && !mayBind s (scStream c) c.cid) = true := by
  rcases h with h | h <;> simp [h]

variable (hsw : swapHeld s (c.f 0 8 12) = false)
include hsw

theorem swap_waits_not : ¬ (c.phase == .fetched && swapHeld s (c.f 0 8 12)) = true := by simp [hsw]

theorem scRun_unresolved (h : scResolve s c = none) : scRun s c = failCmd s c.cid 0x40 := by
  unfold scRun
  rw [if_neg (swap_waits_not hsw), h]

variable {d : Nat} {x : Desc} (hres : scResolve s c = some (d, x))
include hres

theorem scRun_uncovered (h : scExtents s c x = false) : scRun s c = failCmd s c.cid 0x11 := by
  unfold scRun
  rw [if_neg (swap_waits_not hsw), hres]
  exact if_pos (by simp [h])

variable (hext : scExtents s c x = true)
include hext

theorem scRun_stream_taken (hg : scGsrc c = true) (hb : mayBind s (scStream c) c.cid = false) : scRun s c =
    updCmd s c.cid (fun c => { c with phase := .waiting, bound := some (scStream c) }) := by
  unfold scRun
  rw [if_neg (swap_waits_not hsw), hres]
  exact (if_neg (by simp [hext])).trans (if_pos (by simp [hg, hb]))

variable (hbind : scGsrc c = false ∨ mayBind s (scStream c) c.cid = true)
include hbind

theorem scRun_kept_map (hsup : scSupplied c = false) : scRun s c = scSend (scStart s c d) c x [] := by
  unfold scRun
  rw [if_neg (swap_waits_not hsw), hres]
  exact (if_neg (by simp [hext])).trans ((if_neg (stream_free hbind)).trans (if_pos (by simp [hsup])))

theorem scRun_supplied {s1 : State} {ns : List (Nat × Bool)} (hsup : scSupplied c = true) (hoff : scOffsets s c = (s1, ns))
    (hn : s1.rc.need = []) : scRun s c =
      if ns.any (fun v => v.2) || !offsetsOk (ns.map (fun v => v.1)) (scNidx c) then failCmd s c.cid 0x40
      else if x.log2s = 0 then scSend (scStart s1 c d) c x (ns.map (fun v => v.1))
      else foAsk (scStart s1 c d) x c.cid (scListBytes c x) := by
  unfold scRun
  rw [if_neg (swap_waits_not hsw), hres]
  refine (if_neg (by simp [hext])).trans ((if_neg (stream_free hbind)).trans ((if_neg (by simp [hsup])).trans ?_))
  rw [hoff]
  exact if_neg (by simp [hn])

end

/-! ### Requests at a rank (R175 to R178) -/

theorem foAsk_rc (s : State) (x : Desc) (cid n : Nat) : (foAsk s x cid n).rc = s.rc := by
  obtain ⟨tr, h⟩ : ∃ tr, foAsk s x cid n = { s with tr := tr } := foldl_tr (fun _ _ => sendMsg_tr ..) _ s
  rw [h]

/-- The request of a table that is not split goes to this rank alone. -/
theorem scSend_unsplit {s : State} {c : Cmd} {x : Desc} (hsup : scSupplied c = false) (hx : x.log2s = 0) (off : List Nat) :
    scSend s c x off = scRequest s (scReq s c x ⟨[], [], [], []⟩) (some c.cid) := by
  have hranks : otherRanks s x = [] := if_pos hx
  unfold scSend
  simp only [hranks, List.foldl_nil, hsup]
  rfl

theorem cmds_scatRelease (s : State) (id : BitVec 16) : (scatRelease s id).orr.cmds = s.orr.cmds := by
  unfold scatRelease
  split <;> rfl

/-- The owner's own rank refuses its request: the command ends with status 0x40. -/
theorem scRequest_refused {s : State} {r : ScatReq} {cid : Nat} {c : Cmd} (h : reqServe s r = none) (hc : cmdOf s cid = some c) :
    ∃ e, cmdOf (scRequest s r (some cid)) cid = some e ∧ e.phase = .done ∧ e.fail = c.fail.orElse (fun _ => some 0x40) := by
  unfold scRequest
  rw [h]
  refine ⟨_, cmdOf_takeRefuse (c := c) ((cmdOf_eq_of_cmds ?_ cid).trans hc) _, rfl, rfl⟩
  split
  · exact cmds_scatRelease ..
  · rfl

/-- A rank's job for a request that it serves, before it looks for pool space. -/
def scTaken (s : State) (j : ScJob) : State :=
  { s with sc := { s.sc with
      jobs := s.sc.jobs ++ [j], nextJid := s.sc.nextJid + 1, nextOrd := s.sc.nextOrd + 1,
      maps := s.sc.maps.map (fun k => if some k.id = j.mapId then { k with readers := k.readers + 1 } else k) } }

theorem scRequest_served {s : State} {r : ScatReq} {d : Nat} {x : Desc} {m : Option BagMap} (h : reqServe s r = some (d, x, m))
    (cid : Option Nat) : scRequest s r cid = poolServe (scTaken s (scJob s r cid d x m)) := by
  unfold scRequest
  rw [h]
  rfl

/-- A rank that serves a request has a job for it. -/
theorem scRequest_job {s : State} {r : ScatReq} {d : Nat} {x : Desc} {m : Option BagMap} (h : reqServe s r = some (d, x, m))
    (cid : Option Nat) : ∃ j ∈ (scRequest s r cid).sc.jobs, j.jid = s.sc.nextJid ∧ j.cid = cid ∧ j.owner = r.owner ∧
      j.tag = r.tag ∧ j.desc = d ∧ j.nbags = r.nbags := by
  rw [scRequest_served h]
  have hmem : scJob s r cid d x m ∈ (scTaken s (scJob s r cid d x m)).sc.jobs := List.mem_append_right _ List.mem_cons_self
  rcases (poolOn_poolServe _).kept _ hmem with hk | hk <;> exact ⟨_, hk, rfl, rfl, rfl, rfl, rfl, rfl⟩

theorem scRequest_rest {s : State} {r : ScatReq} {v : Nat × Desc × Option BagMap} (h : reqServe s r = some v)
    (cid : Option Nat) : ScatFrame s (scRequest s r cid) ∧ (scRequest s r cid).sc.nextJid = s.sc.nextJid + 1 := by
  rw [scRequest_served h]
  have hpool := poolOn_poolServe (scTaken s (scJob s r cid v.1 v.2.1 v.2.2))
  obtain ⟨js, hsc⟩ := hpool.sc
  exact ⟨ScatFrame.trans ⟨_, _, _, _, _, _, _, rfl⟩ hpool.on.frame, by rw [hsc]; rfl⟩

theorem scRequest_refuses_owner {s : State} {r : ScatReq} (h : reqServe s r = none) (hr : r.release = false) :
    scRequest s r none = foServe (sendMsg { bump1 s ctrChipScatRefused with tr := { s.tr with
      foRes := s.tr.foRes.filter (fun e => !(e.owner == r.owner && e.tag == r.tag)) } } clsCtl mtRefuse r.owner r.tag 0 []) := by
  unfold scRequest
  rw [h, hr]
  rfl

/-! ### The ranks' answers (R175) -/

theorem scAwaits_eq_some {s : State} {cid : Nat} {c : Cmd} {j : ScJob} (h : scAwaits s cid = some (c, j)) :
    cmdOf s cid = some c ∧ scOfCmd s cid = some j ∧ c.phase = .waiting := by
  unfold scAwaits at h
  split at h
  next e k he hk =>
    split at h
    next hgo =>
      obtain ⟨rfl, rfl⟩ := Prod.mk.inj (Option.some.inj h)
      simp only [Bool.and_eq_true, beq_iff_eq] at hgo
      obtain ⟨-, hp⟩ := hgo
      exact ⟨he, hk, hp⟩
    · simp at h
  · simp at h

theorem takeReady_eq {s : State} {cid rank : Nat} {c : Cmd} {j : ScJob} (hc : cmdOf s cid = some c) (hj : scOfCmd s cid = some j)
    (hp : c.phase = .waiting) (hr : rank < (descOf s j.desc).ranks) : takeReady s cid rank = updCmd s cid (fun d => { d with
      ranks := sins c.ranks rank,
      phase := if (List.range (descOf s j.desc).ranks).all (fun k => (sins c.ranks rank).contains k) then .running
        else d.phase }) := by
  simp only [takeReady, hc, hj]
  refine if_neg ?_
  simp [hp, hr]

/-! ### CANCEL (R175) -/

/-- The rank holds no fan-out space for the command, and asks for none. -/
def foDropped (s : State) (owner : BitVec 12) (tag : Nat) : State :=
  { s with tr := { s.tr with foRes := s.tr.foRes.filter (fun r => !(r.owner == owner && r.tag == tag)),
                             foWait := s.tr.foWait.filter (fun r => !(r.owner == owner && r.tag == tag)) } }

/-- The rank's LOOKUPs of the command have drained and left. -/
def lookupsDropped (s : State) (owner : BitVec 12) (tag : Nat) : State :=
  drainAll (foDropped s owner tag) (s.orr.jobs.filter (fun j => j.cid.isNone && j.owner == owner && j.tag == tag))

/-- What CANCEL does to a rank before it looks for a SCATTER: the maps that ended LOOKUPs of the command left go too. -/
def cancelled (s : State) (owner : BitVec 12) (tag : Nat) : State :=
  ((lookupsDropped s owner tag).sc.maps.filter (fun m => m.owner == owner && m.tag == tag && m.owner != s.mer.fabric)).foldl
    (fun t m => releaseMap t m.id) (lookupsDropped s owner tag)

theorem scCancel_eq (s : State) (owner : BitVec 12) (tag : Nat) : scCancel s owner tag =
    match (cancelled s owner tag).sc.jobs.find? (fun j => j.cid.isNone && j.owner == owner && j.tag == tag) with
    | some j => scatGo (poolServe (foServe (dropScat (cancelled s owner tag) j)))
    | none => foServe (cancelled s owner tag) := rfl

theorem cancelled_scats (s : State) (owner : BitVec 12) (tag : Nat) : (cancelled s owner tag).sc.jobs = s.sc.jobs :=
  (NoNewJob.foldl (fun t (m : BagMap) => noNewJob_releaseMap t m.id) _ (lookupsDropped s owner tag)).scats.trans
    (noNewJob_drainAll _ (foDropped s owner tag)).scats

theorem cancelled_orr (s : State) (owner : BitVec 12) (tag : Nat) :
    (cancelled s owner tag).orr = (lookupsDropped s owner tag).orr := by
  unfold cancelled
  rw [foldl_keeps State.orr]
  exact fun _ _ => rfl

/-- No LOOKUP of a cancelled command is left. -/
theorem cancelled_lookups {s : State} {owner : BitVec 12} {tag : Nat} {k : LkJob} (hk : k ∈ (cancelled s owner tag).orr.jobs) :
    k.cid ≠ none ∨ k.owner ≠ owner ∨ k.tag ≠ tag := by
  rw [cancelled_orr] at hk
  obtain ⟨j, hj, hkey⟩ := (noNewJob_drainAll _ (foDropped s owner tag)).mem_jobs hk
  obtain ⟨hjid, hcid, howner, htag⟩ : j.jid = k.jid ∧ j.cid = k.cid ∧ j.owner = k.owner ∧ j.tag = k.tag := by
    simpa [LkJob.key] using hkey
  by_contra hmine
  push Not at hmine
  obtain ⟨hc, ho, ht⟩ := hmine
  exact drainAll_leave (List.mem_filter.2 ⟨hj, by simp [hcid, howner, htag, hc, ho, ht]⟩) hk hjid.symm

theorem scCancel_lookups {s : State} {owner : BitVec 12} {tag : Nat} {k : LkJob} (hk : k ∈ (scCancel s owner tag).orr.jobs) :
    k.cid ≠ none ∨ k.owner ≠ owner ∨ k.tag ≠ tag := by
  refine cancelled_lookups (s := s) ?_
  rw [scCancel_eq] at hk
  split at hk
  next j _ =>
    rwa [(scatOn_scatGo _).frame.jobs, (poolOn_poolServe _).on.frame.jobs, (scatOn_foServe _).frame.jobs,
      (scatFrame_dropScat _ j).jobs] at hk
  · rwa [(scatOn_foServe _).frame.jobs] at hk

/-- CANCEL clears a rank of a SCATTER. -/
theorem scCancel_scats {s : State} {owner : BitVec 12} {tag : Nat} {j : ScJob}
    (hj : s.sc.jobs.find? (fun j => j.cid.isNone && j.owner == owner && j.tag == tag) = some j) :
    ∀ k ∈ (scCancel s owner tag).sc.jobs, k.jid ≠ j.jid := by
  rw [scCancel_eq, cancelled_scats, hj]
  exact (((scatOn_foServe _).trans (poolOn_poolServe _).on).trans (scatOn_scatGo _)).jid_ne (scOf_dropScat_self _ j)

/-! ### Reports (R201, R202) -/

/-- What a report leaves: its counts in the command, and the log for Meridian with the last one. -/
theorem takeReport_counts {s : State} {cid rank : Nat} {r : CommitRep} {c : Cmd} {j : ScJob} {last : Bool}
    (hc : cmdOf s cid = some c) (hj : scOfCmd s cid = some j) (hp : c.phase = .running) (hr : rank < (descOf s j.desc).ranks)
    (hnew : 128 + rank ∉ c.ranks) (hlast : last = decide ((descOf s j.desc).ranks ≤ j.digests.length + 1)) :
    (∃ e, cmdOf (takeReport s cid rank r) cid = some e ∧ e.cnt0 = c.cnt0 + r.rows ∧
      e.cnt1 = c.cnt1 + r.excluded ∧ e.cnt2 = c.cnt2 + r.records ∧ e.drops = (c.drops || r.drops) ∧
      e.poison = (c.poison || r.poison) ∧ e.phase = if last then .done else .running) ∧
    (takeReport s cid rank r).mer.skewDue = (if last && (j.digests ++ [r.digest]).any (fun d => d != r.digest) then
      mset s.mer.skewDue j.desc (mget s.mer.skewDue j.desc [] ++ [j.log]) else s.mer.skewDue) ∧
    { takeReport s cid rank r with
      orr := { (takeReport s cid rank r).orr with cmds := s.orr.cmds },
      sc := { (takeReport s cid rank r).sc with jobs := s.sc.jobs },
      mer := { (takeReport s cid rank r).mer with skewDue := s.mer.skewDue } } = s := by
  have hcount := cmdOf_reportCounted s cid rank r j
  rw [hc] at hcount
  rw [takeReport_eq rank r hc hj, if_neg (by simp [hnew, hr, hp])]
  split
  next hmore =>
    obtain rfl : last = false := by simpa [hlast] using hmore
    exact ⟨⟨_, hcount, rfl, rfl, rfl, rfl, rfl, hp⟩, rfl, rfl⟩
  next hdone =>
    obtain rfl : last = true := by simpa [hlast] using hdone
    refine ⟨⟨_, (cmdOf_updCmd_self _ cid _ ?_).trans (congrArg (Option.map _) hcount), rfl, rfl, rfl, rfl, rfl, rfl⟩, rfl, rfl⟩
    exact fun _ => rfl

/-! ### The events -/

section
variable {s : State} (hs : stopped s = false) (hn : s.rc.need = [])
include hs

theorem exec_scatter {cid : Nat} {c : Cmd} {t : State} (hc : cmdOf s cid = some c) (hb : c.badLine = false) (hop : c.op = 0x02)
    (hm : mayStart s c = true) (h : scRun s c = t) (ht : t.rc.need = []) : exec (.scatter cid) s = .next t :=
  act_eq_next (f := fun s => withStart s cid 0x02 (fun c s => scRun s c)) hs
    (by simp only [withStart, hc, hb, hop, hm]; exact h) ht

theorem exec_scatterRequest {r : ScatReq} {t : State} (hfo : r.mapsrc = true → foHeld s r.owner r.tag = true)
    (hpark : s.pwr.park = .running) (hre : s.pwr.restart ≠ .running)
    (hnew : ∀ j ∈ s.sc.jobs, j.cid ≠ none ∨ j.owner ≠ r.owner ∨ j.tag ≠ r.tag) (h : scRequest s r none = t)
    (ht : t.rc.need = []) : exec (.scatterRequest r) s = .next t := by
  have hany : s.sc.jobs.any (fun j => j.cid.isNone && j.owner == r.owner && j.tag == r.tag) = false := by
    rw [List.any_eq_false]
    intro j hj
    rcases hnew j hj with h | h | h <;> simp [h]
  have hheld : (r.mapsrc && !foHeld s r.owner r.tag) = false := by
    cases hsrc : r.mapsrc with
    | false => rfl
    | true => simp [hfo hsrc]
  show execScatterRequest r s = _
  unfold execScatterRequest
  refine act_eq_next hs ?_ ht
  exact (if_neg (by simp [hany, hheld, hpark, hre])).trans h

theorem exec_refuse {cid rank : Nat} {c : Cmd} {j : ScJob} (haw : scAwaits s cid = some (c, j))
    (hne : rank ≠ (descOf s j.desc).rank) (ht : (poolServe (takeRefuse s cid j.desc)).rc.need = []) :
    exec (.refuse cid rank) s = .next (poolServe (takeRefuse s cid j.desc)) := by
  show execRefuse cid rank s = _
  unfold execRefuse
  refine act_eq_next hs ?_ ht
  simp only [haw]
  exact if_pos (by simpa using hne)

theorem exec_ready {cid rank : Nat} {c : Cmd} {j : ScJob} {t : State} (haw : scAwaits s cid = some (c, j))
    (hne : rank ≠ (descOf s j.desc).rank) (h : takeReady s cid rank = t) (ht : t.rc.need = []) :
    exec (.ready cid rank) s = .next t := by
  show execReady cid rank s = _
  unfold execReady
  refine act_eq_next hs ?_ ht
  simp only [haw]
  exact (if_pos (by simpa using hne)).trans h

theorem exec_commitReport {cid rank : Nat} {r : CommitRep} {c : Cmd} {j : ScJob} (hc : cmdOf s cid = some c)
    (hj : scOfCmd s cid = some j) (hop : c.op = 0x02) (hp : c.phase = .running) (hne : rank ≠ (descOf s j.desc).rank)
    (ht : (takeReport s cid rank r).rc.need = []) :
    exec (.commitReport cid rank r) s = .next (takeReport s cid rank r) := by
  show execCommitReport cid rank r s = _
  unfold execCommitReport
  refine act_eq_next hs ?_ ht
  simp only [hc, hj]
  exact if_pos (by simpa [hop, hp] using hne)

end

/-- Settles O40, event by event: the command's start by the branches of `scRun`, the rest by what SCATTERs change by
themselves (`ScatOn`, `PoolOn`) and by what a drain keeps of the jobs (`NoNewJob`). -/
theorem scatterCommandsTakeEffect : Obligations.ScatterCommandsTakeEffect := by
  unfold Obligations.ScatterCommandsTakeEffect
  refine ⟨?start, ?request, ?pool, ?answers, ?cancel, ?report⟩
  case start =>
    intro s cid c hs hn hc hb hop hm
    obtain rfl := cmdOf_cid hc
    have hexec {t : State} := exec_scatter (t := t) hs hc hb hop hm
    refine ⟨fun hsw => hexec (scRun_held hm hsw) hn, fun hsw hres => hexec (scRun_unresolved hsw hres) hn,
      fun d x hsw hres => ⟨fun hext => hexec (scRun_uncovered hsw hres hext) hn,
        fun hext hg hbind => hexec (scRun_stream_taken hsw hres hext hg hbind) hn, ?_, ?_⟩⟩
    · rintro v w u l hext hbind hsup rfl hw rfl rfl hu
      obtain rfl : w = scStart s c d := hw
      refine ⟨hexec (scRun_kept_map hsw hres hext hbind hsup) hu, fun hx hno => ?_, fun v hx hv => ?_⟩
      · rw [scSend_unsplit hsup hx]
        obtain ⟨e, he, hp, hf⟩ := scRequest_refused hno (cmdOf_scStart hc d)
        exact ⟨e, he, hp, hf⟩
      · rw [scSend_unsplit hsup hx]
        obtain ⟨j, hj, hjid, hcid, -, -, hdesc, hnb⟩ := scRequest_job hv (some c.cid)
        exact ⟨j, hj, hcid, hjid.trans (scStart_nextJid s c d), hdesc, hnb⟩
    · rintro s1 v w u ns hext hbind hsup hoff hn1 rfl hw
      obtain rfl : w = scStart s1 c d := hw
      have hrun := scRun_supplied hsw hres hext hbind hsup hoff hn1
      refine ⟨fun hbad => hexec (hrun.trans (if_pos hbad)) hn, fun hgood hx => ?_, ?_⟩
      · refine hexec (hrun.trans ((if_neg (by simp [hgood])).trans (if_neg (by omega)))) ?_
        rw [foAsk_rc, scStart_rc, hn1]
      · rintro hgood hx rfl hu
        exact hexec (hrun.trans ((if_neg (by simp [hgood])).trans (if_pos hx))) hu
  case request =>
    intro s r hs hn hfo hpark hre hnew
    refine ⟨fun d x m hv => ?_, fun hno hrel => exec_scatterRequest hs hfo hpark hre hnew (scRequest_refuses_owner hno hrel) ?_⟩
    · obtain ⟨hframe, hnext⟩ := scRequest_rest hv none
      refine ⟨_, exec_scatterRequest hs hfo hpark hre hnew rfl (by rw [hframe.rc, hn]), ?_, hnext, hframe.mem, hframe.rc⟩
      exact scRequest_job hv none
    · rw [(scatOn_foServe _).frame.rc, (scatOn_sendMsg ..).frame.rc]
      exact hn
  case pool =>
    intro s j hs hn hj
    refine ⟨fun hfit => ?_, fun hfull => act_eq_next (f := poolServe) hs (poolServe_full hj hfull) hn⟩
    have hgot := poolServe_fits hj hfit
    have hframe := (poolOn_poolServe s).on.frame
    refine ⟨_, act_eq_next (f := poolServe) hs rfl (by rw [hframe.rc, hn]), ?_, hframe.mem, hframe.rc, hframe.tabs⟩
    rcases hgot.kept _ (mem_scReady hj) with h | h <;> exact ⟨_, h, rfl, rfl⟩
  case answers =>
    intro s cid rank c j hs hn haw hne
    obtain ⟨hc, hj, hp⟩ := scAwaits_eq_some haw
    have hpool := (poolOn_poolServe (takeRefuse s cid j.desc)).on
    have hframe := (scatFrame_takeRefuse s cid j.desc).trans hpool.frame
    exact ⟨fun hr => exec_ready hs haw hne (takeReady_eq hc hj hp hr) hn,
      _, _, exec_refuse hs haw hne (by rw [hframe.rc, hn]), hpool.ended cid _ (cmdOf_takeRefuse hc j.desc) rfl, rfl, rfl,
      hpool.jid_ne (scOf_takeRefuse hj j.desc), hframe.mem, hframe.rc⟩
  case cancel =>
    rintro s t owner tag hs rfl ht
    exact ⟨act_eq_next (f := fun s => scCancel s owner tag) hs rfl ht, fun k hk => scCancel_lookups hk,
      fun j hj => scCancel_scats hj⟩
  case report =>
    intro s cid rank r c j last hs hn hc hj hop hp hne hr hnew hlast
    obtain ⟨⟨e, he, h0, h1, h2, hd, hpo, hph⟩, hdue, hrest⟩ := takeReport_counts (r := r) hc hj hp hr hnew hlast
    exact ⟨_, e, exec_commitReport hs hc hj hop hp hne (by rw [(scatOn_takeReport ..).frame.rc, hn]), he, h0, h1, h2, hd,
      hpo, hph, hdue, hrest⟩

end Sys2Proof.Machine
end

section
/-! PROOFS. Row commands and loads on a companion's link (R207, R209 to R211, R230 to R232, R239, R242 to R244). -/

namespace Sys2Proof.Machine

/-! ### Accesses to the tiers leave the row cache alone where the host holds no line -/

@[simp] theorem raiseEvent_rc (s : State) (code u : Nat) (ea eb : W64) : (raiseEvent s code u ea eb).rc = s.rc := by
  unfold raiseEvent
  split
  · rfl
  · simp

@[simp] theorem countDown_rc (s : State) (a : Nat) : (countDown s a).rc = s.rc := by
  unfold countDown
  split
  · rfl
  · split <;> rfl

@[simp] theorem dReadSecs_rc (s : State) (a n : Nat) : (dReadSecs s a n).1.rc = s.rc := by
  unfold dReadSecs
  split
  · exact countDown_rc s a
  · simp only []
    split <;> simp

@[simp] theorem dWriteSec_rc (s : State) (sec : Nat) (upd : List (Option Byte)) (p : Bool) :
    (dWriteSec s sec upd p).rc = s.rc := by
  unfold dWriteSec
  simp only []
  split
  · simp
  · split
    · split <;> rfl
    · split
      · rfl
      · simp

@[simp] theorem dWrite_rc (s : State) (a : Nat) (l : List Byte) (p : Bool) : (dWrite s a l p).rc = s.rc := by
  unfold dWrite
  split
  · rfl
  · split
    · exact countDown_rc s a
    · simp only []
      split <;> simp

@[simp] theorem lyWriteGo_rc (n : Nat) (s : State) (a : Nat) (l : List Byte) : (lyWriteGo n s a l).rc = s.rc := by
  induction n generalizing s a l with
  | zero => rfl
  | succ n ih =>
    unfold lyWriteGo
    split
    · rfl
    · rw [ih, dWrite_rc]

/-- From `s` to `t` the row cache stands as it was, unless the host holds a line (R353). -/
structure RcKept (s t : State) : Prop where
  rc : s.rc.snoop = [] → t.rc = s.rc

namespace RcKept

variable {s t u : State}

theorem of_eq (h : t.rc = s.rc) : RcKept s t := ⟨fun _ => h⟩

theorem refl (s : State) : RcKept s s := of_eq rfl

theorem trans (h : RcKept s t) (k : RcKept t u) : RcKept s u :=
  ⟨fun hs => (k.rc (by rw [h.rc hs]; exact hs)).trans (h.rc hs)⟩

end RcKept

theorem rcKept_snoopExt (s : State) (a n : Nat) (w : Bool) : RcKept s (snoopExt s a n w) := by
  refine ⟨fun h => ?_⟩
  rw [snoopExt, h]
  rfl

theorem rcKept_lyWrite (s : State) (a : Nat) (l : List Byte) : RcKept s (lyWrite s a l) :=
  (rcKept_snoopExt ..).trans (.of_eq (lyWriteGo_rc ..))

theorem rcKept_lyEncode (s : State) (k d : Nat) (c : LyCtx) (w : Nat) (v : List BF16) (version step : Nat) (f : Bool) :
    RcKept s (lyEncode s k d c w v version step f).1 := by
  refine .of_eq ?_
  simp [lyEncode, countEnc]

/-! As in `onlyMem_lyRead`, a row's addresses must not be evaluated by the kernel: the reads in a definition are replaced by
variables before it is reduced. -/

theorem rcKept_lyRead (s : State) (k : Nat) (c : LyCtx) (row : Nat) : RcKept s (lyRead s k c row).1 := by
  have hdef : @lyRead = @lyRead := rfl
  conv_rhs at hdef => delta lyRead
  have hr := dReadSecs_rc
  obtain ⟨rd, hrd⟩ := exists_eq (a' := @dReadSecs)
  rw [hdef]
  rw [← hrd] at hr ⊢
  exact (((rcKept_snoopExt ..).trans (rcKept_snoopExt ..)).trans (.of_eq (hr ..))).trans (.of_eq (hr ..))

theorem rcKept_lyCommit (s : State) (k d row : Nat) (c : LyCtx) (x : LyRow) (m : List F32) (us : List (List F32))
    (step : Nat) : RcKept s (lyCommit s k d row c x m us step).1 := by
  have hdef : @lyCommit = @lyCommit := rfl
  conv_rhs at hdef => delta lyCommit
  have he := rcKept_lyEncode
  have hw := rcKept_lyWrite
  obtain ⟨en, hen⟩ := exists_eq (a' := @lyEncode)
  obtain ⟨wr, hwr⟩ := exists_eq (a' := @lyWrite)
  rw [hdef]
  rw [← hen] at he ⊢
  rw [← hwr] at hw ⊢
  simp only []
  split
  · exact ((he ..).trans (hw ..)).trans (hw ..)
  · exact ((he ..).trans (hw ..)).trans (hw ..)

theorem rcKept_lySetServe (s : State) (k : Nat) (f : ServeMsg) : RcKept s (lySetServe s k f) := by
  have hdef : @lySetServe = @lySetServe := rfl
  conv_rhs at hdef => delta lySetServe
  have hr := rcKept_lyRead
  have he := rcKept_lyEncode
  have hw := rcKept_lyWrite
  obtain ⟨rd, hrd⟩ := exists_eq (a' := @lyRead)
  obtain ⟨en, hen⟩ := exists_eq (a' := @lyEncode)
  obtain ⟨wr, hwr⟩ := exists_eq (a' := @lyWrite)
  rw [hdef]
  rw [← hrd] at hr ⊢
  rw [← hen] at he ⊢
  rw [← hwr] at hw ⊢
  simp only []
  split
  · exact .refl s
  split
  · exact (((hr ..).trans (hw ..)).trans (he ..)).trans (hw ..)
  split
  · exact (((hr ..).trans (hw ..)).trans (he ..)).trans (hw ..)
  · exact (hr ..).trans (hw ..)

theorem rcKept_lyReseed (s : State) (k d row : Nat) (sl : List Byte) : RcKept s (lyReseed s k d row sl).1 := by
  have hdef : @lyReseed = @lyReseed := rfl
  conv_rhs at hdef => delta lyReseed
  have hr := rcKept_lyRead
  have hw := rcKept_lyWrite
  obtain ⟨rd, hrd⟩ := exists_eq (a' := @lyRead)
  obtain ⟨wr, hwr⟩ := exists_eq (a' := @lyWrite)
  rw [hdef]
  rw [← hrd] at hr ⊢
  rw [← hwr] at hw ⊢
  simp only []
  split
  · exact .refl s
  · exact ((hr ..).trans (hw ..)).trans (hw ..)

theorem rcKept_lyRequant (s : State) (k d row : Nat) : RcKept s (lyRequant s k d row).1 := by
  have hdef : @lyRequant = @lyRequant := rfl
  conv_rhs at hdef => delta lyRequant
  have hr := rcKept_lyRead
  have hc := rcKept_lyCommit
  obtain ⟨rd, hrd⟩ := exists_eq (a' := @lyRead)
  obtain ⟨cm, hcm⟩ := exists_eq (a' := @lyCommit)
  rw [hdef]
  rw [← hrd] at hr ⊢
  rw [← hcm] at hc ⊢
  simp only []
  split
  · exact .refl s
  split
  · exact hr ..
  split
  · exact hr ..
  · exact (hr ..).trans (hc ..)

/-! ### What each row command makes of its row -/

section
variable {s : State} {k d row : Nat}

theorem lySetServe_of_no_ctx {f : ServeMsg} (h : mget? (lyOf s k).ctx f.desc = none) : lySetServe s k f = s := by
  simp only [lySetServe, h]

theorem lyReseed_of_no_ctx (h : mget? (lyOf s k).ctx d = none) (sl : List Byte) :
    lyReseed s k d row sl = (s, rowAck d row 0 7) := by
  simp only [lyReseed, h]

theorem lyReseed_of_ctx {c : LyCtx} (h : mget? (lyOf s k).ctx d = some c) (sl : List Byte) :
    ∃ step, (lyReseed s k d row sl).2 = rowAck d row step 8 := by
  have hdef : @lyReseed = @lyReseed := rfl
  conv_rhs at hdef => delta lyReseed
  obtain ⟨rd, hrd⟩ := exists_eq (a' := @lyRead)
  rw [hdef, ← hrd]
  simp only [h]
  exact ⟨_, rfl⟩

theorem lyRequant_of_no_ctx (h : mget? (lyOf s k).ctx d = none) :
    lyRequant s k d row = (s, { ack := rowAck d row 0 7, copy := none }) := by
  simp only [lyRequant, h]

/-- REQUANT of a row that reads poisoned (R244). -/
theorem lyRequant_of_poisoned {c : LyCtx} {x : LyRow} (h : mget? (lyOf s k).ctx d = some c)
    (hx : (lyRead s k c row).2 = x) (hb : (x.homeBad || x.recBad) = true) : ∃ s1, s1.mem = s.mem ∧
      lyRequant s k d row = (s1, { ack := rowAck d row (slStep x.home) 5, copy := none }) := by
  have hdef : @lyRequant = @lyRequant := rfl
  conv_rhs at hdef => delta lyRequant
  have hm := lyRead_mem
  obtain ⟨rd, hrd⟩ := exists_eq (a' := @lyRead)
  rw [hdef]
  rw [← hrd] at hx hm ⊢
  simp only [h, hx]
  rw [if_pos hb]
  exact ⟨_, hm .., rfl⟩

theorem lyRequant_of_readable {c : LyCtx} {x : LyRow} (h : mget? (lyOf s k).ctx d = some c)
    (hx : (lyRead s k c row).2 = x) (hb : (x.homeBad || x.recBad) = false) :
    (lyRequant s k d row).2.ack = rowAck d row (slStep x.home) 8 := by
  have hdef : @lyRequant = @lyRequant := rfl
  conv_rhs at hdef => delta lyRequant
  obtain ⟨rd, hrd⟩ := exists_eq (a' := @lyRead)
  obtain ⟨cm, hcm⟩ := exists_eq (a' := @lyCommit)
  rw [hdef]
  rw [← hrd] at hx ⊢
  rw [← hcm]
  simp only [h, hx]
  rw [if_neg (by simp [hb])]
  split <;> rfl

theorem lyLevel_of_no_ctx (h : mget? (lyOf s k).ctx d = none) (target : Nat) :
    lyLevel s k d row target = (s, rowAck d row 0 7) := by
  simp only [lyLevel, h]

/-! What LEVEL_STEP reads is what it would read beside any row cache. -/

theorem countDown_frees (s : State) (a : Nat) : (countDown s a).frees = s.frees := by
  unfold countDown
  split
  · rfl
  · split <;> rfl

/-- What a read brings does not depend on the row cache. -/
theorem dReadSecs_withRc (s : State) (c : Cache) (a n : Nat) :
    (dReadSecs { s with rc := c } a n).2 = (dReadSecs s a n).2 := by
  have hup : memUp { s with rc := c } a = memUp s a := rfl
  unfold dReadSecs
  rw [hup]
  split
  · simp only [freeBytes, countDown_frees]
  · rfl

theorem snoopExt_eq (s : State) (a n : Nat) (w : Bool) : ∃ c, snoopExt s a n w = { s with rc := c } := by
  unfold snoopExt
  generalize s.rc.snoop.filter _ = l
  refine List.foldlRecOn (motive := fun t => ∃ c, t = { s with rc := c }) l _ ⟨s.rc, rfl⟩ ?_
  rintro t ⟨c, rfl⟩ e -
  unfold snoopGate
  split
  · exact ⟨_, rfl⟩
  · split <;> exact ⟨_, rfl⟩

theorem dReadSecs_snoopExt (s : State) (a n b m : Nat) (w : Bool) :
    (dReadSecs (snoopExt s b m w) a n).2 = (dReadSecs s a n).2 := by
  obtain ⟨c, h⟩ := snoopExt_eq s b m w
  rw [h, dReadSecs_withRc]

/-- LEVEL_STEP where the companion holds the context: the state after the read, and what goes to the home slot (R239). -/
theorem lyLevel_of_ctx {c : LyCtx} (h : mget? (lyOf s k).ctx d = some c) (target : Nat) :
    ∃ s1 a l, OnlyMem s s1 ∧ s1.mem = s.mem ∧ RcKept s s1 ∧ lyLevel s k d row target =
      if (dReadSecs s (lyHome k c row) 1).2.2.any id then (s1, rowAck d row 0 5)
      else (lyWrite s1 a l,
        rowAck d row (max (slStep (dReadSecs s (lyHome k c row) 1).2.1) (target % 2 ^ 24)) 8) := by
  have hdef : @lyLevel = @lyLevel := rfl
  conv_rhs at hdef => delta lyLevel
  have hs := dReadSecs_snoopExt
  have ho := onlyMem_dReadSecs
  have hm := dReadSecs_mem
  have hc := dReadSecs_rc
  obtain ⟨rd, hrd⟩ := exists_eq (a' := @dReadSecs)
  rw [hdef]
  rw [← hrd] at hs ho hm hc ⊢
  simp only [h, hs]
  refine ⟨_, _, _, (onlyMem_snoopExt ..).trans (ho ..), ?_, (rcKept_snoopExt ..).trans (.of_eq (hc ..)), rfl⟩
  rw [hm, snoopExt_mem]

end

theorem onlyMem_lyLevel (s : State) (k d row target : Nat) : OnlyMem s (lyLevel s k d row target).1 := by
  cases h : mget? (lyOf s k).ctx d with
  | none => rw [lyLevel_of_no_ctx h]; exact OnlyMem.refl s
  | some c =>
    obtain ⟨s1, a, l, ho, -, -, he⟩ := lyLevel_of_ctx (row := row) h target
    rw [he]
    split
    · exact ho
    · exact ho.trans (onlyMem_lyWrite s1 a l)

theorem rcKept_lyLevel (s : State) (k d row target : Nat) : RcKept s (lyLevel s k d row target).1 := by
  cases h : mget? (lyOf s k).ctx d with
  | none => rw [lyLevel_of_no_ctx h]; exact .refl s
  | some c =>
    obtain ⟨s1, a, l, -, -, hc, he⟩ := lyLevel_of_ctx (row := row) h target
    rw [he]
    split
    · exact hc
    · exact hc.trans (rcKept_lyWrite s1 a l)

/-! ### A frame to a companion (R208, R209, R316, R330) -/

section
variable {s : State} {k d row : Nat}

theorem lyFrame_down {f : Lyush → State} (h : portUp s k = false) : lyFrame s k f = bump1 s (ctrCompCmpDown k) :=
  if_pos (by simp [h])

/-- In self-refresh and during a restart no frame is taken. -/
theorem lyFrame_not_taken {f : Lyush → State} (hp : portUp s k = true)
    (h : (lyOf s k).selfRef = true ∨ s.pwr.restart = .running) : lyFrame s k f = s :=
  (if_neg (by simp [hp])).trans (if_pos (by rcases h with h | h <;> simp [h]))

theorem lyFrame_taken {f : Lyush → State} (hp : portUp s k = true) (hself : (lyOf s k).selfRef = false)
    (hr : s.pwr.restart ≠ .running) : lyFrame s k f = f (lyOf s k) :=
  (if_neg (by simp [hp])).trans (if_neg (by simp [hself, hr]))

theorem rowGate_of_turn (h : ∀ u ∈ (lyOf s k).updq, u.desc ≠ d ∨ u.row ≠ row) : rowGate s k d row = s := by
  refine if_neg ?_
  simpa [imp_iff_not_or] using h

theorem rowGate_of_behind (h : ∃ u ∈ (lyOf s k).updq, u.desc = d ∧ u.row = row) :
    rowGate s k d row = { s with rc := { s.rc with need := s.rc.need ++ [rowMark k] } } := by
  refine if_pos ?_
  simpa using h

end

/-- Of the eight companions the mark of one names that one. -/
theorem filter_rowMark (p : Fin 8) : (List.range 8).filter (fun k => [rowMark p].contains (rowMark k)) = [p.val] := by
  revert p
  decide

/-- An operation on a row that an UPDATE is ahead on counts the wait and does no more (R210). -/
theorem settleIn_rowMark {t : State} {p : Fin 8} (s : State) (h : t.rc.need = [rowMark p]) :
    settleIn s t = bump1 s (ctrCompLyLockWait p) := by
  have hmark : ¬rowMark p < 2 ^ 42 := by
    unfold rowMark
    omega
  have hn : [rowMark p].filter (fun x => decide (x < 2 ^ 42)) = [] := List.filter_eq_nil_iff.2 (by simpa using hmark)
  have hw : lockWaits s [rowMark p] = bump1 s (ctrCompLyLockWait p) := by
    rw [lockWaits, filter_rowMark]
    rfl
  rw [settleIn, h, hn, hw]
  rfl

section
variable {s : State} {p : Fin 8} {d row : Nat} {f : State → State}

theorem act_rowFrame_waits (hs : stopped s = false) (hn : s.rc.need = []) (hsn : s.rc.snoop = []) (hp : portUp s p = true)
    (hself : (lyOf s p).selfRef = false) (hr : s.pwr.restart ≠ .running)
    (hu : ∃ u ∈ (lyOf s p).updq, u.desc = d ∧ u.row = row) (hf : RcKept (rowGate s p d row) (f (rowGate s p d row))) :
    act s (fun s => rowFrame s p d row f) = .next (bump1 s (ctrCompLyLockWait p)) := by
  have hrc : (f (rowGate s p d row)).rc.need = [rowMark p] := by
    rw [rowGate_of_behind hu] at hf ⊢
    rw [hf.rc hsn]
    simp [hn]
  simp only [act, hs, settle, rowFrame, lyFrame_taken hp hself hr]
  rw [settleIn_rowMark s hrc]
  rfl

theorem act_rowFrame_turn {t : State} (hs : stopped s = false) (hp : portUp s p = true)
    (hself : (lyOf s p).selfRef = false) (hr : s.pwr.restart ≠ .running)
    (hu : ∀ u ∈ (lyOf s p).updq, u.desc ≠ d ∨ u.row ≠ row) (hf : f s = t) (hn : t.rc.need = []) :
    act s (fun s => rowFrame s p d row f) = .next t := by
  refine act_eq_next hs ?_ hn
  rw [rowFrame, lyFrame_taken hp hself hr, rowGate_of_turn hu, hf]

end

/-! ### The frames as rows -/

/-- What RESEED leaves at its turn: the answer on the link (R243). -/
def reseeded (p d row : Nat) (sl : List Byte) (s : State) : State :=
  pushRack (lyReseed s p d row sl).1 p (lyReseed s p d row sl).2

/-- What REQUANT leaves at its turn: the COPY of a promoted row on the link, and behind it the answer (R244). -/
def requanted (p d row : Nat) (s : State) : State :=
  pushRack (pushCopy (lyRequant s p d row).1 p d row (lyRequant s p d row).2.copy) p (lyRequant s p d row).2.ack

/-- What LEVEL_STEP leaves at its turn (R239). -/
def leveled (p d row target : Nat) (s : State) : State :=
  pushRack (lyLevel s p d row target).1 p (lyLevel s p d row target).2

theorem exec_reseed_eq (p : Fin 8) (d : Fin 4096) (row : Nat) (sl : List Byte) (s : State) :
    exec (.reseed p d row sl) s = act s (fun s => rowFrame s p d row (reseeded p d row sl)) := by
  have hf : (fun s => let (s1, a) := lyReseed s p d row sl; pushRack s1 p a) = reseeded p d row sl := by
    funext s
    unfold reseeded
    generalize lyReseed s p d row sl = q
    rfl
  show execReseed p d row sl s = _
  rw [execReseed, hf]

theorem exec_requant_eq (p : Fin 8) (d : Fin 4096) (row : Nat) (s : State) :
    exec (.requant p d row) s = act s (fun s => rowFrame s p d row (requanted p d row)) := by
  have hf : (fun s => let (s1, r) := lyRequant s p d row; pushRack (pushCopy s1 p d row r.copy) p r.ack) =
      requanted p d row := by
    funext s
    unfold requanted
    generalize lyRequant s p d row = q
    rfl
  show execRequant p d row s = _
  rw [execRequant, hf]

theorem exec_levelStep_eq (p : Fin 8) (d : Fin 4096) (row : Nat) (g : BitVec 24) (s : State) :
    exec (.levelStep p d row g) s = act s (fun s => rowFrame s p d row (leveled p d row g.toNat)) := by
  have hf : (fun s => let (s1, a) := lyLevel s p d row g.toNat; pushRack s1 p a) = leveled p d row g.toNat := by
    funext s
    unfold leveled
    generalize lyLevel s p d row g.toNat = q
    rfl
  show execLevelStep p d row g s = _
  rw [execLevelStep, hf]

theorem exec_setServe_eq (p : Fin 8) (f : ServeMsg) (s : State) :
    exec (.setServe p f) s = act s (fun s => rowFrame s p f.desc f.row (fun s => lySetServe s p f)) := rfl

theorem pushCopy_rc (s : State) (k d row : Nat) (c : Option (List Byte)) : (pushCopy s k d row c).rc = s.rc := by
  cases c <;> rfl

theorem rcKept_reseeded (p d row : Nat) (sl : List Byte) (s : State) : RcKept s (reseeded p d row sl s) :=
  (rcKept_lyReseed ..).trans (.of_eq rfl)

theorem rcKept_requanted (p d row : Nat) (s : State) : RcKept s (requanted p d row s) :=
  (rcKept_lyRequant ..).trans (.of_eq (pushCopy_rc ..))

theorem rcKept_leveled (p d row target : Nat) (s : State) : RcKept s (leveled p d row target s) :=
  (rcKept_lyLevel ..).trans (.of_eq rfl)

end Sys2Proof.Machine
end

section
/-! PROOFS. What row commands and loads answer, and when they are taken (R207, R209 to R211, R230 to R232, R239, R242 to
R244). -/

namespace Sys2Proof.Machine

/-! ### The answers of row commands -/

theorem rowAck_step (d row step : Nat) (r : BitVec 4) : (rowAck d row step r).step = step := rfl

section
variable {s t : State} {k d row : Nat}

theorem lyReseed_answers {sl : List Byte} {a : AckMsg} (h : lyReseed s k d row sl = (t, a)) :
    a.desc = d ∧ a.row = row ∧ (mget? (lyOf s k).ctx d = none → a.result = 7 ∧ t.mem = s.mem) ∧
      (mget? (lyOf s k).ctx d ≠ none → a.result = 8) ∧ memUndo s t = s := by
  have ho := onlyMem_lyReseed s k d row sl
  rw [h] at ho
  cases hc : mget? (lyOf s k).ctx d with
  | none =>
    obtain ⟨rfl, rfl⟩ := Prod.mk.inj ((lyReseed_of_no_ctx hc sl).symm.trans h)
    exact ⟨rfl, rfl, fun _ => ⟨rfl, rfl⟩, fun hne => absurd rfl hne, ho.undo⟩
  | some c =>
    obtain ⟨step, hack⟩ := lyReseed_of_ctx (row := row) hc sl
    rw [h] at hack
    subst hack
    exact ⟨rfl, rfl, nofun, fun _ => rfl, ho.undo⟩

theorem lyRequant_answers {r : UpdDone} (h : lyRequant s k d row = (t, r)) :
    r.ack.desc = d ∧ r.ack.row = row ∧ (mget? (lyOf s k).ctx d = none → r.ack.result = 7 ∧ t.mem = s.mem) ∧
      (∀ c, mget? (lyOf s k).ctx d = some c → r.ack.step = slStep (lyRead s k c row).2.home ∧
        (((lyRead s k c row).2.homeBad || (lyRead s k c row).2.recBad) = true → r.ack.result = 5 ∧ t.mem = s.mem) ∧
        (((lyRead s k c row).2.homeBad || (lyRead s k c row).2.recBad) = false → r.ack.result = 8)) ∧ memUndo s t = s := by
  have ho := onlyMem_lyRequant s k d row
  rw [h] at ho
  cases hc : mget? (lyOf s k).ctx d with
  | none =>
    obtain ⟨rfl, rfl⟩ := Prod.mk.inj ((lyRequant_of_no_ctx hc).symm.trans h)
    exact ⟨rfl, rfl, fun _ => ⟨rfl, rfl⟩, nofun, ho.undo⟩
  | some c =>
    generalize hx : (lyRead s k c row).2 = x
    cases hb : x.homeBad || x.recBad with
    | true =>
      obtain ⟨s1, hm, he⟩ := lyRequant_of_poisoned hc hx hb
      obtain ⟨rfl, rfl⟩ := Prod.mk.inj (h.symm.trans he)
      refine ⟨rfl, rfl, nofun, fun e hctx => ?_, ho.undo⟩
      obtain rfl := Option.some.inj hctx
      rw [hx, hb]
      exact ⟨rowAck_step .., fun _ => ⟨rfl, hm⟩, nofun⟩
    | false =>
      have hack := lyRequant_of_readable hc hx hb
      rw [h] at hack
      rw [hack]
      refine ⟨rfl, rfl, nofun, fun e hctx => ?_, ho.undo⟩
      obtain rfl := Option.some.inj hctx
      rw [hx, hb]
      exact ⟨rowAck_step .., nofun, fun _ => rfl⟩

theorem lyLevel_answers {g : BitVec 24} {a : AckMsg} (h : lyLevel s k d row g.toNat = (t, a)) :
    a.desc = d ∧ a.row = row ∧ (mget? (lyOf s k).ctx d = none → a.result = 7 ∧ t.mem = s.mem) ∧
      (∀ c s1 b m, mget? (lyOf s k).ctx d = some c → dReadSecs s (lyHome k c row) 1 = (s1, b, m) →
        (m.any id = true → a.result = 5 ∧ t.mem = s.mem) ∧
        (m.any id = false → a.result = 8 ∧ a.step = max (slStep b) g.toNat)) ∧ memUndo s t = s := by
  have ho := onlyMem_lyLevel s k d row g.toNat
  rw [h] at ho
  have hg : g.toNat % 2 ^ 24 = g.toNat := Nat.mod_eq_of_lt g.isLt
  cases hc : mget? (lyOf s k).ctx d with
  | none =>
    obtain ⟨rfl, rfl⟩ := Prod.mk.inj ((lyLevel_of_no_ctx hc g.toNat).symm.trans h)
    exact ⟨rfl, rfl, fun _ => ⟨rfl, rfl⟩, fun c _ _ _ hno => by simp at hno, ho.undo⟩
  | some c =>
    obtain ⟨s1, home, l, -, hm, -, he⟩ := lyLevel_of_ctx (row := row) hc g.toNat
    rw [h, hg] at he
    obtain ⟨hd, hrow⟩ : a.desc = d ∧ a.row = row := by
      split at he
      · obtain ⟨-, rfl⟩ := Prod.mk.inj he
        exact ⟨rfl, rfl⟩
      · obtain ⟨-, rfl⟩ := Prod.mk.inj he
        exact ⟨rfl, rfl⟩
    refine ⟨hd, hrow, fun hno => by simp at hno, fun e u b m hctx hread => ?_, ho.undo⟩
    obtain rfl := Option.some.inj hctx
    rw [hread] at he
    constructor
    · intro hbad
      rw [if_pos hbad] at he
      obtain ⟨rfl, rfl⟩ := Prod.mk.inj he
      exact ⟨rfl, hm⟩
    · intro hgood
      rw [if_neg (by simp [hgood])] at he
      obtain ⟨-, rfl⟩ := Prod.mk.inj he
      exact ⟨rfl, rfl⟩

end

/-! ### Loads (R207, R230 to R232) -/

section
variable {l : Lyush} {d : Nat} {c : LyCtx}

theorem ctx_lyLoadCtx_of_closed (h : lyOpenDesc l d = false) : mget? (lyLoadCtx l d c).ctx d = some c := by
  unfold lyLoadCtx
  split
  · rw [if_neg (by simp [h])]
    exact mget?_mset_self ..
  · exact mget?_mset_self ..

/-- Another parameter set for a descriptor with an open batch waits (R232). -/
theorem lyLoadCtx_of_open {o : LyCtx} (h : lyOpenDesc l d = true) (ho : mget? l.ctx d = some o) (hp : o.pset ≠ c.pset) :
    lyLoadCtx l d c = { l with pendCtx := l.pendCtx.filter (fun x => x.1 != d) ++ [(d, c)] } := by
  simp only [lyLoadCtx, ho]
  exact if_pos (by simp [h, hp])

end

/-- A load that the companion takes. -/
theorem act_lyFrame_taken {s : State} {p : Nat} {f : Lyush → Lyush} (hs : stopped s = false) (hn : s.rc.need = [])
    (hp : portUp s p = true) (hself : (lyOf s p).selfRef = false) (hr : s.pwr.restart ≠ .running) :
    act s (fun s => lyFrame s p (fun l => setLy s p (f l))) = .next (setLy s p (f (lyOf s p))) :=
  act_eq_next hs (lyFrame_taken hp hself hr) hn

/-- SLOT_RD of a row of a descriptor in use, on the companion of its home slot (R211). -/
theorem exec_slotRd_next {s s1 : State} {p : Fin 8} {d : Fin 4096} {row : Nat} {b : List Byte} {bad : Bool}
    (hs : stopped s = false) (hp : portUp s p = true) (hself : (lyOf s p).selfRef = false) (hr : s.pwr.restart ≠ .running)
    (hd : (descOf s d).dstate ≠ 0) (hrow : row < (descOf s d).rows) (hk : homeComp d (descOf s d) row = p.val)
    (hread : readHome s d row = (s1, b, bad)) (hn : s1.rc.need = []) :
    exec (.slotRd p d row) s = .next (setLy s1 p { lyOf s1 p with answers := (lyOf s1 p).answers ++
      [sectorsOf (homeAddr d (descOf s d) row) b (List.replicate (b.length / 32) bad)] }) := by
  have hdef : @execSlotRd = @execSlotRd := rfl
  conv_rhs at hdef => delta execSlotRd
  have hgo : ¬((descOf s d).dstate = 0 || decide ((descOf s d).rows ≤ row) ||
      homeComp d (descOf s d) row != p.val) = true := by
    simp [hd, hrow, hk]
  show execSlotRd p d row s = _
  obtain ⟨rd, hrd⟩ := exists_eq (a' := @readHome)
  obtain ⟨comp, hcomp⟩ := exists_eq (a' := @homeComp)
  obtain ⟨addr, haddr⟩ := exists_eq (a' := @homeAddr)
  rw [hdef]
  rw [← hrd] at hread ⊢
  rw [← hcomp] at hgo ⊢
  rw [← haddr]
  refine act_eq_next hs ((if_neg hgo).trans ((lyFrame_taken hp hself hr).trans ?_)) hn
  simp only [hread]

/-- Settles O44: frames that are not taken, rows that wait, rows at their turn by the lemma on what each answers, loads. -/
theorem companionRowCommandsTakeEffect : Obligations.CompanionRowCommandsTakeEffect := by
  refine ⟨?lost, ?behind, ?turn, ?loads⟩
  case lost =>
    intro s p d row f sl g c i q v n cb hs hn x hx
    have hframe : ∃ h : State → Lyush → State, exec x s = act s (fun s => lyFrame s p (h s)) := by
      simp only [List.mem_cons, List.not_mem_nil, or_false] at hx
      rcases hx with rfl | rfl | rfl | rfl | rfl | rfl | rfl | rfl
      · exact ⟨fun s _ => lySetServe (rowGate s p f.desc f.row) p f, rfl⟩
      · exact ⟨fun s _ => reseeded p d row sl (rowGate s p d row), exec_reseed_eq ..⟩
      · exact ⟨fun s _ => requanted p d row (rowGate s p d row), exec_requant_eq ..⟩
      · exact ⟨fun s _ => leveled p d row g.toNat (rowGate s p d row), exec_levelStep_eq ..⟩
      · exact ⟨fun s l => setLy s p (lyLoadCtx l d c), rfl⟩
      · exact ⟨fun s l => setLy s p { l with progs := mset l.progs i q }, rfl⟩
      · exact ⟨fun s l => setLy s p (lyLoadPset l i v), rfl⟩
      · exact ⟨fun s l => setLy s p { l with cbs := mset l.cbs n cb }, rfl⟩
    obtain ⟨h, hx⟩ := hframe
    rw [hx]
    exact ⟨fun hp => act_eq_next hs (lyFrame_down hp) hn, fun hp h => act_eq_next hs (lyFrame_not_taken hp h) hn⟩
  case behind =>
    intro s p d row f sl g hs hn hsn hp hself hr hd hrow hu x hx
    simp only [List.mem_cons, List.not_mem_nil, or_false] at hx
    rcases hx with rfl | rfl | rfl | rfl
    · rw [exec_setServe_eq, hd, hrow]
      exact act_rowFrame_waits hs hn hsn hp hself hr hu (rcKept_lySetServe ..)
    · rw [exec_reseed_eq]
      exact act_rowFrame_waits hs hn hsn hp hself hr hu (rcKept_reseeded ..)
    · rw [exec_requant_eq]
      exact act_rowFrame_waits hs hn hsn hp hself hr hu (rcKept_requanted ..)
    · rw [exec_levelStep_eq]
      exact act_rowFrame_waits hs hn hsn hp hself hr hu (rcKept_leveled ..)
  case turn =>
    intro s p d row hs hp hself hr hu
    refine ⟨fun f t hd hrow ht hn => ?_, fun sl t a h hn => ?_, fun t r h hn => ?_, fun g t a h hn => ?_,
      fun s1 b bad hd hrow hk hread hn => exec_slotRd_next hs hp hself hr hd hrow hk hread hn⟩
    · subst ht
      refine ⟨?_, (onlyMem_lySetServe ..).undo, fun hno => lySetServe_of_no_ctx (hd ▸ hno)⟩
      rw [exec_setServe_eq, hd, hrow]
      exact act_rowFrame_turn hs hp hself hr hu rfl hn
    · refine ⟨?_, lyReseed_answers h⟩
      rw [exec_reseed_eq]
      exact act_rowFrame_turn hs hp hself hr hu (by rw [reseeded, h]) hn
    · refine ⟨?_, lyRequant_answers h⟩
      rw [exec_requant_eq]
      exact act_rowFrame_turn hs hp hself hr hu (by rw [requanted, h]) ((congrArg Cache.need (pushCopy_rc ..)).trans hn)
    · refine ⟨?_, lyLevel_answers h⟩
      rw [exec_levelStep_eq]
      exact act_rowFrame_turn hs hp hself hr hu (by rw [leveled, h]) hn
  case loads =>
    intro s p hs hn hp hself hr
    refine ⟨fun d c => ⟨act_lyFrame_taken (f := fun l => lyLoadCtx l d c) hs hn hp hself hr, ctx_lyLoadCtx_of_closed,
        fun o ho hc hne => ?_⟩,
      fun i q => act_lyFrame_taken (f := fun l => { l with progs := mset l.progs i q }) hs hn hp hself hr, fun i v => ?_,
      fun n cb => act_lyFrame_taken (f := fun l => { l with cbs := mset l.cbs n cb }) hs hn hp hself hr⟩
    · rw [lyLoadCtx_of_open ho hc hne]
      exact ⟨rfl, by simp⟩
    · have hload : exec (.loadPsetFrame p i v) s = .next (setLy s p (lyLoadPset (lyOf s p) i v)) :=
        act_lyFrame_taken (f := fun l => lyLoadPset l i v) hs hn hp hself hr
      rw [hload]
      exact ⟨fun h => by rw [lyLoadPset, if_neg (by simp [h])], fun h => by rw [lyLoadPset, if_pos h]⟩

end Sys2Proof.Machine
end

section
/-! PROOFS. Plain accesses on a companion's link, and its health, self-refresh, replays and loss (R208, R218, R313 to R316,
R321 to R323, R330). -/

namespace Sys2Proof.Machine

/-! ### Reads (R313, R321) -/

theorem lyOutcome_rc (s : State) (k sec : Nat) (o : LyOutcome) : (lyOutcome s k sec o).rc = s.rc := by
  cases o <;> rfl

theorem lyOutcome_ly (s : State) (k sec : Nat) (o : LyOutcome) : (lyOutcome s k sec o).ly = s.ly := by
  cases o <;> rfl

/-- Only an array error changes what is stored. -/
theorem lyOutcome_cells {o : LyOutcome} (h : o = .clean ∨ o = .linkCe ∨ o = .linkUe) (s : State) (k sec : Nat) :
    (lyOutcome s k sec o).mem.cells = s.mem.cells := by
  rcases h with rfl | rfl | rfl <;> rfl

/-- What the sectors of a read are found to be, from sector `sec` on. -/
def foundAt (s : State) (k sec : Nat) (l : List LyOutcome) : State :=
  l.zipIdx.foldl (fun t x => lyOutcome t k (sec + x.2) x.1) s

theorem foundAt_rc (s : State) (k sec : Nat) (l : List LyOutcome) : (foundAt s k sec l).rc = s.rc :=
  foldl_keeps State.rc _ (fun _ _ => lyOutcome_rc ..) _ s

theorem foundAt_ly (s : State) (k sec : Nat) (l : List LyOutcome) : (foundAt s k sec l).ly = s.ly :=
  foldl_keeps State.ly _ (fun _ _ => lyOutcome_ly ..) _ s

theorem foundAt_cells {l : List LyOutcome} (h : ∀ o ∈ l, o = .clean ∨ o = .linkCe ∨ o = .linkUe) (s : State)
    (k sec : Nat) : (foundAt s k sec l).mem.cells = s.mem.cells := by
  refine List.foldlRecOn (motive := fun t : State => t.mem.cells = s.mem.cells) l.zipIdx _ rfl ?_
  intro t ht x hx
  exact (lyOutcome_cells (h x.1 (List.fst_mem_of_mem_zipIdx hx)) t k _).trans ht

/-- With no line waiting, an answer fills none (R336). -/
theorem fillSectors_of_nothing {s : State} (h : s.rc.mshr = []) (d : SectorData) : fillSectors s d = s := by
  simp [fillSectors, h]

section
variable {s s1 : State} {k a : Nat} {l : List LyOutcome} {b : List Byte} {m : List Bool}

/-- A read of 1 to 8 sectors of one granule of the companion (R313). -/
def ReadInOrder (k a n : Nat) : Prop :=
  onComp k a (32 * n) = true ∧ 1 ≤ n ∧ n ≤ 8 ∧ a % 256 + 32 * n ≤ 256 ∧ a % 32 = 0

theorem ReadInOrder.not_refused (h : ReadInOrder k a l.length) :
    ¬(!onComp k a (32 * l.length) || l.length = 0 || decide (8 < l.length) || decide (256 < a % 256 + 32 * l.length) ||
      a % 32 != 0) = true := by
  obtain ⟨hon, h1, h8, hg, ha⟩ := h
  have hne : l ≠ [] := List.ne_nil_of_length_pos h1
  simp [hon, ha, hne, h8, hg]

theorem compRead_answers (h : ReadInOrder k a l.length) (hp : portUp s k = true) (hself : (lyOf s k).selfRef = false)
    (hr : s.pwr.restart ≠ .running) (hread : dReadSecs (foundAt s k (a / 32) l) a l.length = (s1, b, m)) :
    compRead s k a l = setLy s1 k { lyOf s k with answers := (lyOf s k).answers ++ [sectorsOf a b m] } := by
  have hly : lyOf s1 k = lyOf s k := by
    have ho := (onlyMem_dReadSecs (foundAt s k (a / 32) l) a l.length).ly
    rw [hread] at ho
    exact lyOf_eq_of_ly (ho.trans (foundAt_ly ..)) k
  have hdef : @compRead = @compRead := rfl
  conv_rhs at hdef => delta compRead
  obtain ⟨rd, hrd⟩ := exists_eq (a' := @dReadSecs)
  rw [hdef]
  rw [← hrd, foundAt] at hread
  rw [← hrd, ← hly]
  refine (if_neg h.not_refused).trans ((if_neg (by simp [hp])).trans ((if_neg (by simp [hself, hr])).trans ?_))
  simp only [hread]

theorem compRead_down (h : ReadInOrder k a l.length) (hp : portUp s k = false) (hm : s.rc.mshr = [])
    (hfree : freeBytes (countPort s k) (32 * l.length) = (s1, b)) : compRead s k a l = s1 := by
  have hs1 : s1.rc.mshr = [] := by
    obtain ⟨rfl, -⟩ := Prod.mk.inj hfree
    exact hm
  refine (if_neg h.not_refused).trans ((if_pos (by simp [hp])).trans ?_)
  simp only [hfree]
  exact fillSectors_of_nothing hs1 _

end

/-! ### Writes of one sector (R318, R319, R322) -/

theorem length_overlay (u : List (Option Byte)) (m : List Host.Cell) (a : Nat) :
    (overlay u (cellsRead m a 32)).length = 32 := by
  simp [overlay]

theorem getElem_overlay {u : List (Option Byte)} {m : List Host.Cell} {a j : Nat} (hj : j < 32) :
    (overlay u (cellsRead m a 32))[j]'(by simpa [overlay] using hj) = (u.getD j none).getD (cellGet m (a + j)) := by
  simp [overlay, cellsRead_eq _ _ _ _ hj]

/-- The named bytes go to their places; where a companion's directory is full and the write poisoned, as zeros. -/
theorem dWriteSec_cells (s : State) (sec : Nat) (upd : List (Option Byte)) (p : Bool) : ∃ u,
    (dWriteSec s sec upd p).mem.cells = cellsWrite s.mem.cells (sec * 32) (overlay u (cellsRead s.mem.cells (sec * 32) 32)) ∧
      (u = upd ∨ p = true ∧ u = upd.map (fun x => x.map (fun _ => 0))) := by
  unfold dWriteSec
  simp only []
  split
  · refine ⟨upd, ?_, .inl rfl⟩
    simp
  · split
    · refine ⟨upd, ?_, .inl rfl⟩
      split <;> dsimp only
    next hp =>
      split
      · refine ⟨upd, ?_, .inl rfl⟩
        dsimp only
      · refine ⟨_, ?_, .inr ⟨by simpa using hp, rfl⟩⟩
        rw [raiseEvent_mem, bump1_mem]

section
variable {s : State} {sec j : Nat} {upd : List (Option Byte)} {p : Bool}

theorem byteAt_dWriteSec_out {x : Nat} (h : x < sec * 32 ∨ sec * 32 + 32 ≤ x) :
    byteAt (dWriteSec s sec upd p) x = byteAt s x := by
  obtain ⟨u, hu, -⟩ := dWriteSec_cells s sec upd p
  rw [byteAt, hu, cellGet_cellsWrite_out _ _ _ _ (by rwa [length_overlay])]
  rfl

variable (hw : Memory.wf s.mem = true) (hj : j < 32)
include hw hj

theorem byteAt_dWriteSec_kept (h : upd.getD j none = none) :
    byteAt (dWriteSec s sec upd p) (sec * 32 + j) = byteAt s (sec * 32 + j) := by
  obtain ⟨u, hu, hupd⟩ := dWriteSec_cells s sec upd p
  have hnone : u.getD j none = none := by
    rcases hupd with rfl | ⟨-, rfl⟩
    · exact h
    · rw [List.getD_eq_getElem?_getD] at h ⊢
      rw [List.getElem?_map]
      cases hx : upd[j]? <;> simp_all
  rw [byteAt, hu, cellGet_cellsWrite_in _ _ _ _ ((Memory.wf_iff _).1 hw).1 (by rwa [length_overlay]), getElem_overlay hj, hnone]
  rfl

theorem byteAt_dWriteSec_written {v : Byte} (h : upd.getD j none = some v) :
    byteAt (dWriteSec s sec upd false) (sec * 32 + j) = v := by
  obtain ⟨u, hu, hupd⟩ := dWriteSec_cells s sec upd false
  obtain rfl : u = upd := by simpa using hupd
  rw [byteAt, hu, cellGet_cellsWrite_in _ _ _ _ ((Memory.wf_iff _).1 hw).1 (by rwa [length_overlay]), getElem_overlay hj, h]
  rfl

end

/-! ### WR: whole sectors, each with its poison bit -/

/-- The sectors of a write, from sector `sec` on. -/
def sectorsWritten (s : State) (sec : Nat) : List (List Byte × Bool) → State
  | [] => s
  | x :: l => sectorsWritten (dWriteSec s sec ((bytesAt x.1 0 32).map some) x.2) (sec + 1) l

theorem foldl_dWriteSec (sec : Nat) (l : List (List Byte × Bool)) (n : Nat) (s : State) :
    (l.zipIdx n).foldl (fun t x => dWriteSec t (sec + x.2) ((bytesAt x.1.1 0 32).map some) x.1.2) s =
      sectorsWritten s (sec + n) l := by
  induction l generalizing n s with
  | nil => rfl
  | cons x l ih =>
    rw [List.zipIdx_cons, List.foldl_cons, ih]
    rfl

theorem onlyMem_sectorsWritten (s : State) (sec : Nat) (l : List (List Byte × Bool)) : OnlyMem s (sectorsWritten s sec l) := by
  induction l generalizing s sec with
  | nil => exact OnlyMem.refl s
  | cons x l ih => exact (onlyMem_dWriteSec ..).trans (ih ..)

theorem sectorsWritten_rc (s : State) (sec : Nat) (l : List (List Byte × Bool)) : (sectorsWritten s sec l).rc = s.rc := by
  induction l generalizing s sec with
  | nil => rfl
  | cons x l ih => exact (ih ..).trans (dWriteSec_rc ..)

theorem Memory.wf_sectorsWritten {s : State} (h : Memory.wf s.mem = true) (sec : Nat) (l : List (List Byte × Bool)) :
    Memory.wf (sectorsWritten s sec l).mem = true := by
  induction l generalizing s sec with
  | nil => exact h
  | cons x l ih => exact ih (Memory.wf_dWriteSec _ _ _ _ h) _

theorem byteAt_sectorsWritten_out {s : State} {sec x : Nat} {l : List (List Byte × Bool)}
    (h : x < sec * 32 ∨ (sec + l.length) * 32 ≤ x) : byteAt (sectorsWritten s sec l) x = byteAt s x := by
  induction l generalizing s sec with
  | nil => rfl
  | cons y l ih =>
    rw [List.length_cons] at h
    exact (ih (by omega)).trans (byteAt_dWriteSec_out (by omega))

/-- A sector's bytes are those of the operand, zero beyond its end. -/
theorem getD_bytesAt (b : List Byte) {j : Nat} (hj : j < 32) : (bytesAt b 0 32).getD j 0 = b.getD j 0 := by
  simp only [bytesAt, List.drop_zero, List.getD_eq_getElem?_getD, List.getElem?_append, List.getElem?_replicate,
    List.length_take]
  split
  · rw [List.getElem?_take_of_lt hj]
  next h =>
    have hb : b.length ≤ j := by omega
    rw [List.getElem?_eq_none hb]
    split <;> rfl

theorem getD_map_some {b : List Byte} {j : Nat} (hj : j < 32) :
    ((bytesAt b 0 32).map some).getD j none = some (b.getD j 0) := by
  have hl : j < (bytesAt b 0 32).length := by simpa using hj
  rw [← getD_bytesAt b hj, List.getD_eq_getElem _ _ hl, List.getD_eq_getElem _ _ (by simpa using hl), List.getElem_map]

theorem byteAt_sectorsWritten_in {s : State} {sec i j : Nat} {b : List Byte} {l : List (List Byte × Bool)}
    (hw : Memory.wf s.mem = true) (hi : l[i]? = some (b, false)) (hj : j < 32) :
    byteAt (sectorsWritten s sec l) ((sec + i) * 32 + j) = b.getD j 0 := by
  induction l generalizing s sec i with
  | nil => simp at hi
  | cons y l ih =>
    cases i with
    | zero =>
      obtain rfl : y = (b, false) := by simpa using hi
      rw [Nat.add_zero, sectorsWritten, byteAt_sectorsWritten_out (by omega)]
      exact byteAt_dWriteSec_written hw hj (getD_map_some hj)
    | succ i =>
      have h := ih (sec := sec + 1) (Memory.wf_dWriteSec _ sec ((bytesAt y.1 0 32).map some) y.2 hw) (by simpa using hi)
      rwa [show sec + 1 + i = sec + (i + 1) by omega] at h

/-- With the accesses to the tiers and the companion's link put back, a write leaves nothing changed. -/
theorem undo_setLy {s s1 : State} (h : OnlyMem s s1) (k : Nat) (l : Lyush) :
    { memUndo s (setLy s1 k l) with ly := s.ly } = s := by
  have hu : { memUndo s s1 with ly := s.ly } = s := by rw [h.undo]
  exact hu

theorem compWrite_taken {s : State} {k : Nat} {d : SectorData} (hon : onComp k d.addr (32 * d.sectors.length) = true)
    (ha : d.addr % 32 = 0) (hd : d.sectors ≠ []) (hp : portUp s k = true) (hself : (lyOf s k).selfRef = false)
    (hr : s.pwr.restart ≠ .running) : compWrite s k d = setLy (sectorsWritten s (d.addr / 32) d.sectors) k
      { lyOf s k with wrAcks := (lyOf s k).wrAcks + 1 } := by
  have hly := lyOf_eq_of_ly (onlyMem_sectorsWritten s (d.addr / 32) d.sectors).ly k
  refine (if_neg (by simp [hon, ha, hd])).trans ((lyFrame_taken hp hself hr).trans ?_)
  rw [← hly]
  simp only [foldl_dWriteSec (d.addr / 32) d.sectors 0 s, Nat.add_zero]

/-! ### WR_MASK -/

/-- The bytes that a mask names, and none for the others. -/
def maskedBytes (mask : W32) (l : List Byte) : List (Option Byte) :=
  (List.range 32).map (fun i => if mask.getLsbD i then some ((bytesAt l 0 32).getD i 0) else none)

theorem maskedBytes_getD (mask : W32) (l : List Byte) {j : Nat} (hj : j < 32) :
    (maskedBytes mask l).getD j none = if mask.getLsbD j then some (l.getD j 0) else none := by
  rw [← getD_bytesAt l hj]
  simp [maskedBytes, hj]

theorem compWriteMask_taken {s : State} {k a : Nat} (mask : W32) (l : List Byte) (poison : Bool)
    (hon : onComp k a 32 = true) (ha : a % 32 = 0) (hp : portUp s k = true) (hself : (lyOf s k).selfRef = false)
    (hr : s.pwr.restart ≠ .running) : compWriteMask s k a mask l poison =
      setLy (dWriteSec s (a / 32) (maskedBytes mask l) poison) k { lyOf s k with wrAcks := (lyOf s k).wrAcks + 1 } := by
  have hly := lyOf_eq_of_ly (onlyMem_dWriteSec s (a / 32) (maskedBytes mask l) poison).ly k
  refine (if_neg (by simp [hon, ha])).trans ((lyFrame_taken hp hself hr).trans ?_)
  rw [← hly]
  rfl

/-! ### A port that goes down (R316) -/

/-- What a companion keeps when its port goes down: the loaded values, self-refresh and the recent-commit list. -/
def downLink (l : Lyush) : Lyush :=
  { Lyush.reset with
    downEvt := true, srDones := l.srDones, selfRef := l.selfRef, ctx := l.ctx, progs := l.progs, psets := l.psets,
    cbs := l.cbs, recent := l.recent }

theorem readsDown_of_nothing {s : State} (h : s.rc.mshr = []) (k : Nat) : readsDown s k = s := by
  simp [readsDown, h]

/-- The answers that updates get on a port that went down change what is outstanding on its link, and nothing that the row
cache or memory holds. -/
theorem foldl_ackTake (l : List AckMsg) (k : Nat) (s : State) : ∃ t n,
    l.foldl (fun t a => ackTake (countPort t k) k a) s = t ∧ t.rc = s.rc ∧ t.mem = s.mem ∧
      lyOf t k = { lyOf s k with outstanding := n } := by
  induction l generalizing s with
  | nil => exact ⟨s, _, rfl, rfl, rfl, rfl⟩
  | cons a l ih =>
    obtain ⟨t, n, ht, hrc, hmem, hly⟩ := ih (ackTake (countPort s k) k a)
    refine ⟨t, n, ht, hrc, hmem, ?_⟩
    rw [hly, lyOf_ackTake]
    rfl

theorem foldl_countPort (l : List AckMsg) (k : Nat) (s : State) :
    ∃ c, l.foldl (fun t _ => countPort t k) s = { s with ctrs := c } := by
  refine List.foldlRecOn (motive := fun t : State => ∃ c, t = { s with ctrs := c }) l _ ⟨s.ctrs, rfl⟩ ?_
  rintro t ⟨c, rfl⟩ a -
  exact ⟨_, rfl⟩

theorem portDown_def (s : State) (k : Nat) : ∃ (acks : List AckMsg) (p : LRun → Bool), portDown s k =
    raiseEvent (endRuns ((lyOf s k).racks.foldl (fun t _ => countPort t k) (readsDown
      (scatGo (acks.foldl (fun t a => ackTake (countPort t k) k a) (setLy s k (downLink (lyOf s k))))) k))
      p lrunChan rcPeer []) 0x21 k 0 0 :=
  ⟨_, _, rfl⟩

/-- A port goes down that no line's fill waits for. -/
theorem portDown_eq {s : State} {k : Nat} (h : s.rc.mshr = []) : ∃ n, (portDown s k).rc = s.rc ∧
    (portDown s k).mem = s.mem ∧ lyOf (portDown s k) k = { downLink (lyOf s k) with outstanding := n } := by
  obtain ⟨acks, p, hdown⟩ := portDown_def s k
  obtain ⟨t, n, ht, hrc, hmem, hly⟩ := foldl_ackTake acks k (setLy s k (downLink (lyOf s k)))
  have hgo := (scatOn_scatGo t).frame
  obtain ⟨c, hc⟩ := foldl_countPort (lyOf s k).racks k (scatGo t)
  rw [ht, readsDown_of_nothing (by rw [hgo.rc, hrc]; exact h), hc] at hdown
  refine ⟨n, ?_, ?_, ?_⟩
  · rw [hdown, raiseEvent_rc, endRuns_rc]
    exact hgo.rc.trans hrc
  · rw [hdown, raiseEvent_mem, endRuns_mem]
    exact hgo.mem.trans hmem
  · have hdownLy : (portDown s k).ly = t.ly := by
      rw [hdown, (onlyMem_raiseEvent ..).ly, endRuns_ly]
      exact hgo.ly
    rw [lyOf_eq_of_ly hdownLy, hly, lyOf_setLy_self]

/-! ### The events -/

/-- A read, an answered one and one that a down port loses. -/
theorem companionRd_step {s s0 s1 : State} {p : Fin 8} {a n : Nat} {l : List LyOutcome} {b : List Byte} {m : List Bool}
    (hs : stopped s = false) (hn : s.rc.need = []) (hl : l.length = n) (h : ReadInOrder p a n) :
    (portUp s p = true → (lyOf s p).selfRef = false → s.pwr.restart ≠ .running →
      s0 = l.zipIdx.foldl (fun t x => lyOutcome t p (a / 32 + x.2) x.1) s → dReadSecs s0 a n = (s1, b, m) →
      ∃ t, exec (.companionRd p a l) s = .next t ∧
        t = setLy s1 p { lyOf s p with answers := (lyOf s p).answers ++ [sectorsOf a b m] } ∧
        ((∀ o ∈ l, o = .clean ∨ o = .linkCe ∨ o = .linkUe) → t.mem.cells = s.mem.cells)) ∧
    (portUp s p = false → s.rc.mshr = [] → freeBytes (countPort s p) (32 * n) = (s1, b) →
      exec (.companionRd p a l) s = .next s1) := by
  subst hl
  refine ⟨fun hp hself hr h0 hread => ?_, fun hp hm hfree => ?_⟩
  · obtain rfl : s0 = foundAt s p (a / 32) l := h0
    have hrc := dReadSecs_rc (foundAt s p (a / 32) l) a l.length
    have hmem := dReadSecs_mem (foundAt s p (a / 32) l) a l.length
    rw [hread] at hrc hmem
    refine ⟨_, act_eq_next (f := fun s => compRead s p a l) hs (compRead_answers h hp hself hr hread) ?_, rfl,
      fun hclean => ?_⟩
    · rw [setLy_rc, hrc, foundAt_rc, hn]
    · rw [setLy_mem, hmem]
      exact foundAt_cells hclean ..
  · refine act_eq_next (f := fun s => compRead s p a l) hs (compRead_down h hp hm hfree) ?_
    obtain ⟨rfl, -⟩ := Prod.mk.inj hfree
    exact hn

/-- What a reserved result leaves on a link that is up: it counts, and the oldest answer on the link stands for POISONED
(R218). -/
def reservedTaken (s : State) (p : Nat) : State :=
  match (lyOf s p).acks with
  | [] => match (lyOf s p).racks with
    | [] => bump1 s (ctrCompLyProtoErr p)
    | a :: as => ackRow (setLy (bump1 s (ctrCompLyProtoErr p)) p { lyOf s p with racks := as }) { a with result := 5 }
  | a :: as => scatGo (ackTake (setLy (bump1 s (ctrCompLyProtoErr p)) p { lyOf s p with acks := as }) p { a with result := 5 })

theorem reservedResult_step {s t : State} {p : Fin 8} {r : BitVec 4} (hs : stopped s = false) (hp : portUp s p = true)
    (hr : 9 ≤ r.toNat) (ht : reservedTaken s p = t) (hn : t.rc.need = []) :
    exec (.companionReservedFrame p true 0x20 (some r)) s = .next t := by
  have hframe : ¬frameReserved 0x20 = true := by decide
  have hgo : ¬(!true || (0x20 : BitVec 8) != 0x20 || decide (r.toNat < 9)) = true := by simpa using hr
  show execCompanionReservedFrame p true 0x20 (some r) s = _
  unfold execCompanionReservedFrame
  exact act_eq_next hs ((if_neg (by simp [hp])).trans ((if_neg hframe).trans ((if_neg hgo).trans ht))) hn

end Sys2Proof.Machine
end

section
/-! PROOFS. The events of a companion's link (R208, R218, R313 to R316, R321 to R323, R330). -/

namespace Sys2Proof.Machine

theorem byteAt_setLy (s : State) (k : Nat) (l : Lyush) (x : Nat) : byteAt (setLy s k l) x = byteAt s x := rfl

section
variable {s : State} {p : Fin 8}

/-- COMPANION_WR of whole sectors (R313, R322). -/
theorem companionWr_step {d : SectorData} (hs : stopped s = false) (hn : s.rc.need = []) (hw : Memory.wf s.mem = true)
    (hon : onComp p d.addr (32 * d.sectors.length) = true) (ha : d.addr % 32 = 0) (hd : d.sectors ≠ [])
    (hp : portUp s p = true) (hself : (lyOf s p).selfRef = false) (hr : s.pwr.restart ≠ .running) :
    ∃ t, exec (.companionWr p d) s = .next t ∧ (lyOf t p).wrAcks = (lyOf s p).wrAcks + 1 ∧
      (∀ x, x < d.addr ∨ d.addr + 32 * d.sectors.length ≤ x → byteAt t x = byteAt s x) ∧
      (∀ i b j, d.sectors[i]? = some (b, false) → j < 32 → byteAt t (d.addr + 32 * i + j) = b.getD j 0) ∧
      Memory.wf t.mem = true ∧ { memUndo s t with ly := s.ly } = s := by
  refine ⟨_, act_eq_next (f := fun s => compWrite s p d) hs (compWrite_taken hon ha hd hp hself hr) ?_, ?_, fun x hx => ?_,
    fun i b j hi hj => ?_, ?_, undo_setLy (onlyMem_sectorsWritten ..) ..⟩
  · rw [setLy_rc, sectorsWritten_rc, hn]
  · rw [lyOf_setLy_self]
  · rw [byteAt_setLy, byteAt_sectorsWritten_out (by omega)]
  · rw [byteAt_setLy, show d.addr + 32 * i + j = (d.addr / 32 + i) * 32 + j by omega, byteAt_sectorsWritten_in hw hi hj]
  · exact Memory.wf_sectorsWritten hw ..

/-- WR_MASK of one sector (R313, R322). -/
theorem wrMask_step {a : Nat} (k : W32) (l : List Byte) (poison : Bool) (hs : stopped s = false) (hn : s.rc.need = [])
    (hw : Memory.wf s.mem = true) (hon : onComp p a 32 = true) (ha : a % 32 = 0)
    (hp : portUp s p = true) (hself : (lyOf s p).selfRef = false) (hr : s.pwr.restart ≠ .running) :
    ∃ t, exec (.wrMask p a k l poison) s = .next t ∧ (lyOf t p).wrAcks = (lyOf s p).wrAcks + 1 ∧
      (∀ x, x < a ∨ a + 32 ≤ x → byteAt t x = byteAt s x) ∧
      (∀ j, j < 32 → k.getLsbD j = false → byteAt t (a + j) = byteAt s (a + j)) ∧
      (∀ j, j < 32 → k.getLsbD j = true → poison = false → byteAt t (a + j) = l.getD j 0) ∧
      { memUndo s t with ly := s.ly } = s := by
  have hsec : a = a / 32 * 32 := by omega
  refine ⟨_, act_eq_next (f := fun s => compWriteMask s p a k l poison) hs (compWriteMask_taken k l poison hon ha hp hself hr)
    ?_, ?_, fun x hx => ?_, fun j hj hk => ?_, fun j hj hk hpois => ?_, undo_setLy (onlyMem_dWriteSec ..) ..⟩
  · rw [setLy_rc, dWriteSec_rc, hn]
  · rw [lyOf_setLy_self]
  · rw [byteAt_setLy, byteAt_dWriteSec_out (by omega)]
  · have h := byteAt_dWriteSec_kept (sec := a / 32) (p := poison) hw hj ((maskedBytes_getD k l hj).trans (by rw [hk]; rfl))
    rwa [← hsec] at h
  · subst hpois
    have h := byteAt_dWriteSec_written (sec := a / 32) hw hj ((maskedBytes_getD k l hj).trans (if_pos hk))
    rwa [← hsec] at h

/-! ### A port that is up -/

/-- COMPANION_PORT_RETRAIN of a port with too many replays (R315). -/
theorem retrain_step {lanes : Nat} {t : State} (hs : stopped s = false) (hp : portUp s p = true)
    (hrep : 1024 < (lyOf s p).replays) (ht : portTrained s p lanes = t) (hn : t.rc.need = []) :
    exec (.companionPortRetrain p lanes) s = .next t := by
  show execCompanionPortRetrain p lanes s = _
  unfold execCompanionPortRetrain
  exact act_eq_next hs ((if_pos (by simp [hp, hrep])).trans ht) hn

theorem retrain_to_none (hs : stopped s = false) (hn : s.rc.need = []) (hp : portUp s p = true)
    (hrep : 1024 < (lyOf s p).replays) (hm : s.rc.mshr = []) :
    ∃ t, exec (.companionPortRetrain p 0) s = .next t ∧ portUp t p = false ∧ (lyOf t p).downEvt = true ∧
      (lyOf t p).ctx = (lyOf s p).ctx ∧ (lyOf t p).flying = [] ∧ (lyOf t p).updq = [] ∧ (lyOf t p).acks = [] ∧
      t.mem = s.mem := by
  obtain ⟨n, hrc, hmem, hly⟩ := portDown_eq (k := p) hm
  have hlanes : portUp (portDown s p) p = ((lyOf (portDown s p) p).lanes != 0) := rfl
  refine ⟨_, retrain_step hs hp hrep rfl ((congrArg Cache.need hrc).trans hn), ?_⟩
  change portUp (portDown s p) p = false ∧ (lyOf (portDown s p) p).downEvt = true ∧
    (lyOf (portDown s p) p).ctx = (lyOf s p).ctx ∧ (lyOf (portDown s p) p).flying = [] ∧
    (lyOf (portDown s p) p).updq = [] ∧ (lyOf (portDown s p) p).acks = [] ∧ (portDown s p).mem = s.mem
  rw [hlanes, hly]
  exact ⟨rfl, rfl, rfl, rfl, rfl, rfl, hmem⟩

theorem srEnter_up {t : State} (hs : stopped s = false) (hn : t.rc.need = []) (hp : portUp s p = true)
    (ht : lyFrame s p (fun l =>
      if l.updq.isEmpty then setLy s p { l with selfRef := true, srDones := l.srDones + 1 } else s) = t) :
    exec (.srEnter p) s = .next t := by
  show execSrEnter p s = _
  unfold execSrEnter
  exact act_eq_next hs ((if_neg (by simp [hp])).trans ht) hn

/-- An update that waits keeps its companion out of self-refresh (R330). -/
theorem srEnter_waits (hs : stopped s = false) (hn : s.rc.need = []) (hp : portUp s p = true)
    (hself : (lyOf s p).selfRef = false) (hu : (lyOf s p).updq ≠ []) : exec (.srEnter p) s = .next s := by
  refine srEnter_up hs hn hp ?_
  by_cases hr : s.pwr.restart = .running
  · exact lyFrame_not_taken hp (.inr hr)
  · exact (lyFrame_taken hp hself hr).trans (if_neg (by simpa using hu))

end

/-- Settles O45: reads and writes by what they do to the sectors of memory, and each event of the link in closed form. -/
theorem companionAccessesTakeEffect : Obligations.CompanionAccessesTakeEffect := by
  refine ⟨?read, ?write, ?mask, ?down, ?up, ?taken⟩
  case read =>
    intro s s0 s1 p a n l b m hs hn hl hon h1 h8 hg ha
    exact companionRd_step hs hn hl ⟨hon, h1, h8, hg, ha⟩
  case write =>
    intro s p d hs hn hw hon ha hd hp hself hr
    exact companionWr_step hs hn hw hon ha hd hp hself hr
  case mask =>
    intro s p a k l poison hs hn hw hon ha hp hself hr
    exact wrMask_step k l poison hs hn hw hon ha hp hself hr
  case down =>
    intro s p hs hn hp
    have hdown : (!portUp s p) = true := by simp [hp]
    refine ⟨?enter, ?exit, rfl, congrArg Lyush.srDones (lyOf_setLy_self s p _), fun n => ?health⟩
    case enter =>
      show execSrEnter p s = _
      unfold execSrEnter
      exact act_eq_next hs (if_pos hdown) hn
    case exit =>
      show execSrExit p s = _
      unfold execSrExit
      exact act_eq_next hs (if_pos hdown) hn
    case health =>
      show execHealth ⟨p, n⟩ s = _
      unfold execHealth
      exact act_eq_next hs (if_pos hdown) hn
  case up =>
    intro s p hs hn hp
    have hup : ¬(!portUp s p) = true := by simp [hp]
    refine ⟨fun hself hr hu => srEnter_up hs hn hp ((lyFrame_taken hp hself hr).trans (if_pos (by simp [hu]))),
      fun hself hu => srEnter_waits hs hn hp hself hu, ?exit, ?health, ?nak, ?frame, ?ack, ?rack,
      fun hrep => ⟨?wide, ?half, fun hm => retrain_to_none hs hn hp hrep hm⟩⟩
    case exit =>
      show execSrExit p s = _
      unfold execSrExit
      exact act_eq_next hs (if_neg hup) hn
    case health =>
      rintro n u rfl
      show execHealth ⟨p, n⟩ s = _
      unfold execHealth
      exact act_eq_next hs (if_neg hup) hn
    case nak =>
      show execCompanionFlitNak p s = _
      unfold execCompanionFlitNak
      exact act_eq_next hs (if_neg hup) hn
    case frame =>
      intro b ty r hty
      show execCompanionReservedFrame p b ty r s = _
      unfold execCompanionReservedFrame
      exact act_eq_next hs ((if_neg hup).trans (if_pos hty)) hn
    case ack =>
      intro r a as t hr hacks ht hnt
      exact reservedResult_step hs hp hr (by simp only [reservedTaken, hacks, ht]) hnt
    case rack =>
      intro r a as hr hacks hracks
      exact reservedResult_step hs hp hr (by simp only [reservedTaken, hacks, hracks]) hn
    case wide => exact retrain_step hs hp hrep rfl hn
    case half => exact retrain_step hs hp hrep rfl ((congrArg Cache.need (raiseEvent_rc ..)).trans hn)
  case taken =>
    intro s p hs hn
    refine ⟨fun d x rest h hnt => ?data, ?wrAck, ?srDone, fun v x rest h => ?healthData⟩
    case data =>
      show execRdData p d s = _
      unfold execRdData
      exact act_eq_next hs (by simp only [h]) hnt
    case wrAck =>
      show execWrAck p s = _
      unfold execWrAck
      exact act_eq_next hs rfl hn
    case srDone =>
      show execSrDone p s = _
      unfold execSrDone
      exact act_eq_next hs rfl hn
    case healthData =>
      show execHealthData p v s = _
      unfold execHealthData
      exact act_eq_next hs (by simp only [h]) hn

end Sys2Proof.Machine
end

section
/-! PROOFS. What a REPLACE makes of its row leaves Orrery, the tables and the companions' links alone (R253, R268, R274). -/

namespace Sys2Proof.Machine

/-- Beside accesses to the tiers, at most the Almanac's own state and the tiles differ. -/
structure RowOnly (s t : State) : Prop where
  rest : OnlyMem { s with alm := t.alm, tiles := t.tiles } t

/-- An access to the tiers is the same beside another Almanac and other tiles. -/
theorem OnlyMem.withAlm {s t : State} (h : OnlyMem s t) (a : Alm) (x : FMap Tile) :
    OnlyMem { s with alm := a, tiles := x } { t with alm := a, tiles := x } := { h with alm := rfl, tiles := rfl }

theorem OnlyMem.rowOnly {s t : State} (h : OnlyMem s t) : RowOnly s t := ⟨{ h with alm := rfl, tiles := rfl }⟩

namespace RowOnly

variable {s t u : State}

theorem trans (h : RowOnly s t) (k : RowOnly t u) : RowOnly s u := ⟨(h.rest.withAlm u.alm u.tiles).trans k.rest⟩

theorem orr (h : RowOnly s t) : t.orr = s.orr := h.rest.orr

theorem foldl {α : Type} {f : State → α → State} (hf : ∀ s a, RowOnly s (f s a)) (l : List α) (s : State) :
    RowOnly s (l.foldl f s) := by
  induction l generalizing s with
  | nil => exact (OnlyMem.refl s).rowOnly
  | cons a l ih => exact (hf s a).trans (ih (f s a))

end RowOnly

theorem rowOnly_alm (s : State) (a : Alm) : RowOnly s { s with alm := a } := ⟨OnlyMem.refl _⟩

theorem rowOnly_setTile (s : State) (t : Nat) (x : Tile) : RowOnly s (setTile s t x) := ⟨OnlyMem.refl _⟩

/-! ### Codebooks and the codec -/

theorem rowOnly_cbTouch (s : State) (t id : Nat) (c : Codebook) : RowOnly s (cbTouch s t id c) := by
  have hr := onlyMem_readExt
  have hdef : @cbTouch = @cbTouch := rfl
  conv_rhs at hdef => delta cbTouch
  obtain ⟨rd, hrd⟩ := exists_eq (a' := @readExt)
  rw [hdef]
  rw [← hrd] at hr ⊢
  simp only []
  split
  · exact rowOnly_setTile ..
  · exact ((onlyMem_bump1 ..).trans (hr ..)).rowOnly.trans (rowOnly_setTile ..)

theorem rowOnly_cbDecode (s : State) (t : Nat) (x : Desc) (sl : List Byte) : RowOnly s (cbDecode s t x sl) := by
  unfold cbDecode
  split
  · exact rowOnly_cbTouch ..
  · exact (OnlyMem.refl s).rowOnly

theorem rowOnly_cbEncode (s : State) (t : Nat) (x : Desc) (e : Encoded) : RowOnly s (cbEncode s t x e) :=
  RowOnly.foldl (fun u i => by
    simp only []
    split
    · exact rowOnly_cbTouch ..
    · exact (OnlyMem.refl u).rowOnly) _ s

theorem rowOnly_codecEncode (s : State) (d row w : Nat) (v : List BF16) (version step : Nat) (freeze : Bool) :
    RowOnly s (codecEncode s d row w v version step freeze).1 :=
  (rowOnly_cbEncode ..).trans (onlyMem_countEnc ..).rowOnly

theorem rowOnly_codecRecode (s : State) (d row w : Nat) (sl : List Byte) (v : Nat) :
    RowOnly s (codecRecode s d row w sl v).1 :=
  (rowOnly_cbDecode ..).trans (rowOnly_codecEncode ..)

/-! ### The journal, installs and TOMBSTONEs

As for `onlyMem_probe`, each definition that reads a place of the Almanac or a home slot is unfolded as a function, and its
reads are replaced by variables before it is reduced. -/

theorem rowOnly_journalTake (s : State) (d row shadow : Nat) (old : Option Nat) (commit : Bool) :
    RowOnly s (journalTake s d row shadow old commit).1 := by
  have hdef : @journalTake = @journalTake := rfl
  conv_rhs at hdef => delta journalTake
  have hw := onlyMem_journalWrite
  obtain ⟨jw, hjw⟩ := exists_eq (a' := @journalWrite)
  rw [hdef]
  rw [← hjw] at hw ⊢
  exact (rowOnly_alm ..).trans (hw ..).rowOnly

theorem rowOnly_journalStage (s : State) (q i : Nat) (st : Stage) : RowOnly s (journalStage s q i st) := by
  unfold journalStage
  simp only []
  split
  · exact (rowOnly_alm ..).trans (onlyMem_journalWrite ..).rowOnly
  · exact rowOnly_alm ..

theorem rowOnly_retireSlot (s : State) (d old sz q i : Nat) : RowOnly s (retireSlot s d old sz q i) :=
  (rowOnly_alm ..).trans (rowOnly_journalStage ..)

theorem rowOnly_flipRefused (s : State) (a q i : Nat) : RowOnly s (flipRefused s a q i).1 :=
  (onlyMem_bump1 s ctrChipAlmFull).rowOnly.trans (rowOnly_alm ..)

theorem rowOnly_flip (s : State) (found : Option APlace) (d row a : Nat) (sl : List Byte) (keep : Option Bool) (q i : Nat) :
    RowOnly s (flip s found d row a sl keep q i).1 := by
  have hdef : @flip = @flip := rfl
  conv_rhs at hdef => delta flip
  have hi := onlyMem_insertGo
  have hw := onlyMem_writeEnt
  have hs := rowOnly_journalStage
  obtain ⟨ins, hins⟩ := exists_eq (a' := @insertGo)
  obtain ⟨wr, hwr⟩ := exists_eq (a' := @writeEnt)
  rw [hdef]
  rw [← hins] at hi ⊢
  rw [← hwr] at hw ⊢
  simp only []
  split
  · exact ((hw ..).rowOnly.trans (hs ..)).trans (rowOnly_retireSlot ..)
  split
  · exact rowOnly_flipRefused ..
  have hi' := hi d row 4 0 s
  split
  next s1 b n he =>
    rw [he] at hi'
    exact ((hi'.trans (hw ..)).rowOnly.trans (hs ..)).trans (rowOnly_alm ..)
  next s1 he =>
    rw [he] at hi'
    exact hi'.rowOnly.trans (rowOnly_flipRefused ..)

theorem rowOnly_installSlice (s : State) (d row : Nat) (sl : List Byte) (keep : Option Bool) (commit : Bool)
    (pch : Option Nat) : RowOnly s (installSlice s d row sl keep commit pch).1 := by
  have hdef : @installSlice = @installSlice := rfl
  conv_rhs at hdef => delta installSlice
  have hp := onlyMem_probe
  have hj := rowOnly_journalTake
  have hw := onlyMem_writeExt
  have hf := rowOnly_flip
  have hs := rowOnly_journalStage
  obtain ⟨pr, hpr⟩ := exists_eq (a' := @probe)
  obtain ⟨jt, hjt⟩ := exists_eq (a' := @journalTake)
  obtain ⟨wr, hwr⟩ := exists_eq (a' := @writeExt)
  rw [hdef]
  rw [← hpr] at hp ⊢
  rw [← hjt] at hj ⊢
  rw [← hwr] at hw ⊢
  simp only []
  split
  · exact ((hp ..).trans (onlyMem_bump1 ..)).rowOnly
  · exact ((((((hp ..).rowOnly.trans (rowOnly_alm ..)).trans (hj ..)).trans (hw ..).rowOnly)).trans (hs ..)).trans (hf ..)

theorem rowOnly_tombstone (s : State) (p : APlace) (commit : Bool) : RowOnly s (tombstone s p commit) := by
  have hdef : @tombstone = @tombstone := rfl
  conv_rhs at hdef => delta tombstone
  have hj := rowOnly_journalTake
  obtain ⟨jt, hjt⟩ := exists_eq (a' := @journalTake)
  rw [hdef]
  rw [← hjt] at hj ⊢
  simp only []
  exact ((((hj ..).trans (onlyMem_writeEnt ..).rowOnly).trans (rowOnly_journalStage ..)).trans (rowOnly_retireSlot ..)).trans
    (rowOnly_alm ..)

theorem onlyMem_rowMvalid (s : State) (d row : Nat) : OnlyMem s (rowMvalid s d row).1 := by
  have hdef : @rowMvalid = @rowMvalid := rfl
  conv_rhs at hdef => delta rowMvalid
  have hr := onlyMem_readRec
  obtain ⟨rr, hrr⟩ := exists_eq (a' := @readRec)
  rw [hdef]
  rw [← hrr] at hr ⊢
  exact hr ..

/-- DEMOTE of a row (R268, R269). -/
theorem rowOnly_demoteRow (s : State) (d row cls : Nat) (commit : Bool) : RowOnly s (demoteRow s d row cls commit) := by
  have hdef : @demoteRow = @demoteRow := rfl
  conv_rhs at hdef => delta demoteRow
  have hp := onlyMem_probe
  have hm := onlyMem_rowMvalid
  have hh := onlyMem_readHome
  have hc := rowOnly_codecRecode
  have hs := onlyMem_sendServe
  have hr := onlyMem_sendReseed
  obtain ⟨pr, hpr⟩ := exists_eq (a' := @probe)
  obtain ⟨mv, hmv⟩ := exists_eq (a' := @rowMvalid)
  obtain ⟨rh, hrh⟩ := exists_eq (a' := @readHome)
  obtain ⟨rc, hrc⟩ := exists_eq (a' := @codecRecode)
  rw [hdef]
  rw [← hpr] at hp ⊢
  rw [← hmv] at hm ⊢
  rw [← hrh] at hh ⊢
  rw [← hrc] at hc ⊢
  simp only []
  have hq := hp s d row
  split
  next s1 he =>
    rw [he] at hq
    exact hq.rowOnly
  next s1 p he =>
    rw [he] at hq
    have h4 : OnlyMem s (rh (sendServe (mv s1 d row).1 d row false cls p.ent.version) d row).1 :=
      ((hq.trans (hm ..)).trans (hs ..)).trans (hh ..)
    refine RowOnly.trans ?_ (rowOnly_tombstone ..)
    split
    · exact (h4.rowOnly.trans (hc ..)).trans ((hr ..).trans (hh ..)).rowOnly
    · exact h4.rowOnly

end Sys2Proof.Machine
end

section
/-! PROOFS. REPLACE: its source, its validation, and its part on the row (R271 to R275). -/

namespace Sys2Proof.Machine

/-! ### Reading an extent -/

theorem hcGet_orr {s t : State} {w : Who} {pa len : Nat} {d : List (Byte × Bool)} (h : hcGet s w pa len = some (t, d)) :
    t.orr = s.orr := by
  unfold hcGet at h
  split at h
  · cases h
  · obtain ⟨e, -, he⟩ := Option.map_eq_some_iff.1 h
    rw [← (Prod.mk.inj he).1]
    rfl

/-- Requests that are answered in full leave Orrery's state. -/
theorem readCuts_orr {w : Who} {s t : State} {ps : List Piece} {d : List (Byte × Bool)} (h : readCuts w s ps = .ok t d) :
    t.orr = s.orr := by
  have hr := onlyMem_readTier
  induction ps generalizing s t d with
  | nil => cases h; rfl
  | cons p ps ih =>
    have hrest : ∀ {u : State} {b : List (Byte × Bool)}, (match readCuts w u ps with
        | .ok s2 d2 => .ok s2 (b ++ d2)
        | x => x) = RdOut.ok t d → t.orr = u.orr := by
      intro u b hu
      split at hu
      next s2 d2 he =>
        obtain ⟨rfl, -⟩ := RdOut.ok.inj hu
        exact ih he
      next he => exact absurd hu (he _ _)
    unfold readCuts at h
    simp only [] at h
    split at h
    · exact (hrest h).trans (hr s p).orr
    split at h
    · exact hrest h
    split at h
    · split at h
      next hg => exact (hrest h).trans (hcGet_orr hg)
      next => cases h
    · cases h

theorem readPieces_orr {w : Who} {s t : State} {ps : List Piece} {d : List (Byte × Bool)}
    (h : readPieces w s ps = .ok t d) : t.orr = s.orr := by
  unfold readPieces at h
  split at h
  · cases h
  · exact readCuts_orr h

/-! ### The source (R273) -/

theorem rpRead_orr {s t : State} {c : Cmd} {n : Nat} {l : List Byte} {p : Bool} (h : rpRead s c n = .ok t l p) :
    t.orr = s.orr := by
  unfold rpRead at h
  split at h
  · cases h
  split at h
  · cases h
  next hp =>
    obtain ⟨rfl, -⟩ := SrcRead.ok.inj h
    exact readPieces_orr hp
  · split at h <;> cases h

/-- How a REPLACE goes on with what reading its source gave. -/
def rpRest (s : State) (c : Cmd) (r : SrcRead) (k : State → List Byte → Bool → State) : State :=
  match r with
  | .ok t d p => k t d p
  | .wait t => t
  | .denied => failCmd s c.cid 0x11
  | .lost => failCmd s c.cid 0x20

theorem rpRest_ok (s : State) (c : Cmd) (t : State) (l : List Byte) (p : Bool) (k : State → List Byte → Bool → State) :
    rpRest s c (.ok t l p) k = k t l p := rfl

/-- The bytes of the source that are read first: all of a BF16 source, or a slice's header and block exponents. -/
def rpFirst (c : Cmd) (x : Desc) : Nat := if rpEncoded c then 8 + x.cols / 32 else 2 * x.cols

/-- How an encoded source goes on behind its header and block exponents. -/
def rpSecond (s : State) (c : Cmd) (x : Desc) (k : State → List Byte → Bool → State) (t : State) (h : List Byte) (p : Bool) :
    State :=
  if p then failCmd t c.cid 0x40 else rpRest s c (rpRead t c (slotSize (slClass h) x.cols)) k

theorem rpSource_eq (s : State) (c : Cmd) (x : Desc) (k : State → List Byte → Bool → State) :
    rpSource s c x k = rpRest s c (rpRead s c (rpFirst c x)) (if rpEncoded c then rpSecond s c x k else k) := by
  unfold rpSource rpFirst
  cases rpEncoded c <;> rfl

theorem rpFirst_of_plain {c : Cmd} (he : rpEncoded c = false) (x : Desc) : rpFirst c x = 2 * x.cols :=
  if_neg (by simp [he])

theorem rpFirst_of_encoded {c : Cmd} (he : rpEncoded c = true) (x : Desc) : rpFirst c x = 8 + x.cols / 32 := if_pos he

theorem rpSource_plain {s t : State} {c : Cmd} {x : Desc} {l : List Byte} {p : Bool} (he : rpEncoded c = false)
    (h : rpRead s c (2 * x.cols) = .ok t l p) (k : State → List Byte → Bool → State) : rpSource s c x k = k t l p := by
  rw [rpSource_eq, rpFirst_of_plain he, h, rpRest_ok, if_neg (by simp [he])]

/-- Behind a readable header, an encoded source is what reading the whole of it gives. -/
theorem rpSource_encoded {s t : State} {c : Cmd} {x : Desc} {l : List Byte} (he : rpEncoded c = true)
    (h : rpRead s c (8 + x.cols / 32) = .ok t l false) (k : State → List Byte → Bool → State) :
    rpSource s c x k = rpRest s c (rpRead t c (slotSize (slClass l) x.cols)) k := by
  rw [rpSource_eq, rpFirst_of_encoded he, h, rpRest_ok, if_pos he]
  exact if_neg (by simp)

/-! ### Validation (R273) -/

/-- A source that was read in full: the command waits at its row, or fails. -/
def rpTaken (c : Cmd) (d : Nat) (x : Desc) (t : State) (data : List Byte) (poison : Bool) : State :=
  if !t.rc.need.isEmpty then t
  else if poison || (rpEncoded c && !rpSliceOk t x data) then failCmd t c.cid 0x40
  else rpArrive t c d (if rpFromHost t c data.length then some data else none)

section
variable {s : State} {c : Cmd}

/-- A REPLACE that fails steps 1 or 2 of R273. -/
theorem rpRun_invalid (h : rpFields c = false ∨ rpResolve s c = none ∨
    ∃ y, rpResolve s c = some y ∧ rpClassOk s c y.2 = false) : rpRun s c = failCmd s c.cid 0x40 := by
  unfold rpRun
  split
  · rfl
  next hf =>
    rcases h with h | h | ⟨⟨d, x⟩, h, hk⟩
    · simp [h] at hf
    · simp only [h]
    · simp only [h, hk]
      rfl

theorem rpRun_valid {d : Nat} {x : Desc} (hf : rpFields c = true) (hr : rpResolve s c = some (d, x))
    (hk : rpClassOk s c x = true) : rpRun s c = rpSource s c x (rpTaken c d x) := by
  simp only [rpRun, hf, hr, hk]
  rfl

end

/-- A REPLACE that arrives at its row waits there, with its order and what it keeps of its source. -/
theorem cmdOf_rpArrive {s : State} {c e : Cmd} (d : Nat) (l : Option (List Byte)) (h : cmdOf s c.cid = some e) :
    cmdOf (rpArrive s c d l) c.cid = some { e with phase := .waiting, plan := d, ord := s.sc.nextOrd, src := l } := by
  refine (cmdOf_updCmd_self _ c.cid _ ?_).trans ?_
  · exact fun _ => rfl
  · exact congrArg _ h

/-! ### The part on the row (R274, R275) -/

/-- The command ended in `u`, and before its end its row's operations changed no more of `s` than such operations do. -/
def RowEnded (s : State) (cid : Nat) (u : State) : Prop :=
  ∃ t prom notProm poison cls ver, RowOnly s t ∧ u = rpDone t cid prom notProm poison cls ver

theorem RowOnly.ended {s t : State} (h : RowOnly s t) (cid : Nat) (prom notProm poison : Bool) (cls ver : Nat) :
    RowEnded s cid (rpDone t cid prom notProm poison cls ver) := ⟨t, _, _, _, _, _, h, rfl⟩

theorem RowOnly.trans_ended {s t u : State} {cid : Nat} (h : RowOnly s t) (k : RowEnded t cid u) : RowEnded s cid u := by
  obtain ⟨v, _, _, _, _, _, hv, rfl⟩ := k
  exact (h.trans hv).ended ..

/-- A command that ended is done. -/
theorem RowEnded.done {s u : State} {cid : Nat} {c : Cmd} (h : RowEnded s cid u) (hc : cmdOf s cid = some c) :
    ∃ e, cmdOf u cid = some e ∧ e.phase = .done := by
  obtain ⟨t, prom, notProm, poison, cls, ver, ht, rfl⟩ := h
  have ht' := (cmdOf_eq_of_orr ht.orr cid).trans hc
  refine ⟨_, (cmdOf_updCmd_self _ cid _ ?_).trans (congrArg _ ((cmdOf_updCmd_self t cid _ ?_).trans (congrArg _ ht'))), rfl⟩
  · exact fun _ => rfl
  · exact fun _ => rfl

theorem rowOnly_rpSlice (s : State) (c : Cmd) (d : Nat) (x : Desc) (found : Option APlace) (hdr : List Byte) (bad : Bool)
    (data : List Byte) : RowOnly s (rpSlice s c d x found hdr bad data).1 := by
  unfold rpSlice
  simp only []
  split
  · exact (OnlyMem.refl s).rowOnly
  · exact rowOnly_codecEncode ..

/-- A row that is to be promoted: the install, or what follows from one that fails. -/
theorem rpPromote_ended (s : State) (c : Cmd) (d : Nat) (found : Option APlace) (sl : List Byte) :
    RowEnded s c.cid (rpPromote s c d found sl) := by
  have hdef : @rpPromote = @rpPromote := rfl
  conv_rhs at hdef => delta rpPromote
  have hi := rowOnly_installSlice s d (rpRow c) sl (some (bit (c.w 0) 26)) false none
  obtain ⟨ins, hins⟩ := exists_eq (a' := @installSlice)
  rw [hdef]
  rw [← hins] at hi ⊢
  simp only []
  split
  next t he =>
    rw [he] at hi
    exact (hi.trans (onlyMem_sendServe ..).rowOnly).ended ..
  next t e hne he =>
    rw [he] at hi
    refine (hi.trans ?_).ended ..
    split
    · exact rowOnly_demoteRow ..
    · exact (onlyMem_sendServe ..).rowOnly

/-- Past its gate a REPLACE runs to its end. -/
theorem rpGo_ended (s : State) (c : Cmd) (d : Nat) (x : Desc) (data : List Byte) :
    RowEnded s c.cid (rpGo s c d x data) := by
  have hdef : @rpGo = @rpGo := rfl
  conv_rhs at hdef => delta rpGo
  have hp := onlyMem_probe
  have hh := onlyMem_readHdr
  have hl := rowOnly_rpSlice
  have hr := onlyMem_sendReseed
  obtain ⟨pr, hpr⟩ := exists_eq (a' := @probe)
  obtain ⟨rh, hrh⟩ := exists_eq (a' := @readHdr)
  obtain ⟨sl, hsl⟩ := exists_eq (a' := @rpSlice)
  obtain ⟨rs, hrs⟩ := exists_eq (a' := @sendReseed)
  rw [hdef]
  rw [← hpr] at hp ⊢
  rw [← hrh] at hh ⊢
  rw [← hsl] at hl ⊢
  rw [← hrs] at hr ⊢
  simp only []
  have hrow (found : Option APlace) (hdr : List Byte) (bad : Bool) (new : List Byte) : RowOnly s
      (rs (sl (rh (pr s d (rpRow c)).1 d (rpRow c)).1 c d x found hdr bad data).1 d (rpRow c) new).1 :=
    ((hp ..).trans (hh ..)).rowOnly.trans ((hl ..).trans (hr ..).rowOnly)
  split
  · exact (hrow ..).ended ..
  split
  · exact ((hrow ..).trans (rowOnly_demoteRow ..)).ended ..
  · exact (hrow ..).trans_ended (rpPromote_ended ..)

/-- A source that is read again at the row (R274 step 1). -/
def rpWritten (c : Cmd) (t : State) (data : List Byte) (poison : Bool) : State :=
  if poison || (rpEncoded c && !rpSliceOk t (descOf t c.plan) data) then failCmd t c.cid 0x40
  else rpGo t c c.plan (descOf t c.plan) data

theorem rpWritten_of_good {c : Cmd} {t : State} {l : List Byte}
    (h : rpEncoded c = true → rpSliceOk t (descOf t c.plan) l = true) :
    rpWritten c t l false = rpGo t c c.plan (descOf t c.plan) l := by
  unfold rpWritten
  refine if_neg ?_
  cases he : rpEncoded c with
  | true => simp [h he]
  | false => simp

/-! ### The events -/

theorem exec_replaceRun_held {s : State} {c : Cmd} (hs : stopped s = false) (hc : cmdOf s c.cid = some c)
    (hm : rpMayRun s c = false) (hn : s.rc.need = []) : exec (.replaceRun c.cid) s = .next s := by
  show execReplaceRun c.cid s = _
  unfold execReplaceRun
  refine act_eq_next hs ?_ hn
  simp only [hc]
  exact if_pos (by simp [hm])

section
variable {s : State} {c : Cmd} (hs : stopped s = false) (hc : cmdOf s c.cid = some c) (hb : c.badLine = false)
  (hop : c.op = 0x03)
include hs hc hb hop

theorem exec_replace {t : State} (hm : mayStart s c = true) (h : rpRun s c = t) (ht : t.rc.need = []) :
    exec (.replace c.cid) s = .next t :=
  act_eq_next (f := fun s => withCmd s c.cid 0x03 (fun c s => rpRun s c)) hs
    (by simp only [withCmd, hc, hb, hop, hm]; exact h) ht

section
variable {t : State} (hp : c.phase = .waiting) (hm : rpMayRun s c = true) (ht : t.rc.need = [])
include hp hm ht

/-- At its turn on the row, with the bytes of its source at hand. -/
theorem exec_replaceRun_kept {l : List Byte} (hl : c.src = some l) (h : rpGo s c c.plan (descOf s c.plan) l = t) :
    exec (.replaceRun c.cid) s = .next t := by
  show execReplaceRun c.cid s = _
  unfold execReplaceRun
  refine act_eq_next hs ?_ ht
  simp only [hc]
  refine (if_neg (by simp [hb, hop, hp, hm])).trans ?_
  simp only [hl]
  exact h

theorem exec_replaceRun_reads (hl : c.src = none) (h : rpSource s c (descOf s c.plan) (rpWritten c) = t) :
    exec (.replaceRun c.cid) s = .next t := by
  show execReplaceRun c.cid s = _
  unfold execReplaceRun
  refine act_eq_next hs ?_ ht
  simp only [hc]
  refine (if_neg (by simp [hb, hop, hp, hm])).trans ?_
  simp only [hl]
  exact h

end

end

end Sys2Proof.Machine
end

section
/-! PROOFS. SWAP_VERSION, and versions that are retired (R71, R85, R277 to R281). -/

namespace Sys2Proof.Machine

/-! ### SWAP_VERSION (R277 to R279) -/

/-- The prepare phase behind as much of the warm set as its journal records allow. -/
theorem swGo_eq {s u : State} {n : Nat} {rows l : List (Nat × Nat)} (h : swWarm n rows s = (u, l)) (cid o : Nat) :
    swGo s cid o n rows = updCmd u cid (fun e => { e with
      phase := if l = [] then .running else .waiting, plan := n, pver := o, warm := if l = [] then none else some l }) := by
  unfold swGo
  rw [h]
  cases l <;> rfl

section
variable {s : State} {c : Cmd}

theorem swRun_going_on {rows : List (Nat × Nat)} (h : c.warm = some rows) :
    swRun s c = swGo s c.cid c.pver c.plan rows := by
  simp only [swRun, h]

variable (hw : c.warm = none)
include hw

/-- A swap that fails validation (R277). -/
theorem swRun_invalid (h : swFields c = false ∨ swResolve s c = none) : swRun s c = failCmd s c.cid 0x40 := by
  simp only [swRun, hw]
  split
  · rfl
  next hf =>
    rcases h with h | h
    · simp [h] at hf
    · simp only [h]

variable {o n : Nat} (hf : swFields c = true) (hr : swResolve s c = some (o, n))
include hf hr

theorem swRun_behind_scatters (h : swScatters s (c.f 0 8 12) = true) :
    swRun s c = updCmd s c.cid (fun c => { c with phase := .waiting }) := by
  simp only [swRun, hw, hf, hr, h]
  rfl

theorem swRun_prepares (h : swScatters s (c.f 0 8 12) = false) : swRun s c =
    swGo (swLoad s n) c.cid o n (if bit (c.w 0) 20 then warmSet (swLoad s n) o n else []) := by
  simp only [swRun, hw, hf, hr, h]
  rfl

end

section
variable {s t : State} {c : Cmd} (hs : stopped s = false) (hc : cmdOf s c.cid = some c) (ht : t.rc.need = [])
include hs hc

/-- A parked or restarting block takes no step of a swap. -/
theorem exec_swap_of_not_live (hl : live s = false) (hn : s.rc.need = []) :
    exec (.swapVersion c.cid) s = .next s ∧ exec (.swapCommit c.cid) s = .next s := by
  constructor
  · show execSwapVersion c.cid s = _
    unfold execSwapVersion
    refine act_eq_next hs ?_ hn
    simp only [hc]
    exact if_pos (by simp [hl])
  · show execSwapCommit c.cid s = _
    unfold execSwapCommit
    refine act_eq_next hs ?_ hn
    simp only [hc]
    exact if_pos (by simp [hl])

variable (hb : c.badLine = false) (hop : c.op = 0x04) (hl : live s = true)
include ht hb hop hl

theorem exec_swapVersion (hm : mayStart s c = true ∨ c.phase = .waiting) (h : swRun s c = t) :
    exec (.swapVersion c.cid) s = .next t := by
  show execSwapVersion c.cid s = _
  unfold execSwapVersion
  refine act_eq_next hs ?_ ht
  simp only [hc]
  refine (if_neg ?_).trans h
  rcases hm with hm | hm <;> simp [hb, hop, hl, hm]

variable (hp : c.phase = .running)
include hp

theorem exec_swapCommit_changed (hr : swResolve s c ≠ some (c.pver, c.plan)) (h : failCmd s c.cid 0x40 = t) :
    exec (.swapCommit c.cid) s = .next t := by
  show execSwapCommit c.cid s = _
  unfold execSwapCommit
  refine act_eq_next hs ?_ ht
  simp only [hc]
  refine (if_neg (by simp [hb, hop, hl, hp])).trans ((if_pos ?_).trans h)
  simpa using hr

theorem exec_swapCommit (hr : swResolve s c = some (c.pver, c.plan))
    (h : finish (bindDesc (retireDesc s c.pver) c.plan) c.cid = t) : exec (.swapCommit c.cid) s = .next t := by
  show execSwapCommit c.cid s = _
  unfold execSwapCommit
  refine act_eq_next hs ?_ ht
  simp only [hc]
  refine (if_neg (by simp [hb, hop, hl, hp])).trans ((if_neg ?_).trans h)
  simp [hr]

end

/-! ### The commit (R278) -/

/-- The tables when version `o` has been retired and version `n` bound. -/
def tabsSwapped (s : State) (o n : Nat) : Tabs := tabsBound { s with tabs := tabsRetired s o } n

theorem onlyMem_swap (s : State) (o n : Nat) :
    OnlyMem { s with tabs := tabsSwapped s o n } (bindDesc (retireDesc s o) n) := by
  have hr := onlyMem_retireDesc s o
  have hb : tabsBound (retireDesc s o) n = tabsSwapped s o n := by
    simp only [tabsSwapped, tabsBound, descOf, hr.tabs]
  have h := (hr.withTabs (tabsSwapped s o n)).trans (hb ▸ onlyMem_bindDesc (retireDesc s o) n)
  exact h

section
variable (s : State) (o n : Nat)

/-- The version that was loaded is LIVE, with its other fields as they were behind the retirement. -/
theorem descOf_swap_new : descOf (bindDesc (retireDesc s o) n) n = { descOf (retireDesc s o) n with dstate := 2 } :=
  descOf_eq_mset_self (l := (retireDesc s o).tabs.descs) (congrArg Tabs.descs (onlyMem_bindDesc ..).tabs)

theorem descOf_swap_ne {d : Nat} (h : d ≠ n) : descOf (bindDesc (retireDesc s o) n) d = descOf (retireDesc s o) d :=
  descOf_eq_mset_ne (congrArg Tabs.descs (onlyMem_bindDesc ..).tabs) h

theorem descOf_retireDesc_self : descOf (retireDesc s o) o = { descOf s o with dstate := 3 } :=
  descOf_eq_mset_self (l := s.tabs.descs) (congrArg Tabs.descs (onlyMem_retireDesc ..).tabs)

theorem descOf_retireDesc_ne {d : Nat} (h : d ≠ o) : descOf (retireDesc s o) d = descOf s d :=
  descOf_eq_mset_ne (congrArg Tabs.descs (onlyMem_retireDesc ..).tabs) h

/-- The binding names the new version under its table number (R72). -/
theorem binding_swap : mget? (bindDesc (retireDesc s o) n).tabs.binding
    (descOf (bindDesc (retireDesc s o) n) n).table = some n := by
  rw [descOf_swap_new, (onlyMem_bindDesc ..).tabs]
  exact mget?_mset_self ..

end

@[simp] theorem finish_tabs (s : State) (cid : Nat) : (finish s cid).tabs = s.tabs := rfl

theorem descOf_finish (s : State) (cid d : Nat) : descOf (finish s cid) d = descOf s d := rfl

theorem cmdOf_finish {s : State} {cid : Nat} {c : Cmd} (h : cmdOf s cid = some c) :
    cmdOf (finish s cid) cid = some { c with phase := .done } := by
  refine (cmdOf_updCmd_self s cid _ ?_).trans (congrArg _ h)
  exact fun _ => rfl

/-- A command that ends behind accesses to the tiers and a change of descriptors and bindings. -/
theorem OnlyMem.undo_finish {s t : State} {x : Tabs} (h : OnlyMem { s with tabs := x } t) (cid : Nat)
    (hx : { x with descs := s.tabs.descs, binding := s.tabs.binding } = s.tabs) :
    memUndo s { finish t cid with
      tabs := { (finish t cid).tabs with descs := s.tabs.descs, binding := s.tabs.binding },
      orr := { (finish t cid).orr with cmds := s.orr.cmds } } = s := by
  have ht : t.tabs = x := h.tabs
  have ho : t.orr = s.orr := h.orr
  refine OnlyMem.undo (t := { finish t cid with
    tabs := { (finish t cid).tabs with descs := s.tabs.descs, binding := s.tabs.binding },
    orr := { (finish t cid).orr with cmds := s.orr.cmds } }) { h with tabs := ?_, orr := ?_ }
  · rw [finish_tabs, ht]
    exact hx
  · simp only [finish, updCmd, ho]

/-! ### Seeds of freed stripes (R281, R301) -/

/-- Beside accesses to the tiers, at most stripes and the count of draws differ. -/
structure SeedsOnly (s t : State) : Prop where
  rest : OnlyMem { s with mc := t.mc, draws := t.draws } t

/-- An access to the tiers is the same beside other stripes and another count of draws. -/
theorem OnlyMem.withSeeds {s t : State} (h : OnlyMem s t) (m : MemCtl) (n : Nat) :
    OnlyMem { s with mc := m, draws := n } { t with mc := m, draws := n } := { h with mc := rfl, draws := rfl }

namespace SeedsOnly

variable {s t u : State}

theorem trans (h : SeedsOnly s t) (k : SeedsOnly t u) : SeedsOnly s u :=
  ⟨(h.rest.withSeeds u.mc u.draws).trans k.rest⟩

theorem alm (h : SeedsOnly s t) : t.alm = s.alm := h.rest.alm

theorem tabs (h : SeedsOnly s t) : t.tabs = s.tabs := h.rest.tabs

theorem foldl {α : Type} {f : State → α → State} (hf : ∀ s a, SeedsOnly s (f s a)) (l : List α) (s : State) :
    SeedsOnly s (l.foldl f s) := by
  induction l generalizing s with
  | nil => exact ⟨OnlyMem.refl s⟩
  | cons a l ih => exact (hf s a).trans (ih (f s a))

end SeedsOnly

theorem OnlyMem.seedsOnly {s t : State} (h : OnlyMem s t) : SeedsOnly s t := ⟨{ h with mc := rfl, draws := rfl }⟩

theorem onlyMem_flushExt (s : State) (a n : Nat) : OnlyMem s (flushExt s a n) := by
  refine (onlyMem_takeFills ..).trans (OnlyMem.foldl _ (fun t e => ?_) _ _)
  split
  · split
    · exact (onlyMem_writeBack ..).trans (onlyMem_dropLine ..)
    · exact onlyMem_dropLine ..
  · exact OnlyMem.refl t

theorem seedsOnly_draw (s : State) : SeedsOnly s (draw s).1 := ⟨OnlyMem.refl _⟩

theorem seedsOnly_restripe (s : State) (i : Nat) (x : Stripe) : SeedsOnly s (restripe s i x) :=
  ⟨(onlyMem_mem { s with mc := (restripe s i x).mc } (restripe s i x).mem)⟩

theorem seedsOnly_reseedFree (s : State) (a n : Nat) : SeedsOnly s (reseedFree s a n) :=
  SeedsOnly.foldl (fun t i => by
    simp only []
    split
    · exact ((onlyMem_flushExt ..).seedsOnly.trans (seedsOnly_draw _)).trans (seedsOnly_restripe ..)
    · exact (OnlyMem.refl t).seedsOnly) _ s

/-! ### The end of a retired version (R281, R71) -/

/-- A version that is not yet FREE keeps its descriptor; a FREE one has the reset values, and retires no more. -/
theorem freeDesc_cases (s : State) (d : Nat) :
    (¬ (d ∈ s.orr.retiring ∧ ∀ r ∈ s.alm.retire, r.desc ≠ d) ∧ freeDesc s d = s) ∨
      ((d ∈ s.orr.retiring ∧ ∀ r ∈ s.alm.retire, r.desc ≠ d) ∧ ∃ t, SeedsOnly (putDesc s d Desc.reset) t ∧
        freeDesc s d = { t with orr := { t.orr with retiring := sdel t.orr.retiring d } }) := by
  have hcond : (s.orr.retiring.contains d && !s.alm.retire.any (fun r => r.desc == d)) = true ↔
      d ∈ s.orr.retiring ∧ ∀ r ∈ s.alm.retire, r.desc ≠ d := by
    simp
  unfold freeDesc
  simp only []
  split
  next h =>
    refine .inr ⟨hcond.1 h, _, ?_, rfl⟩
    split
    · exact SeedsOnly.foldl (fun _ _ => seedsOnly_reseedFree ..) _ _
    · exact (OnlyMem.refl _).seedsOnly
  next h => exact .inl ⟨fun k => h (hcond.2 k), rfl⟩

theorem freeDesc_alm (s : State) (d : Nat) : (freeDesc s d).alm = s.alm := by
  rcases freeDesc_cases s d with ⟨-, h⟩ | ⟨-, t, ht, h⟩
  · rw [h]
  · rw [h]
    exact ht.alm.trans (onlyMem_putDesc s d Desc.reset).alm

theorem freeDesc_of_slots {s : State} {d : Nat} (h : ∃ r ∈ s.alm.retire, r.desc = d) : freeDesc s d = s := by
  obtain ⟨r, hr, hd⟩ := h
  rcases freeDesc_cases s d with ⟨-, h⟩ | ⟨⟨-, h⟩, -⟩
  · exact h
  · exact absurd hd (h r hr)

theorem freeDesc_freed {s : State} {d : Nat} (hd : d ∈ s.orr.retiring) (h : ∀ r ∈ s.alm.retire, r.desc ≠ d) :
    descOf (freeDesc s d) d = Desc.reset ∧ d ∉ (freeDesc s d).orr.retiring := by
  rcases freeDesc_cases s d with ⟨hn, -⟩ | ⟨-, t, ht, he⟩
  · exact absurd ⟨hd, h⟩ hn
  · rw [he]
    refine ⟨descOf_eq_mset_self (l := s.tabs.descs) ?_, by simp [sdel]⟩
    exact congrArg Tabs.descs (ht.tabs.trans (putDesc_tabs s d Desc.reset))

theorem mem_sins_self (l : List Nat) (n : Nat) : n ∈ sins l n := by
  induction l with
  | nil => exact List.mem_singleton_self n
  | cons k l ih =>
    unfold sins
    split
    next h => exact h ▸ List.mem_cons_self ..
    split
    · exact List.mem_cons_self ..
    · exact List.mem_cons_of_mem _ ih

section
variable {s u t : State} {d : Fin 4096} (hs : stopped s = false)
include hs

theorem exec_tombstoneRetiring_waits (h : (descOf s d).dstate ≠ 3 ∨ d.val ∈ s.orr.retiring ∨ descBound s d = true ∨
    merUp s = false ∨ live s = false) (hn : s.rc.need = []) : exec (.tombstoneRetiring d) s = .next s := by
  show execTombstoneRetiring d s = _
  unfold execTombstoneRetiring
  exact act_eq_next hs (if_pos (by simpa [or_assoc] using h)) hn

/-- A RETIRING version without work, up to where its entries are TOMBSTONE. -/
theorem exec_tombstoneRetiring (hd : (descOf s d).dstate = 3) (hr : d.val ∉ s.orr.retiring)
    (hb : descBound s d = false) (hm : merUp s = true) (hl : live s = true) (hu : u = (almOf s d).foldl retireOne s)
    (h : (if (almOf u d).isEmpty then freeDesc { u with orr := { u.orr with retiring := sins u.orr.retiring d } } d
      else u) = t) (ht : t.rc.need = []) : exec (.tombstoneRetiring d) s = .next t := by
  subst hu
  show execTombstoneRetiring d s = _
  unfold execTombstoneRetiring
  exact act_eq_next hs ((if_neg (by simp [hd, hr, hb, hm, hl])).trans h) ht

theorem exec_tombstoneClear_waits (h : (descOf s d).dstate ≠ 0 ∨ merUp s = false ∨ live s = false ∨ s.pwr.sl ≠ 3)
    (hn : s.rc.need = []) : exec (.tombstoneClear d) s = .next s := by
  show execTombstoneClear d s = _
  unfold execTombstoneClear
  exact act_eq_next hs (if_pos (by simpa [or_assoc] using h)) hn

end

/-- One TOMBSTONE that no probe sequence passes is cleared (R85). -/
def clearOne (t : State) (p : APlace) : State :=
  if probedPast t p.bucket then t else writeEnt t p.bucket p.idx (AEnt.ofNat 0)

theorem onlyMem_clearOne (t : State) (p : APlace) : OnlyMem t (clearOne t p) := by
  unfold clearOne
  split
  · exact OnlyMem.refl t
  · exact onlyMem_writeEnt ..

theorem exec_tombstoneClear {s t : State} {d : Fin 4096} (hs : stopped s = false) (hd : (descOf s d).dstate = 0)
    (hm : merUp s = true) (hl : live s = true) (hsl : s.pwr.sl = 3)
    (h : (almEntries s (fun e => e.state == 2 && e.desc == d.val)).foldl clearOne s = t) (ht : t.rc.need = []) :
    exec (.tombstoneClear d) s = .next t := by
  show execTombstoneClear d s = _
  unfold execTombstoneClear
  exact act_eq_next hs ((if_neg (by simp [hd, hm, hl, hsl])).trans h) ht

end Sys2Proof.Machine
end

section
/-! PROOFS. REPLACE, SWAP_VERSION and the end of a retired version, event by event (R71, R85, R271 to R281). -/

namespace Sys2Proof.Machine

theorem rpTaken_good {c : Cmd} {t : State} {l : List Byte} (d : Nat) (x : Desc) (p : Bool) (ht : t.rc.need = []) :
    rpTaken c d x t l p = if p || (rpEncoded c && !rpSliceOk t x l) then failCmd t c.cid 0x40
      else rpArrive t c d (if rpFromHost t c l.length then some l else none) := by
  simp [rpTaken, ht]

/-- A source that reads poisoned, in full or in its header, fails the command. -/
theorem rpSource_poisoned {s t : State} {c : Cmd} {x : Desc} {l : List Byte} (d : Nat)
    (h : rpRead s c (rpFirst c x) = .ok t l true) (ht : t.rc.need = []) :
    rpSource s c x (rpTaken c d x) = failCmd t c.cid 0x40 := by
  rw [rpSource_eq, h]
  cases he : rpEncoded c with
  | true => rfl
  | false => exact rpTaken_good d x true ht

/-- Settles O46: the validation of R273 by what reading the source gives, the part on the row by `rpGo_ended`, the swap by the
branches of `swRun` and by what its commit writes, the retired version by `freeDesc_freed`. -/
theorem replaceCommandsTakeEffect : Obligations.ReplaceCommandsTakeEffect := by
  unfold Obligations.ReplaceCommandsTakeEffect
  refine ⟨?replace, ?arrive, ?run, ?swap, ?retiring, ?clear⟩
  case replace =>
    intro s cid c hs hn hc hb hop hm
    obtain rfl := cmdOf_cid hc
    have hexec {t : State} := exec_replace (t := t) hs hc hb hop hm
    refine ⟨fun h => hexec (rpRun_invalid h) hn, ?_⟩
    rintro d x n hf hr hk hfirst
    obtain rfl : n = rpFirst c x := hfirst
    have hrun := rpRun_valid hf hr hk
    have hrest {r : SrcRead} (h : rpRead s c (rpFirst c x) = r) : rpRun s c =
        rpRest s c r (if rpEncoded c then rpSecond s c x (rpTaken c d x) else rpTaken c d x) := by
      rw [hrun, rpSource_eq, h]
    refine ⟨fun h => hexec (hrest h) hn, fun h => hexec (hrest h) hn, fun t h ht => hexec (hrest h) ht,
      fun t l p h ht => ⟨?_, fun hp he => ?_⟩, fun t hdr he h => ?_⟩
    · rintro rfl
      exact hexec (hrun.trans (rpSource_poisoned d h ht)) ht
    · refine hexec ?_ ht
      rw [hrun, rpSource_plain he (rpFirst_of_plain he x ▸ h), rpTaken_good d x p ht]
      exact if_neg (by simp [hp, he])
    · have hsecond {r : SrcRead} (h2 : rpRead t c (slotSize (slClass hdr) x.cols) = r) :
          rpRun s c = rpRest s c r (rpTaken c d x) := by
        rw [hrun, rpSource_encoded he (rpFirst_of_encoded he x ▸ h), h2]
      refine ⟨fun h2 => hexec (hsecond h2) hn, fun h2 => hexec (hsecond h2) hn, fun u h2 hu => hexec (hsecond h2) hu,
        fun u l p h2 hu => ?_⟩
      have htaken := rpTaken_good d x (c := c) (l := l) p hu
      rw [he, Bool.true_and] at htaken
      refine hexec ((hsecond h2).trans htaken) ?_
      split <;> exact hu
  case arrive => exact fun s c d l e he => cmdOf_rpArrive d l he
  case run =>
    rintro s cid c x hs hc hb hop hp rfl
    obtain rfl := cmdOf_cid hc
    have hended {t u : State} {l : List Byte} (ht : t.orr = s.orr) (hu : u = rpGo t c c.plan (descOf t c.plan) l) :
        ∃ e, cmdOf u c.cid = some e ∧ e.phase = .done :=
      hu ▸ (rpGo_ended ..).done ((cmdOf_eq_of_orr ht c.cid).trans hc)
    refine ⟨exec_replaceRun_held hs hc, fun l u hm hl hu hn => ?kept, fun t u l hm hl he h hu hn => ?plain,
      fun t h v u l hm hl he hread hread2 hok hu hn => ?encoded⟩
    case kept =>
      obtain ⟨e, hce, hpe⟩ := hended rfl hu
      exact ⟨e, exec_replaceRun_kept hs hc hb hop hp hm hn hl hu.symm, hce, hpe⟩
    case plain =>
      obtain ⟨e, hce, hpe⟩ := hended (rpRead_orr h) hu
      refine ⟨e, exec_replaceRun_reads hs hc hb hop hp hm hn hl ?_, hce, hpe⟩
      rw [rpSource_plain he h, rpWritten_of_good (by simp [he]), hu]
    case encoded =>
      obtain ⟨e, hce, hpe⟩ := hended ((rpRead_orr hread2).trans (rpRead_orr hread)) hu
      refine ⟨e, exec_replaceRun_reads hs hc hb hop hp hm hn hl ?_, hce, hpe⟩
      rw [rpSource_encoded he hread, hread2, rpRest_ok, rpWritten_of_good (fun _ => hok), hu]
  case swap =>
    intro s cid c hs hn hc hb hop
    obtain rfl := cmdOf_cid hc
    refine ⟨fun hl => exec_swap_of_not_live hs hc hl hn, fun hl hm hw => ?begins, fun rows u l hl hm hw h hu => ?goesOn,
      fun hl hp => ⟨fun hr => exec_swapCommit_changed hs hc hn hb hop hl hp hr rfl, fun u hr hu hn => ?commits⟩⟩
    case begins =>
      have hexec {t : State} (ht : t.rc.need = []) := exec_swapVersion hs hc ht hb hop hl hm
      refine ⟨fun h => hexec hn (swRun_invalid hw h), fun o n hf hr =>
        ⟨fun h => hexec hn (swRun_behind_scatters hw hf hr h), fun u l h hwarm hu => ?_⟩⟩
      exact hexec hu ((swRun_prepares hw hf hr h).trans (swGo_eq hwarm c.cid o))
    case goesOn => exact exec_swapVersion hs hc hu hb hop hl hm ((swRun_going_on hw).trans (swGo_eq h c.cid c.pver))
    case commits =>
      have hmem := onlyMem_swap s c.pver c.plan
      have hcmd : cmdOf u c.cid = some { c with phase := .done } := by
        rw [hu]
        exact cmdOf_finish ((cmdOf_eq_of_orr hmem.orr c.cid).trans hc)
      have hdesc (d : Nat) : descOf u d = descOf (bindDesc (retireDesc s c.pver) c.plan) d := by
        rw [hu, descOf_finish]
      refine ⟨_, exec_swapCommit hs hc hn hb hop hl hp hr hu.symm, hcmd, rfl, ?_, fun hne => ?_, ?_, fun d h1 h2 => ?_, ?_⟩
      · rw [hdesc, descOf_swap_new]
      · rw [hdesc, descOf_swap_ne _ _ _ hne, descOf_retireDesc_self]
      · rw [hdesc, hu, finish_tabs]
        exact binding_swap ..
      · rw [hdesc, descOf_swap_ne _ _ _ h1, descOf_retireDesc_ne _ _ h2]
      · rw [hu]
        exact hmem.undo_finish c.cid rfl
  case retiring =>
    intro s u d hs
    refine ⟨exec_tombstoneRetiring_waits hs, fun hd hr hb hm hl hu => ?_⟩
    have hexec {t : State} := exec_tombstoneRetiring (t := t) hs hd hr hb hm hl hu
    have hin := mem_sins_self u.orr.retiring d
    refine ⟨fun ha hn => hexec (if_neg (by simpa using ha)) hn, fun ha hslots hn => ?_, fun t ha hnone ht hn => ?_⟩
    · exact hexec ((if_pos (by simp [ha])).trans (freeDesc_of_slots hslots)) hn
    · have hfree := freeDesc_freed (s := { u with orr := { u.orr with retiring := sins u.orr.retiring d } }) hin hnone
      exact ⟨hexec ((if_pos (by simp [ha])).trans ht.symm) hn, ht ▸ hfree.1, ht ▸ hfree.2⟩
  case clear =>
    intro s t d hs
    refine ⟨exec_tombstoneClear_waits hs, fun hd hm hl hsl ht hn => ⟨exec_tombstoneClear hs hd hm hl hsl ht.symm hn, ?_⟩⟩
    exact (ht ▸ OnlyMem.foldl clearOne onlyMem_clearOne _ s : OnlyMem s t).undo

end Sys2Proof.Machine
end

section
/-! PROOFS. Grace epochs: the close of one, and drains that it forces (R257 to R260, R281). -/

namespace Sys2Proof.Machine

/-! ### EPOCH_CLOSE (R259) -/

theorem foldl_freeSlot (l : List Retired) (s : State) : l.foldl (fun t r => freeSlot t r.addr) s =
    { s with alm := { s.alm with used := s.alm.used.filter (fun u => l.all (fun r => u.1 != r.addr)) } } := by
  induction l generalizing s with
  | nil => simp
  | cons r l ih =>
    rw [List.foldl_cons, ih]
    simp only [freeSlot, List.filter_filter, List.all_cons, Bool.and_comm]

/-- The slots retired one epoch back. -/
def oldSlots (s : State) : List Retired := s.alm.retire.filter (fun r => r.epoch != s.alm.epoch.toNat)

/-- The Almanac's own state at the start of the next epoch. -/
def almClosed (s : State) : Alm :=
  { s.alm with
    used := s.alm.used.filter (fun u => (oldSlots s).all (fun r => u.1 != r.addr)),
    retire := s.alm.retire.filter (fun r => r.epoch == s.alm.epoch.toNat),
    journal := s.alm.journal.filter (fun j => !(j.stage == .retired && j.epoch != s.alm.epoch.toNat)),
    epoch := s.alm.epoch + 1, passed := [], draining := [] }

/-- The close behind which the versions that retire may become FREE. -/
def epochClosed (s : State) : State :=
  bump1 (bump { s with alm := almClosed s } ctrChipSlotReclaim (oldSlots s).length) ctrChipEpochClose

theorem closeEpoch_eq (s : State) : closeEpoch s = s.orr.retiring.foldl freeDesc (epochClosed s) := by
  unfold closeEpoch
  simp only []
  rw [foldl_freeSlot]
  rfl

theorem closeEpoch_alm (s : State) : (closeEpoch s).alm = almClosed s := by
  rw [closeEpoch_eq]
  exact foldl_keeps State.alm freeDesc freeDesc_alm _ _

theorem mem_used_almClosed (s : State) (u : Nat × Nat) : u ∈ (almClosed s).used ↔
    u ∈ s.alm.used ∧ ∀ r ∈ s.alm.retire, r.epoch ≠ s.alm.epoch.toNat → u.1 ≠ r.addr := by
  simp [almClosed, oldSlots, or_iff_not_imp_left]

theorem closeEpoch_mem {s : State} (h : s.orr.retiring = []) : (closeEpoch s).mem = s.mem := by
  rw [closeEpoch_eq, h]
  rfl

theorem exec_epochClose {s t : State} (hs : stopped s = false) (hsl : s.pwr.sl = 3) (hd : epochDue s = true)
    (hl : live s = true) (h : closeEpoch s = t) (ht : t.rc.need = []) : exec .epochClose s = .next t := by
  show execEpochClose s = _
  unfold execEpochClose
  exact act_eq_next hs ((if_pos (by simp [hsl, hd, hl])).trans h) ht

theorem exec_epochClose_waits {s : State} (hs : stopped s = false) (h : s.pwr.sl ≠ 3 ∨ epochDue s = false ∨ live s = false)
    (hn : s.rc.need = []) : exec .epochClose s = .next s := by
  show execEpochClose s = _
  unfold execEpochClose
  refine act_eq_next hs (if_neg ?_) hn
  simpa [or_assoc, imp_iff_not_or] using h

/-! ### QP_FORCED_DRAIN (R260) -/

/-- Beside the credit queues of tiles and the units' entries, nothing differs. -/
def DrainOnly (s t : State) : Prop := ∃ ts us, t = { s with tiles := ts, orr := { s.orr with units := us } }

theorem drainOnly_drainAddrs (s : State) (u : Unit') : DrainOnly s (drainAddrs s u) := by
  unfold drainAddrs
  split
  · exact ⟨_, _, rfl⟩
  · exact ⟨_, _, rfl⟩

theorem drainOnly_foldl (l : List Unit') (s : State) : DrainOnly s (l.foldl drainAddrs s) := by
  induction l generalizing s with
  | nil => exact ⟨_, _, rfl⟩
  | cons u l ih =>
    obtain ⟨ts, us, h⟩ := drainOnly_drainAddrs s u
    obtain ⟨ts', us', h'⟩ := ih (drainAddrs s u)
    exact ⟨ts', us', h'.trans (by rw [h])⟩

/-- A tile that drains has passed its point if it is quiet now, and drains on if not. -/
theorem mem_notePass {s : State} {k : Nat} (h : k ∈ s.alm.draining) :
    k ∈ (notePass s k).alm.draining ∨ k ∈ (notePass s k).alm.passed := by
  unfold notePass
  split
  · exact .inr (mem_sins_self ..)
  · exact .inl h

/-- Tile k is marked as draining, which counts. -/
def drainBegun (s : State) (k : Nat) : State :=
  bump1 { s with alm := { s.alm with draining := sins s.alm.draining k } } (ctrTileQpForced k)

section
variable {s : State} {k : Nat} (hp : k ∉ s.alm.passed) (hd : k ∉ s.alm.draining)
include hp hd

theorem forceDrain_tile (hk : k < 48) (hq : tileQuiet s k = false) : ∃ al ts us, forceDrain s k =
    { bump1 s (ctrTileQpForced k) with alm := al, tiles := ts, orr := { s.orr with units := us } } ∧
      (k ∈ al.draining ∨ k ∈ al.passed) := by
  have hforce : ∃ l : List Unit', forceDrain s k = notePass (l.foldl drainAddrs (drainBegun s k)) k := by
    unfold forceDrain
    exact ⟨_, (if_neg (by simp [hp, hd])).trans ((if_neg (by omega)).trans (if_neg (by simp [hq])))⟩
  obtain ⟨l, hforce⟩ := hforce
  obtain ⟨ts, us, hdrain⟩ := drainOnly_foldl l (drainBegun s k)
  have hin := mem_notePass (s := l.foldl drainAddrs (drainBegun s k)) (k := k) (by
    rw [hdrain]
    exact mem_sins_self ..)
  obtain ⟨al, hpass⟩ := notePass_eq (l.foldl drainAddrs (drainBegun s k)) k
  rw [hpass] at hin
  refine ⟨al, ts, us, hforce.trans (hpass.trans ?_), hin⟩
  rw [hdrain]
  rfl

/-- A replacement engine is forced once and passes at once. -/
theorem forceDrain_engine (hk : 48 ≤ k) : forceDrain s k =
    { bump1 s (ctrQuadQpForced (k - 48)) with alm := { s.alm with passed := sins s.alm.passed k } } := by
  unfold forceDrain
  exact (if_neg (by simp [hp, hd])).trans (if_pos hk)

end

theorem forceDrain_passed {s : State} {k : Nat}
    (h : k ∈ s.alm.passed ∨ k ∈ s.alm.draining ∨ (k < 48 ∧ tileQuiet s k = true)) : forceDrain s k = s := by
  unfold forceDrain
  split
  · rfl
  next hno =>
    obtain ⟨hk, hq⟩ : k < 48 ∧ tileQuiet s k = true := by
      rcases h with h | h | h
      · simp [h] at hno
      · simp [h] at hno
      · exact h
    exact (if_neg (by omega)).trans (if_pos hq)

theorem exec_qpForcedDrain {s t : State} {k : Fin 52} (hs : stopped s = false)
    (h : (if live s then forceDrain s k else s) = t) (ht : t.rc.need = []) : exec (.qpForcedDrain k) s = .next t := by
  show execQpForcedDrain k s = _
  unfold execQpForcedDrain
  exact act_eq_next hs h ht

end Sys2Proof.Machine
end

section
/-! PROOFS. The end of a measurement window, the Almanac scan and the pool audit (R283, R285, R287, R289, R290, R292, R342). -/

namespace Sys2Proof.Machine

/-! ### Latched counters (R283, R549) -/

/-- A window counter at word 0 of its unit: the live value goes up one word. -/
theorem mget?_latchAll_latched (m : FMap Nat) {k : Nat} (hw : isWindowCtr k = true) (h0 : k % 64 = 0) :
    mget? (latchAll m) (k + 1) = mget? m k := by
  have hk : isLatchedCtr k = false := by simp [isLatchedCtr, h0]
  have hk1 : isLatchedCtr (k + 1) = true := by
    have : (k + 1) % 64 ≠ 0 := by omega
    simp [isLatchedCtr, hw, this]
  induction m with
  | nil => rfl
  | cons e m ih =>
    obtain ⟨a, v⟩ := e
    unfold latchAll at ih ⊢
    by_cases ha : a = k
    · subst ha
      simp [mget?, hk, hw]
    by_cases hl : isLatchedCtr a = true
    · simp [mget?, hl, ha, ih]
    · have ha1 : a ≠ k + 1 := fun h => hl (h ▸ hk1)
      by_cases hwa : isWindowCtr a = true <;> simp [mget?, hl, hwa, ha, ha1, ih]

/-- The live value starts again where no window counter lies one word below. -/
theorem mget?_latchAll_live (m : FMap Nat) {k : Nat} (hw : isWindowCtr k = true)
    (hb : ∀ a, a + 1 = k → isWindowCtr a = false) : mget? (latchAll m) k = none := by
  induction m with
  | nil => rfl
  | cons e m ih =>
    obtain ⟨a, v⟩ := e
    unfold latchAll at ih ⊢
    by_cases hl : isLatchedCtr a = true
    · simp [hl, ih]
    by_cases hwa : isWindowCtr a = true
    · have ha : a + 1 ≠ k := fun h => by simp [hb a h] at hwa
      simp [mget?, hl, hwa, ha, ih]
    · have ha : a ≠ k := fun h => hwa (h ▸ hw)
      simp [mget?, hl, hwa, ha, ih]

/-- Word 0 of a unit of the sets 3 (`PCH_RD`) and 5 (`CMP_RD`) is a window counter, and nothing below it is one. -/
theorem latched_readCtr {n i : Nat} (hn : n = 3 ∨ n = 5) (hi : i < 384) (m : FMap Nat) :
    mget (latchAll m) (ctrKey n i 0 + 1) 0 = mget m (ctrKey n i 0) 0 ∧ mget (latchAll m) (ctrKey n i 0) 0 = 0 := by
  have hset : ctrKey n i 0 / 2 ^ 24 = n := by
    unfold ctrKey
    omega
  have h0 : ctrKey n i 0 % 64 = 0 := by
    unfold ctrKey
    omega
  have hw : isWindowCtr (ctrKey n i 0) = true := by
    unfold isWindowCtr
    rcases hn with rfl | rfl <;> simp only [hset, h0] <;> rfl
  have hbelow : ∀ a, a + 1 = ctrKey n i 0 → isWindowCtr a = false := by
    intro a ha
    have hword : a % 64 = 63 := by omega
    have hset' : a / 16777216 ≠ 1 := by
      unfold ctrKey at ha
      omega
    simp [isWindowCtr, hword, hset']
  simp only [mget, mget?_latchAll_latched m hw h0, mget?_latchAll_live m hw hbelow, Option.getD_none, and_self]

/-! ### Lines at the end of a window (R342) -/

theorem mget?_mmap {α : Type} (m : FMap α) (f : Nat → α → α) (k : Nat) : mget? (mmap m f) k = (mget? m k).map (f k) := by
  induction m with
  | nil => rfl
  | cons e m ih =>
    obtain ⟨a, v⟩ := e
    by_cases h : a = k
    · subst h
      simp [mmap, mget?]
    · simpa [mmap, mget?, h] using ih

theorem mget?_unkeepAll {m : FMap CLine} {k : Nat} {l : CLine} (h : mget? m k = some l) :
    mget? (unkeepAll m) k = some { l with keep := l.keep && l.touched, touched := false } :=
  (mget?_mmap ..).trans (congrArg _ h)

theorem touched_unkeepAll {m : FMap CLine} {e : Nat × CLine} (h : e ∈ unkeepAll m) : e.2.touched = false := by
  obtain ⟨x, -, rfl⟩ := List.mem_map.1 h
  rfl

/-! ### HASH_SKEW (R290) -/

/-- Beside events and the counters of the chip's own set, nothing differs. -/
structure Noted (s t : State) : Prop where
  rest : OnlyMem s t
  mem : t.mem = s.mem
  rc : t.rc = s.rc
  ctrs : ∀ k, k / 2 ^ 24 ≠ 12 → ctr t k = ctr s k

namespace Noted

variable {s t u : State}

theorem refl (s : State) : Noted s s := ⟨OnlyMem.refl s, rfl, rfl, fun _ _ => rfl⟩

theorem trans (h : Noted s t) (k : Noted t u) : Noted s u :=
  ⟨h.rest.trans k.rest, k.mem.trans h.mem, k.rc.trans h.rc, fun n hn => (k.ctrs n hn).trans (h.ctrs n hn)⟩

end Noted

theorem noted_bump1 (s : State) {k : Nat} (hk : k / 2 ^ 24 = 12) : Noted s (bump1 s k) := by
  refine ⟨onlyMem_bump1 s k, rfl, rfl, fun n hn => ?_⟩
  exact mget_mset_ne _ _ _ _ _ (fun h => hn (h ▸ hk))

theorem noted_bumpIf (s : State) (b : Bool) {k : Nat} (hk : k / 2 ^ 24 = 12) : Noted s (bumpIf s b k) := by
  cases b
  · exact Noted.refl s
  · exact noted_bump1 s hk

theorem noted_raiseEvent (s : State) (code u : Nat) (ea eb : W64) : Noted s (raiseEvent s code u ea eb) := by
  refine ⟨onlyMem_raiseEvent .., raiseEvent_mem .., raiseEvent_rc .., fun n hn => ?_⟩
  unfold raiseEvent
  split
  · rfl
  · simp only [ctr, msixFire_ctrs]
    exact ((noted_bumpIf _ _ rfl).ctrs n hn).trans ((noted_bumpIf _ _ rfl).ctrs n hn)

theorem noted_skewTier (s : State) (tier n : Nat) (key : Nat → Nat) (run : Nat × Nat × Bool) :
    Noted s (skewTier s tier n key run).1 := by
  unfold skewTier
  simp only []
  split
  · exact Noted.refl s
  split
  all_goals
    split
    · exact (noted_bump1 s rfl).trans (noted_raiseEvent ..)
    split
    · exact noted_raiseEvent ..
    · exact Noted.refl s

/-! ### MW_ROLLOVER (R283, R287, R289) -/

theorem length_deriveOps (s : State) : (deriveOps s).length ≤ s.load.mig.migMax := by
  unfold deriveOps
  exact List.length_take_le ..

/-- What counts per window latched, and started again. -/
def windowLatched (s : State) : State :=
  { s with
    ctrs := latchAll s.ctrs,
    rc := { s.rc with lines := unkeepAll s.rc.lines, ceWin := [] },
    mc := { s.mc with stk := mmap s.mc.stk (fun _ k => { k with tracker := [] }) },
    ly := mmap s.ly (fun _ l => { l with replays := 0 }),
    tr := { s.tr with links := mmap s.tr.links (fun _ l => { l with replays := 0 }) },
    load := { s.load with mwNum := s.load.mwNum + 1, mwAclk := 0, latched := s.load.sketch, sketch := [],
                          lcands := s.load.cands, cands := [] } }

/-- What is noted behind the latching leaves the reads that were latched (R283). -/
theorem Noted.readCtr {s t : State} (h : Noted (windowLatched s) t) {n i : Nat} (hn : n = 3 ∨ n = 5) (hi : i < 384) :
    ctr t (ctrKey n i 0 + 1) = ctr s (ctrKey n i 0) ∧ ctr t (ctrKey n i 0) = 0 := by
  obtain ⟨hup, hzero⟩ := latched_readCtr hn hi s.ctrs
  have hset : (ctrKey n i 0 + 1) / 2 ^ 24 ≠ 12 ∧ ctrKey n i 0 / 2 ^ 24 ≠ 12 := by
    unfold ctrKey
    omega
  exact ⟨(h.ctrs _ hset.1).trans hup, (h.ctrs _ hset.2).trans hzero⟩

/-- Behind the latching, skew is noted, and what Meridian is to do follows from what was latched. -/
theorem rollover_eq (s : State) : ∃ t f g ops, Noted (windowLatched s) t ∧ ops.length ≤ s.load.mig.migMax ∧
    rollover s = { t with load := { t.load with runF := f, runS := g, ops := ops, scanned := [] } } := by
  have hdef : @rollover = @rollover := rfl
  conv_rhs at hdef => delta rollover
  have hk := noted_skewTier
  have hd := length_deriveOps
  obtain ⟨sk, hsk⟩ := exists_eq (a' := @skewTier)
  obtain ⟨dv, hdv⟩ := exists_eq (a' := @deriveOps)
  rw [hdef]
  rw [← hsk] at hk ⊢
  rw [← hdv] at hd ⊢
  simp only []
  have hnoted := (hk (windowLatched s) 0 384 ctrPchPchRd (windowLatched s).load.runF).trans
    (hk _ 1 8 ctrCompCmpRd (sk (windowLatched s) 0 384 ctrPchPchRd (windowLatched s).load.runF).1.load.runS)
  have hmax := congrArg (fun l : Load => l.mig.migMax) hnoted.rest.load
  refine ⟨_, _, _, _, hnoted, ?_, rfl⟩
  split
  · exact (hd _).trans (Nat.le_of_eq hmax)
  · exact Nat.zero_le _

theorem exec_mwRollover {s t : State} (hs : stopped s = false) (hp : s.pwr.park ≠ .parked) (hw : s.pwr.park ≠ .waking)
    (h : rollover s = t) (ht : t.rc.need = []) : exec .mwRollover s = .next t := by
  show execMwRollover s = _
  unfold execMwRollover
  exact act_eq_next hs ((if_neg (by simp [hp, hw])).trans h) ht

theorem exec_mwRollover_parked {s : State} (hs : stopped s = false) (h : s.pwr.park = .parked ∨ s.pwr.park = .waking)
    (hn : s.rc.need = []) : exec .mwRollover s = .next s := by
  show execMwRollover s = _
  unfold execMwRollover
  exact act_eq_next hs (if_pos (by simpa using h)) hn

/-! ### The Almanac scan and the pool audit (R289, R292) -/

theorem mem_used_poolAudit (s : State) (u : Nat × Nat) : u ∈ (poolAudit s).alm.used ↔ u ∈ s.alm.used ∧
    ((∃ p ∈ almEntries s (fun e => e.state == 1), p.ent.slot * 32 = u.1) ∨ ∃ r ∈ s.alm.retire, r.addr = u.1) := by
  simp [poolAudit]

section
variable {s : State} (hs : stopped s = false) (hn : s.rc.need = [])
include hs hn

theorem exec_almanacScan (d : Fin 4096) (hm : merUp s = true) (hl : live s = true) (hsl : s.pwr.sl = 3) :
    exec (.almanacScan d) s = .next { s with load := { s.load with
      scanned := s.load.scanned.filter (fun x => x.1 != d.val) ++ (almOf s d).map (fun p => (p.ent.desc, p.ent.row)) } } := by
  show execAlmanacScan d s = _
  unfold execAlmanacScan
  exact act_eq_next hs (if_neg (by simp [hm, hl, hsl])) hn

theorem exec_poolAudit (hm : merUp s = true) (hl : live s = true) (hsl : s.pwr.sl = 3) :
    exec .poolAudit s = .next (poolAudit s) := by
  show execPoolAudit s = _
  unfold execPoolAudit
  exact act_eq_next hs (if_neg (by simp [hm, hl, hsl])) hn

theorem exec_scan_and_audit_wait (d : Fin 4096) (h : merUp s = false ∨ live s = false ∨ s.pwr.sl ≠ 3) :
    exec (.almanacScan d) s = .next s ∧ exec .poolAudit s = .next s := by
  have hc : (!merUp s || !live s || s.pwr.sl != 3) = true := by simpa [or_assoc] using h
  constructor
  · show execAlmanacScan d s = _
    unfold execAlmanacScan
    exact act_eq_next hs (if_pos hc) hn
  · show execPoolAudit s = _
    unfold execPoolAudit
    exact act_eq_next hs (if_pos hc) hn

end

/-- Settles O48: the close by what it leaves of the Almanac's own state, a drain by `forceDrain`'s branches, the rollover by
what is latched and by what HASH_SKEW may note behind it (`Noted`). -/
theorem epochsAndWindowsTakeEffect : Obligations.EpochsAndWindowsTakeEffect := by
  unfold Obligations.EpochsAndWindowsTakeEffect
  refine ⟨?close, ?drain, ?window, ?audit⟩
  case close =>
    intro s t hs
    refine ⟨fun hsl hd hl ht hn => ?_, exec_epochClose_waits hs⟩
    subst ht
    have hal := closeEpoch_alm s
    refine ⟨exec_epochClose hs hsl hd hl rfl hn, ?_, ?_, ?_, ?_, ?_, ?_, ?_, closeEpoch_mem⟩ <;> rw [hal]
    case refine_6 => exact fun u hu => (mem_used_almClosed s u).1 hu
    case refine_7 => exact fun u hu hr => (mem_used_almClosed s u).2 ⟨hu, hr⟩
    all_goals rfl
  case drain =>
    intro s k hs hn
    refine ⟨fun hl hk hp hd hq => ?_, fun hl hk hp hd => ?_, fun h => exec_qpForcedDrain hs ?_ hn⟩
    · obtain ⟨al, ts, us, h, hin⟩ := forceDrain_tile hp hd hk hq
      refine ⟨_, exec_qpForcedDrain hs ((if_pos hl).trans h) hn, hin, rfl, rfl⟩
    · exact exec_qpForcedDrain hs ((if_pos hl).trans (forceDrain_engine hp hd hk)) hn
    · split
      next hl =>
        refine forceDrain_passed (h.resolve_left ?_)
        simp [hl]
      next => rfl
  case window =>
    intro s hs hn
    refine ⟨fun hp hw => ?_, fun h => exec_mwRollover_parked hs h hn⟩
    obtain ⟨t, f, g, ops, ht, hops, h⟩ := rollover_eq s
    have hrc : t.rc = (windowLatched s).rc := ht.rc
    have hld : t.load = (windowLatched s).load := ht.rest.load
    refine ⟨_, exec_mwRollover hs hp hw h ?need, congrArg Load.mwNum hld, congrArg Load.mwAclk hld,
      congrArg Load.latched hld, congrArg Load.sketch hld, congrArg Load.lcands hld, congrArg Load.cands hld, rfl, hops,
      ht.mem, ht.rest.tabs, ht.rest.alm, fun i hi => ht.readCtr (.inl rfl) hi, fun i hi => ht.readCtr (.inr rfl) (by omega),
      fun e he => ?touched, fun k l hl => ?kept⟩
    case need => exact (congrArg Cache.need hrc).trans hn
    case touched => exact touched_unkeepAll (congrArg Cache.lines hrc ▸ he)
    case kept =>
      show mget? t.rc.lines k = _
      rw [hrc]
      exact mget?_unkeepAll hl
  case audit =>
    intro s d hs hn
    exact ⟨fun hm hl hsl => ⟨exec_almanacScan hs hn d hm hl hsl, _, exec_poolAudit hs hn hm hl hsl,
      mem_used_poolAudit s, rfl⟩, exec_scan_and_audit_wait hs hn d⟩

end Sys2Proof.Machine
end

section
/-! PROOFS. The decode of tier F (R296, R298 to R300): each stripe's map of its granules onto the bands of the 384
pseudo-channels, its inverse, and the bijection that follows for the whole tier. -/

namespace Sys2Proof.Machine

/-! ### The bands of one stripe (R298 to R300) -/

/-- Pseudo-channel and place in its band of the offset `o` of stripe `i`. -/
def bandOf (st : Stripe) (i o : Nat) : Nat × Nat :=
  if st.mode = 0 then (8 * (o / 0x1000000) + ((o % 0x1000000) >>> 8) % 8, (o % 0x1000000) >>> 11)
  else if st.mode = 1 then
    (8 * quadTile (o / 0xC000000) (((o % 0xC000000) >>> 8) % 96 / 8) + ((o % 0xC000000) >>> 8) % 96 % 8,
      ((o % 0xC000000) >>> 8) / 96)
  else (((o >>> 8) % 384 + stripeRot i ((o >>> 8) / 384) st.seed) % 384, (o >>> 8) / 384)

/-- Offset in stripe `i` of the granule at place `g` of the band of pseudo-channel `p`. -/
def granuleOff (st : Stripe) (i p g : Nat) : Nat :=
  if st.mode = 0 then p / 8 * 0x1000000 + g * 2048 + p % 8 * 256
  else if st.mode = 1 then quadOf (p / 8) * 0xC000000 + (g * 96 + 8 * quadPlace (p / 8) + p % 8) * 256
  else (g * 384 + (p + 384 - stripeRot i g st.seed) % 384) * 256

theorem decodeF_eq_bandOf (s : State) (a : Nat) :
    decodeF s a = bandOf (stripeOf s (a / 0x30000000)) (a / 0x30000000) (a % 0x30000000) := by
  simp only [decodeF, bandOf]

theorem stripeRot_lt (i r : Nat) (seed : W64) : stripeRot i r seed < 384 := Nat.mod_lt _ (by decide)

theorem quadPlace_quadTile {q k : Nat} (hk : k < 12) : quadPlace (quadTile q k) = k := by
  unfold quadPlace
  rw [quadTile_div]
  unfold quadTile
  omega

/-- A tile's place in its quadrant is the one at which the quadrant's enumeration meets it. -/
theorem find?_quadTile {t : Nat} (ht : t < 48) :
    (List.range 12).find? (fun j => quadTile (quadOf t) j == t) = some (quadPlace t) := by
  rw [List.find?_range_eq_some]
  refine ⟨by simp [quadTile_quadPlace ht], List.mem_range.mpr (quadPlace_lt t), fun j hj => ?_⟩
  have h := quadTile_strictMono (quadOf t) hj
  rw [quadTile_quadPlace ht] at h
  simp; omega

theorem addrOfChan_eq (st : Stripe) {p : Nat} (hp : p < 384) (ca : Nat) : addrOfChan st p ca =
    ca / 0x200000 * 0x30000000 + granuleOff st (ca / 0x200000) p (ca % 0x200000 / 256) + ca % 256 := by
  simp only [addrOfChan, granuleOff, find?_quadTile (show p / 8 < 48 by omega), Option.getD_some]

section
variable {o : Nat} (ho : o < 0x30000000)
include ho

theorem bandOf_lt (st : Stripe) (i : Nat) : (bandOf st i o).1 < 384 ∧ (bandOf st i o).2 < 8192 := by
  unfold bandOf
  simp only [Nat.shiftRight_eq_div_pow]
  split
  · constructor <;> dsimp only <;> omega
  · split
    · have h := quadTile_lt (q := o / 0xC000000) (k := o % 0xC000000 / 2 ^ 8 % 96 / 8) (by omega) (by omega)
      constructor <;> dsimp only <;> omega
    · exact ⟨Nat.mod_lt _ (by decide), by dsimp only; omega⟩

/-- The granule of an offset is at the place that the decode gives it. -/
theorem granuleOff_bandOf (st : Stripe) (i : Nat) : granuleOff st i (bandOf st i o).1 (bandOf st i o).2 = o / 256 * 256 := by
  unfold bandOf granuleOff
  simp only [Nat.shiftRight_eq_div_pow]
  split
  · dsimp only; omega
  · split
    · have hq : o / 0xC000000 < 4 := by omega
      have hk : o % 0xC000000 / 2 ^ 8 % 96 / 8 < 12 := by omega
      have ht : (8 * quadTile (o / 0xC000000) (o % 0xC000000 / 2 ^ 8 % 96 / 8) + o % 0xC000000 / 2 ^ 8 % 96 % 8) / 8 =
        quadTile (o / 0xC000000) (o % 0xC000000 / 2 ^ 8 % 96 / 8) := by omega
      dsimp only
      rw [ht, quadOf_quadTile hq hk, quadPlace_quadTile hk]
      omega
    · have h := stripeRot_lt i (o / 2 ^ 8 / 384) st.seed
      dsimp only
      omega

end

/-- The decode finds every place of every band, at the granule of that place. -/
theorem bandOf_granuleOff (st : Stripe) (i : Nat) {p g b : Nat} (hp : p < 384) (hg : g < 8192) (hb : b < 256) :
    granuleOff st i p g + b < 0x30000000 ∧ (granuleOff st i p g + b) % 256 = b ∧
      bandOf st i (granuleOff st i p g + b) = (p, g) := by
  unfold bandOf granuleOff
  simp only [Nat.shiftRight_eq_div_pow, Prod.ext_iff]
  split
  · dsimp only; omega
  · split
    · have hq := quadOf_lt (p / 8)
      have hk := quadPlace_lt (p / 8)
      have ht := quadTile_quadPlace (t := p / 8) (by omega)
      generalize quadOf (p / 8) = q at *
      generalize quadPlace (p / 8) = k at *
      have h1 : (q * 0xC000000 + (g * 96 + 8 * k + p % 8) * 256 + b) / 0xC000000 = q := by omega
      have h2 : (q * 0xC000000 + (g * 96 + 8 * k + p % 8) * 256 + b) % 0xC000000 / 2 ^ 8 = g * 96 + 8 * k + p % 8 := by omega
      have h3 : (g * 96 + 8 * k + p % 8) % 96 = 8 * k + p % 8 := by omega
      have h4 : (8 * k + p % 8) / 8 = k := by omega
      dsimp only
      rw [h1, h2, h3, h4, ht]
      omega
    · have h := stripeRot_lt i g st.seed
      have hm := Nat.mod_lt (p + 384 - stripeRot i g st.seed) (show 384 > 0 by decide)
      have hback : ((p + 384 - stripeRot i g st.seed) % 384 + stripeRot i g st.seed) % 384 = p := by omega
      generalize (p + 384 - stripeRot i g st.seed) % 384 = m at hm hback ⊢
      have h2 : (g * 384 + m) / 384 = g := by omega
      have h3 : (g * 384 + m) % 384 = m := by omega
      have h1 : ∀ n, (n * 256 + b) / 2 ^ 8 = n := by omega
      dsimp only
      rw [h1, h2, h3]
      omega

/-! ### Channel addresses (R296) -/

theorem pchOf_lt {s : State} {a : Nat} : pchOf s a < 384 := by
  rw [pchOf, decodeF_eq_bandOf]
  exact (bandOf_lt (Nat.mod_lt _ (by decide)) _ _).1

/-- The stripe, the place in the band and the byte of the granule that a channel address holds. -/
theorem chanAddr_parts (s : State) (a : Nat) : chanAddr s a / 0x200000 = a / 0x30000000 ∧
    chanAddr s a % 0x200000 / 256 = (decodeF s a).2 ∧ chanAddr s a % 256 = a % 256 := by
  have h := (bandOf_lt (Nat.mod_lt a (show 0 < 0x30000000 by decide)) (stripeOf s (a / 0x30000000)) (a / 0x30000000)).2
  rw [← decodeF_eq_bandOf] at h
  unfold chanAddr
  omega

/-- An address is the one that the inverse map gives for its pseudo-channel and its channel address. -/
theorem addrOfChan_pchOf_chanAddr (s : State) (a : Nat) :
    addrOfChan (stripeOf s (a / 0x30000000)) (pchOf s a) (chanAddr s a) = a := by
  obtain ⟨hi, hg, hb⟩ := chanAddr_parts s a
  have h := granuleOff_bandOf (Nat.mod_lt a (show 0 < 0x30000000 by decide)) (stripeOf s (a / 0x30000000)) (a / 0x30000000)
  rw [addrOfChan_eq _ pchOf_lt, hi, hg, hb]
  rw [← decodeF_eq_bandOf] at h
  rw [pchOf, h]
  omega

/-- Every place of every channel is where the decode puts the address that the inverse map gives for it. -/
theorem decode_addrOfChan (s : State) {p c : Nat} (hp : p < 384) (hc : c < 2 ^ 30) :
    addrOfChan (stripeOf s (c / 0x200000)) p c < tierFEnd ∧ pchOf s (addrOfChan (stripeOf s (c / 0x200000)) p c) = p ∧
      chanAddr s (addrOfChan (stripeOf s (c / 0x200000)) p c) = c := by
  obtain ⟨hlt, hmod, hband⟩ := bandOf_granuleOff (stripeOf s (c / 0x200000)) (c / 0x200000) hp
    (show c % 0x200000 / 256 < 8192 by omega) (show c % 256 < 256 by omega)
  rw [addrOfChan_eq _ hp]
  generalize granuleOff (stripeOf s (c / 0x200000)) (c / 0x200000) p (c % 0x200000 / 256) = n at *
  have hi : (c / 0x200000 * 0x30000000 + n + c % 256) / 0x30000000 = c / 0x200000 := by omega
  have ho : (c / 0x200000 * 0x30000000 + n + c % 256) % 0x30000000 = n + c % 256 := by omega
  have hd : decodeF s (c / 0x200000 * 0x30000000 + n + c % 256) = (p, c % 0x200000 / 256) := by
    rw [decodeF_eq_bandOf, hi, ho, hband]
  refine ⟨by unfold tierFEnd; omega, by rw [pchOf, hd], ?_⟩
  rw [chanAddr, hd, hi]
  dsimp only
  omega

/-! ### The rotation of a SPREAD stripe (R300) -/

theorem toNat_stripe_row {i r : Nat} (hi : i < 512) (hr : r < 8192) :
    (BitVec.ofNat 64 i <<< 13 ||| BitVec.ofNat 64 r).toNat = i * 2 ^ 13 + r := by
  have h1 : i % 2 ^ 64 = i := Nat.mod_eq_of_lt (by omega)
  have h2 : r % 2 ^ 64 = r := Nat.mod_eq_of_lt (by omega)
  have h3 : i * 2 ^ 13 % 2 ^ 64 = i * 2 ^ 13 := Nat.mod_eq_of_lt (by omega)
  rw [BitVec.toNat_or, BitVec.toNat_shiftLeft, BitVec.toNat_ofNat, BitVec.toNat_ofNat, h1, h2, Nat.shiftLeft_eq, h3,
    Nat.mul_comm, Nat.two_pow_add_eq_or_of_lt hr]

/-- The model's rotation is that of R300, computed in 64-bit words. -/
theorem stripeRot_eq {i r : Nat} (hi : i < 512) (hr : r < 8192) (seed : W64) {h g : W64}
    (hh : h = ((BitVec.ofNat 64 i <<< 13 ||| BitVec.ofNat 64 r) ^^^ seed) * 0xD6E8FEB86659FD93#64)
    (hg : g = h ^^^ (h >>> 32)) : stripeRot i r seed = g.toNat % 384 := by
  have hm : h.toNat = ((i * 2 ^ 13 + r) ^^^ seed.toNat) * 0xD6E8FEB86659FD93 % 2 ^ 64 := by
    rw [hh, BitVec.toNat_mul, BitVec.toNat_xor, toNat_stripe_row hi hr, BitVec.toNat_ofNat]
  rw [stripeRot, ← hm, hg, BitVec.toNat_xor, BitVec.toNat_ushiftRight]

/-- Settles O56: the formulas are those of the bands, and the bijection comes from the inverse map. -/
theorem tierFDecodeIsABijection : Obligations.TierFDecodeIsABijection := by
  unfold Obligations.TierFDecodeIsABijection
  refine ⟨?formulas, fun s a ha => ⟨pchOf_lt, ?bound⟩, fun s a b _ _ hp hc => ?injective,
    fun s p c hp hc => ⟨_, decode_addrOfChan s hp hc⟩⟩
  case formulas =>
    intro s a i o ha hi ho
    subst hi ho
    have hlt := (bandOf_lt (Nat.mod_lt a (show 0 < 0x30000000 by decide)) (stripeOf s (a / 0x30000000)) (a / 0x30000000)).2
    rw [← decodeF_eq_bandOf] at hlt
    refine ⟨rfl, rfl, Nat.le_of_lt_succ hlt, fun hm => ?near, fun hm u k hu hk => ?quad, fun hm lane r h g hl hr hh hg => ?spread⟩
    case near => rw [decodeF_eq_bandOf, bandOf, if_pos hm]
    case quad =>
      subst hk hu
      rw [decodeF_eq_bandOf, bandOf, if_neg (by rw [hm]; decide), if_pos hm]
    case spread =>
      subst hl
      have hr' : r < 8192 := by rw [hr, Nat.shiftRight_eq_div_pow]; omega
      rw [decodeF_eq_bandOf, bandOf, if_neg (by rw [hm]; decide), if_neg (by rw [hm]; decide), ← hr,
        stripeRot_eq (by unfold tierFEnd at ha; omega) hr' _ hh hg]
  case bound =>
    obtain ⟨hi, -, -⟩ := chanAddr_parts s a
    unfold tierFEnd at ha
    omega
  case injective =>
    have hi : a / 0x30000000 = b / 0x30000000 := by rw [← (chanAddr_parts s a).1, hc, (chanAddr_parts s b).1]
    rw [← addrOfChan_pchOf_chanAddr s a, hp, hc, hi, addrOfChan_pchOf_chanAddr]

end Sys2Proof.Machine
end

section
/-! PROOFS. What a write of bytes of one line leaves of the memory, line by line (R296, R304, R316, R319). -/

namespace Sys2Proof.Machine

/-! ### Entries of a finite map -/

theorem mwf_cons_iff {α : Type} {k : Nat} {v : α} {m : FMap α} :
    mwf ((k, v) :: m) = true ↔ (∀ e ∈ m, k < e.1) ∧ mwf m = true := by
  induction m generalizing k v with
  | nil => simp [mwf]
  | cons e m ih =>
    obtain ⟨k', w⟩ := e
    simp only [mwf, Bool.and_eq_true, decide_eq_true_eq, List.forall_mem_cons]
    refine ⟨fun ⟨h, hm⟩ => ⟨⟨h, fun e he => h.trans ((ih.1 hm).1 e he)⟩, hm⟩, fun h => ⟨h.1.1, h.2⟩⟩

theorem mget?_eq_some_iff {α : Type} {m : FMap α} (h : mwf m = true) {k : Nat} {v : α} :
    mget? m k = some v ↔ (k, v) ∈ m := by
  induction m with
  | nil => simp [mget?]
  | cons e m ih =>
    obtain ⟨k', w⟩ := e
    obtain ⟨hlt, hm⟩ := mwf_cons_iff.1 h
    rw [mget?, List.mem_cons, Prod.mk.injEq]
    split
    next hk =>
      subst hk
      have hout : (k', v) ∉ m := fun he => absurd (hlt _ he) (Nat.lt_irrefl k')
      simp [hout, eq_comm]
    next hk => simp [ih hm, Ne.symm hk]

theorem mget?_mdel_ne {α : Type} (m : FMap α) {k n : Nat} (h : n ≠ k) : mget? (mdel m k) n = mget? m n := by
  induction m with
  | nil => rfl
  | cons e m ih =>
    obtain ⟨k', w⟩ := e
    rw [mdel]
    split
    next hk => rw [mget?, if_neg (by omega)]
    next hk => rw [mget?, mget?, ih]

theorem mem_of_mem_mdel {α : Type} {m : FMap α} {k : Nat} {e : Nat × α} (h : e ∈ mdel m k) : e ∈ m := by
  induction m with
  | nil => exact h
  | cons f m ih =>
    obtain ⟨k', w⟩ := f
    rw [mdel] at h
    split at h
    · exact List.mem_cons_of_mem _ h
    · exact List.mem_cons.2 ((List.mem_cons.1 h).imp id ih)

theorem mwf_mdel {α : Type} {m : FMap α} (h : mwf m = true) (k : Nat) : mwf (mdel m k) = true := by
  induction m with
  | nil => rfl
  | cons e m ih =>
    obtain ⟨k', w⟩ := e
    obtain ⟨hlt, hm⟩ := mwf_cons_iff.1 h
    rw [mdel]
    split
    · exact hm
    · exact mwf_cons_iff.2 ⟨fun e he => hlt e (mem_of_mem_mdel he), ih hm⟩

theorem mget?_mdel_self {α : Type} {m : FMap α} (h : mwf m = true) (k : Nat) : mget? (mdel m k) k = none := by
  induction m with
  | nil => rfl
  | cons e m ih =>
    obtain ⟨k', w⟩ := e
    obtain ⟨hlt, hm⟩ := mwf_cons_iff.1 h
    rw [mdel]
    split
    next hk =>
      refine Option.eq_none_iff_forall_ne_some.2 fun v hv => ?_
      exact absurd (hlt _ ((mget?_eq_some_iff hm).1 hv)) (by omega)
    next hk => rw [mget?, if_neg hk, ih hm]

theorem mget?_of_mdel {α : Type} {m : FMap α} (h : mwf m = true) {k n : Nat} {v : α} (hv : mget? (mdel m k) n = some v) :
    n ≠ k ∧ mget? m n = some v := by
  have hn : n ≠ k := by rintro rfl; simp [mget?_mdel_self h] at hv
  exact ⟨hn, by rwa [mget?_mdel_ne m hn] at hv⟩

theorem mdel_of_none {α : Type} {m : FMap α} {k : Nat} (h : mget? m k = none) : mdel m k = m := by
  induction m with
  | nil => rfl
  | cons e m ih =>
    obtain ⟨k', w⟩ := e
    rw [mget?] at h
    split at h
    · simp at h
    next hk => rw [mdel, if_neg hk, ih h]

/-! ### The memory behind a line -/

/-- The decode of an offset depends on its granule alone. -/
theorem bandOf_eq_of_granule {o o' : Nat} (h : o / 256 = o' / 256) (st : Stripe) (i : Nat) :
    bandOf st i o = bandOf st i o' := by
  have h1 : o / 0x1000000 = o' / 0x1000000 := by omega
  have h2 : (o % 0x1000000) / 2 ^ 8 = (o' % 0x1000000) / 2 ^ 8 := by omega
  have h3 : (o % 0x1000000) / 2 ^ 11 = (o' % 0x1000000) / 2 ^ 11 := by omega
  have h4 : o / 0xC000000 = o' / 0xC000000 := by omega
  have h5 : (o % 0xC000000) / 2 ^ 8 = (o' % 0xC000000) / 2 ^ 8 := by omega
  have h6 : o / 2 ^ 8 = o' / 2 ^ 8 := h
  simp only [bandOf, Nat.shiftRight_eq_div_pow, h1, h2, h3, h4, h5, h6]

theorem pchOf_eq_of_granule {a b : Nat} (h : a / 256 = b / 256) (s : State) : pchOf s a = pchOf s b := by
  have hi : a / 0x30000000 = b / 0x30000000 := by omega
  rw [pchOf, pchOf, decodeF_eq_bandOf, decodeF_eq_bandOf, hi,
    bandOf_eq_of_granule (o := a % 0x30000000) (o' := b % 0x30000000) (by omega)]

/-- The memory behind an address is the memory behind its line. -/
theorem memUp_line (s : State) (a : Nat) : memUp s (a / 64 * 64) = memUp s a := by
  have hf : a / 64 * 64 < tierFEnd ↔ a < tierFEnd := by unfold tierFEnd; omega
  have hp : pchOf s (a / 64 * 64) = pchOf s a := pchOf_eq_of_granule (by omega) s
  have hs : inTierS (a / 64 * 64) 1 = inTierS a 1 := by
    unfold inTierS tierSBase tierSEnd
    congr 1 <;> rw [decide_eq_decide] <;> omega
  have hc : compOf (a / 64 * 64) = compOf a := by
    unfold compOf tierSBase compSpan
    omega
  simp only [memUp, stackUp, hf, hp, hs, hc]

/-! ### Writes within one line (R319) -/

/-- What a write of `data` at `a` names for the byte at `x`. -/
def writtenAt (a : Nat) (data : List Byte) (x : Nat) : Option Byte := if a ≤ x then data[x - a]? else none

theorem writtenAt_eq_none {a x : Nat} {data : List Byte} (h : x < a ∨ a + data.length ≤ x) : writtenAt a data x = none := by
  unfold writtenAt
  split
  · exact List.getElem?_eq_none (by omega)
  · rfl

theorem secUpd_getD (a : Nat) (data : List Byte) (sec : Nat) {j : Nat} (hj : j < 32) :
    (secUpd a data sec).getD j none = writtenAt a data (sec * 32 + j) := by
  simp [secUpd, writtenAt, hj]

theorem byteAt_dWriteSec_secUpd {s : State} (hw : Memory.wf s.mem = true) (a : Nat) (data : List Byte) (sec x : Nat) :
    byteAt (dWriteSec s sec (secUpd a data sec) false) x =
      if x / 32 = sec then (writtenAt a data x).getD (byteAt s x) else byteAt s x := by
  split
  next hx =>
    have hj : x % 32 < 32 := Nat.mod_lt _ (by decide)
    have hsx : sec * 32 + x % 32 = x := by omega
    have hupd := secUpd_getD a data sec hj
    rw [hsx] at hupd
    cases h : writtenAt a data x with
    | none =>
      have := byteAt_dWriteSec_kept (sec := sec) (p := false) hw hj (hupd.trans h)
      rwa [hsx] at this
    | some v =>
      have := byteAt_dWriteSec_written (sec := sec) hw hj (hupd.trans h)
      rwa [hsx] at this
  next hx => exact byteAt_dWriteSec_out (by omega)

/-- A write of bytes of one line to memory that answers puts these bytes there. -/
theorem byteAt_dWrite {s : State} {a : Nat} {data : List Byte} (hw : Memory.wf s.mem = true) (hd : data ≠ [])
    (hl : a % 64 + data.length ≤ 64) (hup : memUp s a = true) (x : Nat) :
    byteAt (dWrite s a data false) x = (writtenAt a data x).getD (byteAt s x) := by
  have hpos : 0 < data.length := List.length_pos_iff.2 hd
  simp only [dWrite, List.isEmpty_iff, if_neg hd, hup, Bool.not_true, Bool.false_eq_true, if_false]
  split
  next hone =>
    rw [byteAt_dWriteSec_secUpd hw]
    split
    · rfl
    next hx => rw [writtenAt_eq_none (by omega)]; rfl
  next htwo =>
    rw [byteAt_dWriteSec_secUpd (Memory.wf_dWriteSec _ _ _ _ hw), byteAt_dWriteSec_secUpd hw]
    split
    next hx => rw [if_neg (by omega)]
    next hx =>
      split
      · rfl
      next hy => rw [writtenAt_eq_none (by omega)]; rfl

theorem length_mergeBytes {old data : List Byte} {off : Nat} (h : off + data.length ≤ old.length) :
    (mergeBytes old off data).length = old.length := by
  simp [mergeBytes]
  omega

theorem getElem?_mergeBytes {old data : List Byte} {off i : Nat} (h : off + data.length ≤ old.length) :
    (mergeBytes old off data)[i]? = (if off ≤ i then data[i - off]? else none).or old[i]? := by
  have ht : (old.take off).length = off := by simp; omega
  rw [mergeBytes, List.append_assoc, List.getElem?_append, ht]
  split
  next hi => rw [List.getElem?_take_of_lt hi, if_neg (by omega)]; rfl
  next hi =>
    rw [if_pos (by omega), List.getElem?_append]
    split
    next hd => rw [List.getElem?_eq_getElem hd]; rfl
    next hd =>
      rw [List.getElem?_eq_none (l := data) (by omega), List.getElem?_drop, Option.none_or]
      congr 1
      omega

theorem mergeBytes_whole {old data : List Byte} (h : data.length = old.length) : mergeBytes old 0 data = data := by
  simp [mergeBytes, h]

/-- The bytes of a line as they stand in memory. -/
def memLine (s : State) (x : Nat) : List Byte := cellsRead s.mem.cells (x * 64) 64

@[simp] theorem length_memLine (s : State) (x : Nat) : (memLine s x).length = 64 := cellsRead_length _ _ _

theorem getElem?_memLine (s : State) (x : Nat) {i : Nat} (hi : i < 64) : (memLine s x)[i]? = some (byteAt s (x * 64 + i)) := by
  rw [List.getElem?_eq_getElem (by simpa using hi)]
  exact congrArg some (cellsRead_eq _ _ _ _ hi)

section
variable {s : State} {a : Nat} {data : List Byte} (hw : Memory.wf s.mem = true) (hd : data ≠ [])
  (hl : a % 64 + data.length ≤ 64) (hup : memUp s a = true)
include hw hd hl hup

theorem memLine_dWrite_self : memLine (dWrite s a data false) (a / 64) = mergeBytes (memLine s (a / 64)) (a % 64) data := by
  have hm : a % 64 + data.length ≤ (memLine s (a / 64)).length := by simpa using hl
  refine List.ext_getElem? fun i => ?_
  by_cases hi : i < 64
  · rw [getElem?_memLine _ _ hi, byteAt_dWrite hw hd hl hup, getElem?_mergeBytes hm, getElem?_memLine _ _ hi]
    have hc : writtenAt a data (a / 64 * 64 + i) = if a % 64 ≤ i then data[i - a % 64]? else none := by
      unfold writtenAt
      refine if_congr (by omega) ?_ rfl
      congr 1
      omega
    rw [hc]
    cases (if a % 64 ≤ i then data[i - a % 64]? else none) <;> rfl
  · rw [List.getElem?_eq_none (by simpa using hi), List.getElem?_eq_none (by rw [length_mergeBytes hm]; simpa using hi)]

theorem memLine_dWrite_ne {y : Nat} (hy : y ≠ a / 64) : memLine (dWrite s a data false) y = memLine s y := by
  refine List.ext_getElem? fun i => ?_
  by_cases hi : i < 64
  · rw [getElem?_memLine _ _ hi, getElem?_memLine _ _ hi, byteAt_dWrite hw hd hl hup, writtenAt_eq_none (by omega)]
    rfl
  · rw [List.getElem?_eq_none (by simpa using hi), List.getElem?_eq_none (by simpa using hi)]

end

end Sys2Proof.Machine
end

section
/-! PROOFS. The row cache in order and what every reader sees of a line: what setting a line, dropping one and writing past
the cache leave of both (R333, R334). -/

namespace Sys2Proof.Machine

/-! ### Where lines lie -/

/-- From `s` to `t` every line keeps its home slice, its set and the memory behind it, and no miss opens or closes. -/
structure SamePlaces (s t : State) : Prop where
  rest : OnlyMem s t
  seed : t.rc.seed = s.rc.seed
  mshr : t.rc.mshr = s.rc.mshr

namespace SamePlaces

variable {s t u : State}

theorem refl (s : State) : SamePlaces s s := ⟨OnlyMem.refl s, rfl, rfl⟩

theorem trans (h : SamePlaces s t) (k : SamePlaces t u) : SamePlaces s u :=
  ⟨h.rest.trans k.rest, k.seed.trans h.seed, k.mshr.trans h.mshr⟩

theorem of_rc (h : OnlyMem s t) (hr : t.rc = s.rc) : SamePlaces s t := ⟨h, by rw [hr], by rw [hr]⟩

theorem lineHash (h : SamePlaces s t) (x : Nat) : lineHash t x = lineHash s x := by
  unfold Machine.lineHash; rw [h.seed]

theorem lineSet (h : SamePlaces s t) (x : Nat) : lineSet t x = lineSet s x := by
  unfold Machine.lineSet; rw [h.lineHash]

theorem stripeOf (h : SamePlaces s t) (i : Nat) : stripeOf t i = stripeOf s i := by
  unfold Machine.stripeOf; rw [h.rest.mc]

theorem homeSlice (h : SamePlaces s t) (x : Nat) : homeSlice t x = homeSlice s x := by
  simp only [Machine.homeSlice, h.lineHash, h.stripeOf]

theorem passThrough (h : SamePlaces s t) (x : Nat) : passThrough t x = passThrough s x := by
  unfold Machine.passThrough inHomeState; rw [h.rest.tabs]

theorem pchOf (h : SamePlaces s t) (a : Nat) : pchOf t a = pchOf s a := by
  rw [Machine.pchOf, Machine.pchOf, decodeF_eq_bandOf, decodeF_eq_bandOf, h.stripeOf]

theorem memUp (h : SamePlaces s t) (a : Nat) : memUp t a = memUp s a := by
  unfold Machine.memUp stackUp stackOf portUp; rw [h.pchOf, h.rest.mc, h.rest.ly]

theorem missOpen (h : SamePlaces s t) (x : Nat) : missOpen t x = missOpen s x := by
  unfold Machine.missOpen; rw [h.mshr]

end SamePlaces

theorem samePlaces_bump1 (s : State) (k : Nat) : SamePlaces s (bump1 s k) := .of_rc (onlyMem_bump1 s k) rfl

theorem samePlaces_bumpIf (s : State) (b : Bool) (k : Nat) : SamePlaces s (bumpIf s b k) :=
  .of_rc (onlyMem_bumpIf s b k) (bumpIf_rc s b k)

theorem samePlaces_dWrite (s : State) (a : Nat) (l : List Byte) (p : Bool) : SamePlaces s (dWrite s a l p) :=
  .of_rc (onlyMem_dWrite s a l p) (dWrite_rc s a l p)

theorem samePlaces_setLine (s : State) (k : Nat) (l : CLine) : SamePlaces s (setLine s k l) := ⟨onlyMem_setLine s k l, rfl, rfl⟩

theorem samePlaces_dropLine (s : State) (k : Nat) : SamePlaces s (dropLine s k) := ⟨onlyMem_dropLine s k, rfl, rfl⟩

theorem samePlaces_touchWay (s : State) (sl st w : Nat) : SamePlaces s (touchWay s sl st w) :=
  ⟨onlyMem_touchWay s sl st w, rfl, rfl⟩

theorem snoopGate_eq (s : State) (x : Nat) (w : Bool) : ∃ n, snoopGate s x w = { s with rc := { s.rc with need := n } } := by
  unfold snoopGate
  split
  · exact ⟨_, rfl⟩
  · split
    · exact ⟨_, rfl⟩
    · exact ⟨_, rfl⟩

theorem samePlaces_snoopGate (s : State) (x : Nat) (w : Bool) : SamePlaces s (snoopGate s x w) := by
  obtain ⟨n, hn⟩ := snoopGate_eq s x w
  exact ⟨onlyMem_snoopGate s x w, by rw [hn], by rw [hn]⟩

@[simp] theorem snoopGate_lines (s : State) (x : Nat) (w : Bool) : (snoopGate s x w).rc.lines = s.rc.lines := by
  obtain ⟨n, hn⟩ := snoopGate_eq s x w
  rw [hn]

/-! ### The row cache in order -/

/-- A line as the row cache in order keeps it at a key (R333, R334). -/
structure LineOk (s : State) (k : Nat) (l : CLine) : Prop where
  length : l.data.length = 64
  poison : l.poison = false
  pass : passThrough s l.x = false
  up : memUp s (l.x * 64) = true
  clean : l.dirty = false → l.data = memLine s l.x
  way : ∃ w, w < 16 ∧ k = wayKey (homeSlice s l.x) (lineSet s l.x) w

/-- `CacheOk` by what is found at each key. -/
structure InOrder (s : State) : Prop where
  mem : Memory.wf s.mem = true
  rising : mwf s.rc.lines = true
  line : ∀ {k l}, mget? s.rc.lines k = some l → LineOk s k l
  once : ∀ {k k' l l'}, mget? s.rc.lines k = some l → mget? s.rc.lines k' = some l' → l.x = l'.x → k = k'

theorem cacheOk_iff_inOrder (s : State) : CacheOk s ↔ InOrder s := by
  constructor
  · rintro ⟨hm, hr, hl, ho⟩
    refine ⟨hm, hr, fun {k l} hk => ?_, fun {k k' l l'} hk hk' => ?_⟩
    · obtain ⟨h1, h2, h3, h4, h5, h6⟩ := hl (k, l) ((mget?_eq_some_iff hr).1 hk)
      exact ⟨h1, h2, h3, h4, h5, h6⟩
    · exact ho (k, l) ((mget?_eq_some_iff hr).1 hk) (k', l') ((mget?_eq_some_iff hr).1 hk')
  · intro h
    refine ⟨h.mem, h.rising, fun e he => ?_, fun e he f hf => ?_⟩
    · have hl := h.line ((mget?_eq_some_iff h.rising).2 he)
      exact ⟨hl.length, hl.poison, hl.pass, hl.up, hl.clean, hl.way⟩
    · exact h.once ((mget?_eq_some_iff h.rising).2 he) ((mget?_eq_some_iff h.rising).2 hf)

theorem LineOk.of_same {s t : State} {k : Nat} {l : CLine} (h : LineOk s k l) (hs : SamePlaces s t)
    (hm : memLine t l.x = memLine s l.x) : LineOk t k l := by
  refine ⟨h.length, h.poison, ?_, ?_, fun hd => ?_, ?_⟩
  · rw [hs.passThrough, h.pass]
  · rw [hs.memUp, h.up]
  · rw [hm, h.clean hd]
  · rw [hs.homeSlice, hs.lineSet]; exact h.way

/-! ### The way of a line -/

theorem findWay_some {s : State} {sl st x w : Nat} (h : findWay s sl st x = some w) :
    w < 16 ∧ ∃ l, mget? s.rc.lines (wayKey sl st w) = some l ∧ l.x = x := by
  unfold findWay at h
  have hp := List.find?_some h
  refine ⟨List.mem_range.1 (List.mem_of_find?_eq_some h), ?_⟩
  split at hp
  next l hl => exact ⟨l, hl, by simpa using hp⟩
  next => simp at hp

theorem findWay_none {s : State} {sl st x w : Nat} {l : CLine} (h : findWay s sl st x = none) (hw : w < 16)
    (hl : mget? s.rc.lines (wayKey sl st w) = some l) : l.x ≠ x := by
  unfold findWay at h
  have := List.find?_eq_none.1 h w (List.mem_range.2 hw)
  simpa [hl] using this

/-- No line of the row cache is the line `x`. -/
def Uncached (s : State) (x : Nat) : Prop := ∀ k l, mget? s.rc.lines k = some l → l.x ≠ x

/-- What every reader sees of a line, but for the writes that wait for its fill. -/
def seenLine (s : State) (x : Nat) : List Byte :=
  match findWay s (homeSlice s x) (lineSet s x) x with
  | some w => (mget s.rc.lines (wayKey (homeSlice s x) (lineSet s x) w)
      { x := x, dirty := false, keep := false, poison := false, touched := false, data := [] }).data
  | none => memLine s x

theorem peekLine_eq (s : State) (x : Nat) : peekLine s x =
    (s.rc.mshr.filter (fun m => m.x == x && m.acc.write)).foldl (fun b m => mergeBytes b (m.acc.addr % 64) m.acc.data)
      (seenLine s x) := by
  unfold peekLine seenLine
  rfl

theorem peekLine_of_no_miss {s : State} {x : Nat} (h : missOpen s x = false) : peekLine s x = seenLine s x := by
  have hf : s.rc.mshr.filter (fun m => m.x == x && m.acc.write) = [] := by
    refine List.filter_eq_nil_iff.2 fun m hm => ?_
    have := List.any_eq_false.1 h m hm
    simp_all
  rw [peekLine_eq, hf]
  rfl

section
variable {s : State}

theorem uncached_of_findWay (h : InOrder s) {x : Nat} (hf : findWay s (homeSlice s x) (lineSet s x) x = none) :
    Uncached s x := by
  rintro k l hl rfl
  obtain ⟨w, hw, rfl⟩ := (h.line hl).way
  exact findWay_none hf hw hl rfl

theorem uncached_of_pass (h : InOrder s) {x : Nat} (hp : passThrough s x = true) : Uncached s x := by
  rintro k l hl rfl
  simp [(h.line hl).pass] at hp

/-- The set of a line that is kept finds it at its key. -/
theorem findWay_of_line (h : InOrder s) {k : Nat} {l : CLine} (hl : mget? s.rc.lines k = some l) :
    ∃ w, findWay s (homeSlice s l.x) (lineSet s l.x) l.x = some w ∧ wayKey (homeSlice s l.x) (lineSet s l.x) w = k := by
  cases hf : findWay s (homeSlice s l.x) (lineSet s l.x) l.x with
  | none => exact absurd rfl (uncached_of_findWay h hf k l hl)
  | some w =>
    obtain ⟨-, l', hl', hx⟩ := findWay_some hf
    exact ⟨w, rfl, h.once hl' hl hx⟩

theorem seenLine_of_line (h : InOrder s) {k : Nat} {l : CLine} (hl : mget? s.rc.lines k = some l) :
    seenLine s l.x = l.data := by
  obtain ⟨w, hw, hk⟩ := findWay_of_line h hl
  simp only [seenLine, hw, hk, mget, hl, Option.getD_some]

theorem seenLine_of_uncached {x : Nat} (h : Uncached s x) : seenLine s x = memLine s x := by
  have hf : findWay s (homeSlice s x) (lineSet s x) x = none := by
    refine Option.eq_none_iff_forall_ne_some.2 fun w hw => ?_
    obtain ⟨-, l, hl, hx⟩ := findWay_some hw
    exact h _ l hl hx
  rw [seenLine, hf]

theorem length_seenLine (h : InOrder s) (x : Nat) : (seenLine s x).length = 64 := by
  by_cases hu : Uncached s x
  · rw [seenLine_of_uncached hu, length_memLine]
  · simp only [Uncached, not_forall, not_not] at hu
    obtain ⟨k, l, hl, rfl⟩ := hu
    rw [seenLine_of_line h hl, (h.line hl).length]

end

/-! ### Steps that keep the row cache in order -/

/-- From `s` to `t` what is seen of line `x` becomes `b`, and of no other line anything changes. -/
structure PutsLine (s t : State) (x : Nat) (b : List Byte) : Prop where
  same : SamePlaces s t
  ok : InOrder t
  self : seenLine t x = b
  others : ∀ {y}, y ≠ x → seenLine t y = seenLine s y

/-- From `s` to `t` what is seen of every line stays. -/
structure KeepsLines (s t : State) : Prop where
  same : SamePlaces s t
  ok : InOrder t
  seen : ∀ y, seenLine t y = seenLine s y

theorem KeepsLines.trans {s t u : State} (h : KeepsLines s t) (k : KeepsLines t u) : KeepsLines s u :=
  ⟨h.same.trans k.same, k.ok, fun y => (k.seen y).trans (h.seen y)⟩

theorem KeepsLines.puts {s t u : State} {x : Nat} {b : List Byte} (h : KeepsLines s t) (k : PutsLine t u x b) :
    PutsLine s u x b :=
  ⟨h.same.trans k.same, k.ok, k.self, fun hy => (k.others hy).trans (h.seen _)⟩

theorem PutsLine.keeps {s t u : State} {x : Nat} {b : List Byte} (h : PutsLine s t x b) (k : KeepsLines t u) :
    PutsLine s u x b :=
  ⟨h.same.trans k.same, k.ok, (k.seen x).trans h.self, fun hy => (k.seen _).trans (h.others hy)⟩

theorem PutsLine.keepsLines {s t : State} {x : Nat} {b : List Byte} (h : PutsLine s t x b) (hb : b = seenLine s x) :
    KeepsLines s t := by
  refine ⟨h.same, h.ok, fun y => ?_⟩
  by_cases hy : y = x
  · rw [hy, h.self, hb]
  · exact h.others hy

section
variable {s t : State} (h : InOrder s) (hs : SamePlaces s t) (hw : Memory.wf t.mem = true)
include h hs hw

/-- A write past the row cache to a line that is not kept. -/
theorem putsLine_of_mem {x : Nat} (hl : t.rc.lines = s.rc.lines) (hx : Uncached s x)
    (hm : ∀ y, y ≠ x → memLine t y = memLine s y) : PutsLine s t x (memLine t x) := by
  have hok : InOrder t := by
    refine ⟨hw, by rw [hl]; exact h.rising, fun {k l} hk => ?_, fun {k k' l l'} hk hk' => ?_⟩
    · rw [hl] at hk
      exact (h.line hk).of_same hs (hm _ (hx k l hk))
    · rw [hl] at hk hk'
      exact h.once hk hk'
  have hun : ∀ {y}, Uncached s y → Uncached t y := fun hy k l hk => hy k l (by rwa [← hl])
  refine ⟨hs, hok, seenLine_of_uncached (hun hx), fun {y} hy => ?_⟩
  by_cases hu : Uncached s y
  · rw [seenLine_of_uncached (hun hu), seenLine_of_uncached hu, hm y hy]
  · simp only [Uncached, not_forall, not_not] at hu
    obtain ⟨k, l, hk, rfl⟩ := hu
    rw [seenLine_of_line h hk, seenLine_of_line hok (hl ▸ hk)]

/-- A line that is set at its key, where no other line stands. -/
theorem putsLine_of_set {k : Nat} {l : CLine} (hl : t.rc.lines = mset s.rc.lines k l) (hk : LineOk t k l)
    (hat : ∀ l', mget? s.rc.lines k = some l' → l'.x = l.x)
    (honce : ∀ k' l', mget? s.rc.lines k' = some l' → l'.x = l.x → k' = k)
    (hm : ∀ y, y ≠ l.x → memLine t y = memLine s y) : PutsLine s t l.x l.data := by
  have hself : mget? t.rc.lines k = some l := by rw [hl, mget?_mset_self]
  have hne : ∀ {k'}, k' ≠ k → mget? t.rc.lines k' = mget? s.rc.lines k' := fun hk' => by rw [hl, mget?_mset_ne _ _ _ _ hk']
  have hx : ∀ {k' l'}, k' ≠ k → mget? s.rc.lines k' = some l' → l'.x ≠ l.x := fun hk' hl' hx => hk' (honce _ _ hl' hx)
  have hok : InOrder t := by
    refine ⟨hw, by rw [hl]; exact mwf_mset _ _ _ h.rising, fun {k1 l1} h1 => ?_, fun {k1 k2 l1 l2} h1 h2 hx12 => ?_⟩
    · by_cases e1 : k1 = k
      · obtain rfl : l = l1 := by rw [e1, hself] at h1; exact Option.some.inj h1
        rw [e1]; exact hk
      · rw [hne e1] at h1
        exact (h.line h1).of_same hs (hm _ (hx e1 h1))
    · by_cases e1 : k1 = k <;> by_cases e2 : k2 = k
      · rw [e1, e2]
      · obtain rfl : l = l1 := by rw [e1, hself] at h1; exact Option.some.inj h1
        exact absurd hx12.symm (hx e2 (by rwa [hne e2] at h2))
      · obtain rfl : l = l2 := by rw [e2, hself] at h2; exact Option.some.inj h2
        exact absurd hx12 (hx e1 (by rwa [hne e1] at h1))
      · rw [hne e1] at h1
        rw [hne e2] at h2
        exact h.once h1 h2 hx12
  refine ⟨hs, hok, seenLine_of_line hok hself, fun {y} hy => ?_⟩
  by_cases hu : Uncached s y
  · have hut : Uncached t y := by
      intro k' l' hk'
      by_cases e : k' = k
      · obtain rfl : l = l' := by rw [e, hself] at hk'; exact Option.some.inj hk'
        exact hy.symm
      · exact hu k' l' (by rwa [hne e] at hk')
    rw [seenLine_of_uncached hut, seenLine_of_uncached hu, hm y hy]
  · simp only [Uncached, not_forall, not_not] at hu
    obtain ⟨k', l', hk', rfl⟩ := hu
    have e : k' ≠ k := by rintro rfl; exact hy (hat l' hk')
    rw [seenLine_of_line h hk', seenLine_of_line hok (by rwa [hne e])]

/-- A line that is dropped while the memory holds its bytes. -/
theorem keepsLines_of_drop {k : Nat} {l : CLine} (hl : t.rc.lines = mdel s.rc.lines k) (hk : mget? s.rc.lines k = some l)
    (hd : memLine t l.x = l.data) (hm : ∀ y, y ≠ l.x → memLine t y = memLine s y) : KeepsLines s t := by
  have hne : ∀ {k'}, k' ≠ k → mget? t.rc.lines k' = mget? s.rc.lines k' := fun hk' => by rw [hl, mget?_mdel_ne _ hk']
  have hsub : ∀ {k' l'}, mget? t.rc.lines k' = some l' → k' ≠ k ∧ mget? s.rc.lines k' = some l' := fun hk' =>
    mget?_of_mdel h.rising (hl ▸ hk')
  have hok : InOrder t := by
    refine ⟨hw, by rw [hl]; exact mwf_mdel h.rising _, fun {k1 l1} h1 => ?_, fun {k1 k2 l1 l2} h1 h2 =>
      h.once (hsub h1).2 (hsub h2).2⟩
    obtain ⟨e1, h1⟩ := hsub h1
    exact (h.line h1).of_same hs (hm _ fun hx => e1 (h.once h1 hk hx))
  refine ⟨hs, hok, fun y => ?_⟩
  by_cases hu : Uncached s y
  · have hut : Uncached t y := fun k' l' hk' => hu k' l' (hsub hk').2
    rw [seenLine_of_uncached hut, seenLine_of_uncached hu, hm y fun hy => hu k l hk hy.symm]
  · simp only [Uncached, not_forall, not_not] at hu
    obtain ⟨k', l', hk', rfl⟩ := hu
    by_cases e : k' = k
    · obtain rfl : l = l' := by rw [e, hk] at hk'; exact Option.some.inj hk'
      have hut : Uncached t l.x := fun k2 l2 h2 hx => (hsub h2).1 (h.once (hsub h2).2 hk hx)
      rw [seenLine_of_uncached hut, hd, seenLine_of_line h hk]
    · rw [seenLine_of_line h hk', seenLine_of_line hok (by rwa [hne e])]

end

/-- A change beside the lines and the memory. -/
theorem keepsLines_of_eq {s t : State} (h : InOrder s) (hs : SamePlaces s t) (hl : t.rc.lines = s.rc.lines)
    (hm : t.mem = s.mem) : KeepsLines s t := by
  have hml : ∀ y, memLine t y = memLine s y := fun y => by rw [memLine, hm]; rfl
  have hok : InOrder t := by
    refine ⟨by rw [hm]; exact h.mem, by rw [hl]; exact h.rising, fun {k l} hk => ?_, fun {k k' l l'} hk hk' => ?_⟩
    · rw [hl] at hk
      exact (h.line hk).of_same hs (hml _)
    · rw [hl] at hk hk'
      exact h.once hk hk'
  refine ⟨hs, hok, fun y => ?_⟩
  by_cases hu : Uncached s y
  · have hut : Uncached t y := fun k l hk => hu k l (by rwa [← hl])
    rw [seenLine_of_uncached hut, seenLine_of_uncached hu, hml]
  · simp only [Uncached, not_forall, not_not] at hu
    obtain ⟨k, l, hk, rfl⟩ := hu
    rw [seenLine_of_line h hk, seenLine_of_line hok (hl ▸ hk)]

end Sys2Proof.Machine
end

section
/-! PROOFS. Writes and reads of one line through its home slice (R319, R333, R334, R338 to R343, R351). -/

namespace Sys2Proof.Machine

/-! ### The victim of an allocation (R339) -/

/-- A walk of `d` levels from a node ends at a leaf below it. -/
theorem treeWalk_lt (elig : Nat → Bool) {base : Nat} (t d : Nat) {n : Nat} (h : base ≤ 2 ^ d * n) :
    treeWalk elig base t d n + base < 2 ^ d * (n + 1) := by
  induction d generalizing n with
  | zero => simp only [treeWalk]; omega
  | succ d ih =>
    rw [treeWalk]
    have hc : ∀ c, c / 2 = n → treeWalk elig base t d c + base < 2 ^ (d + 1) * (n + 1) := by
      intro c hc
      have hlo : 2 ^ d * (2 * n) ≤ 2 ^ d * c := Nat.mul_le_mul_left _ (by omega)
      have hhi : 2 ^ d * (c + 1) ≤ 2 ^ d * (2 * (n + 1)) := Nat.mul_le_mul_left _ (by omega)
      rw [pow_succ, Nat.mul_assoc] at h ⊢
      exact (ih (h.trans hlo)).trans_le hhi
    have hb : (2 * n + b2n (t.testBit n)) / 2 = n := by cases t.testBit n <;> (simp [b2n]; try omega)
    refine hc _ ?_
    split
    · exact hb
    · rw [Nat.xor_div_two, hb, Nat.xor_zero]

theorem victim_lt {s : State} {sl st w : Nat} (h : victim s sl st = some w) : w < 16 := by
  unfold victim at h
  dsimp only at h
  split at h
  next v hv =>
    obtain rfl : v = w := Option.some.inj h
    exact List.mem_range.1 (List.mem_filter.1 (List.mem_of_find?_eq_some hv)).1
  next =>
    split at h
    · simp at h
    · rw [← Option.some.inj h]
      exact Nat.lt_of_add_lt_add_right (n := 16) (treeWalk_lt _ _ 4 (by decide))

/-! ### Steps beside the lines -/

section
variable {s : State} (h : InOrder s)
include h

theorem keepsLines_refl : KeepsLines s s := keepsLines_of_eq h (.refl s) rfl rfl

theorem keepsLines_snoopGate (x : Nat) (w : Bool) : KeepsLines s (snoopGate s x w) :=
  keepsLines_of_eq h (samePlaces_snoopGate s x w) (snoopGate_lines s x w) (snoopGate_mem s x w)

theorem keepsLines_bump1 (k : Nat) : KeepsLines s (bump1 s k) := keepsLines_of_eq h (samePlaces_bump1 s k) rfl rfl

theorem keepsLines_bumpIf (b : Bool) (k : Nat) : KeepsLines s (bumpIf s b k) :=
  keepsLines_of_eq h (samePlaces_bumpIf s b k) (by rw [bumpIf_rc]) (bumpIf_mem s b k)

theorem keepsLines_touchWay (sl st w : Nat) : KeepsLines s (touchWay s sl st w) :=
  keepsLines_of_eq h (samePlaces_touchWay s sl st w) rfl rfl

/-! ### Writes past the cache and write-backs -/

theorem putsLine_dWrite {a : Nat} {data : List Byte} (hd : data ≠ []) (hl : a % 64 + data.length ≤ 64)
    (hup : memUp s a = true) (hx : Uncached s (a / 64)) :
    PutsLine s (dWrite s a data false) (a / 64) (mergeBytes (seenLine s (a / 64)) (a % 64) data) := by
  have hp := putsLine_of_mem h (samePlaces_dWrite s a data false) (Memory.wf_dWrite _ _ _ _ h.mem) (by rw [dWrite_rc]) hx
    fun y hy => memLine_dWrite_ne h.mem hd hl hup hy
  rwa [memLine_dWrite_self h.mem hd hl hup, ← seenLine_of_uncached hx] at hp

omit h in
/-- A write of a whole line. -/
theorem memLine_dWrite_whole {x : Nat} {data : List Byte} (hw : Memory.wf s.mem = true) (hl : data.length = 64)
    (hup : memUp s (x * 64) = true) :
    memLine (dWrite s (x * 64) data false) x = data ∧ ∀ y, y ≠ x → memLine (dWrite s (x * 64) data false) y = memLine s y := by
  have hx : x * 64 / 64 = x := by omega
  have h0 : x * 64 % 64 = 0 := by omega
  have hd : data ≠ [] := List.length_pos_iff.1 (by omega)
  have hfit : x * 64 % 64 + data.length ≤ 64 := by omega
  have hself := memLine_dWrite_self hw hd hfit hup
  rw [hx, h0, mergeBytes_whole (by rw [length_memLine, hl])] at hself
  exact ⟨hself, fun y hy => memLine_dWrite_ne hw hd hfit hup (by rwa [hx])⟩

/-- A key after the line that stands there has left it, written back where it was DIRTY. -/
def evicted (s : State) (k : Nat) : State :=
  match mget? s.rc.lines k with
  | some l => dropLine (if l.dirty then writeBack s l else s) k
  | none => s

omit h in
theorem evicted_lines (s : State) (k : Nat) : (evicted s k).rc.lines = mdel s.rc.lines k := by
  unfold evicted
  split
  · split
    · rw [dropLine, writeBack, dWrite_rc]
    · rfl
  next hk => rw [mdel_of_none hk]

theorem keepsLines_evicted (k : Nat) : KeepsLines s (evicted s k) := by
  have hlines := evicted_lines s k
  unfold evicted at hlines ⊢
  split at hlines
  next l hk =>
    have hl := h.line hk
    by_cases hd : l.dirty = true
    · obtain ⟨hself, hrest⟩ := memLine_dWrite_whole h.mem hl.length hl.up
      rw [if_pos hd, writeBack, hl.poison] at hlines ⊢
      exact keepsLines_of_drop h ((samePlaces_dWrite ..).trans (samePlaces_dropLine ..)) (Memory.wf_dWrite _ _ _ _ h.mem)
        hlines hk hself hrest
    · rw [if_neg hd] at hlines ⊢
      exact keepsLines_of_drop h (samePlaces_dropLine ..) h.mem hlines hk (hl.clean (by simpa using hd)).symm fun _ _ => rfl
  · exact keepsLines_refl h

/-! ### Allocation (R334, R339, R340, R342) -/

omit h in
theorem allocLine_some {sl st w : Nat} (hv : victim s sl st = some w) (x : Nat) (hint : BitVec 2) (dirty poison : Bool)
    (data : List Byte) : ∃ b keep, allocLine s sl st x hint dirty poison data =
      (let t := setLine (bumpIf (evicted s (wayKey sl st w)) b (ctrSliceKeepOver sl)) (wayKey sl st w)
        { x := x, dirty := dirty, keep := keep, poison := poison, touched := keep, data := data }
      if hint = 1 then t else touchWay t sl st w) := by
  unfold allocLine
  rw [hv]
  exact ⟨_, _, rfl⟩

theorem putsLine_allocLine {x : Nat} {data : List Byte} (hl : data.length = 64) (hup : memUp s (x * 64) = true)
    (hp : passThrough s x = false) (hx : Uncached s x) (hint : BitVec 2) :
    PutsLine s (allocLine s (homeSlice s x) (lineSet s x) x hint true false data) x data := by
  cases hv : victim s (homeSlice s x) (lineSet s x) with
  | none =>
    obtain ⟨hself, hrest⟩ := memLine_dWrite_whole h.mem hl hup
    have hput := putsLine_of_mem h (samePlaces_dWrite s (x * 64) data false) (Memory.wf_dWrite _ _ _ _ h.mem)
      (by rw [dWrite_rc]) hx hrest
    rw [hself] at hput
    rwa [allocLine, hv]
  | some w =>
    obtain ⟨b, keep, ha⟩ := allocLine_some hv x hint true false data
    have hw := victim_lt hv
    set key := wayKey (homeSlice s x) (lineSet s x) w with hkey
    rw [ha]
    generalize hu : bumpIf (evicted s key) b (ctrSliceKeepOver (homeSlice s x)) = u
    have hk : KeepsLines s u := hu ▸ (keepsLines_evicted h key).trans (keepsLines_bumpIf (keepsLines_evicted h key).ok _ _)
    have hlines : u.rc.lines = mdel s.rc.lines key := by rw [← hu, bumpIf_rc, evicted_lines]
    have hsub : ∀ k' l', mget? u.rc.lines k' = some l' → k' ≠ key ∧ mget? s.rc.lines k' = some l' := fun k' l' hk' =>
      mget?_of_mdel h.rising (hlines ▸ hk')
    let l : CLine := { x := x, dirty := true, keep := keep, poison := false, touched := keep, data := data }
    have hline : LineOk (setLine u key l) key l := by
      have hs := hk.same.trans (samePlaces_setLine u key l)
      refine ⟨hl, rfl, ?_, ?_, fun hd => Bool.noConfusion hd, w, hw, ?_⟩
      · rw [hs.passThrough]; exact hp
      · rw [hs.memUp]; exact hup
      · rw [hs.homeSlice, hs.lineSet]
    have hput : PutsLine u (setLine u key l) x data := putsLine_of_set hk.ok (samePlaces_setLine u key l) hk.ok.mem rfl hline
      (fun l' hl' => absurd rfl (hsub key l' hl').1) (fun k' l' hl' hx' => absurd hx' (hx k' l' (hsub k' l' hl').2))
      fun _ _ => rfl
    dsimp only
    split
    · exact hk.puts hput
    · exact (hk.puts hput).keeps (keepsLines_touchWay hput.ok _ _ _)

/-! ### Hits (R340 to R343) -/

theorem keepsLines_hitHint {sl st w : Nat} {l : CLine} (hk : mget? s.rc.lines (wayKey sl st w) = some l) (hint : BitVec 2) :
    KeepsLines s (hitHint s sl st w l hint) := by
  have hline := h.line hk
  unfold hitHint
  dsimp only
  split
  · exact keepsLines_touchWay h _ _ _
  · split
    · split
      · have hput : PutsLine s (setLine s (wayKey sl st w) { l with keep := true, touched := true }) l.x l.data :=
          putsLine_of_set (l := { l with keep := true, touched := true }) h (samePlaces_setLine ..) h.mem rfl
            (.of_same ⟨hline.length, hline.poison, hline.pass, hline.up, hline.clean, hline.way⟩ (samePlaces_setLine ..) rfl)
            (fun l' hl' => by rw [hk] at hl'; rw [Option.some.inj hl'])
            (fun k' l' hl' hx => h.once hl' hk hx) fun _ _ => rfl
        have hkeep := hput.keepsLines (seenLine_of_line h hk).symm
        exact hkeep.trans (keepsLines_touchWay hkeep.ok _ _ _)
      · exact (keepsLines_bump1 h _).trans (keepsLines_touchWay (keepsLines_bump1 h _).ok _ _ _)
    · exact keepsLines_refl h

/-! ### Writes (R319, R334, R340, R343, R351) -/

/-- A kept line is set anew, and goes to memory while the cache is being cleaned. -/
def lineWritten (s : State) (k : Nat) (l : CLine) : State :=
  if s.rc.cleaning then writeBack (setLine s k l) l else setLine s k l

theorem putsLine_lineWritten {k : Nat} {l m : CLine} (hk : mget? s.rc.lines k = some l) (hx : m.x = l.x)
    (hlen : m.data.length = 64) (hpoi : m.poison = false) (hdirty : m.dirty = !s.rc.cleaning) :
    PutsLine s (lineWritten s k m) l.x m.data ∧ mget? (lineWritten s k m).rc.lines k = some m := by
  have hline := h.line hk
  have hs1 := samePlaces_setLine s k m
  have hup : memUp (setLine s k m) (m.x * 64) = true := by rw [hs1.memUp, hx, hline.up]
  obtain ⟨hself, hrest⟩ := memLine_dWrite_whole (s := setLine s k m) h.mem hlen hup
  have hs : SamePlaces s (lineWritten s k m) := by
    unfold lineWritten
    split
    · exact hs1.trans (samePlaces_dWrite ..)
    · exact hs1
  have hw : Memory.wf (lineWritten s k m).mem = true := by
    unfold lineWritten
    split
    · exact Memory.wf_writeBack _ _ h.mem
    · exact h.mem
  have hlines : (lineWritten s k m).rc.lines = mset s.rc.lines k m := by
    unfold lineWritten
    split
    · rw [writeBack, dWrite_rc]; rfl
    · rfl
  have hm : ∀ y, y ≠ m.x → memLine (lineWritten s k m) y = memLine s y := by
    intro y hy
    unfold lineWritten
    split
    · rw [writeBack, hpoi, hrest y hy]; rfl
    · rfl
  have hclean : m.dirty = false → m.data = memLine (lineWritten s k m) m.x := by
    intro hd
    have hc : s.rc.cleaning = true := by simpa [hdirty] using hd
    rw [lineWritten, if_pos hc, writeBack, hpoi, hself]
  refine ⟨hx ▸ putsLine_of_set h hs hw hlines ⟨hlen, hpoi, ?_, ?_, hclean, ?_⟩ (fun l' hl' => ?_)
    (fun k' l' hl' hx' => h.once hl' hk (hx'.trans hx)) hm, by rw [hlines, mget?_mset_self]⟩
  · rw [hs.passThrough, hx, hline.pass]
  · rw [hs.memUp, hx, hline.up]
  · rw [hs.homeSlice, hs.lineSet, hx]; exact hline.way
  · rw [hk] at hl'; rw [hx, Option.some.inj hl']

section
variable {a : Nat} {data : List Byte} (hd : data ≠ []) (hl : a % 64 + data.length ≤ 64)
include hl

theorem putsLine_putLine_hit {w : Nat} (hf : findWay s (homeSlice s (a / 64)) (lineSet s (a / 64)) (a / 64) = some w)
    (hint : BitVec 2) :
    PutsLine s (putLine s a data hint false) (a / 64) (mergeBytes (seenLine s (a / 64)) (a % 64) data) := by
  obtain ⟨-, l, hk, hx⟩ := findWay_some hf
  have hline := h.line hk
  have hm : a % 64 + data.length ≤ l.data.length := by rw [hline.length]; exact hl
  let m : CLine := { l with
    data := mergeBytes l.data (a % 64) data, dirty := !s.rc.cleaning,
    poison := if decide (data.length = 64) then false else l.poison || false }
  obtain ⟨hput, hat⟩ := putsLine_lineWritten h (m := m) hk rfl (by rw [length_mergeBytes hm, hline.length])
    (by simp [m, hline.poison]) rfl
  have hp : putLine s a data hint false = hitHint
      (lineWritten s (wayKey (homeSlice s (a / 64)) (lineSet s (a / 64)) w) m) (homeSlice s (a / 64)) (lineSet s (a / 64))
      w m (if hint = 3 then 1 else hint) := by
    simp only [putLine, hf, mget, hk, Option.getD_some]
    rfl
  have hseen : seenLine s (a / 64) = l.data := hx ▸ seenLine_of_line h hk
  rw [hp, hseen]
  rw [hx] at hput
  exact hput.keeps (keepsLines_hitHint hput.ok hat _)

variable (hup : memUp s (a / 64 * 64) = true)
include hd hup

theorem putsLine_putLine (hp : passThrough s (a / 64) = false) (hint : BitVec 2) :
    PutsLine s (putLine s a data hint false) (a / 64) (mergeBytes (seenLine s (a / 64)) (a % 64) data) := by
  cases hf : findWay s (homeSlice s (a / 64)) (lineSet s (a / 64)) (a / 64) with
  | some w => exact putsLine_putLine_hit h hl hf hint
  | none =>
    have hx := uncached_of_findWay h hf
    simp only [putLine, hf]
    split
    next hw =>
      have hlen : data.length = 64 := by simp_all
      have h0 : a % 64 = 0 := by omega
      rw [h0, mergeBytes_whole (by rw [hlen, length_seenLine h])]
      exact putsLine_allocLine h hlen hup hp hx hint
    next => exact putsLine_dWrite h hd hl (by rw [← memUp_line]; exact hup) hx

theorem putsLine_writeLine (hmiss : missOpen s (a / 64) = false) (hint : BitVec 2) :
    PutsLine s (writeLine s a data hint false) (a / 64) (mergeBytes (seenLine s (a / 64)) (a % 64) data) := by
  have hg := keepsLines_snoopGate h (a / 64) true
  have hup' : memUp (snoopGate s (a / 64) true) (a / 64 * 64) = true := by rw [hg.same.memUp, hup]
  have hmiss' : missOpen (snoopGate s (a / 64) true) (a / 64) = false := by rw [hg.same.missOpen, hmiss]
  rw [← hg.seen]
  refine hg.puts ?_
  simp only [writeLine, hmiss', Bool.false_eq_true, if_false]
  split
  next hp => exact putsLine_dWrite hg.ok hd hl (by rw [← memUp_line]; exact hup') (uncached_of_pass hg.ok hp)
  next hp => exact putsLine_putLine hg.ok hd hl hup' (by simpa using hp) hint

end

/-! ### Reads (R333, R334) -/

omit h in
/-- The bytes of a line that memory gives without poison. -/
theorem dReadSecs_line {x : Nat} (hp : (dReadSecs s (x * 64) 2).2.2.any id = false) :
    (dReadSecs s (x * 64) 2).2.1 = memLine s x := by
  by_cases hup : memUp s (x * 64) = true
  · have hx : x * 64 / 32 * 32 = x * 64 := by omega
    simp only [dReadSecs, hup, hx, Bool.not_true, Bool.false_eq_true, if_false]
    rfl
  · simp [dReadSecs, hup] at hp

/-- A read of a line without an open miss gives what is seen of it. -/
theorem readLine_data {x : Nat} {hint : BitVec 2} (hmiss : missOpen s x = false) (hp : (readLine s x hint).2.2 = false) :
    (readLine s x hint).2.1 = seenLine s x := by
  have hg := keepsLines_snoopGate h x false
  have hmiss' : missOpen (snoopGate s x false) x = false := by rw [hg.same.missOpen, hmiss]
  rw [← hg.seen]
  simp only [readLine, hmiss', Bool.false_eq_true, if_false] at hp ⊢
  generalize snoopGate s x false = u at *
  split at hp
  next hpass =>
    rw [if_pos hpass, seenLine_of_uncached (uncached_of_pass hg.ok hpass)]
    exact dReadSecs_line hp
  next hpass =>
    rw [if_neg hpass]
    cases hf : findWay u (homeSlice u x) (lineSet u x) x with
    | some w =>
      obtain ⟨-, l, hk, hx⟩ := findWay_some hf
      simp only [mget, hk, Option.getD_some]
      rw [← hx, seenLine_of_line hg.ok hk]
    | none =>
      rw [hf] at hp
      rw [seenLine_of_uncached (uncached_of_findWay hg.ok hf)]
      exact dReadSecs_line hp

end

/-- Settles O55: what is seen of the line by the steps of the write, each of which keeps the row cache in order. -/
theorem rowCacheWritesChangeTheirBytes : Obligations.RowCacheWritesChangeTheirBytes := by
  intro s a data h g hok hmiss hd hl hup
  have hput := putsLine_writeLine ((cacheOk_iff_inOrder s).1 hok) hd hl hup hmiss h
  have hmiss' : missOpen (writeLine s a data h false) (a / 64) = false := by rw [hput.same.missOpen, hmiss]
  rw [peekLine_of_no_miss hmiss]
  refine ⟨?view, fun y hy => ?others, (cacheOk_iff_inOrder _).2 hput.ok, hput.same.rest.undo, fun hp => ?read⟩
  case view => rw [peekLine_of_no_miss hmiss', hput.self]
  case others => rw [peekLine_eq, peekLine_eq, hput.same.mshr, hput.others hy]
  case read => rw [readLine_data hput.ok hmiss' hp, hput.self]

end Sys2Proof.Machine
end

section
/-! PROOFS. Bring-up: the entries to SL1 and SL2, stacks that join, and the transition to SL3 (R292, R331, R535, R540 to
R542). -/

namespace Sys2Proof.Machine

/-! ### Entry to SL1 (R511, R540) -/

/-- From SL1 on a layout is in force; fixing it changes the layout, its kept copy and stripes. -/
theorem layoutFix_eq (s : State) : ∃ m c, layoutFix s = { s with mer := m, mc := c } ∧ m.layout.isSome = true := by
  unfold layoutFix
  split
  next x hx => exact ⟨s.mer, s.mc, rfl, by rw [hx]; rfl⟩
  next hx =>
    dsimp only
    split
    · exact ⟨_, _, rfl, rfl⟩
    · exact ⟨_, _, rfl, rfl⟩

/-- Beside events, counters and a freeze, at most the companions differ. -/
structure PortsOnly (s t : State) : Prop where
  rest : OnlyMem { s with ly := t.ly } t
  rc : t.rc = s.rc
  mem : t.mem = s.mem

namespace PortsOnly

variable {s t u : State}

theorem refl (s : State) : PortsOnly s s := ⟨OnlyMem.refl s, rfl, rfl⟩

theorem trans (h : PortsOnly s t) (k : PortsOnly t u) : PortsOnly s u :=
  ⟨(h.rest.withLy u.ly).trans k.rest, k.rc.trans h.rc, k.mem.trans h.mem⟩

theorem foldl {α : Type} {f : State → α → State} (hf : ∀ s a, PortsOnly s (f s a)) (l : List α) (s : State) :
    PortsOnly s (l.foldl f s) := by
  induction l generalizing s with
  | nil => exact refl s
  | cons a l ih => exact (hf s a).trans (ih (f s a))

end PortsOnly

theorem portsOnly_setLy (s : State) (k : Nat) (l : Lyush) : PortsOnly s (setLy s k l) := ⟨OnlyMem.refl _, rfl, rfl⟩

/-- A port that trains at 8 or 16 lanes is up with them, and no other port changes. -/
theorem portBringUp_step (s : State) (k : Nat) {n : Nat} (hn : n = 8 ∨ n = 16) : (lyOf (portBringUp s k n) k).lanes = n ∧
    (∀ j, j ≠ k → lyOf (portBringUp s k n) j = lyOf s j) ∧ PortsOnly s (portBringUp s k n) := by
  have h8 : ∀ (t : State) c u ea eb, lyOf (raiseEvent t c u ea eb) = lyOf t := by
    intro t c u ea eb
    funext j
    exact lyOf_eq_of_ly (onlyMem_raiseEvent ..).ly j
  have hev : ∀ (t : State) c u ea eb, PortsOnly t (raiseEvent t c u ea eb) := fun t c u ea eb =>
    ⟨by rw [(onlyMem_raiseEvent t c u ea eb).ly]; exact onlyMem_raiseEvent .., raiseEvent_rc .., raiseEvent_mem ..⟩
  rcases hn with rfl | rfl
  · refine ⟨?_, fun j hj => ?_, ?_⟩
    · simp [portBringUp, portTrained, h8]
    · simp [portBringUp, portTrained, h8, lyOf_setLy_ne _ _ hj]
    · exact ((portsOnly_setLy ..).trans (hev ..)).trans (portsOnly_setLy ..)
  · refine ⟨?_, fun j hj => ?_, ?_⟩
    · simp [portBringUp, portTrained]
    · simp [portBringUp, portTrained, lyOf_setLy_ne _ _ hj]
    · exact (portsOnly_setLy ..).trans (portsOnly_setLy ..)

/-- The ports that train, from port `n` on. -/
theorem ports_bringUp {l : List Nat} (hl : ∀ n ∈ l, n = 8 ∨ n = 16) (n : Nat) (s : State) :
    (∀ j, j < n → lyOf ((l.zipIdx n).foldl (fun t x => portBringUp t x.2 x.1) s) j = lyOf s j) ∧
      (∀ i, (hi : i < l.length) → (lyOf ((l.zipIdx n).foldl (fun t x => portBringUp t x.2 x.1) s) (n + i)).lanes = l[i]) ∧
      PortsOnly s ((l.zipIdx n).foldl (fun t x => portBringUp t x.2 x.1) s) := by
  induction l generalizing n s with
  | nil => exact ⟨fun _ _ => rfl, fun _ hi => absurd hi (Nat.not_lt_zero _), PortsOnly.refl s⟩
  | cons m l ih =>
    obtain ⟨hm, hrest⟩ := List.forall_mem_cons.1 hl
    obtain ⟨hlanes, hothers, hframe⟩ := portBringUp_step s n hm
    obtain ⟨hbelow, habove, hports⟩ := ih hrest (n + 1) (portBringUp s n m)
    rw [List.zipIdx_cons, List.foldl_cons]
    refine ⟨fun j hj => (hbelow j (by omega)).trans (hothers j (by omega)), fun i hi => ?_, hframe.trans hports⟩
    cases i with
    | zero => exact (congrArg Lyush.lanes (hbelow n (Nat.lt_succ_self n))).trans hlanes
    | succ i =>
      have := habove i (by simpa using hi)
      rwa [show n + 1 + i = n + (i + 1) by omega] at this

theorem links_without_partner {links : List LinkTrain} (h : ∀ x ∈ links, x.want = none) (s : State) :
    (links.take 48).zipIdx.foldl (fun t x => linkBringUp t x.2 x.1) s = s := by
  refine List.foldlRecOn (motive := fun t => t = s) _ _ rfl fun t ht x hx => ?_
  have hw := h x.1 (List.mem_of_mem_take (List.fst_mem_of_mem_zipIdx hx))
  rw [ht, linkBringUp, hw]

theorem sl1Entry_eq {s : State} {lanes : List Nat} {links : List LinkTrain} (hm : merUp s = true) (hsl : s.pwr.sl = 0)
    (hl : lanes.length = 8) (hlinks : ∀ x ∈ links, x.want = none) : sl1Entry s lanes links =
      (let t := lanes.zipIdx.foldl (fun t x => portBringUp t x.2 x.1) (layoutFix s)
      { t with pwr := { t.pwr with sl := 1 } }) := by
  have ht : lanes.take 8 = lanes := by rw [← hl, List.take_length]
  simp only [sl1Entry, hm, hsl, links_without_partner hlinks, ht]
  simp

/-! ### Stacks (R324, R327, R331, R542) -/

theorem cellGet_filter (p : Nat → Bool) (m : List Host.Cell) (a : Nat) :
    cellGet (m.filter (fun c => p c.1)) a = if p a then cellGet m a else 0 := by
  induction m with
  | nil => simp [cellGet]
  | cons e m ih =>
    obtain ⟨k, v⟩ := e
    rw [List.filter_cons, cellGet]
    by_cases hk : k = a
    · subst hk
      by_cases hp : p k = true
      · simp [hp, cellGet]
      · simp [hp, ih]
    · by_cases hp : p k = true
      · simp [hp, cellGet, hk, ih]
      · simp [hp, hk, ih]

theorem pchOf_eq_of_stripes {s t : State} (h : t.mc.stripes = s.mc.stripes) (a : Nat) : pchOf t a = pchOf s a := by
  rw [pchOf, pchOf, decodeF_eq_bandOf, decodeF_eq_bandOf, stripeOf, stripeOf, h]

theorem byteAt_zeroStack (s : State) (k a : Nat) :
    byteAt (zeroStack s k) a = if a < tierFEnd ∧ pchOf s a / 64 = k then 0 else byteAt s a := by
  refine (cellGet_filter (fun a => !(decide (a < tierFEnd) && pchOf s a / 64 == k)) s.mem.cells a).trans ?_
  by_cases h : a < tierFEnd ∧ pchOf s a / 64 = k
  · simp [h]
  · rw [if_neg h, if_pos (by simpa [imp_iff_not_or] using h)]
    rfl

theorem stackOf_mset_self {s : State} {m : FMap Stack} {k : Nat} {x : Stack} (h : s.mc.stk = mset m k x) :
    stackOf s k = x := by
  rw [stackOf, h, mget_mset_self]

/-- A stack that is set twice leaves the others. -/
theorem stackOf_mset_twice {s t : State} {m : FMap Stack} {k j : Nat} {x y : Stack} (hm : m = mset s.mc.stk k x)
    (h : t.mc.stk = mset m k y) (hj : j ≠ k) : stackOf t j = stackOf s j := by
  rw [stackOf, h, mget_mset_ne _ _ _ _ _ hj, hm, mget_mset_ne _ _ _ _ _ hj, stackOf]

/-- A stack has been tried in its turn, its identity is as expected, and its part of the repair log is applied. -/
def stackTried (s : State) (k : Nat) (r : StackTrain) : State :=
  repairsApply { s with pwr := { s.pwr with sl := 2 }, mc := { s.mc with tried := s.mc.tried ++ [k], selfRef := false } } k r

theorem stackTried_eq (s : State) (k : Nat) (r : StackTrain) : ∃ c x, stackTried s k r =
    { s with pwr := { s.pwr with sl := 2 }, mc := c } ∧ c.stk = mset s.mc.stk k x ∧ c.stripes = s.mc.stripes := by
  unfold stackTried repairsApply
  exact ⟨_, _, rfl, rfl, rfl⟩

/-- Its training follows, and after a cold reset its zeros come between. -/
theorem stackJoin_eq {s : State} {k : Nat} {r : StackTrain} (hm : merUp s = true) (hsl : s.pwr.sl = 1 ∨ s.pwr.sl = 2)
    (ht : s.mc.tried.length = k) (hid : r.identity = true) : stackJoin s k r =
      stackTrained (if !lanesOk r || s.pwr.fullSr then stackTried s k r else zeroStack (stackTried s k r) k) k r := by
  have hne : ¬ (!merUp s || (s.pwr.sl != 1 && s.pwr.sl != 2) || s.mc.tried.length != k) = true := by
    rcases hsl with h | h <;> simp [hm, h, ht]
  unfold stackJoin
  rw [if_neg hne]
  simp only [hid, Bool.not_true, Bool.false_eq_true, if_false]
  rfl

section
variable (u : State) (k : Nat) {r : StackTrain}

theorem stackTrained_ok (h : lanesOk r = true) : ∃ x log,
    stackTrained u k r = { u with mc := { u.mc with stk := mset u.mc.stk k x, laneLog := log } } ∧
      x.inService = true ∧ x.temp = r.temp ∧ x.lanes = r.failed := by
  rw [stackTrained, h]
  exact ⟨_, _, rfl, rfl, rfl, rfl⟩

theorem stackTrained_short (h : lanesOk r = false) : ∃ x,
    stackTrained u k r = { u with mc := { u.mc with stk := mset u.mc.stk k x } } ∧ x.inService = false := by
  rw [stackTrained, h]
  exact ⟨_, rfl, rfl⟩

end

/-- The state in which a stack that joins is trained. -/
theorem byteAt_stackTried {s : State} {k : Nat} {r : StackTrain} (a : Nat) :
    byteAt (if s.pwr.fullSr then stackTried s k r else zeroStack (stackTried s k r) k) a =
      if s.pwr.fullSr = false ∧ a < tierFEnd ∧ pchOf s a / 64 = k then 0 else byteAt s a := by
  obtain ⟨c, x, htried, -, hstripes⟩ := stackTried_eq s k r
  have hb : byteAt (stackTried s k r) a = byteAt s a := by rw [htried]; rfl
  have hp : pchOf (stackTried s k r) a = pchOf s a := pchOf_eq_of_stripes (by rw [htried, ← hstripes]) a
  cases hf : s.pwr.fullSr with
  | true => simpa using hb
  | false =>
    rw [if_neg (by decide), byteAt_zeroStack, hp, hb]
    simp

/-! ### The transition to SL3 (R292, R541) -/

/-- Beside accesses to the tiers, at most the cached descriptors differ. -/
structure DescsOnly (s t : State) : Prop where
  rest : OnlyMem { s with tabs := { s.tabs with descs := t.tabs.descs } } t

namespace DescsOnly

variable {s t u : State}

theorem refl (s : State) : DescsOnly s s := ⟨OnlyMem.refl s⟩

theorem trans (h : DescsOnly s t) (k : DescsOnly t u) : DescsOnly s u := by
  have ht : { t.tabs with descs := u.tabs.descs } = { s.tabs with descs := u.tabs.descs } := by rw [h.rest.tabs]
  have hst := h.rest.withTabs { s.tabs with descs := u.tabs.descs }
  have htu := k.rest
  rw [ht] at htu
  exact ⟨hst.trans htu⟩

theorem of_onlyMem (h : OnlyMem s t) : DescsOnly s t := ⟨by rw [h.tabs]; exact h⟩

theorem foldl {α : Type} {f : State → α → State} (hf : ∀ s a, DescsOnly s (f s a)) (l : List α) (s : State) :
    DescsOnly s (l.foldl f s) := by
  induction l generalizing s with
  | nil => exact refl s
  | cons a l ih => exact (hf s a).trans (ih (f s a))

end DescsOnly

theorem descsOnly_putDesc (s : State) (d : Nat) (x : Desc) : DescsOnly s (putDesc s d x) :=
  ⟨by rw [putDesc_tabs]; exact onlyMem_putDesc s d x⟩

theorem byteAt_zeroExt {s : State} {a n x : Nat} (hlo : a ≤ x) (hhi : x < a + n) : byteAt (zeroExt s a n) x = 0 := by
  refine (cellGet_filter (fun y => decide (y < a) || decide (a + n ≤ y)) _ x).trans (if_neg ?_)
  simp [hlo, hhi]

/-- A descriptor, and a codebook's record, go to the regions of tier F. -/
def descCopied (t : State) (e : Nat × Desc) : State := putDesc t e.1 e.2
def cbCopied (t : State) (e : Nat × Codebook) : State := writeExt t (cbBase t + 1024 * e.1) (cbRecord e.1 e.2) 0 false

/-- The descriptor and codebook regions are copied. -/
def regionsCopied (s : State) : State :=
  let t := s.tabs.descs.foldl descCopied s
  t.tabs.cbs.foldl cbCopied t

theorem descsOnly_descCopied (t : State) (e : Nat × Desc) : DescsOnly t (descCopied t e) := descsOnly_putDesc t e.1 e.2

theorem onlyMem_cbCopied (t : State) (e : Nat × Codebook) : OnlyMem t (cbCopied t e) := onlyMem_writeExt _ _ _ _ _

theorem descsOnly_regionsCopied (s : State) : DescsOnly s (regionsCopied s) :=
  (DescsOnly.foldl descsOnly_descCopied s.tabs.descs s).trans (.of_onlyMem (OnlyMem.foldl _ onlyMem_cbCopied _ _))

/-- The Almanac region is zeroed behind the copies. -/
def almanacCleared (s : State) : State := zeroExt (regionsCopied s) (almBase s) (almBytes (layoutOf s))

theorem descsOnly_almanacCleared (s : State) : DescsOnly s (almanacCleared s) :=
  (descsOnly_regionsCopied s).trans (.of_onlyMem (onlyMem_zeroExt ..))

theorem byteAt_almanacCleared {s : State} {a : Nat} (hlo : almBase s ≤ a) (hhi : a < almBase s + almBytes (layoutOf s)) :
    byteAt (almanacCleared s) a = 0 := byteAt_zeroExt hlo hhi

/-- An Almanac without entries, slots in use, retire lists and journals, its pool cut anew. -/
def almEmpty (a : Alm) (cut : FMap (Nat × Nat)) : Alm :=
  { a with used := [], retire := [], journal := [], copies := [], count := 0, cut := cut }

theorem sl3Cold_eq (s : State) : ∃ cut, sl3Cold s = { almanacCleared s with alm := almEmpty (almanacCleared s).alm cut } := by
  have hd := descsOnly_regionsCopied s
  have hlay : layoutOf (regionsCopied s) = layoutOf s := by rw [layoutOf, layoutOf, hd.rest.mer]
  have hbase : almBase (regionsCopied s) = almBase s := by rw [almBase, almBase, hlay]
  have hdef : sl3Cold s = cutPool
      { zeroExt (regionsCopied s) (almBase (regionsCopied s)) (almBytes (layoutOf (regionsCopied s))) with
        alm := { (zeroExt (regionsCopied s) (almBase (regionsCopied s)) (almBytes (layoutOf (regionsCopied s)))).alm with
          used := [], retire := [], journal := [], copies := [], count := 0 } } := rfl
  rw [hdef, hbase, hlay, ← almanacCleared]
  generalize almanacCleared s = t
  exact ⟨_, rfl⟩

theorem rowOnly_freeSlot (s : State) (a : Nat) : RowOnly s (freeSlot s a) := rowOnly_alm s _

theorem rowOnly_journalUndo (s : State) (j : JRec) : RowOnly s (journalUndo s j) := by
  have hdef : @journalUndo = @journalUndo := rfl
  conv_rhs at hdef => delta journalUndo
  have hp := onlyMem_probe s j.desc j.row
  obtain ⟨pr, hpr⟩ := exists_eq (a' := @probe)
  rw [hdef]
  rw [← hpr] at hp ⊢
  dsimp only
  have hold : ∀ t : State, RowOnly t (match j.old with | some a => freeSlot t a | none => t) := by
    intro t
    cases j.old
    · exact (OnlyMem.refl t).rowOnly
    · exact rowOnly_freeSlot ..
  split
  · exact hold s
  · exact hold s
  · split
    next s1 p he =>
      rw [he] at hp
      split
      · exact hp.rowOnly.trans (hold s1)
      · exact hp.rowOnly.trans (rowOnly_freeSlot ..)
    next s1 he =>
      rw [he] at hp
      exact hp.rowOnly.trans (rowOnly_freeSlot ..)

theorem rowOnly_journalRecover (s : State) : RowOnly s (journalRecover s) :=
  ((RowOnly.foldl rowOnly_journalUndo s.alm.journal s).trans
    (RowOnly.foldl (f := fun t (r : Retired) => freeSlot t r.addr) (fun _ _ => rowOnly_freeSlot ..) _ _)).trans (rowOnly_alm ..)

theorem rowOnly_entryCheck (s : State) (p : APlace) : RowOnly s (entryCheck s p) := by
  have hr := (onlyMem_readExt s (p.ent.slot * 32) 8 (if p.ent.keep then 2 else 0)).rowOnly
  unfold entryCheck
  generalize readExt s (p.ent.slot * 32) 8 (if p.ent.keep then 2 else 0) = x at hr ⊢
  obtain ⟨s1, h, bad⟩ := x
  dsimp only at hr ⊢
  split
  · exact hr
  · exact hr.trans (rowOnly_demoteRow ..)

theorem rowOnly_almValidate (s : State) : RowOnly s (almValidate s) :=
  (RowOnly.foldl rowOnly_entryCheck (almEntries s (fun e => e.state == 1)) s).trans (rowOnly_alm ..)

/-- The block as it enters SL3, with patrol started, and then with its Almanac recovered or empty. -/
def enteringSl3 (s : State) : State := { s with pwr := { s.pwr with sl := 3 }, mc := { s.mc with patrol := true } }
def almanacReady (s : State) : State :=
  if s.pwr.fullSr then almValidate (journalRecover (enteringSl3 s)) else sl3Cold (enteringSl3 s)

theorem sl3Transition_eq {s : State} (hm : merUp s = true) (hsl : s.pwr.sl = 2) (hst : stacksUp s = true)
    (hc : s.orr.cmds.all (heldBack s) = true) : sl3Transition s = releaseHeld { almanacReady s with
      hp := { (almanacReady s).hp with aper := (almanacReady s).hp.aper && (almanacReady s).hp.aperMgmt } } := by
  have hne : ¬ (!merUp s || s.pwr.sl != 2 || !stacksUp s || !s.orr.cmds.all (heldBack s)) = true := by simp [hm, hsl, hst, hc]
  unfold sl3Transition
  rw [if_neg hne]
  rfl

theorem phase_releaseHeld {s : State} {c : Cmd} (hc : c ∈ (releaseHeld s).orr.cmds) : c.phase ≠ .held := by
  obtain ⟨d, -, rfl⟩ := List.mem_map.1 hc
  split
  · simp
  next h => exact h

theorem almanacReady_sl (s : State) : (almanacReady s).pwr.sl = 3 := by
  unfold almanacReady
  split
  · exact ((rowOnly_journalRecover _).trans (rowOnly_almValidate _)).rest.pwr_sl
  · obtain ⟨cut, h⟩ := sl3Cold_eq (enteringSl3 s)
    rw [h]
    exact (descsOnly_almanacCleared _).rest.pwr_sl

/-- Settles O6: SL1 by the ports' training, a stack's join by its states in turn, SL3 by what the recovery and the copies
leave alone. -/
theorem bringUpStepsTakeEffect : Obligations.BringUpStepsTakeEffect := by
  unfold Obligations.BringUpStepsTakeEffect
  refine ⟨?sl1, ?join, ?absent, ?sl3⟩
  case sl1 =>
    intro s lanes links hs hn hm hsl hl hlanes hlinks
    obtain ⟨m, c, hfix, hlay⟩ := layoutFix_eq s
    obtain ⟨-, hup, hframe⟩ := ports_bringUp hlanes 0 (layoutFix s)
    have heq := sl1Entry_eq hm hsl hl hlinks
    generalize lanes.zipIdx.foldl (fun t x => portBringUp t x.2 x.1) (layoutFix s) = t at *
    rw [hfix] at hframe
    refine ⟨{ t with pwr := { t.pwr with sl := 1 } }, act_eq_next (f := fun s => sl1Entry s lanes links) hs heq ((congrArg Cache.need hframe.rc).trans hn), rfl, ?_,
      fun k hk => (congrArg (fun n => (lyOf t n).lanes) (Nat.zero_add k)).symm.trans (hup k hk), hframe.mem, hframe.rc, hframe.rest.tabs, hframe.rest.orr, hframe.rest.tr,
      hframe.rest.hp⟩
    rw [hframe.rest.mer]
    exact hlay
  case join =>
    intro s k r hs hn hm hsl ht hid
    have heq := stackJoin_eq hm hsl ht hid
    obtain ⟨c, x, htried, hstk, hstripes⟩ := stackTried_eq s k r
    refine ⟨fun hok => ?trained, fun hok => ?short⟩
    case trained =>
      obtain ⟨y, log, hy, hin, htemp, hlanes⟩ :=
        stackTrained_ok (if s.pwr.fullSr then stackTried s k r else zeroStack (stackTried s k r) k) k hok
      have hbytes := byteAt_stackTried (s := s) (k := k) (r := r)
      have hu : ∃ m, (if s.pwr.fullSr then stackTried s k r else zeroStack (stackTried s k r) k) =
          { s with pwr := { s.pwr with sl := 2 }, mc := c, mem := m } := by
        rw [htried]
        split
        · exact ⟨_, rfl⟩
        · exact ⟨_, rfl⟩
      rw [hok] at heq
      simp only [Bool.not_true, Bool.false_or] at heq
      generalize (if s.pwr.fullSr then stackTried s k r else zeroStack (stackTried s k r) k) = u at *
      obtain ⟨m, rfl⟩ := hu
      obtain ⟨t, ht⟩ : ∃ t, t = stackJoin s k r := ⟨_, rfl⟩
      rw [← ht] at heq
      have hmc : t.mc = { c with stk := mset c.stk k y, laneLog := log } := by rw [heq, hy]
      have hself : stackOf t k = y := stackOf_mset_self (m := c.stk) (by rw [hmc])
      refine ⟨t, act_eq_next (f := fun s => stackJoin s k r) hs ht.symm ?_, ?_, by rw [hself, hin], by rw [hself, htemp],
        by rw [hself, hlanes], fun a => ?_, fun j hj => stackOf_mset_twice hstk (by rw [hmc]) hj, ?_, ?_, ?_, ?_⟩
      case refine_3 => rw [← hbytes, heq, hy]; rfl
      all_goals rw [heq, hy]
      exact hn
    case short =>
      obtain ⟨y, hy, hin⟩ := stackTrained_short (stackTried s k r) k hok
      rw [hok] at heq
      simp only [Bool.not_false, Bool.true_or, if_true] at heq
      rw [htried] at heq hy
      obtain ⟨t, ht⟩ : ∃ t, t = stackJoin s k r := ⟨_, rfl⟩
      rw [← ht] at heq
      have hmc : t.mc = { c with stk := mset c.stk k y } := by rw [heq, hy]
      have hself : stackOf t k = y := stackOf_mset_self (m := c.stk) (by rw [hmc])
      refine ⟨t, act_eq_next (f := fun s => stackJoin s k r) hs ht.symm ?_, ?_, by rw [hself, hin], ?_,
        fun j hj => stackOf_mset_twice hstk (by rw [hmc]) hj, ?_, ?_, ?_, ?_⟩
      all_goals rw [heq, hy]
      exact hn
  case absent =>
    intro s k hs hn hk
    refine act_eq_next hs (if_pos hk) hn
  case sl3 =>
    intro s hs hm hsl hst hc hn
    have heq := sl3Transition_eq hm hsl hst hc
    refine ⟨_, act_eq_next hs heq (heq ▸ hn), almanacReady_sl s, fun c hc => phase_releaseHeld hc, fun hf => ?_⟩
    obtain ⟨cut, hcold⟩ := sl3Cold_eq (enteringSl3 s)
    have hrest := (descsOnly_almanacCleared (enteringSl3 s)).rest
    have hzero := fun a => byteAt_almanacCleared (s := enteringSl3 s) (a := a)
    have hready : almanacReady s = _ := (if_neg (by rw [hf]; decide)).trans hcold
    rw [hready]
    generalize almanacCleared (enteringSl3 s) = t at hrest hzero
    exact ⟨hrest.mc, rfl, rfl, rfl, rfl, fun a hlo hhi => hzero a hlo hhi, (congrArg Tabs.groups hrest.tabs).trans rfl, hrest.xlt,
      hrest.str, hrest.sc⟩

end Sys2Proof.Machine
end

section
/-! PROOFS. Commands that lay out the memory: SET_LAYOUT, SET_MEM_SPLIT, SET_MEM_POLICY, SET_STRIPE and MEM_HEALTH (R301,
R306, R328, R507, R511). -/

namespace Sys2Proof.Machine

/-! ### SET_LAYOUT (R511, R597, R598) -/

theorem mget_range_map {α : Type} (f : Nat → α) (d : α) {i n : Nat} (hi : i < n) :
    mget ((List.range n).map fun j => (j, f j)) i d = f i := by
  have h : ∀ l : List Nat, i ∈ l → mget? (l.map fun j => (j, f j)) i = some (f i) := by
    intro l
    induction l with
    | nil => simp
    | cons j l ih =>
      intro hm
      rw [List.map_cons, mget?]
      split
      next hj => rw [hj]
      next hj => exact ih ((List.mem_cons.1 hm).resolve_left (Ne.symm hj))
  rw [mget, h _ (List.mem_range.2 hi), Option.getD_some]

theorem blockBase_of_layout {s : State} {x : Layout} (h : s.mer.layout = some x) :
    blockBase s = 0x5FE0000000 - layoutSum x := by
  have hx : layoutOf s = x := by rw [layoutOf, h, Option.getD_some]
  simp only [blockBase, skewBase, faninBase, fanoutBase, stageBase, scatBase, mapsBase, poolBase, almBase, hx, fixedBase,
    layoutSum, Nat.sub_sub, Nat.add_assoc]

theorem stripeOf_layoutStripes (s : State) {i : Nat} (hi : i < 512) : (stripeOf (layoutStripes s) i).mode =
    if overlap (i * 0x30000000) 0x30000000 (blockBase s) (tierFEnd - blockBase s) then 2 else resetMode i := by
  simp only [stripeOf, layoutStripes]
  rw [mget_range_map _ _ hi]

/-- The state that SET_LAYOUT leaves where it takes the layout `x`. -/
def layoutSet (s : State) (x : Layout) : State :=
  let s1 := { s with mer := { s.mer with layout := some x } }
  saveNvm (if s.pwr.fullSr then s1 else layoutStripes s1)

theorem layoutSet_eq (s : State) (x : Layout) : ∃ n c, layoutSet s x =
    { s with mer := { s.mer with layout := some x, nvm := some n }, mc := { s.mc with stripes := c } } ∧ n.layout = some x := by
  unfold layoutSet
  dsimp only
  split
  · exact ⟨_, s.mc.stripes, rfl, rfl⟩
  · exact ⟨_, _, rfl, rfl⟩

theorem stripeOf_layoutSet {s : State} (hf : s.pwr.fullSr = false) (x : Layout) {i : Nat} (hi : i < 512) :
    (stripeOf (layoutSet s x) i).mode = if overlap (i * 0x30000000) 0x30000000 (blockBase (layoutSet s x))
      (tierFEnd - blockBase (layoutSet s x)) then 2 else resetMode i := by
  have hb : layoutSet s x = saveNvm (layoutStripes { s with mer := { s.mer with layout := some x } }) := by
    rw [layoutSet, hf]; rfl
  rw [hb]
  exact stripeOf_layoutStripes _ hi

/-- SET_LAYOUT by the sizes asked for, which after a FULL_SR reset are the kept ones. -/
theorem bodySetLayout_eq {s : State} {c : MbCtx} {x : Layout} (hx : layoutArgs c = x)
    (hk : s.pwr.fullSr = true → x = (s.mer.nvm.bind (fun n => n.layout)).getD Layout.default) : bodySetLayout s c =
      if layoutMin x = false then .done s rcInvalid []
      else if tierFEnd < layoutSum x + 0x20000000 then .done s rcNoSpace []
      else .done (layoutSet s x) rcOk [(0, BitVec.ofNat 64 (blockBase (layoutSet s x)))] := by
  have hkept : (s.pwr.fullSr && x != (s.mer.nvm.bind (fun n => n.layout)).getD Layout.default) = false := by
    cases hf : s.pwr.fullSr with
    | false => rfl
    | true => rw [← hk hf]; simp
  simp only [bodySetLayout, hx, hkept, Bool.or_false, Bool.not_eq_true']
  rfl

theorem setLayout_takesEffect (s : State) (m : MbWrite) (x : Layout) (h : MbStarts rowSetLayout m s) (hn : s.rc.need = [])
    (hx : layoutArgs (mbCtx s m) = x)
    (hk : s.pwr.fullSr = true → x = (s.mer.nvm.bind (fun n => n.layout)).getD Layout.default) :
    (layoutMin x = false → exec (.setLayout m) s = .next (mbEnds s m 0x20 rcInvalid [])) ∧
    (layoutMin x = true → tierFEnd < layoutSum x + 0x20000000 →
      exec (.setLayout m) s = .next (mbEnds s m 0x20 rcNoSpace [])) ∧
    (layoutMin x = true → layoutSum x + 0x20000000 ≤ tierFEnd →
      ∃ t, exec (.setLayout m) s = .next t ∧
        MbEnded s t m.ch rcOk [(0, BitVec.ofNat 64 (0x5FE0000000 - layoutSum x))] ∧ blockBase t = 0x5FE0000000 - layoutSum x ∧
        t.mer.layout = some x ∧ (t.mer.nvm.bind (fun n => n.layout)) = some x ∧
        (s.pwr.fullSr = false → ∀ i, i < 512 → (stripeOf t i).mode =
          if overlap (i * 0x30000000) 0x30000000 (blockBase t) (tierFEnd - blockBase t) then 2 else resetMode i) ∧
        { mbUndo s t with mer := { t.mer with layout := s.mer.layout, nvm := s.mer.nvm },
                          mc := { t.mc with stripes := s.mc.stripes } } = s) := by
  have hb := bodySetLayout_eq (s := mbTake s m 0x20) hx hk
  refine ⟨fun hmin => ?small, fun hmin hbig => ?large, fun hmin hfit => ?fits⟩
  case small =>
    rw [if_pos hmin] at hb
    exact mbox_done h hb hn
  case large =>
    rw [if_neg (by simp [hmin]), if_pos hbig] at hb
    exact mbox_done h hb hn
  case fits =>
    rw [if_neg (by simp [hmin]), if_neg (by omega)] at hb
    have hstr := fun (hf : s.pwr.fullSr = false) i hi => stripeOf_layoutSet (s := mbTake s m 0x20) hf x (i := i) hi
    obtain ⟨n, c, ht, hl⟩ := layoutSet_eq (mbTake s m 0x20) x
    have hlay : (layoutSet (mbTake s m 0x20) x).mer.layout = some x := by rw [ht]
    have hnvm : (layoutSet (mbTake s m 0x20) x).mer.nvm.bind (fun n => n.layout) = some x := by rw [ht]; exact hl
    have hch : (layoutSet (mbTake s m 0x20) x).chans = (mbTake s m 0x20).chans := by rw [ht]
    have hneed : (layoutSet (mbTake s m 0x20) x).rc.need = [] := by rw [ht]; exact hn
    have hrest : { mbUndo s (layoutSet (mbTake s m 0x20) x) with
        mer := { (layoutSet (mbTake s m 0x20) x).mer with layout := s.mer.layout, nvm := s.mer.nvm },
        mc := { (layoutSet (mbTake s m 0x20) x).mc with stripes := s.mc.stripes } } = s := by rw [ht]; rfl
    have hbase := blockBase_of_layout hlay
    generalize layoutSet (mbTake s m 0x20) x = u at *
    have hmer : ∀ rets, (mbComplete u m.ch rcOk rets).mer = u.mer := fun rets => by simp
    have hmc : ∀ rets, (mbComplete u m.ch rcOk rets).mc = u.mc := fun rets => by simp
    have hbt : ∀ rets, blockBase (mbComplete u m.ch rcOk rets) = blockBase u := fun rets => by
      rw [blockBase_of_layout (by rw [hmer, hlay]), hbase]
    refine ⟨_, mbox_done h hb hneed, ?_, ?_, ?_, ?_, fun hf i hi => ?_, ?_⟩
    · rw [hbase]
      exact mbEnded_of_chans_mbTake hch _ _
    · rw [hbt, hbase]
    · rw [hmer, hlay]
    · rw [hmer, hnvm]
    · rw [hbt, stripeOf, hmc]
      exact hstr hf i hi
    · rw [mbUndo_mbComplete, hmer, hmc]
      exact hrest

/-! ### SET_MEM_SPLIT and SET_MEM_POLICY (R306, R507) -/

theorem setMemSplit_takesEffect (s : State) (m : MbWrite) (l : List Nat) (h : MbStarts rowSetMemSplit m s)
    (hn : s.rc.need = []) (hl : l = [(mbCtx s m).f 0 0 5, (mbCtx s m).f 0 5 5, (mbCtx s m).f 0 10 5]) :
    (0 ∉ l → l.sum = 20 →
      exec (.setMemSplit m) s = .next (mbEnds { s with mer := { s.mer with split := l } } m 0x21 rcOk [])) ∧
    (0 ∈ l ∨ l.sum ≠ 20 → exec (.setMemSplit m) s = .next (mbEnds s m 0x21 rcInvalid [])) := by
  have hb : bodySetMemSplit (mbTake s m 0x21) (mbCtx s m) =
      if 0 ∈ l ∨ l.sum ≠ 20 then .done (mbTake s m 0x21) rcInvalid []
      else .done { mbTake s m 0x21 with mer := { s.mer with split := l } } rcOk [] := by
    simp only [bodySetMemSplit, ← hl]
    refine if_congr ?_ rfl rfl
    simp
  refine ⟨fun h0 hs => ?_, fun hbad => ?_⟩
  · rw [if_neg (by simp [h0, hs])] at hb
    exact mbox_done h hb hn
  · rw [if_pos hbad] at hb
    exact mbox_done h hb hn

theorem setMemPolicy_takesEffect (s : State) (m : MbWrite) (h : MbStarts rowSetMemPolicy m s) (hn : s.rc.need = []) :
    ((mbCtx s m).f 1 0 8 ≤ 168 → exec (.setMemPolicy m) s = .next (mbEnds { s with mer := { s.mer with
      rowCeMax := if (mbCtx s m).f 0 0 8 = 0 then s.mer.rowCeMax else (mbCtx s m).f 0 0 8,
      scrubPeriod := if (mbCtx s m).f 1 0 8 = 0 then s.mer.scrubPeriod else (mbCtx s m).f 1 0 8 } } m 0x22 rcOk [])) ∧
    (168 < (mbCtx s m).f 1 0 8 → exec (.setMemPolicy m) s = .next (mbEnds s m 0x22 rcInvalid [])) := by
  refine ⟨fun hp => ?_, fun hp => ?_⟩
  · exact mbox_done h (if_neg (Nat.not_lt.2 hp)) hn
  · exact mbox_done h (if_pos hp) hn

/-! ### SET_STRIPE (R301) -/

theorem missSector_rc (s : State) (sec : Nat) : (missSector s sec).1.rc = s.rc := by
  unfold missSector
  split
  · rfl
  · split
    · rfl
    · exact dReadSecs_rc ..

/-- A fill allocates the line or not, and then the accesses that joined take place. -/
theorem fillLine_cases (s : State) (x : Nat) (d : List Byte) (bad : Bool) : fillLine s x d bad = s ∨
    ∃ (u : State) (c : Bool) (hint : BitVec 2) (l : List Waiting), u.rc.lines = s.rc.lines ∧ fillLine s x d bad =
      l.foldl afterFill (if c then allocLine u (homeSlice u x) (lineSet u x) x hint false bad d else u) := by
  unfold fillLine
  split
  · exact .inl rfl
  next m ms hms =>
    exact .inr ⟨{ s with rc := { s.rc with
        mshr := s.rc.mshr.filter (fun m => m.x != x), mret := s.rc.mret.filter (fun y => y / 2 != x) } },
      s.rc.enabled && (if m.acc.write then 0 else m.acc.hint) != 3, if m.acc.write then 0 else m.acc.hint,
      if m.acc.write then m :: ms else ms, rfl, rfl⟩

/-- The lines of the row cache stand in rising order of their keys. -/
def Rising (s : State) : Prop := mwf s.rc.lines = true

namespace Rising

variable {s t : State}

theorem of_lines (h : Rising s) (e : t.rc.lines = s.rc.lines) : Rising t := by unfold Rising; rw [e]; exact h

theorem foldl {α : Type} {f : State → α → State} (h : Rising s) (hf : ∀ {t}, Rising t → ∀ a, Rising (f t a)) (l : List α) :
    Rising (l.foldl f s) := by
  induction l generalizing s with
  | nil => exact h
  | cons a l ih => exact ih (hf h a)

theorem setLine (h : Rising s) (k : Nat) (l : CLine) : Rising (setLine s k l) := mwf_mset _ _ _ h

theorem touchWay (h : Rising s) (sl st w : Nat) : Rising (touchWay s sl st w) := h

theorem dWrite (h : Rising s) (a : Nat) (l : List Byte) (p : Bool) : Rising (dWrite s a l p) :=
  h.of_lines (by rw [dWrite_rc])

theorem allocLine (h : Rising s) (sl st x : Nat) (hint : BitVec 2) (dirty poison : Bool) (data : List Byte) :
    Rising (allocLine s sl st x hint dirty poison data) := by
  cases hv : victim s sl st with
  | none =>
    rw [Machine.allocLine, hv]
    dsimp only
    split
    · exact h.dWrite ..
    · exact h
  | some w =>
    obtain ⟨b, keep, ha⟩ := allocLine_some hv x hint dirty poison data
    have he : Rising (bumpIf (evicted s (wayKey sl st w)) b (ctrSliceKeepOver sl)) := by
      unfold Rising
      rw [bumpIf_rc, evicted_lines]
      exact mwf_mdel h _
    rw [ha]
    dsimp only
    split
    · exact he.setLine ..
    · exact (he.setLine ..).touchWay ..

theorem hitHint (h : Rising s) (sl st w : Nat) (l : CLine) (hint : BitVec 2) : Rising (hitHint s sl st w l hint) := by
  unfold Machine.hitHint
  dsimp only
  split
  · exact h
  · split
    · split
      · exact (h.setLine ..).touchWay ..
      · exact h
    · exact h

theorem putLine (h : Rising s) (a : Nat) (data : List Byte) (hint : BitVec 2) (poison : Bool) :
    Rising (putLine s a data hint poison) := by
  unfold Machine.putLine
  dsimp only
  split
  · refine Rising.hitHint ?_ ..
    split
    · exact (h.setLine ..).dWrite ..
    · exact h.setLine ..
  · split
    · exact h.allocLine ..
    · exact h.dWrite ..

theorem afterFill (h : Rising s) (w : Waiting) : Rising (afterFill s w) := by
  unfold Machine.afterFill
  split
  · exact h.putLine ..
  · split
    · exact h.hitHint ..
    · exact h

theorem fillLine (h : Rising s) (x : Nat) (d : List Byte) (bad : Bool) : Rising (fillLine s x d bad) := by
  rcases fillLine_cases s x d bad with he | ⟨u, c, hint, l, hu, he⟩
  · rw [he]
    exact h
  · rw [he]
    refine Rising.foldl ?_ (fun ht w => ht.afterFill w) _
    split
    · exact (h.of_lines hu).allocLine ..
    · exact h.of_lines hu

theorem takeFill (h : Rising s) (x : Nat) : Rising (takeFill s x) := by
  have hr : (missSector (missSector s (2 * x)).1 (2 * x + 1)).1.rc = s.rc := by rw [missSector_rc, missSector_rc]
  exact fillLine (h.of_lines (congrArg Cache.lines hr)) ..

theorem takeFills (h : Rising s) (p : Nat → Bool) : Rising (takeFills s p) := h.foldl (fun ht x => ht.takeFill x) _

end Rising

/-- Write-backs and drops of the entries of a list that an extent holds. -/
def flushed (a n : Nat) (s : State) (e : Nat × CLine) : State :=
  if overlap a n (e.2.x * 64) 64 then dropLine (if e.2.dirty then writeBack s e.2 else s) e.1 else s

theorem flushed_lines (a n : Nat) (s : State) (e : Nat × CLine) :
    (flushed a n s e).rc.lines = if overlap a n (e.2.x * 64) 64 then mdel s.rc.lines e.1 else s.rc.lines := by
  unfold flushed
  split
  · split
    · rw [dropLine, writeBack, dWrite_rc]
    · rfl
  · rfl

/-- What is left after the entries of a list have been flushed stood there before, and is none of these. -/
theorem mget?_foldl_flushed {a n : Nat} {l : FMap CLine} {s : State} (h : Rising s) {k : Nat} {v : CLine}
    (hv : mget? (l.foldl (flushed a n) s).rc.lines k = some v) :
    mget? s.rc.lines k = some v ∧ ((k, v) ∈ l → overlap a n (v.x * 64) 64 = false) := by
  induction l generalizing s with
  | nil => exact ⟨hv, fun hm => absurd hm List.not_mem_nil⟩
  | cons e l ih =>
    have hlines := flushed_lines a n s e
    have hr : Rising (flushed a n s e) := by
      unfold Rising
      rw [hlines]
      split
      · exact mwf_mdel h _
      · exact h
    obtain ⟨hk, hl⟩ := ih hr hv
    rw [hlines] at hk
    split at hk
    next ho =>
      obtain ⟨hne, hk⟩ := mget?_of_mdel h hk
      exact ⟨hk, fun hm => hl ((List.mem_cons.1 hm).resolve_left fun he => hne (congrArg Prod.fst he))⟩
    next ho =>
      refine ⟨hk, fun hm => (List.mem_cons.1 hm).elim (fun he => ?_) hl⟩
      rw [← he] at ho
      simpa using ho

/-- No line of a flushed extent stays in the row cache. -/
theorem flushExt_lines {s : State} (h : Rising s) (a n : Nat) {k : Nat} {l : CLine}
    (hl : mget? (flushExt s a n).rc.lines k = some l) : overlap a n (l.x * 64) 64 = false := by
  have hr := h.takeFills (fun x => overlap a n (x * 64) 64)
  obtain ⟨hk, hm⟩ := mget?_foldl_flushed hr hl
  exact hm ((mget?_eq_some_iff hr).1 hk)

/-- The state after SET_STRIPE has flushed stripe `i` and drawn a seed where the new mode is SPREAD, and the seed. -/
def stripeSeed (s : State) (i mode : Nat) : State × W64 :=
  let s0 := flushExt s (i * 0x30000000) 0x30000000
  if mode = 2 then draw s0 else (s0, (stripeOf s0 i).seed)

theorem stripeSeed_eq (s : State) (i mode : Nat) : ∃ n,
    (stripeSeed s i mode).1 = { flushExt s (i * 0x30000000) 0x30000000 with draws := n } := by
  unfold stripeSeed
  dsimp only
  split
  · exact ⟨_, rfl⟩
  · exact ⟨_, rfl⟩

theorem bodySetStripe_eq {s : State} {c : MbCtx} {i : Nat} (hi : c.f 0 0 9 = i) (hm : c.f 0 9 2 ≠ 3)
    (hu : stripeUsed s i = false) : bodySetStripe s c =
      .done (saveNvm (restripe (stripeSeed s i (c.f 0 9 2)).1 i
        { mode := BitVec.ofNat 2 (c.f 0 9 2), seed := (stripeSeed s i (c.f 0 9 2)).2 })) rcOk [] := by
  simp only [bodySetStripe, hi, if_neg hm, hu, Bool.false_eq_true, if_false]
  rfl

theorem setStripe_takesEffect (s : State) (m : MbWrite) (i : Nat) (h : MbStarts rowSetStripe m s)
    (hi : (mbCtx s m).f 0 0 9 = i) (hm : (mbCtx s m).f 0 9 2 ≠ 3) (hu : stripeUsed s i = false)
    (hl : mwf s.rc.lines = true) (hn : (flushExt (mbTake s m 0x23) (i * 0x30000000) 0x30000000).rc.need = []) :
    ∃ t, exec (.setStripe m) s = .next t ∧ MbEnded s t m.ch rcOk [] ∧
      (stripeOf t i).mode = BitVec.ofNat 2 ((mbCtx s m).f 0 9 2) ∧ (∀ j, j ≠ i → stripeOf t j = stripeOf s j) ∧
      (∀ k l, mget? t.rc.lines k = some l → overlap (i * 0x30000000) 0x30000000 (l.x * 64) 64 = false) ∧
      { memUndo s (mbUndo s t) with mer := { t.mer with nvm := s.mer.nvm }, mc := { t.mc with stripes := s.mc.stripes },
                                    draws := s.draws } = s := by
  have hb := bodySetStripe_eq (s := mbTake s m 0x23) hi hm hu
  have hlines := fun k l => flushExt_lines (s := mbTake s m 0x23) hl (i * 0x30000000) 0x30000000 (k := k) (l := l)
  have hflush := onlyMem_flushExt (mbTake s m 0x23) (i * 0x30000000) 0x30000000
  obtain ⟨n, hs1⟩ := stripeSeed_eq (mbTake s m 0x23) i ((mbCtx s m).f 0 9 2)
  generalize (stripeSeed (mbTake s m 0x23) i ((mbCtx s m).f 0 9 2)).2 = seed at hb
  rw [hs1] at hb
  generalize flushExt (mbTake s m 0x23) (i * 0x30000000) 0x30000000 = u at *
  set v := restripe { u with draws := n } i { mode := BitVec.ofNat 2 ((mbCtx s m).f 0 9 2), seed := seed } with hv
  have hvu : OnlyMem { u with mc := v.mc, draws := n } v := onlyMem_mem _ v.mem
  have hvmc : v.mc = { u.mc with stripes := mset u.mc.stripes i { mode := BitVec.ofNat 2 ((mbCtx s m).f 0 9 2), seed := seed } } :=
    rfl
  have hvrc : v.rc = u.rc := rfl
  clear_value v
  have hall : OnlyMem { mbTake s m 0x23 with mc := v.mc, draws := n } v := (hflush.withSeeds v.mc n).trans hvu
  have humc : u.mc = s.mc := hflush.mc
  have hpwr : { v.pwr with complLine := s.pwr.complLine, evtLine := s.pwr.evtLine } = s.pwr := by
    have hp : { v.pwr with evtLine := s.pwr.evtLine } = s.pwr := hall.pwr
    rw [← congrArg Pwr.complLine hp]
    exact hp
  have hmer : (mbComplete (saveNvm v) m.ch rcOk []).mer = (saveNvm v).mer := by simp
  have hmc : (mbComplete (saveNvm v) m.ch rcOk []).mc = v.mc := (by simp : _ = (saveNvm v).mc).trans rfl
  refine ⟨_, mbox_done h hb (by rw [saveNvm, hvrc]; exact hn), ?_, ?_, fun j hj => ?_, fun k l hk => hlines k l ?_, ?_⟩
  · exact mbEnded_of_chans_mbTake (t := saveNvm v) hall.chans _ _
  · rw [stripeOf, hmc, hvmc, mget_mset_self]
  · rw [stripeOf, hmc, hvmc, humc, mget_mset_ne _ _ _ _ _ hj]; rfl
  · rw [mbComplete_rc] at hk
    exact hvrc ▸ hk
  · have hvmer : { (saveNvm v).mer with nvm := s.mer.nvm } = v.mer := by
      have hsm : s.mer = v.mer := Eq.symm hall.mer
      rw [hsm]; rfl
    have hback : memUndo s { mbUndo s v with mc := s.mc, draws := s.draws } = s :=
      OnlyMem.undo { hall with chans := rfl, got := rfl, mc := rfl, draws := rfl, pwr := hpwr }
    rw [mbUndo_mbComplete, hmer, hmc, hvmc, humc, hvmer]
    exact hback

/-! ### MEM_HEALTH (R323, R328) -/

theorem length_healthBytes (s : State) (k : Nat) : ((healthWords s k).flatMap fun x => toBytes 8 x.toNat).length = 56 := by
  simp [healthWords]

theorem memHealth_companion (s : State) (m : MbWrite) (k : Nat) (w : State → List Byte → State) (h : MbStarts rowMemHealth m s)
    (hk : (mbCtx s m).f 0 0 4 = k + 8) (hup : portUp s k = true)
    (hw : BufTakes (mbTake s m 0x24) (mbCtx s m) ((mbCtx s m).p 1) 56 w)
    (hn : (w (mbTake s m 0x24) ((healthWords s k).flatMap (fun x => toBytes 8 x.toNat))).rc.need = []) :
    exec (.memHealth m) s = .next (mbComplete (w (mbTake s m 0x24)
      ((healthWords s k).flatMap (fun x => toBytes 8 x.toNat))) m.ch rcOk [(0, 56)]) := by
  have hlen : ((healthWords (mbTake s m 0x24) k).flatMap fun x => toBytes 8 x.toNat).length = 56 := length_healthBytes _ _
  have hup' : portUp (mbTake s m 0x24) k = true := hup
  refine mbox_done h (?_ : bodyMemHealth (mbTake s m 0x24) (mbCtx s m) = _) hn
  rw [bodyMemHealth]
  dsimp only
  rw [hk, if_neg (by simp), if_pos (by omega), Nat.add_sub_cancel, hup', hlen, hw.withOut_eq]
  rfl

theorem memHealth_stack (s : State) (m : MbWrite) (k : Nat) (b : List Byte) (w : State → List Byte → State)
    (h : MbStarts rowMemHealth m s) (hk : (mbCtx s m).f 0 0 4 = k) (hlt : k < 6)
    (hb : b = Config.stackReport (stackHealth s k))
    (hw : BufTakes (mbTake s m 0x24) (mbCtx s m) ((mbCtx s m).p 1) b.length w) (hn : (w (mbTake s m 0x24) b).rc.need = []) :
    exec (.memHealth m) s = .next (mbComplete (w (mbTake s m 0x24) b) m.ch rcOk [(0, BitVec.ofNat 64 b.length)]) := by
  have hb' : Config.stackReport (stackHealth (mbTake s m 0x24) k) = b := hb.symm
  refine mbox_done h (?_ : bodyMemHealth (mbTake s m 0x24) (mbCtx s m) = _) hn
  rw [bodyMemHealth]
  dsimp only
  rw [hk, if_neg (by simp; omega), if_neg (by omega), hb', hw.withOut_eq]

/-- Settles O18, command by command. -/
theorem memoryLayoutCommandsTakeEffect : Obligations.MemoryLayoutCommandsTakeEffect :=
  ⟨setLayout_takesEffect, setMemSplit_takesEffect, setMemPolicy_takesEffect, setStripe_takesEffect, memHealth_companion,
    memHealth_stack⟩

end Sys2Proof.Machine
end

section
/-! PROOFS. Events at the home slices and the memory controllers: accesses, back-invalidate answers, DRAM returns, row
remapping, patrol and refresh (R318, R320, R325, R326, R329, R334 to R343, R349, R353, R403). -/

namespace Sys2Proof.Machine

/-! ### Accesses at the home slices (R334 to R343, R349) -/

section
variable {s : State} {a : LineAccess}

/-- An access that nothing holds up takes place. -/
theorem homeAccess_takes (hin : inTiers (a.addr / 64 * 64) 64 = true) (hhost : a.host = false) (hsn : snooped s a = false)
    (hbi : ∀ w ∈ s.rc.biWait, w.x ≠ a.addr / 64) (haw : memAwake s (a.addr / 64 * 64) = true)
    (hfull : sliceFull s (homeSlice s (a.addr / 64)) = false) (e : LineErr) : homeAccess s a e = sliceErr s a e := by
  have hw : s.rc.biWait.any (fun w => w.x == a.addr / 64) = false := by simpa using hbi
  simp [homeAccess, hin, hhost, hsn, hw, haw, hfull]

theorem sliceServe_write (hm : missOpen s (a.addr / 64) = false) (hw : a.write = true) :
    sliceServe s a = writeLine s a.addr a.data a.hint a.poison := by
  simp [sliceServe, hm, hw]

theorem sliceServe_hit (hm : missOpen s (a.addr / 64) = false) (hw : a.write = false)
    (hp : passThrough s (a.addr / 64) = false)
    (hf : (findWay s (homeSlice s (a.addr / 64)) (lineSet s (a.addr / 64)) (a.addr / 64)).isSome = true) :
    sliceServe s a = (readLine s (a.addr / 64) a.hint).1 := by
  simp [sliceServe, hm, hw, hp, hf]

theorem sliceServe_miss (hm : missOpen s (a.addr / 64) = false) (hw : a.write = false)
    (hp : passThrough s (a.addr / 64) = false)
    (hf : findWay s (homeSlice s (a.addr / 64)) (lineSet s (a.addr / 64)) (a.addr / 64) = none)
    (hup : memUp s (a.addr / 64 * 64) = true) :
    sliceServe s a = bump1 (openMiss s a) (ctrSliceRcMiss (homeSlice s (a.addr / 64))) := by
  simp [sliceServe, hm, hw, hp, hf, hup]

theorem sliceServe_join (hm : missOpen s (a.addr / 64) = true) (hp : passThrough s (a.addr / 64) = false) :
    sliceServe s a = bumpIf (openMiss s a) (!a.write) (ctrSliceRcMiss (homeSlice s (a.addr / 64))) := by
  cases hw : a.write with
  | true => simp [sliceServe, hm, hw, hp, bumpIf]
  | false => simp [sliceServe, hm, hw, hp, bumpIf, bump1]

/-- An uncorrectable hit that is not DIRTY leaves the way, and the line is read again. -/
theorem lineUe_clean {sl st w : Nat} {l : CLine} (hl : mget? s.rc.lines (wayKey sl st w) = some l) (hd : l.dirty = false) :
    lineUe s a sl st w = openMiss (bumpIf (bump1 (dropLine s (wayKey sl st w)) (ctrWayRcUeClean (16 * sl + w))) (!a.write)
      (ctrSliceRcHit sl)) a := by
  simp [lineUe, mget, hl, hd]

theorem onlyMem_openMiss (s : State) (a : LineAccess) : OnlyMem s (openMiss s a) := onlyMem_rc s _

end

theorem homeSliceAccess_takesEffect (s : State) (a : LineAccess) (hs : stopped s = false)
    (hin : inTiers (a.addr / 64 * 64) 64 = true) (hhost : a.host = false) (hsn : snooped s a = false)
    (hbi : ∀ w ∈ s.rc.biWait, w.x ≠ a.addr / 64) (haw : memAwake s (a.addr / 64 * 64) = true)
    (hfull : sliceFull s (homeSlice s (a.addr / 64)) = false) :
    (∀ e, (sliceErr s a e).rc.need = [] → exec (.homeSliceAccess a e) s = .next (sliceErr s a e)) ∧
    (missOpen s (a.addr / 64) = false →
      (∀ t, a.write = true → t = writeLine s a.addr a.data a.hint a.poison → t.rc.need = [] →
        exec (.homeSliceAccess a .none) s = .next t ∧ memUndo s t = s) ∧
      (∀ w t, a.write = false → passThrough s (a.addr / 64) = false →
        findWay s (homeSlice s (a.addr / 64)) (lineSet s (a.addr / 64)) (a.addr / 64) = some w →
        t = (readLine s (a.addr / 64) a.hint).1 → t.rc.need = [] →
          exec (.homeSliceAccess a .none) s = .next t ∧ memUndo s t = s) ∧
      (a.write = false → passThrough s (a.addr / 64) = false →
        findWay s (homeSlice s (a.addr / 64)) (lineSet s (a.addr / 64)) (a.addr / 64) = none →
        memUp s (a.addr / 64 * 64) = true → s.rc.need = [] →
          exec (.homeSliceAccess a .none) s = .next (bump1 { s with rc := { s.rc with
            mshr := s.rc.mshr ++ [{ x := a.addr / 64, acc := a }] } } (ctrSliceRcMiss (homeSlice s (a.addr / 64)))))) ∧
    (missOpen s (a.addr / 64) = true → passThrough s (a.addr / 64) = false → s.rc.need = [] →
      exec (.homeSliceAccess a .none) s = .next (bumpIf { s with rc := { s.rc with
        mshr := s.rc.mshr ++ [{ x := a.addr / 64, acc := a }] } } (!a.write) (ctrSliceRcMiss (homeSlice s (a.addr / 64))))) ∧
    (∀ w l k, k = wayKey (homeSlice s (a.addr / 64)) (lineSet s (a.addr / 64)) w →
      findWay s (homeSlice s (a.addr / 64)) (lineSet s (a.addr / 64)) (a.addr / 64) = some w →
      mget? s.rc.lines k = some l → l.dirty = false → s.rc.need = [] →
        ∃ t, exec (.homeSliceAccess a .uncorrectable) s = .next t ∧
          t.rc = { s.rc with lines := mdel s.rc.lines k, mshr := s.rc.mshr ++ [{ x := a.addr / 64, acc := a }] } ∧
          t.mem = s.mem ∧ memUndo s t = s) := by
  have hrun : ∀ {e t}, sliceErr s a e = t → t.rc.need = [] → exec (.homeSliceAccess a e) s = .next t := fun {e t} ht hn =>
    act_eq_next (f := fun s => homeAccess s a e) hs ((homeAccess_takes hin hhost hsn hbi haw hfull e).trans ht) hn
  refine ⟨fun e hn => hrun rfl hn, fun hm => ⟨?write, ?hit, ?miss⟩, ?join, ?bad⟩
  case write =>
    rintro t hw rfl hn
    exact ⟨hrun (sliceServe_write hm hw) hn, (onlyMem_writeLine ..).undo⟩
  case hit =>
    rintro w t hw hp hf rfl hn
    exact ⟨hrun (sliceServe_hit hm hw hp (by rw [hf]; rfl)) hn, (onlyMem_readLine ..).undo⟩
  case miss =>
    intro hw hp hf hup hn
    exact hrun (sliceServe_miss hm hw hp hf hup) hn
  case join =>
    intro hm hp hn
    exact hrun (sliceServe_join hm hp) (by rw [bumpIf_rc]; exact hn)
  case bad =>
    rintro w l k rfl hf hl hd hn
    have he : sliceErr s a .uncorrectable = lineUe s a (homeSlice s (a.addr / 64)) (lineSet s (a.addr / 64)) w := by
      simp only [sliceErr, hf]
    have hrc : (sliceErr s a .uncorrectable).rc = { s.rc with
        lines := mdel s.rc.lines (wayKey (homeSlice s (a.addr / 64)) (lineSet s (a.addr / 64)) w),
        mshr := s.rc.mshr ++ [{ x := a.addr / 64, acc := a }] } := by
      simp only [he, lineUe_clean hl hd, openMiss, bumpIf_rc]
      rfl
    refine ⟨_, hrun rfl (by rw [hrc]; exact hn), hrc, ?_, OnlyMem.undo ?_⟩
    · simp only [he, lineUe_clean hl hd, openMiss, bumpIf_mem]
      rfl
    · rw [he, lineUe_clean hl hd]
      exact (((onlyMem_dropLine ..).trans (onlyMem_bump1 ..)).trans (onlyMem_bumpIf ..)).trans (onlyMem_openMiss ..)

/-! ### Answers to back-invalidates (R353, R403, R409) -/

/-- The state after an answer for the line `x`: the host's copy is forgotten. -/
def hostForgets (s : State) (x : Nat) : State :=
  { s with rc := { s.rc with
    biSent := s.rc.biSent.filter (fun y => y != x), snoop := s.rc.snoop.filter (fun e => e.1 != x),
    biWait := s.rc.biWait.filter (fun w => w.x != x) } }

section
variable {s : State} {x : Nat}

/-- An answer for a line that no access waits for, by its data and by what the host owned. -/
theorem backAnswer_eq (hb : s.rc.biSent.contains x = true) (hw : ∀ w ∈ s.rc.biWait, w.x ≠ x)
    (data : Option (List Byte × Bool)) : backAnswer s x data = match data with
      | some d =>
        if !s.rc.snoop.any (fun e => e.1 == x && e.2) then hostForgets s x
        else if !s.hp.aper && protectedArea s (x * 64) 64 then bump1 (hostForgets s x) ctrChipHpMemRej
        else writeLine (hostForgets s x) (x * 64) (bytesAt d.1 0 64) 0 d.2
      | none => hostForgets s x := by
  have hwait : s.rc.biWait.filter (fun w => w.x == x) = [] := by simpa [List.filter_eq_nil_iff] using hw
  simp only [backAnswer, hb, hwait, Bool.not_true, Bool.false_eq_true, if_false, List.foldl_nil]
  rfl

theorem backAnswer_kept (hb : s.rc.biSent.contains x = true) (hw : ∀ w ∈ s.rc.biWait, w.x ≠ x)
    {data : Option (List Byte × Bool)} (hd : data = none ∨ ∀ e ∈ s.rc.snoop, e.1 = x → e.2 = false) :
    backAnswer s x data = hostForgets s x := by
  rw [backAnswer_eq hb hw]
  cases data with
  | none => rfl
  | some d =>
    have ho : s.rc.snoop.any (fun e => e.1 == x && e.2) = false := by simpa using hd.resolve_left (by simp)
    simp [ho]

theorem backAnswer_owned (hb : s.rc.biSent.contains x = true) (hw : ∀ w ∈ s.rc.biWait, w.x ≠ x) (d : List Byte × Bool)
    (ho : (x, true) ∈ s.rc.snoop) : backAnswer s x (some d) =
      if !s.hp.aper && protectedArea s (x * 64) 64 then bump1 (hostForgets s x) ctrChipHpMemRej
      else writeLine (hostForgets s x) (x * 64) (bytesAt d.1 0 64) 0 d.2 := by
  have ho' : s.rc.snoop.any (fun e => e.1 == x && e.2) = true := List.any_eq_true.2 ⟨_, ho, by simp⟩
  rw [backAnswer_eq hb hw]
  simp [ho']

end

theorem backInvalidateAnswer_takesEffect (s u : State) (x : Nat) (data : Option (List Byte × Bool)) (hs : stopped s = false)
    (hn : s.rc.need = []) (hu : u = { s with rc := { s.rc with
      biSent := s.rc.biSent.filter (fun y => y != x), snoop := s.rc.snoop.filter (fun e => e.1 != x),
      biWait := s.rc.biWait.filter (fun w => w.x != x) } }) :
    (s.rc.biSent.contains x = false → exec (.backInvalidateAnswer x data) s = .next s) ∧
    (s.rc.biSent.contains x = true → (∀ w ∈ s.rc.biWait, w.x ≠ x) →
      (data = none ∨ (∀ e ∈ s.rc.snoop, e.1 = x → e.2 = false) → exec (.backInvalidateAnswer x data) s = .next u) ∧
      (∀ d p, data = some (d, p) → (x, true) ∈ s.rc.snoop →
        (s.hp.aper = false → protectedArea s (x * 64) 64 = true →
          exec (.backInvalidateAnswer x data) s = .next (bump1 u ctrChipHpMemRej)) ∧
        ((s.hp.aper = true ∨ protectedArea s (x * 64) 64 = false) →
          (writeLine u (x * 64) (bytesAt d 0 64) 0 p).rc.need = [] →
            exec (.backInvalidateAnswer x data) s = .next (writeLine u (x * 64) (bytesAt d 0 64) 0 p)))) := by
  obtain rfl : u = hostForgets s x := hu
  have hrun : ∀ {t}, backAnswer s x data = t → t.rc.need = [] → exec (.backInvalidateAnswer x data) s = .next t := fun ht hn =>
    act_eq_next (f := fun s => backAnswer s x data) hs ht hn
  refine ⟨fun hb => hrun (if_pos (by rw [hb]; rfl)) hn, fun hb hw => ⟨fun hd => hrun (backAnswer_kept hb hw hd) hn, ?_⟩⟩
  rintro d p rfl ho
  have heq := backAnswer_owned hb hw (d, p) ho
  refine ⟨fun haper hprot => ?_, fun hopen hneed => ?_⟩
  · rw [if_pos (by simp [haper, hprot])] at heq
    exact hrun heq hn
  · rw [if_neg (by rcases hopen with h | h <;> simp [h])] at heq
    exact hrun heq hneed

/-! ### Sectors that come back from tier F (R318, R325, R326) -/

/-- Beside events, counters, marks and a freeze, at most the memory controllers differ. -/
structure CtlOnly (s t : State) : Prop where
  rest : OnlyMem { s with mc := t.mc } t
  rc : t.rc = s.rc
  cells : t.mem.cells = s.mem.cells

/-- An access to the tiers is the same beside other memory controllers. -/
theorem OnlyMem.withMc {s t : State} (h : OnlyMem s t) (m : MemCtl) : OnlyMem { s with mc := m } { t with mc := m } :=
  { h with mc := rfl }

namespace CtlOnly

variable {s t u : State}

theorem of_onlyMem (h : OnlyMem s t) (hr : t.rc = s.rc) (hm : t.mem.cells = s.mem.cells) : CtlOnly s t :=
  ⟨by rw [h.mc]; exact h, hr, hm⟩

theorem refl (s : State) : CtlOnly s s := .of_onlyMem (.refl s) rfl rfl

theorem trans (h : CtlOnly s t) (k : CtlOnly t u) : CtlOnly s u :=
  ⟨(h.rest.withMc u.mc).trans k.rest, k.rc.trans h.rc, k.cells.trans h.cells⟩

theorem undo (h : CtlOnly s t) : { memUndo s t with mc := s.mc } = s :=
  (h.rest.withMc s.mc).undo (s := s) (t := { t with mc := s.mc })

end CtlOnly

theorem ctlOnly_mc (s : State) (m : MemCtl) : CtlOnly s { s with mc := m } := ⟨.refl _, rfl, rfl⟩

theorem ctlOnly_bump1 (s : State) (k : Nat) : CtlOnly s (bump1 s k) := .of_onlyMem (onlyMem_bump1 s k) rfl rfl

theorem ctlOnly_raiseEvent (s : State) (c u : Nat) (ea eb : W64) : CtlOnly s (raiseEvent s c u ea eb) :=
  .of_onlyMem (onlyMem_raiseEvent ..) (raiseEvent_rc ..) (by rw [raiseEvent_mem])

theorem ctlOnly_freezeUe (s : State) (n : Nat) (c : BitVec 8) : CtlOnly s (freezeUe s n c) :=
  .of_onlyMem (onlyMem_freezeUe ..) (freezeUe_rc ..) (by rw [freezeUe_mem])

theorem ctlOnly_dReadSecs (s : State) (a n : Nat) : CtlOnly s (dReadSecs s a n).1 :=
  .of_onlyMem (onlyMem_dReadSecs ..) (dReadSecs_rc ..) (by rw [dReadSecs_mem])

theorem raiseEvent_mc (s : State) (c u : Nat) (ea eb : W64) : (raiseEvent s c u ea eb).mc = s.mc := (onlyMem_raiseEvent ..).mc

/-- A candidate that stays in place is noted or not, and nothing else of the controllers changes. -/
theorem candLeft_eq (s : State) (r : Nat × Nat × Nat) : CtlOnly s (candLeft s r) ∧ (candLeft s r).mem = s.mem ∧
    ∃ l, (candLeft s r).mc = { s.mc with noResource := l } ∧ (softFree s r = false → r ∈ l) := by
  unfold candLeft
  split
  next h =>
    refine ⟨.refl s, rfl, s.mc.noResource, rfl, fun hf => ?_⟩
    simpa [hf] using h
  next h =>
    refine ⟨(ctlOnly_mc ..).trans (ctlOnly_raiseEvent ..), by rw [raiseEvent_mem], _, raiseEvent_mc .., fun _ => ?_⟩
    exact List.mem_append_right _ (List.mem_singleton_self r)

/-- A row is a candidate from the report on. -/
theorem candidate_eq (s : State) (r : Nat × Nat × Nat) : CtlOnly s (candidate s r) ∧ (candidate s r).mem = s.mem ∧
    (candidate s r).mc.stk = s.mc.stk ∧ r ∈ (candidate s r).mc.cands := by
  unfold candidate
  split
  next h => exact ⟨.refl s, rfl, rfl, by simpa using h⟩
  next h =>
    generalize hv : raiseEvent { s with mc := { s.mc with cands := s.mc.cands ++ [r] } } 0x23 (r.1 / 64) (repairEa r) 0 = v
    have hc : CtlOnly s v := hv ▸ (ctlOnly_mc ..).trans (ctlOnly_raiseEvent ..)
    have hmem : v.mem = s.mem := by rw [← hv, raiseEvent_mem]
    have hmc : v.mc = { s.mc with cands := s.mc.cands ++ [r] } := by rw [← hv, raiseEvent_mc]
    obtain ⟨h1, h2, l, h3, -⟩ := candLeft_eq v r
    refine ⟨hc.trans h1, h2.trans hmem, by rw [h3, hmc], ?_⟩
    rw [h3, hmc]
    exact List.mem_append_right _ (List.mem_singleton_self r)

/-- A corrected event leaves every stack where its patrol is. -/
theorem trackCe_eq (s : State) (r : Nat × Nat × Nat) : CtlOnly s (trackCe s r) ∧
    ∀ k, (stackOf (trackCe s r) k).patrolAt = (stackOf s k).patrolAt := by
  have hstk : ∀ (m : FMap Nat) k, (stackOf { s with mc := { s.mc with
      stk := mset s.mc.stk (r.1 / 64) { stackOf s (r.1 / 64) with tracker := m } } } k).patrolAt = (stackOf s k).patrolAt := by
    intro m k
    by_cases hk : k = r.1 / 64
    · rw [hk, stackOf_mset_self rfl]
    · rw [stackOf, mget_mset_ne _ _ _ _ _ hk]; rfl
  unfold trackCe
  dsimp only
  split
  · obtain ⟨h1, -, h3, -⟩ := candidate_eq _ r
    exact ⟨(ctlOnly_mc ..).trans h1, fun k => by rw [stackOf, h3]; exact hstk _ k⟩
  · exact ⟨ctlOnly_mc .., hstk _⟩

theorem markUe_eq (s : State) (sec : Nat) : CtlOnly s (markUe s sec) ∧ (markUe s sec).mc = s.mc ∧
    secBad (markUe s sec).mem sec = true := by
  unfold markUe
  split
  next h => exact ⟨.refl s, rfl, by simp [secBad, h]⟩
  next h => exact ⟨.of_onlyMem (onlyMem_mem s _) rfl rfl, rfl, by simp [secBad, mem_sins_self]⟩

/-- What a sector turns out to hold changes no byte, and leaves every stack where its patrol is. -/
theorem dramOutcome_eq (s : State) (a : Nat) (o : DramOutcome) : CtlOnly s (dramOutcome s a o) ∧
    ∀ k, (stackOf (dramOutcome s a o) k).patrolAt = (stackOf s k).patrolAt := by
  cases o with
  | clean => exact ⟨.refl s, fun _ => rfl⟩
  | poisoned => exact ⟨.refl s, fun _ => rfl⟩
  | onDie => exact ⟨ctlOnly_bump1 .., fun _ => rfl⟩
  | corrected =>
    obtain ⟨h1, h2⟩ := trackCe_eq (bump1 (bump1 s (ctrPchFCe (pchOf s a))) (ctrPchFCeWb (pchOf s a))) (dramRowOf s a)
    exact ⟨((ctlOnly_bump1 ..).trans (ctlOnly_bump1 ..)).trans h1, h2⟩
  | uncorrectable =>
    obtain ⟨h1, h2, -⟩ := markUe_eq s (a / 32)
    obtain ⟨h3, -, h4, -⟩ := candidate_eq (markUe s (a / 32)) (dramRowOf s a)
    exact ⟨h1.trans h3, fun k => by simp only [stackOf, dramOutcome, h4, h2]⟩

theorem dramOutcome_uncorrectable (s : State) (a : Nat) : secBad (dramOutcome s a .uncorrectable).mem (a / 32) = true ∧
    dramRowOf s a ∈ (dramOutcome s a .uncorrectable).mc.cands := by
  obtain ⟨-, hmem, -, hc⟩ := candidate_eq (markUe s (a / 32)) (dramRowOf s a)
  exact ⟨(congrArg (secBad · (a / 32)) hmem).trans (markUe_eq s (a / 32)).2.2, hc⟩

theorem dramOutcome_quiet {o : DramOutcome} (h : o = .clean ∨ o = .poisoned ∨ o = .onDie) (s : State) (a : Nat) :
    (dramOutcome s a o).mc = s.mc ∧ (dramOutcome s a o).mem = s.mem := by
  rcases h with rfl | rfl | rfl
  · exact ⟨rfl, rfl⟩
  · exact ⟨rfl, rfl⟩
  · exact ⟨rfl, rfl⟩

/-- A sector of a live stack comes back: it counts as what it is read as, and may bring the fill of its line. -/
theorem dramReturn_eq {s u : State} {addr : Nat} {o : DramOutcome} (hin : inTierF addr 1 = true) (hup : stackUp s addr = true)
    (hself : s.mc.selfRef = false) (hu : (dReadSecs (dramOutcome s addr o) (addr / 32 * 32) 1).1 = u) :
    dramReturn s addr o =
      if missOpen u (addr / 64) && !u.rc.mret.contains (addr / 32) then
        if missBack { u with rc := { u.rc with mret := u.rc.mret ++ [addr / 32] } } (addr / 64) then
          takeFill { u with rc := { u.rc with mret := u.rc.mret ++ [addr / 32] } } (addr / 64)
        else { u with rc := { u.rc with mret := u.rc.mret ++ [addr / 32] } }
      else u := by
  simp only [dramReturn, hin, hup, hself, hu, Bool.not_true, Bool.or_self, Bool.false_eq_true, if_false]

theorem dramReadReturn_takesEffect (s u : State) (addr : Nat) (o : DramOutcome) (hs : stopped s = false) (hn : s.rc.need = [])
    (hin : inTierF addr 1 = true) (hup : stackUp s addr = true) (hself : s.mc.selfRef = false)
    (hu : u = (dReadSecs (dramOutcome s addr o) (addr / 32 * 32) 1).1) :
    (missOpen s (addr / 64) = false ∨ s.rc.mret.contains (addr / 32) = true →
      exec (.dramReadReturn addr o) s = .next u ∧ u.mem.cells = s.mem.cells ∧ { memUndo s u with mc := s.mc } = s ∧
        (o = .uncorrectable → secBad u.mem (addr / 32) = true ∧ dramRowOf s addr ∈ u.mc.cands) ∧
        (o = .clean ∨ o = .poisoned ∨ o = .onDie → u.mc = s.mc ∧ u.mem = s.mem)) ∧
    (∀ v, missOpen s (addr / 64) = true → s.rc.mret.contains (addr / 32) = false →
      v = { u with rc := { u.rc with mret := u.rc.mret ++ [addr / 32] } } →
      (missBack v (addr / 64) = false → exec (.dramReadReturn addr o) s = .next v) ∧
      (missBack v (addr / 64) = true → (takeFill v (addr / 64)).rc.need = [] →
        exec (.dramReadReturn addr o) s = .next (takeFill v (addr / 64)))) := by
  have heq := dramReturn_eq hin hup hself hu.symm
  have hrun : ∀ {t}, dramReturn s addr o = t → t.rc.need = [] → exec (.dramReadReturn addr o) s = .next t := fun ht hn =>
    act_eq_next (f := fun s => dramReturn s addr o) hs ht hn
  have hctl : CtlOnly s u := hu ▸ (dramOutcome_eq s addr o).1.trans (ctlOnly_dReadSecs ..)
  have hmc : u.mc = (dramOutcome s addr o).mc := hu ▸ (onlyMem_dReadSecs ..).mc
  have hmem : u.mem = (dramOutcome s addr o).mem := hu ▸ dReadSecs_mem ..
  have hneed : u.rc.need = [] := by rw [hctl.rc, hn]
  have hmiss : missOpen u (addr / 64) = missOpen s (addr / 64) := by rw [missOpen, missOpen, hctl.rc]
  have hret : u.rc.mret = s.rc.mret := by rw [hctl.rc]
  clear hu
  refine ⟨fun h => ?_, fun v hm hr hv => ?_⟩
  · have hno : ¬ (missOpen u (addr / 64) && !u.rc.mret.contains (addr / 32)) = true := by
      rw [hmiss, hret]
      rcases h with h | h <;> rw [h]
      · simp
      · simp
    rw [if_neg hno] at heq
    refine ⟨hrun heq hneed, hctl.cells, hctl.undo, ?_, fun ho => ?_⟩
    · rintro rfl
      rw [hmc, hmem]
      exact dramOutcome_uncorrectable s addr
    · rw [hmc, hmem]
      exact dramOutcome_quiet ho s addr
  · rw [if_pos (by rw [hmiss, hret, hm, hr]; rfl), ← hv] at heq
    refine ⟨fun hb => ?_, fun hb hn => ?_⟩
    · rw [if_neg (by simp [hb])] at heq
      exact hrun heq (by rw [hv]; exact hneed)
    · rw [if_pos hb] at heq
      exact hrun heq hn

/-! ### Row remapping (R325, R326) -/

theorem mem_foldl_sins {l m : List Nat} {x : Nat} (h : x ∈ l ∨ x ∈ m) : x ∈ l.foldl sins m := by
  induction l generalizing m with
  | nil => exact h.resolve_left List.not_mem_nil
  | cons n l ih =>
    refine ih ?_
    rw [sins_mem]
    rcases h with h | h
    · exact (List.mem_cons.1 h).symm.imp_right .inl
    · exact .inr (.inr h)

/-- The state in which a soft repair of the row stands, its lost sectors marked. -/
def rowMoved (s : State) (k : Nat) (r : Nat × Nat × Nat) : State :=
  { s with
    mem := { s.mem with
      ueF := s.mem.ueF.filter (fun x => !(rowUe s r).contains x), poisF := (rowUe s r).foldl sins s.mem.poisF },
    mc := { s.mc with
      cands := s.mc.cands.filter (fun c => c != r), stk := mset s.mc.stk k (softUse (stackOf s k) r),
      repairLog := s.mc.repairLog ++ [{ stack := k, pch := r.1 % 64, bank := r.2.1, row := r.2.2, hard := false }] } }

theorem ctlOnly_rowMoved (s : State) (k : Nat) (r : Nat × Nat × Nat) : CtlOnly s (rowMoved s k r) :=
  ⟨onlyMem_mem { s with mc := (rowMoved s k r).mc } (rowMoved s k r).mem, rfl, rfl⟩

/-- A remap that finds a resource counts and reports the repair. -/
theorem remapRow_moves {s : State} {r : Nat × Nat × Nat} (hc : s.mc.cands.contains r = true) (hf : softFree s r = true)
    (k mclk : Nat) : remapRow s k r mclk =
      raiseEvent (bump (bump1 (rowMoved s k r) (ctrPchRowRemap r.1)) (ctrPchRemapWait r.1) mclk) 0x23 k (repairEa r) 1 := by
  simp only [remapRow, hc, hf, Bool.not_true, Bool.false_eq_true, if_false]
  rfl

theorem remapRow_eq {s : State} {r : Nat × Nat × Nat} (hc : s.mc.cands.contains r = true) (hf : softFree s r = true)
    (k mclk : Nat) : CtlOnly s (remapRow s k r mclk) ∧ (remapRow s k r mclk).mem = (rowMoved s k r).mem ∧
      (remapRow s k r mclk).mc = (rowMoved s k r).mc := by
  rw [remapRow_moves hc hf]
  have hm := ctlOnly_rowMoved s k r
  generalize rowMoved s k r = u at *
  refine ⟨hm.trans (CtlOnly.trans ?_ (ctlOnly_raiseEvent ..)), ?_, ?_⟩
  · exact (ctlOnly_bump1 ..).trans (.of_onlyMem (onlyMem_bump ..) rfl rfl)
  · rw [raiseEvent_mem]; rfl
  · rw [raiseEvent_mc]; rfl

theorem dramRowOf_eq_of_stripes {s t : State} (h : t.mc.stripes = s.mc.stripes) (a : Nat) : dramRowOf t a = dramRowOf s a := by
  have hd : decodeF t a = decodeF s a := by rw [decodeF_eq_bandOf, decodeF_eq_bandOf, stripeOf, stripeOf, h]
  simp only [dramRowOf, chanAddr, pchOf, hd]

theorem rowRemap_takesEffect (s : State) (k : Fin 6) (p : Fin 64) (b : BitVec 6) (w : BitVec 20) (n : Fin 12801)
    (r : Nat × Nat × Nat) (hs : stopped s = false) (hn : s.rc.need = [])
    (hr : r = (64 * k.val + p.val, b.toNat, w.toNat)) :
    (s.mc.cands.contains r = false → exec (.rowRemap k p b w n) s = .next s) ∧
    (s.mc.cands.contains r = true → softFree s r = true →
      ∃ t, exec (.rowRemap k p b w n) s = .next t ∧ r ∉ t.mc.cands ∧
        t.mc.repairLog = s.mc.repairLog ++ [{ stack := k, pch := p, bank := b.toNat, row := w.toNat, hard := false }] ∧
        rowUe t r = [] ∧ (∀ x ∈ rowUe s r, secPoison t.mem x = true) ∧ t.mem.cells = s.mem.cells ∧
        { memUndo s t with mc := s.mc } = s) ∧
    (s.mc.cands.contains r = true → softFree s r = false →
      ∃ t, exec (.rowRemap k p b w n) s = .next t ∧ t.mc.cands = s.mc.cands ∧ t.mem = s.mem ∧ r ∈ t.mc.noResource ∧
        t.mc.repairLog = s.mc.repairLog ∧ { memUndo s t with mc := s.mc } = s) := by
  have hrun : ∀ {t}, remapRow s k r n = t → t.rc.need = [] → exec (.rowRemap k p b w n) s = .next t := fun ht hn =>
    act_eq_next (f := fun s => remapRow s k (64 * k.val + p.val, b.toNat, w.toNat) n) hs (hr ▸ ht) hn
  refine ⟨fun hc => ?stranger, fun hc hf => ?remapped, fun hc hf => ?left⟩
  case stranger => exact hrun (by simp only [remapRow, hc, Bool.not_false, if_true]) hn
  case remapped =>
    obtain ⟨hctl, hmem, hmc⟩ := remapRow_eq hc hf k n
    have hrow := dramRowOf_eq_of_stripes (s := s) (t := remapRow s k r n) (by rw [hmc]; rfl)
    refine ⟨_, hrun rfl (by rw [hctl.rc, hn]), ?_, ?_, ?_, fun x hx => ?_, hctl.cells, hctl.undo⟩
    · simp [hmc, rowMoved]
    · have hp : r.1 % 64 = p := by rw [hr]; omega
      rw [hmc, rowMoved, hp, hr]
    · rw [rowUe, hmem]
      simp only [hrow, rowMoved]
      rw [List.filter_filter, List.filter_eq_nil_iff]
      intro x hx
      simp [rowUe, hx]
    · have hm : x ∈ (rowMoved s k r).mem.poisF := mem_foldl_sins (.inl hx)
      rw [hmem, secPoison, List.contains_iff_mem.2 hm, Bool.true_or]
  case left =>
    obtain ⟨hctl, hmem, l, hmc, hl⟩ := candLeft_eq s r
    have he : remapRow s k r n = candLeft s r := by
      simp only [remapRow, hc, hf, Bool.not_true, Bool.not_false, Bool.false_eq_true, if_false, if_true]
    refine ⟨_, hrun he (by rw [hctl.rc, hn]), ?_, hmem, ?_, ?_, hctl.undo⟩
    · rw [hmc]
    · rw [hmc]; exact hl hf
    · rw [hmc]

/-! ### Patrol and refresh (R320, R329) -/

/-- A patrol read counts what it finds at the address `a` of pseudo-channel `p` (R318, R320). -/
def patrolFinds (s : State) (p a : Nat) (o : DramOutcome) : State :=
  if secPoison s.mem (a / 32) then bump1 s (ctrPchFPoisonRd p)
  else if s.mem.ueF.contains (a / 32) then freezeUe (bump1 (bump1 s (ctrPchFUe p)) (ctrPchFScrubUe p)) 1 3
  else match o with
    | .corrected => dramOutcome (bump1 s (ctrPchFScrubCe p)) a o
    | .uncorrectable => dramOutcome (freezeUe (bump1 (bump1 s (ctrPchFUe p)) (ctrPchFScrubUe p)) 1 3) a o
    | _ => dramOutcome s a o

/-- Patrol of the stack goes on to its next sector. -/
def patrolled (s : State) (k : Nat) : State :=
  { s with mc := { s.mc with stk := mset s.mc.stk k { stackOf s k with
    patrolAt := ((stackOf s k).patrolAt + 1) % (64 * pchSectors) } } }

theorem patrol_runs {s : State} {k : Nat} (hp : s.mc.patrol = true) (hin : (stackOf s k).inService = true)
    (hl : dramLive s = true) (o : DramOutcome) : ∃ p a, patrol s k o = patrolFinds (patrolled s k) p a o := by
  unfold patrol
  dsimp only
  rw [if_neg (by rw [hp, hin, hl]; decide)]
  exact ⟨_, _, rfl⟩

theorem patrolFinds_eq (s : State) (p a : Nat) (o : DramOutcome) : CtlOnly s (patrolFinds s p a o) ∧
    ∀ k, (stackOf (patrolFinds s p a o) k).patrolAt = (stackOf s k).patrolAt := by
  have hue : CtlOnly s (freezeUe (bump1 (bump1 s (ctrPchFUe p)) (ctrPchFScrubUe p)) 1 3) :=
    ((ctlOnly_bump1 ..).trans (ctlOnly_bump1 ..)).trans (ctlOnly_freezeUe ..)
  have hmc : (freezeUe (bump1 (bump1 s (ctrPchFUe p)) (ctrPchFScrubUe p)) 1 3).mc = s.mc := freezeUe_mc ..
  have hstk : ∀ {u : State}, u.mc = s.mc → ∀ k, stackOf u k = stackOf s k := fun h k => by rw [stackOf, h, stackOf]
  unfold patrolFinds
  split
  · exact ⟨ctlOnly_bump1 .., fun _ => rfl⟩
  · split
    · exact ⟨hue, fun k => by rw [hstk hmc]⟩
    · split
      · obtain ⟨h1, h2⟩ := dramOutcome_eq (bump1 s (ctrPchFScrubCe p)) a .corrected
        exact ⟨(ctlOnly_bump1 ..).trans h1, h2⟩
      · obtain ⟨h1, h2⟩ := dramOutcome_eq (freezeUe (bump1 (bump1 s (ctrPchFUe p)) (ctrPchFScrubUe p)) 1 3) a .uncorrectable
        exact ⟨hue.trans h1, fun k => by rw [h2, hstk hmc]⟩
      · exact dramOutcome_eq s a o

/-- Patrol of a live stack advances, and counts as any read does. -/
theorem patrol_eq {s : State} {k : Nat} (hp : s.mc.patrol = true) (hin : (stackOf s k).inService = true)
    (hl : dramLive s = true) (o : DramOutcome) : CtlOnly s (patrol s k o) ∧
      (stackOf (patrol s k o) k).patrolAt = ((stackOf s k).patrolAt + 1) % (64 * pchSectors) := by
  obtain ⟨p, a, h⟩ := patrol_runs hp hin hl o
  obtain ⟨h1, h2⟩ := patrolFinds_eq (patrolled s k) p a o
  have hat : stackOf (patrolled s k) k = { stackOf s k with
      patrolAt := ((stackOf s k).patrolAt + 1) % (64 * pchSectors) } := stackOf_mset_self rfl
  exact ⟨h ▸ (ctlOnly_mc ..).trans h1, by rw [h, h2, hat]⟩

theorem patrolRead_takesEffect (s : State) (k : Fin 6) (o : DramOutcome) (hs : stopped s = false) (hn : s.rc.need = [])
    (hp : s.mc.patrol = true) (hin : (stackOf s k).inService = true) (hl : dramLive s = true) :
    ∃ t, exec (.patrolRead k o) s = .next t ∧
      (stackOf t k).patrolAt = ((stackOf s k).patrolAt + 1) % (64 * pchSectors) ∧ t.mem.cells = s.mem.cells ∧
      t.rc = s.rc ∧ { memUndo s t with mc := s.mc } = s := by
  obtain ⟨hctl, hat⟩ := patrol_eq hp hin hl o
  exact ⟨_, act_eq_next (f := fun s => patrol s k o) hs rfl (by rw [hctl.rc, hn]), hat, hctl.cells, hctl.rc, hctl.undo⟩

theorem refresh_takesEffect (s : State) (k : Fin 6) (hs : stopped s = false) (hn : s.rc.need = [])
    (hin : (stackOf s k).inService = true) (hl : dramLive s = true) :
    exec (.refresh k) s = .next { s with mc := { s.mc with stk := mset s.mc.stk k { stackOf s k with
      refreshes := (stackOf s k).refreshes + 1 } } } :=
  act_eq_next (f := _) hs (if_pos (by rw [hin, hl]; rfl)) hn

/-- Settles O26, event by event. -/
theorem memoryEventsTakeEffect : Obligations.MemoryEventsTakeEffect :=
  ⟨homeSliceAccess_takesEffect, backInvalidateAnswer_takesEffect, dramReadReturn_takesEffect, rowRemap_takesEffect,
    patrolRead_takesEffect, refresh_takesEffect⟩

end Sys2Proof.Machine
end

section
/-! PROOFS. What every reader sees stays through a read of a line without an open miss (R333, R334, R339 to R343). -/

namespace Sys2Proof.Machine

section
variable {s : State} (h : InOrder s)
include h

theorem keepsLines_dReadSecs (a n : Nat) : KeepsLines s (dReadSecs s a n).1 :=
  keepsLines_of_eq h (.of_rc (onlyMem_dReadSecs s a n) (dReadSecs_rc s a n)) (by rw [dReadSecs_rc]) (dReadSecs_mem s a n)

/-- A line that is not DIRTY leaves its way. -/
theorem keepsLines_dropLine {k : Nat} {l : CLine} (hk : mget? s.rc.lines k = some l) (hd : l.dirty = false) :
    KeepsLines s (dropLine s k) :=
  keepsLines_of_drop h (samePlaces_dropLine s k) h.mem rfl hk ((h.line hk).clean hd).symm fun _ _ => rfl

/-- A line that was not cached takes a free way. -/
theorem putsLine_setLine_free {k : Nat} {l : CLine} (hfree : mget? s.rc.lines k = none) (hx : Uncached s l.x)
    (hl : LineOk s k l) : PutsLine s (setLine s k l) l.x l.data :=
  have hs := samePlaces_setLine s k l
  putsLine_of_set h hs h.mem rfl (hl.of_same hs rfl) (fun l' hl' => by simp [hfree] at hl')
    (fun k' l' hl' hx' => absurd hx' (hx k' l' hl')) fun _ _ => rfl

/-- Allocation of a line with the bytes that the memory holds (R334, R339, R340, R342). -/
theorem keepsLines_allocLine {x : Nat} (hup : memUp s (x * 64) = true) (hp : passThrough s x = false) (hx : Uncached s x)
    (hint : BitVec 2) :
    KeepsLines s (allocLine s (homeSlice s x) (lineSet s x) x hint false false (memLine s x)) := by
  cases hv : victim s (homeSlice s x) (lineSet s x) with
  | none =>
    rw [allocLine, hv]
    exact keepsLines_refl h
  | some w =>
    obtain ⟨b, keep, ha⟩ := allocLine_some hv x hint false false (memLine s x)
    set key := wayKey (homeSlice s x) (lineSet s x) w
    rw [ha]
    generalize hu : bumpIf (evicted s key) b (ctrSliceKeepOver (homeSlice s x)) = u
    have hk : KeepsLines s u := hu ▸ (keepsLines_evicted h key).trans (keepsLines_bumpIf (keepsLines_evicted h key).ok _ _)
    have hlines : u.rc.lines = mdel s.rc.lines key := by rw [← hu, bumpIf_rc, evicted_lines]
    have hxu : Uncached u x := fun k' l' hk' => hx k' l' (mget?_of_mdel h.rising (hlines ▸ hk')).2
    have hmem : memLine s x = memLine u x := by rw [← seenLine_of_uncached hxu, hk.seen, seenLine_of_uncached hx]
    have hline : LineOk u key { x := x, dirty := false, keep := keep, poison := false, touched := keep, data := memLine s x } := by
      refine ⟨length_memLine s x, rfl, ?_, ?_, fun _ => hmem, w, victim_lt hv, ?_⟩
      · rw [hk.same.passThrough]; exact hp
      · rw [hk.same.memUp]; exact hup
      · rw [hk.same.homeSlice, hk.same.lineSet]
    have hput := hk.puts (putsLine_setLine_free hk.ok (by rw [hlines, mget?_mdel_self h.rising]) hxu hline)
    have hset := hput.keepsLines (seenLine_of_uncached hx).symm
    dsimp only
    split
    · exact hset
    · exact hset.trans (keepsLines_touchWay hset.ok _ _ _)

/-- A read that hits: the hint's effect on the line, which STREAM_ONCE drops where it is neither DIRTY nor KEEP (R340 to
R343). -/
theorem keepsLines_readHit {sl st w : Nat} {l : CLine} (hk : mget? s.rc.lines (wayKey sl st w) = some l) (hint : BitVec 2) :
    KeepsLines s (if hint = 3 then (if l.dirty || l.keep then s else dropLine s (wayKey sl st w))
      else hitHint s sl st w l hint) := by
  split
  · split
    · exact keepsLines_refl h
    next hd => exact keepsLines_dropLine h hk (by simp_all)
  · exact keepsLines_hitHint h hk hint

omit h in
/-- Memory that does not answer reads as poisoned (R304, R316). -/
theorem memUp_of_dReadSecs {x : Nat} (hbad : (dReadSecs s (x * 64) 2).2.2.any id = false) : memUp s (x * 64) = true := by
  cases hup : memUp s (x * 64) with
  | true => rfl
  | false => simp [dReadSecs, hup] at hbad

/-- A read that misses: the line comes from memory, and is allocated or not (R334, R340). -/
theorem keepsLines_readMiss {x : Nat} (hp : passThrough s x = false) (hx : Uncached s x)
    (hbad : (dReadSecs s (x * 64) 2).2.2.any id = false) (hint : BitVec 2) (c : Bool) :
    KeepsLines s (if c then allocLine (dReadSecs s (x * 64) 2).1 (homeSlice s x) (lineSet s x) x hint false false
      (dReadSecs s (x * 64) 2).2.1 else (dReadSecs s (x * 64) 2).1) := by
  have hup := memUp_of_dReadSecs hbad
  have hr := keepsLines_dReadSecs h (x * 64) 2
  have hdata : (dReadSecs s (x * 64) 2).2.1 = memLine (dReadSecs s (x * 64) 2).1 x := by
    rw [dReadSecs_line hbad, memLine, memLine, dReadSecs_mem]
  rw [hdata, ← hr.same.homeSlice, ← hr.same.lineSet]
  have hxr : Uncached (dReadSecs s (x * 64) 2).1 x := by
    intro k l hk
    rw [dReadSecs_rc] at hk
    exact hx k l hk
  split
  · exact hr.trans (keepsLines_allocLine hr.ok (by rw [hr.same.memUp, hup]) (by rw [hr.same.passThrough, hp]) hxr hint)
  · exact hr

/-- A read without poison of a line that has no open miss. -/
theorem keepsLines_readLine {x : Nat} {hint : BitVec 2} (hmiss : missOpen s x = false)
    (hbad : (readLine s x hint).2.2 = false) : KeepsLines s (readLine s x hint).1 := by
  have hg := keepsLines_snoopGate h x false
  have hmiss' : missOpen (snoopGate s x false) x = false := by rw [hg.same.missOpen, hmiss]
  refine hg.trans ?_
  simp only [readLine, hmiss', Bool.false_eq_true, if_false] at hbad ⊢
  generalize snoopGate s x false = u at *
  have hu := hg.ok
  split at hbad
  next hpass =>
    rw [if_pos hpass]
    exact keepsLines_dReadSecs hu _ _
  next hpass =>
    rw [if_neg hpass]
    cases hf : findWay u (homeSlice u x) (lineSet u x) x with
    | some w =>
      obtain ⟨-, l, hk, -⟩ := findWay_some hf
      have hb := keepsLines_bump1 hu (ctrSliceRcHit (homeSlice u x))
      simp only [mget, hk, Option.getD_some]
      exact hb.trans (keepsLines_readHit hb.ok hk hint)
    | none =>
      have hb := keepsLines_bump1 hu (ctrSliceRcMiss (homeSlice u x))
      simp only [hf] at hbad
      simp only [hbad]
      exact hb.trans (keepsLines_readMiss hb.ok (by simpa [hb.same.passThrough] using hpass) (uncached_of_findWay hu hf) hbad hint _)

end

/-- Settles O54: each way through the read leaves what is seen of every line, and the row cache in order. -/
theorem rowCacheReadsKeepTheView : Obligations.RowCacheReadsKeepTheView := by
  intro s x hint hok hmiss hbad
  have hin := (cacheOk_iff_inOrder s).1 hok
  have hk := keepsLines_readLine hin hmiss hbad
  refine ⟨?data, fun y => ?view, (cacheOk_iff_inOrder _).2 hk.ok, hk.same.rest.undo⟩
  case data => rw [peekLine_of_no_miss hmiss, readLine_data hin hmiss hbad]
  case view => rw [peekLine_eq, peekLine_eq, hk.same.mshr, hk.seen]

end Sys2Proof.Machine
end

section
/-! PROOFS. Cache maintenance: CACHE_MAINT, CACHE_DISABLE with the end of its walk, and CACHE_ENABLE (R346 to R348, R351,
R355). -/

namespace Sys2Proof.Machine

/-! ### One operation on one line (R346) -/

/-- What CACHE_MAINT with operation `op` leaves of a cached line that its test `p` names or not: CLEAN (0) leaves it clean,
INVALIDATE and CLEAN_INVALIDATE leave nothing of it. -/
def maintained (op : Nat) (p : Nat → CLine → Bool) (k : Nat) (l : CLine) : Option CLine :=
  if p k l then (if op = 0 then some { l with dirty := false } else none) else some l

/-- The step of CACHE_MAINT at one entry of the row cache. -/
def maintStep (op : Nat) (p : Nat → CLine → Bool) (s : State) (e : Nat × CLine) : State :=
  if p e.1 e.2 then maintLine op s e.1 e.2 else s

theorem maintLine_rc (op : Nat) (s : State) (k : Nat) (l : CLine) : (maintLine op s k l).rc = { s.rc with
    lines := if op = 0 then (if l.dirty then mset s.rc.lines k { l with dirty := false } else s.rc.lines)
      else mdel s.rc.lines k } := by
  have hback : (if l.dirty && op != 1 then writeBack s l else s).rc = s.rc := by
    split
    · exact dWrite_rc ..
    · rfl
  unfold maintLine
  dsimp only
  split
  · split
    · rw [setLine, hback]
    · exact hback
  · rw [dropLine, bumpIf_rc, hback]

theorem maintLine_mem_of_invalidate (s : State) (k : Nat) (l : CLine) : (maintLine 1 s k l).mem = s.mem := by
  simp [maintLine, dropLine]

theorem onlyMem_maintLine (op : Nat) (s : State) (k : Nat) (l : CLine) : OnlyMem s (maintLine op s k l) := by
  have hback : OnlyMem s (if l.dirty && op != 1 then writeBack s l else s) := by
    split
    · exact onlyMem_writeBack ..
    · exact .refl s
  unfold maintLine
  dsimp only
  split
  · split
    · exact hback.trans (onlyMem_setLine ..)
    · exact hback
  · exact (hback.trans (onlyMem_bumpIf ..)).trans (onlyMem_dropLine ..)

section
variable (op : Nat) (p : Nat → CLine → Bool)

theorem onlyMem_maintStep (s : State) (e : Nat × CLine) : OnlyMem s (maintStep op p s e) := by
  unfold maintStep
  split
  · exact onlyMem_maintLine ..
  · exact .refl s

theorem maintStep_need (s : State) (e : Nat × CLine) : (maintStep op p s e).rc.need = s.rc.need := by
  unfold maintStep
  split
  · rw [maintLine_rc]
  · rfl

theorem maintStep_mem_of_invalidate (s : State) (e : Nat × CLine) : (maintStep 1 p s e).mem = s.mem := by
  unfold maintStep
  split
  · exact maintLine_mem_of_invalidate ..
  · rfl

variable {s : State} (h : Rising s)
include h

theorem Rising.maintStep (e : Nat × CLine) : Rising (maintStep op p s e) := by
  unfold Machine.maintStep
  split
  · unfold Rising
    rw [maintLine_rc]
    dsimp only
    split
    · split
      · exact mwf_mset _ _ _ h
      · exact h
    · exact mwf_mdel h _
  · exact h

theorem mget?_maintStep {e : Nat × CLine} (he : mget? s.rc.lines e.1 = some e.2) (k : Nat) :
    mget? (maintStep op p s e).rc.lines k = if k = e.1 then maintained op p e.1 e.2 else mget? s.rc.lines k := by
  unfold maintStep maintained
  by_cases hp : p e.1 e.2 = true
  · rw [if_pos hp, if_pos hp, maintLine_rc]
    dsimp only
    by_cases hk : k = e.1
    · rw [if_pos hk, hk]
      split
      · split
        · exact mget?_mset_self ..
        next hd =>
          have hclean : e.2.dirty = false := by simpa using hd
          rw [he, ← hclean]
      · exact mget?_mdel_self h _
    · rw [if_neg hk]
      split
      · split
        · exact mget?_mset_ne _ _ _ _ hk
        · rfl
      · exact mget?_mdel_ne _ hk
  · rw [if_neg hp, if_neg hp]
    split
    next hk => rw [hk, he]
    next => rfl

/-- The walk over entries of the row cache does to each of them what the operation says, and to no other. -/
theorem mget?_foldl_maintStep {l : FMap CLine} (hl : mwf l = true) (hs : ∀ e ∈ l, mget? s.rc.lines e.1 = some e.2) (k : Nat) :
    mget? (l.foldl (maintStep op p) s).rc.lines k =
      match mget? l k with
      | some v => maintained op p k v
      | none => mget? s.rc.lines k := by
  induction l generalizing s with
  | nil => rfl
  | cons e l ih =>
    obtain ⟨hlt, hwf⟩ := mwf_cons_iff.1 hl
    have hstep := mget?_maintStep op p h (hs e (List.mem_cons_self ..))
    rw [List.foldl_cons, ih (h.maintStep op p e) hwf fun f hf => by
      rw [hstep, if_neg (Nat.ne_of_gt (hlt f hf)), hs f (List.mem_cons_of_mem _ hf)], hstep, mget?]
    by_cases hk : k = e.1
    · have hout : mget? l k = none := Option.eq_none_iff_forall_ne_some.2 fun v hv =>
        absurd (hlt _ ((mget?_eq_some_iff hwf).1 hv)) (by omega)
      rw [hout, if_pos hk, if_pos hk.symm, hk]
    · rw [if_neg hk, if_neg (Ne.symm hk)]

end

/-! ### The whole operation (R346, R347) -/

/-- No fill takes place where no open miss is of a line that is asked for. -/
theorem takeFills_of_no_miss {s : State} {q : Nat → Bool} (h : ∀ x ∈ s.rc.mshr, q x.x = false) : takeFills s q = s := by
  have hnone : ((s.rc.mshr.map (fun m => m.x)).dedup).filter q = [] := by
    refine List.filter_eq_nil_iff.2 fun y hy => ?_
    obtain ⟨x, hx, rfl⟩ := List.mem_map.1 (List.mem_dedup.1 hy)
    simp [h x hx]
  rw [takeFills, hnone]
  rfl

section
variable {s : State} {op : Nat} {q : Nat → Bool} {p : Nat → CLine → Bool}

theorem onlyMem_maintAll : OnlyMem s (maintAll op s q p) :=
  (onlyMem_takeFills s q).trans (OnlyMem.foldl (maintStep op p) (onlyMem_maintStep op p) _ _)

variable (hq : ∀ x ∈ s.rc.mshr, q x.x = false)
include hq

theorem maintAll_of_no_miss : maintAll op s q p = s.rc.lines.foldl (maintStep op p) s := by
  rw [maintAll, takeFills_of_no_miss hq]
  rfl

theorem maintAll_need : (maintAll op s q p).rc.need = s.rc.need := by
  rw [maintAll_of_no_miss hq]
  exact foldl_keeps (fun t => t.rc.need) _ (maintStep_need op p) _ _

theorem maintAll_mem_of_invalidate : (maintAll 1 s q p).mem = s.mem := by
  rw [maintAll_of_no_miss hq]
  exact foldl_keeps State.mem _ (maintStep_mem_of_invalidate p) _ _

theorem mget?_maintAll (h : Rising s) (k : Nat) :
    mget? (maintAll op s q p).rc.lines k = (mget? s.rc.lines k).bind (maintained op p k) := by
  rw [maintAll_of_no_miss hq, mget?_foldl_maintStep op p h h fun e he => (mget?_eq_some_iff h).2 he]
  cases mget? s.rc.lines k <;> rfl

end

/-! ### CACHE_MAINT (R346 to R348) -/

/-- A CACHE_MAINT that is accepted, by the test of its target, which names no line with an open miss. -/
theorem cacheMaint_accepted {s : State} {m : MbWrite} {op : Nat} {q : Nat → Bool} {p : Nat → CLine → Bool}
    (h : MbStarts rowCacheMaint m s)
    (hb : bodyCacheMaint (mbTake s m 0x25) (mbCtx s m) = .done (maintAll op (mbTake s m 0x25) q p) rcOk [])
    (hl : mwf s.rc.lines = true) (hq : ∀ x ∈ s.rc.mshr, q x.x = false) (hn : s.rc.need = []) :
    ∃ t, exec (.cacheMaint m) s = .next t ∧ MbEnded s t m.ch rcOk [] ∧
      (∀ k l, mget? t.rc.lines k = some l → p k l = true → op = 0 ∧ l.dirty = false) ∧
      (∀ k l, mget? s.rc.lines k = some l → p k l = false → mget? t.rc.lines k = some l) ∧
      (op = 1 → t.mem = s.mem) ∧ memUndo s (mbUndo s t) = s := by
  obtain ⟨hended, hmem, hundo⟩ := (onlyMem_maintAll (s := mbTake s m 0x25) (op := op) (q := q) (p := p)).mbEnded rcOk []
  have hlines : ∀ k, mget? (mbComplete (maintAll op (mbTake s m 0x25) q p) m.ch rcOk []).rc.lines k =
      (mget? s.rc.lines k).bind (maintained op p k) := fun k => by
    rw [mbComplete_rc]
    exact mget?_maintAll (s := mbTake s m 0x25) hq hl k
  refine ⟨_, mbox_done h hb ((maintAll_need (s := mbTake s m 0x25) hq).trans hn), hended, fun k l hk hpl => ?_,
    fun k l hk hpl => ?_, ?_, hundo⟩
  · rw [hlines, Option.bind_eq_some_iff] at hk
    obtain ⟨l', -, hl'⟩ := hk
    unfold maintained at hl'
    split at hl'
    · split at hl'
      next hop => exact ⟨hop, by rw [← Option.some.inj hl']⟩
      · simp at hl'
    next hno => simp_all
  · rw [hlines, hk, Option.bind_some, maintained, hpl]
    rfl
  · rintro rfl
    exact hmem.trans (maintAll_mem_of_invalidate (s := mbTake s m 0x25) hq)

theorem cacheMaint_range (s : State) (m : MbWrite) (op a n : Nat) (h : MbStarts rowCacheMaint m s)
    (hop : (mbCtx s m).f 0 0 2 = op) (h3 : op ≠ 3) (hc : lCache s = false) (hmode : bit ((mbCtx s m).a 0) 2 = false)
    (ha : (mbCtx s m).f 1 0 48 = a) (hlen : (mbCtx s m).f 2 0 33 = n) (hal : a % 64 = 0) (h1 : 1 ≤ n) (hmax : n ≤ 2 ^ 32)
    (hin : inTiers a (64 * n) = true) (hz : (mbCtx s m).a 3 = 0) (hl : mwf s.rc.lines = true)
    (hm : ∀ x ∈ s.rc.mshr, ¬ (a ≤ x.x * 64 ∧ x.x * 64 < a + 64 * n)) (hn : s.rc.need = []) :
    ∃ t, exec (.cacheMaint m) s = .next t ∧ MbEnded s t m.ch rcOk [] ∧
      (∀ k l, mget? t.rc.lines k = some l → a ≤ l.x * 64 → l.x * 64 < a + 64 * n → op = 0 ∧ l.dirty = false) ∧
      (∀ k l, mget? s.rc.lines k = some l → ¬ (a ≤ l.x * 64 ∧ l.x * 64 < a + 64 * n) → mget? t.rc.lines k = some l) ∧
      (op = 1 → t.mem = s.mem) ∧ memUndo s (mbUndo s t) = s := by
  have hb : bodyCacheMaint (mbTake s m 0x25) (mbCtx s m) = .done (maintAll op (mbTake s m 0x25)
      (fun x => decide (a ≤ x * 64) && decide (x * 64 < a + 64 * n))
      (fun _ l => decide (a ≤ l.x * 64) && decide (l.x * 64 < a + 64 * n))) rcOk [] := by
    have hc' : lCache (mbTake s m 0x25) = false := hc
    have hpos : n ≠ 0 := by omega
    have hle : ¬ 2 ^ 32 < n := by omega
    simp only [bodyCacheMaint, hop, if_neg h3, hc', hmode, ha, hlen, hal, hin, hz, decide_eq_false hpos, decide_eq_false hle,
      bne_self_eq_false, Bool.not_true, Bool.not_false, Bool.or_false, Bool.false_eq_true, if_false, if_true]
  have hp : ∀ x, (decide (a ≤ x * 64) && decide (x * 64 < a + 64 * n)) = true ↔ a ≤ x * 64 ∧ x * 64 < a + 64 * n := fun x => by
    simp
  obtain ⟨t, ht, hended, hsel, hrest, hmem, hundo⟩ := cacheMaint_accepted h hb hl
    (fun x hx => Bool.eq_false_iff.2 fun hx' => hm x hx ((hp x.x).1 hx')) hn
  exact ⟨t, ht, hended, fun k l hk hlo hhi => hsel k l hk ((hp l.x).2 ⟨hlo, hhi⟩),
    fun k l hk hout => hrest k l hk (Bool.eq_false_iff.2 fun hin => hout ((hp l.x).1 hin)), hmem, hundo⟩

theorem cacheMaint_ways (s : State) (m : MbWrite) (op sl lo hi : Nat) (h : MbStarts rowCacheMaint m s)
    (hop : (mbCtx s m).f 0 0 2 = op) (h3 : op ≠ 3) (hc : lCache s = false) (hmode : bit ((mbCtx s m).a 0) 2 = true)
    (hsl : (mbCtx s m).f 1 0 6 = sl) (ha1 : ((mbCtx s m).a 1).toNat < 64) (h48 : sl < 48 ∨ sl = 63)
    (hlo : (mbCtx s m).f 2 0 12 = lo) (hhi : (mbCtx s m).f 2 16 12 = hi) (hle : lo ≤ hi)
    (hz : (((mbCtx s m).a 2).toNat &&& ((2 ^ 64 - 1) ^^^ (mask 0 12 + mask 16 12))) = 0) (hl : mwf s.rc.lines = true)
    (hm : s.rc.mshr = []) (hn : s.rc.need = []) :
    let sel := fun k : Nat => (sl = 63 ∨ k / 65536 = sl) ∧ lo ≤ k / 16 % 4096 ∧ k / 16 % 4096 ≤ hi ∧
      bit ((mbCtx s m).a 3) (k % 16) = true
    ∃ t, exec (.cacheMaint m) s = .next t ∧ MbEnded s t m.ch rcOk [] ∧
      (∀ k l, mget? t.rc.lines k = some l → sel k → op = 0 ∧ l.dirty = false) ∧
      (∀ k l, mget? s.rc.lines k = some l → ¬ sel k → mget? t.rc.lines k = some l) ∧
      (op = 1 → t.mem = s.mem) ∧ memUndo s (mbUndo s t) = s := by
  intro sel
  have hb : ∃ q, bodyCacheMaint (mbTake s m 0x25) (mbCtx s m) = .done (maintAll op (mbTake s m 0x25) q (fun k _ =>
      (sl == 63 || k / 65536 == sl) && decide (lo ≤ k / 16 % 4096) && decide (k / 16 % 4096 ≤ hi) &&
        bit ((mbCtx s m).a 3) (k % 16))) rcOk [] := by
    have hc' : lCache (mbTake s m 0x25) = false := hc
    have hslok : (decide (48 ≤ sl) && sl != 63) = false := by
      rcases h48 with h48 | h48
      · simp [Nat.not_le.2 h48]
      · simp [h48]
    have hle' : ¬ hi < lo := by omega
    have ha1' : ¬ 64 ≤ ((mbCtx s m).a 1).toNat := by omega
    simp only [bodyCacheMaint, hop, if_neg h3, hc', hmode, hsl, hlo, hhi, hz, hslok, decide_eq_false hle',
      decide_eq_false ha1', bne_self_eq_false, Bool.not_true, Bool.or_false, Bool.false_eq_true, if_false]
    exact ⟨_, rfl⟩
  obtain ⟨q, hb⟩ := hb
  have hp : ∀ k, ((sl == 63 || k / 65536 == sl) && decide (lo ≤ k / 16 % 4096) && decide (k / 16 % 4096 ≤ hi) &&
      bit ((mbCtx s m).a 3) (k % 16)) = true ↔ sel k := fun k => by simp [sel, and_assoc]
  obtain ⟨t, ht, hended, hsel, hrest, hmem, hundo⟩ := cacheMaint_accepted h hb hl
    (fun x hx => absurd (hm ▸ hx) List.not_mem_nil) hn
  exact ⟨t, ht, hended, fun k l hk hin => hsel k l hk ((hp k).2 hin),
    fun k l hk hout => hrest k l hk (Bool.eq_false_iff.2 fun hin => hout ((hp k).1 hin)), hmem, hundo⟩

/-! ### The accesses before a walk leave the cache's switch alone -/

section
variable (s : State)

@[simp] theorem allocLine_enabled (sl st x : Nat) (hint : BitVec 2) (d p : Bool) (l : List Byte) :
    (allocLine s sl st x hint d p l).rc.enabled = s.rc.enabled := by
  cases hv : victim s sl st with
  | none =>
    rw [allocLine, hv]
    dsimp only
    split
    · rw [dWrite_rc]
    · rfl
  | some w =>
    have hev : (evicted s (wayKey sl st w)).rc.enabled = s.rc.enabled := by
      unfold evicted
      split
      · split
        · rw [dropLine, writeBack, dWrite_rc]
        · rfl
      · rfl
    obtain ⟨b, keep, ha⟩ := allocLine_some hv x hint d p l
    rw [ha, ← hev]
    dsimp only
    split
    · simp [setLine]
    · simp [setLine, touchWay]

@[simp] theorem hitHint_enabled (sl st w : Nat) (l : CLine) (hint : BitVec 2) :
    (hitHint s sl st w l hint).rc.enabled = s.rc.enabled := by
  unfold hitHint
  dsimp only
  split
  · rfl
  · split
    · split <;> rfl
    · rfl

@[simp] theorem putLine_enabled (a : Nat) (l : List Byte) (hint : BitVec 2) (p : Bool) :
    (putLine s a l hint p).rc.enabled = s.rc.enabled := by
  unfold putLine
  dsimp only
  split
  · rw [hitHint_enabled]
    split
    · rw [writeBack, dWrite_rc]; rfl
    · rfl
  · split
    · exact allocLine_enabled ..
    · rw [dWrite_rc]

@[simp] theorem afterFill_enabled (w : Waiting) : (afterFill s w).rc.enabled = s.rc.enabled := by
  unfold afterFill
  split
  · exact putLine_enabled ..
  · split
    · exact hitHint_enabled ..
    · rfl

@[simp] theorem fillLine_enabled (x : Nat) (d : List Byte) (bad : Bool) :
    (fillLine s x d bad).rc.enabled = s.rc.enabled := by
  unfold fillLine
  split
  · rfl
  · dsimp only
    rw [foldl_keeps (fun t => t.rc.enabled) afterFill afterFill_enabled, apply_ite (fun t : State => t.rc.enabled),
      allocLine_enabled, ite_self]

theorem takeFill_enabled (x : Nat) : (takeFill s x).rc.enabled = s.rc.enabled := by
  simp [takeFill, missSector_rc]

theorem takeFills_enabled (p : Nat → Bool) : (takeFills s p).rc.enabled = s.rc.enabled :=
  foldl_keeps (fun t => t.rc.enabled) takeFill takeFill_enabled _ _

/-! ### CACHE_DISABLE and the end of its walk (R351, R355) -/

theorem writeBackAll_rc : (writeBackAll s).rc = s.rc :=
  foldl_keeps State.rc _ (fun t e => by
    split
    · exact dWrite_rc ..
    · rfl) _ _

theorem onlyMem_writeBackAll : OnlyMem s (writeBackAll s) :=
  OnlyMem.foldl _ (fun t e => by
    split
    · exact onlyMem_writeBack ..
    · exact .refl t) _ _

theorem onlyMem_cleanAll : OnlyMem s (cleanAll s) :=
  ((onlyMem_takeFills ..).trans (onlyMem_writeBackAll _)).trans (onlyMem_rc _ _)

theorem cleanAll_enabled : (cleanAll s).rc.enabled = s.rc.enabled := by
  simp only [cleanAll, writeBackAll_rc, takeFills_enabled]

end

/-- A class-L command that runs alone ends. -/
theorem endRuns_alone {s : State} {r : LRun} {p : LRun → Bool} (h : s.mer.lruns = [r]) (hp : p r = true) (chan : LRun → Nat)
    (rc : Nat) (rets : List (Nat × W64)) :
    endRuns s p chan rc rets = mbComplete { s with mer := { s.mer with lruns := [] } } (chan r) rc rets := by
  simp [endRuns, h, hp]

theorem cacheDisable_starts (s : State) (m : MbWrite) (h : MbStarts rowCacheDisable m s) (hn : s.rc.need = [])
    (hc : lCache s = false) : exec (.cacheDisable m) s = .next { mbAck (mbTake s m 0x26) m.ch with
      rc := { s.rc with enabled := false, cleaning := true, done := false },
      mer := { s.mer with lruns := s.mer.lruns ++ [.cacheDisable m.ch] } } := by
  have hc' : ¬ lCache (mbTake s m 0x26) = true := Bool.eq_false_iff.1 hc
  exact mbox_wait (body := bodyCacheDisable) h (if_neg hc') hn

/-- The block after the walk of CACHE_DISABLE through every slice, before its command completes. -/
def walked (s : State) : State := { cleanAll s with rc := { (cleanAll s).rc with cleaning := false, done := true } }

theorem onlyMem_walked (s : State) : OnlyMem s (walked s) := (onlyMem_cleanAll s).trans (onlyMem_rc ..)

theorem walked_rc (s : State) : (walked s).rc = { (cleanAll s).rc with cleaning := false, done := true } := rfl

theorem walked_mem (s : State) : (walked s).mem = (writeBackAll (takeFills s (fun _ => true))).mem := rfl

/-- The end of the walk of CACHE_DISABLE. -/
def walkEnds (s : State) : State :=
  if !s.rc.cleaning then s
  else endRuns (walked s) (fun r => match r with | .cacheDisable _ => true | _ => false) lrunChan rcOk []

theorem exec_cacheDisableDone (s : State) : exec .cacheDisableDone s = act s walkEnds := rfl

theorem walkEnds_idle {s : State} (h : s.rc.cleaning = false) : walkEnds s = s := by
  rw [walkEnds, h]
  rfl

/-- The end of a walk under way completes its command, the only one that runs. -/
theorem walkEnds_running {s : State} {ch : Nat} (hc : s.rc.cleaning = true) (hr : s.mer.lruns = [.cacheDisable ch]) :
    walkEnds s = mbComplete { walked s with mer := { (walked s).mer with lruns := [] } } ch rcOk [] := by
  have hruns : (walked s).mer.lruns = [.cacheDisable ch] := by rw [(onlyMem_walked s).mer, hr]
  rw [walkEnds, hc, if_neg (by decide), endRuns_alone hruns rfl]
  rfl

theorem cacheDisableDone_ends (s : State) (ch : Fin 16) (hs : stopped s = false) (hc : s.rc.cleaning = true)
    (hr : s.mer.lruns = [.cacheDisable ch]) (hn : (cleanAll s).rc.need = []) :
    ∃ t, exec .cacheDisableDone s = .next t ∧ MbEnded s t ch rcOk [] ∧ t.rc.lines = [] ∧ t.rc.cleaning = false ∧
      t.rc.done = true ∧ t.rc.enabled = s.rc.enabled ∧ t.mem = (writeBackAll (takeFills s (fun _ => true))).mem ∧
      t.mer.lruns = [] ∧ { memUndo s (mbUndo s t) with mer := s.mer } = s := by
  have hw := onlyMem_walked s
  have hrc := walked_rc s
  have hlines : (cleanAll s).rc.lines = [] := rfl
  have henabled := cleanAll_enabled s
  have hrun := walkEnds_running hc hr
  rw [exec_cacheDisableDone, ← walked_mem]
  generalize walked s = w at *
  generalize cleanAll s = u at *
  set t : State := { w with mer := { w.mer with lruns := [] } }
  have htrc : (mbComplete t ch rcOk []).rc = { u.rc with cleaning := false, done := true } := (mbComplete_rc ..).trans hrc
  refine ⟨_, act_eq_next hs hrun (by rw [htrc]; exact hn), mbEnded_of_chans (t := t) hw.chans .., ?lines, ?cleaning, ?done,
    ?enabled, mbComplete_mem .., ?runs, ?rest⟩
  case lines => rw [htrc]; exact hlines
  case cleaning => rw [htrc]
  case done => rw [htrc]
  case enabled => rw [htrc]; exact henabled
  case runs => rw [mbComplete_mer]
  case rest =>
    rw [mbUndo_mbComplete]
    exact congrArg (fun v : State => { mbUndo s v with mer := s.mer }) hw.undo

theorem cacheDisableDone_idle (s : State) (hs : stopped s = false) (hn : s.rc.need = []) (hc : s.rc.cleaning = false) :
    exec .cacheDisableDone s = .next s := by
  rw [exec_cacheDisableDone]
  exact act_eq_next hs (walkEnds_idle hc) hn

/-! ### CACHE_ENABLE (R351) -/

theorem cacheEnable_takesEffect (s : State) (m : MbWrite) (h : MbStarts rowCacheEnable m s) (hn : s.rc.need = []) :
    (s.rc.cleaning = false →
      exec (.cacheEnable m) s = .next (mbEnds { s with rc := { s.rc with enabled := true, done := false } } m 0x27 rcOk [])) ∧
    (s.rc.cleaning = true → exec (.cacheEnable m) s = .next (mbEnds s m 0x27 rcBadState [])) := by
  refine ⟨fun hc => ?_, fun hc => ?_⟩
  · have hc' : ¬ (mbTake s m 0x27).rc.cleaning = true := Bool.eq_false_iff.1 hc
    exact mbox_done h (if_neg hc') hn
  · exact mbox_done h (if_pos hc) hn

/-- Settles O19, command by command. -/
theorem cacheMaintenanceTakesEffect : Obligations.CacheMaintenanceTakesEffect :=
  ⟨cacheMaint_range, cacheMaint_ways, cacheDisable_starts, cacheDisableDone_ends, cacheDisableDone_idle,
    cacheEnable_takesEffect⟩

end Sys2Proof.Machine
end

section
/-! PROOFS. Range entries: SET_RANGE and INVALIDATE_RANGE (R356 to R364). -/

namespace Sys2Proof.Machine

/-! ### SET_RANGE (R356 to R361) -/

section
variable {s : State} {c : MbCtx} (hl : s.pwr.sl = 0 → s.mer.layout.isSome = true)
include hl

/-- At SL0 the layout stands before entries are written (R536). -/
theorem layout_stands : (s.pwr.sl == 0 && s.mer.layout.isNone) = false := by
  refine Bool.eq_false_iff.2 fun h => ?_
  rw [Bool.and_eq_true, beq_iff_eq, Option.isNone_iff_eq_none] at h
  obtain ⟨h0, hnone⟩ := h
  simpa [hnone] using hl h0

section
variable {e : Nat} (he : c.f 0 0 12 = e) (hnone : mget? s.xlt.ranges e = none)
  (hx : lExtent s (rangeLo (rangeOfArgs c)) (rangeLo (rangeOfArgs c) + (rangeOfArgs c).length * 65536) = false)
include he hnone hx

theorem bodySetRange_new (hr : rangeRefuse s c e (rangeOfArgs c) = none) :
    bodySetRange s c = .done (setRangeEnt s e (rangeOfArgs c)) rcOk [] := by
  subst he
  simp only [bodySetRange, layout_stands hl, hnone, hx, hr, Bool.false_eq_true, if_false]

theorem bodySetRange_refused {rc : Nat} (hr : rangeRefuse s c e (rangeOfArgs c) = some rc) :
    bodySetRange s c = .done s rc [] := by
  subst he
  simp only [bodySetRange, layout_stands hl, hnone, hx, hr, Bool.false_eq_true, if_false]

end

section
variable {e : Nat} {old : Range} (he : c.f 0 0 12 = e) (hold : mget? s.xlt.ranges e = some old)
include he hold

theorem bodySetRange_invalidating (hi : old.inval = true) : bodySetRange s c = .done s rcBadState [] := by
  subst he
  simp only [bodySetRange, layout_stands hl, hold, hi, Bool.false_eq_true, if_false, if_true]

/-- A valid entry changes in place, or stays (R361). -/
theorem bodySetRange_valid (hi : old.inval = false) (hr : rangeReserved c = false) :
    bodySetRange s c = if rangeMayChange old (rangeOfArgs c) then .done (setRangeEnt s e (rangeOfArgs c)) rcOk []
      else .done s rcBadState [] := by
  subst he
  simp only [bodySetRange, layout_stands hl, hold, hi, hr, Bool.false_eq_true, if_false]

end
end

theorem setRange_takesEffect (s : State) (m : MbWrite) (e : Nat) (h : MbStarts rowSetRange m s) (hn : s.rc.need = [])
    (he : (mbCtx s m).f 0 0 12 = e) (hl : s.pwr.sl = 0 → s.mer.layout.isSome = true) :
    (mget? s.xlt.ranges e = none → lExtent s (rangeLo (rangeOfArgs (mbCtx s m)))
        (rangeLo (rangeOfArgs (mbCtx s m)) + (rangeOfArgs (mbCtx s m)).length * 65536) = false →
      (rangeRefuse s (mbCtx s m) e (rangeOfArgs (mbCtx s m)) = none →
        exec (.setRange m) s = .next (mbEnds { s with xlt := { s.xlt with
          ranges := mset s.xlt.ranges e (rangeOfArgs (mbCtx s m)) } } m 0x30 rcOk [])) ∧
      (∀ rc, rangeRefuse s (mbCtx s m) e (rangeOfArgs (mbCtx s m)) = some rc →
        exec (.setRange m) s = .next (mbEnds s m 0x30 rc []))) ∧
    (∀ old, mget? s.xlt.ranges e = some old →
      (old.inval = true → exec (.setRange m) s = .next (mbEnds s m 0x30 rcBadState [])) ∧
      (old.inval = false → rangeReserved (mbCtx s m) = false →
        exec (.setRange m) s = .next (if rangeMayChange old (rangeOfArgs (mbCtx s m)) then
          mbEnds { s with xlt := { s.xlt with ranges := mset s.xlt.ranges e (rangeOfArgs (mbCtx s m)) } } m 0x30 rcOk []
          else mbEnds s m 0x30 rcBadState []))) := by
  have hl' : (mbTake s m 0x30).pwr.sl = 0 → (mbTake s m 0x30).mer.layout.isSome = true := hl
  refine ⟨fun hnone hx => ⟨fun hr => ?new, fun rc hr => ?refused⟩,
    fun old hold => ⟨fun hi => ?invalidating, fun hi hr => ?valid⟩⟩
  case new => exact mbox_done h (bodySetRange_new hl' he hnone hx hr) hn
  case refused => exact mbox_done h (bodySetRange_refused hl' he hnone hx hr) hn
  case invalidating => exact mbox_done h (bodySetRange_invalidating hl' he hold hi) hn
  case valid =>
    have hb := bodySetRange_valid hl' he hold hi hr
    split at hb
    next hmay => rw [if_pos hmay]; exact mbox_done h hb hn
    next hmay => rw [if_neg hmay]; exact mbox_done h hb hn

/-! ### INVALIDATE_RANGE (R363, R364) -/

/-- The state after steps 1 and 2 of an invalidation (R364): entries marked, the wait counted (log entry 125). -/
def invalStopped (s : State) (es : List Nat) : State :=
  bump (freeWord (invalMark s es)).1 ctrChipXinvWait (freeWord (invalMark s es)).2.toNat

/-- The entries of an invalidation are gone from the table (R364 step 4). -/
def invalFreed (s : State) (es : List Nat) : State :=
  { invalStopped s es with xlt := { (invalMark s es).xlt with
      ranges := (invalMark s es).xlt.ranges.filter (fun x => !es.contains x.1) } }

/-- An invalidation changes the translation's own state, and counts. -/
theorem invalFreed_eq (s : State) (es : List Nat) :
    ∃ x cs fr, invalFreed s es = { s with xlt := x, ctrs := cs, frees := fr } := ⟨_, _, _, rfl⟩

theorem invalMark_inval {s : State} {es : List Nat} {x : Nat × Range} (h : x ∈ (invalMark s es).xlt.ranges)
    (hx : x.1 ∈ es) : x.2.inval = true := by
  obtain ⟨y, -, rfl⟩ := List.mem_map.1 h
  by_cases hy : es.contains y.1 = true
  · rw [if_pos hy]
  · rw [if_neg hy] at hx
    exact absurd (List.contains_iff_mem.2 hx) hy

/-- An invalidation leaves every other entry. -/
theorem mem_invalMark {s : State} {es : List Nat} {x : Nat × Range} (h : x ∈ s.xlt.ranges) (hx : x.1 ∉ es) :
    x ∈ (invalMark s es).xlt.ranges :=
  List.mem_map.2 ⟨x, h, if_neg (by simpa using hx)⟩

theorem invalMark_caches {s : State} {es : List Nat} {c : Nat × List Nat} (h : c ∈ (invalMark s es).xlt.caches) :
    ∀ e ∈ c.2, e ∉ es := by
  obtain ⟨y, -, rfl⟩ := List.mem_map.1 h
  intro e he
  simpa using (List.mem_filter.1 he).2

theorem mem_invalFreed {s : State} {es : List Nat} {x : Nat × Range} :
    x ∈ (invalFreed s es).xlt.ranges ↔ x ∈ (invalMark s es).xlt.ranges ∧ x.1 ∉ es := by
  simp [invalFreed]

section
variable {s : State} {c : MbCtx} {lo n : Nat} (hlo : c.f 0 0 36 * 65536 = lo) (hlen : c.f 1 0 36 * 65536 = n)
  (hx : lExtent s lo (lo + n) = false)
include hlo hlen hx

theorem bodyInvalidateRange_none (he : rangesIn s lo n = []) : bodyInvalidateRange s c = .done s rcOk [(0, 0)] := by
  simp [bodyInvalidateRange, hlo, hlen, hx, he]

section
variable {es : List Nat} (he : rangesIn s lo n = es) (hne : es ≠ [])
include he hne

/-- With an entry in the extent, steps 1 and 2 take place, and step 3 may wait (R364). -/
theorem bodyInvalidateRange_some : bodyInvalidateRange s c =
    if anyPinned s es && stampHolds (invalMark s es) (s.xlt.xgen + 1) then
      .wait (invalStopped s es) (.invalidate c.ch es (s.xlt.xgen + 1) lo (lo + n))
    else .done (invalFreed s es) rcOk [(0, BitVec.ofNat 64 es.length)] := by
  have hne' : ¬ es.isEmpty = true := by simpa using hne
  simp only [bodyInvalidateRange, hlo, hlen, hx, he, if_neg hne', Bool.false_eq_true, if_false]
  rfl

theorem bodyInvalidateRange_done (hp : (anyPinned s es && stampHolds (invalMark s es) (s.xlt.xgen + 1)) = false) :
    bodyInvalidateRange s c = .done (invalFreed s es) rcOk [(0, BitVec.ofNat 64 es.length)] := by
  rw [bodyInvalidateRange_some hlo hlen hx he hne, hp]
  rfl

theorem bodyInvalidateRange_wait (hp : (anyPinned s es && stampHolds (invalMark s es) (s.xlt.xgen + 1)) = true) :
    bodyInvalidateRange s c = .wait (invalStopped s es) (.invalidate c.ch es (s.xlt.xgen + 1) lo (lo + n)) := by
  rw [bodyInvalidateRange_some hlo hlen hx he hne, hp]
  rfl

end
end

theorem chanOf_mbAck (s : State) (c : Nat) : chanOf (mbAck s c) c = { chanOf s c with ack := true } := by simp [mbAck]

section
variable {s : State} {m : MbWrite} {lo n : Nat} {es : List Nat} (h : MbStarts rowInvalidateRange m s)
  (hn : s.rc.need = []) (hlo : (mbCtx s m).f 0 0 36 * 65536 = lo) (hlen : (mbCtx s m).f 1 0 36 * 65536 = n)
  (hx : lExtent s lo (lo + n) = false) (he : rangesIn s lo n = es) (hne : es ≠ [])
include h hn hlo hlen hx he hne

theorem invalidateRange_frees (hp : (anyPinned s es && stampHolds (invalMark s es) (s.xlt.xgen + 1)) = false) :
    ∃ t, exec (.invalidateRange m) s = .next t ∧ MbEnded s t m.ch rcOk [(0, BitVec.ofNat 64 es.length)] ∧
      t.xlt.xgen = s.xlt.xgen + 1 ∧ (∀ x ∈ t.xlt.ranges, x.1 ∉ es) ∧ (∀ x ∈ s.xlt.ranges, x.1 ∉ es → x ∈ t.xlt.ranges) ∧
      (∀ c ∈ t.xlt.caches, ∀ e ∈ c.2, e ∉ es) ∧
      { mbUndo s t with xlt := s.xlt, ctrs := s.ctrs, frees := s.frees } = s := by
  refine ⟨mbComplete (invalFreed (mbTake s m 0x31) es) m.ch rcOk [(0, BitVec.ofNat 64 es.length)],
    mbox_done h (bodyInvalidateRange_done (s := mbTake s m 0x31) hlo hlen hx he hne hp) hn,
    mbEnded_of_chans_mbTake (opc := 0x31) (by rfl) _ _, ?_⟩
  rw [mbComplete_xlt, mbUndo_mbComplete]
  refine ⟨rfl, fun x hx => (mem_invalFreed.1 hx).2, fun x hx hxe => mem_invalFreed.2 ⟨mem_invalMark hx hxe, hxe⟩,
    fun c hc => invalMark_caches (s := mbTake s m 0x31) hc, ?_⟩
  obtain ⟨x, cs, fr, hu⟩ := invalFreed_eq (mbTake s m 0x31) es
  rw [hu]
  rfl

theorem invalidateRange_waits (hp : (anyPinned s es && stampHolds (invalMark s es) (s.xlt.xgen + 1)) = true) :
    ∃ t, exec (.invalidateRange m) s = .next t ∧ (chanOf t m.ch).ack = true ∧ (chanOf t m.ch).busy = true ∧
      t.xlt.xgen = s.xlt.xgen + 1 ∧ (∀ x ∈ t.xlt.ranges, x.1 ∈ es → x.2.inval = true) ∧
      t.mer.lruns = s.mer.lruns ++ [.invalidate m.ch es (s.xlt.xgen + 1) lo (lo + n)] ∧ t.mem = s.mem ∧ t.rc = s.rc := by
  have hch : chanOf (mbAck (invalStopped (mbTake s m 0x31) es) m.ch) m.ch =
      { chanOf (mbTake s m 0x31) m.ch with ack := true } := chanOf_mbAck ..
  refine ⟨_, mbox_wait h (bodyInvalidateRange_wait (s := mbTake s m 0x31) hlo hlen hx he hne hp) hn, ?_, ?_, rfl,
    fun x hx => invalMark_inval (s := mbTake s m 0x31) hx, rfl, rfl, rfl⟩
  · exact congrArg Chan.ack hch
  · refine (congrArg Chan.busy hch).trans ?_
    rw [chanOf_mbTake]

end

/-- Settles O20, command by command. -/
theorem rangeCommandsTakeEffect : Obligations.RangeCommandsTakeEffect :=
  ⟨setRange_takesEffect, fun _ _ _ _ _ h hn hlo hlen hx he =>
    ⟨fun hnil => mbox_done h (bodyInvalidateRange_none (s := mbTake _ _ 0x31) hlo hlen hx (he.trans hnil)) hn,
      invalidateRange_frees h hn hlo hlen hx he, invalidateRange_waits h hn hlo hlen hx he⟩⟩

end Sys2Proof.Machine
end

section
/-! PROOFS. Streams as commands see them: arming, re-arming, disarming, their states and the stream policy (R366 to
R380). -/

namespace Sys2Proof.Machine

@[simp] theorem strmOf_setStrm_self (s : State) (n : Nat) (x : Strm) : strmOf (setStrm s n x) n = x := by
  simp [strmOf, setStrm]

theorem strmOf_setStrm_ne (s : State) (n : Nat) (x : Strm) {k : Nat} (h : k ≠ n) :
    strmOf (setStrm s n x) k = strmOf s k := by
  rw [strmOf, strmOf, setStrm, mget_mset_ne _ _ _ _ _ h]

/-! ### Arming (R366, R369, R370, R375) -/

@[simp] theorem armNow_rc (s : State) (n : Nat) (d : SDesc) : (armNow s n d).rc = s.rc := by
  unfold armNow
  dsimp only
  split <;> rfl

/-- A stream of kind 0 to 2 runs under a command of its own (R366, R378). -/
theorem strmOf_armNow_of_lt (s : State) (n : Nat) {d : SDesc} (hk : d.kind < 3) : strmOf (armNow s n d) n =
    { Strm.reset with
      d := d, st := .running, seq := (qOf s d.queue).nextSeq, bound := some s.orr.nextCid } := by
  rw [armNow, if_neg (Nat.not_le.2 hk)]
  exact strmOf_setStrm_self ..

theorem nextSeq_armNow_of_lt (s : State) (n : Nat) {d : SDesc} (hk : d.kind < 3) :
    (qOf (armNow s n d) d.queue).nextSeq = (qOf s d.queue).nextSeq + 1 := by
  rw [armNow, if_neg (Nat.not_le.2 hk)]
  exact congrArg Queue.nextSeq (qOf_setQ_self ..)

/-- A stream of kind 3 or 4 waits for a command that uses it (R374). -/
theorem strmOf_armNow_of_le (s : State) (n : Nat) {d : SDesc} (hk : 3 ≤ d.kind) :
    strmOf (armNow s n d) n = { Strm.reset with d := d, st := .idle } := by
  rw [armNow, if_pos hk]
  exact strmOf_setStrm_self ..

theorem rearmTake_idle {s : State} {n : Nat} {d : SDesc} (hr : (strmOf s n).rearm = some d) (hst : (strmOf s n).st = .idle)
    (hl : lStream s n = false) : rearmTake s n = armNow s n d := by
  simp [rearmTake, hr, hst, hl]

/-- With no descriptor queued, or the stream not IDLE, there is nothing to take (log entry 8). -/
theorem rearmTake_eq_self {s : State} {n : Nat} (h : (strmOf s n).rearm = none ∨ (strmOf s n).st ≠ .idle) :
    rearmTake s n = s := by
  unfold rearmTake
  dsimp only
  split
  next d hd =>
    have hst : (strmOf s n).st ≠ .idle := h.resolve_left (by simp [hd])
    simp [hst]
  · rfl

section
variable {s s1 : State} {c : MbCtx} {l : List Byte} {n : Nat} {d : SDesc} (hb : BufReads s c (c.p 0) 64 s1 l)
  (hd : sdescOf l = (n, d)) (hr : (strmOf s1 n).rearm = none) (hl : lStream s1 n = false) (hz : sdescZero l = true)
  (hok : sdescOk s1 n d = true)
include hb hd hr hl hz hok

/-- A descriptor in order arms its stream now or waits for it, as far as the staging pool goes (R369, R370, R375). -/
theorem bodyArmStream_ok : bodyArmStream s c =
    if stagePool s1 < othersHeld s1 n + (if (strmOf s1 n).st == .disarmed || (strmOf s1 n).st == .idle then d.credits
      else max (strmOf s1 n).d.credits d.credits) then .done s1 rcOvercommit []
    else if (strmOf s1 n).st == .disarmed || (strmOf s1 n).st == .idle then .done (armNow s1 n d) rcOk [(0, 0)]
    else .done (setStrm s1 n { strmOf s1 n with rearm := some d }) rcOk [(0, 1)] := by
  simp [bodyArmStream, hb.withBuf_eq, hd, rearmTake_eq_self (.inl hr), hl, hz, hok, hr]

theorem bodyArmStream_now (hst : (strmOf s1 n).st = .disarmed ∨ (strmOf s1 n).st = .idle)
    (hc : othersHeld s1 n + d.credits ≤ stagePool s1) : bodyArmStream s c = .done (armNow s1 n d) rcOk [(0, 0)] := by
  have hst' : ((strmOf s1 n).st == .disarmed || (strmOf s1 n).st == .idle) = true := by simpa using hst
  rw [bodyArmStream_ok hb hd hr hl hz hok, hst', if_pos rfl, if_neg (Nat.not_lt.2 hc), if_pos rfl]

theorem bodyArmStream_later (hdis : (strmOf s1 n).st ≠ .disarmed) (hidle : (strmOf s1 n).st ≠ .idle)
    (hc : othersHeld s1 n + max (strmOf s1 n).d.credits d.credits ≤ stagePool s1) :
    bodyArmStream s c = .done (setStrm s1 n { strmOf s1 n with rearm := some d }) rcOk [(0, 1)] := by
  have hst : ((strmOf s1 n).st == .disarmed || (strmOf s1 n).st == .idle) = false := by simp [hdis, hidle]
  rw [bodyArmStream_ok hb hd hr hl hz hok, hst, if_neg Bool.false_ne_true, if_neg (Nat.not_lt.2 hc),
    if_neg Bool.false_ne_true]

end

theorem armStream_takesEffect (s s1 : State) (m : MbWrite) (l : List Byte) (n : Nat) (d : SDesc)
    (h : MbStarts rowArmStream m s) (hb : BufReads (mbTake s m 0x32) (mbCtx s m) ((mbCtx s m).p 0) 64 s1 l)
    (hd : sdescOf l = (n, d)) (hn : s1.rc.need = []) (hr : (strmOf s1 n).rearm = none) (hl : lStream s1 n = false)
    (hz : sdescZero l = true) (hok : sdescOk s1 n d = true) :
    ((strmOf s1 n).st = .disarmed ∨ (strmOf s1 n).st = .idle → othersHeld s1 n + d.credits ≤ stagePool s1 →
      exec (.armStream m) s = .next (mbComplete (armNow s1 n d) m.ch rcOk [(0, 0)]) ∧
      (d.kind < 3 → strmOf (armNow s1 n d) n = { Strm.reset with
          d := d, st := .running, seq := (qOf s1 d.queue).nextSeq, bound := some s1.orr.nextCid } ∧
        (qOf (armNow s1 n d) d.queue).nextSeq = (qOf s1 d.queue).nextSeq + 1) ∧
      (3 ≤ d.kind → strmOf (armNow s1 n d) n = { Strm.reset with d := d, st := .idle })) ∧
    ((strmOf s1 n).st ≠ .disarmed → (strmOf s1 n).st ≠ .idle →
      othersHeld s1 n + max (strmOf s1 n).d.credits d.credits ≤ stagePool s1 →
      exec (.armStream m) s =
        .next (mbComplete (setStrm s1 n { strmOf s1 n with rearm := some d }) m.ch rcOk [(0, 1)])) :=
  ⟨fun hst hc => ⟨mbox_done h (bodyArmStream_now hb hd hr hl hz hok hst hc) (by rw [armNow_rc]; exact hn),
      fun hk => ⟨strmOf_armNow_of_lt s1 n hk, nextSeq_armNow_of_lt s1 n hk⟩, fun hk => strmOf_armNow_of_le s1 n hk⟩,
    fun hdis hidle hc => mbox_done h (bodyArmStream_later hb hd hr hl hz hok hdis hidle hc) hn⟩

/-! ### STREAM_REARM_TAKE (R375) -/

theorem exec_streamRearmTake_next {s t : State} {n : Fin 256} (hs : stopped s = false) (h : rearmTake s n = t)
    (hn : t.rc.need = []) : exec (.streamRearmTake n) s = .next t :=
  act_eq_next (f := fun s => rearmTake s n) hs h hn

/-! ### DISARM_STREAM (R376) -/

section
variable {s : State} {c : MbCtx} {n : Nat} (hf : c.f 0 0 8 = n) (hl : lStream s n = false)
include hf hl

theorem bodyDisarmStream_disarmed (hst : (strmOf s n).st = .disarmed) : bodyDisarmStream s c = .done s rcOk [] := by
  simp [bodyDisarmStream, hf, hl, hst]

theorem bodyDisarmStream_idle (hst : (strmOf s n).st = .idle) : bodyDisarmStream s c =
    .done (setStrm (setStrm s n { strmOf s n with rearm := none }) n Strm.reset) rcOk [] := by
  simp [bodyDisarmStream, hf, hl, hst]

theorem bodyDisarmStream_armed (hst : (strmOf s n).st = .running ∨ (strmOf s n).st = .waiting) :
    bodyDisarmStream s c = .wait (setStrm s n { strmOf s n with rearm := none }) (.disarm c.ch n) := by
  rcases hst with hst | hst <;> simp [bodyDisarmStream, hf, hl, hst]

/-- A fault of the stream is aborted (R376). -/
theorem bodyDisarmStream_faulted (hst : (strmOf s n).st = .faultParked ∨ (strmOf s n).st = .faultSwitched) :
    bodyDisarmStream s c =
      .wait (strmAbort (setStrm s n { strmOf s n with rearm := none }) n 0x10) (.disarm c.ch n) := by
  rcases hst with hst | hst <;> simp [bodyDisarmStream, hf, hl, hst]

end

theorem disarmStream_takesEffect (s : State) (m : MbWrite) (n : Nat) (h : MbStarts rowDisarmStream m s)
    (hn : s.rc.need = []) (hf : (mbCtx s m).f 0 0 8 = n) (hl : lStream s n = false) :
    ((strmOf s n).st = .disarmed → exec (.disarmStream m) s = .next (mbEnds s m 0x33 rcOk [])) ∧
    ((strmOf s n).st = .idle →
      ∃ t, exec (.disarmStream m) s = .next t ∧ MbEnded s t m.ch rcOk [] ∧ strmOf t n = Strm.reset ∧
        (∀ k, k ≠ n → strmOf t k = strmOf s k) ∧ { mbUndo s t with str := { t.str with streams := s.str.streams } } = s) ∧
    ((strmOf s n).st = .running ∨ (strmOf s n).st = .waiting →
      exec (.disarmStream m) s = .next { mbAck (setStrm (mbTake s m 0x33) n { strmOf s n with rearm := none }) m.ch with
        mer := { s.mer with lruns := s.mer.lruns ++ [.disarm m.ch n] } }) ∧
    (∀ u, (strmOf s n).st = .faultParked ∨ (strmOf s n).st = .faultSwitched →
      u = strmAbort (setStrm (mbTake s m 0x33) n { strmOf s n with rearm := none }) n 0x10 → u.rc.need = [] →
        exec (.disarmStream m) s = .next { mbAck u m.ch with
          mer := { u.mer with lruns := u.mer.lruns ++ [.disarm m.ch n] } }) := by
  have hl' : lStream (mbTake s m 0x33) n = false := hl
  refine ⟨fun hst => ?disarmed, fun hst => ?idle, fun hst => ?armed, ?faulted⟩
  case disarmed => exact mbox_done h (bodyDisarmStream_disarmed hf hl' hst) hn
  case idle =>
    refine ⟨_, mbox_done h (bodyDisarmStream_idle hf hl' hst) hn,
      mbEnded_of_chans_mbTake (opc := 0x33) (by rfl) _ _, ?_, fun k hk => ?_, ?_⟩
    · rw [strmOf, mbComplete_str]
      exact strmOf_setStrm_self ..
    · rw [strmOf, mbComplete_str]
      exact (strmOf_setStrm_ne _ n _ hk).trans (strmOf_setStrm_ne (mbTake s m 0x33) n _ hk)
    · rw [mbUndo_mbComplete, mbComplete_str]
      rfl
  case armed => exact mbox_wait h (bodyDisarmStream_armed hf hl' hst) hn
  case faulted =>
    rintro u hst rfl hu
    exact mbox_wait h (bodyDisarmStream_faulted hf hl' hst) hu

/-! ### STREAM_QUERY (R374, R508) and SET_STREAM_POLICY (R380) -/

theorem bodyStreamQuery_free {s : State} {c : MbCtx} (hl : lStream s (c.f 0 0 8) = false) : bodyStreamQuery s c =
    .done s rcOk
      [(0, BitVec.ofNat 64 (strmCode (strmOf s (c.f 0 0 8)).st + b2n (strmOf s (c.f 0 0 8)).rearm.isSome * 8 +
        b2n (strmClosed s (strmOf s (c.f 0 0 8))) * 16)),
       (1, BitVec.ofNat 64 (ctr s (ctrStreamStrLines (c.f 0 0 8)))),
       (2, BitVec.ofNat 64 (strmHeld (strmOf s (c.f 0 0 8))))] :=
  if_neg (Bool.eq_false_iff.1 hl)

theorem setStreamPolicy_takesEffect (s : State) (m : MbWrite) (h : MbStarts rowSetStreamPolicy m s) (hn : s.rc.need = []) :
    ((mbCtx s m).f 0 0 16 ≠ 0 → exec (.setStreamPolicy m) s = .next (mbEnds { s with str := { s.str with
      wcLimit := (mbCtx s m).f 0 0 16, reportOnly := bit ((mbCtx s m).a 0) 16 } } m 0x35 rcOk [])) ∧
    ((mbCtx s m).f 0 0 16 = 0 → exec (.setStreamPolicy m) s = .next (mbEnds s m 0x35 rcInvalid [])) :=
  ⟨fun h0 => mbox_done (body := bodySetStreamPolicy) h (if_neg h0) hn,
    fun h0 => mbox_done (body := bodySetStreamPolicy) h (if_pos h0) hn⟩

/-- Settles O21, command by command. -/
theorem streamCommandsTakeEffect : Obligations.StreamCommandsTakeEffect := by
  refine ⟨armStream_takesEffect, ?rearm, ?noRearm, disarmStream_takesEffect, ?query, setStreamPolicy_takesEffect⟩
  case rearm =>
    intro s n d hs hn hr hst hl
    exact exec_streamRearmTake_next hs (rearmTake_idle hr hst hl) (by rw [armNow_rc]; exact hn)
  case noRearm =>
    intro s n hs hn hno
    exact exec_streamRearmTake_next hs (rearmTake_eq_self hno) hn
  case query =>
    rintro s m n h hn rfl hl
    exact mbox_done h (bodyStreamQuery_free (s := mbTake s m 0x34) hl) hn

end Sys2Proof.Machine
end

section
/-! PROOFS. The fault commands: FAULT_READ and FAULT_RESOLVE (R385, R387). -/

namespace Sys2Proof.Machine

/-! ### FAULT_READ (R385) -/

theorem bodyFaultRead_ok {s : State} {c : MbCtx} {n : Nat} {w : State → List Byte → State} (hf : c.f 1 0 7 = n)
    (h1 : 1 ≤ n) (h64 : n ≤ 64) (hw : BufTakes s c (c.p 0) (32 * n) w) : bodyFaultRead s c =
      .done (w s ((s.str.faults.take n).flatMap faultBytes)) rcOk
        [(0, BitVec.ofNat 64 (s.str.faults.take n).length)] := by
  have hbad : ¬ (n = 0 || decide (64 < n)) = true := by simp; omega
  simp only [bodyFaultRead, hf, if_neg hbad, hw.withOut_eq]

theorem bodyFaultRead_invalid {s : State} {c : MbCtx} (h : c.f 1 0 7 = 0 ∨ 64 < c.f 1 0 7) :
    bodyFaultRead s c = .done s rcInvalid [] :=
  if_pos (by simpa using h)

/-! ### The end of a fault's requests (R378, R383, R387) -/

/-- What the end of a stream makes of its command (R378). -/
def endedBy (x : Strm) (fail : Option (BitVec 8)) (c : Cmd) : Cmd :=
  if c.phase = .done then c else { c with
    phase := .done, fail := c.fail.orElse (fun _ => fail), ended := true, cnt1 := x.poisoned, cnt2 := x.xfer,
    poison := decide (0 < x.poisoned) || x.discarded }

theorem endedBy_cid (x : Strm) (fail : Option (BitVec 8)) (c : Cmd) : (endedBy x fail c).cid = c.cid := by
  unfold endedBy
  split <;> rfl

theorem endedBy_of_open (x : Strm) {fail : Option (BitVec 8)} {c : Cmd} (hp : c.phase ≠ .done) (hf : c.fail = none) :
    (endedBy x fail c).phase = .done ∧ (endedBy x fail c).fail = fail := by
  rw [endedBy, if_neg hp, hf]
  exact ⟨rfl, rfl⟩

theorem strmEnd_bound {s : State} {n cid : Nat} (h : (strmOf s n).bound = some cid) (fail : Option (BitVec 8)) :
    strmEnd s n fail =
      updCmd (setStrm s n { strmOf s n with st := .running }) cid (endedBy (strmOf s n) fail) := by
  simp only [strmEnd, h]
  rfl

/-- A queue that is not switched out is refreshed alone. -/
theorem switchBack_of_not_switched {s : State} {q : Nat} (h : (qOf s q).st ≠ .switched) :
    switchBack s q = qRefresh s q := by
  simp [switchBack, h]

/-! ### FAULT_RESOLVE (R387) -/

/-- A request that a RETRY released, noted so that its next miss counts as one more (R387). -/
def retryNoted (s : State) (r : FReq) : State := { s with str := { s.str with retried := s.str.retried ++ [r] } }

/-- The fault queue without the entry. -/
def faultClosed (s : State) (f : FaultEnt) : State :=
  { s with str := { s.str with faults := s.str.faults.filter (fun g => g.fid != f.fid) } }

theorem mem_faultClosed {s : State} {f g : FaultEnt} :
    g ∈ (faultClosed s f).str.faults ↔ g ∈ s.str.faults ∧ g.fid ≠ f.fid := by
  simp [faultClosed]

section
variable {s : State} {f : FaultEnt}

theorem faultRelease_retry_one {r : FReq} (h : f.reqs = [r]) : faultRelease s f false = reqRetry (faultClosed s f) r := by
  simp [faultRelease, h, faultClosed]

theorem faultRelease_abort_one {r : FReq} (h : f.reqs = [r]) : faultRelease s f true = reqAbort (faultClosed s f) r := by
  simp [faultRelease, h, faultClosed]

/-- RETRY of a stream whose queue is not switched out: it runs again. -/
theorem faultRelease_retry_stream {n : Nat} (h : f.reqs = [.stream n])
    (hq : (qOf s (strmOf s n).d.queue).st ≠ .switched) : faultRelease s f false =
      qRefresh (setStrm (retryNoted (faultClosed s f) (.stream n)) n { strmOf s n with st := .running })
        (strmOf s n).d.queue := by
  rw [faultRelease_retry_one h]
  exact switchBack_of_not_switched hq

/-- ABORT of a stream whose queue is not switched out: its command ends with status 0x10. -/
theorem faultRelease_abort_stream {n cid : Nat} (h : f.reqs = [.stream n]) (hb : (strmOf s n).bound = some cid)
    (hq : (qOf s (strmOf s n).d.queue).st ≠ .switched) : faultRelease s f true =
      qRefresh (updCmd (setStrm (faultClosed s f) n { strmOf s n with st := .running }) cid
        (endedBy (strmOf s n) (some 0x10))) (strmOf s n).d.queue := by
  have he := strmEnd_bound (s := faultClosed s f) hb (some 0x10)
  rw [faultRelease_abort_one h, reqAbort, he]
  exact switchBack_of_not_switched hq

/-- ABORT of a write or an atomic of a dense engine. -/
theorem faultRelease_abort_cp {x : CpRequest} (h : f.reqs = [.cp x]) (hx : x.op ≠ 0) :
    faultRelease s f true = bump1 (cpDiscard (faultClosed s f) x) ctrChipCpFaultAbort := by
  rw [faultRelease_abort_one h, reqAbort, if_neg hx]

end

theorem not_mem_cpDiscard {s : State} {r : CpRequest} {w : CpRequest × Piece} (h : w ∈ (cpDiscard s r).str.cpWait) :
    w.1.id ≠ r.id := by
  simpa using (List.mem_filter.1 h).2

section
variable {s : State} {c : MbCtx}

theorem bodyFaultResolve_reserved (h : 2 ≤ c.f 0 16 2) : bodyFaultResolve s c = .done s rcInvalid [] := if_pos h

theorem bodyFaultResolve_notOpen (h : c.f 0 16 2 < 2) (hf : s.str.faults.find? (fun f => f.fid == c.f 0 0 16) = none) :
    bodyFaultResolve s c = .done s rcNotFound [] := by
  simp [bodyFaultResolve, Nat.not_le.2 h, hf]

theorem bodyFaultResolve_open {f : FaultEnt} (h : c.f 0 16 2 < 2)
    (hf : s.str.faults.find? (fun f => f.fid == c.f 0 0 16) = some f) :
    bodyFaultResolve s c = .done (faultRelease s f (c.f 0 16 2 == 1)) rcOk [] := by
  simp [bodyFaultResolve, Nat.not_le.2 h, hf]

theorem bodyFaultResolve_retry {f : FaultEnt} (h : c.f 0 16 2 = 0)
    (hf : s.str.faults.find? (fun f => f.fid == c.f 0 0 16) = some f) :
    bodyFaultResolve s c = .done (faultRelease s f false) rcOk [] := by
  rw [bodyFaultResolve_open (by omega) hf, h]
  rfl

theorem bodyFaultResolve_abort {f : FaultEnt} (h : c.f 0 16 2 = 1)
    (hf : s.str.faults.find? (fun f => f.fid == c.f 0 0 16) = some f) :
    bodyFaultResolve s c = .done (faultRelease s f true) rcOk [] := by
  rw [bodyFaultResolve_open (by omega) hf, h]
  rfl

end

section
variable {s : State} {m : MbWrite} {f : FaultEnt} (h : MbStarts rowFaultResolve m s) (hn : s.rc.need = [])
  (hf : s.str.faults.find? (fun f => f.fid == (mbCtx s m).f 0 0 16) = some f)
include h hn hf

theorem faultResolve_retry_stream {n : Nat} (hr : f.reqs = [.stream n])
    (hq : (qOf s (strmOf s n).d.queue).st ≠ .switched) (ha : (mbCtx s m).f 0 16 2 = 0) :
    ∃ t, exec (.faultResolve m) s = .next t ∧ MbEnded s t m.ch rcOk [] ∧ (∀ g ∈ t.str.faults, g.fid ≠ f.fid) ∧
      (∀ g ∈ s.str.faults, g.fid ≠ f.fid → g ∈ t.str.faults) ∧ strmOf t n = { strmOf s n with st := .running } ∧
      t.mem = s.mem ∧ t.rc = s.rc ∧ t.xlt = s.xlt := by
  have hu := faultRelease_retry_stream (s := mbTake s m 0x37) hr hq
  have hb := bodyFaultResolve_retry (s := mbTake s m 0x37) ha hf
  rw [hu] at hb
  refine ⟨_, mbox_done h hb hn, mbEnded_of_chans_mbTake (opc := 0x37) (by rfl) _ _, ?_, ?_, ?_, mbComplete_mem ..,
    mbComplete_rc .., mbComplete_xlt ..⟩
  · rw [mbComplete_str]
    exact fun g hg => (mem_faultClosed (s := s) (f := f).1 hg).2
  · rw [mbComplete_str]
    exact fun g hg hne => mem_faultClosed (s := s) (f := f).2 ⟨hg, hne⟩
  · rw [strmOf, mbComplete_str]
    exact strmOf_setStrm_self ..

theorem faultResolve_abort_stream {n cid : Nat} {c : Cmd} (hr : f.reqs = [.stream n])
    (hq : (qOf s (strmOf s n).d.queue).st ≠ .switched) (ha : (mbCtx s m).f 0 16 2 = 1)
    (hb : (strmOf s n).bound = some cid) (hc : cmdOf s cid = some c) (hp : c.phase ≠ .done) (hfail : c.fail = none) :
    ∃ t u, exec (.faultResolve m) s = .next t ∧ MbEnded s t m.ch rcOk [] ∧ (∀ g ∈ t.str.faults, g.fid ≠ f.fid) ∧
      cmdOf t cid = some u ∧ u.phase = .done ∧ u.fail = some 0x10 ∧ t.mem = s.mem ∧ t.rc = s.rc ∧ t.xlt = s.xlt := by
  have hu := faultRelease_abort_stream (s := mbTake s m 0x37) hr hb hq
  have hbody := bodyFaultResolve_abort (s := mbTake s m 0x37) ha hf
  rw [hu] at hbody
  obtain ⟨hdone, hstatus⟩ := endedBy_of_open (strmOf s n) (fail := some 0x10) hp hfail
  refine ⟨_, endedBy (strmOf s n) (some 0x10) c, mbox_done h hbody hn,
    mbEnded_of_chans_mbTake (opc := 0x37) (by rfl) _ _, ?_, ?_, hdone, hstatus, mbComplete_mem ..,
    mbComplete_rc .., mbComplete_xlt ..⟩
  · rw [mbComplete_str]
    exact fun g hg => (mem_faultClosed (s := s) (f := f).1 hg).2
  · rw [cmdOf_eq_of_orr (mbComplete_orr ..)]
    refine (cmdOf_updCmd_self s cid _ (endedBy_cid _ _)).trans ?_
    rw [hc]
    rfl

theorem faultResolve_abort_cp {x : CpRequest} (hr : f.reqs = [.cp x]) (hx : x.op ≠ 0) (ha : (mbCtx s m).f 0 16 2 = 1) :
    ∃ t, exec (.faultResolve m) s = .next t ∧ MbEnded s t m.ch rcOk [] ∧ (∀ g ∈ t.str.faults, g.fid ≠ f.fid) ∧
      t.ctrs = addCtr s.ctrs ctrChipCpFaultAbort 1 ∧ (∀ w ∈ t.str.cpWait, w.1.id ≠ x.id) ∧ t.str.cpOut = s.str.cpOut ∧
      t.mem = s.mem ∧ t.rc = s.rc ∧ t.xlt = s.xlt := by
  have hbody := bodyFaultResolve_abort (s := mbTake s m 0x37) ha hf
  rw [faultRelease_abort_cp hr hx] at hbody
  refine ⟨_, mbox_done h hbody hn, mbEnded_of_chans_mbTake (opc := 0x37) (by rfl) _ _, ?_, mbComplete_ctrs .., ?_, ?_,
    mbComplete_mem .., mbComplete_rc .., mbComplete_xlt ..⟩
  · rw [mbComplete_str]
    exact fun g hg => (mem_faultClosed (s := s) (f := f).1 hg).2
  · rw [mbComplete_str]
    exact fun w hw => not_mem_cpDiscard (s := s) hw
  · rw [mbComplete_str]
    rfl

end

/-- Settles O22: each command's own part in closed form, and what releasing the one request of a fault leaves. -/
theorem faultCommandsTakeEffect : Obligations.FaultCommandsTakeEffect := by
  refine ⟨?read, ?readInvalid, ?notResolved, ?resolved, ?stream, ?cp⟩
  case read =>
    intro s m n w h hf h1 h64 hw hn
    exact mbox_done h (bodyFaultRead_ok hf h1 h64 hw) hn
  case readInvalid =>
    intro s m h hn hf
    exact mbox_done h (bodyFaultRead_invalid hf) hn
  case notResolved =>
    intro s m h hn
    exact ⟨fun ha => mbox_done h (bodyFaultResolve_reserved ha) hn,
      fun ha hf => mbox_done h (bodyFaultResolve_notOpen (s := mbTake s m 0x37) ha hf) hn⟩
  case resolved =>
    rintro s u m f h ha hf rfl hn
    exact mbox_done h (bodyFaultResolve_open (s := mbTake s m 0x37) ha hf) hn
  case stream =>
    intro s m f n h hn hf hr hq
    exact ⟨fun ha => faultResolve_retry_stream h hn hf hr hq ha,
      fun cid c ha hb hc hp hfail => faultResolve_abort_stream h hn hf hr hq ha hb hc hp hfail⟩
  case cp =>
    intro s m f x h hn hf hr hx ha
    exact faultResolve_abort_cp h hn hf hr hx ha

end Sys2Proof.Machine
end

section
/-! PROOFS. Stream events: a fault entry granted to a stalled request that switches a queue out (R353, R383, R384). -/

namespace Sys2Proof.Machine

/-- No event leaves a back-invalidate due (R353). -/
theorem act_need {s t : State} {f : State → State} (hn : s.rc.need = []) (h : act s f = .next t) : t.rc.need = [] := by
  cases h
  split
  · exact hn
  · exact settleIn_need hn _

theorem exec_faultEntryGrant (s : State) : exec .faultEntryGrant s = act s faultGrant := rfl

namespace SwitchedOut

/-- The one request that has stalled in `state`: it takes a new entry, since no fault is open. -/
def waiting : Stalled := { addr := 0, right := 0, lc := false, engine := 0, req := .stream 0 }

theorem waiting_next :
    state.str.stalled.find? (fun x => x.lc && ((faultFor state x.addr).isSome || faultRoom state x.lc)) = none ∧
    state.str.stalled.find? (fun x => !x.lc && ((faultFor state x.addr).isSome || faultRoom state x.lc)) = some waiting ∧
    faultFor state waiting.addr = none := by
  decide +kernel

/-- The entry switches queue 0 out, and what its unit drains reads line 0, which the host owns. -/
theorem faultAlloc_needs_backInvalidate :
    (faultAlloc { state with str := { state.str with stalled := state.str.stalled.filter (fun y => y != waiting) } }
      waiting.addr waiting.right waiting.lc waiting.engine waiting.req).rc.need ≠ [] := by
  decide +kernel

end SwitchedOut

/-- Refutes O49: the clause on a stalled request says nothing of back-invalidates. The request is a stream's, and the fault
mode of its queue is SWITCH; the entry that it obtains switches the queue's task out, the read that its unit drains needs a
line that the host owns, and so the event waits in the state before it, where the clause has it take place. -/
theorem not_streamEventsTakeEffect : ¬ Obligations.StreamEventsTakeEffect := by
  rintro ⟨-, -, -, hgrant, -⟩
  obtain ⟨hs, -, -, -, hn, -⟩ := SwitchedOut.state_serves
  obtain ⟨hlc, hbe, hnone⟩ := SwitchedOut.waiting_next
  obtain ⟨-, htake⟩ := hgrant SwitchedOut.state hs hn
  obtain ⟨-, halloc⟩ := htake SwitchedOut.waiting _ (.inr ⟨hlc, hbe⟩) rfl
  have hnext := halloc hnone
  rw [exec_faultEntryGrant] at hnext
  exact SwitchedOut.faultAlloc_needs_backInvalidate (act_need hn hnext)

end Sys2Proof.Machine
end

section
/-! PROOFS. The stopped block (R516, R558): what each form of a meaning does while the block is stopped, and that no
command but a reset or a lock of the PLL moves it. -/

namespace Sys2Proof.Machine

/-- `t` is `s` but for what a stopped block may move; it waits with the same commands, and its clocks stay as they were or
have lost lock. -/
structure Still (s t : State) : Prop where
  undo : stoppedUndo s t = s
  pending : t.pending = s.pending
  lock : t.pwr.pllLock = s.pwr.pllLock
  lost : s.pwr.pllLost = true → t.pwr.pllLost = true

/-- The outcome is a next state in which the stopped block stands still. -/
def StandsStill (s : State) (o : Host.Outcome State Fault Refusal) : Prop := ∃ t, o = .next t ∧ Still s t

namespace Still

theorem refl (s : State) : Still s s := ⟨rfl, rfl, rfl, id⟩

/-- Counters, free values, the host port and the link layer may move. -/
theorem of_ports {s : State} (c : FMap Nat) (f : Nat) (h : HostPort) (l : FMap Link) :
    Still s { s with ctrs := c, frees := f, hp := h, tr := { s.tr with links := l } } := ⟨rfl, rfl, rfl, id⟩

theorem bump1 (s : State) (k : Nat) : Still s (bump1 s k) := ⟨rfl, rfl, rfl, id⟩

theorem frozen {s t : State} (h : Still s t) : t.err.frozen = s.err.frozen :=
  congrArg (fun u => u.err.frozen) h.undo

theorem stopped {s t : State} (h : Still s t) (hs : stopped s = true) : stopped t = true := by
  simp only [Machine.stopped, h.frozen, h.lock, Bool.or_eq_true] at hs ⊢
  exact hs.imp id h.lost

theorem standsStill {s t : State} (h : Still s t) : StandsStill s (.next t) := ⟨t, rfl, h⟩

end Still

theorem snoopLine_still (s : State) (k : Snoop) (x : Nat) : Still s (snoopLine s k x) := by
  unfold snoopLine
  split
  · exact .of_ports _ _ _ _
  · next key l _ =>
    cases k
    all_goals
      cases hm : l.st == .modified
      · exact .of_ports _ _ _ _
      · exact .of_ports _ _ _ _

theorem frozenFlit_still (s : State) (l : Nat) (f : TFlit) : Still s (frozenFlit s l f) := by
  simp only [frozenFlit]
  split
  · exact .refl s
  · exact .of_ports _ _ _ _

theorem writeId_frz_still (s : State) (v : W64) : Still s (writeId s true 0x20 v) := ⟨rfl, rfl, rfl, id⟩

theorem pllLockLoss_standsStill (s : State) : StandsStill s (execPllLockLoss s) := by
  unfold execPllLockLoss
  split
  · exact Still.standsStill ⟨rfl, rfl, rfl, fun _ => rfl⟩
  · exact (Still.refl s).standsStill

theorem freezeSettled_standsStill (s : State) : StandsStill s (execFreezeSettled s) := by
  unfold execFreezeSettled
  split
  · exact Still.standsStill ⟨rfl, rfl, rfl, id⟩
  · exact (Still.refl s).standsStill

section
variable {s : State} (hs : stopped s = true)
include hs

theorem act_standsStill (f : State → State) : StandsStill s (act s f) := ⟨s, act_stopped hs, .refl s⟩

theorem actKeep_standsStill (h : Held) (f : State → State) : StandsStill s (actKeep s h f) :=
  ⟨s, actKeep_stopped hs, .refl s⟩

/-- A stopped block counts the access if it is frozen, and does nothing otherwise. -/
theorem refused_standsStill (k : Nat) (u : State) :
    StandsStill s (.next (if s.err.frozen then bump1 s k else if stopped s then s else u)) := by
  rw [if_pos hs]
  split
  · exact (Still.bump1 s k).standsStill
  · exact (Still.refl s).standsStill

theorem hostAct_standsStill (f : State → State) : StandsStill s (hostAct s f) := refused_standsStill hs _ _

theorem barAct_standsStill (off : Nat) (ws : List W64) (f : State → State) : StandsStill s (barAct s off ws f) :=
  refused_standsStill hs _ _

theorem mbox_standsStill (r : MbRow) (body : State → MbCtx → MbOut) (m : MbWrite) : StandsStill s (mbox r body m s) :=
  refused_standsStill hs _ _

theorem mbAccess_standsStill (m : MbWrite) (opc : Nat) : StandsStill s (mbAccess s m opc) := refused_standsStill hs _ _

theorem portKeep_standsStill (h : Held) (w : Bool) (n : Nat) (f : State → State) :
    StandsStill s (portKeep s h w n f) := by
  unfold portKeep frozenAccess
  rw [if_pos hs]
  split
  · cases w
    · exact (Still.of_ports _ _ _ _).standsStill
    · exact (Still.bump1 s _).standsStill
  · exact (Still.refl s).standsStill

theorem msixVectorUnmask_standsStill (v : Fin 81) : StandsStill s (execMsixVectorUnmask v s) := by
  unfold execMsixVectorUnmask
  exact barAct_standsStill hs _ _ _

theorem windowAccess_standsStill (a : HostAccess) : StandsStill s (execWindowAccess a s) := by
  unfold execWindowAccess
  exact portKeep_standsStill hs _ _ _ _

theorem bar4Access_standsStill (a : HostAccess) : StandsStill s (execBar4Access a s) := by
  unfold execBar4Access
  exact portKeep_standsStill hs _ _ _ _

theorem remoteArrive_standsStill (r : Nat) (f : TMsg) (g : Option RWindow → State → State) :
    StandsStill s (remoteArrive r f g s) := by
  unfold remoteArrive
  exact actKeep_standsStill hs _ _

theorem memArrive_standsStill (a : Nat) (w : Bool) (h : Nat → Held) (f : Nat → State → State) :
    StandsStill s (memArrive a w h f s) := by
  unfold memArrive
  split
  · exact portKeep_standsStill hs _ _ _ _
  · exact portKeep_standsStill hs _ _ _ _

theorem hostSnoop_standsStill (k : Snoop) (a : Nat) : StandsStill s (execHostSnoop k a s) := by
  unfold execHostSnoop
  rw [if_pos hs]
  split
  · exact (snoopLine_still s k _).standsStill
  · exact (Still.refl s).standsStill

theorem linkAct_standsStill {f : State → State} (hf : Still s (f s)) (g : State → State) :
    StandsStill s (linkAct s f g) := by
  unfold linkAct
  split
  · exact hf.standsStill
  · exact act_standsStill hs g

theorem transitNak_standsStill (l : Fin 48) (sent : Bool) : StandsStill s (execTransitNak l sent s) := by
  unfold execTransitNak
  refine linkAct_standsStill hs ?_ _
  dsimp only
  split
  · exact .refl s
  · cases sent
    · exact .of_ports _ _ _ _
    · exact .of_ports _ _ _ _

theorem doorbell_standsStill (q : Fin 64) (d : DbWrite) : StandsStill s (execDoorbell q d s) := by
  simp only [execDoorbell, hs, Bool.not_true, Bool.false_and, Bool.false_eq_true, if_false]
  split
  · exact barAct_standsStill hs _ _ _
  · exact barAct_standsStill hs _ _ _

theorem registerWrite_standsStill (b : Bool) (off : Nat) (ws : List W64) :
    StandsStill s (execRegisterWrite b off ws s) := by
  unfold execRegisterWrite regFrozen
  rw [if_pos hs]
  split_ifs
  · exact (Still.refl s).standsStill
  · exact (writeId_frz_still s _).standsStill
  · exact (Still.bump1 s _).standsStill
  · exact (Still.refl s).standsStill

end

/-- A stopped block stands still under every command but a reset and a lock of the PLL, form by form of the meanings. -/
theorem exec_standsStill {s : State} (hs : stopped s = true) (c : Instr) (hr : isReset c = false) (hl : c ≠ .pllLock) :
    StandsStill s (exec c s) := by
  cases c
  case pllLock => exact absurd rfl hl
  case powerOnReset | resetLineFull | resetLineFullSr | resetLineRestart => simp [isReset] at hr
  case pllLockLoss => exact pllLockLoss_standsStill s
  case freezeSettled => exact freezeSettled_standsStill s
  case identify | eventRead | counterRead | bindChannel | lockBindings | loadCodebook | defineTable | loadImage |
      dumpTable | bindTable | dropTable | tableParams | loadProg | loadPset | freezeRow | setSkewPolicy | levelRow |
      releaseMap | setSplitGroup | setScrubPolicy | setLayout | setMemSplit | setMemPolicy | setStripe | memHealth |
      cacheMaint | cacheDisable | cacheEnable | setRange | invalidateRange | armStream | disarmStream | streamQuery |
      setStreamPolicy | faultRead | faultResolve | openAperture | closeAperture | setPlaceRegion | setHostPath |
      hostAttach | readHostLog | setFabricId | setRoute | setTransitPolicy | setRemoteSlot | setRemoteWindow |
      queueConfig | queueAbort | planStore | planPatch | planDrop | taskConfig | setMigPolicy | park | setPowerCap |
      blockRestart =>
    unfold exec
    exact mbox_standsStill hs _ _ _
  case mailboxReservedOpcode | mailboxOverrun => unfold exec; exact mbAccess_standsStill hs _ _
  case qcackWrite | semValWrite | semAddWrite | hwWinWrite => unfold exec; exact barAct_standsStill hs _ _ _
  case doorbell => unfold exec; exact doorbell_standsStill hs _ _
  case registerWrite => unfold exec; exact registerWrite_standsStill hs _ _ _
  case msixVectorUnmask => exact msixVectorUnmask_standsStill hs _
  case windowAccess => exact windowAccess_standsStill hs _
  case bar4Access => exact bar4Access_standsStill hs _
  case cxlMemRead | cxlMemOwn | cxlMemWrite => unfold exec; exact memArrive_standsStill hs _ _ _ _
  case hdmCommit => unfold exec; exact hostAct_standsStill hs _
  case hostSnoop => unfold exec; exact hostSnoop_standsStill hs _ _
  case chipPortRequest => unfold exec; exact actKeep_standsStill hs _ _
  case remoteRd | remoteWr | remoteAt => unfold exec; exact remoteArrive_standsStill hs _ _ _
  case transitFlit => unfold exec; exact linkAct_standsStill hs (frozenFlit_still s _ _) _
  case transitNak => unfold exec; exact transitNak_standsStill hs _ _
  case firmwareLoad | merHeartTick | sl1Entry | stackJoin | sl3Transition | cacheDisableDone | streamRearmTake |
      parkEntryEnd | wakeLine | wakeComplete | powerControlInterval | railAlert | sensorTemperature |
      blockRestartEnd | chipPortDoorbell | queueWake | chipPortSemaphore | queueFetch | queueReservedOpcode |
      commandCompletion | interruptDelayExpiry | semWait | semWaitRelease | semSignal | fence | launch |
      planNodeDispatch | taskTrigger | workUnitDispatch | timeSliceExpiry | preemptL2 | unitRestore | hangCheck |
      lookup | lookupFanOut | positionIntake | gcqGrant | probeReturn | rowDataArrival | groupClose | bagRelease |
      segmentFold | fanInRecord | scatter | scatterRequest | scatterPoolReserve | ready | refuse | cancel |
      gradientIntake | gradientSlice | expansionUnit | contributionRecord | runSort | mergeEntryGrant |
      deliverySend | commitHoldRelease | commitReport | skewLogHandoff | scrubRow | update | updateEngineTake |
      batchEnd | setServe | reseed | requant | levelStep | loadCtx | loadProgFrame | loadPsetFrame | loadCb |
      companionRd | slotRd | companionWr | wrMask | srEnter | srExit | health | updAck | copy | batchDone |
      commitLog | rdData | wrAck | srDone | healthData | companionReservedFrame | companionFlitNak |
      companionPortRetrain | replace | replaceRun | swapVersion | swapCommit | tombstoneRetiring | tombstoneClear |
      install | promote | demote | move | reclass | pin | epochClose | qpForcedDrain | mwRollover | homeSliceAccess |
      backInvalidateAnswer | dramReadReturn | rowRemap | patrolRead | refresh | translationFill | faultEntryGrant |
      streamEntry | linkWaitRelease | waitGroupCheck | prefetch | advise | chipPortData | hostReadCompletion |
      hostPathLoss | hostPathCleaned | hostLinkRecovery | transitRetrain | lossReport | transitReservedMessage |
      foReq | foGrant | foDeny | fanInWindowReserve | window | remoteData | remoteAck | remoteErr | tileParityError |
      internalError | meridianSramError | freezeLine | freezeOnEvent | stackAbsent | linkRecoveryEnd |
      cxlCacheWriteCompletion | almanacScan | poolAudit =>
    unfold exec
    exact act_standsStill hs _

theorem tick_stopped {s : State} (hs : stopped s = true) : tick s = s := if_pos hs

/-- Settles O51: a lock of the PLL moves a frozen block's clock input alone, and every other command leaves it standing. -/
theorem frozenBlockKeepsItsState : Obligations.FrozenBlockKeepsItsState := by
  intro c s hf hr
  by_cases hl : c = .pllLock
  · subst hl
    show ∃ t, execPllLock s = .next t ∧ _
    unfold execPllLock
    split
    · exact ⟨s, rfl, rfl, hf⟩
    · exact ⟨_, rfl, rfl, hf⟩
  · obtain ⟨t, ht, hk⟩ := exec_standsStill (stopped_of_frozen hf) c hr hl
    exact ⟨t, ht, hk.undo, hk.frozen.trans hf⟩

/-- Settles O52: an ACLK of a stopped block passes without effect, and a command leaves it standing, with the rest of its
queue waiting. -/
theorem stoppedBlockStaysStopped : Obligations.StoppedBlockStaysStopped := by
  rintro s t ⟨hs, hp⟩ ht
  cases hq : s.pending with
  | nil =>
    simp only [step, hq, tick_stopped hs, Host.Outcome.next.injEq] at ht
    subst ht
    exact ⟨⟨hs, hp⟩, rfl⟩
  | cons c rest =>
    rw [hq] at hp
    obtain ⟨hr, hl⟩ := hp c List.mem_cons_self
    obtain ⟨u, hu, hk⟩ := exec_standsStill (s := { s with pending := rest }) hs c hr hl
    simp only [step, hq, hu, Host.Outcome.next.injEq] at ht
    subst ht
    refine ⟨⟨hk.stopped hs, fun d hd => hp d (List.mem_cons_of_mem c ?_)⟩, ?_⟩
    · rwa [hk.pending] at hd
    · exact congrArg (fun v => { v with pending := s.pending }) hk.undo

/-- Settles O53: the reset state has its PLL unlocked and no command waiting. -/
theorem resetStateIsStopped : Obligations.ResetStateIsStopped :=
  ⟨⟨rfl, fun _ hc => nomatch hc⟩, fun c hr hl => ⟨rfl, fun d hd => by
    rw [List.mem_singleton.mp hd]
    exact ⟨hr, hl⟩⟩⟩

end Sys2Proof.Machine
end

section
/-! PROOFS. Resets, clocks, firmware, power inputs and Park (R482, R484, R514, R516, R519 to R534). -/

namespace Sys2Proof.Machine

/-! ### The state after power-on reset (R532, R535) -/

theorem chanOf_reset (c : Fin 16) : chanOf State.reset c = Chan.reset c := rfl

/-- Settles O2, each part from the reset value of its unit. -/
theorem resetStateHolds : Obligations.ResetStateHolds := by
  refine ⟨rfl, rfl, rfl, rfl, rfl, rfl, rfl, rfl, rfl, rfl, rfl, rfl, rfl, rfl, rfl, rfl, rfl, rfl, rfl, rfl, rfl, ?_, ?_,
    ?_, ?_, ?_, ?_⟩
  case refine_5 =>
    intro c
    rw [chanOf_reset]
    fin_cases c <;> rfl
  case refine_6 => exact fun _ => ⟨rfl, rfl⟩
  all_goals exact fun _ => rfl

/-! ### Block resets (R532 to R534) -/

/-- Nothing is written back where no line is DIRTY. -/
theorem writeBackAll_of_clean {s : State} (h : ∀ e ∈ s.rc.lines, e.2.dirty = false) : writeBackAll s = s := by
  unfold writeBackAll
  refine List.foldlRecOn (motive := fun t => t = s) _ _ rfl fun t ht e he => ?_
  rw [h e he]
  exact ht

/-- Without a line that the host owns, only the snoop filters are emptied. -/
theorem poisonOwned_of_none {s : State} (h : ∀ e ∈ s.rc.snoop, e.2 = false) :
    poisonOwned s = { s with rc := { s.rc with snoop := [], biSent := [] } } := by
  have hown : s.rc.snoop.filter (fun e => e.2) = [] := by simpa using h
  simp only [poisonOwned, hown]
  rfl

/-- Settles O3: each reset in closed form; one in mode FULL_SR finds nothing to write back or to poison. -/
theorem blockResetsTakeEffect : Obligations.BlockResetsTakeEffect := by
  refine ⟨fun _ => rfl, fun _ _ => rfl, fun s h => ?_, fun s hlost hlock hclean hown => ?_⟩
  · have hu : (s.pwr.pllLost || !s.pwr.pllLock) = true := by simpa using h
    exact congrArg Host.Outcome.next (if_pos hu)
  · have hu : ¬ (s.pwr.pllLost || !s.pwr.pllLock) = true := by simp [hlost, hlock]
    have hpo := poisonOwned_of_none hown
    have hwb : writeBackAll (poisonOwned s) = { s with rc := { s.rc with snoop := [], biSent := [] } } := by
      rw [hpo]
      exact writeBackAll_of_clean (s := { s with rc := { s.rc with snoop := [], biSent := [] } }) hclean
    refine ⟨resetFullSr s, congrArg Host.Outcome.next (if_neg hu), ?_⟩
    simp only [resetFullSr, hwb]
    simp [resetFull, hlost, hlock, State.reset, Cache.reset]

/-! ### Clocks (R514, R516) -/

/-- Settles O4, by the two branches of each event; a loss of lock asserts the error line and stops the block. -/
theorem clockEventsTakeEffect : Obligations.ClockEventsTakeEffect := by
  refine ⟨fun s h => ?_, fun s h => ?_, fun s h => ?_, fun s h => ?_⟩
  · exact congrArg Host.Outcome.next (if_neg (by simp [h]))
  · exact congrArg Host.Outcome.next (if_pos h)
  · refine ⟨_, congrArg Host.Outcome.next (if_pos h), rfl, ?_, rfl⟩
    simp [stopped]
  · exact congrArg Host.Outcome.next (if_neg (by simp [h]))

/-! ### Firmware (R482, R484) -/

/-- Starting Meridian touches Meridian, the stripe map, the row cache's hash seed and the count of draws alone. -/
theorem merStart_frame (s : State) : ∃ m c x n, m.running = true ∧ m.halted = false ∧
    merStart s = { s with mer := m, mc := c, rc := { s.rc with seed := x }, draws := n } := by
  dsimp only [merStart]
  split
  · exact ⟨_, _, _, _, rfl, rfl, rfl⟩
  · exact ⟨_, _, _, _, rfl, rfl, rfl⟩

/-- Settles O5: an image that starts Meridian by what `merStart` touches, the other events by their conditions. -/
theorem firmwareEventsTakeEffect : Obligations.FirmwareEventsTakeEffect := by
  refine ⟨fun s image hs hn hr hi => ?_, fun s image hs hn h => ?_, fun s hs hn hm => ?_, fun s hs hn hm => ?_⟩
  · obtain ⟨m, c, x, n, hrun, hhalt, ht⟩ := merStart_frame s
    have hu : ¬ (s.mer.running || !imageOk image) = true := by simp [hr, hi]
    refine ⟨{ s with mer := m, mc := c, rc := { s.rc with seed := x }, draws := n }, ?_, ?_, rfl, rfl, rfl, rfl, rfl, rfl, rfl, rfl, rfl⟩
    · unfold exec execFirmwareLoad
      exact act_eq_next hs ((if_neg hu).trans ht) hn
    · simp [merUp, hrun, hhalt]
  · have hu : (s.mer.running || !imageOk image) = true := by
      rcases h with h | h
      · simp [h]
      · simp [h]
    unfold exec execFirmwareLoad
    exact act_eq_next hs (if_pos hu) hn
  · exact act_eq_next hs (if_pos hm) hn
  · exact act_eq_next hs (if_neg (by simp [hm])) hn

/-! ### Power, rail and temperature inputs (R527, R528, R530) -/

/-- A sensor's temperature bounds the highest one from below (R530). -/
theorem le_maxTemp {p : Pwr} {c : Nat} (h : c ∈ p.temps) : c ≤ maxTemp p := by
  have hfold : ∀ (l : List Nat) (n : Nat), n ≤ l.foldl max n ∧ ∀ x ∈ l, x ≤ l.foldl max n := by
    intro l
    induction l with
    | nil => exact fun n => ⟨le_rfl, fun x hx => nomatch hx⟩
    | cons y l ih =>
      intro n
      obtain ⟨h1, h2⟩ := ih (max n y)
      refine ⟨(le_max_left n y).trans h1, fun x hx => ?_⟩
      rcases List.mem_cons.mp hx with rfl | hx
      · exact (le_max_right n x).trans h1
      · exact h2 x hx
  exact (hfold p.temps 0).2 c h

theorem le_throttle_of_hot {p : Pwr} {c : Nat} (h : c ∈ p.temps) (hc : 105 ≤ c) : 8 ≤ throttle p := by
  have hm := le_maxTemp h
  unfold throttle
  split_ifs <;> omega

theorem le_throttle_of_hottest {p : Pwr} {c : Nat} (h : c ∈ p.temps) (hc : 115 ≤ c) : 15 ≤ throttle p := by
  have hm := le_maxTemp h
  rw [throttle, if_pos (hc.trans hm)]
  omega

theorem le_throttle_of_rail {p : Pwr} (h : (p.railAlert || p.railHold) = true) : 12 ≤ throttle p := by
  rw [throttle, if_pos h]
  omega

theorem freezeOn_off {s : State} {b : Nat} (h : s.err.frzCtrl.getLsbD b = false) (c : BitVec 3) (u : BitVec 8) :
    freezeOn s b c u = s := by
  simp [freezeOn, h]

theorem freezeOn_on {s : State} {b : Nat} (h : s.err.frzCtrl.getLsbD b = true) (hf : s.err.frozen = false) (c : BitVec 3)
    (u : BitVec 8) : freezeOn s b c u = freeze s c u := by
  simp [freezeOn, h, hf]

/-- Settles O7: the cap by its own part of the command, each input in closed form, the levels by what `throttle` takes the
maximum of. -/
theorem powerInputsTakeEffect : Obligations.PowerInputsTakeEffect := by
  refine ⟨?cap, ?refused, ?interval, ?asserted, ?released, ?holdOver, ?warm, ?trip⟩
  case cap =>
    intro s m h hn hlo hhi
    refine mbox_done (t := { mbTake s m 0x72 with pwr := { s.pwr with cap := (mbCtx s m).f 0 0 9 } }) h ?_ hn
    have hu : ¬ (decide ((mbCtx s m).f 0 0 9 < 100) || decide (340 < (mbCtx s m).f 0 0 9)) = true := by
      simp [hlo, hhi]
    exact if_neg hu
  case refused =>
    intro s m h hn hw
    refine mbox_done (t := mbTake s m 0x72) h ?_ hn
    have hu : (decide ((mbCtx s m).f 0 0 9 < 100) || decide (340 < (mbCtx s m).f 0 0 9)) = true := by simpa using hw
    exact if_pos hu
  case interval =>
    intro s e hs hn
    unfold exec
    exact act_eq_next hs rfl hn
  case asserted =>
    intro s hs hn
    refine ⟨{ s with pwr := { s.pwr with railAlert := true, railHold := true } }, ?_, rfl, le_throttle_of_rail rfl⟩
    unfold exec
    exact act_eq_next hs rfl hn
  case released =>
    intro s hs hn
    refine ⟨{ s with pwr := { s.pwr with railAlert := false } }, ?_, rfl, fun h => le_throttle_of_rail (by simp [h])⟩
    unfold exec
    exact act_eq_next hs rfl hn
  case holdOver =>
    intro s hs hn
    unfold exec
    exact act_eq_next hs rfl hn
  case warm =>
    intro s i c hs hn hlen hq
    have hmem : c.toNat ∈ s.pwr.temps.set i.val c.toNat := List.mem_set (by omega) c.toNat
    refine ⟨{ s with pwr := { s.pwr with temps := s.pwr.temps.set i.val c.toNat,
                                         trip := s.pwr.trip || decide (120 ≤ c.toNat) } }, ?_, rfl, fun h => le_throttle_of_hot hmem h,
      fun h => le_throttle_of_hottest hmem h, fun h => by simp [errLine, h]⟩
    unfold exec execSensorTemperature
    refine act_eq_next hs ?_ hn
    rcases hq with hq | hq
    · exact if_neg (by omega)
    · exact ite_eq_right_iff.mpr fun _ => freezeOn_off (by exact hq) _ _
  case trip =>
    intro s i c hs hn hc hq
    unfold exec execSensorTemperature
    refine act_eq_next hs ?_ hn
    simp [hc, freezeOn_on, hq, not_frozen_of_live hs, freeze]

/-! ### Park (R519, R520, R522, R523) -/

/-- With no write waiting for a fill, no fill takes place at the end of entry. -/
theorem takeFills_of_no_write {s : State} (h : ∀ x ∈ s.rc.mshr, x.acc.write = false) :
    takeFills s (fun x => s.rc.mshr.any (fun m => m.x == x && m.acc.write)) = s := by
  have hnone : ∀ x, s.rc.mshr.any (fun m => m.x == x && m.acc.write) = false := by
    intro x
    simp only [List.any_eq_false]
    intro m hm
    simp [h m hm]
  simp [takeFills, hnone]

theorem parkQuiet_mbTake (s : State) (m : MbWrite) (o : Nat) : parkQuiet (mbTake s m o) = parkQuiet s := rfl

/-- The block as the end of entry leaves it where no write waits for a fill: the tiles gated, the memories in self-refresh,
and no class-L command running. -/
def gated (s : State) : State :=
  { s with
    pwr := { s.pwr with park := if s.pwr.wakeHeld then .waking else .parked, wakeHeld := false },
    mer := { s.mer with lruns := [] },
    alm := { s.alm with hints := [], hintTrees := [] },
    xlt := { s.xlt with caches := [] },
    str := { s.str with detectors := [], prefetched := [] },
    tiles := [],
    rc := { s.rc with mshr := [], mret := [] },
    mc := { s.mc with selfRef := true },
    ly := mmap s.ly (fun k l => { l with selfRef := portUp s k || l.selfRef }) }

/-- Settles O8: PARK by its own part, the end of entry and the wake in closed form. -/
theorem parkAndWakeTakeEffect : Obligations.ParkAndWakeTakeEffect := by
  refine ⟨?park, ?busy, ?entered, ?wakes, ?held, ?noWake, ?woken⟩
  case park =>
    intro s m h hn hq
    refine mbox_wait (t := { mbTake s m 0x71 with pwr := { s.pwr with park := .entering, wakeHeld := false } }) h ?_ hn
    exact if_neg (by simp [parkQuiet_mbTake, hq])
  case busy =>
    intro s m h hn hq
    refine mbox_done (t := mbTake s m 0x71) h ?_ hn
    exact if_pos (by simp [parkQuiet_mbTake, hq])
  case entered =>
    intro s ch hs hn hp hl hw
    have hfill := takeFills_of_no_write hw
    have hly : ∀ k l, mget? s.ly k = some l → l.lanes ≠ 0 →
        mget? (gated s).ly k = some { l with selfRef := true } := by
      intro k l hk hlanes
      have hport : portUp s k = true := by simp [portUp, mget, hk, hlanes]
      simp [gated, mget?_mmap, hk, hport]
    have hend : parkEntryEnd s = mbComplete (gated s) ch rcOk [] := by
      simp only [parkEntryEnd, hp, hfill, bne_self_eq_false, Bool.false_eq_true, if_false]
      refine (endRuns_alone (r := .park ch) ?_ ?_ _ _ _).trans rfl
      · exact hl
      · rfl
    refine ⟨_, act_eq_next hs hend (by simp [gated, hn]), ?_, ?_, MbDone_mbComplete _ ch _ _, ?_⟩
    · simp [gated]
    · simp [gated]
    · simpa [gated] using hly
  case wakes =>
    intro s hs hn hp
    exact act_eq_next hs (by simp [wakeUp, hp]) hn
  case held =>
    intro s hs hn hp
    exact act_eq_next hs (by simp [wakeUp, hp]) hn
  case noWake =>
    intro s hs hn hp
    refine act_eq_next hs ?_ hn
    rcases hp with hp | hp
    · simp [wakeUp, hp]
    · simp [wakeUp, hp]
  case woken =>
    intro s hs hn hp hheld hr
    refine act_eq_next hs ?_ hn
    simp [wakeComplete, hp, hheld, hr, serveAll, live, startOrdered]

end Sys2Proof.Machine
end

section
/-! PROOFS. Writes of MB_CMD whatever their command (R410, R482, R487, R490, R492, R497, R558). -/

namespace Sys2Proof.Machine

section
variable {s t : State} {m : MbWrite} {r : MbRow} {body : State → MbCtx → MbOut} {opc : Nat}

theorem mbFind_opc (h : mbFind opc = some (r, body)) : r.opc = opc := by
  simpa using List.find?_some h

/-- The host's write waits behind its earlier posted writes, and the management port's behind none (R410). -/
theorem mbBehind_eq_false (h : m.mgmt = true ∨ mbBehind s m opc = false) : mbBehind s m opc = false := by
  rcases h with h | h
  · simp [mbBehind, h]
  · exact h

/-! ### Writes that start no command -/

theorem mboxF_refused (h : mbRefuse s m = some t) : mboxF r body m s = t := by
  simp [mboxF, h]

theorem mbReserved_refused (h : mbRefuse s m = some t) : mbReserved s m opc = t := by
  simp [mbReserved, h]

theorem mboxF_halted (h : mbRefuse s m = none) (hh : s.mer.halted = true) : mboxF r body m s = mbTake s m r.opc := by
  simp [mboxF, h, hh]

theorem mbReserved_halted (h : mbRefuse s m = none) (hh : s.mer.halted = true) :
    mbReserved s m opc = mbTake s m opc := by
  simp [mbReserved, h, hh]

/-- Without firmware, and with nothing that would keep the command, its checks end it (R482). -/
theorem mboxF_unloaded (h : mbRefuse s m = none) (hh : s.mer.halted = false) (hr : s.mer.running = false)
    (hp : s.pwr.park = .running) (hre : s.pwr.restart = .none) (hl : s.mer.lruns = []) (hheld : s.pwr.held = []) :
    mboxF r body m s = mbEnds s m r.opc rcLevel [] := by
  simp [mboxF, h, hh, hr, hp, hre, hl, hheld, fsBusy, lCount, keptL, mbRun, mbChecks, mbEnds]

theorem mbReserved_unloaded (h : mbRefuse s m = none) (hh : s.mer.halted = false) (hr : s.mer.running = false) :
    mbReserved s m opc = mbEnds s m opc rcLevel [] := by
  simp [mbReserved, h, hh, hr, mbEnds]

theorem mbReserved_running (h : mbRefuse s m = none) (hh : s.mer.halted = false) (hr : s.mer.running = true) :
    mbReserved s m opc = mbEnds s m opc rcUnknown [] := by
  simp [mbReserved, h, hh, hr, mbEnds]

theorem mbRefuse_denied (h : mbMaster s m = false) : mbRefuse s m = some (bumpIf s (!m.mgmt) ctrChipMbDeny) := by
  simp [mbRefuse, h]

theorem mbRefuse_busy (h : mbMaster s m = true) (hb : (chanOf s m.ch).busy = true) :
    mbRefuse s m = some (bump1 (setChan s m.ch { chanOf s m.ch with ovr := true }) (ctrMbMbOvr m.ch)) := by
  simp [mbRefuse, h, hb]

/-! ### Every mailbox row is such a write -/

theorem mbAccess_next (hs : stopped s = false) (hb : mbBehind s m opc = false) :
    mbAccess s m opc = .next (mbWrite s m opc) := by
  simp [mbAccess, not_frozen_of_live hs, hs, hb]

theorem mbox_next (hs : stopped s = false) (hb : mbBehind s m r.opc = false) :
    mbox r body m s = .next (settleIn (mbKept r m s) (mboxF r body m s)) := by
  simp [mbox, not_frozen_of_live hs, hs, hb]

/-- The meaning of a mailbox write is that of its row, or of a write with any opcode. -/
theorem exec_mailboxWrite {i : Instr} (hi : mailboxWrite i = some (m, opc)) (s : State) :
    (∃ r body, r.opc = opc ∧ exec i s = mbox r body m s) ∨ exec i s = mbAccess s m opc := by
  cases i
  case mailboxReservedOpcode | mailboxOverrun =>
    simp only [mailboxWrite, Option.some.injEq, Prod.mk.injEq] at hi
    obtain ⟨rfl, rfl⟩ := hi
    exact .inr rfl
  case identify | eventRead | counterRead | bindChannel | lockBindings | loadCodebook | defineTable | loadImage |
      dumpTable | bindTable | dropTable | tableParams | loadProg | loadPset | freezeRow | setSkewPolicy | levelRow |
      releaseMap | setSplitGroup | setScrubPolicy | setLayout | setMemSplit | setMemPolicy | setStripe | memHealth |
      cacheMaint | cacheDisable | cacheEnable | setRange | invalidateRange | armStream | disarmStream | streamQuery |
      setStreamPolicy | faultRead | faultResolve | openAperture | closeAperture | setPlaceRegion | setHostPath |
      hostAttach | readHostLog | setFabricId | setRoute | setTransitPolicy | setRemoteSlot | setRemoteWindow |
      queueConfig | queueAbort | planStore | planPatch | planDrop | taskConfig | setMigPolicy | park | setPowerCap |
      blockRestart =>
    simp only [mailboxWrite, Option.some.injEq, Prod.mk.injEq] at hi
    obtain ⟨rfl, rfl⟩ := hi
    exact .inl ⟨_, _, rfl, rfl⟩
  all_goals exact nomatch hi

/-- A mailbox write of a running block, behind no posted write of the host. -/
theorem exec_mailboxWrite_next {i : Instr} (hi : mailboxWrite i = some (m, opc)) (hs : stopped s = false)
    (hb : mbBehind s m opc = false) :
    (∃ r body, r.opc = opc ∧ exec i s = .next (settleIn (mbKept r m s) (mboxF r body m s))) ∨
      exec i s = .next (mbReserved s m opc) := by
  rcases exec_mailboxWrite hi s with ⟨r, body, rfl, he⟩ | he
  · exact .inl ⟨r, body, rfl, he.trans (mbox_next hs hb)⟩
  · rw [mbAccess_next hs hb] at he
    unfold mbWrite at he
    split at he
    · next r body hf => exact .inl ⟨r, body, mbFind_opc hf, he⟩
    · exact .inr he

/-- What every form of the write does alike is what the write does. -/
theorem exec_mailboxWrite_eq {i : Instr} (hi : mailboxWrite i = some (m, opc)) (hs : stopped s = false)
    (hb : mbBehind s m opc = false) (hf : ∀ r body, r.opc = opc → mboxF r body m s = t) (hr : mbReserved s m opc = t)
    (hn : t.rc.need = []) : exec i s = .next t := by
  rcases exec_mailboxWrite_next hi hs hb with ⟨r, body, ho, he⟩ | he
  · rw [he, hf r body ho, settleIn_clear _ _ hn]
  · rw [he, hr]

theorem exec_mailboxWrite_refused {i : Instr} (hi : mailboxWrite i = some (m, opc)) (hs : stopped s = false)
    (hb : mbBehind s m opc = false) (h : mbRefuse s m = some t) (hn : t.rc.need = []) : exec i s = .next t :=
  exec_mailboxWrite_eq hi hs hb (fun _ _ _ => mboxF_refused h) (mbReserved_refused h) hn

/-- A write on a busy channel of its master sets OVR and counts (R490). -/
theorem exec_mailboxWrite_busy {i : Instr} (hi : mailboxWrite i = some (m, opc)) (hs : stopped s = false)
    (hn : s.rc.need = []) (hb : m.mgmt = true ∨ mbBehind s m opc = false) (hm : mbMaster s m = true)
    (hbusy : (chanOf s m.ch).busy = true) :
    exec i s = .next (bump1 (setChan s m.ch { chanOf s m.ch with ovr := true }) (ctrMbMbOvr m.ch)) :=
  exec_mailboxWrite_refused hi hs (mbBehind_eq_false hb) (mbRefuse_busy hm hbusy) hn

end

/-- Settles O11: a refused write by what `mbRefuse` answers, the others by what every row does with them. -/
theorem everyMailboxWriteObeysItsChannel : Obligations.EveryMailboxWriteObeysItsChannel := by
  intro i m opc s hi
  refine ⟨fun hf => ?frozen, fun hs hn hb => ⟨fun hm => ?denied, fun hm hbusy => ?busy, fun hm hfree hh => ?halted,
    fun hm hfree hh hr hp hre hl hheld => ?unloaded⟩⟩
  case frozen =>
    rcases exec_mailboxWrite hi s with ⟨r, body, -, he⟩ | he
    · rw [he, mbox_frozen hf]
    · rw [he, mbAccess, if_pos hf]
  case denied =>
    refine (exec_mailboxWrite_refused hi hs (mbBehind_eq_false hb) (mbRefuse_denied hm) ?_).trans ?_
    · simp [hn]
    · cases m.mgmt
      · rfl
      · rfl
  case busy => exact exec_mailboxWrite_busy hi hs hn hb hm hbusy
  case halted =>
    have h := mbRefuse_none s m hm hfree
    exact exec_mailboxWrite_eq hi hs (mbBehind_eq_false hb) (fun r body ho => ho ▸ mboxF_halted h hh)
      (mbReserved_halted h hh) hn
  case unloaded =>
    have h := mbRefuse_none s m hm hfree
    exact exec_mailboxWrite_eq hi hs (mbBehind_eq_false hb)
      (fun r body ho => ho ▸ mboxF_unloaded h hh hr hp hre hl hheld) (mbReserved_unloaded h hh hr)
      (by simp [mbEnds, hn])

/-- Settles O13: a reserved opcode by the write that starts no row's command, an overrun as any write on a busy channel. -/
theorem reservedOpcodeAndOverrunTakeEffect : Obligations.ReservedOpcodeAndOverrunTakeEffect := by
  refine ⟨fun s m opc hs hn hb hm hfree hr hh ho => ?_, fun s m opc hs hn hb hm hbusy => ?_⟩
  · refine ⟨_, ?_, rfl, MbDone_mbComplete _ _ _ _⟩
    have hw : mbWrite s m opc.toNat = mbReserved s m opc.toNat := by simp [mbWrite, ho]
    rw [← mbReserved_running (mbRefuse_none s m hm hfree) hh hr, ← hw]
    exact mbAccess_next hs (mbBehind_eq_false hb)
  · exact exec_mailboxWrite_busy rfl hs hn hb hm hbusy

end Sys2Proof.Machine
end

section
/-! PROOFS. The commands of group 0: IDENTIFY, EVENT_READ, COUNTER_READ, BIND_CHANNEL and LOCK_BINDINGS (R486, R501, R505,
R550, R551). -/

namespace Sys2Proof.Machine

/-! ### IDENTIFY -/

/-- The second word of IDENTIFY holds the fabric number and the service level (R505). -/
theorem identifyWord_fields (a : BitVec 12) (b : BitVec 2) (x y : Nat) :
    let d := BitVec.ofNat 64 (a.toNat + b.toNat * 2 ^ 12 + x * 2 ^ 14 + y * 2 ^ 20)
    fld d 0 12 = a.toNat ∧ fld d 12 2 = b.toNat := by
  have ha := a.isLt
  have hb := b.isLt
  simp only [fld, BitVec.toNat_ofNat, Nat.shiftRight_eq_div_pow]
  omega

theorem identify_completes {s : State} {m : MbWrite} (h : MbStarts rowIdentify m s) (hn : s.rc.need = []) :
    ∃ t d1 d2, exec (.identify m) s = .next t ∧
      t = mbEnds s m 0x01 rcOk
        [(0, BitVec.ofNat 64 (0x21 + 2 ^ 8 + 4 * 2 ^ 16 + Config.fwBuild.toNat * 2 ^ 24)), (1, d1), (2, d2)] ∧
      fld d1 0 12 = s.mer.fabric.toNat ∧ fld d1 12 2 = s.pwr.sl.toNat ∧
      MbDone t m.ch rcOk
        [(0, BitVec.ofNat 64 (0x21 + 2 ^ 8 + 4 * 2 ^ 16 + Config.fwBuild.toNat * 2 ^ 24)), (1, d1), (2, d2)] := by
  obtain ⟨hfabric, hlevel⟩ := identifyWord_fields s.mer.fabric s.pwr.sl (unitBits 6 (fun k => (stackOf s k).inService))
    (unitBits 8 (portUp s))
  refine ⟨_, _, BitVec.ofNat 64 (unitBits 48 (fun l => (mget s.tr.links l Link.reset).up)),
    mbox_done h (t := mbTake s m 0x01) ?_ hn, rfl, hfabric, hlevel, MbDone_mbComplete _ _ _ _⟩
  simp only [bodyIdentify, Nat.one_mul]
  rfl

/-! ### EVENT_READ and COUNTER_READ -/

theorem ctrClear_rc (t s : State) (n u : Nat) : (ctrClear t s n u).rc = s.rc := rfl

theorem foldl_ctrClear_rc (t : State) (n : Nat) (us : List Nat) (s : State) :
    (us.foldl (fun u k => ctrClear t u n k) s).rc = s.rc :=
  List.foldlRecOn (motive := fun u : State => u.rc = s.rc) us _ rfl fun _ hu k _ => (ctrClear_rc t _ n k).trans hu

/-- No set has as many units as the number that selects them all. -/
theorem ctrUnits_lt (n : Nat) : ctrUnits.getD n 0 < 0xFFFF := by
  by_cases h : n < ctrUnits.length
  · have : ∀ k : Fin ctrUnits.length, ctrUnits.getD k.val 0 < 0xFFFF := by decide
    exact this ⟨n, h⟩
  · rw [List.getD_eq_default _ _ (by omega)]
    decide

/-! ### BIND_CHANNEL -/

theorem chanOf_setChan_of_ne (s : State) {a c : Nat} (x : Chan) (h : a ≠ c) : chanOf (setChan s c x) a = chanOf s a :=
  mget_mset_ne _ _ _ _ _ h

/-- What completing a command leaves of a channel's binding (R486). -/
theorem mbComplete_binding (s : State) (c rc a : Nat) (l : List (Nat × W64)) :
    (chanOf (mbComplete s c rc l) a).master = (chanOf s a).master ∧
      (chanOf (mbComplete s c rc l) a).groups = (chanOf s a).groups := by
  by_cases h : a = c
  · subst h
    rw [chanOf_mbComplete]
    exact ⟨rfl, rfl⟩
  · rw [chanOf_mbComplete_ne _ _ _ _ _ h]
    exact ⟨rfl, rfl⟩

theorem mbCtx_ch (s : State) (m : MbWrite) : (mbCtx s m).ch = m.ch := rfl

/-- Settles O12: each command's own part answers one state. -/
theorem identificationCommandsComplete : Obligations.IdentificationCommandsComplete := by
  refine ⟨fun s m h hn => identify_completes h hn, ?events, ?counters, ?bind, ?locked, ?lock⟩
  case events =>
    intro s m w h hlo hhi hw log u hu
    have hin : ¬ ((mbCtx s m).f 1 0 13 = 0 || decide (4096 < (mbCtx s m).f 1 0 13)) = true := by
      simp only [Bool.or_eq_true, decide_eq_true_eq]
      omega
    exact mbox_done h ((if_neg hin).trans (hw _)) hu
  case counters =>
    intro s m w n us clear h ha hn hus hw u hu
    have hmod : (mbCtx s m).f 0 0 8 % 128 = n := by
      rw [ha]
      split
      · omega
      · omega
    have hclear : decide (128 ≤ (mbCtx s m).f 0 0 8) = clear := by
      rw [ha]
      cases clear
      · simpa using by omega
      · simp
    have hsel : (decide (13 < n) || ((mbCtx s m).f 1 0 16 != 0xFFFF &&
        decide (ctrUnits.getD n 0 ≤ (mbCtx s m).f 1 0 16))) = false ∧
        (if (mbCtx s m).f 1 0 16 = 0xFFFF then List.range (ctrUnits.getD n 0) else [(mbCtx s m).f 1 0 16]) = us := by
      have hlt := ctrUnits_lt n
      rcases hus with ⟨hall, rfl⟩ | ⟨hone, rfl⟩
      · simp [hall, hn]
      · have hne : (mbCtx s m).f 1 0 16 ≠ 0xFFFF := by omega
        simp [hn, hne, -List.getD_eq_getElem?_getD, hone]
    have hbody : bodyCounterRead (mbTake s m 0x03) (mbCtx s m) =
        .done (if clear then us.foldl (fun t k => ctrClear (mbTake s m 0x03) t n k) u else u) rcOk
          [(0, BitVec.ofNat 64 (us.length * (32 + 8 * ctrWords.getD n 0)))] := by
      simp only [bodyCounterRead, hmod, hsel, hclear, Bool.false_eq_true, if_false]
      exact hw _
    refine mbox_done h hbody ?_
    cases clear
    · exact hu
    · exact (congrArg Cache.need (foldl_ctrClear_rc _ n us u)).trans hu
  case bind =>
    intro s m k h hn hl hk
    subst hk
    have hbody : bodyBindChannel (mbTake s m 0x04) (mbCtx s m) = _ := if_neg (by simp [hl])
    refine ⟨fun hbad => ?_, fun hms hself => ?_⟩
    · exact mbox_done h (t := mbTake s m 0x04) (hbody.trans (if_pos (by simpa [mbCtx_ch] using hbad))) hn
    · have hself' : ¬ ((mbCtx s m).f 0 4 2 = 3 ∨ ((mbCtx s m).f 0 0 4 = m.ch.val ∧ (mbCtx s m).f 0 4 2 = 0)) := by
        rintro (h3 | ⟨hk, h0⟩)
        · exact hms h3
        · exact hself hk h0
      refine ⟨_, mbox_done h (hbody.trans (if_neg ?_)) (t := setChan (mbTake s m 0x04) ((mbCtx s m).f 0 0 4)
        { chanOf (mbTake s m 0x04) ((mbCtx s m).f 0 0 4) with
          master := BitVec.ofNat 2 ((mbCtx s m).f 0 4 2), groups := BitVec.ofNat 8 ((mbCtx s m).f 0 8 8) }) hn,
        MbDone_mbComplete _ _ _ _, ?_, ?_, ?_, ?_⟩
      · simpa [mbCtx_ch] using hself'
      · rw [(mbComplete_binding _ _ _ _ _).1, chanOf_setChan_self]
      · rw [(mbComplete_binding _ _ _ _ _).2, chanOf_setChan_self]
      · intro c hc hm
        rw [chanOf_mbComplete_ne _ _ _ _ _ hm, chanOf_setChan_of_ne _ _ hc, chanOf_mbTake_ne _ _ _ _ hm]
      · simp
  case locked =>
    intro s m h hn hl
    exact mbox_done h (if_pos hl) hn
  case lock =>
    intro s m h hn
    exact mbox_done h (t := { mbTake s m 0x05 with mer := { s.mer with locked := true } }) rfl hn

end Sys2Proof.Machine
end

section
/-! PROOFS. Register writes: HW_WIN, MSI-X entries, SCRATCH, FRZ_CTRL, TRIP, semaphores and discarded forms (R397, R399,
R572 to R575, R588, R589). -/

namespace Sys2Proof.Machine

/-! ### Writes to BAR0 -/

section
variable {s t : State} {off : Nat} {ws : List W64} {f : State → State}

theorem barAct_live (hs : stopped s = false) (hw : mustWait s (.reg off ws) = false) (hf : f s = t)
    (hn : t.rc.need = []) : barAct s off ws f = .next t := by
  simp only [barAct, not_frozen_of_live hs, hs, hw, Bool.false_eq_true, if_false]
  rw [hf, settleIn_clear _ _ hn]

theorem barAct_waits (hs : stopped s = false) (hw : mustWait s (.reg off ws) = true) :
    barAct s off ws f = .next (hold s (.reg off ws)) := by
  simp only [barAct, not_frozen_of_live hs, hs, hw, Bool.false_eq_true, if_false, if_true]

/-- A write of whole words takes place at once where nothing that the host has posted is ahead of it. -/
theorem execRegisterWrite_live {mgmt : Bool} (hok : regWriteOk off ws.length = true) (hs : stopped s = false)
    (hw : mgmt = true ∨ mustWait s (.reg off ws) = false) (ht : regWords s mgmt off ws = t) (hn : t.rc.need = []) :
    execRegisterWrite mgmt off ws s = .next t := by
  have hwait : (!mgmt && mustWait s (.reg off ws)) = false := by
    rcases hw with hw | hw
    · simp [hw]
    · simp [hw]
  unfold execRegisterWrite
  simp only [hok, not_frozen_of_live hs, hs, hwait, Bool.not_true, Bool.false_eq_true, if_false]
  rw [ht, settleIn_clear _ _ hn]

theorem execRegisterWrite_frozen {mgmt : Bool} (hok : regWriteOk off ws.length = true) (hf : s.err.frozen = true) :
    execRegisterWrite mgmt off ws s = .next (regFrozen s mgmt off ws) := by
  unfold execRegisterWrite
  simp [hok, hf]

/-- One word that is not MB_CMD is written by its place in the register file. -/
theorem regWords_one {mgmt : Bool} (v : W64) (h : isMbCmd off = false) : regWords s mgmt off [v] = regWrite s mgmt off v := by
  simp [regWords, regWord, h]

/-- A word of the identification and status page. -/
theorem regWords_id {mgmt : Bool} (v : W64) (h : off < 0x1000) : regWords s mgmt off [v] = writeId s mgmt off v := by
  have hc : isMbCmd off = false := by
    simp [isMbCmd]
    omega
  rw [regWords_one v hc, regWrite, if_pos h]

end

/-! ### HW_WIN (R399) -/

theorem writeWin_permitted {s : State} {v : W64} (h : winOk s (winBase v) = true) :
    writeWin s v = { s with hp := { s.hp with
      win := BitVec.ofNat 64 (fld v 0 27 + fld v 27 3 * 2 ^ 27 + b2n (bit s.hp.win 30 && !bit v 30) * 2 ^ 30) } } := by
  simp [writeWin, h, bumpIf]

theorem writeWin_refused {s : State} {v : W64} (h : winOk s (winBase v) = false) :
    writeWin s v = bump1 { s with hp := { s.hp with
      win := BitVec.ofNat 64 (fld s.hp.win 0 27 + fld v 27 3 * 2 ^ 27 + 2 ^ 30) } } ctrChipHwWinRefuse := by
  simp [writeWin, h, bumpIf, bump1, b2n]

/-! ### MSI-X (R589) -/

theorem not_contains_sdel (l : List Nat) (n : Nat) : (sdel l n).contains n = false := by
  simp [sdel]

/-- The vector control word without its mask. -/
theorem unmasked_word (x : W64) : bit (x &&& 0xFFFFFFFEFFFFFFFF#64 &&& 0x00000001FFFFFFFF#64) 32 = false := by
  simp [bit]

/-- Sending what is pending on a vector that nothing masks, while the host path is attached. -/
theorem msixFlush_up {s : State} {v : Nat} (h : hostUp s = true) (hm : msixMasked s v = false) :
    ∃ p l, msixFlush s v = { s with msix := { s.msix with pba := p, sent := l } } ∧ p.contains v = false ∧
      l = (if s.msix.pba.contains v then s.msix.sent ++ [v] else s.msix.sent) := by
  cases hp : s.msix.pba.contains v
  · exact ⟨s.msix.pba, s.msix.sent, by rw [msixFlush, hp]; rfl, hp, rfl⟩
  · exact ⟨sdel s.msix.pba v, s.msix.sent ++ [v], by rw [msixFlush, hp, hm, h]; rfl, not_contains_sdel _ _, rfl⟩

/-- Unmasking a vector while the host path is attached sends the message that is pending. -/
theorem writeMsix_unmask {s : State} {v : Nat} (h : hostUp s = true) :
    ∃ m, writeMsix s v 1 (msixWord s v 1 &&& 0xFFFFFFFEFFFFFFFF#64) = { s with msix := m } ∧
      msixMasked { s with msix := m } v = false ∧
      m.sent = (if s.msix.pba.contains v then s.msix.sent ++ [v] else s.msix.sent) ∧ m.pba.contains v = false := by
  have hmask : ∀ m : Msix, m.table = mset s.msix.table (2 * v + 1)
      (msixWord s v 1 &&& 0xFFFFFFFEFFFFFFFF#64 &&& 0x00000001FFFFFFFF#64) → msixMasked { s with msix := m } v = false := by
    intro m hm
    simp only [msixMasked, msixWord, hm, mget_mset_self]
    exact unmasked_word _
  obtain ⟨p, l, ht, hp, hl⟩ := msixFlush_up (s := { s with msix := { s.msix with
    table := mset s.msix.table (2 * v + 1)
      (msixWord s v 1 &&& 0xFFFFFFFEFFFFFFFF#64 &&& 0x00000001FFFFFFFF#64) } }) (v := v) h (hmask _ rfl)
  exact ⟨_, ht, hmask _ rfl, hl, hp⟩

theorem isMbCmd_sem (i : Fin 1024) : isMbCmd (0x30000 + 8 * i.val) = false := by
  simp [isMbCmd]
  omega

theorem regWriteOk_sem (i : Fin 1024) : regWriteOk (0x30000 + 8 * i.val) 1 = true := by
  simp [regWriteOk]
  omega

/-- The value of a semaphore is written from BAR0 alone (R575, R588). -/
theorem regWrite_sem (s : State) (b : Bool) (i : Fin 1024) (v : W64) : regWrite s b (0x30000 + 8 * i.val) v =
    if b then s else semSet s i (v.truncate 32) [0] false := by
  have hi := i.isLt
  have hidx : (0x30000 + 8 * i.val - 0x30000) / 8 = i.val := by omega
  unfold regWrite
  rw [if_neg (by omega), if_neg (by simp; omega), if_neg (c := _ && _) (by simp; omega), if_pos (c := _ && _) (by simp; omega), hidx]

theorem regWriteOk_eq_false {off : Nat} {ws : List W64}
    (h : off % 8 ≠ 0 ∨ ws = [] ∨ 8 < ws.length ∨ 64 < off % 64 + 8 * ws.length) : regWriteOk off ws.length = false := by
  have hlen : ws = [] → ws.length = 0 := fun h => by rw [h]; rfl
  simp only [regWriteOk, Bool.and_eq_false_iff, beq_eq_false_iff_ne, decide_eq_false_iff_not]
  rcases h with h | h | h | h
  · omega
  · have := hlen h
    omega
  · omega
  · omega

/-- Settles O14: each register by the branch of `regWrite` that its offset takes. -/
theorem registerWritesTakeEffect : Obligations.RegisterWritesTakeEffect := by
  refine ⟨?win, ?msix, ?scratch, ?frz, ?trip, ?sem, ?partialWord⟩
  case win =>
    intro s v hs hn hw
    refine ⟨fun h => ?_, fun h => ?_⟩
    · show execHwWinWrite v s = _
      exact barAct_live hs hw (writeWin_permitted h) hn
    · show execHwWinWrite v s = _
      exact barAct_live hs hw (writeWin_refused h) hn
  case msix =>
    intro s v hs hn hup hw
    obtain ⟨m, ht, hmask, hsent, hpba⟩ := writeMsix_unmask (v := v.val) hup
    refine ⟨{ s with msix := m }, ?_, hmask, hsent, hpba, rfl, rfl, rfl, rfl⟩
    show barAct s _ _ (fun s' => writeMsix s' v 1 (msixWord s v 1 &&& 0xFFFFFFFEFFFFFFFF#64)) = _
    exact barAct_live hs hw ht hn
  case scratch =>
    intro s v hs hn
    exact ⟨fun hw => execRegisterWrite_live rfl hs (.inr hw) (regWords_id v (by decide)) hn,
      execRegisterWrite_live rfl hs (.inl rfl) (regWords_id v (by decide)) hn⟩
  case frz =>
    intro s v hn
    refine ⟨fun h => ?_, fun h => ?_⟩
    · rcases h with hf | hs
      · exact execRegisterWrite_frozen rfl hf
      · exact execRegisterWrite_live rfl hs (.inl rfl) (regWords_id v (by decide)) hn
    · rcases h with hf | ⟨hs, hw⟩
      · exact execRegisterWrite_frozen rfl hf
      · exact execRegisterWrite_live rfl hs (.inr hw) (regWords_id v (by decide)) hn
  case trip =>
    intro s b v hs hn hw
    exact execRegisterWrite_live rfl hs hw (regWords_id v (by decide)) hn
  case sem =>
    intro s i v hs hn
    refine ⟨fun hw => ?_, ?_⟩
    · have hword : regWords s false (0x30000 + 8 * i.val) [v] = semSet s i (v.truncate 32) [0] false := by
        rw [regWords_one v (isMbCmd_sem i), regWrite_sem]
        rfl
      show execRegisterWrite _ _ _ s = execSemValWrite i ⟨v, false⟩ s
      simp only [execRegisterWrite, execSemValWrite, barAct, List.length_singleton, regWriteOk_sem, hword,
        not_frozen_of_live hs, hs, hw, Bool.not_true, Bool.not_false, Bool.true_and, Bool.false_eq_true, if_false]
    · refine execRegisterWrite_live (regWriteOk_sem i) hs (.inl rfl) ?_ hn
      rw [regWords_one v (isMbCmd_sem i), regWrite_sem]
      rfl
  case partialWord =>
    intro s b off ws h
    show execRegisterWrite b off ws s = _
    rw [execRegisterWrite, regWriteOk_eq_false h]
    rfl

end Sys2Proof.Machine
end

section
/-! PROOFS. The commands of the host group: apertures, place regions, host paths, HOST_ATTACH and READ_HOST_LOG (R400, R401,
R406, R417, R418, R509, R536). -/

namespace Sys2Proof.Machine

/-! ### SET_PLACE_REGION and SET_HOST_PATH -/

section
variable {s : State} {c : MbCtx}

theorem layout_given (hl : s.pwr.sl = 0 → s.mer.layout.isSome = true) :
    (s.pwr.sl == 0 && s.mer.layout.isNone) = false := by
  cases hsl : s.pwr.sl == 0
  · rfl
  · simpa using hl (by simpa using hsl)

/-- Without a layout at SL0 no place region is entered; otherwise the entry's own checks decide (R536). -/
theorem bodySetPlaceRegion_remove (hl : s.pwr.sl = 0 → s.mer.layout.isSome = true) (hv : bit (c.a 0) 6 = false) :
    bodySetPlaceRegion s c = .done { s with hp := { s.hp with
      place := mdel s.hp.place (c.f 0 0 6), placeEn := bit (c.a 0) 9 } } rcOk [] := by
  simp only [bodySetPlaceRegion, layout_given hl, hv, Bool.not_false, Bool.false_eq_true, if_false, if_true]

theorem bodySetPlaceRegion_enter {r : PlaceRegion} (hl : s.pwr.sl = 0 → s.mer.layout.isSome = true)
    (hv : bit (c.a 0) 6 = true)
    (hr : r = PlaceRegion.mk (c.f 1 0 27) (c.f 2 0 27) (bit (c.a 0) 7) (bit (c.a 0) 8) (BitVec.ofNat 16 (c.f 0 16 16)))
    (hlen : r.len ≠ 0) (hin : inTiers (r.base * 0x200000) (r.len * 0x200000) = true)
    (hfree : s.hp.place.any (fun e => e.1 != c.f 0 0 6 &&
      overlap (r.base * 0x200000) (r.len * 0x200000) (e.2.base * 0x200000) (e.2.len * 0x200000)) = false)
    (hprot : protectedArea s (r.base * 0x200000) (r.len * 0x200000) = false) :
    bodySetPlaceRegion s c = .done { s with hp := { s.hp with
      place := mset s.hp.place (c.f 0 0 6) r, placeEn := bit (c.a 0) 9 } } rcOk [] := by
  subst hr
  have hbad : (c.f 2 0 27 == 0 || !inTiers (c.f 1 0 27 * 0x200000) (c.f 2 0 27 * 0x200000)) = false := by
    simpa using ⟨hlen, hin⟩
  simp only [bodySetPlaceRegion, layout_given hl, hv, hbad, Bool.not_true, Bool.false_eq_true, if_false]
  rw [if_neg]
  simp only [hfree, hprot]
  decide

theorem bodySetHostPath_enter {e : HostPath} (hw : c.f 0 5 2 < 2) (hv : bit (c.a 0) 4 = true)
    (he : e = HostPath.mk (c.f 1 0 40 * 4096) (c.f 2 0 40 * 4096) (c.f 0 5 2 == 1)) (hlen : e.len ≠ 0)
    (hend : e.base + e.len ≤ 2 ^ 52)
    (hfree : s.hp.paths.any (fun x => x.1 != c.f 0 0 4 && overlap e.base e.len x.2.base x.2.len) = false) :
    bodySetHostPath s c = .done (setPaths s (mset s.hp.paths (c.f 0 0 4) e)) rcOk [] := by
  subst he
  have hbad : (c.f 2 0 40 * 4096 == 0 || decide (2 ^ 52 < c.f 1 0 40 * 4096 + c.f 2 0 40 * 4096)) = false := by
    simp only [Bool.or_eq_false_iff, beq_eq_false_iff_ne, decide_eq_false_iff_not, Nat.not_lt]
    exact ⟨hlen, hend⟩
  simp only [bodySetHostPath, if_neg (Nat.not_le.mpr hw), hv, hbad, hfree, Bool.not_true, Bool.false_eq_true, if_false]

theorem bodySetHostPath_remove (hw : c.f 0 5 2 < 2) (hv : bit (c.a 0) 4 = false) :
    bodySetHostPath s c = .done (setPaths s (mdel s.hp.paths (c.f 0 0 4))) rcOk [] := by
  simp only [bodySetHostPath, if_neg (Nat.not_le.mpr hw), hv, Bool.not_false, if_true]

end

/-- No command in flight has a lower number than the lowest. -/
theorem foldl_min_le {l : List Cmd} {n cid : Nat} (h : cid ∈ l.map (fun c => c.cid)) :
    l.foldl (fun n c => min n c.cid) n ≤ cid := by
  have hle : ∀ (l : List Cmd) (n : Nat), l.foldl (fun n c => min n c.cid) n ≤ n := by
    intro l
    induction l with
    | nil => exact fun n => le_rfl
    | cons c l ih => exact fun n => (ih _).trans (min_le_left _ _)
  induction l generalizing n with
  | nil => exact absurd h (by simp)
  | cons c l ih =>
    rcases List.mem_cons.mp (List.map_cons ▸ h) with rfl | hm
    · exact (hle l _).trans (min_le_right _ _)
    · exact ih hm

/-- A command in flight keeps the entries that were in force (R406). -/
theorem pathsFor_setPaths {s : State} {m : FMap HostPath} {w : Who} {cid : Nat} (hw : whoCid w = some cid)
    (hlt : cid < s.orr.nextCid) (hin : cid ∈ s.orr.cmds.map (fun c => c.cid)) (hold : s.hp.oldPaths = []) :
    pathsFor (setPaths s m) w = s.hp.paths := by
  have hlow : s.orr.cmds.foldl (fun n c => min n c.cid) s.orr.nextCid < s.orr.nextCid := (foldl_min_le hin).trans_lt hlt
  simp [pathsFor, setPaths, hw, hold, hlow, hlt]

/-! ### HOST_ATTACH -/

/-- Sending what is pending on a vector touches the interrupts alone, and leaves it pending only while it is masked. -/
theorem msixFlush_frame {s : State} (hu : hostUp s = true) (v : Nat) :
    ∃ m, msixFlush s v = { s with msix := m } ∧ m.table = s.msix.table ∧
      ∀ k ∈ m.pba, k ∈ s.msix.pba ∧ (k = v → msixMasked s k = true) := by
  by_cases h : (s.msix.pba.contains v && !msixMasked s v && hostUp s) = true
  · refine ⟨{ s.msix with pba := sdel s.msix.pba v, sent := s.msix.sent ++ [v] }, by rw [msixFlush, if_pos h], rfl,
      fun k hk => ?_⟩
    obtain ⟨hin, hne⟩ := List.mem_filter.mp hk
    exact ⟨hin, fun hv => absurd hv (by simpa using hne)⟩
  · refine ⟨s.msix, by rw [msixFlush, if_neg h], rfl, fun k hk => ⟨hk, ?_⟩⟩
    rintro rfl
    simpa [hu, hk] using h

theorem foldl_msixFlush (l : List Nat) {s : State} (hu : hostUp s = true) :
    ∃ m, l.foldl msixFlush s = { s with msix := m } ∧ m.table = s.msix.table ∧
      ∀ k ∈ m.pba, k ∈ s.msix.pba ∧ (k ∈ l → msixMasked s k = true) := by
  induction l generalizing s with
  | nil => exact ⟨s.msix, rfl, rfl, fun k hk => ⟨hk, fun h => nomatch h⟩⟩
  | cons v l ih =>
    obtain ⟨m, hm, htab, hpba⟩ := msixFlush_frame hu v
    obtain ⟨m', hm', htab', hpba'⟩ := ih (s := { s with msix := m }) hu
    refine ⟨m', by rw [List.foldl_cons, hm, hm'], htab'.trans htab, fun k hk => ?_⟩
    obtain ⟨hin, hl⟩ := hpba' k hk
    refine ⟨(hpba k hin).1, fun hkl => ?_⟩
    rcases List.mem_cons.mp hkl with hkv | hkl
    · exact (hpba k hin).2 hkv
    · simpa only [msixMasked, msixWord, htab] using hl hkl

/-- Attaching the path sends every pending message that is not masked (R418, R589). -/
theorem msixFlushAll_up {s : State} (hu : hostUp s = true) :
    ∃ m, msixFlushAll s = { s with msix := m } ∧ ∀ k ∈ m.pba, msixMasked s k = true := by
  obtain ⟨m, hm, -, hpba⟩ := foldl_msixFlush s.msix.pba hu
  exact ⟨m, hm, fun k hk => (hpba k hk).2 (hpba k hk).1⟩

section
variable {s : State} {c : MbCtx} (hsl : s.pwr.sl ≠ 0)
include hsl

theorem bodyHostAttach_attached (h : s.hp.state = 0) : bodyHostAttach s c = .done s rcOk [] := by
  rw [bodyHostAttach, if_neg (by simpa using hsl), if_pos h]

theorem bodyHostAttach_refused (h : s.hp.state = 1 ∨ (s.hp.state = 2 ∧ hdmReady s = false)) :
    bodyHostAttach s c = .done s rcBadState [] := by
  have h0 : s.hp.state ≠ 0 := by omega
  rw [bodyHostAttach, if_neg (by simpa using hsl), if_neg h0, if_pos]
  rcases h with h | ⟨-, h⟩
  · simp [h]
  · simp [h]

theorem bodyHostAttach_attaches (h : s.hp.state = 2) (hr : hdmReady s = true) :
    bodyHostAttach s c = .done (msixFlushAll { s with hp := { s.hp with state := 0 } }) rcOk [] := by
  rw [bodyHostAttach, if_neg (by simpa using hsl), if_neg (by omega), if_neg (by simp [h, hr])]

end

theorem hostAttach_attaches {s : State} {m : MbWrite} (h : MbStarts rowHostAttach m s) (hn : s.rc.need = [])
    (hsl : s.pwr.sl ≠ 0) (hst : s.hp.state = 2) (hr : hdmReady s = true) :
    ∃ t, exec (.hostAttach m) s = .next t ∧ MbEnded s t m.ch rcOk [] ∧ t.hp = { s.hp with state := 0 } ∧
      (m.ien = false → (∀ v ∈ t.msix.pba, msixMasked s v = true)) ∧ { mbUndo s t with hp := s.hp } = s := by
  obtain ⟨x, hx, hpba⟩ := msixFlushAll_up
    (s := { mbTake s m 0x44 with hp := { (mbTake s m 0x44).hp with state := 0 } }) rfl
  have hbody : bodyHostAttach (mbTake s m 0x44) (mbCtx s m) =
      .done { mbTake s m 0x44 with hp := { s.hp with state := 0 }, msix := x } rcOk [] :=
    (bodyHostAttach_attaches (s := mbTake s m 0x44) hsl hst hr).trans (congrArg (fun u => MbOut.done u rcOk []) hx)
  refine ⟨_, mbox_done h hbody hn, mbEnded_mbComplete fun c hc => chanOf_mbTake_ne _ _ _ _ hc, by simp, fun hien => ?_, ?_⟩
  · have hien' : (chanOf { mbTake s m 0x44 with hp := { s.hp with state := 0 }, msix := x } m.ch).ien = false := by
      exact (congrArg Chan.ien (chanOf_mbTake s m 0x44)).trans hien
    intro v hv
    simp only [mbComplete, hien', Bool.not_false, if_true] at hv
    exact hpba v hv
  · rw [mbUndo_mbComplete]
    rfl

/-- Settles O23: each command's own part answers one state. -/
theorem hostCommandsTakeEffect : Obligations.HostCommandsTakeEffect := by
  refine ⟨?aperture, ?close, ?place, ?path, ?attach, ?log⟩
  case aperture =>
    intro s m h hn
    refine ⟨fun hm => ?_, fun hm hsl => ?_⟩
    · refine mbox_done h (t := { mbTake s m 0x40 with hp := { s.hp with
        aper := true, aperMgmt := m.mgmt || (s.hp.aper && s.hp.aperMgmt) } }) (if_neg ?_) hn
      rcases hm with hm | hm
      · simp [mbCtx, hm]
      · simpa using fun _ => hm
    · exact mbox_done h (t := mbTake s m 0x40) (if_pos (by simp [mbCtx, hm, hsl])) hn
  case close =>
    intro s m h hn
    exact mbox_done h (t := { mbTake s m 0x41 with hp := { s.hp with aper := false, aperMgmt := false } }) rfl hn
  case place =>
    intro s m k r h hn hk hl hr
    subst hk
    refine ⟨fun hv => ?_, fun hv hlen hin hfree hprot => ?_⟩
    · exact mbox_done h (bodySetPlaceRegion_remove (s := mbTake s m 0x42) hl hv) hn
    · exact mbox_done h (bodySetPlaceRegion_enter (s := mbTake s m 0x42) hl hv hr hlen hin hfree hprot) hn
  case path =>
    intro s m k e h hn hk hw he
    subst hk
    refine ⟨fun hv => ?_, fun hv hlen hend hfree => ?_⟩
    · exact mbox_done h (bodySetHostPath_remove (s := mbTake s m 0x43) hw hv) hn
    · refine ⟨_, mbox_done h (bodySetHostPath_enter (s := mbTake s m 0x43) hw hv he hlen hend hfree) hn, rfl, ?_, ?_⟩
      · simp [setPaths, mget?_mset_self]
      · intro w cid hcid hlt hin hold
        refine Eq.trans ?_ (pathsFor_setPaths (m := mset s.hp.paths ((mbCtx s m).f 0 0 4) e) hcid hlt hin hold)
        simp only [pathsFor, mbComplete_hp]
        rfl
  case attach =>
    intro s m h hn hsl
    refine ⟨fun hst => ?_, fun hst hr => hostAttach_attaches h hn hsl hst hr, fun hbad => ?_⟩
    · exact mbox_done h (bodyHostAttach_attached (s := mbTake s m 0x44) hsl hst) hn
    · exact mbox_done h (bodyHostAttach_refused (s := mbTake s m 0x44) hsl hbad) hn
  case log =>
    intro s m n w h hk hw hn
    subst hk
    refine ⟨_, ?_, rfl⟩
    refine mbox_done h ?_ hn
    unfold bodyReadHostLog
    exact hw _

end Sys2Proof.Machine
end

section
/-! PROOFS. What comes from the host link: snoops, completions, the loss and the cleaning of the path, and link recovery (R407,
R408, R411, R413 to R416, R418, R503, R558, R599). -/

namespace Sys2Proof.Machine

/-! ### Snoops -/

section
variable {s : State} {k : Snoop} {addr : Nat}

/-- A snoop is answered from the line cache while the block is frozen and while it runs (R408, R558). -/
theorem exec_hostSnoop (h : s.err.frozen = true ∨ (stopped s = false ∧ s.pwr.park = .running)) :
    exec (.hostSnoop k addr) s = .next (snoopLine s k (addr / 64)) := by
  show execHostSnoop k addr s = _
  rcases h with hf | ⟨hs, hp⟩
  · rw [execHostSnoop, if_pos hf]
  · have hserve : snoopServe s k addr = snoopLine s k (addr / 64) := by rw [snoopServe, hp]; rfl
    rw [execHostSnoop, hserve, hs]
    simp

theorem snoopLine_miss {x : Nat} (h : hcFind s x = none) :
    snoopLine s k x = { s with hp := { s.hp with snp := s.hp.snp ++ [(x, .rspIHitI)] } } := by
  simp only [snoopLine, h]

theorem snoopLine_hit {x key : Nat} {l : HLine} (h : hcFind s x = some (key, l)) :
    (snoopLine s k x).hp.answers =
        (if l.st = .modified then s.hp.answers ++ [(l.data, l.poison)] else s.hp.answers) ∧
      (snoopLine s k x).hp.snp = s.hp.snp ++ [(x, snpRsp k (l.st == .modified))] ∧
      (k = .inv → (snoopLine s k x).hp.lines = mdel s.hp.lines key) ∧
      (k = .cur → (snoopLine s k x).hp.lines = s.hp.lines) ∧
      (k = .data → mget? (snoopLine s k x).hp.lines key = some { l with st := .shared, cids := [] }) ∧
      { snoopLine s k x with hp := { (snoopLine s k x).hp with
        answers := s.hp.answers, lines := s.hp.lines, snp := s.hp.snp } } = s := by
  by_cases hm : l.st = .modified
  · cases k <;> simp [snoopLine, h, hm, hostAnswer, hcDrop, hcSetLine, mget?_mset_self]
  · cases k <;> simp [snoopLine, h, hm, hcDrop, hcSetLine, mget?_mset_self]

end

/-! ### Completions -/

/-- With no request of a dense engine waiting for data, none goes on. -/
theorem cpResume_of_none {s : State} (h : s.str.cpWait = []) : cpResume s = s := by
  simp [cpResume, h]

theorem readReturn_found {s : State} {h : HostReply} {r : HostRead} (hr : s.hp.recov = false)
    (hf : (s.hp.reads.take 512).find? (fun r => r.id == h.id) = some r) :
    readReturn s h = cpResume (readArrive
      { s with hp := { s.hp with reads := s.hp.reads.filter (fun y => y.id != h.id) } } r h.data h.poison) := by
  simp [readReturn, hf, hr]

theorem readReturn_ignored {s : State} {h : HostReply}
    (hi : s.hp.recov = true ∨ (s.hp.reads.take 512).find? (fun r => r.id == h.id) = none) : readReturn s h = s := by
  cases hf : (s.hp.reads.take 512).find? (fun r => r.id == h.id) with
  | none => simp [readReturn, hf]
  | some r =>
    rcases hi with hr | hn
    · simp [readReturn, hf, hr]
    · rw [hf] at hn
      cases hn

/-! ### Loss of the path -/

theorem onlyMem_poisonOwned (s : State) : OnlyMem s (poisonOwned s) := by
  refine (OnlyMem.foldl _ (fun t e => ?_) _ s).trans ((onlyMem_bump ..).trans (onlyMem_rc ..))
  split
  · exact onlyMem_rc ..
  · exact onlyMem_dWrite ..

theorem onlyMem_sliceServe (s : State) (a : LineAccess) : OnlyMem s (sliceServe s a) := by
  unfold sliceServe
  simp only []
  split
  · split
    · exact onlyMem_openMiss s a
    · exact onlyMem_writeLine ..
  · split
    · exact onlyMem_dReadSecs ..
    · split
      · exact (onlyMem_openMiss s a).trans (onlyMem_bump1 ..)
      · split
        · exact onlyMem_readLine ..
        · exact (onlyMem_openMiss s a).trans (onlyMem_bump1 ..)

theorem onlyMem_biRelease (s : State) : OnlyMem s (biRelease s) :=
  (onlyMem_rc s _).trans (OnlyMem.foldl _ (fun t (w : Waiting) => onlyMem_sliceServe t w.acc) _ _)

theorem OnlyMem.withGot {s t : State} (h : OnlyMem s t) (g : List Got) :
    OnlyMem { s with got := g } { t with got := g } := { h with got := rfl }

/-- A lost read gives poisoned bytes to the one who asked, and touches nothing else but counts. -/
theorem readLost_got (s : State) (r : HostRead) : ∃ g, OnlyMem { s with got := g } (readLost s r) := by
  unfold readLost
  cases r.what with
  | fetch q => exact ⟨s.got, .refl s⟩
  | flush c => exact ⟨s.got, .refl s⟩
  | buf w => exact ⟨_, (onlyMem_freeBytes s r.len).withGot _⟩
  | cur w pa n => exact ⟨_, (onlyMem_freeBytes s n).withGot _⟩
  | line x own ms => exact ⟨s.got, onlyMem_bump ..⟩

theorem foldl_readLost_got (l : List HostRead) (s : State) : ∃ g, OnlyMem { s with got := g } (l.foldl readLost s) := by
  induction l generalizing s with
  | nil => exact ⟨s.got, .refl s⟩
  | cons r l ih =>
    obtain ⟨g, hg⟩ := readLost_got s r
    obtain ⟨g', hg'⟩ := ih (readLost s r)
    exact ⟨g', (hg.withGot g').trans hg'⟩

theorem foldl_hostLostCmd_id {l : List Cmd} (h : ∀ c ∈ l, c.usesHost = false) (s : State) : l.foldl hostLostCmd s = s := by
  induction l with
  | nil => rfl
  | cons c l ih =>
    have hc : hostLostCmd s c = s := by simp [hostLostCmd, h c (List.mem_cons_self ..)]
    rw [List.foldl_cons, hc]
    exact ih fun c hm => h c (List.mem_cons_of_mem _ hm)

/-- What the loss of an attached path leaves of the host port (R415). -/
def hpLost (h : HostPort) : HostPort :=
  { h with state := 1, writes := [], reads := [], lines := [], trees := [], win := 0, placeEn := false, hdm := [],
           recov := false, aper := h.aper && h.aperMgmt }

/-- The loss of the path, of a block whose commands do not use the host: the port is lost, the host-resident queues stop, and
else only memory and what was read change. -/
theorem pathLoss_eq {s : State} (hcp : s.str.cpWait = []) (hc : ∀ c ∈ s.orr.cmds, c.usesHost = false) :
    ∃ g u, OnlyMem { s with hp := hpLost s.hp, got := g } u ∧ pathLoss s = stopHostQueues u := by
  have hb (t : State) (a b c : Nat) (h : HostPort) :
      OnlyMem { t with hp := h } { bump (bump (bump t ctrChipHpWrDrop a) ctrChipHpRdLost b) ctrChipHpDirtyLost c with hp := h } :=
    onlyMem_ctrs { t with hp := h } _
  obtain ⟨g, hg⟩ := foldl_readLost_got s.hp.reads
    { bump (bump (bump s ctrChipHpWrDrop s.hp.writes.length) ctrChipHpRdLost s.hp.reads.length) ctrChipHpDirtyLost
        (s.hp.lines.filter (fun e => e.2.st == .modified)).length with hp := hpLost s.hp }
  have hall := (((hb s _ _ _ _).withGot g).trans hg).trans ((onlyMem_poisonOwned _).trans (onlyMem_biRelease _))
  refine ⟨g, _, hall, ?_⟩
  refine (cpResume_of_none ?_).trans (foldl_hostLostCmd_id (fun c hm => hc c ?_) _)
  · refine Eq.trans ?_ hcp
    refine (congrArg (fun t : State => t.str.cpWait) (foldl_hostLostCmd_id (fun c hm => hc c ?_) _)).trans
      (congrArg Streams.cpWait hall.str)
    exact (congrArg Orrery.cmds hall.orr) ▸ hm
  · exact (congrArg Orrery.cmds hall.orr) ▸ hm

/-- A queue after the loss of the host path: a host-resident one is STOPPED. -/
def hostStopped (x : Queue) : Queue :=
  if (x.conf.map (fun c => c.hostRes)).getD false then { x with st := .stopped, pendingDb := false } else x

theorem qOf_stopHostQueues (u : State) (q : Nat) : qOf (stopHostQueues u) q = hostStopped (qOf u q) := by
  have h : mget? (stopHostQueues u).orr.queues q = (mget? u.orr.queues q).map hostStopped :=
    mget?_mmap u.orr.queues (fun _ x => hostStopped x) q
  rw [qOf, mget, h, qOf, mget]
  cases mget? u.orr.queues q <;> rfl

theorem hostStopped_conf (x : Queue) : (hostStopped x).conf = x.conf := by
  unfold hostStopped
  split <;> rfl

theorem hostStopped_of_hostRes {x : Queue} {c : QConf} (hc : x.conf = some c) (h : c.hostRes = true) :
    (hostStopped x).st = .stopped := by
  simp [hostStopped, hc, h]

theorem hostPathLoss_takesEffect {s : State} (why : PathLoss) (hs : stopped s = false) (h0 : s.hp.state = 0)
    (hcp : s.str.cpWait = []) (hc : ∀ c ∈ s.orr.cmds, c.usesHost = false) (hn : (pathLoss s).rc.need = []) :
    ∃ t, exec (.hostPathLoss why) s = .next t ∧ t.hp = hpLost s.hp ∧
      (∀ q c, (qOf t q).conf = some c → c.hostRes = true → (qOf t q).st = .stopped) ∧
      (∀ q, ((qOf s q).conf.map (fun c => c.hostRes)).getD false = false → qOf t q = qOf s q) ∧
      { memUndo s t with hp := s.hp, orr := { t.orr with queues := s.orr.queues }, got := s.got } = s := by
  obtain ⟨g, u, hu, heq⟩ := pathLoss_eq hcp hc
  have hq (q : Nat) : qOf u q = qOf s q := qOf_eq_of_orr (s := s) hu.orr q
  refine ⟨pathLoss s, act_eq_next hs (if_pos h0) hn, ?_, ?_, ?_, ?_⟩
  · rw [heq]
    exact hu.hp
  · intro q c hconf hres
    rw [heq, qOf_stopHostQueues] at hconf ⊢
    exact hostStopped_of_hostRes ((hostStopped_conf _).symm.trans hconf) hres
  · intro q hno
    rw [heq, qOf_stopHostQueues, hq, hostStopped, if_neg (by simp [hno])]
  · rw [heq]
    have horr : ({ u.orr with queues := s.orr.queues } : Orrery) = s.orr := by rw [hu.orr]
    have hundo := congrArg (fun t : State => { t with hp := s.hp, orr := { u.orr with queues := s.orr.queues }, got := s.got })
      hu.undo
    exact hundo.trans (by rw [horr])

theorem hostPathCleaned_takesEffect {s : State} (hs : stopped s = false) (hn : s.rc.need = []) (h1 : s.hp.state = 1) :
    ∃ t, exec .hostPathCleaned s = .next t ∧ t.hp = { s.hp with state := 2 } ∧
      (merUp s = true → t.evt.eseq = s.evt.eseq + 1 ∧ t.pwr.evtLine = true) ∧ t.mem = s.mem ∧ t.rc = s.rc ∧
      { memUndo s t with hp := s.hp } = s := by
  have hev := onlyMem_raiseEvent { s with hp := { s.hp with state := 2 } } 0x0050 0 0 0
  refine ⟨_, act_eq_next hs (if_pos h1) (by rw [raiseEvent_rc]; exact hn), hev.hp, fun hm => ?_, raiseEvent_mem ..,
    raiseEvent_rc .., congrArg (fun t : State => { t with hp := s.hp }) hev.undo⟩
  have hm' : merUp { s with hp := { s.hp with state := 2 } } = true := hm
  simp [raiseEvent, hm']

/-- Settles O25. -/
theorem hostLinkEventsTakeEffect : Obligations.HostLinkEventsTakeEffect := by
  unfold Obligations.HostLinkEventsTakeEffect
  refine ⟨?snoop, ?read, ?stray, ?write, ?loss, ?lossIgnored, ?cleaned, ?cleanedIgnored, ?recovery⟩
  case snoop =>
    intro s k addr h
    refine ⟨fun hf => by rw [exec_hostSnoop h, snoopLine_miss hf], fun key l hf => ⟨_, exec_hostSnoop h, snoopLine_hit hf⟩⟩
  case read =>
    intro s u h r hs hr hf hu
    subst hu
    refine ⟨act_eq_next (f := fun s => readReturn s h) hs (readReturn_found hr hf), fun w hw hn hcp => ?_⟩
    refine act_eq_next (f := fun s => readReturn s h) hs ((readReturn_found hr hf).trans ?_) hn
    simp only [readArrive, hw]
    exact cpResume_of_none hcp
  case stray => exact fun s h hs hn hi => act_eq_next (f := fun s => readReturn s h) hs (readReturn_ignored hi) hn
  case write =>
    intro s id hs hn
    show execCxlCacheWriteCompletion id s = _
    exact act_eq_next hs rfl (by split <;> exact hn)
  case loss => exact fun s why hs h0 hcp hc hn => hostPathLoss_takesEffect why hs h0 hcp hc hn
  case lossIgnored => exact fun s why hs hn h0 => act_eq_next hs (if_neg h0) hn
  case cleaned => exact fun s hs hn h1 => hostPathCleaned_takesEffect hs hn h1
  case cleanedIgnored => exact fun s hs hn h1 => act_eq_next hs (if_neg h1) hn
  case recovery =>
    intro s hs hn
    refine ⟨?_, ?_⟩
    · show execHostLinkRecovery s = _
      exact act_eq_next hs rfl hn
    · show execLinkRecoveryEnd s = _
      exact act_eq_next hs rfl hn

end Sys2Proof.Machine
end

section
/-! PROOFS. The commands of the transit group (R422, R423, R428, R432, R435, R436, R509). -/

namespace Sys2Proof.Machine

section
variable {s : State} {c : MbCtx}

theorem bodySetRoute_enter {n : Nat} {ls : List Nat} (hn : c.f 0 12 3 = n)
    (hls : ls = [c.f 1 0 6, c.f 1 6 6, c.f 1 12 6, c.f 1 18 6]) (h4 : n ≤ 4) (hlt : ∀ l ∈ ls.take n, l < 48) :
    bodySetRoute s c = .done (reachAgain { s with tr := { s.tr with
      routes := mset s.tr.routes (c.f 0 0 12) { nlink := n, hops := bit (c.a 0) 15, links := ls } } }) rcOk [] := by
  subst hn hls
  refine if_neg ?_
  have hrange : (List.range 4).map (fun i => c.f 1 (6 * i) 6) = [c.f 1 0 6, c.f 1 6 6, c.f 1 12 6, c.f 1 18 6] := rfl
  simpa [hrange, Nat.not_lt.mpr h4] using hlt

theorem bodySetRoute_refused {n : Nat} {ls : List Nat} (hn : c.f 0 12 3 = n)
    (hls : ls = [c.f 1 0 6, c.f 1 6 6, c.f 1 12 6, c.f 1 18 6]) (hbad : 4 < n ∨ ∃ l ∈ ls.take n, 48 ≤ l) :
    bodySetRoute s c = .done s rcInvalid [] := by
  subst hn hls
  refine if_pos ?_
  have hrange : (List.range 4).map (fun i => c.f 1 (6 * i) 6) = [c.f 1 0 6, c.f 1 6 6, c.f 1 12 6, c.f 1 18 6] := rfl
  simpa [hrange] using hbad

theorem bodySetTransitPolicy_enter {ws sh : List Nat} (hws : ws = (List.range 6).map (fun i => c.f 0 (4 * i) 4))
    (hsh : sh = (List.range 8).map (fun i => c.f 1 (7 * i) 7) ++ (List.range 6).map (fun i => c.f 2 (7 * i) 7))
    (hw : ∀ w ∈ ws, w ≠ 0) (hx : ∀ x ∈ sh, 4 ≤ x ∧ x ≤ 64) (hsum : sh.sum ≤ 224) :
    bodySetTransitPolicy s c = .done { s with tr := { s.tr with weights := ws, shares := sh } } rcOk [] := by
  have hgood : (ws.any (fun w => w == 0) || sh.any (fun x => decide (x < 4) || decide (64 < x)) ||
      decide (224 < sh.sum)) = false := by
    simp only [Bool.or_eq_false_iff, List.any_eq_false, decide_eq_false_iff_not]
    refine ⟨⟨fun w hm => by simpa using hw w hm, fun x hm => ?_⟩, Nat.not_lt.mpr hsum⟩
    simpa [Nat.not_lt] using hx x hm
  subst hws hsh
  exact if_neg (by rw [hgood]; decide)

theorem bodySetTransitPolicy_refused {ws sh : List Nat} (hws : ws = (List.range 6).map (fun i => c.f 0 (4 * i) 4))
    (hsh : sh = (List.range 8).map (fun i => c.f 1 (7 * i) 7) ++ (List.range 6).map (fun i => c.f 2 (7 * i) 7))
    (hbad : 0 ∈ ws ∨ (∃ x ∈ sh, x < 4 ∨ 64 < x) ∨ 224 < sh.sum) :
    bodySetTransitPolicy s c = .done s rcInvalid [] := by
  have h : (ws.any (fun w => w == 0) || sh.any (fun x => decide (x < 4) || decide (64 < x)) ||
      decide (224 < sh.sum)) = true := by
    simp only [Bool.or_eq_true, List.any_eq_true, decide_eq_true_eq, beq_iff_eq, or_assoc]
    refine hbad.imp (fun h0 => ⟨0, h0, rfl⟩) id
  subst hws hsh
  exact if_pos h

/-- The window that a command names (R436). -/
def windowNamed (c : MbCtx) : RWindow :=
  RWindow.mk (bit (c.a 1) 0) (bit (c.a 1) 1) (bit (c.a 1) 2) (bit (c.a 1) 3) (BitVec.ofNat 2 (c.f 1 4 2))
    (BitVec.ofNat 12 (c.f 1 6 12)) (c.f 2 0 27) (c.f 2 27 16)

theorem bodySetRemoteWindow_noLayout (h0 : s.pwr.sl = 0) (hl : s.mer.layout = none) :
    bodySetRemoteWindow s c = .done s rcBadState [] :=
  if_pos (by simp [h0, hl])

section
variable {w : RWindow} (hl : s.pwr.sl = 0 → s.mer.layout.isSome = true) (hw : w = windowNamed c)
include hl hw

theorem bodySetRemoteWindow_eq : bodySetRemoteWindow s c =
    if !w.v then .done { s with tr := { s.tr with windows := mset s.tr.windows (c.f 0 0 8) w } } rcOk []
    else if w.len == 0 || decide (32768 < w.len) || !inTiers (w.lbase * 0x200000) (w.len * 0x200000) then
      .done s rcInvalid []
    else if protectedArea s (w.lbase * 0x200000) (w.len * 0x200000) then .done s rcInUse []
    else .done { s with tr := { s.tr with windows := mset s.tr.windows (c.f 0 0 8) w } } rcOk [] := by
  subst hw
  exact if_neg (by rw [layout_given hl]; decide)

theorem bodySetRemoteWindow_enter (h : w.v = false ∨ (w.len ≠ 0 ∧ w.len ≤ 32768 ∧
      inTiers (w.lbase * 0x200000) (w.len * 0x200000) = true ∧
      protectedArea s (w.lbase * 0x200000) (w.len * 0x200000) = false)) :
    bodySetRemoteWindow s c = .done { s with tr := { s.tr with windows := mset s.tr.windows (c.f 0 0 8) w } } rcOk [] := by
  rw [bodySetRemoteWindow_eq hl hw]
  rcases h with hv | ⟨hlen, hmax, hin, hprot⟩
  · simp [hv]
  · cases hv : w.v <;> simp [hlen, Nat.not_lt.mpr hmax, hin, hprot]

theorem bodySetRemoteWindow_badPlace (hv : w.v = true)
    (hbad : w.len = 0 ∨ 32768 < w.len ∨ inTiers (w.lbase * 0x200000) (w.len * 0x200000) = false) :
    bodySetRemoteWindow s c = .done s rcInvalid [] := by
  have h : (w.len == 0 || decide (32768 < w.len) || !inTiers (w.lbase * 0x200000) (w.len * 0x200000)) = true := by
    simpa [or_assoc] using hbad
  simp [bodySetRemoteWindow_eq hl hw, hv, h]

theorem bodySetRemoteWindow_protected (hv : w.v = true) (hlen : w.len ≠ 0) (hmax : w.len ≤ 32768)
    (hin : inTiers (w.lbase * 0x200000) (w.len * 0x200000) = true)
    (hprot : protectedArea s (w.lbase * 0x200000) (w.len * 0x200000) = true) :
    bodySetRemoteWindow s c = .done s rcInUse [] := by
  simp [bodySetRemoteWindow_eq hl hw, hv, hlen, Nat.not_lt.mpr hmax, hin, hprot]

end
end

theorem setRoute_enters {s : State} {m : MbWrite} {n : Nat} {ls : List Nat} (h : MbStarts rowSetRoute m s)
    (hneed : s.rc.need = []) (hn : (mbCtx s m).f 0 12 3 = n)
    (hls : ls = [(mbCtx s m).f 1 0 6, (mbCtx s m).f 1 6 6, (mbCtx s m).f 1 12 6, (mbCtx s m).f 1 18 6])
    (h4 : n ≤ 4) (hlt : ∀ l ∈ ls.take n, l < 48) :
    ∃ t, exec (.setRoute m) s = .next t ∧ MbEnded s t m.ch rcOk [] ∧
      t.tr.routes = mset s.tr.routes ((mbCtx s m).f 0 0 12) { nlink := n, hops := bit ((mbCtx s m).a 0) 15, links := ls } ∧
      (∀ c, c ∈ t.tr.unreachable ↔ c ∈ s.tr.unreachable ∧ routeLinks t (BitVec.ofNat 12 c) = []) ∧
      { mbUndo s t with tr := { t.tr with routes := s.tr.routes, unreachable := s.tr.unreachable } } = s := by
  refine ⟨_, mbox_done h (bodySetRoute_enter (s := mbTake s m 0x51) hn hls h4 hlt) hneed,
    mbEnded_mbComplete fun c hc => chanOf_mbTake_ne _ _ _ _ hc, ?_, fun c => ?_, ?_⟩
  · rw [mbComplete_tr]
    rfl
  · simp only [mbComplete_tr, reachAgain, routeLinks, linkOf]
    simp [List.mem_filter, mbTake]
  · rw [mbUndo_mbComplete, mbComplete_tr]
    rfl

/-- Settles O27: each command's own part answers one state. -/
theorem transitCommandsTakeEffect : Obligations.TransitCommandsTakeEffect := by
  refine ⟨?fabric, ?route, ?policy, ?slot, ?window⟩
  case fabric =>
    intro s m h hn
    refine ⟨fun hf => ?_, fun hf => ?_⟩
    · exact mbox_done h (t := { mbTake s m 0x50 with mer := { s.mer with
        fabric := BitVec.ofNat 12 ((mbCtx s m).f 0 0 12) } }) (if_neg hf) hn
    · exact mbox_done h (t := mbTake s m 0x50) (if_pos hf) hn
  case route =>
    intro s m n ls h hneed hn hls
    refine ⟨fun h4 hlt => setRoute_enters h hneed hn hls h4 hlt, fun hbad => ?_⟩
    exact mbox_done h (bodySetRoute_refused (s := mbTake s m 0x51) hn hls hbad) hneed
  case policy =>
    intro s m ws sh h hn hws hsh
    refine ⟨fun hw hx hsum => ?_, fun hbad => ?_⟩
    · exact mbox_done h (bodySetTransitPolicy_enter (s := mbTake s m 0x52) hws hsh hw hx hsum) hn
    · exact mbox_done h (bodySetTransitPolicy_refused (s := mbTake s m 0x52) hws hsh hbad) hn
  case slot =>
    intro s m e h hn he
    subst he
    exact mbox_done h (t := { mbTake s m 0x53 with tr := { s.tr with slots := mset s.tr.slots ((mbCtx s m).f 0 0 8) _ } })
      rfl hn
  case window =>
    intro s m w h hn hw
    refine ⟨fun h0 hl => ?_, fun hl => ⟨fun hok => ?_, fun hv hbad => ?_, fun hv hlen hmax hin hprot => ?_⟩⟩
    · exact mbox_done h (bodySetRemoteWindow_noLayout (s := mbTake s m 0x54) h0 hl) hn
    · exact mbox_done h (bodySetRemoteWindow_enter (s := mbTake s m 0x54) hl hw hok) hn
    · exact mbox_done h (bodySetRemoteWindow_badPlace (s := mbTake s m 0x54) hl hw hv hbad) hn
    · exact mbox_done h (bodySetRemoteWindow_protected (s := mbTake s m 0x54) hl hw hv hlen hmax hin hprot) hn

end Sys2Proof.Machine
end

section
/-! PROOFS. QUEUE_CONFIG, QUEUE_ABORT, TASK_CONFIG and SET_MIG_POLICY (R288, R447, R448, R466, R478, R512). -/

namespace Sys2Proof.Machine

/-! ### Extents -/

theorem extGo_of_xlt {s t : State} (h : t.xlt = s.xlt) (held pin : Bool) (right k v n : Nat) :
    extGo t held pin right k v n = extGo s held pin right k v n := by
  induction k generalizing v n with
  | zero => rfl
  | succ k ih =>
    have hr : rangeAt t held v = rangeAt s held v := by simp only [rangeAt, h]
    simp only [extGo, hr, ih]

theorem oneEntry_of_xlt {s t : State} (h : t.xlt = s.xlt) (right v n : Nat) : oneEntry t right v n = oneEntry s right v n := by
  simp only [oneEntry, extPieces, extGo_of_xlt h, h]

/-! ### QUEUE_CONFIG and QUEUE_ABORT -/

section
variable {s : State} {c : MbCtx} {r : QConf} (hr : queueRecord c false = r)
include hr

theorem bodyQueueConfig_badRecord (h : queueOk r = false) : bodyQueueConfig s c = .done s rcInvalid [] := by
  subst hr
  exact if_pos (by simp [h])

theorem bodyQueueConfig_noEntry (h : queueOk r = true) (hno : oneEntry s 0 r.ring (2 ^ r.log2n * 64) = none ∨
    oneEntry s 1 r.cring (2 ^ r.log2cn * 32) = none ∨ oneEntry s 1 r.cseqAddr 8 = none) :
    bodyQueueConfig s c = .done s rcInvalid [] := by
  subst hr
  refine (if_neg (by simp [h])).trans ?_
  split
  · rename_i hp ha hb
    simp [hp, ha, hb] at hno
  · rfl

section
variable {p a b : Piece} (h : queueOk r = true) (hp : oneEntry s 0 r.ring (2 ^ r.log2n * 64) = some p)
  (ha : oneEntry s 1 r.cring (2 ^ r.log2cn * 32) = some a) (hb : oneEntry s 1 r.cseqAddr 8 = some b)
include h hp ha hb

theorem bodyQueueConfig_enters {q : Nat} (hq : c.f 0 0 6 = q) (hfl : inflight s q = 0) (hl : lQueue s q = false) :
    bodyQueueConfig s c = .done (setQ s q { qOf s q with
      conf := some { r with hostRes := p.host }, st := .idle, pendingDb := false, cfull := false }) rcOk [] := by
  subst hr hq
  simp [bodyQueueConfig, h, hp, ha, hb, hfl, hl]

theorem bodyQueueConfig_inUse {q : Nat} (hq : c.f 0 0 6 = q) (huse : inflight s q ≠ 0 ∨ lQueue s q = true) :
    bodyQueueConfig s c = .done s rcInUse [] := by
  subst hr hq
  simp [bodyQueueConfig, h, hp, ha, hb, huse]

end
end

/-- The queue's commands that end in their own right, neither streams' nor plan nodes (R478). -/
theorem queueAbort_own (l : List Cmd) (q : Nat) :
    ((l.filter (fun d => d.q == q && (match d.own with | .stream _ => false | _ => true))).filter
        (fun d => match d.own with | .node _ _ => false | _ => true)).filter (fun d => d.phase != .done) =
      l.filter (fun d => d.q == q && d.phase != .done &&
        (match d.own with | .stream _ => false | .node _ _ => false | _ => true)) := by
  simp only [List.filter_filter]
  refine List.filter_congr fun d _ => ?_
  cases d.own <;> simp [Bool.and_comm]

theorem bodyQueueAbort_done {s u : State} {c : MbCtx} {q : Nat} {rets : List (Nat × W64)} (hq : c.f 0 0 6 = q)
    (hl : lQueue s q = false) (h : bodyQueueAbort s c = .done u rcOk rets) :
    (qOf u q).st = .stopped ∧ (qOf u q).pendingDb = false ∧
      rets = [(0, BitVec.ofNat 64 (s.orr.cmds.filter (fun d => d.q == q && d.phase != .done &&
        (match d.own with | .stream _ => false | .node _ _ => false | _ => true))).length)] := by
  subst hq
  simp only [bodyQueueAbort, hl, Bool.false_eq_true, if_false, MbOut.done.injEq] at h
  obtain ⟨hu, -, hrets⟩ := h
  rw [← hu, ← hrets, qOf_setQ_self]
  exact ⟨rfl, rfl, congrArg (fun l : List Cmd => [(0, BitVec.ofNat 64 l.length)]) (queueAbort_own ..)⟩

/-! ### SET_MIG_POLICY -/

theorem migOk_iff {q : MigPolicy} : migOk q = true ↔
    64 ≤ q.mwLen ∧ q.cold < q.hot ∧ q.t8 ≤ q.t16 ∧ q.t4 ≤ q.t8 ∧ q.epochMin ≤ q.qpGrace := by
  simp [migOk, and_assoc]

/-- The record that a command sets: the chip's whole record, or a descriptor's six fields over the chip's (R288). -/
def migSet (g p : MigPolicy) (d : Nat) : MigPolicy :=
  if d = 0x1FFF then p else { g with en := p.en, hot := p.hot, cold := p.cold, t16 := p.t16, t8 := p.t8, t4 := p.t4 }

theorem bodySetMigPolicy_read {s s1 : State} {c : MbCtx} {l : List Byte} {d : Nat}
    (hr : BufReads s c (c.p 1) 48 s1 l) (hd : c.f 0 0 13 = d) (hin : d < 4096 ∨ d = 0x1FFF) (hz : migZeros l = true) :
    bodySetMigPolicy s c =
      if !migOk (migSet s1.load.mig (migOfBytes l) d) then .done s1 rcInvalid []
      else if d = 0x1FFF then .done { s1 with load := { s1.load with mig := migOfBytes l } } rcOk []
      else .done { s1 with load := { s1.load with
        migD := mset s1.load.migD d (migSet s1.load.mig (migOfBytes l) d) } } rcOk [] := by
  subst hd
  refine (if_neg ?_).trans ((hr _).trans ?_)
  · simp only [Bool.and_eq_true, decide_eq_true_eq, bne_iff_ne]
    omega
  · simp only [hz, Bool.not_true, Bool.false_or]
    rfl

/-- Settles O30: each command's own part answers one state. -/
theorem queueConfigurationsTakeEffect : Obligations.QueueConfigurationsTakeEffect := by
  refine ⟨?config, ?abort, ?task, ?mig⟩
  case config =>
    intro s m q r h hn hq hr
    have hone := oneEntry_of_xlt (mbTake_xlt s m 0x60)
    refine ⟨fun hbad => ?_, fun hok => ⟨fun hno => ?_, fun p a b hp ha hb => ⟨fun hfl hl => ?_, fun huse => ?_⟩⟩⟩
    · exact mbox_done h (bodyQueueConfig_badRecord (s := mbTake s m 0x60) hr hbad) hn
    · exact mbox_done h (bodyQueueConfig_noEntry (s := mbTake s m 0x60) hr hok (by simpa only [hone] using hno)) hn
    · exact mbox_done h (bodyQueueConfig_enters (s := mbTake s m 0x60) hr hok ((hone ..).trans hp) ((hone ..).trans ha)
        ((hone ..).trans hb) hq hfl hl) hn
    · exact mbox_done h (bodyQueueConfig_inUse (s := mbTake s m 0x60) hr hok ((hone ..).trans hp) ((hone ..).trans ha)
        ((hone ..).trans hb) hq huse) hn
  case abort =>
    intro s m q h hq
    refine ⟨fun hl hn => ?_, fun u rets hl hb hn => ?_⟩
    · exact mbox_done h (t := mbTake s m 0x61) (if_pos (hq ▸ hl)) hn
    · obtain ⟨hst, hdb, hrets⟩ := bodyQueueAbort_done (s := mbTake s m 0x61) hq hl hb
      subst hrets
      refine ⟨_, mbox_done h hb hn, ?_, ?_, MbDone_mbComplete ..⟩
      · rw [qOf_eq_of_orr (mbComplete_orr ..), hst]
      · rw [qOf_eq_of_orr (mbComplete_orr ..), hdb]
  case task =>
    intro s m k new h hn hk hnew
    subst hk hnew
    exact mbox_done h (t := { mbTake s m 0x65 with orr := { s.orr with tasks := mset s.orr.tasks _ _ } }) rfl hn
  case mig =>
    intro s s1 m l p q d h hr hp hz hn hd hin hq
    subst hp
    have hb := bodySetMigPolicy_read hr hd hin hz
    have hset : migSet s1.load.mig (migOfBytes l) d = q := hq.symm
    rw [hset] at hb
    refine ⟨fun hok => ⟨fun hch => ?_, fun hdesc => ?_⟩, fun hbad => ?_⟩
    · have hq' : q = migOfBytes l := hq.trans (if_pos hch)
      rw [migOk_iff.mpr hok, if_neg (by decide), if_pos hch, ← hq'] at hb
      exact mbox_done h hb hn
    · rw [migOk_iff.mpr hok, if_neg (by decide), if_neg (by omega)] at hb
      exact mbox_done h hb hn
    · rw [if_pos (by rw [Bool.not_eq_true', ← Bool.not_eq_true, migOk_iff]; exact hbad)] at hb
      exact mbox_done h hb hn

end Sys2Proof.Machine
end

section
/-! PROOFS. Plans, launches and persistent tasks (R463 to R466, R510). -/

namespace Sys2Proof.Machine

/-! ### Plan versions -/

/-- The plan after a version has been stored: the pinned versions, and the new current one (R464). -/
def planStored (old : Plan) (nodes : List Node) : Plan :=
  { vers := old.vers.filter (fun v => 0 < v.pins) ++ [{ ver := old.next, nodes := nodes, pins := 0 }], next := old.next + 1,
    dropped := false }

section
variable {s : State} {p : Nat} {nodes : List Node} {old : Plan}

theorem planCommit_eq (ho : old = mget s.orr.plans p { vers := [], next := 0, dropped := false }) : planCommit s p nodes =
    ({ s with orr := { s.orr with plans := mset s.orr.plans p (planStored old nodes) } }, old.next) := by
  subst ho
  rfl

/-- Nodes that may stand in a plan, with room for them and for a version, are stored (R463, R464). -/
theorem planPut_stores (ho : old = mget s.orr.plans p { vers := [], next := 0, dropped := false })
    (hok : nodes.all (nodeOk s) = true) (hv : (old.vers.filter (fun v => 0 < v.pins)).length ≤ 3)
    (hroom : planBytes (planCommit s p nodes).1 ≤ planArea s) :
    planPut s p nodes = .done { s with orr := { s.orr with plans := mset s.orr.plans p (planStored old nodes) } } rcOk
      [(0, BitVec.ofNat 64 old.next.toNat)] := by
  have hlen : (planStored old nodes).vers.length ≤ 4 := by simpa [planStored, Nat.lt_succ_iff] using hv
  rw [planCommit_eq ho] at hroom
  simp [planPut, planCommit_eq ho, hok, mget?_mset_self, Nat.not_lt.mpr hlen, Nat.not_lt.mpr hroom]

theorem planCurrent_some {pl : Plan} {v : PlanVer} (h : planCurrent s p = some (pl, v)) :
    mget? s.orr.plans p = some pl ∧ pl.dropped = false ∧ pl.vers.getLast? = some v := by
  unfold planCurrent at h
  split at h
  · cases h
  · rename_i x hx
    split at h
    · cases h
    · rename_i hd
      obtain ⟨w, hw, heq⟩ := Option.map_eq_some_iff.mp h
      cases heq
      exact ⟨hx, by simpa using hd, hw⟩

theorem planCurrent_stored {t : State} (h : mget? t.orr.plans p = some (planStored old nodes)) :
    planCurrent t p = some (planStored old nodes, { ver := old.next, nodes := nodes, pins := 0 }) := by
  simp [planCurrent, h, planStored]

theorem mem_planStored {x : PlanVer} (hx : x ∈ old.vers) (hp : 0 < x.pins) : x ∈ (planStored old nodes).vers :=
  List.mem_append_left _ (List.mem_filter.mpr ⟨hx, by simpa using hp⟩)

end

/-! ### PLAN_STORE, PLAN_PATCH and PLAN_DROP -/

section
variable {s s1 : State} {c : MbCtx} {l : List Byte} {nodes : List Node} {p n : Nat} (hp : c.f 0 0 8 = p) (hn : c.f 2 0 11 = n)
  (h1 : 1 ≤ n) (hmax : n ≤ 1024)
include hp hn h1 hmax

theorem bodyPlanStore_read (hr : BufReads s c (c.p 1) (80 * n) s1 l) (hnodes : nodesOf l n = some nodes) :
    bodyPlanStore s c = planPut s1 p nodes := by
  subst hp hn
  refine (if_neg ?_).trans ((hr _).trans ?_)
  · simp only [Bool.or_eq_true, beq_iff_eq, decide_eq_true_eq]
    omega
  · simp only [hnodes]

variable {pl : Plan} {v : PlanVer} (hcur : planCurrent s p = some (pl, v))
include hcur

theorem bodyPlanPatch_read (hlen : pl.vers.length < 4) (hr : BufReads s c (c.p 1) (96 * n) s1 l)
    (hnodes : patchAll v.nodes ((List.range n).map (fun i => bytesAt l (96 * i) 96)) = some nodes) :
    bodyPlanPatch s c = planPut s1 p nodes := by
  subst hp hn
  refine (if_neg ?_).trans ?_
  · simp only [Bool.or_eq_true, beq_iff_eq, decide_eq_true_eq]
    omega
  · simp only [hcur, if_neg (Nat.not_le.mpr hlen)]
    refine (hr _).trans ?_
    simp only [hnodes]

theorem bodyPlanPatch_busy (hlen : 4 ≤ pl.vers.length) : bodyPlanPatch s c = .done s rcPlanBusy [] := by
  subst hp hn
  refine (if_neg ?_).trans ?_
  · simp only [Bool.or_eq_true, beq_iff_eq, decide_eq_true_eq]
    omega
  · simp only [hcur, if_pos hlen]

end

/-- What a command that stored a version leaves. -/
theorem planStored_takesEffect {s t : State} {m : MbWrite} {p : Nat} {nodes : List Node} {old : Plan} {rets : List (Nat × W64)}
    (ht : t = mbComplete { s with orr := { s.orr with plans := mset s.orr.plans p (planStored old nodes) } } m.ch rcOk rets) :
    planCurrent t p = some (planStored old nodes, { ver := old.next, nodes := nodes, pins := 0 }) ∧
      (∀ k, k ≠ p → mget? t.orr.plans k = mget? s.orr.plans k) ∧
      { mbUndo s t with orr := { t.orr with plans := s.orr.plans } } = s := by
  subst ht
  refine ⟨planCurrent_stored ?_, fun k hk => ?_, ?_⟩
  · rw [mbComplete_orr, mget?_mset_self]
  · rw [mbComplete_orr, mget?_mset_ne _ _ _ _ hk]
  · rw [mbUndo_mbComplete, mbComplete_orr]
    rfl

theorem bodyPlanDrop_none {s : State} {c : MbCtx} {p : Nat} (hp : c.f 0 0 8 = p) (hno : mget? s.orr.plans p = none) :
    bodyPlanDrop s c = .done s rcNotFound [] := by
  subst hp
  simp only [bodyPlanDrop, hno]

theorem bodyPlanDrop_some {s : State} {c : MbCtx} {p : Nat} {pl : Plan} (hp : c.f 0 0 8 = p)
    (hpl : mget? s.orr.plans p = some pl) (hd : pl.dropped = false) :
    bodyPlanDrop s c = if s.orr.tasks.any (fun e => e.2.en && e.2.plan == p) then .done s rcInUse []
      else .done { s with orr := { s.orr with plans := mset s.orr.plans p { pl with
        vers := pl.vers.filter (fun v => 0 < v.pins), dropped := true } } } rcOk [] := by
  subst hp
  simp [bodyPlanDrop, hpl, hd]

/-! ### Launches and their nodes -/

theorem startLaunch_current {s : State} {c : Cmd} {p : Nat} {pl : Plan} {v : PlanVer} (hp : c.f 0 8 8 = p)
    (hcur : planCurrent s p = some (pl, v)) :
    startLaunch s c = updCmd { s with orr := { s.orr with plans := mset s.orr.plans p { pl with
        vers := pl.vers.map (fun x => if x.ver = v.ver then { x with pins := x.pins + 1 } else x) } } } c.cid
      (fun c => { c with phase := .running, plan := p, pver := v.ver.toNat }) := by
  obtain ⟨hpl, hd, hv⟩ := planCurrent_some hcur
  subst hp
  simp [startLaunch, hpl, hd, hv]

theorem exec_launch {s : State} {cid p : Nat} {c : Cmd} {pl : Plan} {v : PlanVer} (hs : stopped s = false)
    (hn : s.rc.need = []) (hc : cmdOf s cid = some c) (hb : c.badLine = false) (hop : c.op = 0x09)
    (hst : mayStart s c = true) (hok : controlOk c = true) (hp : c.f 0 8 8 = p) (hcur : planCurrent s p = some (pl, v)) :
    ∃ t u, exec (.launch cid) s = .next t ∧ cmdOf t cid = some u ∧
      u = { c with phase := .running, plan := p, pver := v.ver.toNat } ∧
      t.orr.plans = mset s.orr.plans p { pl with
        vers := pl.vers.map (fun x => if x.ver = v.ver then { x with pins := x.pins + 1 } else x) } ∧
      { t with orr := { t.orr with plans := s.orr.plans, cmds := s.orr.cmds } } = s := by
  have hrun : withCmd s cid 0x09 (fun c s => if controlOk c then startLaunch s c else failCmd s cid 0x40) =
      startLaunch s c := by
    simp [withCmd, hc, hb, hop, hst, hok]
  rw [startLaunch_current hp hcur, cmdOf_cid hc] at hrun
  refine ⟨_, _, act_eq_next (f := fun s => withCmd s cid 0x09 (fun c s => if controlOk c then startLaunch s c
    else failCmd s cid 0x40)) hs hrun hn, ?_, rfl, rfl, rfl⟩
  rw [cmdOf_updCmd_self]
  · exact congrArg (Option.map _) hc
  · exact fun _ => rfl

theorem exec_planNodeDispatch {s : State} {cid i : Nat} {c : Cmd} {n : Node} (hs : stopped s = false) (hn : s.rc.need = [])
    (hc : cmdOf s cid = some c) (hop : c.op = 0x09) (hph : c.phase = .running) (hnode : (launchNodes s c)[i]? = some n)
    (hlen : (s.orr.cmds.filter (fun d => match d.own with | .node l _ => l == cid | _ => false)).length < 16)
    (hdone : i ∉ c.nodesDone) (hskip : i ∉ c.nodesSkipped) (hfl : ∀ d ∈ s.orr.cmds, d.own ≠ .node cid i)
    (hdeps : ∀ d ∈ n.deps, d ∈ c.nodesDone) (hpark : s.pwr.park = .running) (hre : s.pwr.restart ≠ .running) :
    exec (.planNodeDispatch cid i) s =
      .next (fetchIn s c.q c.seq (.node cid i) n.words false (fld (n.words.getD 0 0) 0 8)) := by
  show execPlanNodeDispatch cid i s = _
  refine act_eq_next hs ?_ hn
  have hno : ∀ l : List Cmd, (∀ d ∈ l, d ∈ s.orr.cmds) → l.any (fun d => d.own == .node cid i) = false := by
    intro l hl
    simpa using fun d hd => hfl d (hl d hd)
  simp only [hc, hnode]
  rw [if_pos]
  simp only [Bool.and_eq_true, Bool.not_eq_true', decide_eq_true_eq, List.all_eq_true, bne_iff_ne, beq_iff_eq,
    List.contains_iff_mem]
  refine ⟨⟨⟨⟨⟨⟨⟨⟨hop, hph⟩, hlen⟩, ?_⟩, ?_⟩, hno _ fun d hd => (List.mem_filter.mp hd).1⟩, hdeps⟩, hpark⟩, hre⟩
  · simpa using hdone
  · simpa using hskip

/-! ### Task triggers -/

/-- The launch of a task's plan has entered its queue, and the step is added to T (R466). -/
def taskFetched (s : State) (k : Nat) (x : Task) : State :=
  let s1 := fetchIn (setQ s x.queue { qOf s x.queue with nextSeq := (qOf s x.queue).nextSeq + 1 }) x.queue
    (qOf s x.queue).nextSeq (.task k) [BitVec.ofNat 64 (0x09 + x.plan * 256)] false 0x09
  { s1 with orr := { s1.orr with
    tasks := mset s1.orr.tasks k { x with t := x.t + x.step, flight := some s.orr.nextCid, late := false } } }

/-- The queue that the launch has entered: an IDLE one runs. -/
def Queue.roused (y : Queue) : Queue := if y.st = .idle then { y with st := .running } else y

theorem Queue.roused_nextSeq (y : Queue) : y.roused.nextSeq = y.nextSeq := by
  unfold Queue.roused
  split <;> rfl

/-- What a trigger that launches leaves. -/
def taskLaunched (s : State) (k : Nat) (x : Task) : State :=
  qRefresh (setQ (taskFetched s k x) x.queue (qOf (taskFetched s k x) x.queue).roused) x.queue

/-- A trigger of an enabled task that has reached its step, above SL0 with the block running (R466). -/
theorem taskReady {s : State} {x : Task} (hen : x.en = true) (hreach : reached (semOf s x.sem) x.t = true)
    (hpark : s.pwr.park = .running) (hre : s.pwr.restart ≠ .running) (hsl : s.pwr.sl ≠ 0) :
    (!x.en || !reached (semOf s x.sem) x.t || s.pwr.park != .running || s.pwr.restart == .running ||
      decide (s.pwr.sl.toNat < 1)) = false := by
  have hpos : ¬ s.pwr.sl.toNat < 1 := fun h => hsl (BitVec.eq_of_toNat_eq (by simpa using h))
  simp only [hen, hreach, hpark, decide_eq_false hpos, Bool.not_true, Bool.or_false, Bool.or_eq_false_iff, beq_eq_false_iff_ne]
  exact ⟨by decide, hre⟩

section
variable {s : State} {k : Fin 64} {x : Task} (hs : stopped s = false) (hn : s.rc.need = [])
  (hx : mget? s.orr.tasks k = some x)
  (hready : (!x.en || !reached (semOf s x.sem) x.t || s.pwr.park != .running || s.pwr.restart == .running ||
    decide (s.pwr.sl.toNat < 1)) = false)
include hs hn hx hready

theorem exec_taskTrigger_late (hf : x.flight ≠ none) (hl : x.late = true) : exec (.taskTrigger k) s = .next s := by
  show execTaskTrigger k s = _
  refine act_eq_next hs ?_ hn
  simp only [hx, hready, Bool.false_eq_true, if_false, Option.isSome_iff_ne_none.mpr hf, hl, if_true]

theorem exec_taskTrigger_counts (hf : x.flight ≠ none) (hl : x.late = false) : exec (.taskTrigger k) s =
    .next (bump1 { s with orr := { s.orr with tasks := mset s.orr.tasks k { x with late := true } } } (ctrTaskTaskLate k)) := by
  show execTaskTrigger k s = _
  refine act_eq_next (t := bump1 _ _) hs ?_ hn
  simp only [hx, hready, Bool.false_eq_true, if_false, Option.isSome_iff_ne_none.mpr hf, hl, if_true]

theorem exec_taskTrigger_launches {c : QConf} (hf : x.flight = none) (hc : (qOf s x.queue).conf = some c)
    (hst : (qOf s x.queue).st = .running ∨ (qOf s x.queue).st = .idle ∨ (qOf s x.queue).st = .blocked)
    (hdepth : inflight s x.queue < c.depth) (hring : (qOf s x.queue).nextSeq - (qOf s x.queue).cack.toNat ≤ 2 ^ c.log2cn) :
    exec (.taskTrigger k) s = .next (taskLaunched s k x) := by
  show execTaskTrigger k s = _
  refine act_eq_next hs ?_ ?_
  · have hgo : ((qOf s x.queue).st == .stopped || (qOf s x.queue).st == .hung || (qOf s x.queue).st == .switched ||
        decide (c.depth ≤ inflight s x.queue) ||
        decide (2 ^ c.log2cn < (qOf s x.queue).nextSeq - (qOf s x.queue).cack.toNat)) = false := by
      rcases hst with h | h | h <;> simp [h, Nat.not_le.mpr hdepth, Nat.not_lt.mpr hring]
    simp only [hx, hready, hf, hc, hgo, Bool.false_eq_true, if_false, Option.isSome_none, taskLaunched, taskFetched,
      Queue.roused]
  · exact hn

end

/-- The launch is the queue's next command, and the task waits for it and for its next step. -/
theorem taskLaunched_eq (s : State) (k : Nat) (x : Task) : ∃ d,
    mget? (taskLaunched s k x).orr.tasks k =
        some { x with t := x.t + x.step, flight := some s.orr.nextCid, late := false } ∧
      (taskLaunched s k x).orr.cmds = s.orr.cmds ++ [d] ∧ d.cid = s.orr.nextCid ∧ d.own = .task k ∧ d.q = x.queue ∧
      d.seq = (qOf s x.queue).nextSeq ∧ d.words = [BitVec.ofNat 64 (0x09 + x.plan * 256)] ∧ d.stamp = s.xlt.xgen ∧
      (qOf (taskLaunched s k x) x.queue).nextSeq = (qOf s x.queue).nextSeq + 1 ∧
      { taskLaunched s k x with orr := { (taskLaunched s k x).orr with
        tasks := s.orr.tasks, cmds := s.orr.cmds, queues := s.orr.queues, nextCid := s.orr.nextCid } } = s := by
  obtain ⟨d, hd, hcid, hq, hseq, hstamp, hown, -, hwords⟩ := fetchIn_eq
    (setQ s x.queue { qOf s x.queue with nextSeq := (qOf s x.queue).nextSeq + 1 }) x.queue (qOf s x.queue).nextSeq (.task k)
    [BitVec.ofNat 64 (0x09 + x.plan * 256)] false 0x09
  refine ⟨d, ?_, ?_, hcid, hown, hq, hseq, hwords, hstamp, ?_, ?_⟩
  · exact mget?_mset_self ..
  · exact congrArg (fun t : State => t.orr.cmds) hd
  · obtain ⟨st, cf, hr⟩ := qRefresh_eq (setQ (taskFetched s k x) x.queue (qOf (taskFetched s k x) x.queue).roused) x.queue
    have hseq1 : (qOf (taskFetched s k x) x.queue).nextSeq = (qOf s x.queue).nextSeq + 1 :=
      congrArg Queue.nextSeq (qOf_setQ_self ..)
    rw [taskLaunched, hr, qOf_setQ_self, qOf_setQ_self, Queue.roused_nextSeq, hseq1]
  · simp only [taskLaunched, qRefresh, taskFetched, hd]
    rfl

/-- Settles O31. -/
theorem planCommandsTakeEffect : Obligations.PlanCommandsTakeEffect := by
  refine ⟨?store, ?patch, ?busy, ?drop, ?launch, ?node, ?trigger⟩
  case store =>
    intro s s1 m l nodes p n old h hp hlen h1 hmax hr hnodes hok ho hv hroom hn
    have hb := (bodyPlanStore_read (s := mbTake s m 0x62) hp hlen h1 hmax hr hnodes).trans (planPut_stores ho hok hv hroom)
    obtain ⟨hcur, hother, hframe⟩ := planStored_takesEffect (s := s1) (m := m) (p := p) (nodes := nodes) (old := old)
      (rets := [(0, BitVec.ofNat 64 old.next.toNat)]) rfl
    exact ⟨_, _, _, mbox_done h hb hn, MbDone_mbComplete .., hcur, rfl, rfl, rfl, rfl,
      fun x hx hpin => mem_planStored hx hpin, hother, hframe⟩
  case patch =>
    intro s s1 m l nodes p n pl0 v0 h hp hlen h1 hmax hcur0 hvers hr horr hnodes hok hroom hn
    obtain ⟨hpl, -, -⟩ := planCurrent_some hcur0
    have ho : pl0 = mget s1.orr.plans p { vers := [], next := 0, dropped := false } := by simp [mget, horr, hpl]
    have hv : (pl0.vers.filter (fun v => 0 < v.pins)).length ≤ 3 :=
      (List.length_filter_le ..).trans (Nat.le_of_lt_succ hvers)
    have hb := (bodyPlanPatch_read (s := mbTake s m 0x63) hp hlen h1 hmax hcur0 hvers hr hnodes).trans
      (planPut_stores ho hok hv hroom)
    obtain ⟨hcur, -, hframe⟩ := planStored_takesEffect (s := s1) (m := m) (p := p) (nodes := nodes) (old := pl0)
      (rets := [(0, BitVec.ofNat 64 pl0.next.toNat)]) rfl
    exact ⟨_, _, _, mbox_done h hb hn, MbDone_mbComplete .., hcur, rfl, rfl, rfl,
      fun x hx hpin => mem_planStored hx hpin, hframe⟩
  case busy =>
    intro s m p pl0 v0 h hn hp h1 hmax hcur hvers
    exact mbox_done h (bodyPlanPatch_busy (s := mbTake s m 0x63) hp rfl h1 hmax hcur hvers) hn
  case drop =>
    intro s m p h hn hp
    refine ⟨fun hno => ?_, fun pl gone hpl hd hgone => ⟨fun hfree => ?_, fun huse => ?_⟩⟩
    · exact mbox_done h (bodyPlanDrop_none (s := mbTake s m 0x64) hp hno) hn
    · subst hgone
      exact mbox_done h ((bodyPlanDrop_some (s := mbTake s m 0x64) hp hpl hd).trans (if_neg (by simpa using hfree))) hn
    · exact mbox_done h ((bodyPlanDrop_some (s := mbTake s m 0x64) hp hpl hd).trans (if_pos huse)) hn
  case launch =>
    intro s cid p c pl v hs hn hc hb hop hst hok hp hcur
    exact exec_launch hs hn hc hb hop hst hok hp hcur
  case node =>
    intro s cid i c n hs hn hc hop hph hnode hlen hdone hskip hfl hdeps hpark hre
    obtain ⟨d, hd, hcid, hq, hseq, hstamp, hown, hbad, hwords⟩ :=
      fetchIn_eq s c.q c.seq (.node cid i) n.words false (fld (n.words.getD 0 0) 0 8)
    refine ⟨_, d, exec_planNodeDispatch hs hn hc hop hph hnode hlen hdone hskip hfl hdeps hpark hre, ?_, hcid, hown, hq, hseq,
      hwords, hstamp, hbad, ?_, ?_⟩ <;> rw [hd]
  case trigger =>
    intro s k x hs hn hx hen hreach hpark hre hsl
    have hready := taskReady hen hreach hpark hre hsl
    refine ⟨exec_taskTrigger_late hs hn hx hready, exec_taskTrigger_counts hs hn hx hready, fun c hf hc hst hdepth hring => ?_⟩
    obtain ⟨d, hd⟩ := taskLaunched_eq s k x
    exact ⟨_, d, exec_taskTrigger_launches hs hn hx hready hf hc hst hdepth hring, hd⟩

end Sys2Proof.Machine
end

section
/-! PROOFS. Doorbells, queue starts, acknowledgements and semaphores (R410, R449, R450, R454, R455, R586, R588). -/

namespace Sys2Proof.Machine

/-! ### Doorbells and acknowledgements -/

theorem qOf_setQ_ne (s : State) {q k : Nat} (x : Queue) (h : k ≠ q) : qOf (setQ s q x) k = qOf s k := by
  simp only [qOf, setQ, mget_mset_ne _ _ _ _ _ h]

theorem wakeUp_parked {s : State} (h : s.pwr.park = .parked) : wakeUp s = { s with pwr := { s.pwr with park := .waking } } := by
  simp only [wakeUp, h]

section
variable {s : State} {q : Nat} {w : W32}

theorem ringDoorbell_refused (h : doorbellOk (qOf s q) w = false) :
    ringDoorbell s q w = bump1 (setQ s q { qOf s q with dbErr := true }) (ctrQueueDbRefused q) :=
  if_pos (by simp [h])

/-- The queue's record after an accepted doorbell (R450, R454). -/
def Queue.rung (x : Queue) (w : W32) : Queue :=
  { x with tail := w, pendingDb := x.pendingDb || (x.st == .idle && w != x.fetch) }

theorem ringDoorbell_running (h : doorbellOk (qOf s q) w = true) (hp : s.pwr.park = .running) :
    ringDoorbell s q w = qRefresh (setQ s q ((qOf s q).rung w)) q := by
  refine (if_neg (by simp [h])).trans (if_neg ?_)
  simp [setQ, hp]

theorem ringDoorbell_parked (h : doorbellOk (qOf s q) w = true) (hp : s.pwr.park = .parked) (hi : (qOf s q).st = .idle)
    (hw : w ≠ (qOf s q).fetch) :
    ringDoorbell s q w = wakeUp (hold (setQ s q { qOf s q with tail := w, pendingDb := true }) (.fetch q)) := by
  have hdb : ((qOf s q).pendingDb || ((qOf s q).st == .idle && w != (qOf s q).fetch)) = true := by simp [hi, hw]
  refine (if_neg (by simp [h])).trans ((if_pos ?_).trans ?_)
  · simp [setQ, hp, hdb]
  · rw [hdb]

/-- What a refresh of a queue with this record leaves. -/
theorem qRefresh_setQ (s : State) (q : Nat) (x : Queue) : ∃ st cf,
    qRefresh (setQ s q x) q = setQ (setQ s q x) q { x with st := st, cfull := cf } := by
  obtain ⟨st, cf, h⟩ := qRefresh_eq (setQ s q x) q
  exact ⟨st, cf, by rw [h, qOf_setQ_self]⟩

/-- An accepted doorbell of a running block sets TAIL and may make the queue pending (R450, R454). -/
theorem ringDoorbell_accepted {f : State → Host.Outcome State Fault Refusal}
    (hf : ∀ t, ringDoorbell s q w = t → t.rc.need = [] → f s = .next t) (hn : s.rc.need = [])
    (h : doorbellOk (qOf s q) w = true) (hp : s.pwr.park = .running) :
    ∃ t, f s = .next t ∧ (qOf t q).tail = w ∧ (qOf t q).fetch = (qOf s q).fetch ∧
      (qOf t q).pendingDb = ((qOf s q).pendingDb || ((qOf s q).st == .idle && decide (w ≠ (qOf s q).fetch))) ∧
      (∀ k, k ≠ q → qOf t k = qOf s k) ∧ { t with orr := { t.orr with queues := s.orr.queues } } = s := by
  obtain ⟨st, cf, hr⟩ := qRefresh_setQ s q ((qOf s q).rung w)
  refine ⟨_, hf _ ((ringDoorbell_running h hp).trans hr) hn, ?_, ?_, ?_, fun k hk => ?_, rfl⟩
  · rw [qOf_setQ_self]
    rfl
  · rw [qOf_setQ_self]
    rfl
  · rw [qOf_setQ_self]
    have hne : (w != (qOf s q).fetch) = decide (w ≠ (qOf s q).fetch) := by
      rw [Bool.eq_iff_iff]
      simp
    rw [← hne]
    rfl
  · rw [qOf_setQ_ne _ _ hk, qOf_setQ_ne _ _ hk]

/-- An accepted doorbell of a pending queue wakes a parked block, and the fetch waits for the wake (R522). -/
theorem ringDoorbell_wakes {f : State → Host.Outcome State Fault Refusal}
    (hf : ∀ t, ringDoorbell s q w = t → t.rc.need = [] → f s = .next t) (hn : s.rc.need = [])
    (h : doorbellOk (qOf s q) w = true) (hp : s.pwr.park = .parked) (hi : (qOf s q).st = .idle) (hw : w ≠ (qOf s q).fetch) :
    ∃ t, f s = .next t ∧ qOf t q = { qOf s q with tail := w, pendingDb := true } ∧
      t.pwr = { s.pwr with park := .waking, held := s.pwr.held ++ [.fetch q] } ∧
      { t with orr := { t.orr with queues := s.orr.queues }, pwr := s.pwr } = s := by
  refine ⟨_, hf _ ((ringDoorbell_parked h hp hi hw).trans (wakeUp_parked hp)) hn, ?_, rfl, rfl⟩
  exact qOf_setQ_self ..

theorem writeQcack_below {v : W64} (h : v.toNat < (qOf s q).cack.toNat) : writeQcack s q v = s := if_pos h

theorem writeQcack_takes {v : W64} (h : (qOf s q).cack.toNat ≤ v.toNat) : ∃ x,
    writeQcack s q v = setQ (setQ s q { qOf s q with
      cack := if (qOf s q).cseq < v.toNat then BitVec.ofNat 64 (qOf s q).cseq else v }) q x ∧
    x.cack = if (qOf s q).cseq < v.toNat then BitVec.ofNat 64 (qOf s q).cseq else v := by
  obtain ⟨st, cf, hr⟩ := qRefresh_setQ s q { qOf s q with
    cack := if (qOf s q).cseq < v.toNat then BitVec.ofNat 64 (qOf s q).cseq else v }
  exact ⟨_, (if_neg (Nat.not_lt.mpr h)).trans hr, rfl⟩

end

/-- With nothing ahead of it the host's doorbell rings with the value that is farther from the fetch index (R450). -/
theorem exec_doorbell {s : State} {q : Fin 64} {v : W64} {o : Option W32} (hs : stopped s = false)
    (hw : mustWait s (.reg (0x20000 + 0x40 * q.val) [v]) = false) (t : State)
    (ht : ringDoorbell s q (fartherDoorbell (qOf s q) (v.truncate 32) o) = t) (hn : t.rc.need = []) :
    exec (.doorbell q ⟨v, o⟩) s = .next t := by
  show execDoorbell q ⟨v, o⟩ s = _
  cases o with
  | none => exact barAct_live (f := fun s => ringDoorbell s q (v.truncate 32)) hs hw ht hn
  | some x =>
    refine (if_neg ?_).trans (barAct_live (f := fun s => ringDoorbell s q
      (fartherDoorbell (qOf s q) (v.truncate 32) (some x))) hs hw ht hn)
    simp [hw]

/-! ### Semaphores -/

theorem wakeUp_eq (s : State) : ∃ p, wakeUp s = { s with pwr := p } := by
  unfold wakeUp
  split
  · exact ⟨_, rfl⟩
  · exact ⟨_, rfl⟩
  · exact ⟨s.pwr, rfl⟩

section
variable (s : State) (i : Nat) (v : W32)

/-- An ADD changes the semaphore, and may wake a parked block (R455, R522). -/
theorem semChange_add_eq : ∃ p, semChange s i true v =
    { s with orr := { s.orr with sems := mset s.orr.sems i (semOf s i + v) }, pwr := p } := by
  unfold semChange
  simp only [if_true]
  split
  · obtain ⟨p, hp⟩ := wakeUp_eq { s with orr := { s.orr with sems := mset s.orr.sems i (semOf s i + v) } }
    exact ⟨p, hp⟩
  · exact ⟨s.pwr, rfl⟩

/-- A SET changes the semaphore, and may open a CLOSED link and wake a parked block (R381, R455, R522). -/
theorem semChange_set_eq : ∃ l p, semChange s i false v =
    { s with orr := { s.orr with sems := mset s.orr.sems i v }, str := { s.str with closedLinks := l }, pwr := p } := by
  unfold semChange
  simp only [Bool.false_eq_true, if_false]
  split
  · obtain ⟨p, hp⟩ := wakeUp_eq (linkSet { s with orr := { s.orr with sems := mset s.orr.sems i v } } i)
    exact ⟨_, p, hp⟩
  · exact ⟨_, s.pwr, rfl⟩

/-- A semaphore's new value stands, and no other semaphore changes. -/
theorem semOf_mset {s t : State} {i : Nat} {v : W32} (h : t.orr.sems = mset s.orr.sems i v) :
    semOf t i = v ∧ ∀ k, k ≠ i → semOf t k = semOf s k := by
  refine ⟨?_, fun k hk => ?_⟩
  · rw [semOf, h, mget_mset_self]
  · rw [semOf, h, mget_mset_ne _ _ _ _ _ hk, semOf]

end

section
variable {s : State} {i : Nat} {v : W32} {src : List Nat} {same : Bool}

/-- A SET that takes effect, after the losses that it counts (R455). -/
def semPut (s : State) (i : Nat) (v : W32) (src : List Nat) : State :=
  { semChange s i false v with orr := { (semChange s i false v).orr with
    semSets := mset (semChange s i false v).orr.semSets i src } }

theorem semSet_alone (h : same = false ∨ mget? s.orr.semSets i = none) : semSet s i v src same = semPut s i v src := by
  unfold semSet
  rcases h with h | h
  · subst h
    rfl
  · cases same <;> simp only [h] <;> rfl

theorem semSet_over {o : List Nat} (ho : mget? s.orr.semSets i = some o) (hlt : ¬ o < src) :
    semSet s i v src true = semPut (bump1 s ctrChipSemSetLost) i v src := by
  simp only [semSet, ho, if_neg hlt]
  rfl

theorem semSet_lost {o : List Nat} (ho : mget? s.orr.semSets i = some o) (hlt : o < src) :
    semSet s i v src true = bump1 s ctrChipSemSetLost := by
  simp only [semSet, ho, if_pos hlt]

/-- A SET of the lowest source takes effect, and counts the one that it displaces. -/
theorem semSet_lowest (h : ∀ o, mget? s.orr.semSets i = some o → ¬ o < src) : semSet s i v src same =
    semPut (bump s ctrChipSemSetLost (if same = true ∧ (mget? s.orr.semSets i).isSome = true then 1 else 0)) i v src := by
  cases same with
  | false =>
    rw [semSet_alone (.inl rfl)]
    rfl
  | true =>
    cases hset : mget? s.orr.semSets i with
    | none =>
      rw [semSet_alone (.inr hset)]
      rfl
    | some o =>
      rw [semSet_over hset (h o hset)]
      rfl

/-- What a SET that takes effect changes. -/
theorem semPut_changes (s : State) (i : Nat) (v : W32) (src : List Nat) :
    semOf (semPut s i v src) i = v ∧ (∀ k, k ≠ i → semOf (semPut s i v src) k = semOf s k) ∧
      (semPut s i v src).ctrs = s.ctrs ∧ (semPut s i v src).str.streams = s.str.streams ∧ (semPut s i v src).rc = s.rc ∧
      { semPut s i v src with orr := { (semPut s i v src).orr with sems := s.orr.sems, semSets := s.orr.semSets },
                              str := s.str, pwr := s.pwr } = s := by
  obtain ⟨l, p, h⟩ := semChange_set_eq s i v
  obtain ⟨hself, hother⟩ := semOf_mset (s := s) (t := semPut s i v src) (i := i) (v := v) (by simp only [semPut, h])
  refine ⟨hself, hother, ?_, ?_, ?_, ?_⟩ <;> simp only [semPut, h]

end

/-- ADDs over consecutive semaphores: each takes its own word, and no other changes (R588). -/
theorem foldl_semAdd (i : Nat) (vs : List W64) (n : Nat) (s : State) (h : i + n + vs.length ≤ 1024) :
    ∃ m p, (vs.zipIdx n).foldl (fun t x =>
        if i + x.2 < 1024 then semChange t (i + x.2) true (x.1.truncate 32) else t) s =
      { s with orr := { s.orr with sems := m }, pwr := p } ∧
      (∀ k, (hk : k < vs.length) → mget m (i + n + k) 0 = semOf s (i + n + k) + (vs[k]).truncate 32) ∧
      (∀ k, k < i + n ∨ i + n + vs.length ≤ k → mget m k 0 = semOf s k) := by
  induction vs generalizing n s with
  | nil => exact ⟨s.orr.sems, s.pwr, rfl, fun k hk => absurd hk (Nat.not_lt_zero k), fun k _ => rfl⟩
  | cons v vs ih =>
    rw [List.length_cons] at h
    obtain ⟨p, hp⟩ := semChange_add_eq s (i + n) (v.truncate 32)
    obtain ⟨hself, hother⟩ := semOf_mset (s := s) (t := semChange s (i + n) true (v.truncate 32)) (i := i + n)
      (v := semOf s (i + n) + v.truncate 32) (by rw [hp])
    obtain ⟨m, p', hm, hval, hsame⟩ := ih (n + 1) (semChange s (i + n) true (v.truncate 32)) (by omega)
    refine ⟨m, p', ?_, fun k hk => ?_, fun k hk => ?_⟩
    · rw [List.zipIdx_cons, List.foldl_cons, if_pos (by omega : i + n < 1024), hm, hp]
    · cases k with
      | zero =>
        rw [Nat.add_zero, hsame _ (.inl (by omega)), hself]
        rfl
      | succ k =>
        have hk' : k < vs.length := by simpa using hk
        have := hval k hk'
        rw [hother _ (by omega)] at this
        rw [show i + n + (k + 1) = i + (n + 1) + k by omega, this]
        rfl
    · rw [List.length_cons] at hk
      rw [hsame k (by omega), hother k (by omega)]

/-- Settles O32. -/
theorem doorbellsAndSemaphoresTakeEffect : Obligations.DoorbellsAndSemaphoresTakeEffect := by
  refine ⟨?host, ?chip, ?wake, ?ack, ?value, ?add, ?port⟩
  case host =>
    intro s q v o w hs hn hw
    subst hw
    refine ⟨fun hwait => barAct_waits (f := fun s => ringDoorbell s q (v.truncate 32)) hs hwait, fun hgo =>
      ⟨fun hbad => ?_, fun hok hp => ?_, fun hok hp hi hne => ?_⟩⟩
    · exact exec_doorbell hs hgo _ (ringDoorbell_refused hbad) hn
    · exact ringDoorbell_accepted (f := fun s => exec (.doorbell q ⟨v, o⟩) s) (exec_doorbell hs hgo) hn hok hp
    · exact ringDoorbell_wakes (f := fun s => exec (.doorbell q ⟨v, o⟩) s) (exec_doorbell hs hgo) hn hok hp hi hne
  case chip =>
    intro s q w hs hn
    have hrun (t : State) (ht : ringDoorbell s q w = t) (hneed : t.rc.need = []) :
        exec (.chipPortDoorbell q w) s = .next t := act_eq_next (f := fun s => ringDoorbell s q w) hs ht hneed
    refine ⟨fun hbad => hrun _ (ringDoorbell_refused hbad) hn, fun hok hp => ?_, fun hok hp hi hne => ?_⟩
    · exact ringDoorbell_accepted (f := fun s => exec (.chipPortDoorbell q w) s) hrun hn hok hp
    · exact ringDoorbell_wakes (f := fun s => exec (.chipPortDoorbell q w) s) hrun hn hok hp hi hne
  case wake =>
    intro s u q hs hi hdb hp hre hu hn
    refine act_eq_next (f := fun s => wakeQ s q) hs ((if_pos ?_).trans hu.symm) hn
    simp [hi, hdb, hp, hre]
  case ack =>
    intro s q v hs hn hw
    refine ⟨fun h => ?_, fun h => ?_⟩
    · exact barAct_live (f := fun s => writeQcack s q v) hs hw (writeQcack_below h) hn
    · obtain ⟨x, hx, hcack⟩ := writeQcack_takes h
      refine ⟨_, barAct_live (f := fun s => writeQcack s q v) hs hw hx hn, ?_, fun k hk => ?_, rfl⟩
      · rw [qOf_setQ_self, hcack]
      · rw [qOf_setQ_ne _ _ hk, qOf_setQ_ne _ _ hk]
  case value =>
    intro s i v same hs hn hw hlow
    obtain ⟨hself, hother, hctrs, hstr, hrc, hframe⟩ := semPut_changes
      (bump s ctrChipSemSetLost (if same = true ∧ (mget? s.orr.semSets i).isSome = true then 1 else 0)) i (v.truncate 32) [0]
    exact ⟨_, barAct_live (f := fun s => semSet s i (v.truncate 32) [0] same) hs hw (semSet_lowest hlow)
      ((congrArg Cache.need hrc).trans hn), hself, hother, hctrs, hstr,
      congrArg (fun t : State => { t with ctrs := s.ctrs }) hframe⟩
  case add =>
    intro s i vs hs hn hlen hw
    obtain ⟨m, p, hm, hval, hsame⟩ := foldl_semAdd i vs 0 s hlen
    exact ⟨{ s with orr := { s.orr with sems := m }, pwr := p }, barAct_live (f := fun s =>
      vs.zipIdx.foldl (fun t (x : W64 × Nat) =>
      if i.val + x.2 < 1024 then semChange t (i.val + x.2) true (x.1.truncate 32) else t) s) hs hw hm hn, hval, hsame, rfl⟩
  case port =>
    intro s att i add v same hs hn
    have hrun (t : State) (ht : semDo s i add v [1, att.val] same = t) (hneed : t.rc.need = []) :
        exec (.chipPortSemaphore i add ⟨att, v, same⟩) s = .next t :=
      act_eq_next (f := fun s => semDo s i add v [1, att.val] same) hs ht hneed
    refine ⟨fun hone => ?_, fun o hadd hsame ho => ⟨fun hlt => ?_, fun hge => ?_⟩⟩
    · cases add with
      | true =>
        obtain ⟨p, h⟩ := semChange_add_eq s i v
        obtain ⟨hself, hother⟩ := semOf_mset (s := s) (t := semChange s i true v) (by rw [h])
        exact ⟨_, hrun _ rfl (by rw [semDo, if_pos rfl, h]; exact hn), hself, hother, by rw [semDo, if_pos rfl, h],
          by rw [semDo, if_pos rfl, h]⟩
      | false =>
        obtain ⟨hself, hother, -, hstr, hrc, hframe⟩ := semPut_changes s i v [1, att.val]
        exact ⟨_, hrun _ (semSet_alone (hone.resolve_left (by decide))) ((congrArg Cache.need hrc).trans hn), hself, hother,
          hstr, hframe⟩
    · subst hadd hsame
      exact hrun _ (semSet_lost ho hlt) hn
    · subst hadd hsame
      obtain ⟨hself, hother, hctrs, -, hrc, hframe⟩ := semPut_changes (bump1 s ctrChipSemSetLost) i v [1, att.val]
      exact ⟨_, hrun _ (semSet_over ho hge) ((congrArg Cache.need hrc).trans hn), hself, hother, hctrs,
        congrArg (fun t : State => { t with ctrs := s.ctrs }) hframe⟩

end Sys2Proof.Machine
end

section
/-! PROOFS. SEM_WAIT, SEM_SIGNAL and FENCE of a queue (R455 to R457). -/

namespace Sys2Proof.Machine

section
variable {s : State} {cid : Nat} {c : Cmd} (hs : stopped s = false) (hc : cmdOf s cid = some c)

/-- A command that may start is run by its row. -/
theorem withCmd_starts {op : Nat} {f : Cmd → State → State} (hc : cmdOf s cid = some c) (hb : c.badLine = false)
    (hop : c.op = op) (hst : mayStart s c = true) : withCmd s cid op f = f c s := by
  simp [withCmd, hc, hb, hop, hst]

theorem cmdOf_finish_of {t : State} (h : t.orr.cmds = s.orr.cmds) (hc : cmdOf s cid = some c) :
    cmdOf (finish t cid) cid = some { c with phase := .done } := by
  have ht : cmdOf t cid = some c := by rw [cmdOf, h]; exact hc
  unfold finish
  rw [cmdOf_updCmd_self]
  · rw [ht]
    rfl
  · exact fun _ => rfl

include hs hc

section
variable (hb : c.badLine = false) (hst : mayStart s c = true)
include hb hst

theorem exec_semWait {t : State} (hop : c.op = 0x07) (hok : controlOk c = true) (hneed : t.rc.need = [])
    (ht : (if reached (semOf s (c.f 0 8 10)) ((c.w 1).truncate 32) then finish s cid else waitCmd s c) = t) :
    exec (.semWait cid) s = .next t := by
  show execSemWait cid s = _
  refine act_eq_next hs ((withCmd_starts hc hb hop hst).trans ?_) hneed
  simpa only [hok, Bool.not_true, Bool.false_eq_true, if_false] using ht

theorem exec_semSignal {t : State} {same : Bool} (hop : c.op = 0x08) (hok : controlOk c = true) (hneed : t.rc.need = [])
    (ht : (if c.own != .queue || earlierDone s c then
        finish (semDo s (c.f 0 8 10) (bit (c.w 0) 18) ((c.w 1).truncate 32) (cmdSource c) same) cid
      else qRefresh s c.q) = t) : exec (.semSignal ⟨cid, same⟩) s = .next t := by
  show execSemSignal ⟨cid, same⟩ s = _
  refine act_eq_next hs ((withCmd_starts hc hb hop hst).trans ?_) hneed
  simpa only [hok, Bool.not_true, Bool.false_eq_true, if_false] using ht

theorem exec_fence {t : State} (hop : c.op = 0x0A) (hok : controlOk c = true) (hneed : t.rc.need = [])
    (ht : (if c.own != .queue || earlierDone s c then finish s cid else qRefresh s c.q) = t) :
    exec (.fence cid) s = .next t := by
  show execFence cid s = _
  refine act_eq_next hs ((withCmd_starts hc hb hop hst).trans ?_) hneed
  simpa only [hok, Bool.not_true, Bool.false_eq_true, if_false] using ht

/-- A waiting SEM_WAIT holds its queue, and changes nothing else (R457). -/
theorem semWait_waits (hn : s.rc.need = []) (hop : c.op = 0x07) (hok : controlOk c = true)
    (hlow : reached (semOf s (c.f 0 8 10)) ((c.w 1).truncate 32) = false) :
    ∃ t, exec (.semWait cid) s = .next t ∧ cmdOf t cid = some { c with phase := .waiting } ∧ t.orr.sems = s.orr.sems ∧
      { t with orr := { t.orr with cmds := s.orr.cmds, queues := s.orr.queues } } = s := by
  obtain ⟨st, cf, hr⟩ := qRefresh_eq (updCmd s cid (fun c => { c with phase := .waiting })) c.q
  have hwait : waitCmd s c = qRefresh (updCmd s cid (fun c => { c with phase := .waiting })) c.q := by
    rw [waitCmd, cmdOf_cid hc]
  refine ⟨_, exec_semWait hs hc hb hst hop hok (t := waitCmd s c) ?_ ?_, ?_, ?_, ?_⟩
  · rw [hwait, hr]
    exact hn
  · rw [hlow]
    exact if_neg (by decide)
  · rw [hwait, hr]
    refine Eq.trans ?_ (congrArg (Option.map (fun c : Cmd => { c with phase := .waiting })) hc)
    exact cmdOf_updCmd_self s cid (fun c => { c with phase := .waiting }) (fun _ => rfl)
  · rw [hwait, hr]
    rfl
  · rw [hwait, hr]
    rfl

end
end

theorem goes_of {c : Cmd} {e : Bool} (h : c.own ≠ .queue ∨ e = true) : (c.own != .queue || e) = true := by
  simpa using h

theorem waits_of {c : Cmd} {e : Bool} (hown : c.own = .queue) (he : e = false) : ¬ (c.own != .queue || e) = true := by
  simp [hown, he]

theorem semPut_mem (s : State) (i : Nat) (v : W32) (src : List Nat) : (semPut s i v src).mem = s.mem := by
  obtain ⟨l, p, h⟩ := semChange_set_eq s i v
  simp only [semPut, h]

theorem semPut_cmds (s : State) (i : Nat) (v : W32) (src : List Nat) : (semPut s i v src).orr.cmds = s.orr.cmds := by
  obtain ⟨l, p, h⟩ := semChange_set_eq s i v
  simp only [semPut, h]

/-- The parts of the state that a signal leaves as they were: memory, the row cache, counters and the commands. -/
theorem semDo_takes (s : State) {i : Nat} {add : Bool} {v : W32} {src : List Nat} {same : Bool}
    (h : add = true ∨ same = false ∨ mget? s.orr.semSets i = none) :
    semOf (semDo s i add v src same) i = (if add then semOf s i + v else v) ∧
      (∀ k, k ≠ i → semOf (semDo s i add v src same) k = semOf s k) ∧ (semDo s i add v src same).mem = s.mem ∧
      (semDo s i add v src same).rc = s.rc ∧ (semDo s i add v src same).ctrs = s.ctrs ∧
      (semDo s i add v src same).orr.cmds = s.orr.cmds := by
  cases add with
  | true =>
    obtain ⟨p, hp⟩ := semChange_add_eq s i v
    obtain ⟨hself, hother⟩ := semOf_mset (s := s) (t := semChange s i true v) (by rw [hp])
    rw [semDo, if_pos rfl]
    refine ⟨hself, hother, ?_, ?_, ?_, ?_⟩ <;> rw [hp]
  | false =>
    obtain ⟨hself, hother, hctrs, -, hrc, -⟩ := semPut_changes s i v src
    rw [semDo, if_neg (by decide), semSet_alone (h.resolve_left (by decide))]
    exact ⟨hself, hother, semPut_mem .., hrc, hctrs, semPut_cmds ..⟩

/-- A SET that shares its ACLK with another: the lower source's stays, and one is counted as lost (R455; log entry 87). -/
theorem semDo_shared (s : State) {i : Nat} {v : W32} {src o : List Nat} (ho : mget? s.orr.semSets i = some o) :
    semOf (semDo s i false v src true) i = (if o < src then semOf s i else v) ∧
      (∀ k, k ≠ i → semOf (semDo s i false v src true) k = semOf s k) ∧ (semDo s i false v src true).mem = s.mem ∧
      (semDo s i false v src true).rc = s.rc ∧
      (semDo s i false v src true).ctrs = addCtr s.ctrs ctrChipSemSetLost 1 ∧
      (semDo s i false v src true).orr.cmds = s.orr.cmds := by
  rw [semDo, if_neg (by decide)]
  by_cases hlt : o < src
  · rw [semSet_lost ho hlt, if_pos hlt]
    exact ⟨rfl, fun k _ => rfl, rfl, rfl, rfl, rfl⟩
  · obtain ⟨hself, hother, hctrs, -, hrc, -⟩ := semPut_changes (bump1 s ctrChipSemSetLost) i v src
    rw [semSet_over ho hlt, if_neg hlt]
    exact ⟨hself, hother, semPut_mem .., hrc, hctrs, semPut_cmds ..⟩

/-- Settles O34. -/
theorem queueControlTakesEffect : Obligations.QueueControlTakesEffect := by
  refine ⟨?wait, ?release, ?signal, ?fence, ?bad⟩
  case wait =>
    intro s cid c hs hn hc hb hop hst hok
    exact ⟨fun hr => exec_semWait hs hc hb hst hop hok hn (if_pos hr), semWait_waits hs hc hb hst hn hop hok⟩
  case release =>
    intro s cid c hs hn hc hop hph
    show execSemWaitRelease cid s = _
    refine act_eq_next hs ?_ ?_
    · simp only [hc, hop, hph, beq_self_eq_true, Bool.true_and]
    · split <;> exact hn
  case signal =>
    intro s cid c same i hs hn hc hb hop hst hok hi
    subst hi
    refine ⟨fun hgo hone => ?_, fun o hgo hset hsame ho => ?_, fun hown he => ?_⟩
    · obtain ⟨hself, hother, hmem, hrc, hctrs, hcmds⟩ := semDo_takes s (v := (c.w 1).truncate 32) (src := cmdSource c) hone
      exact ⟨finish _ cid, exec_semSignal hs hc hb hst hop hok ((congrArg Cache.need hrc).trans hn) (if_pos (goes_of hgo)),
        cmdOf_finish_of hcmds hc, hself, hother, hmem, hrc, hctrs⟩
    · subst hsame
      obtain ⟨hself, hother, hmem, hrc, hctrs, hcmds⟩ :=
        semDo_shared s (v := (c.w 1).truncate 32) (src := cmdSource c) ho
      rw [← hset] at hself hother hmem hrc hctrs hcmds
      exact ⟨finish _ cid, exec_semSignal hs hc hb hst hop hok ((congrArg Cache.need hrc).trans hn) (if_pos (goes_of hgo)),
        cmdOf_finish_of hcmds hc, hself, hother, hmem, hrc, hctrs⟩
    · exact exec_semSignal hs hc hb hst hop hok hn (if_neg (waits_of hown he))
  case fence =>
    intro s cid c hs hn hc hb hop hst hok
    exact ⟨fun hgo => exec_fence hs hc hb hst hop hok hn (if_pos (goes_of hgo)),
      fun hown he => exec_fence hs hc hb hst hop hok hn (if_neg (waits_of hown he))⟩
  case bad =>
    intro s cid c same hs hn hc hb hst hok
    have hbad : (!controlOk c) = true := by rw [hok]; rfl
    refine ⟨fun hop => ?_, fun hop => ?_, fun hop => ?_, fun hop => ?_⟩
    · show execSemWait cid s = _
      exact act_eq_next hs ((withCmd_starts hc hb hop hst).trans (if_pos hbad)) hn
    · show execSemSignal ⟨cid, same⟩ s = _
      exact act_eq_next hs ((withCmd_starts hc hb hop hst).trans (if_pos hbad)) hn
    · show execLaunch cid s = _
      exact act_eq_next hs ((withCmd_starts hc hb hop hst).trans (if_neg (by rw [hok]; decide))) hn
    · show execFence cid s = _
      exact act_eq_next hs ((withCmd_starts hc hb hop hst).trans (if_pos hbad)) hn

end Sys2Proof.Machine
end

section
/-! PROOFS. Dispatch, time slices, pre-emption, restore and hang checks (R467 to R469, R471, R473 to R475, R477). -/

namespace Sys2Proof.Machine

/-! ### Dispatch -/

theorem unitOf_updUnit_ne (s : State) {uid d : Nat} (f : Unit' → Unit') (hf : ∀ v, (f v).uid = v.uid) (h : d ≠ uid) :
    unitOf (updUnit s uid f) d = unitOf s d := by
  have hfind : unitOf (updUnit s uid f) d = (unitOf s d).map (fun v => if v.uid = uid then f v else v) :=
    find?_map_of_eq (fun v => by split <;> simp [hf]) s.orr.units
  rw [hfind]
  cases hu : unitOf s d with
  | none => rfl
  | some v => rw [Option.map_some, if_neg fun hv => h ((unitOf_uid hu).symm.trans hv)]

/-- The unit that an instance takes is ready, and its tile is free and of its queue's set (R467). -/
theorem nextUnit_spec {s : State} {quad k : Nat} {lc : Bool} {u : Unit'} (h : nextUnit s quad lc = some (u, k)) :
    unitReady s u = true ∧ busyTile s k = false ∧ (unitHome s u).tiles.getLsbD k = true := by
  unfold nextUnit at h
  obtain ⟨q, -, hq⟩ := List.exists_of_findSome?_eq_some h
  obtain ⟨v, hv, ht⟩ := List.exists_of_findSome?_eq_some hq
  obtain ⟨t, hfree, heq⟩ := Option.map_eq_some_iff.mp ht
  cases heq
  have hready := (List.mem_filter.mp (List.mem_filter.mp hv).1).2
  have htile := List.find?_some hfree
  simp only [Bool.and_eq_true, Bool.not_eq_true'] at hready htile
  exact ⟨hready.1.2, htile.2, htile.1⟩

theorem dispatch_takes {s : State} {quad k : Nat} {u : Unit'} (hl : live s = true)
    (h : nextUnit s quad true = some (u, k) ∨ (nextUnit s quad true = none ∧ nextUnit s quad false = some (u, k))) :
    dispatch s quad = startUnit s u k := by
  rcases h with h | ⟨h, hb⟩
  · simp [dispatch, hl, h]
  · simp [dispatch, hl, h, hb]

theorem dispatch_none {s : State} {quad : Nat}
    (h : live s = false ∨ (nextUnit s quad true = none ∧ nextUnit s quad false = none)) : dispatch s quad = s := by
  rcases h with h | ⟨h, hb⟩
  · simp [dispatch, h]
  · simp [dispatch, h, hb]

/-- A unit as it starts on a tile (R157, R467). -/
def Unit'.startedOn (s : State) (u : Unit') (k : Nat) (v : Unit') : Unit' :=
  { v with st := .running, tile := k, scratch := if u.seg.isSome && !u.expand then lowestFree s.orr.scratch 2048 else none }

/-- The state in which a unit has its tile, before the tile notes the pass of a quiescence point (R467). -/
def unitPlaced (s : State) (u : Unit') (k : Nat) : State :=
  let h := unitHome s u
  let s1 := updUnit s u.uid (Unit'.startedOn s u k)
  { s1 with orr := { s1.orr with
    scratch := (match (if u.seg.isSome && !u.expand then lowestFree s.orr.scratch 2048 else none) with
      | some k => sins s1.orr.scratch k
      | none => s1.orr.scratch),
    started := sdel s1.orr.started u.uid ++ [u.uid],
    sliced := if h.lc then sdel s1.orr.sliced h.q else s1.orr.sliced,
    rrLc := if h.lc then h.q else s1.orr.rrLc, rrBe := if h.lc then s1.orr.rrBe else h.q } }

theorem startUnit_eq (s : State) (u : Unit') (k : Nat) : ∃ al, startUnit s u k = { unitPlaced s u k with alm := al } :=
  notePass_eq (unitPlaced s u k) k

theorem startUnit_starts (s : State) (u : Unit') (k : Nat) :
    (startUnit s u k).rc = s.rc ∧ (startUnit s u k).orr.started = sdel s.orr.started u.uid ++ [u.uid] ∧
      (∀ v, unitOf s u.uid = some v → unitOf (startUnit s u k) u.uid = some (Unit'.startedOn s u k v)) ∧
      (∀ d, d ≠ u.uid → unitOf (startUnit s u k) d = unitOf s d) ∧
      { startUnit s u k with alm := s.alm, orr := { (startUnit s u k).orr with
        units := s.orr.units, scratch := s.orr.scratch, started := s.orr.started, sliced := s.orr.sliced,
        rrLc := s.orr.rrLc, rrBe := s.orr.rrBe } } = s := by
  obtain ⟨al, hal⟩ := startUnit_eq s u k
  rw [hal]
  refine ⟨rfl, rfl, fun v hv => ?_, fun d hd => ?_, rfl⟩
  · exact unitOf_updUnit (Unit'.startedOn s u k) hv (fun _ h => h)
  · exact unitOf_updUnit_ne s (Unit'.startedOn s u k) (fun _ => rfl) hd

/-! ### A unit that drains stays -/

theorem unitOf_probeBack {s : State} {uid i : Nat} (h : (unitOf s uid).isSome = true) :
    (unitOf (probeBack s uid i) uid).isSome = true := by
  rcases hrun : runningLk s uid with _ | ⟨u, j⟩
  · rw [probeBack, hrun]
    exact h
  rcases he : u.ents[i]? with _ | e
  · simp only [probeBack, hrun, he]
    exact h
  cases hgo : e.probe != .pending || e.queued with
  | true =>
    rw [probeBack_idle hrun he hgo]
    exact h
  | false =>
    obtain ⟨hp, hq⟩ : e.probe = .pending ∧ e.queued = false := by simpa using hgo
    cases hprobe : probe s j.desc e.row with
    | mk s1 found =>
      obtain ⟨f, g, hg, -⟩ := probeBack_settles hrun he hp hq hprobe
      obtain ⟨x, hx, -⟩ := hg.unit
      exact (congrArg Option.isSome hx).trans rfl

theorem unitOf_rowArrive {s : State} {uid i : Nat} (h : (unitOf s uid).isSome = true) :
    (unitOf (rowArrive s uid i) uid).isSome = true := by
  rcases hrun : runningLk s uid with _ | ⟨u, j⟩
  · rw [rowArrive, hrun]
    exact h
  rcases he : u.ents[i]? with _ | e
  · simp only [rowArrive, hrun, he]
    exact h
  have hserves : Serves s uid i e := ⟨u, j, hrun, he⟩
  rcases hl : e.late with _ | ⟨src, win⟩
  · cases hgo : e.queued || e.data.isSome || e.src == .none || stageFull j u e with
    | true =>
      simp only [rowArrive, hrun, he, hl, hgo]
      exact h
    | false =>
      obtain ⟨⟨⟨hq, hd⟩, hsrc⟩, hst⟩ : ((e.queued = false ∧ e.data = none) ∧ e.src ≠ .none) ∧ stageFull j u e = false := by
        simpa using hgo
      have hmem := onlyMem_rowRead s j.desc u.tile e.row e.src
      rcases hread : rowRead s j.desc u.tile e.row e.src with ⟨s1, b, bad⟩
      rw [hread] at hmem
      have hun : OnlyMem s (unRise s s1) := hmem.trans (onlyMem_ctrs _ _)
      have hret := (hserves.onlyMem hun).setTile u.tile
        (giveCredits (tileOf (unRise s s1) u.tile) j.lc (srcSectors (descOf s j.desc) e.src))
      obtain ⟨-, f, hf, -⟩ := dataTaken_arrives hret s j (b, bad) (ctrRise s s1)
      obtain ⟨g, hg, -⟩ := hf.enterAndPass u.tile
      obtain ⟨x, hx, -⟩ := hg.unit
      rw [rowArrive_eq hrun he hl hq hd hsrc hst hread]
      exact (congrArg Option.isSome hx).trans rfl
  · obtain ⟨hlate, -⟩ := lateArrive_returns hserves (unitOf_uid (runningLk_eq_some.mp hrun).1) j src win
    obtain ⟨x, hx, -⟩ := (hlate.sameWork (sameWork_notePass _ u.tile)).unit
    rw [rowArrive_late hrun he hl, hx]
    rfl

theorem unitOf_drainUnit {s : State} {uid : Nat} (h : (unitOf s uid).isSome = true) :
    (unitOf (drainUnit s uid) uid).isSome = true := by
  have hfold (f : State → Nat → State) (hf : ∀ t i, (unitOf t uid).isSome = true → (unitOf (f t i) uid).isSome = true)
      (l : List Nat) (t : State) (ht : (unitOf t uid).isSome = true) : (unitOf (l.foldl f t) uid).isSome = true := by
    induction l generalizing t with
    | nil => exact ht
    | cons i l ih => exact ih _ (hf t i ht)
  unfold drainUnit
  extract_lets n s1 s2
  have h1 : (unitOf s1 uid).isSome = true := hfold _ (fun t i ht => unitOf_probeBack ht) _ _ h
  have h2 : (unitOf s2 uid).isSome = true := hfold _ (fun t i ht => unitOf_rowArrive (unitOf_rowArrive ht)) _ _ h1
  exact h2

/-! ### Pre-emption and restore -/

/-- The unit that a ready LC unit displaces runs, and is a BE one (R468). -/
theorem preemptTarget_spec {s : State} {u : Unit'} (h : preemptTarget s = some u) :
    unitOf s u.uid = some u ∧ u.st = .running ∧ (unitHome s u).lc = false := by
  unfold preemptTarget at h
  obtain ⟨v, -, hv⟩ := List.exists_of_findSome?_eq_some h
  simp only at hv
  split at hv
  · cases hv
  obtain ⟨uid, -, hu⟩ := List.exists_of_findSome?_eq_some hv
  obtain ⟨w, hw, heq⟩ := Option.bind_eq_some_iff.mp hu
  split at heq
  · rename_i hc
    cases heq
    simp only [Bool.and_eq_true, beq_iff_eq, Bool.not_eq_true'] at hc
    obtain ⟨⟨hst, hlc⟩, -⟩ := hc
    exact ⟨(unitOf_uid hw).symm ▸ hw, hst, hlc⟩
  · cases heq

theorem saveEnts_uid (s : State) (j : Option LkJob) (v : Unit') : (saveEnts s j v).uid = v.uid := by
  cases j <;> rfl

/-- A saved unit keeps no data of rows that were not confirmed (R474). -/
theorem saveEnts_data (s : State) (j : Option LkJob) (v : Unit') :
    ∀ e ∈ (saveEnts s j v).ents, e.conf = false → e.data = none := by
  intro e he hconf
  unfold saveEnts at he
  obtain ⟨f, -, rfl⟩ := List.mem_map.mp he
  split at hconf
  · rename_i hf
    exact absurd (hf.symm.trans hconf) (by decide)
  · rename_i hf
    rw [if_neg hf]

/-- The state in which a drained unit has its save record, before its tile notes the pass of a quiescence point (R474). -/
def unitSaved (s : State) (u : Unit') (k : Nat) : State :=
  let j := if u.expand then none else jobOf s u.jid
  let s2 := updUnit s u.uid (fun v => { saveEnts s j v with st := .saved, save := some k })
  { s2 with orr := { s2.orr with saves := sins s2.orr.saves k, started := sdel s2.orr.started u.uid },
            sc := { s2.sc with saved := s2.sc.saved ++ [(u.tile, u.uid)] } }

theorem switchOut_eq {s : State} {u : Unit'} {k : Nat} (hk : lowestFree s.orr.saves 192 = some k) :
    ∃ al, switchOut s u = { unitSaved (drainUnit s u.uid) u k with alm := al } := by
  obtain ⟨al, hal⟩ := notePass_eq (unitSaved (drainUnit s u.uid) u k) u.tile
  refine ⟨al, Eq.trans ?_ hal⟩
  simp only [switchOut, hk]
  rfl

/-- A unit with a free save record goes to it (R474, R475). -/
theorem switchOut_saves {s : State} {u : Unit'} {k : Nat} (hk : lowestFree s.orr.saves 192 = some k)
    (hu : unitOf s u.uid = some u) :
    ∃ x, unitOf (switchOut s u) u.uid = some x ∧ x.st = .saved ∧ x.save = some k ∧
      (∀ e ∈ x.ents, e.conf = false → e.data = none) ∧ k ∈ (switchOut s u).orr.saves ∧
      u.uid ∉ (switchOut s u).orr.started := by
  obtain ⟨v, hv⟩ := Option.isSome_iff_exists.mp (unitOf_drainUnit (s := s) (uid := u.uid) (by rw [hu]; rfl))
  obtain ⟨al, hal⟩ := switchOut_eq (u := u) hk
  rw [hal]
  generalize drainUnit s u.uid = s1 at hv
  generalize hj : (if u.expand then none else jobOf s1 u.jid) = j
  refine ⟨{ saveEnts s1 j v with st := .saved, save := some k }, ?_, rfl, rfl, saveEnts_data s1 j v, ?_, ?_⟩
  · subst hj
    exact unitOf_updUnit (fun v => { saveEnts s1 _ v with st := .saved, save := some k }) hv
      (fun w hw => (saveEnts_uid s1 _ w).trans hw)
  · exact mem_sins_self ..
  · exact fun h => (mem_sdel.mp h).2 rfl

theorem preempt_saves {s : State} {u : Unit'} {k : Nat} (hk : lowestFree s.orr.saves 192 = some k)
    (hu : unitOf s u.uid = some u) :
    ∃ x, unitOf (preempt s u) u.uid = some x ∧ x.st = .saved ∧ x.save = some k ∧
      (∀ e ∈ x.ents, e.conf = false → e.data = none) ∧ k ∈ (preempt s u).orr.saves ∧ u.uid ∉ (preempt s u).orr.started := by
  obtain ⟨x, hx, hst, hsave, hents, hin, hout⟩ := switchOut_saves hk hu
  have horr : (preempt s u).orr = (switchOut s u).orr := bumpIf_orr ..
  rw [unitOf_eq_of_orr horr, horr]
  exact ⟨x, hx, hst, hsave, hents, hin, hout⟩

/-- Without a free save record the pre-emption only counts (R474). -/
theorem preempt_full {s : State} {u : Unit'} (hk : lowestFree s.orr.saves 192 = none) :
    preempt s u = bump1 s ctrChipSaveFull := by
  simp [preempt, switchOut, hk, bumpIf]

theorem exec_preemptL2 {s t : State} {u : Unit'} (hs : stopped s = false) (hl : live s = true)
    (h : preemptTarget s = some u) (ht : preempt s u = t) (hn : t.rc.need = []) :
    exec (.preemptL2 u.uid) s = .next t := by
  show execPreemptL2 u.uid s = _
  refine act_eq_next hs ?_ hn
  simp only [h, hl, beq_self_eq_true, Bool.and_self, if_true]
  exact ht

/-- Reads of a unit issue or wait: the tiles' credits and the unit's entries change. -/
structure Reissued (uid : Nat) (s t : State) : Prop where
  frame : ∃ ts us, t = { s with tiles := ts, orr := { s.orr with units := us } }
  unit : ∀ x, unitOf s uid = some x → ∃ es, unitOf t uid = some { x with ents := es }

namespace Reissued

variable {uid : Nat} {s t u : State}

theorem refl (s : State) : Reissued uid s s := ⟨⟨s.tiles, s.orr.units, rfl⟩, fun x hx => ⟨x.ents, hx⟩⟩

theorem trans (h : Reissued uid s t) (k : Reissued uid t u) : Reissued uid s u := by
  obtain ⟨ts, us, rfl⟩ := h.frame
  obtain ⟨ts', us', rfl⟩ := k.frame
  refine ⟨⟨ts', us', rfl⟩, fun x hx => ?_⟩
  obtain ⟨es, hes⟩ := h.unit x hx
  obtain ⟨es', hes'⟩ := k.unit _ hes
  exact ⟨es', hes'⟩

theorem foldl {α : Type} {f : State → α → State} (hf : ∀ s a, Reissued uid s (f s a)) (l : List α) (s : State) :
    Reissued uid s (l.foldl f s) := by
  induction l generalizing s with
  | nil => exact refl s
  | cons a l ih => exact (hf s a).trans (ih _)

end Reissued

theorem reissued_issueRead (s : State) (u : Unit') (lc : Bool) (i n : Nat) : Reissued u.uid s (issueRead s u lc i n) := by
  unfold issueRead
  simp only []
  split
  all_goals exact ⟨⟨_, _, rfl⟩, fun x hx => ⟨_, unitOf_updEnt (s := setTile s u.tile _) i _ hx⟩⟩

theorem reissued_reissue (s : State) (uid : Nat) : Reissued uid s (reissue s uid) := by
  unfold reissue
  split
  · exact Reissued.refl s
  next u hu =>
  split
  · exact Reissued.refl s
  split
  · exact Reissued.refl s
  refine Reissued.foldl (fun t i => ?_) _ s
  split
  · split
    · exact Reissued.refl t
    · exact unitOf_uid hu ▸ reissued_issueRead ..
  · exact Reissued.refl t

/-- The state in which a saved unit is on a tile again, before the tile notes the pass of a quiescence point and the unit's
reads issue again (R475). -/
def unitBack (s : State) (u : Unit') (uid t : Nat) : State :=
  let s1 := updUnit s uid (fun v => { v with st := .running, tile := t, save := none })
  { s1 with
    orr := { s1.orr with
      saves := (match u.save with
        | some k => sdel s1.orr.saves k
        | none => s1.orr.saves),
      started := s1.orr.started ++ [uid] },
    sc := { s1.sc with saved := s1.sc.saved.filter (fun e => e.2 != uid) } }

section
variable {s : State} {uid t : Nat} {u : Unit'} (hu : unitOf s uid = some u)
include hu

theorem restore_takes (hl : live s = true) (hst : u.st = .saved) (htile : (unitHome s u).tiles.getLsbD t = true)
    (hbusy : busyTile s t = false) (hq : (qOf s (unitHome s u).q).st ≠ .switched)
    (hlc : ∀ v ∈ s.orr.units, (unitHome s v).lc = true → unitReady s v = false) :
    restore s uid t = reissue (notePass (unitBack s u uid t) t) uid := by
  have hno : s.orr.units.any (fun v => (unitHome s v).lc && unitReady s v) = false := by
    simpa using hlc
  unfold restore
  simp only [hu]
  refine if_neg ?_
  simp [hl, hst, htile, hbusy, hq, hno]

theorem restored_leaves {t' : State} (ht : t' = reissue (notePass (unitBack s u uid t) t) uid) :
    t'.rc = s.rc ∧ ∃ x, unitOf t' uid = some x ∧ x.st = .running ∧ x.tile = t ∧ x.save = none ∧ x.cursor = u.cursor ∧
      (∀ k, u.save = some k → k ∉ t'.orr.saves) ∧ t'.orr.started = s.orr.started ++ [uid] ∧
      { t' with alm := s.alm, tiles := s.tiles, sc := s.sc,
                orr := { t'.orr with units := s.orr.units, saves := s.orr.saves, started := s.orr.started } } = s := by
  obtain ⟨al, hal⟩ := notePass_eq (unitBack s u uid t) t
  rw [hal] at ht
  have hre := reissued_reissue { unitBack s u uid t with alm := al } uid
  have hback : unitOf { unitBack s u uid t with alm := al } uid = some { u with st := .running, tile := t, save := none } :=
    unitOf_updUnit (fun v => { v with st := .running, tile := t, save := none }) hu (fun _ h => h)
  obtain ⟨es, hes⟩ := hre.unit _ hback
  obtain ⟨ts, us, hframe⟩ := hre.frame
  rw [← ht] at hes hframe
  refine ⟨by rw [hframe]; rfl, _, hes, rfl, rfl, rfl, rfl, fun k hk => ?_, by rw [hframe]; rfl, by rw [hframe]; rfl⟩
  rw [hframe]
  simp only [unitBack, hk]
  exact fun h => (mem_sdel.mp h).2 rfl

end

/-! ### Time slices and hang checks -/

/-- What the end of a slice does, by what runs on contended tiles and by the queue's class (R469, R471, R473). -/
theorem sliceEnd_eq {s p u : State} {q : Nat} {mine : List Unit'}
    (hmine : mine = s.orr.units.filter (fun u => u.st == .running && (unitHome s u).q == q &&
      (contended s q (qLc s q)).contains u.tile))
    (hp : p = if (qOf s q).owed = 0 then s
      else setQ s q { qOf s q with owed := (qOf s q).owed - 1024 * ((qOf s q).conf.map (fun c => c.slice)).getD 0 })
    (hu : u = if queueCommits s q then
      bump1 { p with orr := { p.orr with overrun := sins p.orr.overrun q } } (ctrQueueSliceOvr q) else p) :
    sliceEnd s q = if !live s || mine.isEmpty then s
      else if qLc s q then bump1 { u with orr := { u.orr with rrLc := q, sliced := sins u.orr.sliced q } } (ctrQueuePreemptL1 q)
      else { mine.foldl preempt u with orr := { (mine.foldl preempt u).orr with rrBe := q } } := by
  subst hu hp hmine
  rfl

theorem exec_hangCheck {s t : State} {g : HangTarget} (hs : stopped s = false) (hp : s.pwr.park = .running)
    (ht : (match g with
      | .queue q => hangQueue s q
      | .tile t => hangTile s t) = t) (hn : t.rc.need = []) : exec (.hangCheck g) s = .next t := by
  show execHangCheck g s = _
  refine act_eq_next hs ((if_neg (by simp [hp])).trans ?_) hn
  cases g <;> exact ht

/-- Settles O35. -/
theorem schedulingTakesEffect : Obligations.SchedulingTakesEffect := by
  refine ⟨?dispatch, ?idle, ?slice, ?preempt, ?full, ?restore, ?queue, ?tile, ?park⟩
  case dispatch =>
    intro s quad u k hs hn hl h
    obtain ⟨hready, hbusy, htiles⟩ : unitReady s u = true ∧ busyTile s k = false ∧ (unitHome s u).tiles.getLsbD k = true := by
      rcases h with h | ⟨-, h⟩ <;> exact nextUnit_spec h
    obtain ⟨hrc, hstarted, hunit, hother, hframe⟩ := startUnit_starts s u k
    exact ⟨_, act_eq_next (f := fun s => dispatch s quad) hs (dispatch_takes hl h) ((congrArg Cache.need hrc).trans hn), hready,
      hbusy, htiles, hstarted, hunit, hother, hframe⟩
  case idle =>
    exact fun s quad hs hn h => act_eq_next (f := fun s => dispatch s quad) hs (dispatch_none h) hn
  case slice =>
    intro s p u q mine hs hn hmine hp hu
    have heq := sliceEnd_eq hmine hp hu
    have hrc : u.rc = s.rc := by
      have hprc : p.rc = s.rc := by rw [hp]; split <;> rfl
      rw [hu]
      split <;> exact hprc
    refine ⟨fun h => ?_, fun hl hm hlc => ?_, fun hl hm hlc hneed => ?_⟩
    · refine act_eq_next (f := fun s => sliceEnd s q) hs (heq.trans (if_pos ?_)) hn
      rcases h with h | h <;> simp [h]
    · refine act_eq_next (f := fun s => sliceEnd s q) hs (heq.trans ((if_neg ?_).trans (if_pos hlc)))
        ((congrArg Cache.need hrc).trans hn)
      simpa [hl] using hm
    · refine act_eq_next (f := fun s => sliceEnd s q) hs (heq.trans ((if_neg ?_).trans (if_neg ?_))) hneed
      · simpa [hl] using hm
      · simp [hlc]
  case preempt =>
    intro s u k hs hl h hk hn
    obtain ⟨hu, hst, hlc⟩ := preemptTarget_spec h
    obtain ⟨x, hx, hxst, hsave, hents, hin, hout⟩ := preempt_saves hk hu
    exact ⟨_, x, exec_preemptL2 hs hl h rfl hn, hx, hxst, hsave, hents, hin, hout, hlc, hst⟩
  case full =>
    exact fun s u hs hn hl h hk => exec_preemptL2 hs hl h (preempt_full hk) hn
  case restore =>
    intro s uid tile u hs hn hl hu hst htile hbusy hq hlc
    obtain ⟨hrc, x, hx, hxst, hxt, hsave, hcur, hout, hstarted, hframe⟩ := restored_leaves (t := tile.val) hu rfl
    exact ⟨_, x, act_eq_next (f := fun s => restore s uid tile) hs (restore_takes hu hl hst htile hbusy hq hlc)
      ((congrArg Cache.need hrc).trans hn), hx, hxst, hxt, hsave, hcur, hout, hstarted, hframe⟩
  case queue =>
    intro s q now hs hn hnow
    refine ⟨fun hp he => ?_, fun hp he hne => ?_, fun hp he heq => ?_⟩
    · exact exec_hangCheck hs hp (if_pos (by simp [he])) hn
    · exact exec_hangCheck hs hp ((if_neg (by simp [he])).trans ((if_neg (hnow ▸ hne)).trans (by rw [hnow]))) hn
    · refine exec_hangCheck hs hp ((if_neg (by simp [he])).trans (if_pos (heq.trans hnow))) ?_
      rw [freezeOn_rc, raiseEvent_rc]
      exact hn
  case tile =>
    intro s k n hs hn hcount hp
    subst hcount
    refine ⟨fun hw => ?_, fun hw hne => ?_, fun hw heq => ?_⟩
    · exact exec_hangCheck hs hp (if_pos (by simp [hw])) hn
    · exact exec_hangCheck hs hp ((if_neg (by simpa using hw)).trans (if_neg hne)) hn
    · refine exec_hangCheck hs hp ((if_neg (by simpa using hw)).trans (if_pos heq)) ?_
      rw [freezeOn_rc, raiseEvent_rc]
      exact hn
  case park =>
    intro s g hs hn hp
    show execHangCheck g s = _
    exact act_eq_next hs (if_pos (by simpa using hp)) hn

end Sys2Proof.Machine
end

section
/-! PROOFS. Space for fanned-out lists (R433): a grant at the owner of a SCATTER. -/

namespace Sys2Proof.Machine

namespace TwoAlike

/-- A SCATTER that asks the ranks for space, with what it has heard so far. -/
def asking (ranks : List Nat) : Cmd :=
  { Cmd.new 1 0 1 .queue [0x02, 0, 0, 0, 0, 0, 0, 0] false 0 0x02 with phase := .waiting, ranks := ranks }

/-- A table split over three chips, and two SCATTERs that carry the same number, of which the second has heard rank 5. -/
def state : State :=
  { State.reset with
    pwr := { Pwr.reset with pllLock := true }
    tabs := { State.reset.tabs with
      descs := [(0, { Desc.reset with log2s := 2 })]
      groups := [(0, Machine.Group.mk 2 0 [0xFFF, 7, 8, 9])] }
    orr := { Orrery.reset with cmds := [asking [], asking [64 + 5]] } }

theorem state_asks : stopped state = false ∧ state.rc.need = [] ∧ cmdOf state 1 = some (asking []) ∧
    scAsking state (asking []) = true ∧ (2, 8) ∈ otherRanks state (descOf state (asking []).plan) ∧
    64 + 2 ∉ sins (asking []).ranks (64 + 1) := by
  decide +kernel

/-- What the second SCATTER has heard, in the state that an event answers. -/
def heardLast (o : Host.Outcome State Fault Refusal) : Option (List Nat) :=
  match o with
  | .next t => t.orr.cmds.getLast?.map (fun c => c.ranks)
  | _ => none

/-- A grant of rank 1 sets both commands to what the first has heard. -/
theorem grant_overwrites : heardLast (exec (.foGrant 1 1) state) = some [65] := by
  decide +kernel

end TwoAlike

/-- Refutes O36: the clause on a grant that is not the last holds only where no other command carries the same number, which it
does not ask. It adds the rank to what each command of that number has heard; the grant gives each of them what the first has
heard with the rank added. -/
theorem not_fanOutSpaceTakesEffect : ¬ Obligations.FanOutSpaceTakesEffect := by
  rintro ⟨-, -, hgrant, -⟩
  obtain ⟨hs, hn, hc, hask, hrank, hnot⟩ := TwoAlike.state_asks
  obtain ⟨hnext, -⟩ := hgrant TwoAlike.state 1 1 _ _ hs hn hc hask rfl
  have hheard := TwoAlike.grant_overwrites
  rw [hnext (2, 8) hrank hnot] at hheard
  exact absurd hheard (by decide +kernel)

end Sys2Proof.Machine
end

section
/-! PROOFS. Transit link events and messages (R427 to R429, R441 to R444). -/

namespace Sys2Proof.Machine

/-! ### Links -/

theorem mset_mset {α : Type} (m : FMap α) (n : Nat) (v w : α) : mset (mset m n v) n w = mset m n w := by
  induction m with
  | nil => simp [mset]
  | cons e m ih =>
    obtain ⟨k, a⟩ := e
    by_cases hk : k = n
    · simp [mset, hk]
    · by_cases hlt : n < k
      · simp [mset, hk, hlt]
      · simp [mset, hk, hlt, ih]

theorem setLink_setLink (s : State) (l : Nat) (x y : Link) : setLink (setLink s l x) l y = setLink s l y := by
  simp only [setLink, mset_mset]

theorem linkOf_setLink_self (s : State) (l : Nat) (x : Link) : linkOf (setLink s l x) l = x := mget_mset_self ..

theorem linkOf_setLink_ne (s : State) {l k : Nat} (x : Link) (h : k ≠ l) : linkOf (setLink s l x) k = linkOf s k :=
  mget_mset_ne _ _ _ _ _ h

theorem linkOf_of_tr {s t : State} (h : t.tr = s.tr) (l : Nat) : linkOf t l = linkOf s l :=
  congrArg (fun r : Transit => mget r.links l Link.reset) h

theorem pumpLink_of_empty {s : State} {l : Nat} (h : (linkOf s l).sendq = []) : pumpLink s l = s := by
  rw [pumpLink, h]
  rfl

theorem lossWork_of_none {s : State} (h : s.tr.lost = []) : lossWork s = s := by
  simp [lossWork, lossGo, h]

/-- Returned credits change the credits alone. -/
theorem foldl_flitCredit (l : List (Nat × Nat × Nat)) (x : Link) : ∃ c, l.foldl flitCredit x = { x with credits := c } := by
  induction l generalizing x with
  | nil => exact ⟨x.credits, rfl⟩
  | cons a l ih =>
    obtain ⟨c, h⟩ := ih (flitCredit x a)
    exact ⟨c, h⟩

theorem mem_replay_flitAck {x : Link} {ack : Nat} {l : List (Nat × Nat × Nat)} {e : Nat × TMsg} :
    e ∈ (l.foldl flitCredit (flitAck x ack)).replay ↔ e ∈ x.replay ∧ 2048 ≤ (ack + 4096 - e.1) % 4096 := by
  obtain ⟨c, h⟩ := foldl_flitCredit l (flitAck x ack)
  rw [h]
  simp [flitAck]

theorem sendq_flitAck {x : Link} {ack : Nat} {l : List (Nat × Nat × Nat)} :
    (l.foldl flitCredit (flitAck x ack)).sendq = x.sendq ∧ (l.foldl flitCredit (flitAck x ack)).returned = x.returned := by
  obtain ⟨c, h⟩ := foldl_flitCredit l (flitAck x ack)
  rw [h]
  exact ⟨rfl, rfl⟩

/-! ### A flit that arrives -/

/-- The receiver's side of a link after a flit: in order and not idle it advances (R427). -/
def flitTaken (x : Link) (f : TFlit) : Link :=
  let y := f.cred.foldl flitCredit (flitAck x f.ackseq)
  if f.idle = false ∧ f.seq = (x.rcvd + 1) % 4096 then
    { y with rcvd := f.seq, nak := false,
             returned := f.msgs.foldl (fun m g => mset m (pairOf g) (mget m (pairOf g) 0 + g.len)) y.returned }
  else y

/-- The link after a flit, with the replay that a NAK asks for (R441). -/
def flitLink (x : Link) (f : TFlit) : Link :=
  if f.nak then { flitTaken x f with replays := (flitTaken x f).replays + 1, naks := (flitTaken x f).naks + 1 }
  else flitTaken x f

theorem sendq_flitLink (x : Link) (f : TFlit) : (flitLink x f).sendq = x.sendq := by
  have h : (flitTaken x f).sendq = x.sendq := by
    unfold flitTaken
    simp only []
    split <;> exact sendq_flitAck.1
  unfold flitLink
  split <;> exact h

/-- The link layer's part of a flit that arrives on a link that is up. -/
def flitTook (s : State) (l : Nat) (f : TFlit) : State :=
  bumpIf (bump (setLink s l (flitLink (linkOf s l) f)) (ctrLinkTrFecCe l) f.fec) f.nak (ctrLinkTrReplay l)

theorem flitTook_tr (s : State) (l : Nat) (f : TFlit) :
    (flitTook s l f).tr = (setLink s l (flitLink (linkOf s l) f)).tr := by
  unfold flitTook bumpIf
  split <;> rfl

section
variable {s : State} {l : Nat} {f : TFlit}

theorem linkReplay_flitTaken : (if f.nak then linkReplay (bump (setLink s l (flitTaken (linkOf s l) f)) (ctrLinkTrFecCe l) f.fec) l
      else bump (setLink s l (flitTaken (linkOf s l) f)) (ctrLinkTrFecCe l) f.fec) = flitTook s l f := by
  unfold flitTook flitLink bumpIf
  split
  · have hlink : linkOf (bump (setLink s l (flitTaken (linkOf s l) f)) (ctrLinkTrFecCe l) f.fec) l = flitTaken (linkOf s l) f :=
      linkOf_setLink_self ..
    rw [linkReplay, hlink]
    exact congrArg (fun t => bump1 (bump t (ctrLinkTrFecCe l) f.fec) (ctrLinkTrReplay l)) (setLink_setLink s l _ _)
  · rfl

/-- The messages of a flit in order that are for other chips go on; then the link sends, losses are acted on, and a message of
a class other than CTL wakes a parked block (R425, R427, R522). -/
theorem flitArrive_up (hup : (linkOf s l).up = true) : flitArrive s l f =
    (let take := !f.idle && f.seq == ((linkOf s l).rcvd + 1) % 4096
     let s3 := if take then (f.msgs.filter (fun m => m.dst != s.mer.fabric)).foldl forwardMsg (flitTook s l f)
       else flitTook s l f
     let s4 := lossWork (pumpLink s3 l)
     if take && s4.pwr.park != .running && flitWakes f then wakeUp s4 else s4) := by
  have htaken : (if !f.idle && f.seq == ((linkOf s l).rcvd + 1) % 4096 then
      { f.cred.foldl flitCredit (flitAck (linkOf s l) f.ackseq) with
        rcvd := f.seq, nak := false,
        returned := f.msgs.foldl (fun m g => mset m (pairOf g) (mget m (pairOf g) 0 + g.len))
          (f.cred.foldl flitCredit (flitAck (linkOf s l) f.ackseq)).returned }
      else f.cred.foldl flitCredit (flitAck (linkOf s l) f.ackseq)) = flitTaken (linkOf s l) f := by
    unfold flitTaken
    simp
  rw [← linkReplay_flitTaken, ← htaken]
  exact if_neg (by simp [hup])

/-- With nothing to send and no loss to act on, the link's part of a flit is all that happens before a wake. -/
theorem flit_settles {t : State} (hlost : s.tr.lost = []) (hq : (linkOf s l).sendq = [])
    (ht : t.tr = (setLink s l (flitLink (linkOf s l) f)).tr) : lossWork (pumpLink t l) = t := by
  have hlink : linkOf t l = flitLink (linkOf s l) f := by
    rw [linkOf, ht]
    exact linkOf_setLink_self ..
  have hsend : (linkOf t l).sendq = [] := by rw [hlink, sendq_flitLink, hq]
  rw [pumpLink_of_empty hsend, lossWork_of_none]
  rw [ht]
  exact hlost

variable (hup : (linkOf s l).up = true) (hlost : s.tr.lost = []) (hq : (linkOf s l).sendq = [])
include hup hlost hq

theorem flitArrive_mine (hmine : ∀ m ∈ f.msgs, m.dst = s.mer.fabric) : flitArrive s l f =
    if (!f.idle && f.seq == ((linkOf s l).rcvd + 1) % 4096) && s.pwr.park != .running && flitWakes f then
      wakeUp (flitTook s l f) else flitTook s l f := by
  have hnone : f.msgs.filter (fun m => m.dst != s.mer.fabric) = [] := by
    simpa [List.filter_eq_nil_iff] using hmine
  have hpark : (flitTook s l f).pwr = s.pwr := by
    unfold flitTook bumpIf
    split <;> rfl
  rw [flitArrive_up hup]
  simp only [hnone, List.foldl_nil, ite_self, flit_settles hlost hq (flitTook_tr s l f), hpark]

theorem flitArrive_misroutes {m : TMsg} (hm : f.msgs = [m]) (hdst : m.dst ≠ s.mer.fabric)
    (hroute : mget? s.tr.routes m.dst.toNat = none) (hp : s.pwr.park = .running) (hidle : f.idle = false)
    (hseq : f.seq = ((linkOf s l).rcvd + 1) % 4096) :
    flitArrive s l f = bump1 (flitTook s l f) ctrChipTrMisroute := by
  have hother : f.msgs.filter (fun m => m.dst != s.mer.fabric) = [m] := by simp [hm, hdst]
  have htr := flitTook_tr s l f
  have hnone : mget? (flitTook s l f).tr.routes m.dst.toNat = none := by
    rw [htr]
    exact hroute
  have hfwd : forwardMsg (flitTook s l f) m = bump1 (flitTook s l f) ctrChipTrMisroute := by
    simp only [forwardMsg, hnone]
  have hpark : (bump1 (flitTook s l f) ctrChipTrMisroute).pwr.park = .running := by
    unfold flitTook bumpIf
    split <;> exact hp
  have hset := flit_settles (t := bump1 (flitTook s l f) ctrChipTrMisroute) hlost hq htr
  have htake : (!f.idle && f.seq == ((linkOf s l).rcvd + 1) % 4096) = true := by simp [hidle, hseq]
  rw [flitArrive_up hup]
  simp only [htake, hother, List.foldl_cons, List.foldl_nil, if_true, hfwd, hset, hpark]
  exact if_neg (by simp)

end

theorem flitTook_rc (s : State) (l : Nat) (f : TFlit) : (flitTook s l f).rc = s.rc := by
  unfold flitTook
  rw [bumpIf_rc]
  rfl

/-- A link layer event of a block that runs. -/
theorem linkAct_live {s t : State} {f g : State → State} (hs : stopped s = false) (hg : g s = t) (hn : t.rc.need = []) :
    linkAct s f g = .next t := by
  rw [linkAct, not_frozen_of_live hs]
  exact act_eq_next hs hg hn

theorem exec_transitFlit {s t : State} {l : Fin 48} {f : TFlit} (hs : stopped s = false) (ht : flitArrive s l f = t)
    (hn : t.rc.need = []) : exec (.transitFlit l f) s = .next t := by
  show execTransitFlit l f s = _
  exact linkAct_live hs ht hn

theorem flitWakes_iff {f : TFlit} : flitWakes f = true ↔ ∃ m ∈ f.msgs, m.cls ≠ 6 := by simp [flitWakes]

/-- A flit that reaches a frozen block moves its link's own layer: nothing is sent and no credit is returned (R558). -/
theorem frozenFlit_moves (s : State) (l : Nat) (f : TFlit) :
    { frozenFlit s l f with tr := { (frozenFlit s l f).tr with links := s.tr.links } } = s ∧
      (∀ k, k ≠ l → linkOf (frozenFlit s l f) k = linkOf s k) ∧
      (linkOf (frozenFlit s l f) l).sendq = (linkOf s l).sendq ∧
      (linkOf (frozenFlit s l f) l).returned = (linkOf s l).returned ∧
      ((linkOf s l).up = false → frozenFlit s l f = s) := by
  cases hup : (linkOf s l).up with
  | false =>
    have h : frozenFlit s l f = s := if_pos (by simp [hup])
    rw [h]
    exact ⟨rfl, fun k _ => rfl, rfl, rfl, fun _ => rfl⟩
  | true =>
    obtain ⟨x, hx, hsend, hret⟩ : ∃ x, frozenFlit s l f = setLink s l x ∧ x.sendq = (linkOf s l).sendq ∧
        x.returned = (linkOf s l).returned := by
      refine ⟨_, if_neg (by simp [hup]), ?_, ?_⟩
      · split <;> split <;> exact sendq_flitAck.1
      · split <;> split <;> exact sendq_flitAck.2
    rw [hx, linkOf_setLink_self]
    exact ⟨rfl, fun k hk => linkOf_setLink_ne s x hk, hsend, hret, fun h => nomatch h⟩

/-! ### Retraining -/

theorem raiseEvent_eseq {s : State} {c u : Nat} {a b : W64} (h : merUp s = true) :
    (raiseEvent s c u a b).evt.eseq = s.evt.eseq + 1 := by
  simp [raiseEvent, h]

section
variable {s : State} {l : Nat}

/-- A link that nothing waits on, and that no route names, goes down, with an event (R443). -/
theorem linkDown_alone (hsend : (linkOf s l).sendq = []) (hrep : (linkOf s l).replay = []) (hlost : s.tr.lost = [])
    (hroute : ∀ e ∈ s.tr.routes, l ∉ e.2.links.take e.2.nlink) :
    linkDown s l = raiseEvent (bump1 (setLink s l { Link.reset with down := true, partner := (linkOf s l).partner })
      (ctrLinkTrDown l)) 0x0042 l 0 0 := by
  have htr (t : State) : (raiseEvent t 0x0042 l 0 0).tr = t.tr := (onlyMem_raiseEvent ..).tr
  have hdead (t : State) (ht : t.tr.routes = s.tr.routes) : t.tr.routes.filter (fun e =>
      (e.2.links.take e.2.nlink).contains l && (routeLinks t (BitVec.ofNat 12 e.1)).isEmpty) = [] := by
    rw [ht, List.filter_eq_nil_iff]
    intro e he
    simp [hroute e he]
  generalize ht : raiseEvent (bump1 (setLink s l { Link.reset with down := true, partner := (linkOf s l).partner })
    (ctrLinkTrDown l)) 0x0042 l 0 0 = t
  have hdown : linkDown s l = lossWork ((List.filter (fun e => (e.2.links.take e.2.nlink).contains l &&
      (routeLinks t (BitVec.ofNat 12 e.1)).isEmpty) t.tr.routes).foldl (fun u e => unreachable u (BitVec.ofNat 12 e.1)) t) := by
    rw [← ht, linkDown, hsend, hrep]
    simp only [List.map_nil, List.append_nil, List.foldl_nil]
  rw [hdown, hdead t (by rw [← ht, htr]; rfl)]
  exact lossWork_of_none (s := t) (by rw [← ht, htr]; exact hlost)

theorem linkRetrain_full (hup : (linkOf s l).up = true) :
    linkRetrain s l 8 = setLink s l { linkOf s l with width := 8, naks := 0, replays := 0, shares := s.tr.shares } := by
  simp [linkRetrain, hup]

theorem linkRetrain_degraded {w : Nat} (hup : (linkOf s l).up = true) (hw : w = 4 ∨ w = 2) :
    linkRetrain s l w = raiseEvent (bump1 (setLink s l { linkOf s l with
      width := w, naks := 0, replays := 0, shares := s.tr.shares }) (ctrLinkTrDegraded l)) 0x0041 l (BitVec.ofNat 64 w) 0 := by
  obtain rfl | rfl := hw <;> simp [linkRetrain, hup]

theorem linkRetrain_fails {w : Nat} (hup : (linkOf s l).up = true) (h8 : w ≠ 8) (h4 : w ≠ 4) (h2 : w ≠ 2) :
    linkRetrain s l w = linkDown s l := by simp [linkRetrain, hup, h8, h4, h2]

theorem linkRetrain_of_down {w : Nat} (hup : (linkOf s l).up = false) : linkRetrain s l w = s := by simp [linkRetrain, hup]

end

theorem exec_transitRetrain {s t : State} {l : Fin 48} {w : Nat} (hs : stopped s = false) (ht : linkRetrain s l w = t)
    (hn : t.rc.need = []) : exec (.transitRetrain l w) s = .next t := by
  show execTransitRetrain l w s = _
  exact act_eq_next hs ht hn

theorem exec_transitNak {s t : State} {l : Fin 48} {sent : Bool} (hs : stopped s = false)
    (ht : (if (!(linkOf s l).up) = true then s else if sent = true then linkReplay s l
      else setLink s l { linkOf s l with nak := true }) = t) (hn : t.rc.need = []) :
    exec (.transitNak l sent) s = .next t := by
  show execTransitNak l sent s = _
  unfold execTransitNak
  exact linkAct_live (g := fun s => if !(linkOf s l).up then s else if sent then linkReplay s l
    else setLink s l { linkOf s l with nak := true }) hs ht hn

theorem linkReplay_eq (s : State) (l : Nat) : linkReplay s l = bump1 (setLink s l { linkOf s l with
    replays := (linkOf s l).replays + 1, naks := (linkOf s l).naks + 1 }) (ctrLinkTrReplay l) := rfl

theorem flitArrive_of_down {s : State} {l : Nat} (f : TFlit) (h : (linkOf s l).up = false) : flitArrive s l f = s :=
  if_pos (by simp [h])

/-! ### Undefined messages and losses -/

theorem reservedMsg_iff (f : TMsg) : reservedMsg f = true ↔ 7 ≤ f.cls ∨ (f.cls = 0 ∧ 2 < f.mtype.toNat) ∨
    (f.cls = 1 ∧ f.mtype.toNat ≠ 0) ∨ (f.cls = 2 ∧ 1 < f.mtype.toNat) ∨ (f.cls = 4 ∧ 2 < f.mtype.toNat) ∨
    ((f.cls = 3 ∨ f.cls = 5) ∧ (f.mtype.toNat < 8 ∨ 10 < f.mtype.toNat)) ∨ (f.cls = 6 ∧ 10 < f.mtype.toNat) := by
  simp only [reservedMsg, Bool.or_eq_true, decide_eq_true_eq]
  split_ifs <;> simp only [decide_eq_true_eq, bne_iff_ne, Bool.or_eq_true, true_iff] <;> omega

theorem exec_lossReport {s t : State} {chip : BitVec 12} {tag : Option Nat} (hs : stopped s = false)
    (ht : lossReport s chip tag = t) (hn : t.rc.need = []) : exec (.lossReport chip tag) s = .next t := by
  show execLossReport chip tag s = _
  exact act_eq_next hs ht hn

section
variable {s : State} {chip : BitVec 12}

/-- A lost read returns poisoned bytes of free value to the one who asked (R444). -/
theorem requestLost_read {f : TMsg} {w : Who} {addr : Nat} (hw : waitFor s f.tag = some (.buf w addr))
    (hcp : s.str.cpWait = []) : requestLost s f = { s with
      frees := s.frees + 1
      tr := { s.tr with wait := s.tr.wait.filter (fun w => w.1 != f.tag) }
      got := s.got ++ [{
        who := w, host := false, addr := addr, data := ((List.range (argSize f.arg)).map (Config.freeByte s.frees)).map (fun b => (b, true)) }] } := by
  rw [requestLost, hw]
  exact cpResume_of_none hcp

theorem requestLost_write {f : TMsg} {w : Who} (hw : waitFor s f.tag = some (.write w)) (hcmd : ∀ cid, w ≠ .cmd cid) :
    requestLost s f = bump1 (waitDrop s f.tag) ctrChipTrWrLost := by
  rw [requestLost, hw]
  cases w with
  | cmd cid => exact absurd rfl (hcmd cid)
  | _ => rfl

theorem lossReport_request {tag : Nat} {f : TMsg} {w : RemoteFor}
    (hf : s.tr.out.find? (fun f => f.tag == tag && f.dst == chip && (f.cls == 2 || f.cls == 4)) = some f)
    (hw : waitFor s tag = some w) : lossReport s chip (some tag) = lossWork (requestLost s f) := by
  simp only [lossReport, hf, hw]

theorem unreachable_known (h : s.tr.unreachable.contains chip.toNat = true) : unreachable s chip = s := if_pos h

/-- A chip that nothing awaits becomes unreachable, with an event (R444). -/
theorem unreachable_alone (h : s.tr.unreachable.contains chip.toNat = false) (hc : s.orr.cmds = [])
    (hout : ∀ f ∈ s.tr.out, f.dst ≠ chip) : unreachable s chip =
      raiseEvent { s with tr := { s.tr with unreachable := sins s.tr.unreachable chip.toNat } } 0x0043 chip.toNat 0 0 := by
  have hev := onlyMem_raiseEvent { s with tr := { s.tr with unreachable := sins s.tr.unreachable chip.toNat } } 0x0043
    chip.toNat 0 0
  have hnone : s.tr.out.filter (fun f => f.dst == chip && (f.cls == 2 || f.cls == 4)) = [] := by
    rw [List.filter_eq_nil_iff]
    intro f hf
    simp [hout f hf]
  rw [unreachable, h]
  simp only [Bool.false_eq_true, if_false, hev.orr, hc, List.foldl_nil, hev.tr, hnone]

end

/-- Settles O28. -/
theorem transitLinkEventsTakeEffect : Obligations.TransitLinkEventsTakeEffect := by
  unfold Obligations.TransitLinkEventsTakeEffect
  refine ⟨?flit, ?down, ?frozen, ?nak, ?retrain, ?retrainDown, ?undefined, ?lost, ?chip⟩
  case flit =>
    rintro s u l f y z hs hn hup hlost hq rfl rfl rfl
    have htook := flitTook_rc s l f
    refine ⟨fun e => mem_replay_flitAck, fun hmine => ⟨fun hawake => ?_, fun hp hcls hidle hseq => ?_⟩,
      fun m hm hdst hroute hp hidle hseq hnak => ?_⟩
    · refine exec_transitFlit hs ((flitArrive_mine hup hlost hq hmine).trans (if_neg ?_)) ?_
      · rcases hawake with hp | hctl
        · simp [hp]
        · have hno : flitWakes f = false := by simpa [flitWakes] using hctl
          simp [hno]
      · exact (congrArg Cache.need htook).trans hn
    · have hpark : (flitTook s l f).pwr = s.pwr := by
        unfold flitTook bumpIf
        split <;> rfl
      refine exec_transitFlit hs ((flitArrive_mine hup hlost hq hmine).trans
        ((if_pos ?_).trans ((wakeUp_parked (by rw [hpark]; exact hp)).trans ?_))) ?_
      · simp [hp, hidle, hseq, flitWakes_iff.2 hcls]
      · rw [hpark]
        rfl
      · exact (congrArg Cache.need htook).trans hn
    · refine exec_transitFlit hs ((flitArrive_misroutes hup hlost hq hm hdst hroute hp hidle hseq).trans ?_) ?_
      · simp only [flitTook, flitLink, hnak]
        rfl
      · exact hn
  case down =>
    intro s l f hs hn hup
    exact exec_transitFlit hs (flitArrive_of_down f hup) hn
  case frozen =>
    intro s l f hfr hlock hlost
    exact ⟨frozenFlit s l f, if_pos (by simp [hfr, hlock, hlost]), frozenFlit_moves s l f⟩
  case nak =>
    intro s l b hs hn
    refine ⟨fun hup => ⟨?_, ?_⟩, fun hup => ?_⟩
    · exact exec_transitNak hs ((if_neg (by simp [hup])).trans (if_pos rfl)) hn
    · exact exec_transitNak hs ((if_neg (by simp [hup])).trans (if_neg Bool.false_ne_true)) hn
    · exact exec_transitNak hs (if_pos (by simp [hup])) hn
  case retrain =>
    intro s l hs hn hup
    refine ⟨exec_transitRetrain hs (linkRetrain_full hup) hn, fun w hw => ?_, fun w h8 h4 h2 hsend hrep hlost hroute => ?_⟩
    · have hev := onlyMem_raiseEvent (bump1 (setLink s l { linkOf s l with
        width := w, naks := 0, replays := 0, shares := s.tr.shares }) (ctrLinkTrDegraded l)) 0x0041 l (BitVec.ofNat 64 w) 0
      refine ⟨_, exec_transitRetrain hs (linkRetrain_degraded hup hw) ((congrArg Cache.need (raiseEvent_rc ..)).trans hn), hev.tr,
        fun hm => raiseEvent_eseq hm, ?_⟩
      exact congrArg (fun t => { memUndo s t with tr := s.tr }) hev.undo
    · have hev := onlyMem_raiseEvent (bump1 (setLink s l { Link.reset with down := true, partner := (linkOf s l).partner })
        (ctrLinkTrDown l)) 0x0042 l 0 0
      refine ⟨_, exec_transitRetrain hs ((linkRetrain_fails hup h8 h4 h2).trans (linkDown_alone hsend hrep hlost hroute))
        ((congrArg Cache.need (raiseEvent_rc ..)).trans hn), ?_, ?_, fun k hk => ?_, fun hm => raiseEvent_eseq hm, ?_⟩
      · exact congrArg Link.up ((linkOf_of_tr hev.tr l).trans (linkOf_setLink_self s l _))
      · exact congrArg Link.down ((linkOf_of_tr hev.tr l).trans (linkOf_setLink_self s l _))
      · exact (linkOf_of_tr hev.tr k).trans (linkOf_setLink_ne s _ hk)
      · exact congrArg (fun t => { memUndo s t with tr := { t.tr with links := s.tr.links } }) hev.undo
  case retrainDown =>
    intro s l w hs hn hup
    exact exec_transitRetrain hs (linkRetrain_of_down hup) hn
  case undefined =>
    rintro s f t hs hn rfl
    refine ⟨fun h => ?_, fun h => ?_⟩
    · show execTransitReservedMessage f s = _
      exact act_eq_next hs (if_pos ((reservedMsg_iff f).2 h)) hn
    · show execTransitReservedMessage f s = _
      exact act_eq_next hs (if_neg (by rw [reservedMsg_iff]; omega)) hn
  case lost =>
    rintro s chip tag f hs hn hlost hf rfl
    refine ⟨fun w addr hw hcp => ?_, fun w hw hcmd => ?_⟩
    · refine ⟨_, _, exec_lossReport hs ((lossReport_request hf hw).trans ((congrArg lossWork (requestLost_read hw hcp)).trans
        (lossWork_of_none hlost))) hn, ?_, rfl, rfl, rfl⟩
      simp
    · exact exec_lossReport hs ((lossReport_request hf hw).trans ((congrArg lossWork (requestLost_write hw hcmd)).trans
        (lossWork_of_none hlost))) hn
  case chip =>
    intro s chip hs hn hlost hc hout
    have hev := onlyMem_raiseEvent { s with tr := { s.tr with unreachable := sins s.tr.unreachable chip.toNat } } 0x0043
      chip.toNat 0 0
    refine ⟨fun h => ?_, fun h => ?_⟩
    · exact exec_lossReport hs ((congrArg lossWork (unreachable_known h)).trans (lossWork_of_none hlost)) hn
    · refine ⟨_, exec_lossReport hs ((congrArg lossWork (unreachable_alone h hc hout)).trans (lossWork_of_none ?_))
        ((congrArg Cache.need (raiseEvent_rc ..)).trans hn), ?_, fun hm => raiseEvent_eseq hm, ?_⟩
      · exact (congrArg Transit.lost hev.tr).trans hlost
      · exact (congrArg Transit.unreachable hev.tr) ▸ mem_sins_self ..
      · exact congrArg (fun t => { memUndo s t with tr := { t.tr with unreachable := s.tr.unreachable } }) hev.undo

end Sys2Proof.Machine
end

section
/-! PROOFS. Remote accesses served and answered (R436 to R439). -/

namespace Sys2Proof.Machine

/-- A window permits an access that lies in its length, with the right that it needs and from a source that the window takes
(R438). -/
theorem windowOk_eq_some {s : State} {f : TMsg} {w : RWindow} {r : Nat} (hw : mget? s.tr.windows (fld f.arg 0 8) = some w)
    (hr : r < 3) : windowOk s f r = some w ↔ w.v = true ∧ fld f.arg 8 36 + (fld f.arg 44 8 + 1) ≤ w.len * 0x200000 ∧
      (w.src = 0xFFF ∨ w.src = f.src) ∧ (r = 0 → w.rd = true) ∧ (r = 1 → w.wr = true) ∧ (r = 2 → w.at' = true) := by
  have hif : windowOk s f r = some w ↔ (w.v && decide (fld f.arg 8 36 + argSize f.arg ≤ w.len * 0x200000) &&
      (if r = 0 then w.rd else if r = 1 then w.wr else w.at') && (w.src == 0xFFF || w.src == f.src)) = true := by
    simp only [windowOk, hw, Option.ite_none_right_eq_some, and_true]
  obtain rfl | rfl | rfl : r = 0 ∨ r = 1 ∨ r = 2 := by omega
  all_goals
    rw [hif, ← argSize]
    simp
    tauto

theorem windowOk_some_or_none {s : State} {f : TMsg} {w : RWindow} {r : Nat}
    (hw : mget? s.tr.windows (fld f.arg 0 8) = some w) : windowOk s f r = some w ∨ windowOk s f r = none := by
  simp only [windowOk, hw]
  exact ite_eq_or_eq ..

theorem windowPa_eq (w : RWindow) (f : TMsg) : w.lbase * 0x200000 + fld f.arg 8 36 = windowPa w f := rfl

theorem argSize_eq (f : TMsg) : fld f.arg 44 8 + 1 = argSize f.arg := rfl

/-! ### Answers -/

/-- The answer to a remote request, in the response class, with its tag (R437). -/
def remoteAnswer (s : State) (f : TMsg) (mtype : Nat) (data : List Byte) (poison : List Bool) : TMsg where
  cls := f.cls + 1
  leg := 0
  dst := f.src
  src := s.mer.fabric
  mtype := BitVec.ofNat 4 mtype
  len := 1 + (data.length + 15) / 16
  tag := f.tag
  arg := f.arg
  payload := data
  poison := poison

theorem remoteReply_eq (s : State) (f : TMsg) (mt : Nat) (d : List Byte) (p : List Bool) : ∃ ls lost, remoteReply s f mt d p =
    { s with tr := { s.tr with out := s.tr.out ++ [remoteAnswer s f mt d p], links := ls, lost := lost } } :=
  transitSend_eq s _

/-- A request that touched memory alone is answered, and nothing else changes. -/
theorem OnlyMem.answered {s u : State} (h : OnlyMem s u) (f : TMsg) (mt : Nat) (d : List Byte) (p : List Bool) :
    (remoteReply u f mt d p).tr.out = s.tr.out ++ [remoteAnswer s f mt d p] ∧ (remoteReply u f mt d p).mem = u.mem ∧
      (remoteReply u f mt d p).rc = u.rc ∧ { memUndo s (remoteReply u f mt d p) with tr := s.tr } = s := by
  obtain ⟨ls, lost, hr⟩ := remoteReply_eq u f mt d p
  rw [hr]
  refine ⟨?_, rfl, rfl, ?_⟩
  · simp only [remoteAnswer, h.tr, h.mer]
  · exact congrArg (fun t => { t with tr := s.tr }) h.undo

/-- A rejected request is answered ERR and counted, and nothing else changes (R438). -/
theorem remoteReject_answers (s : State) (f : TMsg) :
    (remoteReject s f).tr.out = s.tr.out ++ [remoteAnswer s f 10 [] []] ∧
      (remoteReject s f).ctrs = addCtr s.ctrs ctrChipTrRwRej 1 ∧ (remoteReject s f).rc = s.rc ∧
      { remoteReject s f with tr := s.tr, ctrs := s.ctrs } = s := by
  obtain ⟨ls, lost, hr⟩ := remoteReply_eq (bump1 s ctrChipTrRwRej) f 10 [] []
  rw [remoteReject, hr]
  exact ⟨rfl, rfl, rfl, rfl⟩

theorem onlyMem_writeRuns (hint : BitVec 2) (k : Nat) (s : State) (pa : Nat) (l : List (Option (Byte × Bool))) :
    OnlyMem s (writeRuns hint k s pa l) := by
  induction k generalizing s pa l with
  | zero => exact OnlyMem.refl s
  | succ k ih =>
    cases l with
    | nil =>
      rw [writeRuns]
      exact OnlyMem.refl s
    | cons x l => cases x with
      | none =>
        rw [writeRuns]
        exact ih s (pa + 1) l
      | some b =>
        rw [writeRuns]
        exact (onlyMem_writeMarkedGo ..).trans (ih ..)

theorem onlyMem_atomicTier (s : State) (pa : Nat) (cas : Bool) (arg : List Byte) (hint : BitVec 2) :
    OnlyMem s (atomicTier s pa cas arg hint).1 := by
  have hread := onlyMem_readExt s pa 8 hint
  unfold atomicTier
  cases hr : readExt s pa 8 hint with
  | mk s1 x =>
    rw [hr] at hread
    exact hread.trans (onlyMem_writeExt ..)

/-! ### Arrival -/

section
variable {s t : State} {f : TMsg} {ow : Option RWindow} {right : Nat} {serve : Option RWindow → State → State}

/-- A request that no earlier one of its order key holds up is served under its window (R436). -/
theorem remoteArrive_next (hs : stopped s = false) (hw : windowOk s f right = ow) (hm : mustWait s (.remote f ow) = false)
    (ht : serve ow s = t) (hn : t.rc.need = []) : remoteArrive right f serve s = .next t := by
  subst hw ht
  have hserve : (if mustWait s (.remote f (windowOk s f right)) then hold s (.remote f (windowOk s f right))
      else serve (windowOk s f right) s) = serve (windowOk s f right) s := by rw [hm]; rfl
  unfold remoteArrive
  rw [actKeep_live hs (by rw [hserve]; exact hn), hserve]

theorem transitWaits_running (k : State → State) (hp : s.pwr.park = .running) (hr : s.pwr.restart ≠ .running) :
    transitWaits s f ow k = k s := by simp [transitWaits, hp, hr]

end

section
variable {s : State} {f : TMsg} (hp : s.pwr.park = .running) (hr : s.pwr.restart ≠ .running)
include hp hr

theorem remoteRead_served {w : RWindow} {s1 : State} {d : List (Byte × Bool)}
    (hread : readTier s { host := false, pa := windowPa w f, len := argSize f.arg, hint := w.hint, va := 0, ent := 0 } = (s1, d)) :
    remoteRead s f (some w) = remoteReply s1 f 8 (d.map (fun b => b.1)) (sectorMarks (windowPa w f) d) := by
  -- with the read opaque, the kernel does not run it to decide the match
  obtain ⟨read, hopaque⟩ : ∃ read, read = readTier := ⟨_, rfl⟩
  unfold remoteRead
  rw [← hopaque] at hread ⊢
  rw [transitWaits_running _ hp hr]
  simp only [hread]

theorem remoteRead_rejected : remoteRead s f none = remoteReject s f := transitWaits_running _ hp hr

theorem remoteWrite_rejected : remoteWrite s f none = remoteReject s f := transitWaits_running _ hp hr

theorem remoteAtomic_served {w : RWindow} {s1 : State} {old : List Byte} {bad : Bool} (hc : f.cls = 4) (ho : fld f.arg 52 2 < 2)
    (hat : atomicTier s (windowPa w f) (fld f.arg 52 2 == 1) f.payload w.hint = (s1, old, bad)) :
    remoteAtomic s f (some w) = remoteReply s1 f 8 old [bad] := by
  have hok : (f.cls != 4 || decide (2 ≤ fld f.arg 52 2)) = false := by simp [hc, ho]
  -- as for the read, the kernel must not run the atomic to decide the match
  obtain ⟨atomic, hopaque⟩ : ∃ atomic, atomic = atomicTier := ⟨_, rfl⟩
  unfold remoteAtomic
  rw [← hopaque] at hat ⊢
  rw [transitWaits_running _ hp hr]
  simp only [hok, hat]
  rfl

theorem remoteAtomic_rejected (hc : f.cls = 4) (ho : fld f.arg 52 2 < 2) : remoteAtomic s f none = remoteReject s f :=
  (transitWaits_running _ hp hr).trans (if_neg (by simp [hc, ho]))

theorem remoteAtomic_discarded (h : f.cls ≠ 4 ∨ 2 ≤ fld f.arg 52 2) (ow : Option RWindow) :
    remoteAtomic s f ow = bump1 s ctrChipTrProtoErr :=
  (transitWaits_running _ hp hr).trans (if_pos (by simpa using h))

end

/-! ### Answers that reach the requester -/

section
variable {s : State} {f : TMsg} {w : Who} {cid addr : Nat}

theorem remoteData_awaited (hw : waitFor s f.tag = some (.buf w addr)) (hcp : s.str.cpWait = []) :
    remoteData s f = { s with
      got := s.got ++ [{ who := w, host := false, addr := addr, data :=
        f.payload.zipIdx.map (fun x => (x.1, f.poison.getD ((addr % 32 + x.2) / 32) false)) }],
      tr := { s.tr with wait := s.tr.wait.filter (fun w => w.1 != f.tag) } } := by
  rw [remoteData, hw]
  exact cpResume_of_none hcp

theorem accessEnd_fetched {c : Cmd} {st : BitVec 8} (hc : cmdOf s cid = some c) (hq : c.own = .queue) (hph : c.phase = .fetched) :
    accessEnd s cid st = failCmd s cid st := by
  have hstr : strmOfCid s cid = none := by simp [strmOfCid, hc, hq]
  simp only [accessEnd, hstr, hc, hph, if_true]

theorem remoteError_cmd (hw : waitFor s f.tag = some (.buf (.cmd cid) addr) ∨ waitFor s f.tag = some (.write (.cmd cid))) :
    remoteError s f = accessEnd (waitDrop s f.tag) cid 0x11 := by
  obtain hw | hw := hw <;> simp only [remoteError, hw]

end

/-- Settles O29. -/
theorem remoteAccessesTakeEffect : Obligations.RemoteAccessesTakeEffect := by
  unfold Obligations.RemoteAccessesTakeEffect
  refine ⟨?window, ?read, ?write, ?atomic, ?rejected, ?answer, ?error⟩
  case window =>
    intro s f w r hw hr
    exact ⟨windowOk_eq_some hw hr, windowOk_some_or_none hw⟩
  case read =>
    intro s s1 f w a d hs hp hr hw hm ha hread hn
    rw [windowPa_eq] at ha
    subst ha
    rw [argSize_eq] at hread
    have hmem : OnlyMem s s1 := by
      have h := onlyMem_readTier s { host := false, pa := windowPa w f, len := argSize f.arg, hint := w.hint, va := 0, ent := 0 }
      rwa [hread] at h
    obtain ⟨hout, hm1, hrc, hundo⟩ := hmem.answered f 8 (d.map (fun b => b.1)) (sectorMarks (windowPa w f) d)
    refine ⟨_, _, ?_, hout, rfl, rfl, rfl, rfl, rfl, rfl, rfl, hm1, hrc, hundo⟩
    show execRemoteRd f s = _
    exact remoteArrive_next hs hw hm (remoteRead_served hp hr hread) (by rw [hrc]; exact hn)
  case write =>
    intro s u f w a l hs hp hr hw hm ha hl hu hn
    rw [windowPa_eq] at ha
    rw [argSize_eq] at hl
    subst ha hl hu
    obtain ⟨hout, hm1, hrc, hundo⟩ := (onlyMem_writeRuns w.hint ((remoteBytes (windowPa w f) (argSize f.arg) f).length + 1) s
      (windowPa w f) (remoteBytes (windowPa w f) (argSize f.arg) f)).answered f 9 [] []
    refine ⟨_, _, ?_, hout, rfl, rfl, rfl, rfl, rfl, rfl, hm1, hrc, hundo⟩
    show execRemoteWr f s = _
    exact remoteArrive_next hs hw hm (transitWaits_running _ hp hr) (by rw [hrc]; exact hn)
  case atomic =>
    intro s s1 f w old bad hs hp hr hc ho hw hm hat hn
    rw [windowPa_eq] at hat
    have hmem : OnlyMem s s1 := by
      have h := onlyMem_atomicTier s (windowPa w f) (fld f.arg 52 2 == 1) f.payload w.hint
      rwa [hat] at h
    obtain ⟨hout, hm1, hrc, hundo⟩ := hmem.answered f 8 old [bad]
    refine ⟨_, _, ?_, hout, rfl, rfl, congrArg (· + 1) hc, rfl, rfl, rfl, rfl, hm1, hrc, hundo⟩
    show execRemoteAt f s = _
    exact remoteArrive_next hs hw hm (remoteAtomic_served hp hr hc ho hat) (by rw [hrc]; exact hn)
  case rejected =>
    intro s f hs hn hp hr
    obtain ⟨hout, hctr, hrc, hundo⟩ := remoteReject_answers s f
    have hneed : (remoteReject s f).rc.need = [] := by rw [hrc]; exact hn
    refine ⟨fun hw hm => ?_, fun hw hm => ?_, fun hc ho hw hm => ?_, fun h hm => ?_⟩
    · refine ⟨_, _, ?_, hout, rfl, rfl, rfl, rfl, hctr, hundo⟩
      show execRemoteRd f s = _
      exact remoteArrive_next hs hw hm (remoteRead_rejected hp hr) hneed
    · refine ⟨_, _, ?_, hout, rfl, rfl, rfl, rfl, hctr, hundo⟩
      show execRemoteWr f s = _
      exact remoteArrive_next hs hw hm (remoteWrite_rejected hp hr) hneed
    · refine ⟨_, _, ?_, hout, rfl, rfl, rfl, rfl, hctr, hundo⟩
      show execRemoteAt f s = _
      exact remoteArrive_next hs hw hm (remoteAtomic_rejected hp hr hc ho) hneed
    · show execRemoteAt f s = _
      exact remoteArrive_next hs rfl hm (remoteAtomic_discarded hp hr h _) hn
  case answer =>
    intro s f hs hn
    refine ⟨fun w addr hw hcp => ?_, fun w hw => ?_, fun hw => ⟨?_, ?_, ?_⟩⟩
    · show execRemoteData f s = _
      exact act_eq_next hs (remoteData_awaited hw hcp) hn
    · show execRemoteAck f s = _
      exact act_eq_next hs (by simp only [hw]; rfl) hn
    · show execRemoteData f s = _
      exact act_eq_next hs (by simp only [remoteData, hw]) hn
    · show execRemoteAck f s = _
      exact act_eq_next hs (by simp only [hw]) hn
    · show execRemoteErr f s = _
      exact act_eq_next hs (by simp only [remoteError, hw]) hn
  case error =>
    intro s f cid addr c hs hn hw hc hq hph hfail
    refine ⟨_, _, ?_, cmdOf_failCmd_self (s := waitDrop s f.tag) 0x11 hc, rfl, ?_, rfl, rfl, rfl, rfl, rfl⟩
    · show execRemoteErr f s = _
      exact act_eq_next hs ((remoteError_cmd hw).trans (accessEnd_fetched hc hq hph)) hn
    · rw [hfail]
      rfl

end Sys2Proof.Machine
end

section
/-! PROOFS. The start and the end of a block restart (R479, R480, R500, R533, R534). -/

namespace Sys2Proof.Machine

/-! ### The start -/

/-- A running class-L command that is the restart's own. -/
def isRestartRun : LRun → Bool
  | .restart _ => true
  | _ => false

theorem isRestartRun_iff (r : LRun) : isRestartRun r = true ↔ ∃ c, r = .restart c := by
  cases r <;> simp [isRestartRun]

/-- Commands that end touch channels, their interrupts and what they had read. -/
theorem mbUndo_foldl_mbComplete {α : Type} (s : State) (l : List α) (chan : α → Nat) (rc : Nat) (rets : List (Nat × W64))
    (t : State) : mbUndo s (l.foldl (fun t x => mbComplete t (chan x) rc rets) t) = mbUndo s t :=
  foldl_keeps (mbUndo s) _ (fun _ _ => mbUndo_mbComplete ..) l t

theorem mbUndo_endRuns (s t : State) (p : LRun → Bool) (chan : LRun → Nat) (rc : Nat) (rets : List (Nat × W64)) :
    mbUndo s (endRuns t p chan rc rets) =
      mbUndo s { t with mer := { t.mer with lruns := t.mer.lruns.filter (fun r => !p r) } } :=
  mbUndo_foldl_mbComplete ..

theorem mbUndo_endKept (s t : State) : ∃ held, mbUndo s (endKept t) = mbUndo s { t with pwr := { t.pwr with held := held } } :=
  ⟨_, mbUndo_foldl_mbComplete s _ (fun ch => ch) ..⟩

/-- A closed port has no update, batch, acknowledgement or answer on it. -/
structure PortClosed (l : Lyush) : Prop where
  updq : l.updq = []
  batches : l.batches = []
  outstanding : l.outstanding = 0
  acks : l.acks = []
  answers : l.answers = []

theorem portClosed_portClose (s : State) (k : Nat) : PortClosed (lyOf (portClose s k) k) := by
  rw [portClose, lyOf_setLy_self]
  exact ⟨rfl, rfl, rfl, rfl, rfl⟩

theorem foldl_portClose_ly (l : List Nat) (s : State) : ∃ ly, l.foldl portClose s = { s with ly := ly } := by
  induction l generalizing s with
  | nil => exact ⟨_, rfl⟩
  | cons k l ih => exact ih (portClose s k)

theorem portClosed_foldl {l : List Nat} {s : State} {k : Nat} (h : k ∈ l ∨ PortClosed (lyOf s k)) :
    PortClosed (lyOf (l.foldl portClose s) k) := by
  induction l generalizing s with
  | nil => exact h.resolve_left List.not_mem_nil
  | cons n l ih =>
    refine ih ?_
    by_cases hk : k = n
    · exact .inr (hk ▸ portClosed_portClose s k)
    · rcases h with h | h
      · exact .inl ((List.mem_cons.mp h).resolve_left hk)
      · exact .inr (by rwa [portClose, lyOf_setLy_ne _ _ hk])

/-- A list of snoops goes out: each joins those that are out, and counts. -/
theorem foldl_biSent (l : List Nat) (s : State) : ∃ c, l.foldl (fun u x =>
    bump1 { u with rc := { u.rc with biSent := u.rc.biSent ++ [x] } } (ctrSliceBiSnoop (homeSlice u x))) s =
      { s with rc := { s.rc with biSent := s.rc.biSent ++ l }, ctrs := c } := by
  induction l generalizing s with
  | nil => exact ⟨s.ctrs, by simp⟩
  | cons x l ih =>
    obtain ⟨c, h⟩ := ih (bump1 { s with rc := { s.rc with biSent := s.rc.biSent ++ [x] } } (ctrSliceBiSnoop (homeSlice s x)))
    refine ⟨c, h.trans ?_⟩
    simp only [bump1_rc, List.append_assoc]
    rfl

theorem sendSnoops_sent (s : State) (need : List Nat) : ∃ b c, sendSnoops s need =
    { s with rc := { s.rc with biSent := b }, ctrs := c } ∧ (∀ x ∈ need, x ∈ b) ∧ (need = [] → c = s.ctrs) := by
  obtain ⟨c, h⟩ := foldl_biSent (need.dedup.filter (fun x => !(s.rc.biSent.contains x))) s
  refine ⟨_, c, h, fun x hx => ?_, fun hn => ?_⟩
  · by_cases hs : x ∈ s.rc.biSent <;> simp [hs, hx]
  · subst hn
    exact (congrArg State.ctrs h).symm

/-- What the start of a restart leaves of `s`. -/
structure RestartBegun (s t : State) : Prop where
  restart : t.pwr.restart = .running
  runs : ∀ r ∈ t.mer.lruns, ∃ c, r = .restart c
  ports : ∀ k, k < 8 → PortClosed (lyOf t k)
  recalled : ∀ e ∈ s.rc.snoop, e.1 ∈ t.rc.biSent
  need : t.rc.need = s.rc.need
  mem : t.mem = s.mem
  lines : t.rc.lines = s.rc.lines
  tabs : t.tabs = s.tabs
  orr : t.orr = s.orr
  str : t.str = s.str
  xlt : t.xlt = s.xlt
  err : t.err = s.err
  ctrs : s.rc.snoop = [] → t.ctrs = s.ctrs

/-- A restart begins in three parts: class-L commands end, the ports close, and the lines that the host holds are recalled. -/
theorem beginRestart_eq (s : State) : ∃ p : LRun → Bool, (∀ r, p r = !isRestartRun r) ∧ beginRestart s =
    (let s1 := endKept (endRuns s p lrunChan rcReset [])
     let s2 := (List.range 8).foldl portClose
       { s1 with pwr := { s1.pwr with restart := .running }, mc := { s1.mc with selfRef := true } }
     sendSnoops s2 (s2.rc.snoop.map (fun e => e.1))) :=
  ⟨_, fun r => by cases r <;> rfl, rfl⟩

theorem restartBegun_beginRestart (s : State) : RestartBegun s (beginRestart s) := by
  obtain ⟨p, hp, hbegin⟩ := beginRestart_eq s
  obtain ⟨held, hkept⟩ := mbUndo_endKept s (endRuns s p lrunChan rcReset [])
  have hruns := mbUndo_endRuns s s p lrunChan rcReset []
  generalize endKept (endRuns s p lrunChan rcReset []) = s1 at hbegin hkept
  have hend : mbUndo s s1 = { s with
      mer := { s.mer with lruns := s.mer.lruns.filter (fun r => !p r) }
      pwr := { s.pwr with held := held } } :=
    hkept.trans (congrArg (fun t : State => { t with pwr := { t.pwr with held := held } }) hruns)
  have hrc : s1.rc = s.rc := (congrArg State.rc hend :)
  have hlruns : s1.mer.lruns = s.mer.lruns.filter (fun r => !p r) := (congrArg (fun t : State => t.mer.lruns) hend :)
  obtain ⟨ly, hly⟩ := foldl_portClose_ly (List.range 8)
    { s1 with pwr := { s1.pwr with restart := .running }, mc := { s1.mc with selfRef := true } }
  have hports (k : Nat) (hk : k < 8) : PortClosed (mget ly k Lyush.reset) := by
    have h := portClosed_foldl (s := { s1 with pwr := { s1.pwr with restart := .running }, mc := { s1.mc with selfRef := true } })
      (Or.inl (List.mem_range.mpr hk))
    rwa [hly] at h
  simp only [hly] at hbegin
  obtain ⟨b, c, hsent, hin, hnone⟩ := sendSnoops_sent { s1 with
    pwr := { s1.pwr with restart := .running }, mc := { s1.mc with selfRef := true }, ly := ly }
    (s1.rc.snoop.map (fun e => e.1))
  rw [hbegin, hsent]
  refine {
    restart := rfl
    runs := fun r hr => ?_
    ports := hports
    recalled := fun e he => hin _ (List.mem_map_of_mem (by rwa [hrc]))
    need := (congrArg Cache.need hrc :)
    mem := (congrArg State.mem hend :)
    lines := (congrArg Cache.lines hrc :)
    tabs := (congrArg State.tabs hend :)
    orr := (congrArg State.orr hend :)
    str := (congrArg State.str hend :)
    xlt := (congrArg State.xlt hend :)
    err := (congrArg State.err hend :)
    ctrs := fun hn => ?_ }
  · have hr' : r ∈ s1.mer.lruns := hr
    rw [hlruns, List.mem_filter, hp, Bool.not_not] at hr'
    exact (isRestartRun_iff r).mp hr'.2
  · exact (hnone (by rw [hrc, hn]; rfl)).trans (congrArg State.ctrs hend :)

/-! ### Orders of a restart -/

section
variable {s : State}

theorem orderRestart_begins (hr : s.pwr.restart = .none) (hp : s.pwr.park = .running) (hf : fsBegun s = false) :
    orderRestart s = beginRestart s := by simp [orderRestart, hr, hp, hf]

theorem orderRestart_behind (hr : s.pwr.restart = .none) (hp : s.pwr.park = .running) (hf : fsBegun s = true) :
    orderRestart s = { s with pwr := { s.pwr with restart := .ordered } } := by simp [orderRestart, hr, hp, hf]

theorem orderRestart_parked (hr : s.pwr.restart = .none) (hp : s.pwr.park ≠ .running) :
    orderRestart s = wakeUp { s with pwr := { s.pwr with restart := .afterWake } } := by simp [orderRestart, hr, hp]

theorem orderRestart_under_way (hr : s.pwr.restart ≠ .none) : orderRestart s = s := by simp [orderRestart, hr]

variable (hlock : s.pwr.pllLock = true) (hlost : s.pwr.pllLost = false)
include hlock hlost

theorem exec_resetLineRestart_orders (hfr : s.err.frozen = false) (hm : merUp s = true) :
    exec .resetLineRestart s = .next (orderRestart s) := by
  show execResetLineRestart s = _
  simp [execResetLineRestart, hlock, hlost, hfr, hm]

theorem exec_resetLineRestart_ignored (h : s.err.frozen = true ∨ merUp s = false) :
    exec .resetLineRestart s = .next s := by
  show execResetLineRestart s = _
  rcases h with h | h <;> simp [execResetLineRestart, hlock, hlost, h]

end

/-! ### The end -/

theorem foldl_qRefresh_queues (l : List Nat) (s : State) : ∃ qs, l.foldl qRefresh s =
    { s with orr := { s.orr with queues := qs } } := by
  induction l generalizing s with
  | nil => exact ⟨_, rfl⟩
  | cons q l ih =>
    obtain ⟨qs, h⟩ := ih (qRefresh s q)
    exact ⟨qs, h⟩

/-- What a restart does not keep (R90, R174, R262, R364, R480). -/
structure Dropped (s : State) : Prop where
  units : s.orr.units = []
  jobs : s.orr.jobs = []
  scatters : s.sc.jobs = []
  entries : s.sc.entries = []
  streams : s.str.streams = []
  faults : s.str.faults = []
  caches : s.xlt.caches = []
  tiles : s.tiles = []
  ranges : ∀ e ∈ s.xlt.ranges, e.2.inval = false

theorem Dropped.foldl_qRefresh {s : State} (h : Dropped s) (l : List Nat) : Dropped (l.foldl qRefresh s) := by
  obtain ⟨qs, hqs⟩ := foldl_qRefresh_queues l s
  rw [hqs]
  exact { h with }

theorem dropped_restartDrop (s : State) : Dropped (restartDrop s) := by
  refine Dropped.foldl_qRefresh ?_ _
  refine { units := rfl, jobs := rfl, scatters := rfl, entries := rfl, streams := rfl, faults := rfl, caches := rfl,
           tiles := rfl, ranges := fun e he => ?_ }
  simpa using (List.mem_filter.mp he).2

/-- A restart's end raises its event and completes the restarts on their channels, after the state is dropped. -/
theorem restartEnd_eq (s : State) (trains : List StackTrain) (lanes : List Nat) (us : BitVec 32) :
    ∃ (a : State) (sl : BitVec 2) (p : LRun → Bool), (∀ r, p r = isRestartRun r) ∧ restartEnd s trains lanes us =
      endRuns (raiseEvent (bump1 { restartDrop a with pwr := { (restartDrop a).pwr with restart := .none, sl := sl } }
        ctrChipRestart) 0x0060 0 (us.setWidth 64) 0) p lrunChan rcOk [(0, us.setWidth 64)] := by
  unfold restartEnd
  extract_lets s1 s2 lost s3 pwr s4
  have h3 : restartDrop (restartCmds s2) = s3 := rfl
  clear_value s3 lost
  refine ⟨restartCmds s2, if s3.pwr.sl = 3 && lost then 2 else s3.pwr.sl, ?_⟩
  rw [h3]
  exact ⟨_, fun r => by cases r <;> rfl, rfl⟩

theorem restartEnd_leaves (s : State) (trains : List StackTrain) (lanes : List Nat) (us : BitVec 32) :
    (restartEnd s trains lanes us).pwr.restart = .none ∧ Dropped (restartEnd s trains lanes us) ∧
      ∀ r ∈ (restartEnd s trains lanes us).mer.lruns, ∀ c, r ≠ .restart c := by
  obtain ⟨a, sl, p, hp, h⟩ := restartEnd_eq s trains lanes us
  have hdrop := dropped_restartDrop a
  rw [h]
  generalize restartDrop a = u at hdrop
  have hev := onlyMem_raiseEvent (bump1 { u with pwr := { u.pwr with restart := .none, sl := sl } } ctrChipRestart) 0x0060 0
    (us.setWidth 64) 0
  refine ⟨?_, ?_, fun r hr c hc => ?_⟩
  · rw [endRuns_pwr_restart]
    exact (congrArg Pwr.restart hev.pwr :)
  · exact {
      units := by rw [endRuns_orr, hev.orr]; exact hdrop.units
      jobs := by rw [endRuns_orr, hev.orr]; exact hdrop.jobs
      scatters := by rw [endRuns_sc, hev.sc]; exact hdrop.scatters
      entries := by rw [endRuns_sc, hev.sc]; exact hdrop.entries
      streams := by rw [endRuns_str, hev.str]; exact hdrop.streams
      faults := by rw [endRuns_str, hev.str]; exact hdrop.faults
      caches := by rw [endRuns_xlt, hev.xlt]; exact hdrop.caches
      tiles := by rw [endRuns_tiles, hev.tiles]; exact hdrop.tiles
      ranges := by rw [endRuns_xlt, hev.xlt]; exact hdrop.ranges }
  · rw [endRuns_lruns, List.mem_filter, hp, hc] at hr
    exact Bool.false_ne_true hr.2

theorem serveAll_of_none {s : State} (hheld : s.pwr.held = []) (hr : s.pwr.restart ≠ .ordered) : serveAll s = s := by
  have hsame : ({ s with pwr := { s.pwr with held := [] } } : State) = s := by rw [← hheld]
  unfold serveAll
  split
  · rfl
  · rw [hheld, List.foldl_nil, hsame, startOrdered]
    simp [hr]

theorem startLate_of_none {s : State} (h : s.mer.lheld = []) : startLate s = s := by
  have hsame : ({ s with mer := { s.mer with lheld := [] } } : State) = s := by rw [← h]
  unfold startLate
  split
  · rfl
  · rw [h, List.foldl_nil, hsame]

/-- Settles O9. -/
theorem blockRestartTakesEffect : Obligations.BlockRestartTakesEffect := by
  unfold Obligations.BlockRestartTakesEffect
  refine ⟨?command, ?line, ?later, ?ignored, ?unlocked, ?ends⟩
  case command =>
    intro s m hst hn hp hf
    have hb := restartBegun_beginRestart (mbTake s m 0x73)
    obtain ⟨-, -, -, -, -, -, -, hr, -, -, -⟩ := id hst
    have hbody : bodyBlockRestart (mbTake s m rowBlockRestart.opc) (mbCtx s m) =
        .wait (beginRestart (mbTake s m 0x73)) (.restart m.ch) :=
      congrArg (fun t => MbOut.wait t (.restart m.ch)) (orderRestart_begins hr hp hf)
    generalize beginRestart (mbTake s m 0x73) = u at hb hbody
    refine ⟨_, (show execBlockRestart m s = _ from mbox_wait hst hbody (hb.need.trans hn)), hb.restart, ?_, fun r hin => ?_, ?_, fun k hk => ?_, hb.recalled, hb.mem,
      hb.lines, hb.tabs, hb.orr, hb.str, hb.xlt⟩
    · exact List.mem_append_right _ (List.mem_singleton_self _)
    · rcases List.mem_append.mp hin with h | h
      · exact hb.runs r h
      · exact ⟨_, List.mem_singleton.mp h⟩
    · exact congrArg Chan.ack (mget_mset_self ..)
    · obtain ⟨h1, h2, h3, h4, h5⟩ := hb.ports k hk
      exact ⟨h1, h2, h3, h4, h5⟩
  case line =>
    intro s hlock hlost hfr hm hr hp hf
    have hb := restartBegun_beginRestart s
    refine ⟨_, (exec_resetLineRestart_orders hlock hlost hfr hm).trans (congrArg _ (orderRestart_begins hr hp hf)), hb.restart,
      hb.runs, fun k hk => ?_, hb.recalled, hb.mem, hb.lines, hb.tabs, hb.orr, hb.str, hb.xlt⟩
    obtain ⟨h1, h2, h3, h4, h5⟩ := hb.ports k hk
    exact ⟨h1, h2, h3, h4, h5⟩
  case later =>
    intro s hlock hlost hfr hm hr
    have horder := exec_resetLineRestart_orders hlock hlost hfr hm
    refine ⟨fun hp => ?_, fun hp => ?_, fun hp => ?_, fun hp hf => ?_⟩
    · rw [horder, orderRestart_parked hr (by simp [hp])]
      simp only [wakeUp, hp]
    · rw [horder, orderRestart_parked hr (by simp [hp])]
      simp only [wakeUp, hp]
    · rw [horder, orderRestart_parked hr (by simp [hp])]
      simp only [wakeUp, hp]
    · rw [horder, orderRestart_behind hr hp hf]
  case ignored =>
    intro s hlock hlost h
    by_cases hig : s.err.frozen = true ∨ merUp s = false
    · exact exec_resetLineRestart_ignored hlock hlost hig
    · simp only [not_or, Bool.not_eq_true, Bool.not_eq_false] at hig
      obtain ⟨hfr, hm⟩ := hig
      rw [exec_resetLineRestart_orders hlock hlost hfr hm, orderRestart_under_way (by simpa [hfr, hm] using h)]
  case unlocked =>
    intro s h
    show execResetLineRestart s = execResetLineFull false s
    exact congrArg Host.Outcome.next (if_pos (by rcases h with h | h <;> simp [h]))
  case ends =>
    intro s trains lanes us hs hmay hheld hlheld hn
    obtain ⟨hr, hd, hruns⟩ := restartEnd_leaves s trains lanes us
    have hserve : serveAll (restartEnd s trains lanes us) = restartEnd s trains lanes us :=
      serveAll_of_none hheld (by simp [hr])
    refine ⟨restartEnd s trains lanes us, ?_, hr, hd.units, hd.jobs, hd.scatters, hd.entries, hd.streams, hd.faults, hd.caches,
      hd.tiles, hd.ranges, hruns⟩
    show execBlockRestartEnd trains lanes us s = _
    exact act_eq_next hs ((if_pos hmay).trans ((congrArg startLate hserve).trans (startLate_of_none hlheld))) hn

end Sys2Proof.Machine
end

section
/-! PROOFS. Internal errors, tile parity errors and the events that freeze the block (R545 to R548, R557 to R559). -/

namespace Sys2Proof.Machine

section
variable {s : State}

/-! ### Internal errors -/

/-- The record of an uncorrected internal error (R546, R548). -/
def intError (s : State) (e : IntSource) : State :=
  bump1 { s with err := { s.err with intUe := true, intSrc := intCode e } } ctrChipIntUe

/-- An uncorrected internal error is recorded; then the block freezes, or a restart is ordered (R546, R557). -/
theorem exec_internalError {t : State} {e : IntSource} (hs : stopped s = false) (hc : ∀ q, e ≠ .meshCorrected q)
    (hm : e ≠ .meridianCorrected)
    (ht : (if s.err.frzCtrl.getLsbD 0 then freeze (intError s e) 1 (intCode e)
      else if merUp (intError s e) then orderRestart (intError s e) else intError s e) = t) (hn : t.rc.need = []) :
    exec (.internalError e) s = .next t := by
  show execInternalError e s = _
  cases e with
  | meshCorrected q => exact absurd rfl (hc q)
  | meridianCorrected => exact absurd rfl hm
  | mesh => exact act_eq_next hs ht hn
  | orrery => exact act_eq_next hs ht hn
  | almanac => exact act_eq_next hs ht hn
  | xlate => exact act_eq_next hs ht hn
  | semfile => exact act_eq_next hs ht hn

theorem errLine_of_intUe (h : s.err.intUe = true) : errLine s = true := by simp [errLine, h]

/-! ### Events that freeze the block -/

/-- The bit of `FRZ_CTRL`, the cause and the unit of an event (R557, R559), and whether the event is there. -/
def eventFreeze (s : State) : FreezeEvent → Nat × BitVec 3 × BitVec 8 × Bool
  | .internal => (0, 1, s.err.intSrc, s.err.intUe)
  | .meridian => (1, 2, 0, s.err.merUe)
  | .thermal => (2, 3, 0, decide (120 ≤ maxTemp s.pwr))
  | .hangQueue q => (3, 4, BitVec.ofNat 8 q.val, true)
  | .hangTile t => (3, 4, BitVec.ofNat 8 (0x80 + t.val), true)
  | .memUe n => (4, 5, n, true)

/-- An event that is there and that `FRZ_CTRL` enables freezes the block. -/
theorem exec_freezeOnEvent {e : FreezeEvent} {b : Nat} {cause : BitVec 3} {u : BitVec 8} {there : Bool} (hs : stopped s = false)
    (hn : s.rc.need = []) (he : eventFreeze s e = (b, cause, u, there)) :
    exec (.freezeOnEvent e) s = .next (if s.err.frzCtrl.getLsbD b && there then freeze s cause u else s) := by
  show execFreezeOnEvent e s = _
  have hneed : (if s.err.frzCtrl.getLsbD b && there then freeze s cause u else s).rc.need = [] := by
    split <;> exact hn
  refine act_eq_next hs ?_ hneed
  cases e with
  | _ =>
    obtain ⟨rfl, rfl, rfl, rfl⟩ := Prod.mk.inj he
    simp

/-! ### Tile parity errors -/

theorem scatGo_of_none (h : s.sc.jobs = []) : scatGo s = s := by
  simp [scatGo, iter, scatRound, h]

theorem exec_tileParityError {t : State} {k : Fin 48} {w : TilePart} (hs : stopped s = false) (hp : s.pwr.park ≠ .parked)
    (ht : scatGo (tileParity s k w) = t) (hn : t.rc.need = []) : exec (.tileParityError k w) s = .next t := by
  show execTileParityError k w s = _
  exact act_eq_next hs ((if_neg (by simpa using hp)).trans ht) hn

/-- A unit whose state is lost is gone (R545). -/
theorem unitLost_gone {k uid : Nat} {u : Unit'} (hu : unitOf s uid = some u) (ht : u.tile = k) (hst : u.st = .running) :
    ∀ v ∈ (unitLost s k uid).orr.units, v.uid ≠ uid := by
  intro v hv
  rw [unitLost, hu] at hv
  simp only [ht, hst, bne_self_eq_false, Bool.or_self, Bool.false_eq_true, if_false] at hv
  simpa using (List.mem_filter.mp hv).2

end

/-- Settles O10. -/
theorem errorsAndFreezeTakeEffect : Obligations.ErrorsAndFreezeTakeEffect := by
  unfold Obligations.ErrorsAndFreezeTakeEffect
  refine ⟨?mesh, ?internal, ?meridianCorrected, ?halts, ?haltsFrozen, ?idle, ?hint, ?xlate, ?other, ?line, ?event, ?settled⟩
  case mesh =>
    intro s q hs hn
    show execInternalError (.meshCorrected q) s = _
    exact act_eq_next hs rfl hn
  case internal =>
    intro s e hs hn hc hm
    refine ⟨fun hfrz => ?_, fun hfrz hup hp hr hf => ?_⟩
    · refine ⟨_, exec_internalError hs hc hm (if_pos hfrz) hn, rfl, rfl, rfl, rfl, rfl, errLine_of_intUe rfl, rfl, rfl, rfl,
        rfl, rfl⟩
    · have hb := restartBegun_beginRestart (intError s e)
      refine ⟨_, exec_internalError hs hc hm ((if_neg (by rw [hfrz]; exact Bool.false_ne_true)).trans ((if_pos hup).trans (orderRestart_begins hr hp hf)))
        (hb.need.trans hn), hb.err, errLine_of_intUe (by rw [hb.err]; rfl), hb.restart, hb.ctrs, hb.mem, hb.lines, hb.orr⟩
  case meridianCorrected =>
    intro s hs hn
    show execInternalError .meridianCorrected s = _
    exact act_eq_next hs rfl hn
  case halts =>
    intro s hs hn hfrz
    show execMeridianSramError s = _
    exact act_eq_next hs (if_neg (by simp only [hfrz, Bool.false_and, Bool.false_eq_true, not_false_eq_true])) hn
  case haltsFrozen =>
    intro s hs hn hfrz
    refine ⟨_, (show execMeridianSramError s = _ from act_eq_next hs (if_pos ?_) hn), rfl, rfl, rfl, rfl, rfl, rfl⟩
    simp [hfrz, not_frozen_of_live hs]
  case idle =>
    intro s k hs hn hp hj
    exact exec_tileParityError hs hp (scatGo_of_none hj) hn
  case hint =>
    intro s k st wy hs hn hp hj
    exact exec_tileParityError hs hp (scatGo_of_none hj) hn
  case xlate =>
    intro s k i hs hn hp hj
    exact exec_tileParityError hs hp (scatGo_of_none hj) hn
  case other =>
    intro s k uid u hs hp hu ht hst hn hj
    exact ⟨_, exec_tileParityError hs hp rfl hn, fun v hv => unitLost_gone hu ht hst v (scatGo_units_subset _ hv)⟩
  case line =>
    intro s hs hn
    show execFreezeLine s = _
    exact act_eq_next hs rfl hn
  case event =>
    intro s e b cause u hs hn he
    have hev : ∃ there, eventFreeze s e = (b, cause, u, there) ∧ (there = true) := by
      rcases he with ⟨rfl, rfl, rfl, rfl, h⟩ | ⟨rfl, rfl, rfl, rfl, h⟩ | ⟨rfl, rfl, rfl, rfl, h⟩ | ⟨q, rfl, rfl, rfl, rfl⟩ |
        ⟨k, rfl, rfl, rfl, rfl⟩ | ⟨rfl, rfl, rfl⟩
      · exact ⟨_, rfl, h⟩
      · exact ⟨_, rfl, h⟩
      · exact ⟨_, rfl, decide_eq_true h⟩
      · exact ⟨_, rfl, rfl⟩
      · exact ⟨_, rfl, rfl⟩
      · exact ⟨_, rfl, rfl⟩
    obtain ⟨there, heq, rfl⟩ := hev
    rw [exec_freezeOnEvent hs hn heq]
    exact ⟨fun hfrz => by rw [hfrz]; rfl, fun hfrz => by rw [hfrz]; rfl⟩
  case settled =>
    intro s h
    exact congrArg Host.Outcome.next (if_pos h)

end Sys2Proof.Machine
end
